-- ==== Sys2Proof/Word.lean ====
section
/-! DEFINITION. Word.lean: the machine's words, lanes and bytes, and their plainest arithmetic. -/

namespace Sys2Proof

/-- A 64-bit scalar value (R23: s registers, R24: the wide system registers). -/
abbrev Word := BitVec 64

/-- A halfword of code (R39). -/
abbrev Half := BitVec 16

/-- A 32-bit vector lane (R23). -/
abbrev Lane := BitVec 32

/-- A byte of memory. -/
abbrev Byte := BitVec 8

/-- A bit as a one-or-zero natural. -/
def bit (b : Bool) : Nat := if b then 1 else 0

/-- Bits hi:lo of a natural (R2). -/
def bitsOf (x lo width : Nat) : Nat := (x >>> lo) % 2 ^ width

end Sys2Proof
end

