-- ==== Sys2Proof/Machine/Maps.lean ====
section
/-! DEFINITION. Machine/Maps.lean: sparse maps by natural number, sorted lists of keys, and the memory list of
cells in its one canonical form. -/

namespace Sys2Proof.Machine

/-- A sparse map: keys strictly rising; a key that is not listed has its unit's reset contents. -/
abbrev Map (α : Type) := List (Nat × α)

/-- What a key holds, if it is listed. -/
def Map.get? {α : Type} : Map α → Nat → Option α
  | [], _ => none
  | (k, x) :: m, n => if n = k then some x else Map.get? m n

/-- What a key holds, with the contents of an unlisted unit. -/
def Map.get {α : Type} (m : Map α) (n : Nat) (d : α) : α :=
  match Map.get? m n with
  | some x => x
  | none => d

/-- A key's contents replaced, or the key listed in its place. -/
def Map.set {α : Type} : Map α → Nat → α → Map α
  | [], n, y => [(n, y)]
  | (k, x) :: m, n, y =>
    if n < k then (n, y) :: (k, x) :: m
    else if n = k then (n, y) :: m
    else (k, x) :: Map.set m n y

/-- A key no longer listed. -/
def Map.drop {α : Type} : Map α → Nat → Map α
  | [], _ => []
  | (k, x) :: m, n => if n = k then m else (k, x) :: Map.drop m n

/-- Every listed unit changed by one function of its key and contents. -/
def Map.mapKV {α : Type} (f : Nat → α → α) : Map α → Map α
  | [] => []
  | (k, x) :: m => (k, f k x) :: Map.mapKV f m

/-- A list with each element's index. -/
def indexed {α : Type} (l : List α) : List (Nat × α) := (List.range l.length).zip l

/-- A key in a strictly rising list of keys. -/
def Keys.mem : List Nat → Nat → Bool
  | [], _ => false
  | k :: ks, n => n == k || Keys.mem ks n

/-- A key put into a strictly rising list. -/
def Keys.insert : List Nat → Nat → List Nat
  | [], n => [n]
  | k :: ks, n => if n < k then n :: k :: ks else if n = k then k :: ks else k :: Keys.insert ks n

/-- A key taken out. -/
def Keys.remove : List Nat → Nat → List Nat
  | [], _ => []
  | k :: ks, n => if n = k then ks else k :: Keys.remove ks n

/-- What a byte of memory that nothing has written reads as: bring-up zeroes every memory (R393).
DESIGN CHOICE, log 13. -/
def unlisted : Byte := 0

/-- One byte of the memory list. -/
def Memory.read : List (Nat × Byte) → Nat → Byte
  | [], _ => unlisted
  | (k, b) :: m, a => if a = k then b else Memory.read m a

/-- The memory list with one byte written, in canonical form: the value an unlisted byte reads as removes the entry. -/
def Memory.write : List (Nat × Byte) → Nat → Byte → List (Nat × Byte)
  | [], a, v => if v = unlisted then [] else [(a, v)]
  | (k, b) :: m, a, v =>
    if a < k then (if v = unlisted then (k, b) :: m else (a, v) :: (k, b) :: m)
    else if a = k then (if v = unlisted then m else (a, v) :: m)
    else (k, b) :: Memory.write m a v

/-- Strictly above every key of the list that follows. -/
def Memory.above (a : Nat) : List (Nat × Byte) → Bool
  | [] => true
  | (k, _) :: _ => decide (a < k)

/-- The canonical form: addresses strictly rising, and no entry equal to what an unlisted address reads as. -/
def Memory.wf : List (Nat × Byte) → Bool
  | [] => true
  | (k, b) :: m => Memory.above k m && b != unlisted && Memory.wf m

/-- Successive bytes read. -/
def Memory.readBytes (m : List (Nat × Byte)) (a : Nat) : Nat → List Byte
  | 0 => []
  | n + 1 => Memory.read m a :: Memory.readBytes m (a + 1) n

/-- Successive bytes written. -/
def Memory.writeBytes (m : List (Nat × Byte)) (a : Nat) : List Byte → List (Nat × Byte)
  | [] => m
  | b :: bs => Memory.writeBytes (Memory.write m a b) (a + 1) bs

/-- A little-endian number from its bytes (R2). -/
def ofBytes : List Byte → Nat
  | [] => 0
  | b :: bs => b.toNat + 256 * ofBytes bs

/-- The n low bytes of a number, little-endian (R2). -/
def toBytes : Nat → Nat → List Byte
  | 0, _ => []
  | n + 1, x => BitVec.ofNat 8 x :: toBytes n (x / 256)

/-- A little-endian field of n bytes. -/
def fieldAt (d : List Byte) (off n : Nat) : Nat := ofBytes ((d.drop off).take n)

end Sys2Proof.Machine
end

