-- ==== Sys2Proof/Machine/Sha.lean ====
section
/-! DEFINITION. Machine/Sha.lean: SHA-256 (FIPS 180-4), which R321 and R371 name for measurements and digests. -/

namespace Sys2Proof.Machine

/-! ## The compression function -/

/-- The round constants. -/
def shaK : List Lane :=
  [0x428A2F98, 0x71374491, 0xB5C0FBCF, 0xE9B5DBA5, 0x3956C25B, 0x59F111F1, 0x923F82A4, 0xAB1C5ED5] ++
  [0xD807AA98, 0x12835B01, 0x243185BE, 0x550C7DC3, 0x72BE5D74, 0x80DEB1FE, 0x9BDC06A7, 0xC19BF174] ++
  [0xE49B69C1, 0xEFBE4786, 0x0FC19DC6, 0x240CA1CC, 0x2DE92C6F, 0x4A7484AA, 0x5CB0A9DC, 0x76F988DA] ++
  [0x983E5152, 0xA831C66D, 0xB00327C8, 0xBF597FC7, 0xC6E00BF3, 0xD5A79147, 0x06CA6351, 0x14292967] ++
  [0x27B70A85, 0x2E1B2138, 0x4D2C6DFC, 0x53380D13, 0x650A7354, 0x766A0ABB, 0x81C2C92E, 0x92722C85] ++
  [0xA2BFE8A1, 0xA81A664B, 0xC24B8B70, 0xC76C51A3, 0xD192E819, 0xD6990624, 0xF40E3585, 0x106AA070] ++
  [0x19A4C116, 0x1E376C08, 0x2748774C, 0x34B0BCB5, 0x391C0CB3, 0x4ED8AA4A, 0x5B9CCA4F, 0x682E6FF3] ++
  [0x748F82EE, 0x78A5636F, 0x84C87814, 0x8CC70208, 0x90BEFFFA, 0xA4506CEB, 0xBEF9A3F7, 0xC67178F2]

/-- The initial hash value. -/
def shaInit : List Lane :=
  [0x6A09E667, 0xBB67AE85, 0x3C6EF372, 0xA54FF53A, 0x510E527F, 0x9B05688C, 0x1F83D9AB, 0x5BE0CD19]

def rotr (x : Lane) (n : Nat) : Lane := x >>> n ||| x <<< (32 - n)

/-- The message schedule beyond a block's words: the last 16 words, newest first, and how many are still to come. -/
def shaExpand : Nat → List Lane → List Lane
  | 0, _ => []
  | n + 1, w =>
    let w2 := w.getD 1 0
    let w15 := w.getD 14 0
    let x := (rotr w2 17 ^^^ rotr w2 19 ^^^ w2 >>> 10) + w.getD 6 0 + (rotr w15 7 ^^^ rotr w15 18 ^^^ w15 >>> 3) + w.getD 15 0
    x :: shaExpand n (x :: w.take 15)

/-- The working variables. -/
structure ShaVars where
  a : Lane
  b : Lane
  c : Lane
  d : Lane
  e : Lane
  f : Lane
  g : Lane
  h : Lane

def shaRound (v : ShaVars) (kw : Lane × Lane) : ShaVars :=
  let s1 := rotr v.e 6 ^^^ rotr v.e 11 ^^^ rotr v.e 25
  let ch := (v.e &&& v.f) ^^^ (~~~v.e &&& v.g)
  let t1 := v.h + s1 + ch + kw.1 + kw.2
  let s0 := rotr v.a 2 ^^^ rotr v.a 13 ^^^ rotr v.a 22
  let maj := (v.a &&& v.b) ^^^ (v.a &&& v.c) ^^^ (v.b &&& v.c)
  { a := t1 + (s0 + maj), b := v.a, c := v.b, d := v.c, e := v.d + t1, f := v.e, g := v.f, h := v.g }

/-- One block of 16 words. -/
def shaBlock (h : List Lane) (w : List Lane) : List Lane :=
  let v : ShaVars := { a := h.getD 0 0, b := h.getD 1 0, c := h.getD 2 0, d := h.getD 3 0, e := h.getD 4 0
                       f := h.getD 5 0, g := h.getD 6 0, h := h.getD 7 0 }
  let r := (shaK.zip (w ++ shaExpand 48 w.reverse)).foldl shaRound v
  List.zipWith (fun x y => x + y) h [r.a, r.b, r.c, r.d, r.e, r.f, r.g, r.h]

/-! ## Bytes -/

/-- Words of four bytes, the first byte highest. -/
def wordsBE : List Byte → List Lane
  | a :: b :: c :: d :: l => (a ++ b ++ c ++ d) :: wordsBE l
  | _ => []

/-- The words of a message in blocks of 16. The fuel is the number of blocks. -/
def shaBlocks : Nat → List Lane → List Lane → List Lane
  | 0, h, _ => h
  | n + 1, h, w => shaBlocks n (shaBlock h (w.take 16)) (w.drop 16)

/-- The padding of a message of n bytes: one bit, zeros, and the length in bits. -/
def shaPad (n : Nat) : List Byte := 0x80 :: List.replicate ((119 - n % 64) % 64) 0 ++ (toBytes 8 (8 * n)).reverse

/-- The 32 bytes of the digest of a message. -/
def sha256 (m : List Byte) : List Byte :=
  let p := m ++ shaPad m.length
  (shaBlocks (p.length / 64) shaInit (wordsBE p)).flatMap (fun w => (toBytes 4 w.toNat).reverse)

/-- A digest as a number, byte 0 lowest (R2, R321). -/
def digestOf (m : List Byte) : BitVec 256 := BitVec.ofNat 256 (ofBytes (sha256 m))

end Sys2Proof.Machine
end

