-- ==== Sys2Proof/Machine/Types.lean ====
section
/-! DEFINITION. Machine/Types.lean: the plain data types that instructions, events and the state share:
register sets, privileges, prefixes (R42 to R48), memory operands (R34), capabilities (R94), and what the
parties outside a tile bring with an event. -/

namespace Sys2Proof

/-- The register sets of a tile: the two live sets of R23, and the keeper state that R274 holds apart. -/
inductive SetId where
  | normal | urgent | keeper
  deriving DecidableEq, Repr

/-- The privilege levels of R30. -/
inductive Priv where
  | user | supervisor | keeper
  deriving DecidableEq, Repr

/-- A capability (R94): 128 bits and the tag beside them. -/
structure Cap where
  tag  : Bool
  bits : BitVec 128
  deriving DecidableEq, Repr

/-- The null capability: untagged and all zero (R23). -/
def Cap.null : Cap := { tag := false, bits := 0 }

/-- Where a repeat takes its count from (R44, bit SRC). -/
inductive RepCount where
  | imm (n : BitVec 7)
  | reg (r : BitVec 5)
  deriving DecidableEq, Repr

/-- The repeat prefix (R44). -/
structure RepPfx where
  step1 : Bool
  step2 : Bool
  count : RepCount
  deriving DecidableEq, Repr

/-- Rounding modes (R45); dflt is mode 000, the instruction's default. -/
inductive Round where
  | dflt | rn | rz | ru | rd | ro
  deriving DecidableEq, Repr

/-- The numeric modifier (R45): zero is lane-fault mode 01, report its k register. -/
structure NumMod where
  round  : Round
  zero   : Bool
  report : BitVec 3
  deriving DecidableEq, Repr

/-- Orders of the ordering modifier (R45, R196). -/
inductive Order where
  | relaxed | acq | rel | ar
  deriving DecidableEq, Repr

/-- Scopes of the ordering modifier (R45, R196); dflt is 000. -/
inductive Scope where
  | dflt | tile | cluster | partition | device | system
  deriving DecidableEq, Repr

/-- The ordering modifier (R45). -/
structure OrdMod where
  order : Order
  scope : Scope
  deriving DecidableEq, Repr

/-- The extra-register prefix (R46): fields X and Y. -/
structure XPfx where
  x : BitVec 5
  y : BitVec 5
  deriving DecidableEq, Repr

/-- The prefixes of one chain and the settle bit of its base word (R35, R42 to R48). The page prefix is
not here: the constructor of the instruction fixes the page. -/
structure Pfx where
  settle : Bool
  rep    : Option RepPfx
  num    : Option NumMod
  ord    : Option OrdMod
  wait   : Option (BitVec 8)
  xr     : Option XPfx
  imm    : List (BitVec 10)
  deriving DecidableEq, Repr

/-- The memory-layout operand (R34): capability register and mode bit (true is mode 1). -/
structure MemOp where
  cap    : BitVec 4
  regOff : Bool
  deriving DecidableEq, Repr

/-- The conditions of R78. -/
inductive Cond where
  | eq | ne | lt | ge | lo | hs | le | gt | ls | hi
  deriving DecidableEq, Repr

/-- A handler entry image (R157): sealed entry capability, port word, control word. -/
structure EntryImage where
  cap  : Cap
  port : Word
  ctrl : Word
  deriving DecidableEq, Repr

/-- One entry of a quarantine queue (R338): a run of 64 KiB frames or a capsule, when the narrowing that unmapped the
frames was performed, and the two epochs. -/
structure QItem where
  frame    : Nat
  count    : Nat
  capsule  : Option Nat
  narrowed : Nat
  free    : Nat
  sweep   : Nat
  deriving DecidableEq, Repr

/-- A window capability as partition services make it (R352): a region of the window's slot, and the accesses it grants,
put in a granule of the owning context's scratchpad on a tile. -/
structure WinHand where
  tile : Nat
  gran : Nat
  off  : Nat
  len  : Nat
  rd   : Bool
  wr   : Bool
  deriving DecidableEq, Repr

/-- Device registers without a row of their own in the table of operations (R342, R352, R357, R367, R390);
readOnly stands for the registers whose every field is RO (R392, R339); hdm for one of the two HDM decoders with the
host range it is given (R341). A WIN write may hand the window's capability over. DESIGN CHOICE, log 84. -/
inductive DevReg where
  | qbase (q : Nat) | qctl (q : Nat) | cbase (q : Nat)
  | win (w : Nat) (hand : Option WinHand) | exp (e : Nat) | edgebud (ctx : Nat)
  | chan (n : Nat) | hdm (i base len : Nat) | errctl | readOnly (offset : Nat)
  deriving DecidableEq, Repr

/-- What a host access names (R341): a host physical address, or a place in one of the device's two BARs. -/
inductive HostAddr where
  | memory (a : Nat) | bar0 (off : Nat) | bar2 (off : Nat)
  deriving DecidableEq, Repr

/-- A host access. -/
inductive HostOp where
  | read (n : Nat) | write (data : List Byte)
  deriving DecidableEq, Repr

/-- A unit on a Moatal Link (R350): what its header names (source and destination package, export, group, attempt,
offset, valid payload units) and its payload of at most 64 bytes; its world and poison travel with it (R363, R379). tile
and push name the sender's copy, so that a drop notice or a response finds it. -/
structure FabricUnit where
  src     : Nat
  pkg     : Nat
  export_ : Nat
  group   : Nat
  attempt : Nat
  off     : Nat
  units   : Nat
  secure  : Bool
  tile    : Nat
  push    : Nat
  dst     : Nat
  data    : List Byte
  poison  : Bool
  deriving DecidableEq, Repr

/-- What the package sends over Moatal Link (R350): the kinds of its table, with source and destination package; an abort
token names the peer's export too, whose context and group it is for. -/
inductive Outbound where
  | write (u : FabricUnit)
  | readRequest (u : FabricUnit)
  | readResponse (u : FabricUnit)
  | dropNotice (u : FabricUnit)
  | abortToken (src pkg export_ group attempt : Nat)
  | flushRequest (src pkg queue seq : Nat)
  | flushAck (src pkg queue seq : Nat)
  deriving DecidableEq, Repr

/-- One 4 KiB chunk of a channel (R367, R368): channel, half (true from the device), counter, host virtual address, GCM
tag, ciphertext. -/
structure Chunk where
  chan   : Nat
  toHost : Bool
  ctr    : Nat
  addr   : Nat
  tag    : BitVec 128
  data   : List Byte
  deriving DecidableEq, Repr

/-- What a write of a key slot brings (R364): the slot's word, and the chunk in which its tenant sends the key. -/
structure KeyWrite where
  value    : Word
  material : Option Chunk
  deriving DecidableEq, Repr

/-- What a checkpoint is asked with (R374): the channel it goes out through, and the chunks of it that bring the request: a
count in 8 bytes, then that many SHA-256 digests of blocks that stand as replicas. -/
structure CheckpointAsk where
  chan    : Nat
  request : List Chunk
  deriving DecidableEq, Repr

/-- Installer firmware (R371): its image and its version. -/
structure Firmware where
  image   : List Byte
  version : Nat
  deriving DecidableEq, Repr

/-- An error of a word of memory (R378, R379): one that its code corrects, one that it cannot correct and a patrol read finds,
and one that it cannot correct and nothing has read yet. -/
inductive WordError where
  | corrected
  | found
  | latent
  deriving DecidableEq, Repr

/-- A capsule as a checkpoint holds it (R318): its old number, installing context, stamp, retained form. -/
structure CapsuleImage where
  number : Nat
  ctx    : Nat
  gen    : Nat
  meas   : BitVec 256
  image  : List Byte
  deriving DecidableEq, Repr

/-- What a restore reads through a channel (R375), all of it in chunks: the manifest, which names each block's address space
and virtual address and its digest, ascending; the blocks it names, each its 65,536 bytes and its 512-byte tag bitmap; capsules
and save areas. -/
structure Manifest where
  chan     : Nat
  index    : List Chunk
  blocks   : List (List Chunk)
  capsules : List (List Chunk)
  areas    : List (List Chunk)
  deriving DecidableEq, Repr

/-- What partition services and Halo give a context at registration (R25, R325, R364, R373). -/
structure RegInfo where
  priv      : Priv
  secure    : Bool
  tenant    : Nat
  asid      : Nat
  keyId     : Nat
  root      : Nat
  data      : Cap
  parts     : List Nat
  protect   : Bool
  handle    : Nat
  deriving DecidableEq, Repr

/-- What Halo assigns when it makes a context resident on a tile (R276). -/
structure ResInfo where
  share    : Nat
  ctrLo    : Nat
  ctrLen   : Nat
  barLo    : Nat
  barLen   : Nat
  cmemOff  : Nat
  cmemLen  : Nat
  saveAddr : Nat
  deriving DecidableEq, Repr

namespace Machine

/-- The solve state (R289, R298). -/
structure Solve where
  tol     : Lane
  itceil  : BitVec 32
  slvk    : BitVec 32
  damp    : Lane
  lambda  : Lane
  cepoch  : BitVec 32
  active  : Bool
  scope   : Bool
  rel     : Bool
  contrib : Bool
  shape   : Bool
  prev    : Bool
  ntm1    : Nat
  depth   : Nat
  fill    : Nat
  head    : Nat
  drops   : Nat
  held    : Bool
  desc0   : Word
  desc1   : Word
  start   : Nat
  tileCap : Cap
  histCap : Cap
  nrm     : Lane
  ngm     : Lane
  thr     : Lane
  gammas  : List Lane
  cseq    : Nat
  result  : Option (Nat × Nat × List Lane)
  deriving DecidableEq, Repr

end Machine

/-- What Contrail does to a stopped or saved firing (R322): its registers, flags, loops, tokens, system registers, trap
state and program counter; acc and planes; solve and copy state; memory through one of its capability registers. A read
changes nothing; hold and release begin and end Contrail's hold of the context on the tile, and a hold brings the tenant's
authorisation in a chunk of a channel of the context. -/
inductive DebugAccess where
  | read
  | setS (r : BitVec 5) (v : Word)
  | setC (r : BitVec 4) (v : BitVec 128)
  | setV (r : BitVec 5) (lane : BitVec 6) (v : Lane)
  | setK (r : BitVec 3) (v : Word)
  | setFlags (z n c v : Bool)
  | setLoops (saved : Bool) (l : List (Nat × Nat × Nat × Word))
  | setToken (i : BitVec 3) (cnt : Nat) (stat : BitVec 16)
  | setSys (n : Nat) (v : Word)
  | setPc (off : Nat)
  | setEpcc (off : Nat)
  | setInTrap (on : Bool)
  | setAcc (idx : Nat) (v : Lane)
  | setPlane (shadow : Bool) (idx : Nat) (v : Lane)
  | setOff (v : Nat) | setOutputs (v : Nat)
  | setMtx (mrnd done : Nat) (aclsInt empty nbrCls : Bool)
  | setQueue (l : List (Nat × Nat × Nat × Nat))
  | setStaging (off : Nat) (v : Byte)
  | setSolve (v : Machine.Solve)
  | setCopy (idx row done written : Nat)
  | writeMem (c : BitVec 4) (off : Word) (data : List Byte)
  | saved (serial : Nat) (acc : DebugAccess)
  | hold (auth : Chunk) | release
  deriving DecidableEq, Repr

end Sys2Proof
end

