-- ==== Sys2Proof/Machine/Event.lean ====
section
/-! DEFINITION. Machine/Event.lean: the events that the machine itself brings about, by name and place. Each is a row
of the table of operations too, or the second part of one (entryWrite of ENTRY_REWRITE, postedDone of EDGE_CHUNK, rebuildEnd of `csl.rbld`, restoreGo of RESTORE); Machine/Sched.lean gives it the
same meaning. -/

namespace Sys2Proof.Machine

inductive Event where
  | resultReturn (tile : Nat) (set : SetId)
  | sweepComplete (epoch : Nat)
  | refreshStart (bank : Nat)
  | refreshEnd (bank : Nat)
  | updateMerge (tile line : Nat)
  | t8TableEffect (tile : Nat) (set : SetId)
  | lds (tile : Nat)
  | swap (tile : Nat)
  | str (tile : Nat)
  | mrot (tile : Nat)
  | mrotArrival (tile : Nat)
  | rd (tile : Nat)
  | zero (tile : Nat)
  | rdz (tile : Nat)
  | messageArrival (idx : Nat)
  | queueAdmit (tile idx : Nat)
  | unboundDelivery (tile ctx tag : Nat)
  | entryWrite (tile ctx tag : Nat)
  | makeFiring (tile ctx tag : Nat)
  | taskTake (tile : Nat)
  | taskSteal (tile : Nat)
  | launchRecord (queue : Nat)
  | dispatchMessage (slot : Nat)
  | launchCompletion (slot : Nat)
  | releaseFlush (slot : Nat)
  | horizonUpdate (part : Nat)
  | commit (tile serial : Nat)
  | rerun (tile serial : Nat)
  | pin (tile : Nat) (set : SetId)
  | copyStart (tile cpSlot : Nat)
  | copyWriteUnit (tile cpSlot : Nat)
  | copyComplete (tile cpSlot : Nat)
  | copyStop (tile cpSlot code : Nat)
  | completionMessage (idx : Nat)
  | resumePacket (idx : Nat)
  | edgeChunk (tile cpSlot : Nat)
  | postedDone (idx : Nat)
  | budgetRefill (ctx : Nat)
  | clusterRound (cluster ctx : Nat)
  | terminate (tile : Nat) (set : SetId)
  | budgetExpiry (tile : Nat)
  | graceExpiry (tile : Nat)
  | sliceEnd (tile : Nat)
  | leaseExpiry (idx : Nat)
  | qnowAdvance
  | qdoneAdvance
  | quarantineRelease (part idx : Nat)
  | acquireRecord (queue : Nat)
  | releaseRecord (queue : Nat)
  | collectiveAbort (queue : Nat)
  | capsuleRelease (queue : Nat)
  | hostSync (queue : Nat)
  | reservedRecord (queue : Nat)
  | rebuildEnd (capsule : Nat)
  | scrub (part : Nat)
  | partitionRelease (part : Nat)
  | split (part : Nat)
  | checkpoint (part : Nat)
  | restoreGo (part : Nat)
  | portDown (port : Nat)
  | patrolRead (key : Nat)
  | machineCheck (key : Nat)
  | bringUp
  deriving DecidableEq, Repr

end Sys2Proof.Machine
end

