-- ==== Sys2Proof/Syntax.lean ====
section
/-! DEFINITION. Syntax.lean: the instructions and events of the machine, one constructor for each row of the
table of operations (R53 and the homes of the pages). An instruction carries its prefixes (p) and its base-word
fields: d is bits 9:5 and a is bits 4:0 (R34), m the memory-layout operand, i the imm5, off the J offset. The rows
with no encoding are the events of the engines, of Halo, of the dispatchers and of the world outside: they carry
what names their place and what their party brings. -/

namespace Sys2Proof

inductive Instr where
  -- Page 0: scalar integer, address and control (R81 to R90)
  | mv (p : Pfx) (d : BitVec 5) (a : BitVec 5)
  | add (p : Pfx) (d : BitVec 5) (a : BitVec 5)
  | sub (p : Pfx) (d : BitVec 5) (a : BitVec 5)
  | mul (p : Pfx) (d : BitVec 5) (a : BitVec 5)
  | mulh (p : Pfx) (d : BitVec 5) (a : BitVec 5)
  | div (p : Pfx) (d : BitVec 5) (a : BitVec 5)
  | rem (p : Pfx) (d : BitVec 5) (a : BitVec 5)
  | and (p : Pfx) (d : BitVec 5) (a : BitVec 5)
  | or (p : Pfx) (d : BitVec 5) (a : BitVec 5)
  | xor (p : Pfx) (d : BitVec 5) (a : BitVec 5)
  | shl (p : Pfx) (d : BitVec 5) (a : BitVec 5)
  | shr (p : Pfx) (d : BitVec 5) (a : BitVec 5)
  | sra (p : Pfx) (d : BitVec 5) (a : BitVec 5)
  | cmp (p : Pfx) (d : BitVec 5) (a : BitVec 5)
  | addi (p : Pfx) (d : BitVec 5) (i : BitVec 5)
  | li (p : Pfx) (d : BitVec 5) (i : BitVec 5)
  | cmpi (p : Pfx) (d : BitVec 5) (i : BitVec 5)
  | shli (p : Pfx) (d : BitVec 5) (i : BitVec 5)
  | shri (p : Pfx) (d : BitVec 5) (i : BitVec 5)
  | srai (p : Pfx) (d : BitVec 5) (i : BitVec 5)
  | rori (p : Pfx) (d : BitVec 5) (i : BitVec 5)
  | clz (p : Pfx) (d : BitVec 5)
  | ctz (p : Pfx) (d : BitVec 5)
  | popc (p : Pfx) (d : BitVec 5)
  | brev (p : Pfx) (d : BitVec 5)
  | not (p : Pfx) (d : BitVec 5)
  | neg (p : Pfx) (d : BitVec 5)
  | abs (p : Pfx) (d : BitVec 5)
  | sextB (p : Pfx) (d : BitVec 5)
  | sextH (p : Pfx) (d : BitVec 5)
  | sextW (p : Pfx) (d : BitVec 5)
  | zextB (p : Pfx) (d : BitVec 5)
  | zextH (p : Pfx) (d : BitVec 5)
  | zextW (p : Pfx) (d : BitVec 5)
  | setc (p : Pfx) (d : BitVec 5) (c : Cond)
  | loop (p : Pfx) (d : BitVec 5) (i : BitVec 5)
  | b (p : Pfx) (off : BitVec 10)
  | beq (p : Pfx) (off : BitVec 10)
  | bne (p : Pfx) (off : BitVec 10)
  | blt (p : Pfx) (off : BitVec 10)
  | bge (p : Pfx) (off : BitVec 10)
  | call (p : Pfx) (d : BitVec 4) (a : BitVec 4)
  | jmp (p : Pfx) (a : BitVec 4)
  -- Page 1: capabilities (R100)
  | cMv (p : Pfx) (d : BitVec 4) (a : BitVec 4)
  | cAdd (p : Pfx) (d : BitVec 4) (a : BitVec 5)
  | cAddi (p : Pfx) (d : BitVec 4) (i : BitVec 5)
  | cSetaddr (p : Pfx) (d : BitVec 4) (a : BitVec 5)
  | cSetb (p : Pfx) (d : BitVec 4) (a : BitVec 5)
  | cSetbx (p : Pfx) (d : BitVec 4) (a : BitVec 5)
  | cAndp (p : Pfx) (d : BitVec 4) (a : BitVec 5)
  | cSeal (p : Pfx) (d : BitVec 4) (a : BitVec 4)
  | cUnseal (p : Pfx) (d : BitVec 4) (a : BitVec 4)
  | cInv (p : Pfx) (d : BitVec 4) (a : BitVec 4)
  | cGaddr (p : Pfx) (d : BitVec 5) (a : BitVec 4)
  | cGbase (p : Pfx) (d : BitVec 5) (a : BitVec 4)
  | cGlen (p : Pfx) (d : BitVec 5) (a : BitVec 4)
  | cGperm (p : Pfx) (d : BitVec 5) (a : BitVec 4)
  | cGtype (p : Pfx) (d : BitVec 5) (a : BitVec 4)
  | cGtag (p : Pfx) (d : BitVec 5) (a : BitVec 4)
  | cClrtag (p : Pfx) (d : BitVec 4) (a : BitVec 4)
  | cLd (p : Pfx) (d : BitVec 4) (m : MemOp)
  | cSt (p : Pfx) (d : BitVec 4) (m : MemOp)
  | cFit (p : Pfx) (d : BitVec 5) (a : BitVec 5)
  | cSnap (p : Pfx) (d : BitVec 4) (a : BitVec 5)
  | cPaint (p : Pfx) (d : BitVec 4) (a : BitVec 5)
  | cSweep (p : Pfx) (d : BitVec 5) (a : BitVec 5)
  | cSweepq (p : Pfx) (d : BitVec 5) (a : BitVec 5)
  -- Page 2: memory access (R122)
  | ldW (p : Pfx) (d : BitVec 5) (m : MemOp)
  | stW (p : Pfx) (d : BitVec 5) (m : MemOp)
  | ldD (p : Pfx) (d : BitVec 5) (m : MemOp)
  | stD (p : Pfx) (d : BitVec 5) (m : MemOp)
  | ldB (p : Pfx) (d : BitVec 5) (m : MemOp)
  | stB (p : Pfx) (d : BitVec 5) (m : MemOp)
  | ldH (p : Pfx) (d : BitVec 5) (m : MemOp)
  | stH (p : Pfx) (d : BitVec 5) (m : MemOp)
  | vLd (p : Pfx) (d : BitVec 5) (m : MemOp)
  | vSt (p : Pfx) (d : BitVec 5) (m : MemOp)
  | ldWz (p : Pfx) (d : BitVec 5) (m : MemOp)
  | ldBz (p : Pfx) (d : BitVec 5) (m : MemOp)
  | ldHz (p : Pfx) (d : BitVec 5) (m : MemOp)
  | vGth (p : Pfx) (d : BitVec 5) (m : MemOp)
  | vSct (p : Pfx) (d : BitVec 5) (m : MemOp)
  | vLdb (p : Pfx) (d : BitVec 5) (m : MemOp)
  | vLds (p : Pfx) (d : BitVec 5) (m : MemOp)
  | vSts (p : Pfx) (d : BitVec 5) (m : MemOp)
  | wsQ (p : Pfx) (d : BitVec 5) (m : MemOp)
  | pf (p : Pfx) (d : BitVec 5) (m : MemOp)
  | kLd (p : Pfx) (d : BitVec 3) (m : MemOp)
  | kSt (p : Pfx) (d : BitVec 3) (m : MemOp)
  -- Page 3: atomics and synchronisation (R208)
  | amAdd (p : Pfx) (d : BitVec 5) (m : MemOp)
  | amAnd (p : Pfx) (d : BitVec 5) (m : MemOp)
  | amOr (p : Pfx) (d : BitVec 5) (m : MemOp)
  | amXor (p : Pfx) (d : BitVec 5) (m : MemOp)
  | amMin (p : Pfx) (d : BitVec 5) (m : MemOp)
  | amMax (p : Pfx) (d : BitVec 5) (m : MemOp)
  | amSwp (p : Pfx) (d : BitVec 5) (m : MemOp)
  | amCas (p : Pfx) (d : BitVec 5) (m : MemOp)
  | amFadd (p : Pfx) (d : BitVec 5) (m : MemOp)
  | amUpdAdd (p : Pfx) (d : BitVec 5) (m : MemOp)
  | amUpdOr (p : Pfx) (d : BitVec 5) (m : MemOp)
  | amUpdAnd (p : Pfx) (d : BitVec 5) (m : MemOp)
  | amUpdXor (p : Pfx) (d : BitVec 5) (m : MemOp)
  | amUpdMin (p : Pfx) (d : BitVec 5) (m : MemOp)
  | amUpdMax (p : Pfx) (d : BitVec 5) (m : MemOp)
  | amUpdFadd (p : Pfx) (d : BitVec 5) (m : MemOp)
  | swInit (p : Pfx) (d : BitVec 5) (m : MemOp)
  | swWait (p : Pfx) (d : BitVec 5) (m : MemOp)
  | swGen (p : Pfx) (d : BitVec 5) (m : MemOp)
  | barArv (p : Pfx) (d : BitVec 5) (i : BitVec 5)
  | barWt (p : Pfx) (d : BitVec 5) (i : BitVec 5)
  | barCfg (p : Pfx) (d : BitVec 5) (i : BitVec 5)
  | mbPut (p : Pfx) (d : BitVec 5) (a : BitVec 5)
  | mbGet (p : Pfx) (d : BitVec 5) (a : BitVec 5)
  | mbTest (p : Pfx) (d : BitVec 5)
  | fence (p : Pfx) (d : BitVec 5) (i : BitVec 5)
  -- Page 4: vector (R140)
  | vMv (p : Pfx) (d : BitVec 5) (a : BitVec 5)
  | vAdd (p : Pfx) (d : BitVec 5) (a : BitVec 5)
  | vSub (p : Pfx) (d : BitVec 5) (a : BitVec 5)
  | vMul (p : Pfx) (d : BitVec 5) (a : BitVec 5)
  | vFma (p : Pfx) (d : BitVec 5) (a : BitVec 5)
  | vFms (p : Pfx) (d : BitVec 5) (a : BitVec 5)
  | vMin (p : Pfx) (d : BitVec 5) (a : BitVec 5)
  | vMax (p : Pfx) (d : BitVec 5) (a : BitVec 5)
  | vAbs (p : Pfx) (d : BitVec 5) (a : BitVec 5)
  | vNeg (p : Pfx) (d : BitVec 5) (a : BitVec 5)
  | vIadd (p : Pfx) (d : BitVec 5) (a : BitVec 5)
  | vIsub (p : Pfx) (d : BitVec 5) (a : BitVec 5)
  | vImul (p : Pfx) (d : BitVec 5) (a : BitVec 5)
  | vImin (p : Pfx) (d : BitVec 5) (a : BitVec 5)
  | vImax (p : Pfx) (d : BitVec 5) (a : BitVec 5)
  | vAnd (p : Pfx) (d : BitVec 5) (a : BitVec 5)
  | vOr (p : Pfx) (d : BitVec 5) (a : BitVec 5)
  | vXor (p : Pfx) (d : BitVec 5) (a : BitVec 5)
  | vShl (p : Pfx) (d : BitVec 5) (a : BitVec 5)
  | vShr (p : Pfx) (d : BitVec 5) (a : BitVec 5)
  | vSra (p : Pfx) (d : BitVec 5) (a : BitVec 5)
  | vFeq (p : Pfx) (d : BitVec 5) (a : BitVec 5)
  | vFlt (p : Pfx) (d : BitVec 5) (a : BitVec 5)
  | vFle (p : Pfx) (d : BitVec 5) (a : BitVec 5)
  | vFun (p : Pfx) (d : BitVec 5) (a : BitVec 5)
  | vIeq (p : Pfx) (d : BitVec 5) (a : BitVec 5)
  | vIlt (p : Pfx) (d : BitVec 5) (a : BitVec 5)
  | vIle (p : Pfx) (d : BitVec 5) (a : BitVec 5)
  | vIlo (p : Pfx) (d : BitVec 5) (a : BitVec 5)
  | vIabs (p : Pfx) (d : BitVec 5) (a : BitVec 5)
  | vBcs (p : Pfx) (d : BitVec 5) (a : BitVec 5)
  | vLi (p : Pfx) (d : BitVec 5) (i : BitVec 5)
  | kAnd (p : Pfx) (d : BitVec 3) (a : BitVec 3)
  | kOr (p : Pfx) (d : BitVec 3) (a : BitVec 3)
  | kXor (p : Pfx) (d : BitVec 3) (a : BitVec 3)
  | kAndn (p : Pfx) (d : BitVec 3) (a : BitVec 3)
  | kNot (p : Pfx) (d : BitVec 3) (a : BitVec 3)
  | kMv (p : Pfx) (d : BitVec 3) (a : BitVec 3)
  -- Page 5: vector (R140)
  | vCvtfi (p : Pfx) (d : BitVec 5) (a : BitVec 5)
  | vCvtif (p : Pfx) (d : BitVec 5) (a : BitVec 5)
  | vExp2 (p : Pfx) (d : BitVec 5) (a : BitVec 5)
  | vLog2 (p : Pfx) (d : BitVec 5) (a : BitVec 5)
  | vRcp (p : Pfx) (d : BitVec 5) (a : BitVec 5)
  | vRsq (p : Pfx) (d : BitVec 5) (a : BitVec 5)
  | vSqrt (p : Pfx) (d : BitVec 5) (a : BitVec 5)
  | vPerm (p : Pfx) (d : BitVec 5) (a : BitVec 5)
  | vBcl (p : Pfx) (d : BitVec 5) (i : BitVec 5)
  | vRot (p : Pfx) (d : BitVec 5) (i : BitVec 5)
  | vRsum (p : Pfx) (d : BitVec 5) (a : BitVec 5)
  | vRmax (p : Pfx) (d : BitVec 5) (a : BitVec 5)
  | vRmin (p : Pfx) (d : BitVec 5) (a : BitVec 5)
  | vIrsum (p : Pfx) (d : BitVec 5) (a : BitVec 5)
  | vT8dec (p : Pfx) (d : BitVec 5) (a : BitVec 5)
  | vT8enc (p : Pfx) (d : BitVec 5) (a : BitVec 5)
  | t8Ld (p : Pfx) (m : MemOp)
  | t8LdE4 (p : Pfx)
  | t8LdE5 (p : Pfx)
  | vExt (p : Pfx) (d : BitVec 5) (a : BitVec 5)
  | vIns (p : Pfx) (d : BitVec 5) (a : BitVec 5)
  | kPop (p : Pfx) (d : BitVec 5) (a : BitVec 3)
  | kFirst (p : Pfx) (d : BitVec 5) (a : BitVec 3)
  | vRnd (p : Pfx) (d : BitVec 5) (a : BitVec 5)
  | vCmpr (p : Pfx) (d : BitVec 5) (a : BitVec 5)
  -- Page 6: matrix (R231)
  | mLds (p : Pfx) (d : BitVec 5) (m : MemOp)
  | mStr (p : Pfx) (d : BitVec 5) (m : MemOp)
  | mMrot (p : Pfx) (d : BitVec 5) (m : MemOp)
  | mRd (p : Pfx) (d : BitVec 5) (m : MemOp)
  | mCmd (p : Pfx) (d : BitVec 5) (m : MemOp)
  | mRdz (p : Pfx) (d : BitVec 5) (m : MemOp)
  | mSwap (p : Pfx)
  | mZero (p : Pfx)
  | mDrain (p : Pfx)
  | mQ (p : Pfx) (d : BitVec 5)
  -- Page 7: handlers, messages and firings (R165)
  | endF (p : Pfx)
  | send (p : Pfx) (d : BitVec 5) (a : BitVec 5)
  | sendU (p : Pfx) (d : BitVec 5) (a : BitVec 5)
  | fork (p : Pfx) (d : BitVec 5) (a : BitVec 5)
  | join (p : Pfx) (a : BitVec 5)
  | jcInit (p : Pfx) (d : BitVec 5) (a : BitVec 5)
  | chunk (p : Pfx) (d : BitVec 5) (a : BitVec 5)
  | yield (p : Pfx)
  | hEn (p : Pfx) (a : BitVec 5)
  | hDis (p : Pfx) (a : BitVec 5)
  | hPend (p : Pfx) (a : BitVec 5)
  | hClrp (p : Pfx) (a : BitVec 5)
  | inPop (p : Pfx) (d : BitVec 5) (a : BitVec 5)
  | inCnt (p : Pfx) (d : BitVec 5) (a : BitVec 5)
  | widFld (p : Pfx) (d : BitVec 5) (i : BitVec 5)
  | tsAdd (p : Pfx) (d : BitVec 5) (i : BitVec 5)
  | hTag (p : Pfx) (d : BitVec 5) (a : BitVec 5)
  -- Page 8: copy and solve (R248, R291)
  | cp (p : Pfx) (d : BitVec 4) (a : BitVec 4)
  | cpTry (p : Pfx) (d : BitVec 4) (a : BitVec 4)
  | tkQ (p : Pfx) (d : BitVec 5) (a : BitVec 5)
  | slvBegin (p : Pfx) (d : BitVec 4) (a : BitVec 4)
  | slvEnd (p : Pfx)
  | slvHclr (p : Pfx)
  | slvQ (p : Pfx) (d : BitVec 5) (a : BitVec 5)
  | cpRsm (p : Pfx) (d : BitVec 5) (a : BitVec 5)
  -- Page 9: system and capsules (R269, R311)
  | rsr (p : Pfx) (d : BitVec 5) (i : BitVec 5)
  | wsr (p : Pfx) (d : BitVec 5) (i : BitVec 5)
  | kcallSliceEnd (p : Pfx) (i : BitVec 5)
  | kcallBudget (p : Pfx) (i : BitVec 5)
  | kcallStops (p : Pfx) (i : BitVec 5)
  | kcallUnbound (p : Pfx) (i : BitVec 5)
  | kcallRevoke (p : Pfx) (i : BitVec 5)
  | kcallSweepQuery (p : Pfx) (i : BitVec 5)
  | kcallOther (p : Pfx) (i : BitVec 5)
  | tret (p : Pfx)
  | tretSkip (p : Pfx)
  | cslInst (p : Pfx) (d : BitVec 4) (a : BitVec 4)
  | cslRbld (p : Pfx) (d : BitVec 5) (a : BitVec 4)
  | cslBind (p : Pfx) (d : BitVec 4) (a : BitVec 4)
  | cslQ (p : Pfx) (d : BitVec 5) (a : BitVec 4)
  | pairOn (p : Pfx) (d : BitVec 5) (a : BitVec 5)
  | pairOff (p : Pfx) (d : BitVec 5)
  | brk (p : Pfx) (i : BitVec 5)
  | ctxSv (p : Pfx) (a : BitVec 4)
  | ctxLd (p : Pfx) (d : BitVec 4) (a : BitVec 5)
  | accSv (p : Pfx) (a : BitVec 4)
  | accLd (p : Pfx) (a : BitVec 4)
  | idle (p : Pfx)
  -- Events
  | outstandingResultReturn (tile : Nat) (set : SetId)
  | sweepComplete (epoch : Nat)
  | refreshStart (bank : Nat)
  | refreshEnd (bank : Nat)
  | updateMerge (tile : Nat) (line : Nat)
  | t8TableEffect (tile : Nat) (set : SetId)
  | lds (tile : Nat)
  | swap (tile : Nat)
  | str (tile : Nat)
  | mrot (tile : Nat)
  | mrotArrival (tile : Nat)
  | rd (tile : Nat)
  | zero (tile : Nat)
  | rdz (tile : Nat)
  | messageArrival (idx : Nat)
  | queueAdmit (tile : Nat) (idx : Nat)
  | unboundDelivery (tile : Nat) (ctx : Nat) (tag : Nat)
  | entryRewrite (ctx : Nat) (tag : Nat) (image : EntryImage)
  | makeFiring (tile : Nat) (ctx : Nat) (tag : Nat)
  | taskTake (tile : Nat)
  | taskSteal (tile : Nat)
  | launchRecord (queue : Nat)
  | dispatchMessage (slot : Nat)
  | launchCompletion (slot : Nat)
  | releaseFlush (slot : Nat)
  | horizonUpdate (part : Nat)
  | commit (tile : Nat) (serial : Nat)
  | abort (tile : Nat) (serial : Nat)
  | rerun (tile : Nat) (serial : Nat)
  | pin (tile : Nat) (set : SetId)
  | copyStart (tile : Nat) (cpSlot : Nat)
  | copyWriteUnit (tile : Nat) (cpSlot : Nat)
  | copyComplete (tile : Nat) (cpSlot : Nat)
  | copyStop (tile : Nat) (cpSlot : Nat) (code : Nat)
  | completionMessage (idx : Nat)
  | resumePacket (idx : Nat)
  | edgeChunk (tile : Nat) (cpSlot : Nat)
  | budgetRefill (ctx : Nat)
  | clusterRound (cluster : Nat) (ctx : Nat)
  | terminate (tile : Nat) (set : SetId)
  | budgetExpiry (tile : Nat)
  | graceExpiry (tile : Nat)
  | sliceEnd (tile : Nat)
  | leaseExpiry (idx : Nat)
  | qnowAdvance
  | qdoneAdvance
  | quarantineEnqueue (part : Nat) (item : QItem)
  | quarantineRelease (part : Nat) (idx : Nat)
  | tailWrite (queue : Nat) (value : Nat)
  | cheadWrite (queue : Nat) (value : Nat)
  | registerWrite (reg : DevReg) (value : Word) (priv : Priv)
  | acquireRecord (queue : Nat)
  | releaseRecord (queue : Nat)
  | collectiveAbort (queue : Nat)
  | capsuleRelease (queue : Nat)
  | hostSync (queue : Nat)
  | reservedRecord (queue : Nat)
  | hostMemAccess (addr : HostAddr) (op : HostOp)
  | flushRequest (src : Nat) (queue : Nat) (seq : Nat)
  | flushAcknowledgement (pkg : Nat) (queue : Nat) (seq : Nat)
  | fabricWrite (unit : FabricUnit)
  | fabricReadRequest (unit : FabricUnit)
  | fabricReadResponse (unit : FabricUnit)
  | dropNotice (unit : FabricUnit)
  | abortToken (ctx : Nat) (group : Nat) (attempt : Nat)
  | linkRetrain (port : Nat)
  | linkReturn (port : Nat)
  | portDown (port : Nat)
  | flitRetry (port : Nat)
  | partWrite (part : Nat) (value : Word)
  | scrub (part : Nat)
  | partitionRelease (part : Nat)
  | fusion (shape : Nat) (base : Nat)
  | split (part : Nat)
  | keyWrite (slot : Nat) (write : KeyWrite)
  | reportRequest (chan : Nat) (request : Chunk)
  | checkpoint (part : Nat) (ask : CheckpointAsk)
  | restore (part : Nat) (manifest : Manifest)
  | firmwareInstall (part : Nat) (firmware : Firmware)
  | contrailBreakpoint (ctx : Nat) (addr : Nat)
  | contrailPatch (capsule : Nat) (sect : Nat) (off : Nat) (halves : (List Half))
  | contrailAccess (tile : Nat) (ctx : Nat) (set : SetId) (acc : DebugAccess)
  | machineCheck (addr : Nat)
  | patrolRead (addr : Nat) (err : WordError)
  | coldReset
  | contextRegistration (ctx : Nat) (info : RegInfo)
  | makeResident (tile : Nat) (ctx : Nat) (info : ResInfo)
  | contrailRelease (tile : Nat) (set : SetId)
  deriving DecidableEq, Repr

end Sys2Proof
end

