-- ==== Sys2Proof/Machine/Operands.lean ====
section
/-! DEFINITION. Machine/Operands.lean: the operand forms of R34, R35, R41 and R44 to R47, as the words of a chain
fix them, before any register is read. -/

namespace Sys2Proof

/-- A natural read as a two's complement number of w bits (0 for w = 0). -/
def sextNat (w n : Nat) : Int :=
  if w = 0 then 0 else if 2 * (n % 2 ^ w) < 2 ^ w then (n % 2 ^ w : Nat) else ((n % 2 ^ w : Nat) : Int) - (2 ^ w : Nat)

/-- An integer narrowed to 64 bits. -/
def wordOfInt (i : Int) : Word := BitVec.ofInt 64 i

/-- The immediate payloads as one number, earliest first (R35). -/
def immPayload : List (BitVec 10) → Nat → Nat
  | [], acc => acc
  | x :: xs, acc => immPayload xs (acc * 1024 + x.toNat)

/-- The format I immediate, sign-extended (R35). -/
def Pfx.immI (p : Pfx) (i : BitVec 5) : Int :=
  sextNat (5 + 10 * p.imm.length) (immPayload p.imm 0 * 32 + i.toNat)

/-- The immediate of `loop`, zero-extended (R41). -/
def Pfx.immZ (p : Pfx) (i : BitVec 5) : Nat := immPayload p.imm 0 * 32 + i.toNat

/-- The memory-layout offset of mode 0 (R35, R47). -/
def Pfx.immM (p : Pfx) : Int := sextNat (10 * p.imm.length) (immPayload p.imm 0)

/-- The format J offset in halfwords (R47). -/
def Pfx.immJ (p : Pfx) (off : BitVec 10) : Int :=
  sextNat (10 + 10 * p.imm.length) (immPayload p.imm 0 * 1024 + off.toNat)

/-- Field X of the extra-register prefix, 0 without the prefix (R46). -/
def Pfx.x (p : Pfx) : BitVec 5 := match p.xr with | some f => f.x | none => 0

/-- Field Y of the extra-register prefix, 0 without the prefix (R46). -/
def Pfx.y (p : Pfx) : BitVec 5 := match p.xr with | some f => f.y | none => 0

/-- The mask register of a vector instruction: Y bits 2:0 (R46). -/
def Pfx.maskReg (p : Pfx) : BitVec 3 := p.y.extractLsb' 0 3

/-- Merge mode 01: an inactive lane is written with zero (R46). -/
def Pfx.zeroing (p : Pfx) : Bool := p.y.getLsbD 3

/-- The destination k register of a vector compare: X bits 2:0 (R53). -/
def Pfx.cmpDest (p : Pfx) : BitVec 3 := p.x.extractLsb' 0 3

/-- The rounding mode that the modifier names (R45). -/
def Pfx.round (p : Pfx) : Round := match p.num with | some m => m.round | none => .dflt

/-- The lane-fault mode 01 of the modifier (R45). -/
def Pfx.laneZero (p : Pfx) : Bool := match p.num with | some m => m.zero | none => false

/-- The report register of the modifier (R45). -/
def Pfx.report (p : Pfx) : BitVec 3 := match p.num with | some m => m.report | none => 0

/-- The order of the modifier (R45). -/
def Pfx.order (p : Pfx) : Order := match p.ord with | some m => m.order | none => .relaxed

/-- The scope of the modifier (R45). -/
def Pfx.scope (p : Pfx) : Scope := match p.ord with | some m => m.scope | none => .dflt

/-- The token mask the chain waits for (R36). -/
def Pfx.tokens (p : Pfx) : BitVec 8 := match p.wait with | some w => w | none => 0

/-- How many prefix halfwords the prefixes take, without the page prefix (R39, R42). -/
def Pfx.count (p : Pfx) : Nat :=
  bit p.rep.isSome + bit p.num.isSome + bit p.ord.isSome + bit p.wait.isSome + bit p.xr.isSome + p.imm.length

/-- The length of a chain in bytes: prefixes, the page prefix of a page other than 0, and the base word (R39, R48). -/
def Pfx.chainBytes (p : Pfx) (paged : Bool) : Nat := 2 * (p.count + bit paged + 1)

/-- A chain with no prefix and no settle bit. -/
def Pfx.plain : Pfx :=
  { settle := false, rep := none, num := none, ord := none, wait := none, xr := none, imm := [] }

end Sys2Proof
end

