-- ==== Sys2Proof/WellFormed.lean ====
section
/-! DEFINITION. WellFormed.lean: which instructions have words at all, constructor by constructor, from the rules
on operand fields and prefixes (R41 to R49, R53 and the install rejections of the pages' home chapters). The checks
that need the whole section (R51, R52, R86, R88, R299) are the installer's. -/

namespace Sys2Proof

/-- What an instruction makes of field X (R46). -/
inductive XRule where
  | exact (n : Nat)
  | range (lo hi : Nat)
  | kdest (sel : Nat)
  deriving DecidableEq, Repr

/-- What an instruction makes of field Y (R46). -/
inductive YRule where
  | unused
  | exact (n : Nat)
  | any
  | mask
  | mask0
  deriving DecidableEq, Repr

/-- An immediate inside its stated limit (R41). -/
def inRange (i : Int) (lo hi : Int) : Bool := decide (lo ≤ i) && decide (i ≤ hi)

/-- Field X under its rule: a compare's X is its selector above a destination k register that is not k0 (R140). -/
def XRule.ok : XRule → BitVec 5 → Bool
  | .exact n, x => x.toNat == n
  | .range lo hi, x => decide (lo ≤ x.toNat) && decide (x.toNat ≤ hi)
  | .kdest sel, x => x.toNat / 8 == sel && x.toNat % 8 != 0

/-- Field Y under its rule: bits 4:3 hold merge mode 00 or 01, and 00 only for a reduction (R46, R140). -/
def YRule.ok : YRule → BitVec 5 → Bool
  | .unused, y => y == 0
  | .exact n, y => y.toNat == n
  | .any, _ => true
  | .mask, y => decide (y.toNat < 16)
  | .mask0, y => decide (y.toNat < 8)

/-- The checks every chain meets: at most four prefixes (R39), at most two immediate prefixes (R43), and no empty
modifier (R45). -/
def Pfx.wfBase (p : Pfx) (paged : Bool) : Bool :=
  decide (p.count + bit paged ≤ 4) && decide (p.imm.length ≤ 2) &&
  (match p.num with
    | some m => !(m.round == .dflt && !m.zero) && (m.zero == (m.report != 0))
    | none => true) &&
  (match p.ord with
    | some m => !(m.order == .relaxed && m.scope == .dflt)
    | none => true) &&
  (match p.wait with
    | some w => w != 0
    | none => true)

/-- The extra-register prefix of a format A or I instruction that uses it (R46). -/
def Pfx.wfXr (p : Pfx) (required : Bool) (xr : XRule) (yr : YRule) : Bool :=
  match p.xr with
  | some f => xr.ok f.x && yr.ok f.y
  | none => !required

/-- The extra-register prefix of a memory-layout instruction: mode 1 needs it for the offset register, and mode 0
takes it only where Y is used (R46). -/
def Pfx.wfMemXr (p : Pfx) (mode1 required : Bool) (xmax : Nat) (yr : YRule) : Bool :=
  match p.xr with
  | some f => (if mode1 then decide (f.x.toNat ≤ xmax) else f.x == 0 && yr != .unused) && yr.ok f.y
  | none => !required && !mode1

/-- A repeat prefix: no STEP2 where the second field holds no register, and no static count that steps past a file
(R44). A field is its file's size and its number. -/
def Pfx.wfRep (p : Pfx) (f1 f2 : Option (Nat × Nat)) : Bool :=
  match p.rep with
  | none => true
  | some r =>
    (!r.step2 || f2.isSome) &&
    (match r.count with
      | .reg _ => true
      | .imm n =>
        let ok (step : Bool) (f : Option (Nat × Nat)) : Bool :=
          match step, f with
          | true, some (size, reg) => n == 0 || decide (reg + n.toNat ≤ size)
          | _, _ => true
        ok r.step1 f1 && ok r.step2 f2)

/-- A load's ordering modifier (R49). -/
def Pfx.wfLoadOrd (p : Pfx) : Bool := p.order == .relaxed || p.order == .acq

/-- A store's ordering modifier (R49). -/
def Pfx.wfStoreOrd (p : Pfx) : Bool := p.order == .relaxed || p.order == .rel

/-- The ordering modifier of `fence`, which needs one with an order (R197). -/
def Pfx.wfFence (p : Pfx) : Bool := p.order != .relaxed

/-- The instruction has a chain that the installer's first pass accepts (R54, R55). An event has no words, so it is
no such instruction. -/
def Instr.wf : Instr → Bool
  | .mv p d a => p.wfBase false && p.imm.isEmpty && p.xr.isNone && p.wfRep (some (32, d.toNat)) (some (32, a.toNat)) && p.ord.isNone && p.num.isNone
  | .add p d a => p.wfBase false && p.imm.isEmpty && p.xr.isNone && p.wfRep (some (32, d.toNat)) (some (32, a.toNat)) && p.ord.isNone && p.num.isNone
  | .sub p d a => p.wfBase false && p.imm.isEmpty && p.xr.isNone && p.wfRep (some (32, d.toNat)) (some (32, a.toNat)) && p.ord.isNone && p.num.isNone
  | .mul p d a => p.wfBase false && p.imm.isEmpty && p.xr.isNone && p.wfRep (some (32, d.toNat)) (some (32, a.toNat)) && p.ord.isNone && p.num.isNone
  | .mulh p d a => p.wfBase false && p.imm.isEmpty && p.xr.isNone && p.wfRep (some (32, d.toNat)) (some (32, a.toNat)) && p.ord.isNone && p.num.isNone
  | .div p d a => p.wfBase false && p.imm.isEmpty && p.xr.isNone && p.wfRep (some (32, d.toNat)) (some (32, a.toNat)) && p.ord.isNone && p.num.isNone
  | .rem p d a => p.wfBase false && p.imm.isEmpty && p.xr.isNone && p.wfRep (some (32, d.toNat)) (some (32, a.toNat)) && p.ord.isNone && p.num.isNone
  | .and p d a => p.wfBase false && p.imm.isEmpty && p.xr.isNone && p.wfRep (some (32, d.toNat)) (some (32, a.toNat)) && p.ord.isNone && p.num.isNone
  | .or p d a => p.wfBase false && p.imm.isEmpty && p.xr.isNone && p.wfRep (some (32, d.toNat)) (some (32, a.toNat)) && p.ord.isNone && p.num.isNone
  | .xor p d a => p.wfBase false && p.imm.isEmpty && p.xr.isNone && p.wfRep (some (32, d.toNat)) (some (32, a.toNat)) && p.ord.isNone && p.num.isNone
  | .shl p d a => p.wfBase false && p.imm.isEmpty && p.xr.isNone && p.wfRep (some (32, d.toNat)) (some (32, a.toNat)) && p.ord.isNone && p.num.isNone
  | .shr p d a => p.wfBase false && p.imm.isEmpty && p.xr.isNone && p.wfRep (some (32, d.toNat)) (some (32, a.toNat)) && p.ord.isNone && p.num.isNone
  | .sra p d a => p.wfBase false && p.imm.isEmpty && p.xr.isNone && p.wfRep (some (32, d.toNat)) (some (32, a.toNat)) && p.ord.isNone && p.num.isNone
  | .cmp p d a => p.wfBase false && p.imm.isEmpty && p.xr.isNone && p.wfRep (some (32, d.toNat)) (some (32, a.toNat)) && p.ord.isNone && p.num.isNone
  | .addi p d _ => p.wfBase false && p.xr.isNone && p.wfRep (some (32, d.toNat)) none && p.ord.isNone && p.num.isNone
  | .li p d _ => p.wfBase false && p.xr.isNone && p.wfRep (some (32, d.toNat)) none && p.ord.isNone && p.num.isNone
  | .cmpi p d _ => p.wfBase false && p.xr.isNone && p.wfRep (some (32, d.toNat)) none && p.ord.isNone && p.num.isNone
  | .shli p d i => p.wfBase false && p.xr.isNone && p.wfRep (some (32, d.toNat)) none && p.ord.isNone && p.num.isNone && inRange (p.immI i) 0 63
  | .shri p d i => p.wfBase false && p.xr.isNone && p.wfRep (some (32, d.toNat)) none && p.ord.isNone && p.num.isNone && inRange (p.immI i) 64 127
  | .srai p d i => p.wfBase false && p.xr.isNone && p.wfRep (some (32, d.toNat)) none && p.ord.isNone && p.num.isNone && inRange (p.immI i) 128 191
  | .rori p d i => p.wfBase false && p.xr.isNone && p.wfRep (some (32, d.toNat)) none && p.ord.isNone && p.num.isNone && inRange (p.immI i) 192 255
  | .clz p d => p.wfBase false && p.imm.isEmpty && p.xr.isNone && p.wfRep (some (32, d.toNat)) none && p.ord.isNone && p.num.isNone
  | .ctz p d => p.wfBase false && p.imm.isEmpty && p.xr.isNone && p.wfRep (some (32, d.toNat)) none && p.ord.isNone && p.num.isNone
  | .popc p d => p.wfBase false && p.imm.isEmpty && p.xr.isNone && p.wfRep (some (32, d.toNat)) none && p.ord.isNone && p.num.isNone
  | .brev p d => p.wfBase false && p.imm.isEmpty && p.xr.isNone && p.wfRep (some (32, d.toNat)) none && p.ord.isNone && p.num.isNone
  | .not p d => p.wfBase false && p.imm.isEmpty && p.xr.isNone && p.wfRep (some (32, d.toNat)) none && p.ord.isNone && p.num.isNone
  | .neg p d => p.wfBase false && p.imm.isEmpty && p.xr.isNone && p.wfRep (some (32, d.toNat)) none && p.ord.isNone && p.num.isNone
  | .abs p d => p.wfBase false && p.imm.isEmpty && p.xr.isNone && p.wfRep (some (32, d.toNat)) none && p.ord.isNone && p.num.isNone
  | .sextB p d => p.wfBase false && p.imm.isEmpty && p.xr.isNone && p.wfRep (some (32, d.toNat)) none && p.ord.isNone && p.num.isNone
  | .sextH p d => p.wfBase false && p.imm.isEmpty && p.xr.isNone && p.wfRep (some (32, d.toNat)) none && p.ord.isNone && p.num.isNone
  | .sextW p d => p.wfBase false && p.imm.isEmpty && p.xr.isNone && p.wfRep (some (32, d.toNat)) none && p.ord.isNone && p.num.isNone
  | .zextB p d => p.wfBase false && p.imm.isEmpty && p.xr.isNone && p.wfRep (some (32, d.toNat)) none && p.ord.isNone && p.num.isNone
  | .zextH p d => p.wfBase false && p.imm.isEmpty && p.xr.isNone && p.wfRep (some (32, d.toNat)) none && p.ord.isNone && p.num.isNone
  | .zextW p d => p.wfBase false && p.imm.isEmpty && p.xr.isNone && p.wfRep (some (32, d.toNat)) none && p.ord.isNone && p.num.isNone
  | .setc p d _ => p.wfBase false && p.imm.isEmpty && p.xr.isNone && p.wfRep (some (32, d.toNat)) none && p.ord.isNone && p.num.isNone
  | .loop p _ i => p.wfBase false && p.xr.isNone && p.rep.isNone && p.ord.isNone && p.num.isNone && p.immZ i != 0
  | .b p _ => p.wfBase false && p.xr.isNone && p.rep.isNone && p.ord.isNone && p.num.isNone
  | .beq p _ => p.wfBase false && p.xr.isNone && p.rep.isNone && p.ord.isNone && p.num.isNone
  | .bne p _ => p.wfBase false && p.xr.isNone && p.rep.isNone && p.ord.isNone && p.num.isNone
  | .blt p _ => p.wfBase false && p.xr.isNone && p.rep.isNone && p.ord.isNone && p.num.isNone
  | .bge p _ => p.wfBase false && p.xr.isNone && p.rep.isNone && p.ord.isNone && p.num.isNone
  | .call p d _ => p.wfBase false && p.imm.isEmpty && p.xr.isNone && p.rep.isNone && p.ord.isNone && p.num.isNone && d != 0
  | .jmp p _ => p.wfBase false && p.imm.isEmpty && p.xr.isNone && p.rep.isNone && p.ord.isNone && p.num.isNone
  | .cMv p _ _ => p.wfBase true && p.imm.isEmpty && p.xr.isNone && p.rep.isNone && p.ord.isNone && p.num.isNone
  | .cAdd p _ _ => p.wfBase true && p.imm.isEmpty && p.xr.isNone && p.rep.isNone && p.ord.isNone && p.num.isNone
  | .cAddi p _ _ => p.wfBase true && p.xr.isNone && p.rep.isNone && p.ord.isNone && p.num.isNone
  | .cSetaddr p _ _ => p.wfBase true && p.imm.isEmpty && p.xr.isNone && p.rep.isNone && p.ord.isNone && p.num.isNone
  | .cSetb p _ _ => p.wfBase true && p.imm.isEmpty && p.xr.isNone && p.rep.isNone && p.ord.isNone && p.num.isNone
  | .cSetbx p _ _ => p.wfBase true && p.imm.isEmpty && p.xr.isNone && p.rep.isNone && p.ord.isNone && p.num.isNone
  | .cAndp p _ _ => p.wfBase true && p.imm.isEmpty && p.xr.isNone && p.rep.isNone && p.ord.isNone && p.num.isNone
  | .cSeal p _ _ => p.wfBase true && p.imm.isEmpty && p.xr.isNone && p.rep.isNone && p.ord.isNone && p.num.isNone
  | .cUnseal p _ _ => p.wfBase true && p.imm.isEmpty && p.xr.isNone && p.rep.isNone && p.ord.isNone && p.num.isNone
  | .cInv p _ _ => p.wfBase true && p.imm.isEmpty && p.xr.isNone && p.rep.isNone && p.ord.isNone && p.num.isNone
  | .cGaddr p _ _ => p.wfBase true && p.imm.isEmpty && p.xr.isNone && p.rep.isNone && p.ord.isNone && p.num.isNone
  | .cGbase p _ _ => p.wfBase true && p.imm.isEmpty && p.xr.isNone && p.rep.isNone && p.ord.isNone && p.num.isNone
  | .cGlen p _ _ => p.wfBase true && p.imm.isEmpty && p.xr.isNone && p.rep.isNone && p.ord.isNone && p.num.isNone
  | .cGperm p _ _ => p.wfBase true && p.imm.isEmpty && p.xr.isNone && p.rep.isNone && p.ord.isNone && p.num.isNone
  | .cGtype p _ _ => p.wfBase true && p.imm.isEmpty && p.xr.isNone && p.rep.isNone && p.ord.isNone && p.num.isNone
  | .cGtag p _ _ => p.wfBase true && p.imm.isEmpty && p.xr.isNone && p.rep.isNone && p.ord.isNone && p.num.isNone
  | .cClrtag p _ _ => p.wfBase true && p.imm.isEmpty && p.xr.isNone && p.rep.isNone && p.ord.isNone && p.num.isNone
  | .cLd p _ m => p.wfBase true && (!m.regOff || p.imm.isEmpty) && p.wfMemXr m.regOff false 31 .unused && p.rep.isNone && p.wfLoadOrd && p.num.isNone
  | .cSt p _ m => p.wfBase true && (!m.regOff || p.imm.isEmpty) && p.wfMemXr m.regOff false 31 .unused && p.rep.isNone && p.wfStoreOrd && p.num.isNone
  | .cFit p _ _ => p.wfBase true && p.imm.isEmpty && p.xr.isNone && p.rep.isNone && p.ord.isNone && p.num.isNone
  | .cSnap p _ _ => p.wfBase true && p.imm.isEmpty && p.xr.isNone && p.rep.isNone && p.ord.isNone && p.num.isNone
  | .cPaint p _ _ => p.wfBase true && p.imm.isEmpty && p.xr.isNone && p.rep.isNone && p.ord.isNone && p.num.isNone
  | .cSweep p _ _ => p.wfBase true && p.imm.isEmpty && p.xr.isNone && p.rep.isNone && p.ord.isNone && p.num.isNone
  | .cSweepq p _ _ => p.wfBase true && p.imm.isEmpty && p.xr.isNone && p.rep.isNone && p.ord.isNone && p.num.isNone
  | .ldW p d m => p.wfBase true && (!m.regOff || p.imm.isEmpty) && p.wfMemXr m.regOff false 31 .unused && p.wfRep (some (32, d.toNat)) none && p.wfLoadOrd && p.num.isNone
  | .stW p d m => p.wfBase true && (!m.regOff || p.imm.isEmpty) && p.wfMemXr m.regOff false 31 .unused && p.wfRep (some (32, d.toNat)) none && p.wfStoreOrd && p.num.isNone
  | .ldD p d m => p.wfBase true && (!m.regOff || p.imm.isEmpty) && p.wfMemXr m.regOff false 31 .unused && p.wfRep (some (32, d.toNat)) none && p.wfLoadOrd && p.num.isNone
  | .stD p d m => p.wfBase true && (!m.regOff || p.imm.isEmpty) && p.wfMemXr m.regOff false 31 .unused && p.wfRep (some (32, d.toNat)) none && p.wfStoreOrd && p.num.isNone
  | .ldB p d m => p.wfBase true && (!m.regOff || p.imm.isEmpty) && p.wfMemXr m.regOff false 31 .unused && p.wfRep (some (32, d.toNat)) none && p.wfLoadOrd && p.num.isNone
  | .stB p d m => p.wfBase true && (!m.regOff || p.imm.isEmpty) && p.wfMemXr m.regOff false 31 .unused && p.wfRep (some (32, d.toNat)) none && p.wfStoreOrd && p.num.isNone
  | .ldH p d m => p.wfBase true && (!m.regOff || p.imm.isEmpty) && p.wfMemXr m.regOff false 31 .unused && p.wfRep (some (32, d.toNat)) none && p.wfLoadOrd && p.num.isNone
  | .stH p d m => p.wfBase true && (!m.regOff || p.imm.isEmpty) && p.wfMemXr m.regOff false 31 .unused && p.wfRep (some (32, d.toNat)) none && p.wfStoreOrd && p.num.isNone
  | .vLd p d m => p.wfBase true && (!m.regOff || p.imm.isEmpty) && p.wfMemXr m.regOff false 31 .mask && p.wfRep (some (32, d.toNat)) none && p.wfLoadOrd && p.num.isNone
  | .vSt p d m => p.wfBase true && (!m.regOff || p.imm.isEmpty) && p.wfMemXr m.regOff false 31 .mask && p.wfRep (some (32, d.toNat)) none && p.wfStoreOrd && (!p.laneZero)
  | .ldWz p d m => p.wfBase true && (!m.regOff || p.imm.isEmpty) && p.wfMemXr m.regOff false 31 .unused && p.wfRep (some (32, d.toNat)) none && p.wfLoadOrd && p.num.isNone
  | .ldBz p d m => p.wfBase true && (!m.regOff || p.imm.isEmpty) && p.wfMemXr m.regOff false 31 .unused && p.wfRep (some (32, d.toNat)) none && p.wfLoadOrd && p.num.isNone
  | .ldHz p d m => p.wfBase true && (!m.regOff || p.imm.isEmpty) && p.wfMemXr m.regOff false 31 .unused && p.wfRep (some (32, d.toNat)) none && p.wfLoadOrd && p.num.isNone
  | .vGth p d m => p.wfBase true && (!m.regOff || p.imm.isEmpty) && m.regOff && p.wfMemXr m.regOff false 31 .mask && p.wfRep (some (31, d.toNat)) none && p.wfLoadOrd && p.round == .dflt && d.toNat ≤ 30
  | .vSct p d m => p.wfBase true && (!m.regOff || p.imm.isEmpty) && m.regOff && p.wfMemXr m.regOff false 31 .mask && p.wfRep (some (31, d.toNat)) none && p.wfStoreOrd && d.toNat ≤ 30
  | .vLdb p d m => p.wfBase true && (!m.regOff || p.imm.isEmpty) && p.wfMemXr m.regOff false 31 .mask && p.wfRep (some (32, d.toNat)) none && p.wfLoadOrd && p.num.isNone
  | .vLds p d m => p.wfBase true && (!m.regOff || p.imm.isEmpty) && m.regOff && p.wfMemXr m.regOff false 30 .mask && p.wfRep (some (32, d.toNat)) none && p.wfLoadOrd && p.num.isNone
  | .vSts p d m => p.wfBase true && (!m.regOff || p.imm.isEmpty) && m.regOff && p.wfMemXr m.regOff false 30 .mask && p.wfRep (some (32, d.toNat)) none && p.wfStoreOrd && (!p.laneZero)
  | .wsQ p _ m => p.wfBase true && (!m.regOff || p.imm.isEmpty) && p.wfMemXr m.regOff false 31 .unused && p.rep.isNone && p.ord.isNone && p.num.isNone
  | .pf p d m => p.wfBase true && (!m.regOff || p.imm.isEmpty) && p.wfMemXr m.regOff false 31 .unused && p.rep.isNone && p.ord.isNone && p.num.isNone && d.toNat ≤ 1
  | .kLd p d m => p.wfBase true && (!m.regOff || p.imm.isEmpty) && p.wfMemXr m.regOff false 31 .unused && p.rep.isNone && p.wfLoadOrd && p.num.isNone && d != 0
  | .kSt p _ m => p.wfBase true && (!m.regOff || p.imm.isEmpty) && p.wfMemXr m.regOff false 31 .unused && p.rep.isNone && p.wfStoreOrd && p.num.isNone
  | .amAdd p _ m => p.wfBase true && (!m.regOff || p.imm.isEmpty) && p.wfMemXr m.regOff false 31 .unused && p.rep.isNone && p.num.isNone
  | .amAnd p _ m => p.wfBase true && (!m.regOff || p.imm.isEmpty) && p.wfMemXr m.regOff false 31 .unused && p.rep.isNone && p.num.isNone
  | .amOr p _ m => p.wfBase true && (!m.regOff || p.imm.isEmpty) && p.wfMemXr m.regOff false 31 .unused && p.rep.isNone && p.num.isNone
  | .amXor p _ m => p.wfBase true && (!m.regOff || p.imm.isEmpty) && p.wfMemXr m.regOff false 31 .unused && p.rep.isNone && p.num.isNone
  | .amMin p _ m => p.wfBase true && (!m.regOff || p.imm.isEmpty) && p.wfMemXr m.regOff false 31 .unused && p.rep.isNone && p.num.isNone
  | .amMax p _ m => p.wfBase true && (!m.regOff || p.imm.isEmpty) && p.wfMemXr m.regOff false 31 .unused && p.rep.isNone && p.num.isNone
  | .amSwp p _ m => p.wfBase true && (!m.regOff || p.imm.isEmpty) && p.wfMemXr m.regOff false 31 .unused && p.rep.isNone && p.num.isNone
  | .amCas p _ m => p.wfBase true && (!m.regOff || p.imm.isEmpty) && p.wfMemXr m.regOff true 31 .any && p.rep.isNone && p.num.isNone
  | .amFadd p _ m => p.wfBase true && (!m.regOff || p.imm.isEmpty) && p.wfMemXr m.regOff false 31 .unused && p.rep.isNone && p.num.isNone
  | .amUpdAdd p _ m => p.wfBase true && (!m.regOff || p.imm.isEmpty) && p.wfMemXr m.regOff true 31 (.exact 0) && p.rep.isNone && p.num.isNone
  | .amUpdOr p _ m => p.wfBase true && (!m.regOff || p.imm.isEmpty) && p.wfMemXr m.regOff true 31 (.exact 1) && p.rep.isNone && p.num.isNone
  | .amUpdAnd p _ m => p.wfBase true && (!m.regOff || p.imm.isEmpty) && p.wfMemXr m.regOff true 31 (.exact 2) && p.rep.isNone && p.num.isNone
  | .amUpdXor p _ m => p.wfBase true && (!m.regOff || p.imm.isEmpty) && p.wfMemXr m.regOff true 31 (.exact 3) && p.rep.isNone && p.num.isNone
  | .amUpdMin p _ m => p.wfBase true && (!m.regOff || p.imm.isEmpty) && p.wfMemXr m.regOff true 31 (.exact 4) && p.rep.isNone && p.num.isNone
  | .amUpdMax p _ m => p.wfBase true && (!m.regOff || p.imm.isEmpty) && p.wfMemXr m.regOff true 31 (.exact 5) && p.rep.isNone && p.num.isNone
  | .amUpdFadd p _ m => p.wfBase true && (!m.regOff || p.imm.isEmpty) && p.wfMemXr m.regOff true 31 (.exact 6) && p.rep.isNone && p.num.isNone
  | .swInit p _ m => p.wfBase true && (!m.regOff || p.imm.isEmpty) && p.wfMemXr m.regOff false 31 .unused && p.rep.isNone && p.ord.isNone && p.num.isNone
  | .swWait p _ m => p.wfBase true && (!m.regOff || p.imm.isEmpty) && p.wfMemXr m.regOff false 31 .unused && p.rep.isNone && p.ord.isNone && p.num.isNone
  | .swGen p _ m => p.wfBase true && (!m.regOff || p.imm.isEmpty) && p.wfMemXr m.regOff false 31 .unused && p.rep.isNone && p.ord.isNone && p.num.isNone
  | .barArv p _ i => p.wfBase true && p.imm.isEmpty && p.xr.isNone && p.rep.isNone && p.ord.isNone && p.num.isNone && inRange (p.immI i) 0 15
  | .barWt p _ i => p.wfBase true && p.imm.isEmpty && p.xr.isNone && p.rep.isNone && p.ord.isNone && p.num.isNone && inRange (p.immI i) 0 15
  | .barCfg p _ i => p.wfBase true && p.imm.isEmpty && p.xr.isNone && p.rep.isNone && p.ord.isNone && p.num.isNone && inRange (p.immI i) 0 15
  | .mbPut p _ _ => p.wfBase true && p.imm.isEmpty && p.wfXr true (.range 0 31) .unused && p.rep.isNone && p.wfStoreOrd && p.num.isNone
  | .mbGet p _ _ => p.wfBase true && p.imm.isEmpty && p.xr.isNone && p.rep.isNone && p.wfLoadOrd && p.num.isNone
  | .mbTest p _ => p.wfBase true && p.imm.isEmpty && p.xr.isNone && p.rep.isNone && p.ord.isNone && p.num.isNone
  | .fence p _ i => p.wfBase true && p.xr.isNone && p.rep.isNone && p.wfFence && p.num.isNone && inRange (p.immI i) 1 15
  | .vMv p d a => p.wfBase true && p.imm.isEmpty && p.wfXr false (.exact 0) .mask && p.wfRep (some (32, d.toNat)) (some (32, a.toNat)) && p.ord.isNone && p.num.isNone
  | .vAdd p d a => p.wfBase true && p.imm.isEmpty && p.wfXr false (.exact 0) .mask && p.wfRep (some (32, d.toNat)) (some (32, a.toNat)) && p.ord.isNone && (!p.laneZero)
  | .vSub p d a => p.wfBase true && p.imm.isEmpty && p.wfXr false (.exact 0) .mask && p.wfRep (some (32, d.toNat)) (some (32, a.toNat)) && p.ord.isNone && (!p.laneZero)
  | .vMul p d a => p.wfBase true && p.imm.isEmpty && p.wfXr false (.exact 0) .mask && p.wfRep (some (32, d.toNat)) (some (32, a.toNat)) && p.ord.isNone && (!p.laneZero)
  | .vFma p d a => p.wfBase true && p.imm.isEmpty && p.wfXr true (.range 0 31) .mask && p.wfRep (some (32, d.toNat)) (some (32, a.toNat)) && p.ord.isNone && (!p.laneZero)
  | .vFms p d a => p.wfBase true && p.imm.isEmpty && p.wfXr true (.range 0 31) .mask && p.wfRep (some (32, d.toNat)) (some (32, a.toNat)) && p.ord.isNone && (!p.laneZero)
  | .vMin p d a => p.wfBase true && p.imm.isEmpty && p.wfXr false (.exact 0) .mask && p.wfRep (some (32, d.toNat)) (some (32, a.toNat)) && p.ord.isNone && p.num.isNone
  | .vMax p d a => p.wfBase true && p.imm.isEmpty && p.wfXr false (.exact 0) .mask && p.wfRep (some (32, d.toNat)) (some (32, a.toNat)) && p.ord.isNone && p.num.isNone
  | .vAbs p d a => p.wfBase true && p.imm.isEmpty && p.wfXr false (.exact 0) .mask && p.wfRep (some (32, d.toNat)) (some (32, a.toNat)) && p.ord.isNone && p.num.isNone
  | .vNeg p d a => p.wfBase true && p.imm.isEmpty && p.wfXr false (.exact 0) .mask && p.wfRep (some (32, d.toNat)) (some (32, a.toNat)) && p.ord.isNone && p.num.isNone
  | .vIadd p d a => p.wfBase true && p.imm.isEmpty && p.wfXr false (.exact 0) .mask && p.wfRep (some (32, d.toNat)) (some (32, a.toNat)) && p.ord.isNone && p.num.isNone
  | .vIsub p d a => p.wfBase true && p.imm.isEmpty && p.wfXr false (.exact 0) .mask && p.wfRep (some (32, d.toNat)) (some (32, a.toNat)) && p.ord.isNone && p.num.isNone
  | .vImul p d a => p.wfBase true && p.imm.isEmpty && p.wfXr false (.exact 0) .mask && p.wfRep (some (32, d.toNat)) (some (32, a.toNat)) && p.ord.isNone && p.num.isNone
  | .vImin p d a => p.wfBase true && p.imm.isEmpty && p.wfXr false (.exact 0) .mask && p.wfRep (some (32, d.toNat)) (some (32, a.toNat)) && p.ord.isNone && p.num.isNone
  | .vImax p d a => p.wfBase true && p.imm.isEmpty && p.wfXr false (.exact 0) .mask && p.wfRep (some (32, d.toNat)) (some (32, a.toNat)) && p.ord.isNone && p.num.isNone
  | .vAnd p d a => p.wfBase true && p.imm.isEmpty && p.wfXr false (.exact 0) .mask && p.wfRep (some (32, d.toNat)) (some (32, a.toNat)) && p.ord.isNone && p.num.isNone
  | .vOr p d a => p.wfBase true && p.imm.isEmpty && p.wfXr false (.exact 0) .mask && p.wfRep (some (32, d.toNat)) (some (32, a.toNat)) && p.ord.isNone && p.num.isNone
  | .vXor p d a => p.wfBase true && p.imm.isEmpty && p.wfXr false (.exact 0) .mask && p.wfRep (some (32, d.toNat)) (some (32, a.toNat)) && p.ord.isNone && p.num.isNone
  | .vShl p d a => p.wfBase true && p.imm.isEmpty && p.wfXr false (.exact 0) .mask && p.wfRep (some (32, d.toNat)) (some (32, a.toNat)) && p.ord.isNone && p.num.isNone
  | .vShr p d a => p.wfBase true && p.imm.isEmpty && p.wfXr false (.exact 0) .mask && p.wfRep (some (32, d.toNat)) (some (32, a.toNat)) && p.ord.isNone && p.num.isNone
  | .vSra p d a => p.wfBase true && p.imm.isEmpty && p.wfXr false (.exact 0) .mask && p.wfRep (some (32, d.toNat)) (some (32, a.toNat)) && p.ord.isNone && p.num.isNone
  | .vFeq p d a => p.wfBase true && p.imm.isEmpty && p.wfXr true (.kdest 0) .mask && p.wfRep (some (32, d.toNat)) (some (32, a.toNat)) && p.ord.isNone && p.num.isNone
  | .vFlt p d a => p.wfBase true && p.imm.isEmpty && p.wfXr true (.kdest 1) .mask && p.wfRep (some (32, d.toNat)) (some (32, a.toNat)) && p.ord.isNone && p.num.isNone
  | .vFle p d a => p.wfBase true && p.imm.isEmpty && p.wfXr true (.kdest 2) .mask && p.wfRep (some (32, d.toNat)) (some (32, a.toNat)) && p.ord.isNone && p.num.isNone
  | .vFun p d a => p.wfBase true && p.imm.isEmpty && p.wfXr true (.kdest 3) .mask && p.wfRep (some (32, d.toNat)) (some (32, a.toNat)) && p.ord.isNone && p.num.isNone
  | .vIeq p d a => p.wfBase true && p.imm.isEmpty && p.wfXr true (.kdest 0) .mask && p.wfRep (some (32, d.toNat)) (some (32, a.toNat)) && p.ord.isNone && p.num.isNone
  | .vIlt p d a => p.wfBase true && p.imm.isEmpty && p.wfXr true (.kdest 1) .mask && p.wfRep (some (32, d.toNat)) (some (32, a.toNat)) && p.ord.isNone && p.num.isNone
  | .vIle p d a => p.wfBase true && p.imm.isEmpty && p.wfXr true (.kdest 2) .mask && p.wfRep (some (32, d.toNat)) (some (32, a.toNat)) && p.ord.isNone && p.num.isNone
  | .vIlo p d a => p.wfBase true && p.imm.isEmpty && p.wfXr true (.kdest 3) .mask && p.wfRep (some (32, d.toNat)) (some (32, a.toNat)) && p.ord.isNone && p.num.isNone
  | .vIabs p d a => p.wfBase true && p.imm.isEmpty && p.wfXr false (.exact 0) .mask && p.wfRep (some (32, d.toNat)) (some (32, a.toNat)) && p.ord.isNone && p.num.isNone
  | .vBcs p d a => p.wfBase true && p.imm.isEmpty && p.wfXr false (.exact 0) .mask && p.wfRep (some (32, d.toNat)) (some (32, a.toNat)) && p.ord.isNone && p.num.isNone
  | .vLi p d _ => p.wfBase true && p.wfXr false (.exact 0) .mask && p.wfRep (some (32, d.toNat)) none && p.ord.isNone && p.num.isNone
  | .kAnd p d a => p.wfBase true && p.imm.isEmpty && p.wfXr true (.exact 0) .unused && p.wfRep (some (8, d.toNat)) (some (8, a.toNat)) && p.ord.isNone && p.num.isNone && d != 0
  | .kOr p d a => p.wfBase true && p.imm.isEmpty && p.wfXr true (.exact 1) .unused && p.wfRep (some (8, d.toNat)) (some (8, a.toNat)) && p.ord.isNone && p.num.isNone && d != 0
  | .kXor p d a => p.wfBase true && p.imm.isEmpty && p.wfXr true (.exact 2) .unused && p.wfRep (some (8, d.toNat)) (some (8, a.toNat)) && p.ord.isNone && p.num.isNone && d != 0
  | .kAndn p d a => p.wfBase true && p.imm.isEmpty && p.wfXr true (.exact 3) .unused && p.wfRep (some (8, d.toNat)) (some (8, a.toNat)) && p.ord.isNone && p.num.isNone && d != 0
  | .kNot p d a => p.wfBase true && p.imm.isEmpty && p.wfXr true (.exact 4) .unused && p.wfRep (some (8, d.toNat)) (some (8, a.toNat)) && p.ord.isNone && p.num.isNone && d != 0
  | .kMv p d a => p.wfBase true && p.imm.isEmpty && p.wfXr true (.exact 5) .unused && p.wfRep (some (8, d.toNat)) (some (8, a.toNat)) && p.ord.isNone && p.num.isNone && d != 0
  | .vCvtfi p d a => p.wfBase true && p.imm.isEmpty && p.wfXr false (.exact 0) .mask && p.wfRep (some (32, d.toNat)) (some (32, a.toNat)) && p.ord.isNone && (!p.laneZero)
  | .vCvtif p d a => p.wfBase true && p.imm.isEmpty && p.wfXr false (.exact 0) .mask && p.wfRep (some (32, d.toNat)) (some (32, a.toNat)) && p.ord.isNone && (!p.laneZero)
  | .vExp2 p d a => p.wfBase true && p.imm.isEmpty && p.wfXr false (.exact 0) .mask && p.wfRep (some (32, d.toNat)) (some (32, a.toNat)) && p.ord.isNone && p.num.isNone
  | .vLog2 p d a => p.wfBase true && p.imm.isEmpty && p.wfXr false (.exact 0) .mask && p.wfRep (some (32, d.toNat)) (some (32, a.toNat)) && p.ord.isNone && p.num.isNone
  | .vRcp p d a => p.wfBase true && p.imm.isEmpty && p.wfXr false (.exact 0) .mask && p.wfRep (some (32, d.toNat)) (some (32, a.toNat)) && p.ord.isNone && p.num.isNone
  | .vRsq p d a => p.wfBase true && p.imm.isEmpty && p.wfXr false (.exact 0) .mask && p.wfRep (some (32, d.toNat)) (some (32, a.toNat)) && p.ord.isNone && p.num.isNone
  | .vSqrt p d a => p.wfBase true && p.imm.isEmpty && p.wfXr false (.exact 0) .mask && p.wfRep (some (32, d.toNat)) (some (32, a.toNat)) && p.ord.isNone && (!p.laneZero)
  | .vPerm p d a => p.wfBase true && p.imm.isEmpty && p.wfXr true (.range 0 31) .mask && p.wfRep (some (32, d.toNat)) (some (32, a.toNat)) && p.ord.isNone && p.num.isNone
  | .vBcl p d i => p.wfBase true && p.wfXr false (.exact 0) .mask && p.wfRep (some (32, d.toNat)) none && p.ord.isNone && p.num.isNone && inRange (p.immI i) 0 63
  | .vRot p d i => p.wfBase true && p.wfXr false (.exact 0) .mask && p.wfRep (some (32, d.toNat)) none && p.ord.isNone && p.num.isNone && inRange (p.immI i) 0 63
  | .vRsum p d a => p.wfBase true && p.imm.isEmpty && p.wfXr false (.exact 0) .mask0 && p.wfRep (some (32, d.toNat)) (some (32, a.toNat)) && p.ord.isNone && (!p.laneZero)
  | .vRmax p d a => p.wfBase true && p.imm.isEmpty && p.wfXr false (.exact 0) .mask0 && p.wfRep (some (32, d.toNat)) (some (32, a.toNat)) && p.ord.isNone && p.num.isNone
  | .vRmin p d a => p.wfBase true && p.imm.isEmpty && p.wfXr false (.exact 0) .mask0 && p.wfRep (some (32, d.toNat)) (some (32, a.toNat)) && p.ord.isNone && p.num.isNone
  | .vIrsum p d a => p.wfBase true && p.imm.isEmpty && p.wfXr false (.exact 0) .mask0 && p.wfRep (some (32, d.toNat)) (some (32, a.toNat)) && p.ord.isNone && p.num.isNone
  | .vT8dec p d a => p.wfBase true && p.imm.isEmpty && p.wfXr false (.exact 0) .mask && p.wfRep (some (32, d.toNat)) (some (32, a.toNat)) && p.ord.isNone && p.num.isNone
  | .vT8enc p d a => p.wfBase true && p.imm.isEmpty && p.wfXr false (.exact 0) .mask && p.wfRep (some (32, d.toNat)) (some (32, a.toNat)) && p.ord.isNone && (!p.laneZero)
  | .t8Ld p m => p.wfBase true && (!m.regOff || p.imm.isEmpty) && p.wfMemXr m.regOff false 31 .unused && p.wfRep (some (3, 0)) none && p.ord.isNone && p.num.isNone
  | .t8LdE4 p => p.wfBase true && p.imm.isEmpty && p.xr.isNone && p.wfRep (some (3, 1)) none && p.ord.isNone && p.num.isNone
  | .t8LdE5 p => p.wfBase true && p.imm.isEmpty && p.xr.isNone && p.wfRep (some (3, 2)) none && p.ord.isNone && p.num.isNone
  | .vExt p d a => p.wfBase true && p.imm.isEmpty && p.xr.isNone && p.wfRep (some (32, d.toNat)) (some (32, a.toNat)) && p.ord.isNone && p.num.isNone
  | .vIns p d a => p.wfBase true && p.imm.isEmpty && p.xr.isNone && p.wfRep (some (32, d.toNat)) (some (32, a.toNat)) && p.ord.isNone && p.num.isNone
  | .kPop p d a => p.wfBase true && p.imm.isEmpty && p.xr.isNone && p.wfRep (some (32, d.toNat)) (some (8, a.toNat)) && p.ord.isNone && p.num.isNone
  | .kFirst p d a => p.wfBase true && p.imm.isEmpty && p.xr.isNone && p.wfRep (some (32, d.toNat)) (some (8, a.toNat)) && p.ord.isNone && p.num.isNone
  | .vRnd p d a => p.wfBase true && p.imm.isEmpty && p.wfXr false (.exact 0) .mask && p.wfRep (some (32, d.toNat)) (some (32, a.toNat)) && p.ord.isNone && (!p.laneZero)
  | .vCmpr p d a => p.wfBase true && p.imm.isEmpty && p.wfXr false (.exact 0) .mask && p.wfRep (some (32, d.toNat)) (some (32, a.toNat)) && p.ord.isNone && p.num.isNone
  | .mLds p _ m => p.wfBase true && (!m.regOff || p.imm.isEmpty) && p.wfMemXr m.regOff false 31 .unused && p.rep.isNone && p.ord.isNone && p.num.isNone
  | .mStr p _ m => p.wfBase true && (!m.regOff || p.imm.isEmpty) && p.wfMemXr m.regOff false 31 .unused && p.rep.isNone && p.ord.isNone && p.num.isNone
  | .mMrot p _ m => p.wfBase true && (!m.regOff || p.imm.isEmpty) && p.wfMemXr m.regOff false 31 .unused && p.rep.isNone && p.ord.isNone && p.num.isNone
  | .mRd p _ m => p.wfBase true && (!m.regOff || p.imm.isEmpty) && p.wfMemXr m.regOff false 31 .unused && p.rep.isNone && p.ord.isNone && (!p.laneZero)
  | .mCmd p _ m => p.wfBase true && (!m.regOff || p.imm.isEmpty) && p.wfMemXr m.regOff false 31 .unused && p.rep.isNone && p.ord.isNone && p.num.isNone
  | .mRdz p _ m => p.wfBase true && (!m.regOff || p.imm.isEmpty) && p.wfMemXr m.regOff false 31 .unused && p.rep.isNone && p.ord.isNone && (!p.laneZero)
  | .mSwap p => p.wfBase true && p.imm.isEmpty && p.xr.isNone && p.rep.isNone && p.ord.isNone && p.num.isNone
  | .mZero p => p.wfBase true && p.imm.isEmpty && p.xr.isNone && p.rep.isNone && p.ord.isNone && p.num.isNone
  | .mDrain p => p.wfBase true && p.imm.isEmpty && p.xr.isNone && p.rep.isNone && p.ord.isNone && p.num.isNone
  | .mQ p _ => p.wfBase true && p.imm.isEmpty && p.xr.isNone && p.rep.isNone && p.ord.isNone && p.num.isNone
  | .endF p => p.wfBase true && p.imm.isEmpty && p.xr.isNone && p.rep.isNone && p.ord.isNone && p.num.isNone
  | .send p _ _ => p.wfBase true && p.imm.isEmpty && p.xr.isNone && p.rep.isNone && p.ord.isNone && p.num.isNone
  | .sendU p _ _ => p.wfBase true && p.imm.isEmpty && p.xr.isNone && p.rep.isNone && p.ord.isNone && p.num.isNone
  | .fork p _ _ => p.wfBase true && p.imm.isEmpty && p.xr.isNone && p.rep.isNone && p.ord.isNone && p.num.isNone
  | .join p _ => p.wfBase true && p.imm.isEmpty && p.xr.isNone && p.rep.isNone && p.ord.isNone && p.num.isNone
  | .jcInit p _ _ => p.wfBase true && p.imm.isEmpty && p.xr.isNone && p.rep.isNone && p.ord.isNone && p.num.isNone
  | .chunk p _ _ => p.wfBase true && p.imm.isEmpty && p.xr.isNone && p.rep.isNone && p.ord.isNone && p.num.isNone
  | .yield p => p.wfBase true && p.imm.isEmpty && p.xr.isNone && p.rep.isNone && p.ord.isNone && p.num.isNone
  | .hEn p _ => p.wfBase true && p.imm.isEmpty && p.xr.isNone && p.rep.isNone && p.ord.isNone && p.num.isNone
  | .hDis p _ => p.wfBase true && p.imm.isEmpty && p.xr.isNone && p.rep.isNone && p.ord.isNone && p.num.isNone
  | .hPend p _ => p.wfBase true && p.imm.isEmpty && p.xr.isNone && p.rep.isNone && p.ord.isNone && p.num.isNone
  | .hClrp p _ => p.wfBase true && p.imm.isEmpty && p.xr.isNone && p.rep.isNone && p.ord.isNone && p.num.isNone
  | .inPop p _ _ => p.wfBase true && p.imm.isEmpty && p.xr.isNone && p.rep.isNone && p.ord.isNone && p.num.isNone
  | .inCnt p _ _ => p.wfBase true && p.imm.isEmpty && p.xr.isNone && p.rep.isNone && p.ord.isNone && p.num.isNone
  | .widFld p _ i => p.wfBase true && p.xr.isNone && p.rep.isNone && p.ord.isNone && p.num.isNone && inRange (p.immI i) 0 5
  | .tsAdd p _ i => p.wfBase true && p.xr.isNone && p.rep.isNone && p.ord.isNone && p.num.isNone && inRange (p.immI i) 0 16777215
  | .hTag p _ _ => p.wfBase true && p.imm.isEmpty && p.xr.isNone && p.rep.isNone && p.ord.isNone && p.num.isNone
  | .cp p _ _ => p.wfBase true && p.imm.isEmpty && p.wfXr true (.range 1 28) .unused && p.rep.isNone && p.ord.isNone && p.num.isNone
  | .cpTry p _ _ => p.wfBase true && p.imm.isEmpty && p.wfXr true (.range 1 28) .any && p.rep.isNone && p.ord.isNone && p.num.isNone
  | .tkQ p _ _ => p.wfBase true && p.imm.isEmpty && p.xr.isNone && p.rep.isNone && p.ord.isNone && p.num.isNone
  | .slvBegin p _ _ => p.wfBase true && p.imm.isEmpty && p.wfXr true (.range 1 30) .unused && p.rep.isNone && p.ord.isNone && p.num.isNone
  | .slvEnd p => p.wfBase true && p.imm.isEmpty && p.xr.isNone && p.rep.isNone && p.ord.isNone && p.num.isNone
  | .slvHclr p => p.wfBase true && p.imm.isEmpty && p.xr.isNone && p.rep.isNone && p.ord.isNone && p.num.isNone
  | .slvQ p _ _ => p.wfBase true && p.imm.isEmpty && p.xr.isNone && p.rep.isNone && p.ord.isNone && p.num.isNone
  | .cpRsm p _ _ => p.wfBase true && p.imm.isEmpty && p.xr.isNone && p.rep.isNone && p.ord.isNone && p.num.isNone
  | .rsr p _ i => p.wfBase true && p.xr.isNone && p.rep.isNone && p.ord.isNone && p.num.isNone && inRange (p.immI i) 0 28
  | .wsr p _ i => p.wfBase true && p.xr.isNone && p.rep.isNone && p.ord.isNone && p.num.isNone && inRange (p.immI i) 0 28
  | .kcallSliceEnd p i => p.wfBase true && p.xr.isNone && p.rep.isNone && p.ord.isNone && p.num.isNone && inRange (p.immI i) 0 0
  | .kcallBudget p i => p.wfBase true && p.xr.isNone && p.rep.isNone && p.ord.isNone && p.num.isNone && inRange (p.immI i) 1 1
  | .kcallStops p i => p.wfBase true && p.xr.isNone && p.rep.isNone && p.ord.isNone && p.num.isNone && inRange (p.immI i) 2 2
  | .kcallUnbound p i => p.wfBase true && p.xr.isNone && p.rep.isNone && p.ord.isNone && p.num.isNone && inRange (p.immI i) 3 3
  | .kcallRevoke p i => p.wfBase true && p.xr.isNone && p.rep.isNone && p.ord.isNone && p.num.isNone && inRange (p.immI i) 4 4
  | .kcallSweepQuery p i => p.wfBase true && p.xr.isNone && p.rep.isNone && p.ord.isNone && p.num.isNone && inRange (p.immI i) 5 5
  | .kcallOther p i => p.wfBase true && p.xr.isNone && p.rep.isNone && p.ord.isNone && p.num.isNone && inRange (p.immI i) 6 255
  | .tret p => p.wfBase true && p.imm.isEmpty && p.xr.isNone && p.rep.isNone && p.ord.isNone && p.num.isNone
  | .tretSkip p => p.wfBase true && p.imm.isEmpty && p.xr.isNone && p.rep.isNone && p.ord.isNone && p.num.isNone
  | .cslInst p _ _ => p.wfBase true && p.imm.isEmpty && p.xr.isNone && p.rep.isNone && p.ord.isNone && p.num.isNone
  | .cslRbld p _ _ => p.wfBase true && p.imm.isEmpty && p.xr.isNone && p.rep.isNone && p.ord.isNone && p.num.isNone
  | .cslBind p _ _ => p.wfBase true && p.imm.isEmpty && p.xr.isNone && p.rep.isNone && p.ord.isNone && p.num.isNone
  | .cslQ p _ _ => p.wfBase true && p.imm.isEmpty && p.xr.isNone && p.rep.isNone && p.ord.isNone && p.num.isNone
  | .pairOn p _ _ => p.wfBase true && p.imm.isEmpty && p.xr.isNone && p.rep.isNone && p.ord.isNone && p.num.isNone
  | .pairOff p _ => p.wfBase true && p.imm.isEmpty && p.xr.isNone && p.rep.isNone && p.ord.isNone && p.num.isNone
  | .brk p i => p.wfBase true && p.xr.isNone && p.rep.isNone && p.ord.isNone && p.num.isNone && inRange (p.immI i) 0 1023
  | .ctxSv p _ => p.wfBase true && p.imm.isEmpty && p.xr.isNone && p.rep.isNone && p.ord.isNone && p.num.isNone
  | .ctxLd p _ _ => p.wfBase true && p.imm.isEmpty && p.xr.isNone && p.rep.isNone && p.ord.isNone && p.num.isNone
  | .accSv p _ => p.wfBase true && p.imm.isEmpty && p.xr.isNone && p.rep.isNone && p.ord.isNone && p.num.isNone
  | .accLd p _ => p.wfBase true && p.imm.isEmpty && p.xr.isNone && p.rep.isNone && p.ord.isNone && p.num.isNone
  | .idle p => p.wfBase true && p.imm.isEmpty && p.xr.isNone && p.rep.isNone && p.ord.isNone && p.num.isNone
  | .outstandingResultReturn _ _ => false
  | .sweepComplete _ => false
  | .refreshStart _ => false
  | .refreshEnd _ => false
  | .updateMerge _ _ => false
  | .t8TableEffect _ _ => false
  | .lds _ => false
  | .swap _ => false
  | .str _ => false
  | .mrot _ => false
  | .mrotArrival _ => false
  | .rd _ => false
  | .zero _ => false
  | .rdz _ => false
  | .messageArrival _ => false
  | .queueAdmit _ _ => false
  | .unboundDelivery _ _ _ => false
  | .entryRewrite _ _ _ => false
  | .makeFiring _ _ _ => false
  | .taskTake _ => false
  | .taskSteal _ => false
  | .launchRecord _ => false
  | .dispatchMessage _ => false
  | .launchCompletion _ => false
  | .releaseFlush _ => false
  | .horizonUpdate _ => false
  | .commit _ _ => false
  | .abort _ _ => false
  | .rerun _ _ => false
  | .pin _ _ => false
  | .copyStart _ _ => false
  | .copyWriteUnit _ _ => false
  | .copyComplete _ _ => false
  | .copyStop _ _ _ => false
  | .completionMessage _ => false
  | .resumePacket _ => false
  | .edgeChunk _ _ => false
  | .budgetRefill _ => false
  | .clusterRound _ _ => false
  | .terminate _ _ => false
  | .budgetExpiry _ => false
  | .graceExpiry _ => false
  | .sliceEnd _ => false
  | .leaseExpiry _ => false
  | .qnowAdvance => false
  | .qdoneAdvance => false
  | .quarantineEnqueue _ _ => false
  | .quarantineRelease _ _ => false
  | .tailWrite _ _ => false
  | .cheadWrite _ _ => false
  | .registerWrite _ _ _ => false
  | .acquireRecord _ => false
  | .releaseRecord _ => false
  | .collectiveAbort _ => false
  | .capsuleRelease _ => false
  | .hostSync _ => false
  | .reservedRecord _ => false
  | .hostMemAccess _ _ => false
  | .flushRequest _ _ _ => false
  | .flushAcknowledgement _ _ _ => false
  | .fabricWrite _ => false
  | .fabricReadRequest _ => false
  | .fabricReadResponse _ => false
  | .dropNotice _ => false
  | .abortToken _ _ _ => false
  | .linkRetrain _ => false
  | .linkReturn _ => false
  | .portDown _ => false
  | .flitRetry _ => false
  | .partWrite _ _ => false
  | .scrub _ => false
  | .partitionRelease _ => false
  | .fusion _ _ => false
  | .split _ => false
  | .keyWrite _ _ => false
  | .reportRequest _ _ => false
  | .checkpoint _ _ => false
  | .restore _ _ => false
  | .firmwareInstall _ _ => false
  | .contrailBreakpoint _ _ => false
  | .contrailPatch _ _ _ _ => false
  | .contrailAccess _ _ _ _ => false
  | .machineCheck _ => false
  | .patrolRead _ _ => false
  | .coldReset => false
  | .contextRegistration _ _ => false
  | .makeResident _ _ _ => false
  | .contrailRelease _ _ => false

end Sys2Proof
end

