-- ==== Sys2Proof/Decode.lean ====
section
/-! DEFINITION. Decode.lean: the decoder of one chain (R39 to R49, R53, R54), total on any halfwords and refusing
each encoding that is no instruction by its reason, in the order of R54; after it the encoder, which emits the
prefix order of R35. -/

namespace Sys2Proof

/-- The reasons of R54, and those of the region checks of R299, which the installer's second pass adds. -/
inductive Reject where
  | seqTrunc | pfxLong | pfxBits | pfxDup | pfxOrder | rsvPage | rsvMajor | rsvField | regRange | pfxNouse
  | pfxMissing | immRange | modKind | modPlace | modAcqst | modRelld | repTarget | repStatic
  | brTarget | modScope | hazRead | hazWrite | hazCall
  deriving DecidableEq, Repr

/-- The reason codes of R54. -/
def Reject.code : Reject → Nat
  | .seqTrunc => 0x0101 | .pfxLong => 0x0102 | .pfxBits => 0x0103 | .pfxDup => 0x0104 | .pfxOrder => 0x0105
  | .rsvPage => 0x0106 | .rsvMajor => 0x0107 | .rsvField => 0x0108 | .regRange => 0x0109 | .pfxNouse => 0x010A
  | .pfxMissing => 0x010B | .immRange => 0x010C | .modKind => 0x010D | .modPlace => 0x010E | .modAcqst => 0x010F
  | .modRelld => 0x0110 | .repTarget => 0x0111 | .repStatic => 0x0112 | .brTarget => 0x0113 | .modScope => 0x0114
  | .hazRead => 0x0115 | .hazWrite => 0x0116 | .hazCall => 0x0117

/-- Bits 14:10 of a halfword, the major (R34). -/
def halfMajor (h : Half) : Nat := bitsOf h.toNat 10 5

/-- Bits 9:0 of a halfword, payload or operands (R34). -/
def halfPayload (h : Half) : Nat := h.toNat % 1024

/-- A halfword of major 27 to 31 is a prefix on every page (R39). -/
def isPrefix (h : Half) : Bool := decide (27 ≤ halfMajor h)

/-- The first chain of a run of halfwords: its prefixes, its base word, and the rest (R39). The count is of the
prefixes still allowed. -/
def cutChain : Nat → List Half → Except Reject (List Half × Half × List Half)
  | _, [] => .error .seqTrunc
  | n, h :: hs =>
    if isPrefix h then
      match n with
      | 0 => .error .pfxLong
      | n' + 1 =>
        match cutChain n' hs with
        | .ok (ps, base, rest) => .ok (h :: ps, base, rest)
        | .error e => .error e
    else .ok ([], h, hs)

/-- The kind of a prefix: its major, and for a modifier its kind beside it (R43). -/
def prefixKind (h : Half) : Nat := if halfMajor h = 28 then 100 + bitsOf h.toNat 8 2 else halfMajor h

/-- PFX.BITS (R42, R44, R48). -/
def badBits (h : Half) : Bool :=
  h.getLsbD 15 ||
  (halfMajor h == 31 && (halfPayload h % 256 == 0 || halfPayload h / 256 != 0)) ||
  (halfMajor h == 27 && h.getLsbD 7 && bitsOf h.toNat 5 2 != 0)

/-- How often a prefix kind stands in a chain. -/
def kindCount (k : Nat) (ps : List Half) : Nat := (ps.filter (fun h => prefixKind h == k)).length

/-- PFX.DUP (R43): two immediate prefixes are allowed, and one of every other kind. -/
def badDup (ps : List Half) : Bool :=
  ps.any (fun h => decide (kindCount (prefixKind h) ps > if prefixKind h = 30 then 2 else 1))

/-- Two immediate prefixes stand apart (R43). -/
def splitImms : List Half → Bool
  | [] => false
  | h :: hs =>
    if halfMajor h = 30 then
      match hs with
      | [] => false
      | g :: gs => halfMajor g != 30 && gs.any (fun x => halfMajor x == 30)
    else splitImms hs

/-- PFX.ORDER (R43). -/
def badOrder (ps : List Half) : Bool := ps.tail.any (fun h => halfMajor h == 27) || splitImms ps

/-- The payload of the first prefix of one kind. -/
def payloadOf (k : Nat) (ps : List Half) : Option Nat :=
  match ps.find? (fun h => prefixKind h == k) with
  | some h => some (halfPayload h)
  | none => none

/-- Base-word formats: R34's A, I, J and the memory layout, with `loop`'s zero-extended I (l), the families whose
imm5 is a selector (u), and the presets of `t8.ld` (t). -/
inductive Fmt where
  | a | i | l | u | j | m | t
  deriving DecidableEq, Repr

/-- What an operand field names (R41 and the operand tables of the pages). -/
inductive Fld where
  | zero | s | v | c | k | knz | m | pair | lvl | cond
  | fixed (n : Nat)
  deriving DecidableEq, Repr

/-- A selector beyond the operand fields (R53, R277). -/
inductive Sel where
  | none | immHi (n : Nat) | kcall (n : Nat) | link
  deriving DecidableEq, Repr

/-- The use of field X (R46). -/
inductive XFld where
  | zero | range (lo hi : Nat) | kdest (sel : Nat) | fn (n : Nat)
  deriving DecidableEq, Repr

/-- The use of field Y (R46). -/
inductive YFld where
  | zero | mask | mask0 | reg | fn (n : Nat)
  deriving DecidableEq, Repr

/-- The kinds of access that the ordering modifier distinguishes (R49). -/
inductive OrdClass where
  | none | load | store | atomic | fence
  deriving DecidableEq, Repr

/-- A chain cut into fields, with its prefixes converted. -/
structure Raw where
  p  : Pfx
  f1 : BitVec 5
  f2 : BitVec 5
  deriving DecidableEq, Repr

def Raw.f1c (r : Raw) : BitVec 4 := r.f1.extractLsb' 0 4
def Raw.f2c (r : Raw) : BitVec 4 := r.f2.extractLsb' 0 4
def Raw.f1k (r : Raw) : BitVec 3 := r.f1.extractLsb' 0 3
def Raw.f2k (r : Raw) : BitVec 3 := r.f2.extractLsb' 0 3
def Raw.off (r : Raw) : BitVec 10 := r.f1 ++ r.f2
def Raw.mem (r : Raw) : MemOp := { cap := r.f2.extractLsb' 1 4, regOff := r.f2.getLsbD 0 }

/-- The condition codes of R78. -/
def Cond.code : Cond → Nat
  | .eq => 0 | .ne => 1 | .lt => 2 | .ge => 3 | .lo => 4 | .hs => 5 | .le => 6 | .gt => 7 | .ls => 8 | .hi => 9

/-- A condition from its code; a code of 10 or more never gets here (RSV.FIELD). -/
def condOf : Nat → Cond
  | 0 => .eq | 1 => .ne | 2 => .lt | 3 => .ge | 4 => .lo | 5 => .hs | 6 => .le | 7 => .gt | 8 => .ls | _ => .hi

def Raw.cond (r : Raw) : Cond := condOf r.f2.toNat

/-- One line of the opcode map (R53) with the operand uses, limits and modifiers of its home chapter. -/
structure Row where
  page     : Nat := 0
  major    : Nat
  fmt      : Fmt
  f1       : Fld := .zero
  f2       : Fld := .zero
  sel      : Sel := .none
  x        : XFld := .zero
  y        : YFld := .zero
  need     : Bool := false
  mode1    : Bool := false
  takesImm : Bool := false
  sysreg   : Bool := false
  lo       : Int := -(2 ^ 31)
  hi       : Int := 2 ^ 31
  round    : Bool := false
  lane     : Bool := false
  ord      : OrdClass := .none
  rep      : Bool := false
  build    : Raw → Instr

def rows0a : List Row := [
  { major := 0, fmt := .a, f1 := .s, f2 := .s, rep := true, build := fun r => .mv r.p r.f1 r.f2 },
  { major := 1, fmt := .a, f1 := .s, f2 := .s, rep := true, build := fun r => .add r.p r.f1 r.f2 },
  { major := 2, fmt := .a, f1 := .s, f2 := .s, rep := true, build := fun r => .sub r.p r.f1 r.f2 },
  { major := 3, fmt := .a, f1 := .s, f2 := .s, rep := true, build := fun r => .mul r.p r.f1 r.f2 },
  { major := 4, fmt := .a, f1 := .s, f2 := .s, rep := true, build := fun r => .mulh r.p r.f1 r.f2 },
  { major := 5, fmt := .a, f1 := .s, f2 := .s, rep := true, build := fun r => .div r.p r.f1 r.f2 },
  { major := 6, fmt := .a, f1 := .s, f2 := .s, rep := true, build := fun r => .rem r.p r.f1 r.f2 },
  { major := 7, fmt := .a, f1 := .s, f2 := .s, rep := true, build := fun r => .and r.p r.f1 r.f2 },
  { major := 10, fmt := .a, f1 := .s, f2 := .s, rep := true, build := fun r => .or r.p r.f1 r.f2 },
  { major := 11, fmt := .a, f1 := .s, f2 := .s, rep := true, build := fun r => .xor r.p r.f1 r.f2 },
  { major := 12, fmt := .a, f1 := .s, f2 := .s, rep := true, build := fun r => .shl r.p r.f1 r.f2 },
  { major := 13, fmt := .a, f1 := .s, f2 := .s, rep := true, build := fun r => .shr r.p r.f1 r.f2 },
  { major := 14, fmt := .a, f1 := .s, f2 := .s, rep := true, build := fun r => .sra r.p r.f1 r.f2 },
  { major := 16, fmt := .a, f1 := .s, f2 := .s, rep := true, build := fun r => .cmp r.p r.f1 r.f2 },
  { major := 8, fmt := .i, f1 := .s, takesImm := true, rep := true, build := fun r => .addi r.p r.f1 r.f2 },
  { major := 9, fmt := .i, f1 := .s, takesImm := true, rep := true, build := fun r => .li r.p r.f1 r.f2 },
  { major := 17, fmt := .i, f1 := .s, takesImm := true, rep := true, build := fun r => .cmpi r.p r.f1 r.f2 },
  { major := 15, fmt := .i, f1 := .s, sel := .immHi 0, takesImm := true, lo := 0, hi := 255, rep := true, build := fun r => .shli r.p r.f1 r.f2 },
  { major := 15, fmt := .i, f1 := .s, sel := .immHi 1, takesImm := true, lo := 0, hi := 255, rep := true, build := fun r => .shri r.p r.f1 r.f2 },
  { major := 15, fmt := .i, f1 := .s, sel := .immHi 2, takesImm := true, lo := 0, hi := 255, rep := true, build := fun r => .srai r.p r.f1 r.f2 }]

def rows0b : List Row := [
  { major := 15, fmt := .i, f1 := .s, sel := .immHi 3, takesImm := true, lo := 0, hi := 255, rep := true, build := fun r => .rori r.p r.f1 r.f2 },
  { major := 18, fmt := .u, f1 := .s, f2 := .fixed 0, rep := true, build := fun r => .clz r.p r.f1 },
  { major := 18, fmt := .u, f1 := .s, f2 := .fixed 1, rep := true, build := fun r => .ctz r.p r.f1 },
  { major := 18, fmt := .u, f1 := .s, f2 := .fixed 2, rep := true, build := fun r => .popc r.p r.f1 },
  { major := 18, fmt := .u, f1 := .s, f2 := .fixed 3, rep := true, build := fun r => .brev r.p r.f1 },
  { major := 18, fmt := .u, f1 := .s, f2 := .fixed 4, rep := true, build := fun r => .not r.p r.f1 },
  { major := 18, fmt := .u, f1 := .s, f2 := .fixed 5, rep := true, build := fun r => .neg r.p r.f1 },
  { major := 18, fmt := .u, f1 := .s, f2 := .fixed 6, rep := true, build := fun r => .abs r.p r.f1 },
  { major := 18, fmt := .u, f1 := .s, f2 := .fixed 7, rep := true, build := fun r => .sextB r.p r.f1 },
  { major := 18, fmt := .u, f1 := .s, f2 := .fixed 8, rep := true, build := fun r => .sextH r.p r.f1 },
  { major := 18, fmt := .u, f1 := .s, f2 := .fixed 9, rep := true, build := fun r => .sextW r.p r.f1 },
  { major := 18, fmt := .u, f1 := .s, f2 := .fixed 10, rep := true, build := fun r => .zextB r.p r.f1 },
  { major := 18, fmt := .u, f1 := .s, f2 := .fixed 11, rep := true, build := fun r => .zextH r.p r.f1 },
  { major := 18, fmt := .u, f1 := .s, f2 := .fixed 12, rep := true, build := fun r => .zextW r.p r.f1 },
  { major := 19, fmt := .u, f1 := .s, f2 := .cond, rep := true, build := fun r => .setc r.p r.f1 r.cond },
  { major := 20, fmt := .l, f1 := .s, takesImm := true, lo := 1, hi := 33554431, build := fun r => .loop r.p r.f1 r.f2 },
  { major := 21, fmt := .j, takesImm := true, build := fun r => .b r.p r.off },
  { major := 22, fmt := .j, takesImm := true, build := fun r => .beq r.p r.off },
  { major := 23, fmt := .j, takesImm := true, build := fun r => .bne r.p r.off },
  { major := 24, fmt := .j, takesImm := true, build := fun r => .blt r.p r.off }]

def rows0c : List Row := [
  { major := 25, fmt := .j, takesImm := true, build := fun r => .bge r.p r.off },
  { major := 26, fmt := .a, f1 := .c, f2 := .c, sel := .link, build := fun r => .call r.p r.f1c r.f2c },
  { major := 26, fmt := .a, f2 := .c, build := fun r => .jmp r.p r.f2c }]

def rows1a : List Row := [
  { page := 1, major := 0, fmt := .a, f1 := .c, f2 := .c, build := fun r => .cMv r.p r.f1c r.f2c },
  { page := 1, major := 1, fmt := .a, f1 := .c, f2 := .s, build := fun r => .cAdd r.p r.f1c r.f2 },
  { page := 1, major := 2, fmt := .i, f1 := .c, takesImm := true, build := fun r => .cAddi r.p r.f1c r.f2 },
  { page := 1, major := 3, fmt := .a, f1 := .c, f2 := .s, build := fun r => .cSetaddr r.p r.f1c r.f2 },
  { page := 1, major := 4, fmt := .a, f1 := .c, f2 := .s, build := fun r => .cSetb r.p r.f1c r.f2 },
  { page := 1, major := 5, fmt := .a, f1 := .c, f2 := .s, build := fun r => .cSetbx r.p r.f1c r.f2 },
  { page := 1, major := 6, fmt := .a, f1 := .c, f2 := .s, build := fun r => .cAndp r.p r.f1c r.f2 },
  { page := 1, major := 7, fmt := .a, f1 := .c, f2 := .c, build := fun r => .cSeal r.p r.f1c r.f2c },
  { page := 1, major := 8, fmt := .a, f1 := .c, f2 := .c, build := fun r => .cUnseal r.p r.f1c r.f2c },
  { page := 1, major := 9, fmt := .a, f1 := .c, f2 := .c, build := fun r => .cInv r.p r.f1c r.f2c },
  { page := 1, major := 10, fmt := .a, f1 := .s, f2 := .c, build := fun r => .cGaddr r.p r.f1 r.f2c },
  { page := 1, major := 11, fmt := .a, f1 := .s, f2 := .c, build := fun r => .cGbase r.p r.f1 r.f2c },
  { page := 1, major := 12, fmt := .a, f1 := .s, f2 := .c, build := fun r => .cGlen r.p r.f1 r.f2c },
  { page := 1, major := 13, fmt := .a, f1 := .s, f2 := .c, build := fun r => .cGperm r.p r.f1 r.f2c },
  { page := 1, major := 14, fmt := .a, f1 := .s, f2 := .c, build := fun r => .cGtype r.p r.f1 r.f2c },
  { page := 1, major := 15, fmt := .a, f1 := .s, f2 := .c, build := fun r => .cGtag r.p r.f1 r.f2c },
  { page := 1, major := 16, fmt := .a, f1 := .c, f2 := .c, build := fun r => .cClrtag r.p r.f1c r.f2c },
  { page := 1, major := 17, fmt := .m, f1 := .c, x := .range 0 31, takesImm := true, ord := .load, build := fun r => .cLd r.p r.f1c r.mem },
  { page := 1, major := 18, fmt := .m, f1 := .c, x := .range 0 31, takesImm := true, ord := .store, build := fun r => .cSt r.p r.f1c r.mem },
  { page := 1, major := 19, fmt := .a, f1 := .s, f2 := .s, build := fun r => .cFit r.p r.f1 r.f2 }]

def rows1b : List Row := [
  { page := 1, major := 20, fmt := .a, f1 := .c, f2 := .s, build := fun r => .cSnap r.p r.f1c r.f2 },
  { page := 1, major := 21, fmt := .a, f1 := .c, f2 := .s, build := fun r => .cPaint r.p r.f1c r.f2 },
  { page := 1, major := 22, fmt := .a, f1 := .s, f2 := .s, build := fun r => .cSweep r.p r.f1 r.f2 },
  { page := 1, major := 23, fmt := .a, f1 := .s, f2 := .s, build := fun r => .cSweepq r.p r.f1 r.f2 }]

def rows2a : List Row := [
  { page := 2, major := 0, fmt := .m, f1 := .s, x := .range 0 31, takesImm := true, ord := .load, rep := true, build := fun r => .ldW r.p r.f1 r.mem },
  { page := 2, major := 1, fmt := .m, f1 := .s, x := .range 0 31, takesImm := true, ord := .store, rep := true, build := fun r => .stW r.p r.f1 r.mem },
  { page := 2, major := 2, fmt := .m, f1 := .s, x := .range 0 31, takesImm := true, ord := .load, rep := true, build := fun r => .ldD r.p r.f1 r.mem },
  { page := 2, major := 3, fmt := .m, f1 := .s, x := .range 0 31, takesImm := true, ord := .store, rep := true, build := fun r => .stD r.p r.f1 r.mem },
  { page := 2, major := 4, fmt := .m, f1 := .s, x := .range 0 31, takesImm := true, ord := .load, rep := true, build := fun r => .ldB r.p r.f1 r.mem },
  { page := 2, major := 5, fmt := .m, f1 := .s, x := .range 0 31, takesImm := true, ord := .store, rep := true, build := fun r => .stB r.p r.f1 r.mem },
  { page := 2, major := 6, fmt := .m, f1 := .s, x := .range 0 31, takesImm := true, ord := .load, rep := true, build := fun r => .ldH r.p r.f1 r.mem },
  { page := 2, major := 7, fmt := .m, f1 := .s, x := .range 0 31, takesImm := true, ord := .store, rep := true, build := fun r => .stH r.p r.f1 r.mem },
  { page := 2, major := 8, fmt := .m, f1 := .v, x := .range 0 31, y := .mask, takesImm := true, ord := .load, rep := true, build := fun r => .vLd r.p r.f1 r.mem },
  { page := 2, major := 9, fmt := .m, f1 := .v, x := .range 0 31, y := .mask, takesImm := true, round := true, ord := .store, rep := true, build := fun r => .vSt r.p r.f1 r.mem },
  { page := 2, major := 10, fmt := .m, f1 := .s, x := .range 0 31, takesImm := true, ord := .load, rep := true, build := fun r => .ldWz r.p r.f1 r.mem },
  { page := 2, major := 11, fmt := .m, f1 := .s, x := .range 0 31, takesImm := true, ord := .load, rep := true, build := fun r => .ldBz r.p r.f1 r.mem },
  { page := 2, major := 12, fmt := .m, f1 := .s, x := .range 0 31, takesImm := true, ord := .load, rep := true, build := fun r => .ldHz r.p r.f1 r.mem },
  { page := 2, major := 13, fmt := .m, f1 := .pair, x := .range 0 31, y := .mask, mode1 := true, takesImm := true, lane := true, ord := .load, rep := true, build := fun r => .vGth r.p r.f1 r.mem },
  { page := 2, major := 14, fmt := .m, f1 := .pair, x := .range 0 31, y := .mask, mode1 := true, takesImm := true, round := true, lane := true, ord := .store, rep := true, build := fun r => .vSct r.p r.f1 r.mem },
  { page := 2, major := 15, fmt := .m, f1 := .v, x := .range 0 31, y := .mask, takesImm := true, ord := .load, rep := true, build := fun r => .vLdb r.p r.f1 r.mem },
  { page := 2, major := 16, fmt := .m, f1 := .v, x := .range 0 30, y := .mask, mode1 := true, takesImm := true, ord := .load, rep := true, build := fun r => .vLds r.p r.f1 r.mem },
  { page := 2, major := 17, fmt := .m, f1 := .v, x := .range 0 30, y := .mask, mode1 := true, takesImm := true, round := true, ord := .store, rep := true, build := fun r => .vSts r.p r.f1 r.mem },
  { page := 2, major := 18, fmt := .m, f1 := .s, x := .range 0 31, takesImm := true, build := fun r => .wsQ r.p r.f1 r.mem },
  { page := 2, major := 19, fmt := .m, f1 := .lvl, x := .range 0 31, takesImm := true, build := fun r => .pf r.p r.f1 r.mem }]

def rows2b : List Row := [
  { page := 2, major := 20, fmt := .m, f1 := .knz, x := .range 0 31, takesImm := true, ord := .load, build := fun r => .kLd r.p r.f1k r.mem },
  { page := 2, major := 21, fmt := .m, f1 := .k, x := .range 0 31, takesImm := true, ord := .store, build := fun r => .kSt r.p r.f1k r.mem }]

def rows3a : List Row := [
  { page := 3, major := 0, fmt := .m, f1 := .s, x := .range 0 31, takesImm := true, ord := .atomic, build := fun r => .amAdd r.p r.f1 r.mem },
  { page := 3, major := 1, fmt := .m, f1 := .s, x := .range 0 31, takesImm := true, ord := .atomic, build := fun r => .amAnd r.p r.f1 r.mem },
  { page := 3, major := 2, fmt := .m, f1 := .s, x := .range 0 31, takesImm := true, ord := .atomic, build := fun r => .amOr r.p r.f1 r.mem },
  { page := 3, major := 3, fmt := .m, f1 := .s, x := .range 0 31, takesImm := true, ord := .atomic, build := fun r => .amXor r.p r.f1 r.mem },
  { page := 3, major := 4, fmt := .m, f1 := .s, x := .range 0 31, takesImm := true, ord := .atomic, build := fun r => .amMin r.p r.f1 r.mem },
  { page := 3, major := 5, fmt := .m, f1 := .s, x := .range 0 31, takesImm := true, ord := .atomic, build := fun r => .amMax r.p r.f1 r.mem },
  { page := 3, major := 6, fmt := .m, f1 := .s, x := .range 0 31, takesImm := true, ord := .atomic, build := fun r => .amSwp r.p r.f1 r.mem },
  { page := 3, major := 7, fmt := .m, f1 := .s, x := .range 0 31, y := .reg, need := true, takesImm := true, ord := .atomic, build := fun r => .amCas r.p r.f1 r.mem },
  { page := 3, major := 8, fmt := .m, f1 := .s, x := .range 0 31, takesImm := true, ord := .atomic, build := fun r => .amFadd r.p r.f1 r.mem },
  { page := 3, major := 9, fmt := .m, f1 := .s, x := .range 0 31, y := .fn 0, need := true, takesImm := true, ord := .atomic, build := fun r => .amUpdAdd r.p r.f1 r.mem },
  { page := 3, major := 9, fmt := .m, f1 := .s, x := .range 0 31, y := .fn 1, need := true, takesImm := true, ord := .atomic, build := fun r => .amUpdOr r.p r.f1 r.mem },
  { page := 3, major := 9, fmt := .m, f1 := .s, x := .range 0 31, y := .fn 2, need := true, takesImm := true, ord := .atomic, build := fun r => .amUpdAnd r.p r.f1 r.mem },
  { page := 3, major := 9, fmt := .m, f1 := .s, x := .range 0 31, y := .fn 3, need := true, takesImm := true, ord := .atomic, build := fun r => .amUpdXor r.p r.f1 r.mem },
  { page := 3, major := 9, fmt := .m, f1 := .s, x := .range 0 31, y := .fn 4, need := true, takesImm := true, ord := .atomic, build := fun r => .amUpdMin r.p r.f1 r.mem },
  { page := 3, major := 9, fmt := .m, f1 := .s, x := .range 0 31, y := .fn 5, need := true, takesImm := true, ord := .atomic, build := fun r => .amUpdMax r.p r.f1 r.mem },
  { page := 3, major := 9, fmt := .m, f1 := .s, x := .range 0 31, y := .fn 6, need := true, takesImm := true, ord := .atomic, build := fun r => .amUpdFadd r.p r.f1 r.mem },
  { page := 3, major := 10, fmt := .m, f1 := .s, x := .range 0 31, takesImm := true, build := fun r => .swInit r.p r.f1 r.mem },
  { page := 3, major := 11, fmt := .m, f1 := .s, x := .range 0 31, takesImm := true, build := fun r => .swWait r.p r.f1 r.mem },
  { page := 3, major := 12, fmt := .m, f1 := .s, x := .range 0 31, takesImm := true, build := fun r => .swGen r.p r.f1 r.mem },
  { page := 3, major := 13, fmt := .i, f1 := .s, lo := 0, hi := 15, build := fun r => .barArv r.p r.f1 r.f2 }]

def rows3b : List Row := [
  { page := 3, major := 14, fmt := .i, f1 := .s, lo := 0, hi := 15, build := fun r => .barWt r.p r.f1 r.f2 },
  { page := 3, major := 15, fmt := .i, f1 := .s, lo := 0, hi := 15, build := fun r => .barCfg r.p r.f1 r.f2 },
  { page := 3, major := 16, fmt := .a, f1 := .s, f2 := .s, x := .range 0 31, need := true, ord := .store, build := fun r => .mbPut r.p r.f1 r.f2 },
  { page := 3, major := 17, fmt := .a, f1 := .s, f2 := .m, ord := .load, build := fun r => .mbGet r.p r.f1 r.f2 },
  { page := 3, major := 18, fmt := .a, f1 := .s, build := fun r => .mbTest r.p r.f1 },
  { page := 3, major := 19, fmt := .i, f1 := .s, takesImm := true, lo := 1, hi := 15, ord := .fence, build := fun r => .fence r.p r.f1 r.f2 }]

def rows4a : List Row := [
  { page := 4, major := 0, fmt := .a, f1 := .v, f2 := .v, y := .mask, rep := true, build := fun r => .vMv r.p r.f1 r.f2 },
  { page := 4, major := 1, fmt := .a, f1 := .v, f2 := .v, y := .mask, round := true, rep := true, build := fun r => .vAdd r.p r.f1 r.f2 },
  { page := 4, major := 2, fmt := .a, f1 := .v, f2 := .v, y := .mask, round := true, rep := true, build := fun r => .vSub r.p r.f1 r.f2 },
  { page := 4, major := 3, fmt := .a, f1 := .v, f2 := .v, y := .mask, round := true, rep := true, build := fun r => .vMul r.p r.f1 r.f2 },
  { page := 4, major := 4, fmt := .a, f1 := .v, f2 := .v, x := .range 0 31, y := .mask, need := true, round := true, rep := true, build := fun r => .vFma r.p r.f1 r.f2 },
  { page := 4, major := 5, fmt := .a, f1 := .v, f2 := .v, x := .range 0 31, y := .mask, need := true, round := true, rep := true, build := fun r => .vFms r.p r.f1 r.f2 },
  { page := 4, major := 6, fmt := .a, f1 := .v, f2 := .v, y := .mask, rep := true, build := fun r => .vMin r.p r.f1 r.f2 },
  { page := 4, major := 7, fmt := .a, f1 := .v, f2 := .v, y := .mask, rep := true, build := fun r => .vMax r.p r.f1 r.f2 },
  { page := 4, major := 8, fmt := .a, f1 := .v, f2 := .v, y := .mask, rep := true, build := fun r => .vAbs r.p r.f1 r.f2 },
  { page := 4, major := 9, fmt := .a, f1 := .v, f2 := .v, y := .mask, rep := true, build := fun r => .vNeg r.p r.f1 r.f2 },
  { page := 4, major := 10, fmt := .a, f1 := .v, f2 := .v, y := .mask, rep := true, build := fun r => .vIadd r.p r.f1 r.f2 },
  { page := 4, major := 11, fmt := .a, f1 := .v, f2 := .v, y := .mask, rep := true, build := fun r => .vIsub r.p r.f1 r.f2 },
  { page := 4, major := 12, fmt := .a, f1 := .v, f2 := .v, y := .mask, rep := true, build := fun r => .vImul r.p r.f1 r.f2 },
  { page := 4, major := 13, fmt := .a, f1 := .v, f2 := .v, y := .mask, rep := true, build := fun r => .vImin r.p r.f1 r.f2 },
  { page := 4, major := 14, fmt := .a, f1 := .v, f2 := .v, y := .mask, rep := true, build := fun r => .vImax r.p r.f1 r.f2 },
  { page := 4, major := 15, fmt := .a, f1 := .v, f2 := .v, y := .mask, rep := true, build := fun r => .vAnd r.p r.f1 r.f2 },
  { page := 4, major := 16, fmt := .a, f1 := .v, f2 := .v, y := .mask, rep := true, build := fun r => .vOr r.p r.f1 r.f2 },
  { page := 4, major := 17, fmt := .a, f1 := .v, f2 := .v, y := .mask, rep := true, build := fun r => .vXor r.p r.f1 r.f2 },
  { page := 4, major := 18, fmt := .a, f1 := .v, f2 := .v, y := .mask, rep := true, build := fun r => .vShl r.p r.f1 r.f2 },
  { page := 4, major := 19, fmt := .a, f1 := .v, f2 := .v, y := .mask, rep := true, build := fun r => .vShr r.p r.f1 r.f2 }]

def rows4b : List Row := [
  { page := 4, major := 20, fmt := .a, f1 := .v, f2 := .v, y := .mask, rep := true, build := fun r => .vSra r.p r.f1 r.f2 },
  { page := 4, major := 21, fmt := .a, f1 := .v, f2 := .v, x := .kdest 0, y := .mask, need := true, rep := true, build := fun r => .vFeq r.p r.f1 r.f2 },
  { page := 4, major := 21, fmt := .a, f1 := .v, f2 := .v, x := .kdest 1, y := .mask, need := true, rep := true, build := fun r => .vFlt r.p r.f1 r.f2 },
  { page := 4, major := 21, fmt := .a, f1 := .v, f2 := .v, x := .kdest 2, y := .mask, need := true, rep := true, build := fun r => .vFle r.p r.f1 r.f2 },
  { page := 4, major := 21, fmt := .a, f1 := .v, f2 := .v, x := .kdest 3, y := .mask, need := true, rep := true, build := fun r => .vFun r.p r.f1 r.f2 },
  { page := 4, major := 22, fmt := .a, f1 := .v, f2 := .v, x := .kdest 0, y := .mask, need := true, rep := true, build := fun r => .vIeq r.p r.f1 r.f2 },
  { page := 4, major := 22, fmt := .a, f1 := .v, f2 := .v, x := .kdest 1, y := .mask, need := true, rep := true, build := fun r => .vIlt r.p r.f1 r.f2 },
  { page := 4, major := 22, fmt := .a, f1 := .v, f2 := .v, x := .kdest 2, y := .mask, need := true, rep := true, build := fun r => .vIle r.p r.f1 r.f2 },
  { page := 4, major := 22, fmt := .a, f1 := .v, f2 := .v, x := .kdest 3, y := .mask, need := true, rep := true, build := fun r => .vIlo r.p r.f1 r.f2 },
  { page := 4, major := 23, fmt := .a, f1 := .v, f2 := .v, y := .mask, rep := true, build := fun r => .vIabs r.p r.f1 r.f2 },
  { page := 4, major := 24, fmt := .a, f1 := .v, f2 := .s, y := .mask, rep := true, build := fun r => .vBcs r.p r.f1 r.f2 },
  { page := 4, major := 25, fmt := .i, f1 := .v, y := .mask, takesImm := true, rep := true, build := fun r => .vLi r.p r.f1 r.f2 },
  { page := 4, major := 26, fmt := .a, f1 := .knz, f2 := .k, x := .fn 0, need := true, rep := true, build := fun r => .kAnd r.p r.f1k r.f2k },
  { page := 4, major := 26, fmt := .a, f1 := .knz, f2 := .k, x := .fn 1, need := true, rep := true, build := fun r => .kOr r.p r.f1k r.f2k },
  { page := 4, major := 26, fmt := .a, f1 := .knz, f2 := .k, x := .fn 2, need := true, rep := true, build := fun r => .kXor r.p r.f1k r.f2k },
  { page := 4, major := 26, fmt := .a, f1 := .knz, f2 := .k, x := .fn 3, need := true, rep := true, build := fun r => .kAndn r.p r.f1k r.f2k },
  { page := 4, major := 26, fmt := .a, f1 := .knz, f2 := .k, x := .fn 4, need := true, rep := true, build := fun r => .kNot r.p r.f1k r.f2k },
  { page := 4, major := 26, fmt := .a, f1 := .knz, f2 := .k, x := .fn 5, need := true, rep := true, build := fun r => .kMv r.p r.f1k r.f2k }]

def rows5a : List Row := [
  { page := 5, major := 0, fmt := .a, f1 := .v, f2 := .v, y := .mask, round := true, rep := true, build := fun r => .vCvtfi r.p r.f1 r.f2 },
  { page := 5, major := 1, fmt := .a, f1 := .v, f2 := .v, y := .mask, round := true, rep := true, build := fun r => .vCvtif r.p r.f1 r.f2 },
  { page := 5, major := 2, fmt := .a, f1 := .v, f2 := .v, y := .mask, rep := true, build := fun r => .vExp2 r.p r.f1 r.f2 },
  { page := 5, major := 3, fmt := .a, f1 := .v, f2 := .v, y := .mask, rep := true, build := fun r => .vLog2 r.p r.f1 r.f2 },
  { page := 5, major := 4, fmt := .a, f1 := .v, f2 := .v, y := .mask, rep := true, build := fun r => .vRcp r.p r.f1 r.f2 },
  { page := 5, major := 5, fmt := .a, f1 := .v, f2 := .v, y := .mask, rep := true, build := fun r => .vRsq r.p r.f1 r.f2 },
  { page := 5, major := 6, fmt := .a, f1 := .v, f2 := .v, y := .mask, round := true, rep := true, build := fun r => .vSqrt r.p r.f1 r.f2 },
  { page := 5, major := 7, fmt := .a, f1 := .v, f2 := .v, x := .range 0 31, y := .mask, need := true, rep := true, build := fun r => .vPerm r.p r.f1 r.f2 },
  { page := 5, major := 8, fmt := .i, f1 := .v, y := .mask, takesImm := true, lo := 0, hi := 63, rep := true, build := fun r => .vBcl r.p r.f1 r.f2 },
  { page := 5, major := 9, fmt := .i, f1 := .v, y := .mask, takesImm := true, lo := 0, hi := 63, rep := true, build := fun r => .vRot r.p r.f1 r.f2 },
  { page := 5, major := 10, fmt := .a, f1 := .s, f2 := .v, y := .mask0, round := true, rep := true, build := fun r => .vRsum r.p r.f1 r.f2 },
  { page := 5, major := 11, fmt := .a, f1 := .s, f2 := .v, y := .mask0, rep := true, build := fun r => .vRmax r.p r.f1 r.f2 },
  { page := 5, major := 12, fmt := .a, f1 := .s, f2 := .v, y := .mask0, rep := true, build := fun r => .vRmin r.p r.f1 r.f2 },
  { page := 5, major := 13, fmt := .a, f1 := .s, f2 := .v, y := .mask0, rep := true, build := fun r => .vIrsum r.p r.f1 r.f2 },
  { page := 5, major := 14, fmt := .a, f1 := .v, f2 := .v, y := .mask, rep := true, build := fun r => .vT8dec r.p r.f1 r.f2 },
  { page := 5, major := 15, fmt := .a, f1 := .v, f2 := .v, y := .mask, round := true, rep := true, build := fun r => .vT8enc r.p r.f1 r.f2 },
  { page := 5, major := 16, fmt := .m, f1 := .fixed 0, x := .range 0 31, takesImm := true, rep := true, build := fun r => .t8Ld r.p r.mem },
  { page := 5, major := 16, fmt := .t, f1 := .fixed 1, rep := true, build := fun r => .t8LdE4 r.p },
  { page := 5, major := 16, fmt := .t, f1 := .fixed 2, rep := true, build := fun r => .t8LdE5 r.p },
  { page := 5, major := 17, fmt := .a, f1 := .s, f2 := .v, rep := true, build := fun r => .vExt r.p r.f1 r.f2 }]

def rows5b : List Row := [
  { page := 5, major := 18, fmt := .a, f1 := .v, f2 := .s, rep := true, build := fun r => .vIns r.p r.f1 r.f2 },
  { page := 5, major := 19, fmt := .a, f1 := .s, f2 := .k, rep := true, build := fun r => .kPop r.p r.f1 r.f2k },
  { page := 5, major := 20, fmt := .a, f1 := .s, f2 := .k, rep := true, build := fun r => .kFirst r.p r.f1 r.f2k },
  { page := 5, major := 21, fmt := .a, f1 := .v, f2 := .v, y := .mask, round := true, rep := true, build := fun r => .vRnd r.p r.f1 r.f2 },
  { page := 5, major := 22, fmt := .a, f1 := .v, f2 := .v, y := .mask, rep := true, build := fun r => .vCmpr r.p r.f1 r.f2 }]

def rows6a : List Row := [
  { page := 6, major := 0, fmt := .m, f1 := .s, x := .range 0 31, takesImm := true, build := fun r => .mLds r.p r.f1 r.mem },
  { page := 6, major := 2, fmt := .m, f1 := .s, x := .range 0 31, takesImm := true, build := fun r => .mStr r.p r.f1 r.mem },
  { page := 6, major := 3, fmt := .m, f1 := .s, x := .range 0 31, takesImm := true, build := fun r => .mMrot r.p r.f1 r.mem },
  { page := 6, major := 4, fmt := .m, f1 := .s, x := .range 0 31, takesImm := true, round := true, build := fun r => .mRd r.p r.f1 r.mem },
  { page := 6, major := 6, fmt := .m, f1 := .s, x := .range 0 31, takesImm := true, build := fun r => .mCmd r.p r.f1 r.mem },
  { page := 6, major := 8, fmt := .m, f1 := .s, x := .range 0 31, takesImm := true, round := true, build := fun r => .mRdz r.p r.f1 r.mem },
  { page := 6, major := 1, fmt := .a, build := fun r => .mSwap r.p },
  { page := 6, major := 5, fmt := .a, build := fun r => .mZero r.p },
  { page := 6, major := 7, fmt := .a, build := fun r => .mDrain r.p },
  { page := 6, major := 9, fmt := .a, f1 := .s, build := fun r => .mQ r.p r.f1 }]

def rows7a : List Row := [
  { page := 7, major := 0, fmt := .a, build := fun r => .endF r.p },
  { page := 7, major := 1, fmt := .a, f1 := .s, f2 := .s, build := fun r => .send r.p r.f1 r.f2 },
  { page := 7, major := 2, fmt := .a, f1 := .s, f2 := .s, build := fun r => .sendU r.p r.f1 r.f2 },
  { page := 7, major := 3, fmt := .a, f1 := .s, f2 := .s, build := fun r => .fork r.p r.f1 r.f2 },
  { page := 7, major := 4, fmt := .a, f2 := .s, build := fun r => .join r.p r.f2 },
  { page := 7, major := 5, fmt := .a, f1 := .s, f2 := .s, build := fun r => .jcInit r.p r.f1 r.f2 },
  { page := 7, major := 6, fmt := .a, f1 := .s, f2 := .s, build := fun r => .chunk r.p r.f1 r.f2 },
  { page := 7, major := 7, fmt := .a, build := fun r => .yield r.p },
  { page := 7, major := 8, fmt := .a, f2 := .s, build := fun r => .hEn r.p r.f2 },
  { page := 7, major := 9, fmt := .a, f2 := .s, build := fun r => .hDis r.p r.f2 },
  { page := 7, major := 10, fmt := .a, f2 := .s, build := fun r => .hPend r.p r.f2 },
  { page := 7, major := 11, fmt := .a, f2 := .s, build := fun r => .hClrp r.p r.f2 },
  { page := 7, major := 12, fmt := .a, f1 := .s, f2 := .s, build := fun r => .inPop r.p r.f1 r.f2 },
  { page := 7, major := 13, fmt := .a, f1 := .s, f2 := .s, build := fun r => .inCnt r.p r.f1 r.f2 },
  { page := 7, major := 14, fmt := .i, f1 := .s, takesImm := true, lo := 0, hi := 5, build := fun r => .widFld r.p r.f1 r.f2 },
  { page := 7, major := 15, fmt := .i, f1 := .s, takesImm := true, lo := 0, hi := 16777215, build := fun r => .tsAdd r.p r.f1 r.f2 },
  { page := 7, major := 16, fmt := .a, f1 := .s, f2 := .s, build := fun r => .hTag r.p r.f1 r.f2 }]

def rows8a : List Row := [
  { page := 8, major := 0, fmt := .a, f1 := .c, f2 := .c, x := .range 1 28, need := true, build := fun r => .cp r.p r.f1c r.f2c },
  { page := 8, major := 1, fmt := .a, f1 := .c, f2 := .c, x := .range 1 28, y := .reg, need := true, build := fun r => .cpTry r.p r.f1c r.f2c },
  { page := 8, major := 2, fmt := .a, f1 := .s, f2 := .s, build := fun r => .tkQ r.p r.f1 r.f2 },
  { page := 8, major := 3, fmt := .a, f1 := .c, f2 := .c, x := .range 1 30, need := true, build := fun r => .slvBegin r.p r.f1c r.f2c },
  { page := 8, major := 4, fmt := .a, build := fun r => .slvEnd r.p },
  { page := 8, major := 5, fmt := .a, build := fun r => .slvHclr r.p },
  { page := 8, major := 6, fmt := .a, f1 := .s, f2 := .s, build := fun r => .slvQ r.p r.f1 r.f2 },
  { page := 8, major := 7, fmt := .a, f1 := .s, f2 := .s, build := fun r => .cpRsm r.p r.f1 r.f2 }]

def rows9a : List Row := [
  { page := 9, major := 0, fmt := .i, f1 := .s, takesImm := true, sysreg := true, lo := 0, hi := 63, build := fun r => .rsr r.p r.f1 r.f2 },
  { page := 9, major := 1, fmt := .i, f1 := .s, takesImm := true, sysreg := true, lo := 0, hi := 63, build := fun r => .wsr r.p r.f1 r.f2 },
  { page := 9, major := 2, fmt := .i, sel := .kcall 0, takesImm := true, lo := 0, hi := 255, build := fun r => .kcallSliceEnd r.p r.f2 },
  { page := 9, major := 2, fmt := .i, sel := .kcall 1, takesImm := true, lo := 0, hi := 255, build := fun r => .kcallBudget r.p r.f2 },
  { page := 9, major := 2, fmt := .i, sel := .kcall 2, takesImm := true, lo := 0, hi := 255, build := fun r => .kcallStops r.p r.f2 },
  { page := 9, major := 2, fmt := .i, sel := .kcall 3, takesImm := true, lo := 0, hi := 255, build := fun r => .kcallUnbound r.p r.f2 },
  { page := 9, major := 2, fmt := .i, sel := .kcall 4, takesImm := true, lo := 0, hi := 255, build := fun r => .kcallRevoke r.p r.f2 },
  { page := 9, major := 2, fmt := .i, sel := .kcall 5, takesImm := true, lo := 0, hi := 255, build := fun r => .kcallSweepQuery r.p r.f2 },
  { page := 9, major := 2, fmt := .i, sel := .kcall 6, takesImm := true, lo := 0, hi := 255, build := fun r => .kcallOther r.p r.f2 },
  { page := 9, major := 3, fmt := .a, f2 := .fixed 0, build := fun r => .tret r.p },
  { page := 9, major := 3, fmt := .a, f2 := .fixed 1, build := fun r => .tretSkip r.p },
  { page := 9, major := 4, fmt := .a, f1 := .c, f2 := .c, build := fun r => .cslInst r.p r.f1c r.f2c },
  { page := 9, major := 5, fmt := .a, f1 := .s, f2 := .c, build := fun r => .cslRbld r.p r.f1 r.f2c },
  { page := 9, major := 6, fmt := .a, f1 := .c, f2 := .c, build := fun r => .cslBind r.p r.f1c r.f2c },
  { page := 9, major := 7, fmt := .a, f1 := .s, f2 := .c, build := fun r => .cslQ r.p r.f1 r.f2c },
  { page := 9, major := 8, fmt := .a, f1 := .s, f2 := .s, build := fun r => .pairOn r.p r.f1 r.f2 },
  { page := 9, major := 9, fmt := .a, f1 := .s, build := fun r => .pairOff r.p r.f1 },
  { page := 9, major := 10, fmt := .i, takesImm := true, lo := 0, hi := 1023, build := fun r => .brk r.p r.f2 },
  { page := 9, major := 11, fmt := .a, f2 := .c, build := fun r => .ctxSv r.p r.f2c },
  { page := 9, major := 12, fmt := .a, f1 := .c, f2 := .s, build := fun r => .ctxLd r.p r.f1c r.f2 }]

def rows9b : List Row := [
  { page := 9, major := 13, fmt := .a, f2 := .c, build := fun r => .accSv r.p r.f2c },
  { page := 9, major := 14, fmt := .a, f2 := .c, build := fun r => .accLd r.p r.f2c },
  { page := 9, major := 15, fmt := .a, build := fun r => .idle r.p }]

/-- The opcode map of R53, page by page. -/
def rows : List Row :=
  rows0a ++ rows0b ++ rows0c ++ rows1a ++ rows1b ++ rows2a ++ rows2b ++ rows3a ++ rows3b ++ rows4a ++ rows4b ++ rows5a ++ rows5b ++ rows6a ++ rows7a ++ rows8a ++ rows9a ++ rows9b

/-- What a chain presents to the map: page, major, base operands, extra-register payload, immediate payloads. -/
structure Parts where
  page  : Nat
  major : Nat
  ops   : Nat
  xr    : Option Nat
  imms  : List (BitVec 10)
  deriving DecidableEq, Repr

def Parts.n1 (q : Parts) : Nat := q.ops / 32 % 32
def Parts.n2 (q : Parts) : Nat := q.ops % 32
def Parts.nx (q : Parts) : Nat := match q.xr with | some v => v / 32 % 32 | none => 0
def Parts.ny (q : Parts) : Nat := match q.xr with | some v => v % 32 | none => 0

/-- The assembled immediate under a row's format (R35, R47). -/
def Row.imm (row : Row) (q : Parts) : Int :=
  let w := 10 * q.imms.length
  match row.fmt with
  | .i => sextNat (5 + w) (immPayload q.imms 0 * 32 + q.n2)
  | .l => (immPayload q.imms 0 * 32 + q.n2 : Nat)
  | .j => sextNat (10 + w) (immPayload q.imms 0 * 1024 + q.ops)
  | .m => sextNat w (immPayload q.imms 0)
  | _ => 0

/-- The row is the member of its family that the chain's selector names (R53). -/
def Row.selects (row : Row) (q : Parts) : Bool :=
  row.page == q.page && row.major == q.major &&
  (match row.f1 with | .fixed n => q.n1 == n | _ => true) &&
  (match row.f2 with | .fixed n => q.n2 == n | _ => true) &&
  (match row.x with | .kdest n => q.nx / 8 == n | .fn n => q.nx % 8 == n | _ => true) &&
  (match row.y with | .fn n => q.ny == n | _ => true) &&
  (match row.sel with
    | .none => true
    | .immHi n => (row.imm q) / 64 % 4 == n
    | .kcall n => if n < 6 then row.imm q == n else true
    | .link => q.n1 != 0)

/-- Field X takes part in the instruction: not in mode 0 of the memory layout (R46). -/
def Row.usesX (row : Row) (q : Parts) : Bool :=
  row.x != .zero && !(row.fmt == .m && q.n2 % 2 == 0)

/-- The extra-register prefix is one the instruction uses (R46). -/
def Row.usesXr (row : Row) (q : Parts) : Bool := row.usesX q || row.y != .zero

/-- RSV.FIELD for one operand field. -/
def Fld.reserved : Fld → Nat → Bool
  | .zero, n => n != 0
  | .knz, n => n == 0
  | .lvl, n => decide (1 < n)
  | .cond, n => decide (9 < n)
  | .fixed w, n => n != w
  | _, _ => false

/-- REG.RANGE for one operand field. -/
def Fld.outside : Fld → Nat → Bool
  | .c, n => decide (15 < n)
  | .k, n => decide (7 < n)
  | .knz, n => decide (7 < n)
  | .pair, n => decide (30 < n)
  | _, _ => false

/-- The size of the file a field steps through (R44, R123, R154). -/
def Fld.fileSize : Fld → Nat
  | .c => 16 | .k => 8 | .knz => 8 | .pair => 31 | .fixed _ => 3 | _ => 32

/-- RSV.FIELD (R41, R46, R53, R270). -/
def Row.rsvField (row : Row) (q : Parts) : Bool :=
  (row.fmt != .j && row.f1.reserved q.n1) ||
  ((row.fmt == .a || row.fmt == .u || row.fmt == .t) && row.f2.reserved q.n2) ||
  (row.mode1 && q.n2 % 2 == 0) ||
  (row.sysreg && decide (29 ≤ row.imm q) && decide (row.imm q ≤ 63)) ||
  (q.xr.isSome && row.usesXr q &&
    ((!row.usesX q && q.nx != 0) ||
     (match row.x with
       | .kdest _ => q.nx % 8 == 0
       | .fn _ => decide (7 < q.nx)
       | _ => false) ||
     (match row.y with
       | .zero => q.ny != 0
       | .mask => decide (15 < q.ny)
       | .mask0 => decide (7 < q.ny)
       | _ => false)))

/-- REG.RANGE (R41, R122, R248, R291). -/
def Row.regRange (row : Row) (q : Parts) : Bool :=
  (row.fmt != .j && row.f1.outside q.n1) || (row.fmt == .a && row.f2.outside q.n2) ||
  (q.xr.isSome && row.usesX q &&
    (match row.x with
      | .range lo hi => decide (q.nx < lo) || decide (hi < q.nx)
      | _ => false))

/-- PFX.NOUSE (R46, R47). -/
def Row.noUse (row : Row) (q : Parts) : Bool :=
  (q.xr.isSome && !row.usesXr q) ||
  (!q.imms.isEmpty && (!row.takesImm || (row.fmt == .m && q.n2 % 2 == 1)))

/-- PFX.MISSING (R46, R197). -/
def Row.missing (row : Row) (q : Parts) (ord : Option Nat) : Bool :=
  (q.xr.isNone && (row.need || (row.fmt == .m && q.n2 % 2 == 1))) ||
  (row.ord == .fence && (match ord with | some v => v / 64 % 4 == 0 | none => true))

/-- MOD.KIND (R45). -/
def badModifier (num ord wait bad : Option Nat) : Bool :=
  bad.isSome ||
  (match num with
    | some v => v % 256 == 0 || decide (5 < v / 32 % 8) || decide (1 < v / 8 % 4) || ((v / 8 % 4 == 1) != (v % 8 != 0))
    | none => false) ||
  (match ord with
    | some v => decide (5 < v / 8 % 8) || v % 8 != 0 || v / 8 % 32 == 0
    | none => false) ||
  (match wait with
    | some v => v % 256 == 0
    | none => false)

/-- MOD.PLACE (R49). -/
def Row.modPlace (row : Row) (num ord : Option Nat) : Bool :=
  (match num with
    | some v => (v / 32 % 8 != 0 && !row.round) || (v / 8 % 4 != 0 && !row.lane)
    | none => false) ||
  (ord.isSome && row.ord == .none)

/-- Acquire (bit 0 of the order) on a store, release (bit 1) on a load (R49). -/
def orderBit (ord : Option Nat) (b : Nat) : Bool := match ord with | some v => v / 64 / 2 ^ b % 2 == 1 | none => false

/-- REP.TARGET (R44). -/
def Row.repTarget (row : Row) (rep : Option Nat) : Bool :=
  match rep with
  | none => false
  | some v => !row.rep || (v / 256 % 2 == 1 && row.fmt != .a)

/-- REP.STATIC (R44). -/
def Row.repStatic (row : Row) (q : Parts) (rep : Option Nat) : Bool :=
  match rep with
  | none => false
  | some v =>
    v / 128 % 2 == 0 && v % 128 != 0 &&
      ((v / 512 % 2 == 1 && decide (q.n1 + v % 128 > row.f1.fileSize)) ||
       (v / 256 % 2 == 1 && decide (q.n2 + v % 128 > row.f2.fileSize)))

/-- The first failing check of a chain against its row, in the order of R54. -/
def Row.check (row : Row) (q : Parts) (rep num ord wait bad : Option Nat) : Option Reject :=
  if row.rsvField q then some .rsvField
  else if row.regRange q then some .regRange
  else if row.noUse q then some .pfxNouse
  else if row.missing q ord then some .pfxMissing
  else if decide (row.imm q < row.lo) || decide (row.hi < row.imm q) then some .immRange
  else if badModifier num ord wait bad then some .modKind
  else if row.modPlace num ord then some .modPlace
  else if row.ord == .store && orderBit ord 0 then some .modAcqst
  else if row.ord == .load && orderBit ord 1 then some .modRelld
  else if row.repTarget rep then some .repTarget
  else if row.repStatic q rep then some .repStatic
  else none

def roundOf : Nat → Round
  | 1 => .rn | 2 => .rz | 3 => .ru | 4 => .rd | 5 => .ro | _ => .dflt
def orderOf : Nat → Order
  | 1 => .acq | 2 => .rel | 3 => .ar | _ => .relaxed
def scopeOf : Nat → Scope
  | 1 => .tile | 2 => .cluster | 3 => .partition | 4 => .device | 5 => .system | _ => .dflt

/-- The repeat prefix of a payload (R44). -/
def repOf (v : Nat) : RepPfx :=
  { step1 := v / 512 % 2 == 1, step2 := v / 256 % 2 == 1,
    count := if v / 128 % 2 = 1 then .reg (BitVec.ofNat 5 v) else .imm (BitVec.ofNat 7 v) }

/-- The prefixes of an accepted chain (R44 to R47). -/
def pfxOf (base : Half) (q : Parts) (rep num ord wait : Option Nat) : Pfx :=
  { settle := base.getLsbD 15
    rep := rep.map repOf
    num := num.map (fun v => { round := roundOf (v / 32 % 8), zero := v / 8 % 4 == 1, report := BitVec.ofNat 3 v })
    ord := ord.map (fun v => { order := orderOf (v / 64 % 4), scope := scopeOf (v / 8 % 8) })
    wait := wait.map (fun v => BitVec.ofNat 8 v)
    xr := q.xr.map (fun v => { x := BitVec.ofNat 5 (v / 32), y := BitVec.ofNat 5 v })
    imm := q.imms }

/-- The row a chain names: the member its selector picks, else RSV.MAJOR for a cell without a row and RSV.FIELD for
a selector value without one. A family told apart by X or Y that lacks its prefix is judged under its first row. -/
def findRow (q : Parts) : Except Reject Row :=
  match rows.find? (fun row => row.selects q) with
  | some row => .ok row
  | none => if rows.any (fun row => row.page == q.page && row.major == q.major) then .error .rsvField
            else .error .rsvMajor

/-- A cut chain, checked and read (R54). -/
def readChain (ps : List Half) (base : Half) : Except Reject Instr :=
  if ps.any badBits then .error .pfxBits
  else if badDup ps then .error .pfxDup
  else if badOrder ps then .error .pfxOrder
  else
    let page := match payloadOf 31 ps with | some v => v % 256 | none => 0
    if 10 ≤ page then .error .rsvPage
    else
      let q : Parts := { page := page, major := halfMajor base, ops := halfPayload base, xr := payloadOf 29 ps,
                         imms := (ps.filter (fun h => halfMajor h == 30)).map (fun h => h.extractLsb' 0 10) }
      match findRow q with
      | .error e => .error e
      | .ok row =>
        let rep := payloadOf 27 ps
        let num := payloadOf 100 ps
        let ord := payloadOf 101 ps
        let wait := payloadOf 102 ps
        match row.check q rep num ord wait (payloadOf 103 ps) with
        | some e => .error e
        | none => .ok (row.build (Raw.mk (pfxOf base q rep num ord wait) (BitVec.ofNat 5 q.n1) (BitVec.ofNat 5 q.n2)))

/-- The first instruction of a run of halfwords and the halfwords after it. -/
def decode (hs : List Half) : Except Reject (Instr × List Half) :=
  match cutChain 4 hs with
  | .error e => .error e
  | .ok (ps, base, rest) =>
    match readChain ps base with
    | .error e => .error e
    | .ok i => .ok (i, rest)

/-- The whole chains of a section, with the byte offset of each, or the first rejection and its offset (R39, R55
first pass). The fuel is the section's length in halfwords. -/
def decodeSection : Nat → Nat → List Half → Except (Reject × Nat) (List (Nat × Instr))
  | _, _, [] => .ok []
  | 0, off, _ :: _ => .error (.seqTrunc, off)
  | fuel + 1, off, h :: hs =>
    match decode (h :: hs) with
    | .error e => .error (e, off)
    | .ok (i, rest) =>
      match decodeSection fuel (off + 2 * ((hs.length + 1) - rest.length)) rest with
      | .error e => .error e
      | .ok l => .ok ((off, i) :: l)

/-- The halfwords of a number of bits, the least significant first. -/
def halvesOf : Nat → Nat → List Half
  | 0, _ => []
  | n + 1, w => BitVec.ofNat 16 w :: halvesOf n (w / 65536)

/-- The longest chain in halfwords (R39). -/
def maxChain : Nat := 5

/-- The instruction this decoder reads from the words of the table of operations: nbits bits, zeros above. -/
def decodeTableWord (nbits w : Nat) : Option Instr :=
  match decode (halvesOf maxChain (w % 2 ^ nbits)) with
  | .ok (i, _) => some i
  | .error _ => none

/-! The encoder, from the same tables of the manual. -/

def Round.code : Round → Nat
  | .dflt => 0 | .rn => 1 | .rz => 2 | .ru => 3 | .rd => 4 | .ro => 5
def Order.code : Order → Nat
  | .relaxed => 0 | .acq => 1 | .rel => 2 | .ar => 3
def Scope.code : Scope → Nat
  | .dflt => 0 | .tile => 1 | .cluster => 2 | .partition => 3 | .device => 4 | .system => 5

/-- The operand bits of formats A and I (R34). -/
def ops (f1 f2 : Nat) : Nat := f1 * 32 + f2

/-- Bits 4:0 of the memory layout (R34). -/
def MemOp.bits (m : MemOp) : Nat := m.cap.toNat * 2 + bit m.regOff

/-- A prefix halfword of a major (R42). -/
def prefixHalf (major payload : Nat) : Half := BitVec.ofNat 16 (major * 1024 + payload)

/-- The payload of a repeat prefix (R44). -/
def RepPfx.payload (r : RepPfx) : Nat :=
  bit r.step1 * 512 + bit r.step2 * 256 +
    (match r.count with | .imm n => n.toNat | .reg s => 128 + s.toNat)

/-- The prefix halfwords of a chain in the order of R35, modifiers in ascending kind. -/
def Pfx.halves (p : Pfx) (page : Nat) : List Half :=
  (match p.rep with | some r => [prefixHalf 27 r.payload] | none => []) ++
  (match p.num with
    | some m => [prefixHalf 28 (m.round.code * 32 + bit m.zero * 8 + m.report.toNat)] | none => []) ++
  (match p.ord with | some m => [prefixHalf 28 (256 + m.order.code * 64 + m.scope.code * 8)] | none => []) ++
  (match p.wait with | some w => [prefixHalf 28 (512 + w.toNat)] | none => []) ++
  (match p.xr with | some f => [prefixHalf 29 (f.x.toNat * 32 + f.y.toNat)] | none => []) ++
  p.imm.map (fun v => prefixHalf 30 v.toNat) ++
  (if page = 0 then [] else [prefixHalf 31 page])

/-- A chain of prefixes and a base word (R34, R35). -/
def chainOf (p : Pfx) (page major operands : Nat) : List Half :=
  p.halves page ++ [BitVec.ofNat 16 (bit p.settle * 32768 + major * 1024 + operands)]

/-- The words of an instruction, from the encodings of R34, R35 and R53. An event has none. -/
def encode : Instr → List Half
  | .mv p d a => chainOf p 0 0 (ops d.toNat a.toNat)
  | .add p d a => chainOf p 0 1 (ops d.toNat a.toNat)
  | .sub p d a => chainOf p 0 2 (ops d.toNat a.toNat)
  | .mul p d a => chainOf p 0 3 (ops d.toNat a.toNat)
  | .mulh p d a => chainOf p 0 4 (ops d.toNat a.toNat)
  | .div p d a => chainOf p 0 5 (ops d.toNat a.toNat)
  | .rem p d a => chainOf p 0 6 (ops d.toNat a.toNat)
  | .and p d a => chainOf p 0 7 (ops d.toNat a.toNat)
  | .or p d a => chainOf p 0 10 (ops d.toNat a.toNat)
  | .xor p d a => chainOf p 0 11 (ops d.toNat a.toNat)
  | .shl p d a => chainOf p 0 12 (ops d.toNat a.toNat)
  | .shr p d a => chainOf p 0 13 (ops d.toNat a.toNat)
  | .sra p d a => chainOf p 0 14 (ops d.toNat a.toNat)
  | .cmp p d a => chainOf p 0 16 (ops d.toNat a.toNat)
  | .addi p d i => chainOf p 0 8 (ops d.toNat i.toNat)
  | .li p d i => chainOf p 0 9 (ops d.toNat i.toNat)
  | .cmpi p d i => chainOf p 0 17 (ops d.toNat i.toNat)
  | .shli p d i => chainOf p 0 15 (ops d.toNat i.toNat)
  | .shri p d i => chainOf p 0 15 (ops d.toNat i.toNat)
  | .srai p d i => chainOf p 0 15 (ops d.toNat i.toNat)
  | .rori p d i => chainOf p 0 15 (ops d.toNat i.toNat)
  | .clz p d => chainOf p 0 18 (ops d.toNat 0)
  | .ctz p d => chainOf p 0 18 (ops d.toNat 1)
  | .popc p d => chainOf p 0 18 (ops d.toNat 2)
  | .brev p d => chainOf p 0 18 (ops d.toNat 3)
  | .not p d => chainOf p 0 18 (ops d.toNat 4)
  | .neg p d => chainOf p 0 18 (ops d.toNat 5)
  | .abs p d => chainOf p 0 18 (ops d.toNat 6)
  | .sextB p d => chainOf p 0 18 (ops d.toNat 7)
  | .sextH p d => chainOf p 0 18 (ops d.toNat 8)
  | .sextW p d => chainOf p 0 18 (ops d.toNat 9)
  | .zextB p d => chainOf p 0 18 (ops d.toNat 10)
  | .zextH p d => chainOf p 0 18 (ops d.toNat 11)
  | .zextW p d => chainOf p 0 18 (ops d.toNat 12)
  | .setc p d c => chainOf p 0 19 (ops d.toNat c.code)
  | .loop p d i => chainOf p 0 20 (ops d.toNat i.toNat)
  | .b p off => chainOf p 0 21 (off.toNat)
  | .beq p off => chainOf p 0 22 (off.toNat)
  | .bne p off => chainOf p 0 23 (off.toNat)
  | .blt p off => chainOf p 0 24 (off.toNat)
  | .bge p off => chainOf p 0 25 (off.toNat)
  | .call p d a => chainOf p 0 26 (ops d.toNat a.toNat)
  | .jmp p a => chainOf p 0 26 (ops 0 a.toNat)
  | .cMv p d a => chainOf p 1 0 (ops d.toNat a.toNat)
  | .cAdd p d a => chainOf p 1 1 (ops d.toNat a.toNat)
  | .cAddi p d i => chainOf p 1 2 (ops d.toNat i.toNat)
  | .cSetaddr p d a => chainOf p 1 3 (ops d.toNat a.toNat)
  | .cSetb p d a => chainOf p 1 4 (ops d.toNat a.toNat)
  | .cSetbx p d a => chainOf p 1 5 (ops d.toNat a.toNat)
  | .cAndp p d a => chainOf p 1 6 (ops d.toNat a.toNat)
  | .cSeal p d a => chainOf p 1 7 (ops d.toNat a.toNat)
  | .cUnseal p d a => chainOf p 1 8 (ops d.toNat a.toNat)
  | .cInv p d a => chainOf p 1 9 (ops d.toNat a.toNat)
  | .cGaddr p d a => chainOf p 1 10 (ops d.toNat a.toNat)
  | .cGbase p d a => chainOf p 1 11 (ops d.toNat a.toNat)
  | .cGlen p d a => chainOf p 1 12 (ops d.toNat a.toNat)
  | .cGperm p d a => chainOf p 1 13 (ops d.toNat a.toNat)
  | .cGtype p d a => chainOf p 1 14 (ops d.toNat a.toNat)
  | .cGtag p d a => chainOf p 1 15 (ops d.toNat a.toNat)
  | .cClrtag p d a => chainOf p 1 16 (ops d.toNat a.toNat)
  | .cLd p d m => chainOf p 1 17 (ops d.toNat m.bits)
  | .cSt p d m => chainOf p 1 18 (ops d.toNat m.bits)
  | .cFit p d a => chainOf p 1 19 (ops d.toNat a.toNat)
  | .cSnap p d a => chainOf p 1 20 (ops d.toNat a.toNat)
  | .cPaint p d a => chainOf p 1 21 (ops d.toNat a.toNat)
  | .cSweep p d a => chainOf p 1 22 (ops d.toNat a.toNat)
  | .cSweepq p d a => chainOf p 1 23 (ops d.toNat a.toNat)
  | .ldW p d m => chainOf p 2 0 (ops d.toNat m.bits)
  | .stW p d m => chainOf p 2 1 (ops d.toNat m.bits)
  | .ldD p d m => chainOf p 2 2 (ops d.toNat m.bits)
  | .stD p d m => chainOf p 2 3 (ops d.toNat m.bits)
  | .ldB p d m => chainOf p 2 4 (ops d.toNat m.bits)
  | .stB p d m => chainOf p 2 5 (ops d.toNat m.bits)
  | .ldH p d m => chainOf p 2 6 (ops d.toNat m.bits)
  | .stH p d m => chainOf p 2 7 (ops d.toNat m.bits)
  | .vLd p d m => chainOf p 2 8 (ops d.toNat m.bits)
  | .vSt p d m => chainOf p 2 9 (ops d.toNat m.bits)
  | .ldWz p d m => chainOf p 2 10 (ops d.toNat m.bits)
  | .ldBz p d m => chainOf p 2 11 (ops d.toNat m.bits)
  | .ldHz p d m => chainOf p 2 12 (ops d.toNat m.bits)
  | .vGth p d m => chainOf p 2 13 (ops d.toNat m.bits)
  | .vSct p d m => chainOf p 2 14 (ops d.toNat m.bits)
  | .vLdb p d m => chainOf p 2 15 (ops d.toNat m.bits)
  | .vLds p d m => chainOf p 2 16 (ops d.toNat m.bits)
  | .vSts p d m => chainOf p 2 17 (ops d.toNat m.bits)
  | .wsQ p d m => chainOf p 2 18 (ops d.toNat m.bits)
  | .pf p d m => chainOf p 2 19 (ops d.toNat m.bits)
  | .kLd p d m => chainOf p 2 20 (ops d.toNat m.bits)
  | .kSt p d m => chainOf p 2 21 (ops d.toNat m.bits)
  | .amAdd p d m => chainOf p 3 0 (ops d.toNat m.bits)
  | .amAnd p d m => chainOf p 3 1 (ops d.toNat m.bits)
  | .amOr p d m => chainOf p 3 2 (ops d.toNat m.bits)
  | .amXor p d m => chainOf p 3 3 (ops d.toNat m.bits)
  | .amMin p d m => chainOf p 3 4 (ops d.toNat m.bits)
  | .amMax p d m => chainOf p 3 5 (ops d.toNat m.bits)
  | .amSwp p d m => chainOf p 3 6 (ops d.toNat m.bits)
  | .amCas p d m => chainOf p 3 7 (ops d.toNat m.bits)
  | .amFadd p d m => chainOf p 3 8 (ops d.toNat m.bits)
  | .amUpdAdd p d m => chainOf p 3 9 (ops d.toNat m.bits)
  | .amUpdOr p d m => chainOf p 3 9 (ops d.toNat m.bits)
  | .amUpdAnd p d m => chainOf p 3 9 (ops d.toNat m.bits)
  | .amUpdXor p d m => chainOf p 3 9 (ops d.toNat m.bits)
  | .amUpdMin p d m => chainOf p 3 9 (ops d.toNat m.bits)
  | .amUpdMax p d m => chainOf p 3 9 (ops d.toNat m.bits)
  | .amUpdFadd p d m => chainOf p 3 9 (ops d.toNat m.bits)
  | .swInit p d m => chainOf p 3 10 (ops d.toNat m.bits)
  | .swWait p d m => chainOf p 3 11 (ops d.toNat m.bits)
  | .swGen p d m => chainOf p 3 12 (ops d.toNat m.bits)
  | .barArv p d i => chainOf p 3 13 (ops d.toNat i.toNat)
  | .barWt p d i => chainOf p 3 14 (ops d.toNat i.toNat)
  | .barCfg p d i => chainOf p 3 15 (ops d.toNat i.toNat)
  | .mbPut p d a => chainOf p 3 16 (ops d.toNat a.toNat)
  | .mbGet p d a => chainOf p 3 17 (ops d.toNat a.toNat)
  | .mbTest p d => chainOf p 3 18 (ops d.toNat 0)
  | .fence p d i => chainOf p 3 19 (ops d.toNat i.toNat)
  | .vMv p d a => chainOf p 4 0 (ops d.toNat a.toNat)
  | .vAdd p d a => chainOf p 4 1 (ops d.toNat a.toNat)
  | .vSub p d a => chainOf p 4 2 (ops d.toNat a.toNat)
  | .vMul p d a => chainOf p 4 3 (ops d.toNat a.toNat)
  | .vFma p d a => chainOf p 4 4 (ops d.toNat a.toNat)
  | .vFms p d a => chainOf p 4 5 (ops d.toNat a.toNat)
  | .vMin p d a => chainOf p 4 6 (ops d.toNat a.toNat)
  | .vMax p d a => chainOf p 4 7 (ops d.toNat a.toNat)
  | .vAbs p d a => chainOf p 4 8 (ops d.toNat a.toNat)
  | .vNeg p d a => chainOf p 4 9 (ops d.toNat a.toNat)
  | .vIadd p d a => chainOf p 4 10 (ops d.toNat a.toNat)
  | .vIsub p d a => chainOf p 4 11 (ops d.toNat a.toNat)
  | .vImul p d a => chainOf p 4 12 (ops d.toNat a.toNat)
  | .vImin p d a => chainOf p 4 13 (ops d.toNat a.toNat)
  | .vImax p d a => chainOf p 4 14 (ops d.toNat a.toNat)
  | .vAnd p d a => chainOf p 4 15 (ops d.toNat a.toNat)
  | .vOr p d a => chainOf p 4 16 (ops d.toNat a.toNat)
  | .vXor p d a => chainOf p 4 17 (ops d.toNat a.toNat)
  | .vShl p d a => chainOf p 4 18 (ops d.toNat a.toNat)
  | .vShr p d a => chainOf p 4 19 (ops d.toNat a.toNat)
  | .vSra p d a => chainOf p 4 20 (ops d.toNat a.toNat)
  | .vFeq p d a => chainOf p 4 21 (ops d.toNat a.toNat)
  | .vFlt p d a => chainOf p 4 21 (ops d.toNat a.toNat)
  | .vFle p d a => chainOf p 4 21 (ops d.toNat a.toNat)
  | .vFun p d a => chainOf p 4 21 (ops d.toNat a.toNat)
  | .vIeq p d a => chainOf p 4 22 (ops d.toNat a.toNat)
  | .vIlt p d a => chainOf p 4 22 (ops d.toNat a.toNat)
  | .vIle p d a => chainOf p 4 22 (ops d.toNat a.toNat)
  | .vIlo p d a => chainOf p 4 22 (ops d.toNat a.toNat)
  | .vIabs p d a => chainOf p 4 23 (ops d.toNat a.toNat)
  | .vBcs p d a => chainOf p 4 24 (ops d.toNat a.toNat)
  | .vLi p d i => chainOf p 4 25 (ops d.toNat i.toNat)
  | .kAnd p d a => chainOf p 4 26 (ops d.toNat a.toNat)
  | .kOr p d a => chainOf p 4 26 (ops d.toNat a.toNat)
  | .kXor p d a => chainOf p 4 26 (ops d.toNat a.toNat)
  | .kAndn p d a => chainOf p 4 26 (ops d.toNat a.toNat)
  | .kNot p d a => chainOf p 4 26 (ops d.toNat a.toNat)
  | .kMv p d a => chainOf p 4 26 (ops d.toNat a.toNat)
  | .vCvtfi p d a => chainOf p 5 0 (ops d.toNat a.toNat)
  | .vCvtif p d a => chainOf p 5 1 (ops d.toNat a.toNat)
  | .vExp2 p d a => chainOf p 5 2 (ops d.toNat a.toNat)
  | .vLog2 p d a => chainOf p 5 3 (ops d.toNat a.toNat)
  | .vRcp p d a => chainOf p 5 4 (ops d.toNat a.toNat)
  | .vRsq p d a => chainOf p 5 5 (ops d.toNat a.toNat)
  | .vSqrt p d a => chainOf p 5 6 (ops d.toNat a.toNat)
  | .vPerm p d a => chainOf p 5 7 (ops d.toNat a.toNat)
  | .vBcl p d i => chainOf p 5 8 (ops d.toNat i.toNat)
  | .vRot p d i => chainOf p 5 9 (ops d.toNat i.toNat)
  | .vRsum p d a => chainOf p 5 10 (ops d.toNat a.toNat)
  | .vRmax p d a => chainOf p 5 11 (ops d.toNat a.toNat)
  | .vRmin p d a => chainOf p 5 12 (ops d.toNat a.toNat)
  | .vIrsum p d a => chainOf p 5 13 (ops d.toNat a.toNat)
  | .vT8dec p d a => chainOf p 5 14 (ops d.toNat a.toNat)
  | .vT8enc p d a => chainOf p 5 15 (ops d.toNat a.toNat)
  | .t8Ld p m => chainOf p 5 16 (ops 0 m.bits)
  | .t8LdE4 p => chainOf p 5 16 (ops 1 0)
  | .t8LdE5 p => chainOf p 5 16 (ops 2 0)
  | .vExt p d a => chainOf p 5 17 (ops d.toNat a.toNat)
  | .vIns p d a => chainOf p 5 18 (ops d.toNat a.toNat)
  | .kPop p d a => chainOf p 5 19 (ops d.toNat a.toNat)
  | .kFirst p d a => chainOf p 5 20 (ops d.toNat a.toNat)
  | .vRnd p d a => chainOf p 5 21 (ops d.toNat a.toNat)
  | .vCmpr p d a => chainOf p 5 22 (ops d.toNat a.toNat)
  | .mLds p d m => chainOf p 6 0 (ops d.toNat m.bits)
  | .mStr p d m => chainOf p 6 2 (ops d.toNat m.bits)
  | .mMrot p d m => chainOf p 6 3 (ops d.toNat m.bits)
  | .mRd p d m => chainOf p 6 4 (ops d.toNat m.bits)
  | .mCmd p d m => chainOf p 6 6 (ops d.toNat m.bits)
  | .mRdz p d m => chainOf p 6 8 (ops d.toNat m.bits)
  | .mSwap p => chainOf p 6 1 (ops 0 0)
  | .mZero p => chainOf p 6 5 (ops 0 0)
  | .mDrain p => chainOf p 6 7 (ops 0 0)
  | .mQ p d => chainOf p 6 9 (ops d.toNat 0)
  | .endF p => chainOf p 7 0 (ops 0 0)
  | .send p d a => chainOf p 7 1 (ops d.toNat a.toNat)
  | .sendU p d a => chainOf p 7 2 (ops d.toNat a.toNat)
  | .fork p d a => chainOf p 7 3 (ops d.toNat a.toNat)
  | .join p a => chainOf p 7 4 (ops 0 a.toNat)
  | .jcInit p d a => chainOf p 7 5 (ops d.toNat a.toNat)
  | .chunk p d a => chainOf p 7 6 (ops d.toNat a.toNat)
  | .yield p => chainOf p 7 7 (ops 0 0)
  | .hEn p a => chainOf p 7 8 (ops 0 a.toNat)
  | .hDis p a => chainOf p 7 9 (ops 0 a.toNat)
  | .hPend p a => chainOf p 7 10 (ops 0 a.toNat)
  | .hClrp p a => chainOf p 7 11 (ops 0 a.toNat)
  | .inPop p d a => chainOf p 7 12 (ops d.toNat a.toNat)
  | .inCnt p d a => chainOf p 7 13 (ops d.toNat a.toNat)
  | .widFld p d i => chainOf p 7 14 (ops d.toNat i.toNat)
  | .tsAdd p d i => chainOf p 7 15 (ops d.toNat i.toNat)
  | .hTag p d a => chainOf p 7 16 (ops d.toNat a.toNat)
  | .cp p d a => chainOf p 8 0 (ops d.toNat a.toNat)
  | .cpTry p d a => chainOf p 8 1 (ops d.toNat a.toNat)
  | .tkQ p d a => chainOf p 8 2 (ops d.toNat a.toNat)
  | .slvBegin p d a => chainOf p 8 3 (ops d.toNat a.toNat)
  | .slvEnd p => chainOf p 8 4 (ops 0 0)
  | .slvHclr p => chainOf p 8 5 (ops 0 0)
  | .slvQ p d a => chainOf p 8 6 (ops d.toNat a.toNat)
  | .cpRsm p d a => chainOf p 8 7 (ops d.toNat a.toNat)
  | .rsr p d i => chainOf p 9 0 (ops d.toNat i.toNat)
  | .wsr p d i => chainOf p 9 1 (ops d.toNat i.toNat)
  | .kcallSliceEnd p i => chainOf p 9 2 (ops 0 i.toNat)
  | .kcallBudget p i => chainOf p 9 2 (ops 0 i.toNat)
  | .kcallStops p i => chainOf p 9 2 (ops 0 i.toNat)
  | .kcallUnbound p i => chainOf p 9 2 (ops 0 i.toNat)
  | .kcallRevoke p i => chainOf p 9 2 (ops 0 i.toNat)
  | .kcallSweepQuery p i => chainOf p 9 2 (ops 0 i.toNat)
  | .kcallOther p i => chainOf p 9 2 (ops 0 i.toNat)
  | .tret p => chainOf p 9 3 (ops 0 0)
  | .tretSkip p => chainOf p 9 3 (ops 0 1)
  | .cslInst p d a => chainOf p 9 4 (ops d.toNat a.toNat)
  | .cslRbld p d a => chainOf p 9 5 (ops d.toNat a.toNat)
  | .cslBind p d a => chainOf p 9 6 (ops d.toNat a.toNat)
  | .cslQ p d a => chainOf p 9 7 (ops d.toNat a.toNat)
  | .pairOn p d a => chainOf p 9 8 (ops d.toNat a.toNat)
  | .pairOff p d => chainOf p 9 9 (ops d.toNat 0)
  | .brk p i => chainOf p 9 10 (ops 0 i.toNat)
  | .ctxSv p a => chainOf p 9 11 (ops 0 a.toNat)
  | .ctxLd p d a => chainOf p 9 12 (ops d.toNat a.toNat)
  | .accSv p a => chainOf p 9 13 (ops 0 a.toNat)
  | .accLd p a => chainOf p 9 14 (ops 0 a.toNat)
  | .idle p => chainOf p 9 15 (ops 0 0)
  | .outstandingResultReturn _ _ => []
  | .sweepComplete _ => []
  | .refreshStart _ => []
  | .refreshEnd _ => []
  | .updateMerge _ _ => []
  | .t8TableEffect _ _ => []
  | .lds _ => []
  | .swap _ => []
  | .str _ => []
  | .mrot _ => []
  | .mrotArrival _ => []
  | .rd _ => []
  | .zero _ => []
  | .rdz _ => []
  | .messageArrival _ => []
  | .queueAdmit _ _ => []
  | .unboundDelivery _ _ _ => []
  | .entryRewrite _ _ _ => []
  | .makeFiring _ _ _ => []
  | .taskTake _ => []
  | .taskSteal _ => []
  | .launchRecord _ => []
  | .dispatchMessage _ => []
  | .launchCompletion _ => []
  | .releaseFlush _ => []
  | .horizonUpdate _ => []
  | .commit _ _ => []
  | .abort _ _ => []
  | .rerun _ _ => []
  | .pin _ _ => []
  | .copyStart _ _ => []
  | .copyWriteUnit _ _ => []
  | .copyComplete _ _ => []
  | .copyStop _ _ _ => []
  | .completionMessage _ => []
  | .resumePacket _ => []
  | .edgeChunk _ _ => []
  | .budgetRefill _ => []
  | .clusterRound _ _ => []
  | .terminate _ _ => []
  | .budgetExpiry _ => []
  | .graceExpiry _ => []
  | .sliceEnd _ => []
  | .leaseExpiry _ => []
  | .qnowAdvance => []
  | .qdoneAdvance => []
  | .quarantineEnqueue _ _ => []
  | .quarantineRelease _ _ => []
  | .tailWrite _ _ => []
  | .cheadWrite _ _ => []
  | .registerWrite _ _ _ => []
  | .acquireRecord _ => []
  | .releaseRecord _ => []
  | .collectiveAbort _ => []
  | .capsuleRelease _ => []
  | .hostSync _ => []
  | .reservedRecord _ => []
  | .hostMemAccess _ _ => []
  | .flushRequest _ _ _ => []
  | .flushAcknowledgement _ _ _ => []
  | .fabricWrite _ => []
  | .fabricReadRequest _ => []
  | .fabricReadResponse _ => []
  | .dropNotice _ => []
  | .abortToken _ _ _ => []
  | .linkRetrain _ => []
  | .linkReturn _ => []
  | .portDown _ => []
  | .flitRetry _ => []
  | .partWrite _ _ => []
  | .scrub _ => []
  | .partitionRelease _ => []
  | .fusion _ _ => []
  | .split _ => []
  | .keyWrite _ _ => []
  | .reportRequest _ _ => []
  | .checkpoint _ _ => []
  | .restore _ _ => []
  | .firmwareInstall _ _ => []
  | .contrailBreakpoint _ _ => []
  | .contrailPatch _ _ _ _ => []
  | .contrailAccess _ _ _ _ => []
  | .machineCheck _ => []
  | .patrolRead _ _ => []
  | .coldReset => []
  | .contextRegistration _ _ => []
  | .makeResident _ _ _ => []
  | .contrailRelease _ _ => []

end Sys2Proof
end

