-- ==== Sys2Proof/Machine/CapOps.lean ====
section
/-! DEFINITION. Machine/CapOps.lean: the fields of a capability, its bounds arithmetic, and the derivations and
checks that every chapter uses (R94 to R98, R101, R102, R107). -/

namespace Sys2Proof

namespace Machine

/-! ## Fault codes (R263) -/

namespace Code
def capTag   : BitVec 16 := 0x0101
def capSeal  : BitVec 16 := 0x0102
def capPerm  : BitVec 16 := 0x0103
def capBound : BitVec 16 := 0x0104
def capRepr  : BitVec 16 := 0x0105
def capType  : BitVec 16 := 0x0106
def capLane  : BitVec 16 := 0x0107
def capNotag : BitVec 16 := 0x0108
def capLocal : BitVec 16 := 0x0109
def memAlign  : BitVec 16 := 0x0201
def memNotile : BitVec 16 := 0x0202
def memScope  : BitVec 16 := 0x0203
def memFmt    : BitVec 16 := 0x0204
def memSpace  : BitVec 16 := 0x0205
def memWsro   : BitVec 16 := 0x0206
def memAway   : BitVec 16 := 0x0207
def xlPage  : BitVec 16 := 0x0301
def xlPerm  : BitVec 16 := 0x0302
def xlHost  : BitVec 16 := 0x0303
def xlCappg : BitVec 16 := 0x0304
def dataUnc  : BitVec 16 := 0x0401
def dataPair : BitVec 16 := 0x0402
def slvCeil : BitVec 16 := 0x0501
def slvNan  : BitVec 16 := 0x0502
def accFirst : BitVec 16 := 0x0601
def mtxCmd   : BitVec 16 := 0x0602
def mtxFmt   : BitVec 16 := 0x0603
def mtxNbr   : BitVec 16 := 0x0604
def cslVoid   : BitVec 16 := 0x0701
def cslBody   : BitVec 16 := 0x0702
def cslTarget : BitVec 16 := 0x0703
def tskOuts   : BitVec 16 := 0x0801
def tskPort   : BitVec 16 := 0x0802
def tskJcown  : BitVec 16 := 0x0803
def tskJckind : BitVec 16 := 0x0804
def tskTsovf  : BitVec 16 := 0x0805
def tskFork   : BitVec 16 := 0x0806
def hostAtom : BitVec 16 := 0x0901
def linkDown : BitVec 16 := 0x0902
def fabWin   : BitVec 16 := 0x0903
def chanDead : BitVec 16 := 0x0904
def kprPriv  : BitVec 16 := 0x0A01
def kprOvr   : BitVec 16 := 0x0A02
def kprCall  : BitVec 16 := 0x0A03
def kprBrk   : BitVec 16 := 0x0A04
def kprState : BitVec 16 := 0x0A05
def repRange  : BitVec 16 := 0x0B01
def loopDepth : BitVec 16 := 0x0B02
def numTable  : BitVec 16 := 0x0B03
def barOwn    : BitVec 16 := 0x0B04
def barMemb   : BitVec 16 := 0x0B05
def cpReq     : BitVec 16 := 0x0B06
def cpStop    : BitVec 16 := 0x0B07
end Code

end Machine

/-! ## Fields (R94) -/

namespace Machine

/-- The permission bits of R97, by number. -/
def permLD : Nat := 0
def permST : Nat := 1
def permEX : Nat := 2
def permLDC : Nat := 3
def permSTC : Nat := 4
def permGL : Nat := 5
def permSEAL : Nat := 6
def permUNSEAL : Nat := 7
def permATOM : Nat := 8
def permENG : Nat := 9
def permINV : Nat := 10

/-- TOPMAX (R96). -/
def topMax : Nat := 16383 * 2 ^ 50

end Machine

def Cap.addr (c : Cap) : Nat := (c.bits.extractLsb' 0 64).toNat
def Cap.addrW (c : Cap) : Word := c.bits.extractLsb' 0 64
def Cap.perms (c : Cap) : BitVec 12 := c.bits.extractLsb' 64 12
def Cap.otype (c : Cap) : BitVec 16 := c.bits.extractLsb' 76 16
def Cap.expo (c : Cap) : Nat := (c.bits.extractLsb' 92 6).toNat
def Cap.bm (c : Cap) : Nat := (c.bits.extractLsb' 98 14).toNat
def Cap.lm (c : Cap) : Nat := (c.bits.extractLsb' 112 14).toNat

/-- A capability from its fields (R94). -/
def Cap.make (tag : Bool) (lm bm : BitVec 14) (e : BitVec 6) (ot : BitVec 16) (perms : BitVec 12) (addr : Word) : Cap :=
  { tag := tag, bits := (0 : BitVec 2) ++ lm ++ bm ++ e ++ ot ++ perms ++ addr }

def Cap.withAddr (c : Cap) (a : Word) : Cap := { c with bits := c.bits.extractLsb' 64 64 ++ a }
def Cap.withTag (c : Cap) (t : Bool) : Cap := { c with tag := t }
def Cap.withPerms (c : Cap) (p : BitVec 12) : Cap :=
  { c with bits := c.bits.extractLsb' 76 52 ++ p ++ c.bits.extractLsb' 0 64 }
def Cap.withOtype (c : Cap) (t : BitVec 16) : Cap :=
  { c with bits := c.bits.extractLsb' 92 36 ++ t ++ c.bits.extractLsb' 0 76 }
def Cap.withBounds (c : Cap) (lm bm : BitVec 14) (e : BitVec 6) : Cap :=
  { c with bits := c.bits.extractLsb' 126 2 ++ lm ++ bm ++ e ++ c.bits.extractLsb' 0 92 }

def Cap.has (c : Cap) (p : Nat) : Bool := c.perms.getLsbD p
def Cap.sealed (c : Cap) : Bool := c.otype != 0

/-- CapBase (R95). -/
def Cap.base (c : Cap) : Nat :=
  if 50 < c.expo ∨ c.lm = 16383 then 0
  else
    let mid := c.addr / 2 ^ c.expo % 2 ^ 14
    let hi : Int := (c.addr / 2 ^ (c.expo + 14) : Nat) - (if mid < c.bm then 1 else 0)
    ((hi * 2 ^ 14 + c.bm) * 2 ^ c.expo % 2 ^ 64).toNat

/-- CapTop (R95), exact. -/
def Cap.top (c : Cap) : Nat :=
  if 50 < c.expo ∨ c.lm = 16383 then 0 else c.base + (c.lm + 1) * 2 ^ c.expo

/-- An access of n bytes at a lies within the bounds (R96). -/
def Cap.within (c : Cap) (a n : Nat) : Bool := decide (c.base ≤ a) && decide (a + n ≤ c.top)

/-- DeriveAddr (R101). -/
def Cap.derive (c : Cap) (new : Word) : Cap :=
  (c.withAddr new).withTag (c.tag && !c.sealed && decide (c.base ≤ new.toNat) && decide (new.toNat ≤ c.top))

/-- The grid steps that a range of a length needs at exponent e, rounded outward (R102): base step and top step. -/
def gridSteps (lo hi e : Nat) : Nat × Nat :=
  let b := lo / 2 ^ e
  (b, max ((hi + 2 ^ e - 1) / 2 ^ e) (b + 1))

/-- The smallest exponent from e on at which the range takes at most 16,383 steps; fuel counts up to 50 (R102). -/
def fitExp (lo hi : Nat) : Nat → Nat → Nat
  | 0, e => e
  | fuel + 1, e =>
    let g := gridSteps lo hi e
    if g.2 - g.1 ≤ 16383 then e else fitExp lo hi fuel (e + 1)

/-- SetBounds (R102): the narrowed capability, or the fault. -/
def Cap.setBounds (c : Cap) (len : Nat) (exact_ : Bool) : Except (BitVec 16) Cap :=
  if !c.tag then .error Machine.Code.capTag
  else if c.sealed then .error Machine.Code.capSeal
  else
    let lo := c.addr
    let hi := lo + len
    if lo < c.base ∨ c.top < hi then .error Machine.Code.capBound
    else
      let e := fitExp lo hi 50 0
      let g := gridSteps lo hi e
      if g.1 * 2 ^ e < c.base ∨ c.top < g.2 * 2 ^ e then .error Machine.Code.capRepr
      else if exact_ && (g.1 * 2 ^ e != lo || g.2 * 2 ^ e != hi) then .error Machine.Code.capRepr
      else .ok (c.withBounds (BitVec.ofNat 14 (g.2 - g.1 - 1)) (BitVec.ofNat 14 g.1) (BitVec.ofNat 6 e))

/-- A mask of permission bits. -/
def need (ps : List Nat) : BitVec 12 := ps.foldl (fun m p => m ||| BitVec.ofNat 12 (2 ^ p)) 0

/-- The first three checks of R107. -/
def Cap.checkKind (c : Cap) (mask : BitVec 12) : Option (BitVec 16) :=
  if !c.tag then some Machine.Code.capTag
  else if c.sealed then some Machine.Code.capSeal
  else if c.perms &&& mask != mask then some Machine.Code.capPerm
  else none

/-- CheckAccess (R107). -/
def Cap.checkAccess (c : Cap) (a n : Nat) (mask : BitVec 12) : Option (BitVec 16) :=
  match c.checkKind mask with
  | some e => some e
  | none => if c.within a n then none else some Machine.Code.capBound

/-- The bits of a capability in memory (R94). -/
def Cap.ofBytes (tag : Bool) (n : Nat) : Cap := { tag := tag, bits := BitVec.ofNat 128 n }

/-- A tagged capability as every derivation leaves one (R94, R96, R98): reserved bits zero, exponent and length in range, its
address within bounds that end by TOPMAX, an OTYPE that is none, 1 to 4 or a software type. -/
def Cap.wellMade (c : Cap) : Bool :=
  !c.tag || (c.bits.extractLsb' 126 2 == 0 && !c.has 11 && decide (c.expo ≤ 50) && decide (c.lm ≤ 16382) &&
    decide (c.base ≤ c.addr) && decide (c.addr ≤ c.top) && decide (c.top ≤ Machine.topMax) &&
    (decide (c.otype.toNat ≤ 4) || decide (0x100 ≤ c.otype.toNat)))

/-- An unsealed capability with bounds base to base + len, as Halo makes it (R102's grid), ADDR at base. -/
def Cap.root (base len : Nat) (perms : BitVec 12) : Cap :=
  let e := fitExp base (base + len) 50 0
  let g := gridSteps base (base + len) e
  Cap.make true (BitVec.ofNat 14 (g.2 - g.1 - 1)) (BitVec.ofNat 14 g.1) (BitVec.ofNat 6 e) 0 perms (BitVec.ofNat 64 base)

end Sys2Proof
end

