-- ==== Sys2Proof/Config.lean ====
section
/-! DEFINITION. Config.lean: the free values. Each is an opaque constant with no body: nothing can be
proved of its value, so a claim about the machine holds whatever it is. Each has a log entry. -/

namespace Sys2Proof.Config

/-- Clocks that the n-th step takes beyond the one it must (R5 and R93 give bounds only). DESIGN CHOICE, log 2. -/
opaque freeClk : Nat → Nat

/-- PHASE of a die's weight-store refresh, which bring-up calibrates (R133). DESIGN CHOICE, log 3. -/
opaque calPhase : Nat → Nat

/-- A byte whose value the manual leaves open, numbered by the state's own counter. DESIGN CHOICE, log 4. -/
opaque freeByte : Nat → Byte

/-- A number the manual leaves to the device (a lock bit, a capsule number, an identifier). DESIGN CHOICE, log 4. -/
opaque freeNat : Nat → Nat

/-- The ciphertext-side functions that R365 to R372 take from FIPS 203, 205 and the GCM standard:
the tag of one GCM chunk, from key, IV, additional data and plaintext. DESIGN CHOICE, log 5. -/
opaque gcmTag : Nat → Nat → Nat → List Byte → BitVec 128

/-- GCM encryption of one chunk under a key and IV (its own inverse, being a stream). DESIGN CHOICE, log 5. -/
opaque gcmStream : Nat → Nat → Nat → Byte

/-- The SLH-DSA-SHA2-128s signature over a report body (R372). DESIGN CHOICE, log 5. -/
opaque reportSignature : List Byte → List Byte

/-- Whether an SLH-DSA-SHA2-128s signature over a firmware image and its version verifies (R371). DESIGN CHOICE, log 5. -/
opaque firmwareSigned : List Byte → Nat → Bool

/-- What a read returns of a byte written under another memory key (R365). DESIGN CHOICE, log 6. -/
opaque otherKeyByte : Nat → Byte → Byte

/-- How the fingerprint of a pair's partner then differs from the primary's by an error that no code detects (R386, R388).
DESIGN CHOICE, log 8. -/
opaque pairUpset : Nat → Nat → BitVec 64

/-- Whether a partition's body space still holds one more body, at the n-th step (R313, R320). DESIGN CHOICE, log 9. -/
opaque bodyRoom : Nat → Bool

/-- The firmware that bring-up finds, with its versions: first-stage boot, Halo, installer and partition services (R370, R371,
R393).
DESIGN CHOICE, log 9. -/
opaque bootImage : List Byte
opaque haloImage : List Byte
opaque installerImage : List Byte
opaque servicesImage : List Byte
opaque bootVersion : Nat
opaque haloVersion : Nat
opaque installerVersion : Nat
opaque servicesVersion : Nat

/-- The digest of the configuration that bring-up measures into MR4 (R370): of the stepping, the absent tiles, and what
calibration gave: channels and ports present, and the weight store's phases. DESIGN CHOICE, log 9. -/
opaque configDigest : Nat → List Nat → List (Nat × Nat) → Nat → List (Nat × Nat) → BitVec 256

/-- The step at which bring-up fails, 0 for none (R393); the tiles and HBM channels that fail calibration, the
quadrants that lack a pager-capable cluster or an L2 slice, the ports that fail to train (R391, R393). DESIGN CHOICE, log 10. -/
opaque bringUpFails : Nat → Nat
opaque tileFails : Nat → Nat → Bool
opaque channelFails : Nat → Nat → Bool
opaque quadFails : Nat → Nat → Bool
opaque portFails : Nat → Nat → Bool

/-- The public identity key, its certificate, the ML-KEM encapsulation key of a channel, the stepping (R372, R392). DESIGN CHOICE, log 5. -/
opaque identityKey : List Byte
opaque certificate : List Byte
opaque channelKey : Nat → List Byte
opaque stepping : Nat

end Sys2Proof.Config
end

