-- ==== Sys2Proof/Machine/State.lean ====
section
/-! DEFINITION. Machine/State.lean: everything the manual gives the package, as plain data, and its contents after
cold reset. A unit that a sparse map does not list holds its reset contents. -/

namespace Sys2Proof.Machine

/-- A register set of a tile: which one issues next, or acts for itself. -/
structure Unit_ where
  tile : Nat
  set  : SetId
  deriving DecidableEq, Repr

/-! ## One register set (R23, R76, R264, R252) -/

/-- The scalar flags (R77). -/
structure Flags where
  z : Bool
  n : Bool
  c : Bool
  v : Bool
  deriving DecidableEq, Repr

/-- A loop-stack entry: portable offsets and the passes that remain (R79), and the base of the section its body lies
in, so that a transfer made in another section is seen to lie outside it (R89). -/
structure LoopEntry where
  sect  : Nat
  start : Nat
  stop  : Nat
  count : Word
  deriving DecidableEq, Repr

/-- RCNT (R80). -/
structure RepCnt where
  done   : BitVec 16
  remain : BitVec 16
  deriving DecidableEq, Repr

/-- A token of one set: outstanding copies and the first stop's code (R252). -/
structure Token where
  cnt  : Nat
  stat : BitVec 16
  deriving DecidableEq, Repr

/-- The 64 lanes of a vector register (R23). -/
abbrev VReg := Vector Lane 64

/-- An outstanding result (R50): the register it returns to and its value; of a v register, m marks the lanes that it
writes. -/
inductive Result where
  | s (r : BitVec 5) (w : Word)
  | c (r : BitVec 4) (w : Cap)
  | v (r : BitVec 5) (m : Word) (w : VReg)
  | k (r : BitVec 3) (w : Word)
  | table (t : List (BitVec 19))
  deriving DecidableEq, Repr

/-- A pending result, the weight-store banks (40 partitions of 16 banks) it waits for in refresh (R133), and when it
was issued, which orders the decode tables of the two sets (R71). -/
structure Pending where
  res   : Result
  banks : List Nat
  stamp : Nat
  deriving DecidableEq, Repr

/-- A message (R159): header fields, payload, and what the network carries outside its 64 bytes;
bad names the 64-bit words of its 64 bytes whose errors are not corrected (R377). -/
structure Msg where
  ts      : Nat
  src     : Nat
  knd     : Nat
  urg     : Bool
  tag     : Nat
  wid     : Word
  payload : List Word
  ctx     : Nat
  dst     : Nat
  slot    : Option Nat
  bad     : List Nat := []
  deriving DecidableEq, Repr

/-- A buffered action of a speculative firing, in issue order (R187): a store to the global range with the memory
pieces its translation gave (R329) and the tag its granule takes, a message, a handler record (R169), a counter record (R172, R173). -/
inductive Action where
  | store (va : Nat) (keys : List (Nat × Nat)) (data : List Byte) (tag : Bool)
  | send (m : Msg)
  | setEn (tag : Nat) (en : Bool)
  | pend (tag : Nat) (ts : Nat) (wid : Word) (slot : Option Nat)
  | clearPend (tag : Nat)
  | arm (n : Nat) (join : Bool) (sv : Word) (payload : List Word) (wid : Word) (ts : Nat) (slot : Option Nat)
  | join (n : Nat) (ts : Nat)
  deriving DecidableEq, Repr

/-- A journal entry (R223): the chain, its target and the value written to sd. -/
inductive Journal where
  | arv (b : Nat) (v : Word)
  | put (tile idx : Nat)
  | got (idx : Nat) (v : Word)
  deriving DecidableEq, Repr

/-- The identity of a firing beyond its key: which tile made it (R162, R171). -/
structure FiringId where
  tile   : Nat
  serial : Nat
  deriving DecidableEq, Repr

/-- What made a firing: messages by port, a PEND request, a deque task (R26, R162, R171). -/
structure Origin where
  consumed : List (Nat × Msg)
  pend     : Option (Nat × Word × Option Nat)
  task     : Option Msg
  deriving DecidableEq, Repr

/-- A firing (R26, R184, R187, R192) from its first instruction to its commit. popped are the messages that `in.pop` took;
owed are those that an aborted attempt had taken so and this one has not (R163). -/
structure Firing where
  ctx        : Nat
  tag        : Nat
  urgent     : Bool
  image      : EntryImage
  ts         : Nat
  wid        : Word
  serial     : Nat
  slot       : Option Nat
  off        : Nat
  outputs    : Nat
  pinned     : Bool
  recovering : Bool
  parent     : Option FiringId
  origin     : Origin
  popped     : List (Nat × Msg)
  owed       : List (Nat × Msg)
  actions    : List Action
  reads      : List Nat
  claims     : List Word
  replay     : List Word
  claimed    : Nat
  journal    : List Journal
  journalIn  : List Journal
  journaled  : Nat
  term       : Option (BitVec 16)
  disagreed  : Bool
  chains     : Nat
  deriving DecidableEq, Repr

/-- A page fault a set waits on (R331, R332): the set's fault count, the address, and a reply held for it. -/
structure PageWait where
  count : Nat
  va    : Nat
  reply : Option Nat
  deriving DecidableEq, Repr

/-- A live register set and the state R76, R252 and R264 hold beside it. waiting marks a chain that holds issue
(R10, R28); parked marks the settle bit (R50). bad names the registers that hold an error their code cannot correct (R377): s
0 to 31, c 32 to 47, k 80 to 87, and lane l of v register i as 256 + 64 i + l; owed those of them that were overwritten and
have no record yet (R379). debugStop marks a firing that Contrail's stop holds, brkPassed one that goes on past it (R278,
R322), moved one whose program counter Contrail has set to another chain (R80), asked the capsule whose rebuild its held chain
has started (R320). The firing that runs on it is fir. -/
structure RegSet where
  s          : Vector Word 32
  c          : Vector Cap 16
  v          : Vector VReg 32
  k          : Vector Word 8
  flags      : Flags
  loops      : List LoopEntry
  rcnt       : RepCnt
  pcc        : Cap
  epcc       : Cap
  savedLoops : List LoopEntry
  inTrap     : Bool
  taddr      : Word
  fcode      : BitVec 16
  fmask      : Word
  tokens     : Vector Token 8
  pending    : List Pending
  parked     : Bool
  waiting    : Bool
  pageWait   : Option PageWait
  debugStop  : Bool
  brkPassed  : Bool
  moved      : Bool := false
  asked      : Option Nat := none
  fir        : Option Firing
  bad        : List Nat := []
  owed       : List Nat := []
  deriving DecidableEq, Repr

/-! ## A context on a tile (R158, R160, R217, R226, R289, R280) -/

/-- One entry of the handler table as a tile keeps it (R157, R158): next is the image that a rewrite under way is to write
while the entry is locked; readyAt orders the ready entries (R164). -/
structure Entry where
  image   : EntryImage
  en      : Bool
  pend    : Bool
  pts     : Nat
  pwid    : Word
  pslot   : Option Nat
  lock    : Bool
  next    : Option EntryImage
  queue   : List Msg
  readyAt : Option Nat
  deriving DecidableEq, Repr

/-- A mailbox (R217). -/
structure Mailbox where
  value    : Word
  presence : Bool
  overrun  : Bool
  deriving DecidableEq, Repr

/-- A matrix command with its STEP (R229, R243), and the format it was checked against (R242). -/
structure MtxCmd where
  opc   : Nat
  rnd   : Nat
  ws    : Bool
  addr  : Nat
  wfmt  : Nat
  pitch : Nat
  step  : Nat
  fmt   : Nat
  owner : Option FiringId
  deriving DecidableEq, Repr

/-- The plane classes of R226. -/
inductive PlaneClass where
  | f16 | f8 | int
  deriving DecidableEq, Repr

/-- A plane: its class and its decoded values, 32 × K, row k of column j at 32 k + j (R226, R280). -/
structure Plane where
  cls  : PlaneClass
  vals : List Lane
  deriving DecidableEq, Repr

/-- The matrix unit's state (R226). An empty list of values stands for zeros. aclsInt is ACLS integer. arrivals are
the A span and the plane that have come for an MROT; nbrCls is NBRCLS, done CDONE (R242). -/
structure Matrix where
  active  : Plane
  shadow  : Plane
  acc     : List Lane
  aclsInt : Bool
  empty   : Bool
  queue   : List MtxCmd
  staging : List (Nat × Byte)
  mrnd    : Nat
  nbrCls  : Bool
  done    : Nat
  stopped : Bool
  arrA    : List (Nat × List Byte)
  arrP    : List (Nat × Plane)
  deriving DecidableEq, Repr

/-- What became of the firing that pushed a copy (R253, R259): it is speculative still, it has committed, pinned or
ended by a terminal fault, or it was aborted. -/
inductive PushFate where
  | speculative | settled | aborted
  deriving DecidableEq, Repr

/-- A copy request in a FIFO slot, started or not (R246, R250, R251, R257, R260). conv is the pair of formats of a
converting copy; row and done are its progress, written the bytes its message reports; fault the address a suspended
copy faulted at, reply a resume packet held for it; home is its slot at the push, which its handle names. attempt
belongs to a fabric copy (R353); chan is the channel that carries it and whether it goes to the host, chanKey that channel's
key at the push, ctrs the channel counters reserved, takesLast that they include the last one (R369). byEnd tells that its
firing has ended, or has been terminated, before it (R256, R267). since is when it started, or its next chunk began to wait, aged
the age it had at agedTo (R357); passed counts the write slots of its cluster's engine since its own last one (R250); paid tells
that the chunk it is at has taken one from LEFT, engine the I/O die whose edge engine it holds (R258, R358); bad names the 64-bit words of its FIFO slot whose errors are not corrected
(R377). -/
structure Copy where
  ctx       : Nat
  src       : Cap
  dst       : Cap
  w2        : Word
  w2b       : Word
  w3        : Word
  w3b       : Word
  ts        : Nat
  wid       : Word
  slot      : Option Nat
  pusher    : Option FiringId
  fate      : PushFate
  set       : SetId
  detached  : Bool
  byEnd     : Bool
  push      : Nat
  home      : Nat
  conv      : Option (Nat × Nat)
  started   : Bool
  row       : Nat
  done      : Nat
  written   : Nat
  fault     : Option Nat
  reply     : Option Nat
  attempt   : Nat
  chan      : Option (Nat × Bool)
  ctrs      : List Nat
  takesLast : Bool
  since     : Nat
  stop      : Option (BitVec 16)
  chanKey   : Nat := 0
  aged      : Nat := 0
  agedTo    : Nat := 0
  passed    : Nat := 0
  paid      : Bool := false
  engine    : Option Nat := none
  bad       : List Nat := []
  deriving DecidableEq, Repr

/-- A rerun owed to an aborted firing (R163, R174, R189, R223): its entry, its place in the order of readiness (R164), and
the firing with the messages that have returned and wait for it. -/
structure Rerun where
  tag      : Nat
  rank     : Nat
  firing   : Firing
  deriving DecidableEq, Repr

/-- A stop of a detached copy that Halo records (R256, R277). -/
structure StopRec where
  code : BitVec 16
  tok  : Nat
  deriving DecidableEq, Repr

/-- A message that waits at a tile's ingress or in flight (R160, R161). -/
abbrev Packet := Msg

/-- One context's resources and state on one tile; the save area of R280 holds the same while it is not loaded. saved
holds the firings that `yield` saved, each with its place in the order of R164; overruns counts the KPR.OVR that Halo
has recorded (R279). -/
structure TileCtx where
  share     : Nat
  saveAddr  : Nat
  entries   : Map Entry
  unbound   : List Msg
  normal    : RegSet
  urgent    : RegSet
  mail      : Vector Mailbox 32
  bankfmt   : Vector (BitVec 8) 8
  table     : List (BitVec 19)
  solve     : Solve
  kbudget   : Nat
  kstamp    : Nat
  kgrace    : Nat
  prq       : Bool
  prqAt     : Nat
  dbg       : Bool
  matrix    : Matrix
  saved     : List (Nat × RegSet)
  ended     : List Firing
  reruns    : List Rerun
  copies    : List Copy
  compMsgs  : List (FiringId × Msg)
  stops     : List StopRec
  stopsLost : Bool
  overruns  : Nat
  deriving DecidableEq, Repr

/-! ## A tile (R14, R16, R24, R162, R250) -/

/-- A deque task (R171). -/
structure Task where
  msg    : Msg
  serial : Nat
  parent : FiringId
  deriving DecidableEq, Repr

/-- A tile. away are the messages that Halo holds for contexts not resident here (R160). loaded is the context Halo has loaded (R279); matrix is the state of the context that ACCOWN names while
it is in the unit; count the firings made (R162), pushes the copies pushed (R257), faultsN and faultsU the page faults
of its two sets (R331); mirror the register sets in which the partner of a pair runs the primary's chains again (R385); slots the copy FIFO; updates the update-only lines of R212. -/
structure Tile where
  loaded   : Option Nat
  lastLoad : Nat
  ctxs     : Map TileCtx
  keeper   : RegSet
  accown   : BitVec 16
  matrix   : Matrix
  torcfg   : Word
  horizon  : Nat
  count    : Nat
  pushes   : Nat
  faultsN  : Nat
  faultsU  : Nat
  slots    : List (Option Copy)
  deque    : List Task
  ingress  : List Packet
  away     : List Msg
  updates  : List (Nat × Nat × Nat × Word)
  pair     : Option Nat
  pairWait : Option (Nat × Nat)
  fprint   : BitVec 64
  mirror   : Map RegSet
  idle     : Bool
  readyCtr : Nat
  deriving DecidableEq, Repr

/-! ## A cluster (R17, R172, R220, R297) -/

/-- A counter of the cluster unit (R172): owner is the group it was armed for in pull delivery, as launch slot and work
identifier (R179). -/
inductive Counter where
  | idle
  | join (count tag tile : Nat) (payload : List Word) (wid : Word) (ts : Nat) (ctx : Nat) (slot : Option Nat)
  | iter (stop minc div next : Nat) (owner : Option (Nat × Nat))
  deriving DecidableEq, Repr

/-- A barrier (R220). -/
structure Barrier where
  mask  : Nat
  arr   : Nat
  phase : Nat
  deriving DecidableEq, Repr

/-- What Halo assigned a context in a cluster (R276). -/
structure ClusterShare where
  ctrLo   : Nat
  ctrLen  : Nat
  barLo   : Nat
  barLen  : Nat
  cmemOff : Nat
  cmemLen : Nat
  deriving DecidableEq, Repr

/-- One tile's part of a cluster round (R297): its shape and its sums. -/
structure RoundPart where
  nt    : Nat
  rel   : Bool
  fill  : Nat
  nr    : Lane
  ng    : Lane
  hs    : List Lane
  cs    : List Lane
  lambda : Lane
  tol    : Lane
  deriving DecidableEq, Repr

/-- A round of a context in a cluster: the parts by tile, and the combined result once it is decided. -/
structure SolveRound where
  ctx   : Nat
  epoch : Nat
  seq   : Nat
  parts : List (Nat × RoundPart)
  deriving DecidableEq, Repr

/-- A cluster: its counters and barriers, what Halo assigned, its rounds, and the counters whose decrement met an idle one
at commit, as reported to Halo (R173). -/
structure Cluster where
  counters : Map Counter
  barriers : Map Barrier
  shares   : Map ClusterShare
  rounds   : List SolveRound
  lost     : List Nat
  deriving DecidableEq, Repr

/-! ## Partitions, queues, contexts, capsules (R25, R186, R304, R308, R338, R342, R360) -/

/-- The states of R361. -/
inductive PartState where
  | free | scrubbing | assigned | releasing
  deriving DecidableEq, Repr

/-- A partition: its PART register (R360), floor (R186), quarantine queue (R338), a split asked for (R362), the layouts
of its contexts (R176), the channel and the replica digests of a checkpoint asked for (R374), and whether its scrub ends a release (R361). -/
structure Partition where
  st        : PartState
  world     : Bool
  absent    : Bool
  shape     : Nat
  fbase     : Nat
  tenant    : Nat
  pager0    : Nat
  pager1    : Nat
  floor     : Nat
  quar      : List QItem
  split     : Bool
  layouts   : Map (List Nat)
  checkpt   : Option (Nat × List Nat)
  toFree    : Bool
  deriving DecidableEq, Repr

/-- One of the two HDM decoders (R341): a range of host physical addresses, the device memory it stands for, and the key ID of
the requests through it. -/
structure HdmDecoder where
  base : Nat
  len  : Nat
  dev  : Nat
  key  : Nat
  deriving DecidableEq, Repr

/-- A serial stream of a launch (R179): which one, the place of its last message among its serial work identifiers, that
message's work identifier, the stream's tile, and whether the firing made from that message has yet to end. -/
structure Stream where
  idx  : Nat
  pos  : Nat
  wid  : Nat
  tile : Nat
  busy : Bool
  deriving DecidableEq, Repr

/-- The work header of a launch (R177, R345) and its life (R179, R180, R346): begun once its first message is sent,
begunIn where one is sent, next the next stream or pull group to start, late those passed over because a weight load held
their partition (R345), complete once its completion record is due, flushed once its deferred flush is
done. urg is the class of its entry when its record was read. -/
structure Launch where
  queue    : Nat
  seq      : Nat
  ctx      : Nat
  parts    : List Nat
  pull     : Bool
  tag      : Nat
  urg      : Bool
  ts       : Nat
  minc     : Nat
  widths   : List Nat
  scopes   : List Nat
  extents  : List Nat
  args     : List Byte
  wload    : Bool
  dep      : Option (Nat × Nat × Nat)
  begun    : Bool
  begunIn  : List Nat
  next     : Nat
  late     : List Nat
  streams  : List Stream
  sentAll  : Bool
  term     : Option (BitVec 16)
  complete : Bool
  flushed  : Bool
  deriving DecidableEq, Repr

/-- A queue block (R342). held is a launch that the dispatcher has read and judged and that waits for its slot (R179,
R343). -/
structure Queue where
  qbase : Word
  en    : Bool
  err   : Bool
  ctx   : Nat
  logsz : Nat
  tail  : Nat
  head  : Nat
  cbase : Word
  ctail : Nat
  chead : Nat
  held  : Option Launch
  deriving DecidableEq, Repr

/-- A completion that waits for room in its ring (R347). -/
structure Completion where
  queue  : Nat
  typ    : Nat
  status : Nat
  seq    : Nat
  code   : BitVec 16
  parts  : Nat
  deriving DecidableEq, Repr

/-- A record that has started and waits to complete: host sync, release of a host range, capsule release (R317, R336,
R346). -/
inductive Waiting where
  | sync (queue seq : Nat) (dep : Nat × Nat × Nat)
  | relRange (queue seq ends : Nat)
  | capRel (queue seq capsule : Nat)
  deriving DecidableEq, Repr

/-- A registered context (R25, R325, R364, R373); left and period are what remains of its edge budget, and the period it
was last refilled in (R357). -/
structure Context where
  info     : RegInfo
  tvec     : Cap
  table    : Map EntryImage
  edgebud  : Word
  left     : Nat
  period   : Nat
  attempts : Map Nat
  deriving DecidableEq, Repr

/-- A handler declaration of a code object (R306). -/
structure HandlerDecl where
  tag   : Nat
  sect  : Nat
  off   : Nat
  ctrl  : Word
  port  : Word
  deriving DecidableEq, Repr

/-- A GOT entry (R306, R314). -/
structure GotDecl where
  kind : Nat
  sect : Nat
  off  : Nat
  deriving DecidableEq, Repr

/-- A section of native body: its halfwords, in portable offsets (R308). -/
structure Section where
  code : List Half
  deriving DecidableEq, Repr

/-- A capsule (R304 to R320): its sections as installed, its declarations (handlers, GOT, parameters by type and needed
permissions, trap entry, placement area), the retained portable form, the stamp of R1, whether its body is void, and the
register set whose rebuild of it is running (R319, R320). -/
structure Capsule where
  ctx      : Nat
  sections : List Section
  handlers : List HandlerDecl
  gots     : List GotDecl
  params   : List (Nat × Nat)
  trap     : Option (Nat × Nat)
  place    : Nat
  image    : List Byte
  gen      : Nat
  meas     : BitVec 256
  void     : Bool
  rebuild  : Option Unit_
  released : Bool
  breaks   : List (Nat × Nat)
  deriving DecidableEq, Repr

/-- A binding of a capsule in a context (R315, R316): the tags it fills, and the references of its parameter slots. -/
structure Binding where
  ctx     : Nat
  capsule : Nat
  tagbase : Nat
  tags    : List Nat
  params  : List Cap
  deriving DecidableEq, Repr

/-- A sweep (R114, R115): its context, and what was live when it opened; a firing that is saved leaves firings. -/
structure Sweep where
  epoch   : Nat
  ctx     : Nat
  dies    : List Nat
  firings : List FiringId
  pushes  : List (Nat × Nat)
  deriving DecidableEq, Repr

/-- A lease of a cached translation (R329): ASID, page, the entry as walked, whether it maps a block, and when it
ends. -/
structure Lease where
  asid  : Nat
  page  : Nat
  entry : Nat
  block : Bool
  ends  : Nat
  deriving DecidableEq, Repr

/-- A Moatal Link port (R351). -/
inductive PortState where
  | up | retraining (since : Nat) | down
  deriving DecidableEq, Repr

/-- A channel (R367): its register, the two counters, and the agreed key, as the number that stands for it. -/
structure Channel where
  ctrl : Word
  dctr : Nat
  hctr : Nat
  key  : Nat
  deriving DecidableEq, Repr

/-- A write unit posted to a peer and not yet completed there, or a read unit whose response is awaited; lost once its
port has gone down (R200, R351). -/
structure Posted where
  unit  : FabricUnit
  port  : Nat
  owner : Option FiringId
  lost  : Bool
  deriving DecidableEq, Repr

/-- What an event record of Contrail tells of a firing (R322). -/
inductive FireEvent where
  | start | ended | committed | aborted
  deriving DecidableEq, Repr

/-- An event record of Contrail: TS, serial number and TIME, and whose (R322). -/
structure EventRec where
  kind   : FireEvent
  tile   : Nat
  ctx    : Nat
  ts     : Nat
  serial : Nat
  time   : Nat
  deriving DecidableEq, Repr

/-- A restore that waits for the pager to map a page, or for the tenant's firings (R375): its channel, the capsules' new
numbers, and what is left, each block with its ASID and virtual address. -/
structure Restore where
  chan   : Nat
  map    : Map Nat
  blocks : List (Nat × Nat × List Chunk)
  areas  : List (List Chunk)
  deriving DecidableEq, Repr

/-- One slot of the error ring (R390), as its fields. -/
structure ErrRec where
  cls   : Nat
  unit  : Nat
  part  : Nat
  who   : Nat
  syn   : Nat
  addr  : Nat
  frame : Nat
  pc    : Nat
  deriving DecidableEq, Repr

/-- The STATUS register (R392). -/
structure Status where
  ready  : Bool
  fail   : Bool
  fstage : Nat
  stage  : Nat
  deriving DecidableEq, Repr

/-- The whole package. hostReads what the host has read, in order. absent are the tiles
that the part does not offer, by its fuses and by bring-up (R391). wiped are the poisoned words that
were overwritten and have no record yet (R379), checks the machine checks raised to Halo (R384). covers gives each painted granule the first sweep opened since it
was painted, or 0, narrowed the frames of table entries that a pager has replaced, with when (R338); keyMat the key pairs of the slots (R364); chanOut the chunks that the device has sent of
itself, reports what of them were reports; events and refused what Contrail recorded: firings of held contexts, patches
refused with their reason codes (R322); restores those under way, by partition. agenda, cur and turn are the model's own: events that the outside has brought and not yet had,
the register set that issues, and whether a chain or an event is next. tick numbers the free values.
DESIGN CHOICE, log 16. -/
structure State where
  mem        : List (Host.Cell)
  tags       : List Nat
  poison     : List Nat
  wiped      : List Nat
  checks     : List Nat
  painted    : List Nat
  covers     : Map Nat
  narrowed   : List (Nat × Nat × Nat)
  lineKeys   : Map Nat
  tiles      : Map Tile
  clusters   : Map Cluster
  parts      : Map Partition
  contexts   : Map Context
  capsules   : Map Capsule
  binds      : List Binding
  queues     : Map Queue
  hdm        : Vector HdmDecoder 2
  hostReads  : List (HostAddr × List Byte)
  launches   : Map Launch
  doneLaunch : List (Nat × Nat)
  comps      : List Completion
  waits      : List Waiting
  net        : List Packet
  sweeps     : List Sweep
  lastEpoch  : Nat
  epochWrap  : Bool
  qnow       : Nat
  qdone      : Nat
  leases     : List Lease
  refreshing : List Nat
  wins       : Map Word
  exps       : Map Word
  chans      : Map Channel
  keys       : Map Word
  ephemeral  : Nat
  ports      : Map PortState
  posted     : List Posted
  fabric     : List Posted
  outbound   : List Outbound
  flushAcks  : List (Nat × Nat × Nat)
  flushReqs  : List (Nat × Nat × Nat)
  keyMat     : Map Nat
  reports    : List (Nat × List Byte)
  chanOut    : List Chunk
  fullRecs   : List (Nat × ErrRec)
  events     : List EventRec
  refused    : List (Nat × Nat)
  restores   : Map Restore
  mr         : Vector (BitVec 256) 8
  instMeas   : BitVec 256
  rollback   : Nat
  fuses      : List Nat
  absent     : List Nat
  status     : Status
  caps       : Map Nat
  ovf        : Bool
  ehead      : Nat
  etail      : Nat
  ering      : List (Nat × ErrRec)
  phases     : Map Nat
  msix       : List Nat
  clk        : Nat
  tick       : Nat
  agenda     : List Instr
  cur        : Unit_
  turn       : Bool
  deriving DecidableEq, Repr

/-- Why the machine stops. -/
inductive Fault where
  /-- The bytes at the program counter are no instruction. R55 says this never reaches a tile: the installer has
  refused every such section. Raised by step only, for a body that no install made; safe. -/
  | undecodable
  deriving DecidableEq, Repr

/-- Why an instruction has no meaning here. -/
inductive Refusal where
  /-- An instruction whose meaning has not been written; raised by exec's arms only; safe. -/
  | notModelled (mnemonic : String)
  deriving DecidableEq, Repr

/-! ## Reset contents -/

def Flags.reset : Flags := { z := false, n := false, c := false, v := false }

/-- A register set that no firing has used: zero throughout (R24, R27, R76, R280). -/
def RegSet.reset : RegSet :=
  { s := Vector.replicate 32 0, c := Vector.replicate 16 Cap.null
    v := Vector.replicate 32 (Vector.replicate 64 0), k := Vector.replicate 8 0
    flags := Flags.reset, loops := [], rcnt := { done := 0, remain := 0 }
    pcc := Cap.null, epcc := Cap.null, savedLoops := [], inTrap := false
    taddr := 0, fcode := 0, fmask := 0
    tokens := Vector.replicate 8 { cnt := 0, stat := 0 }
    pending := [], parked := false, waiting := false, pageWait := none
    debugStop := false, brkPassed := false, fir := none }

/-- The registration state of R226. -/
def Matrix.reset : Matrix :=
  { active := { cls := .f16, vals := [] }, shadow := { cls := .f16, vals := [] }
    acc := [], aclsInt := false, empty := true, queue := [], staging := [], mrnd := 0
    nbrCls := false, done := 0, stopped := false, arrA := [], arrP := [] }

/-- The solve state at registration (R289). -/
def Solve.reset : Solve :=
  { tol := 0, itceil := 0, slvk := 0, damp := 0, lambda := 0, cepoch := 0
    active := false, scope := false, rel := false, contrib := false, shape := false, prev := false
    ntm1 := 0, depth := 0, fill := 0, head := 0, drops := 0, held := false
    desc0 := 0, desc1 := 0, start := 0, tileCap := Cap.null, histCap := Cap.null
    nrm := 0, ngm := 0, thr := 0, gammas := [], cseq := 0, result := none }

/-- One entry of T8-E4 for codes below 0x80 (R69). A subnormal m/8 × 2^−6 with leading bit top has exponent
top − 9, so EXP is 118 + top. -/
def t8e4Entry (c : Nat) : Nat :=
  let e := c / 8; let m := c % 8
  if c = 0 then 0 else if c = 127 then 0x3FE00
  else if e = 0 then
    let top := if 4 ≤ m then 2 else if 2 ≤ m then 1 else 0
    (118 + top) * 1024 + (m - 2 ^ top) * 2 ^ (10 - top)
  else (e + 120) * 1024 + m * 128

/-- One entry of T8-E5 for codes below 0x80 (R69). A subnormal m/4 × 2^−14 with leading bit top has EXP 111 + top. -/
def t8e5Entry (c : Nat) : Nat :=
  let e := c / 4; let m := c % 4
  if c = 0 then 0
  else if e = 31 then (if m = 0 then 0x3FC00 else 0x3FE00 + m)
  else if e = 0 then
    let top := if 2 ≤ m then 1 else 0
    (111 + top) * 1024 + (m - 2 ^ top) * 2 ^ (10 - top)
  else (e + 112) * 1024 + m * 256

/-- A preset table: each negative code has the entry of its positive code with SIGN set (R69). -/
def presetTable (entry : Nat → Nat) : List (BitVec 19) :=
  (List.range 128).map (fun c => BitVec.ofNat 19 (entry c)) ++
  (List.range 128).map (fun c => BitVec.ofNat 19 (entry c + 2 ^ 18))

def tableE4 : List (BitVec 19) := presetTable t8e4Entry
def tableE5 : List (BitVec 19) := presetTable t8e5Entry

/-- A context on a tile at registration (R280). -/
def TileCtx.reset : TileCtx :=
  { share := 1024, saveAddr := 0, entries := [], unbound := [], normal := RegSet.reset, urgent := RegSet.reset
    mail := Vector.replicate 32 { value := 0, presence := false, overrun := false }
    bankfmt := Vector.replicate 8 0, table := tableE4, solve := Solve.reset
    kbudget := 0, kstamp := 0, kgrace := 0, prq := false, prqAt := 0, dbg := false
    matrix := Matrix.reset, saved := [], ended := [], reruns := [], copies := [], compMsgs := []
    stops := [], stopsLost := false, overruns := 0 }

/-- TORCFG of a tile in its own quadrant's 8 × 8 torus (R238). -/
def ownTorcfg (n : Nat) : Word :=
  let row := n / 16 % 16
  let col := n % 16
  let north := n - row * 16 + (row / 8 * 8 + (row % 8 + 7) % 8) * 16
  let west := n - col + (col / 8 * 8 + (col % 8 + 7) % 8)
  BitVec.ofNat 64 (north * 2 ^ 36 + west * 2 ^ 24 + row % 8 * 16 + col % 8)

/-- Tile n after cold reset (R24, R226, R238). -/
def Tile.reset (n : Nat) : Tile :=
  { loaded := none, lastLoad := 0, ctxs := [], keeper := RegSet.reset, accown := 0, matrix := Matrix.reset
    torcfg := ownTorcfg n, horizon := 0, count := 0, pushes := 0, faultsN := 0, faultsU := 0, slots := List.replicate 8 none
    deque := [], ingress := [], away := [], updates := [], pair := none, pairWait := none, fprint := 0, mirror := [], idle := false
    readyCtr := 0 }

/-- A cluster after cold reset: counters idle, barriers zero (R172, R220). -/
def Cluster.reset : Cluster := { counters := [], barriers := [], shares := [], rounds := [], lost := [] }

/-- PARTp after cold reset (R360): free; ABSENT is a calibration result. -/
def Partition.reset (p : Nat) : Partition :=
  { st := .free, world := false, absent := false, shape := 0, fbase := p, tenant := 0
    pager0 := 0, pager1 := 0, floor := 0, quar := [], split := false, layouts := [], checkpt := none, toFree := false }

/-- A queue block after cold reset (R342). -/
def Queue.reset : Queue :=
  { qbase := 0, en := false, err := false, ctx := 0, logsz := 0, tail := 0, head := 0, cbase := 0
    ctail := 0, chead := 0, held := none }

/-- The package at cold reset, before the first step of bring-up (R393): STATUS reads step 1 in progress once the
first step runs; nothing is registered, installed or listed. DESIGN CHOICE, log 12. -/
def State.reset : State :=
  { mem := [], tags := [], poison := [], wiped := [], checks := [], painted := [], covers := [], narrowed := [], lineKeys := [], tiles := [], clusters := [], parts := [], contexts := []
    capsules := [], binds := [], queues := [], hdm := Vector.replicate 2 { base := 0, len := 0, dev := 0, key := 0 }, hostReads := [], launches := [], doneLaunch := [], comps := [], waits := []
    net := [], sweeps := [], lastEpoch := 0, epochWrap := false, qnow := 0, qdone := 0, leases := []
    refreshing := [], wins := [], exps := [], chans := [], keys := [], ephemeral := 0, ports := []
    posted := [], fabric := [], outbound := [], flushAcks := [], flushReqs := [], keyMat := [], reports := [], chanOut := []
    fullRecs := [], events := [], refused := [], restores := [], mr := Vector.replicate 8 0, instMeas := 0, rollback := 0, fuses := [], absent := []
    status := { ready := false, fail := false, fstage := 0, stage := 0 }
    caps := [], ovf := false, ehead := 0, etail := 0, ering := [], phases := [], msix := []
    clk := 0, tick := 0, agenda := [], cur := { tile := 0, set := .normal }, turn := true }

end Sys2Proof.Machine
end

