-- ==== Sys2Proof/Machine/Units.lean ====
section
/-! DEFINITION. Machine/Units.lean: the package's units by number, the issuing register set, and the register files (R23). -/

namespace Sys2Proof.Machine

/-- A vector of n elements from a function of the index. -/
def tabulate {α : Type} (n : Nat) (f : Nat → α) : Vector α n :=
  ⟨⟨(List.range n).map f⟩, by simp⟩

/-! ## Units -/

def State.tile (s : State) (n : Nat) : Tile := Map.get s.tiles n (Tile.reset n)
def State.setTile (s : State) (n : Nat) (t : Tile) : State := { s with tiles := Map.set s.tiles n t }
def State.cluster (s : State) (n : Nat) : Cluster := Map.get s.clusters n Cluster.reset
def State.setCluster (s : State) (n : Nat) (x : Cluster) : State := { s with clusters := Map.set s.clusters n x }
def State.part (s : State) (n : Nat) : Partition := Map.get s.parts n (Partition.reset n)
def State.setPart (s : State) (n : Nat) (x : Partition) : State := { s with parts := Map.set s.parts n x }
/-- A tenant owns the partition (R361). -/
def Partition.owned (q : Partition) : Bool := q.st == .assigned || q.st == .releasing
def State.queue (s : State) (n : Nat) : Queue := Map.get s.queues n Queue.reset
def State.setQueue (s : State) (n : Nat) (x : Queue) : State := { s with queues := Map.set s.queues n x }

/-- A context's state on a tile. -/
def Tile.tctx (t : Tile) (c : Nat) : TileCtx := Map.get t.ctxs c TileCtx.reset
def Tile.setTctx (t : Tile) (c : Nat) (x : TileCtx) : Tile := { t with ctxs := Map.set t.ctxs c x }
def State.tctxOf (s : State) (n c : Nat) : TileCtx := (s.tile n).tctx c
def State.setTctxOf (s : State) (n c : Nat) (x : TileCtx) : State := s.setTile n ((s.tile n).setTctx c x)

/-- A register set of a context on a tile (R23). -/
def TileCtx.regs (x : TileCtx) : SetId → RegSet
  | .urgent => x.urgent
  | _ => x.normal

def TileCtx.setRegs (x : TileCtx) (k : SetId) (r : RegSet) : TileCtx :=
  match k with
  | .urgent => { x with urgent := r }
  | _ => { x with normal := r }

/-- The context whose register sets are live on the issuing tile (R279). -/
def State.ctxn (s : State) : Nat :=
  match (s.tile s.cur.tile).loaded with
  | some c => c
  | none => 0

/-- The issuing context on the issuing tile. -/
def State.tctx (s : State) : TileCtx := s.tctxOf s.cur.tile s.ctxn
def State.setTctx (s : State) (x : TileCtx) : State := s.setTctxOf s.cur.tile s.ctxn x

/-- A register set of the loaded context of a tile, or the keeper state of its Halo (R274). -/
def State.regOf (s : State) (n : Nat) : SetId → RegSet
  | .keeper => (s.tile n).keeper
  | k => match (s.tile n).loaded with
    | some c => (s.tctxOf n c).regs k
    | none => (s.tctxOf n 0).regs k

/-- The register set in which the current chain runs. -/
def State.reg (s : State) : RegSet :=
  match s.cur.set with
  | .keeper => (s.tile s.cur.tile).keeper
  | k => s.tctx.regs k

def State.setReg (s : State) (r : RegSet) : State :=
  match s.cur.set with
  | .keeper => s.setTile s.cur.tile { s.tile s.cur.tile with keeper := r }
  | k => s.setTctx (s.tctx.setRegs k r)

/-- The registration of the issuing context. -/
def State.context? (s : State) : Option Context := Map.get? s.contexts s.ctxn

/-- The privilege at which the current chain runs (R30, R265). -/
def State.priv (s : State) : Priv :=
  match s.cur.set with
  | .keeper => .keeper
  | _ => match s.context? with
    | some c => c.info.priv
    | none => .user

def privLevel : Priv → Nat
  | .user => 0 | .supervisor => 1 | .keeper => 2

/-- The running firing. -/
def State.fir (s : State) : Option Firing := s.reg.fir
def State.setFir (s : State) (f : Firing) : State := s.setReg { s.reg with fir := some f }

/-- Halo wakes: a message for a resident context, a copy that completes or stops, a pager's reply, a keeper event such as
a keeper call, an expiry, the end of a slice or a fault that Halo takes (R287). -/
def State.wake (s : State) (n : Nat) : State := s.setTile n { s.tile n with idle := false }

/-- How the registers of a set are told from another's. -/
def setCode : SetId → Nat
  | .urgent => 0
  | .normal => 1
  | .keeper => 2

/-- Memory changed; nothing else. -/
def State.setMem (s : State) (m : List Host.Cell) : State := { s with mem := m }

/-- The next value the manual leaves to the device. DESIGN CHOICE, log 4. -/
def State.fresh (s : State) : Nat := Config.freeNat s.tick
def State.bump (s : State) : State := { s with tick := s.tick + 1 }

/-! ## Register files (R23) -/

/-- Registers are written, those of which a test holds: what errors they held are gone, and owe their records (R379). -/
def RegSet.mend (r : RegSet) (p : Nat → Bool) : RegSet :=
  { r with bad := r.bad.filter (fun j => !p j), owed := r.owed ++ r.bad.filter p }

/-- The mark of one lane of a v register. -/
def laneMark (i lane : Nat) : Nat := 256 + 64 * i + lane

def RegSet.getS (r : RegSet) (i : BitVec 5) : Word := if i = 0 then 0 else r.s[i.toNat]'i.isLt
def RegSet.setS (r : RegSet) (i : BitVec 5) (w : Word) : RegSet :=
  if i = 0 then r else { r with s := r.s.set i.toNat w i.isLt }.mend (fun j => j == i.toNat)
def RegSet.getC (r : RegSet) (i : BitVec 4) : Cap := if i = 0 then Cap.null else r.c[i.toNat]'i.isLt
def RegSet.setC (r : RegSet) (i : BitVec 4) (x : Cap) : RegSet :=
  if i = 0 then r else { r with c := r.c.set i.toNat x i.isLt }.mend (fun j => j == 32 + i.toNat)
def RegSet.getV (r : RegSet) (i : BitVec 5) : VReg := r.v[i.toNat]'i.isLt
def RegSet.setV (r : RegSet) (i : BitVec 5) (x : VReg) : RegSet :=
  { r with v := r.v.set i.toNat x i.isLt }.mend (fun j => decide (laneMark i.toNat 0 ≤ j) && decide (j < laneMark i.toNat 64))
/-- A v register of which only the lanes of a mask are written. -/
def RegSet.setLanes (r : RegSet) (i : BitVec 5) (m : Word) (x : VReg) : RegSet :=
  { r with v := r.v.set i.toNat x i.isLt }.mend (fun j =>
    decide (laneMark i.toNat 0 ≤ j) && decide (j < laneMark i.toNat 64) && m.getLsbD (j - laneMark i.toNat 0))
/-- A k register's bits; k0 reads all ones (R23, R138). -/
def RegSet.getK (r : RegSet) (i : BitVec 3) : Word := if i = 0 then BitVec.allOnes 64 else r.k[i.toNat]'i.isLt
def RegSet.setK (r : RegSet) (i : BitVec 3) (w : Word) : RegSet :=
  if i = 0 then r else { r with k := r.k.set i.toNat w i.isLt }.mend (fun j => j == 80 + i.toNat)
def RegSet.token (r : RegSet) (i : BitVec 3) : Token := r.tokens[i.toNat]'i.isLt
def RegSet.setToken (r : RegSet) (i : BitVec 3) (t : Token) : RegSet :=
  { r with tokens := r.tokens.set i.toNat t i.isLt }

def State.s (s : State) (i : BitVec 5) : Word := s.reg.getS i
def State.setS (s : State) (i : BitVec 5) (w : Word) : State := s.setReg (s.reg.setS i w)
def State.c (s : State) (i : BitVec 4) : Cap := s.reg.getC i
def State.setC (s : State) (i : BitVec 4) (x : Cap) : State := s.setReg (s.reg.setC i x)
def State.v (s : State) (i : BitVec 5) : VReg := s.reg.getV i
def State.setV (s : State) (i : BitVec 5) (x : VReg) : State := s.setReg (s.reg.setV i x)
def State.setLanes (s : State) (i : BitVec 5) (m : Word) (x : VReg) : State := s.setReg (s.reg.setLanes i m x)
def State.k (s : State) (i : BitVec 3) : Word := s.reg.getK i
def State.setK (s : State) (i : BitVec 3) (w : Word) : State := s.setReg (s.reg.setK i w)

/-- The payload registers s1 to s6 (R27, R167). -/
def State.payload (s : State) : List Word := [s.s 1, s.s 2, s.s 3, s.s 4, s.s 5, s.s 6]

end Sys2Proof.Machine
end

