-- ==== Sys2Proof/Machine/Num.lean ====
section
/-! DEFINITION. Machine/Num.lean: exact values, rounding, the number formats and their conversions (R56 to R75), and
the F32 arithmetic of R141 to R143, R150 and R151. -/

namespace Sys2Proof.Machine

/-! ## Exact values -/

/-- A value before rounding: a NaN by its F32 bits, an infinity, or m × 2^e with a sign (m = 0 is a signed zero). -/
inductive Num where
  | nan (bits : Lane)
  | inf (neg : Bool)
  | fin (neg : Bool) (m : Nat) (e : Int)
  deriving DecidableEq, Repr

/-- 2^e for the exponent of an integer difference (0 below zero). -/
def pow2 (e : Int) : Nat := 2 ^ e.toNat

/-- Magnitudes aligned to the lesser exponent. -/
def alignMag (m1 : Nat) (e1 : Int) (m2 : Nat) (e2 : Int) : Nat × Nat × Int :=
  let e := min e1 e2
  (m1 * pow2 (e1 - e), m2 * pow2 (e2 - e), e)

/-- m1 × 2^e1 < m2 × 2^e2. -/
def magLt (m1 : Nat) (e1 : Int) (m2 : Nat) (e2 : Int) : Bool :=
  let q := alignMag m1 e1 m2 e2
  decide (q.1 < q.2.1)

def magEq (m1 : Nat) (e1 : Int) (m2 : Nat) (e2 : Int) : Bool :=
  let q := alignMag m1 e1 m2 e2
  q.1 == q.2.1

def Num.scale (x : Num) (k : Int) : Num :=
  match x with
  | .fin s m e => .fin s m (e + k)
  | y => y

def Num.neg : Num → Bool
  | .nan b => b.msb
  | .inf s => s
  | .fin s _ _ => s

def ofInt (i : Int) : Num := .fin (decide (i < 0)) i.natAbs 0

/-! ## Rounding (R60) -/

/-- The binary formats of R56 and R60: fraction bits, least exponent, greatest exponent. The bias is the greatest. -/
structure FloatFmt where
  p    : Nat
  emin : Int
  emax : Int
  deriving DecidableEq, Repr

def f32 : FloatFmt := { p := 23, emin := -126, emax := 127 }
def bf16 : FloatFmt := { p := 7, emin := -126, emax := 127 }
def f16 : FloatFmt := { p := 10, emin := -14, emax := 15 }

/-- The position of the sign bit. -/
def FloatFmt.signBit (f : FloatFmt) : Nat := if f.p = 23 then 31 else 15
/-- The exponent field of all ones, in place: the infinity's bits. -/
def FloatFmt.infBits (f : FloatFmt) : Nat := 2 ^ f.signBit - 2 ^ f.p
def FloatFmt.withSign (f : FloatFmt) (s : Bool) (bits : Nat) : Nat := (if s then 2 ^ f.signBit else 0) + bits

/-- Whether a magnitude n + r / 2^k (0 < r < 2^k) goes to n + 1 (R60): dflt is nearest-even (R75). -/
def roundsUp (mode : Round) (neg : Bool) (n r k : Nat) : Bool :=
  if r = 0 then false
  else match mode with
    | .rz => false
    | .ru => !neg
    | .rd => neg
    | .ro => n % 2 == 0
    | _ => decide (2 ^ k < 2 * r) || (2 * r == 2 ^ k && n % 2 == 1)

/-- Overflow goes to the infinity, else to MAX (R60). -/
def overflowsToInf (mode : Round) (neg : Bool) : Bool :=
  match mode with
  | .rz => false
  | .ru => !neg
  | .rd => neg
  | .ro => false
  | _ => true

/-- m × 2^e as a count of steps of 2^q, rounded. -/
def roundSteps (mode : Round) (neg : Bool) (m : Nat) (e q : Int) : Nat :=
  if q ≤ e then m * pow2 (e - q)
  else
    let k := (q - e).toNat
    let n := m / 2 ^ k
    if roundsUp mode neg n (m % 2 ^ k) k then n + 1 else n

/-- NarrowNaN (R62). -/
def narrowNan (f : FloatFmt) (b : Lane) : Nat :=
  let frac := b.toNat % 2 ^ 23 / 2 ^ (23 - f.p)
  f.withSign b.msb (f.infBits + (frac ||| 2 ^ (f.p - 1)))

/-- RoundFloat (R60), as the encoding's bits. -/
def roundFloat (f : FloatFmt) (mode : Round) (x : Num) : Nat :=
  match x with
  | .nan b => narrowNan f b
  | .inf s => f.withSign s f.infBits
  | .fin s m e =>
    if m = 0 then f.withSign s 0
    else
      let ex := max ((Nat.log2 m : Int) + e) f.emin
      let n := roundSteps mode s m e (ex - f.p)
      if f.emax < ex ∨ (ex = f.emax ∧ 2 ^ (f.p + 1) ≤ n) then
        (if overflowsToInf mode s then f.withSign s f.infBits else f.withSign s (f.infBits - 1))
      else if n < 2 ^ f.p then f.withSign s n
      else f.withSign s ((ex + f.emax).toNat * 2 ^ f.p + (n - 2 ^ f.p))

def toF32 (mode : Round) (x : Num) : Lane := BitVec.ofNat 32 (roundFloat f32 mode x)

/-- ConvertToInt (R61). -/
def convertToInt (lo hi : Int) (mode : Round) (x : Num) : Int :=
  match x with
  | .nan _ => 0
  | .inf s => if s then lo else hi
  | .fin s m e =>
    let n := roundSteps mode s m e 0
    let i : Int := if s then -(n : Int) else n
    max lo (min hi i)

/-- SaturateInt (R61). -/
def saturateInt (lo hi n : Int) : Int := max lo (min hi n)

/-! ## Decoding (R56, R62) -/

/-- The value of an F32 lane. -/
def f32Num (b : Lane) : Num :=
  let ex : Nat := b.toNat / 2 ^ 23 % 256
  let fr := b.toNat % 2 ^ 23
  if ex = 255 then (if fr = 0 then .inf b.msb else .nan b)
  else if ex = 0 then .fin b.msb fr (-149)
  else .fin b.msb (2 ^ 23 + fr) ((ex : Int) - 150)

def isNan (b : Lane) : Bool := decide (0x7F800000 < b.toNat % 2 ^ 31)
def quiet (b : Lane) : Lane := b ||| 0x00400000
def canonNan : Lane := 0x7FC00000

/-- F16 into F32: exact, a NaN with its fraction shifted left by 13. -/
def widenF16 (n : Nat) : Lane :=
  let s := n / 2 ^ 15 % 2
  let ex := n / 2 ^ 10 % 32
  let fr := n % 2 ^ 10
  if ex = 31 then BitVec.ofNat 32 (s * 2 ^ 31 + 0x7F800000 + fr * 2 ^ 13)
  else if ex = 0 then toF32 .rn (.fin (s == 1) fr (-24))
  else BitVec.ofNat 32 (s * 2 ^ 31 + (ex + 112) * 2 ^ 23 + fr * 2 ^ 13)

/-- BF16 into F32. -/
def widenBf16 (n : Nat) : Lane := BitVec.ofNat 32 (n % 2 ^ 16 * 2 ^ 16)

/-! ## T8 (R67 to R70) -/

/-- Entry c of a decode table. -/
def t8Entry (t : List (BitVec 19)) (c : Nat) : Nat := (t.getD (c % 256) 0).toNat

/-- DecodeT8 (R67). -/
def decodeT8 (t : List (BitVec 19)) (c : Nat) : Lane := BitVec.ofNat 32 (t8Entry t c * 2 ^ 13)

/-- The 18-bit magnitudes EXP:FRAC. Infinity is 0x3FC00 and the NaNs lie above it. -/
def magInf : Nat := 0x3FC00

/-- The value of a finite magnitude. -/
def magValue (g : Nat) : Nat × Int :=
  if g / 1024 = 0 then (g % 1024, -136) else (1024 + g % 1024, (g / 1024 : Nat) - 137)

/-- One half of a table: codes with their magnitudes, in ascending order of code. -/
def t8Half (t : List (BitVec 19)) (neg : Bool) : List (Nat × Nat) :=
  (List.range 128).map (fun i =>
    let c := i + (if neg then 128 else 0)
    (c, t8Entry t c % 2 ^ 18))

/-- The lowest code with a magnitude. -/
def lowestCode (h : List (Nat × Nat)) (g : Nat) : Option Nat := (h.find? (fun q => q.2 == g)).map (fun q => q.1)

/-- The lowest NaN code of a half. -/
def lowestNan (h : List (Nat × Nat)) : Option Nat := (h.find? (fun q => decide (magInf < q.2))).map (fun q => q.1)

def maxOf : List Nat → Option Nat
  | [] => none
  | x :: xs => some (xs.foldl max x)
def minOf : List Nat → Option Nat
  | [] => none
  | x :: xs => some (xs.foldl min x)

/-- The code of two with the given low bit, if exactly one has it; else the first (R70). -/
def parityCode (l u bit0 : Nat) : Nat :=
  if l % 2 = bit0 ∧ u % 2 ≠ bit0 then l else if u % 2 = bit0 ∧ l % 2 ≠ bit0 then u else l

/-- EncodeT8 between neighbours (R70): a = m × 2^e lies strictly between the magnitudes gl and gu of codes l and u; inf
marks u as the infinity and prev as the next smaller magnitude, or 0. -/
def chooseT8 (mode : Round) (neg : Bool) (m : Nat) (e : Int) (l gl u gu : Nat) (inf : Bool) (prev : Nat) : Nat :=
  let vl := magValue gl
  match mode with
  | .rz => l
  | .ru => if neg then l else u
  | .rd => if neg then u else l
  | .ro => parityCode l u 1
  | _ =>
    if inf then
      -- a ≥ M + (M − MP) / 2
      let vp := magValue prev
      let ex := min e (min vl.2 vp.2)
      let lhs := 2 * (m * pow2 (e - ex)) + vp.1 * pow2 (vp.2 - ex)
      if 3 * (vl.1 * pow2 (vl.2 - ex)) ≤ lhs then u else l
    else
      let vu := magValue gu
      let ex := min e (min vl.2 vu.2)
      let a := 2 * (m * pow2 (e - ex))
      let s := vl.1 * pow2 (vl.2 - ex) + vu.1 * pow2 (vu.2 - ex)
      if a < s then l else if s < a then u else parityCode l u 0

/-- EncodeT8 (R70). -/
def encodeT8 (t : List (BitVec 19)) (mode : Round) (x : Num) : Nat :=
  let neg := x.neg
  let base := if neg then 128 else 0
  let h := t8Half t neg
  match x with
  | .nan _ =>
    match lowestNan h with
    | some c => c
    | none => match lowestNan (t8Half t (!neg)) with
      | some c => c
      | none => base + 127
  | _ =>
    let inf := lowestCode h magInf
    let fin := h.filter (fun q => decide (q.2 < magInf))
    match maxOf (fin.map (fun q => q.2)) with
    | none => inf.getD base
    | some top =>
      match x with
      | .fin _ m e =>
        let below := fin.filter (fun q => let v := magValue q.2; magLt v.1 v.2 m e)
        let aboveL := fin.filter (fun q => let v := magValue q.2; magLt m e v.1 v.2)
        match fin.find? (fun q => let v := magValue q.2; magEq v.1 v.2 m e) with
        | some q => q.1
        | none =>
          match maxOf (below.map (fun q => q.2)), minOf (aboveL.map (fun q => q.2)) with
          | none, none => base
          | none, some gu => (lowestCode h gu).getD base
          | some gl, some gu =>
            chooseT8 mode neg m e ((lowestCode h gl).getD base) gl ((lowestCode h gu).getD base) gu false 0
          | some gl, none =>
            let l := (lowestCode h gl).getD base
            match inf with
            | none => l
            | some u =>
              let prev := (maxOf ((fin.filter (fun q => decide (q.2 < gl))).map (fun q => q.2))).getD 0
              chooseT8 mode neg m e l gl u 0 true prev
      | _ => inf.getD ((lowestCode h top).getD base)

/-- The conditions of R68 on a table image. -/
def rising : List Nat → Bool
  | [] => true
  | [_] => true
  | a :: b :: l => decide (a ≤ b) && rising (b :: l)

def tableValid (image : List Nat) : Bool :=
  image.all (fun w => decide (w < 2 ^ 19)) &&
  (image.take 128).all (fun w => w / 2 ^ 18 % 2 == 0) &&
  (image.drop 128).all (fun w => w / 2 ^ 18 % 2 == 1) &&
  rising ((image.take 128).map (fun w => w % 2 ^ 18)) &&
  rising ((image.drop 128).map (fun w => w % 2 ^ 18))

/-! ## T8B (R72, R73) -/

/-- The exact value of a T8B element: a NaN under scale 255. -/
def t8bNum (t : List (BitVec 19)) (c sc : Nat) : Num :=
  if sc = 255 then .nan canonNan else (f32Num (decodeT8 t c)).scale ((sc : Int) - 127)

/-- DecodeT8B (R72). -/
def decodeT8B (t : List (BitVec 19)) (c sc : Nat) : Lane :=
  if sc = 255 then canonNan
  else match f32Num (decodeT8 t c) with
    | .fin s m e => toF32 .rn (.fin s m (e + ((sc : Int) - 127)))
    | _ => decodeT8 t c

/-- floor(log2) of a finite nonzero value. -/
def floorLog (m : Nat) (e : Int) : Int := (Nat.log2 m : Int) + e

/-- EMAX (R73). -/
def t8Emax (t : List (BitVec 19)) : Int :=
  match maxOf (((t8Half t false).filter (fun q => decide (q.2 < magInf) && q.2 != 0)).map (fun q => q.2)) with
  | none => 0
  | some g => let v := magValue g; floorLog v.1 v.2

/-- floor(log2(AMAX)), if AMAX is not 0 (R73). -/
def blockLog : List Num → Option Int
  | [] => none
  | .fin _ m e :: xs =>
    if m = 0 then blockLog xs
    else match blockLog xs with
      | none => some (floorLog m e)
      | some l => some (max l (floorLog m e))
  | _ :: xs => blockLog xs

/-- EncodeT8B (R73): the codes and the scale. -/
def encodeT8B (t : List (BitVec 19)) (mode : Round) (xs : List Num) : List Nat × Nat :=
  let sc : Int := match blockLog xs with
    | none => 127
    | some l => max 0 (min 254 (l - t8Emax t + 127))
  (xs.map (fun x => encodeT8 t mode (x.scale (127 - sc))), sc.toNat)

/-! ## Bank formats (R63 to R65, R74) -/

/-- FMT codes of R63. -/
def fmtF32 : Nat := 0
def fmtBF16 : Nat := 1
def fmtF16 : Nat := 2
def fmtT8 : Nat := 3
def fmtT8B : Nat := 4
def fmtI32 : Nat := 5
def fmtI8 : Nat := 6
def fmtN8 : Nat := 7

/-- The element width (R65). -/
def elemWidth (fmt : Nat) : Nat := if fmt = 0 ∨ fmt = 5 then 4 else if fmt = 1 ∨ fmt = 2 then 2 else 1
def intClass (fmt : Nat) : Bool := fmt == 5 || fmt == 6 || fmt == 7

/-- DecodeElem (R74) of an element's bits, with its block's scale in T8B. -/
def decodeElem (t : List (BitVec 19)) (fmt n sc : Nat) : Lane :=
  if fmt = 1 then widenBf16 n
  else if fmt = 2 then widenF16 n
  else if fmt = 3 then decodeT8 t n
  else if fmt = 4 then decodeT8B t n sc
  else if fmt = 6 then (BitVec.ofNat 8 n).signExtend 32
  else BitVec.ofNat 32 n

/-- The range of an integer class format (R58). -/
def intRange (fmt : Nat) : Int × Int :=
  if fmt = 6 then (-128, 127) else if fmt = 7 then (0, 255) else (-(2 ^ 31), 2 ^ 31 - 1)

/-- A value into a float class format other than T8B. -/
def encodeFloat (t : List (BitVec 19)) (fmt : Nat) (mode : Round) (x : Num) : Nat :=
  if fmt = 1 then roundFloat bf16 mode x
  else if fmt = 2 then roundFloat f16 mode x
  else if fmt = 3 then encodeT8 t mode x
  else roundFloat f32 mode x

/-- An integer into an integer class format: saturated, as its bits. -/
def encodeInt (fmt : Nat) (n : Int) : Nat :=
  let r := intRange fmt
  (BitVec.ofInt (8 * elemWidth fmt) (saturateInt r.1 r.2 n)).toNat

/-- RoundToBank (R74), but for T8B. -/
def roundToBank (t : List (BitVec 19)) (fmt : Nat) (mode : Round) (b : Lane) : Nat :=
  if intClass fmt then encodeInt fmt b.toInt
  else encodeFloat t fmt mode (f32Num b)

/-- The exact value of an element of a float class format (R74). -/
def elemNum (t : List (BitVec 19)) (fmt n sc : Nat) : Num :=
  if fmt = 4 then t8bNum t n sc else f32Num (decodeElem t fmt n sc)

/-- ConvertElem (R74), but for a T8B destination. -/
def convertElem (t : List (BitVec 19)) (src dst : Nat) (mode : Round) (n sc : Nat) : Nat :=
  if intClass src then
    let i := (decodeElem t src n sc).toInt
    if intClass dst then encodeInt dst i else encodeFloat t dst mode (ofInt i)
  else
    let x := elemNum t src n sc
    if intClass dst then
      let r := intRange dst
      (BitVec.ofInt (8 * elemWidth dst) (convertToInt r.1 r.2 mode x)).toNat
    else encodeFloat t dst mode x

/-- The exact value of an element of any format, for an encoding that takes four at once. -/
def anyNum (t : List (BitVec 19)) (src n sc : Nat) : Num :=
  if intClass src then ofInt (decodeElem t src n sc).toInt else elemNum t src n sc

/-! ## F32 arithmetic (R141) -/

/-- The first NaN among the operands, quieted. -/
def firstNan : List Lane → Option Lane
  | [] => none
  | b :: bs => if isNan b then some (quiet b) else firstNan bs

/-- The exact sum of two values, neither a NaN; none is an invalid operation. -/
def addNum (mode : Round) (x y : Num) : Option Num :=
  match x, y with
  | .inf a, .inf b => if a = b then some (.inf a) else none
  | .inf a, _ => some (.inf a)
  | _, .inf b => some (.inf b)
  | .fin s1 m1 e1, .fin s2 m2 e2 =>
    let q := alignMag m1 e1 m2 e2
    let i : Int := (if s1 then -(q.1 : Int) else q.1) + (if s2 then -(q.2.1 : Int) else q.2.1)
    if i = 0 then
      (if m1 = 0 ∧ m2 = 0 ∧ s1 = s2 then some (.fin s1 0 0) else some (.fin (mode == .rd) 0 0))
    else some (.fin (decide (i < 0)) i.natAbs q.2.2)
  | _, _ => none

/-- The exact product. -/
def mulNum (x y : Num) : Option Num :=
  match x, y with
  | .inf a, .inf b => some (.inf (a != b))
  | .inf a, .fin s m _ => if m = 0 then none else some (.inf (a != s))
  | .fin s m _, .inf a => if m = 0 then none else some (.inf (a != s))
  | .fin s1 m1 e1, .fin s2 m2 e2 => some (.fin (s1 != s2) (m1 * m2) (e1 + e2))
  | _, _ => none

def roundOpt (mode : Round) : Option Num → Lane
  | some x => toF32 mode x
  | none => canonNan

def Num.flip : Num → Num
  | .nan b => .nan b
  | .inf s => .inf (!s)
  | .fin s m e => .fin (!s) m e

def fadd (mode : Round) (a b : Lane) : Lane :=
  match firstNan [a, b] with
  | some n => n
  | none => roundOpt mode (addNum mode (f32Num a) (f32Num b))

def fsub (mode : Round) (a b : Lane) : Lane :=
  match firstNan [a, b] with
  | some n => n
  | none => roundOpt mode (addNum mode (f32Num a) (f32Num b).flip)

def fmul (mode : Round) (a b : Lane) : Lane :=
  match firstNan [a, b] with
  | some n => n
  | none => roundOpt mode (mulNum (f32Num a) (f32Num b))

/-- d + s × x, or d − s × x, with one rounding (R142). -/
def ffma (mode : Round) (sub : Bool) (d a x : Lane) : Lane :=
  match firstNan [d, a, x] with
  | some n => n
  | none =>
    match mulNum (f32Num a) (f32Num x) with
    | none => canonNan
    | some q => roundOpt mode (addNum mode (f32Num d) (if sub then q.flip else q))

/-- m1 / m2 × 2^e as a value with 64 quotient bits at least and a last bit that is 1 when anything was cut off. -/
def quotient (s : Bool) (m1 m2 : Nat) (e : Int) : Num :=
  let k := 64 + Nat.log2 m2
  let q := m1 * 2 ^ k / m2
  .fin s (2 * q + bit (m1 * 2 ^ k % m2 != 0)) (e - k - 1)

/-- x / y (R141). -/
def fdiv (mode : Round) (a b : Lane) : Lane :=
  match firstNan [a, b] with
  | some n => n
  | none =>
    match f32Num a, f32Num b with
    | .inf _, .inf _ => canonNan
    | .inf s, .fin t _ _ => toF32 mode (.inf (s != t))
    | .fin s _ _, .inf t => toF32 mode (.fin (s != t) 0 0)
    | .fin s m e, .fin t n f =>
      if m = 0 ∧ n = 0 then canonNan
      else if n = 0 then toF32 mode (.inf (s != t))
      else if m = 0 then toF32 mode (.fin (s != t) 0 0)
      else toF32 mode (quotient (s != t) m n (e - f))
    | _, _ => canonNan

/-- The order key of a lane that is no NaN: −0 below +0 (R143). -/
def orderKey (b : Lane) : Int := if b.msb then -1 - ((b.toNat % 2 ^ 31 : Nat) : Int) else (b.toNat : Int)

def fmin (a b : Lane) : Lane :=
  if isNan a && isNan b then quiet a
  else if isNan a then b
  else if isNan b then a
  else if orderKey b < orderKey a then b else a

def fmax (a b : Lane) : Lane :=
  if isNan a && isNan b then quiet a
  else if isNan a then b
  else if isNan b then a
  else if orderKey a < orderKey b then b else a

/-- The value order with +0 = −0 (R145). -/
def valueKey (b : Lane) : Int := if b.msb then -((b.toNat % 2 ^ 31 : Nat) : Int) else (b.toNat : Int)
def feq (a b : Lane) : Bool := !isNan a && !isNan b && valueKey a == valueKey b
def flt (a b : Lane) : Bool := !isNan a && !isNan b && decide (valueKey a < valueKey b)
def fle (a b : Lane) : Bool := !isNan a && !isNan b && decide (valueKey a ≤ valueKey b)
def fun_ (a b : Lane) : Bool := isNan a || isNan b

/-! ## Roundings to integral values (R150) -/

def frnd (mode : Round) (b : Lane) : Lane :=
  match f32Num b with
  | .nan x => quiet x
  | .inf _ => b
  | .fin s m e => toF32 .rn (.fin s (roundSteps mode s m e 0) 0)

/-! ## Elementary functions (R151) -/

/-- The integer square root of n, whose root has at most k bits; r holds the bits found. -/
def isqrtLoop (n : Nat) : Nat → Nat → Nat
  | 0, r => r
  | k + 1, r => if (r + 2 ^ k) * (r + 2 ^ k) ≤ n then isqrtLoop n k (r + 2 ^ k) else isqrtLoop n k r

def isqrt (n : Nat) : Nat := isqrtLoop n (Nat.log2 n / 2 + 1) 0

/-- The last bit appended that says something was cut off. -/
def sticky (q : Nat) (inexact : Bool) : Nat := 2 * q + bit inexact

/-- √(m × 2^e) for m ≠ 0, exact or with a last bit of 1. -/
def sqrtNum (m : Nat) (e : Int) : Num :=
  let odd := e % 2 = 1
  let m' := (if odd then 2 * m else m) * 2 ^ 64
  let e' := (if odd then e - 1 else e) - 64
  let r := isqrt m'
  .fin false (sticky r (r * r != m')) (e' / 2 - 1)

def fsqrt (mode : Round) (b : Lane) : Lane :=
  match f32Num b with
  | .nan x => quiet x
  | .inf s => if s then canonNan else b
  | .fin s m e => if m = 0 then b else if s then canonNan else toF32 mode (sqrtNum m e)

def frcp (b : Lane) : Lane :=
  match f32Num b with
  | .nan x => quiet x
  | .inf s => toF32 .rn (.fin s 0 0)
  | .fin s m e => if m = 0 then toF32 .rn (.inf s) else toF32 .rn (quotient s 1 m (-e))

/-- 1 / √(m × 2^e) for m ≠ 0. -/
def rsqNum (m : Nat) (e : Int) : Num :=
  let odd := e % 2 = 1
  let m' := if odd then 2 * m else m
  let e' := if odd then e - 1 else e
  let r := isqrt (2 ^ 160 / m')
  .fin false (sticky r (r * r * m' != 2 ^ 160)) (-(e' / 2) - 81)

def frsq (b : Lane) : Lane :=
  match f32Num b with
  | .nan x => quiet x
  | .inf s => if s then canonNan else toF32 .rn (.fin false 0 0)
  | .fin s m e => if m = 0 then toF32 .rn (.inf s) else if s then canonNan else toF32 .rn (rsqNum m e)

/-- Fixed point with 256 fraction bits. -/
def fixOne : Nat := 2 ^ 256
/-- floor(ln 2 × 2^256). -/
def fixLn2 : Nat := 80260960185991308862233904206310070533990667611589946606122867505419956976171

/-- The sum of y^k / k! from term k on, in fixed point. -/
def expSeries (y : Nat) : Nat → Nat → Nat → Nat
  | 0, _, _ => 0
  | fuel + 1, k, term => term + expSeries y fuel (k + 1) (term * y / fixOne / (k + 1))

/-- 2^x for x = n + f with f a fraction of 256 bits that is not 0: the value's bits and a last bit of 1. -/
def exp2Num (n : Int) (f : Nat) : Num :=
  .fin false (sticky (expSeries (f * fixLn2 / fixOne) 70 0 fixOne) true) (n - 257)

/-- 2^x (R151). DEDUCED, log 65. -/
def fexp2 (b : Lane) : Lane :=
  match f32Num b with
  | .nan x => quiet x
  | .inf s => if s then 0 else b
  | .fin s m e =>
    if m = 0 then 0x3F800000
    else if !s && !magLt m e 128 0 then toF32 .rn (.inf false)
    else if s && !magLt m e 150 0 then 0
    else
      -- x × 2^256 exactly
      let i : Int := (if s then -1 else 1) * ((m * pow2 (e + 256) : Nat) : Int)
      let n := i / (fixOne : Int)
      let f := (i % (fixOne : Int)).toNat
      if f = 0 then toF32 .rn (.fin false 1 n) else toF32 .rn (exp2Num n f)

/-- The sum of z^(2k+1) / (2k+1) from term k on, in fixed point; zz is z². -/
def atanhSeries (zz : Nat) : Nat → Nat → Nat → Nat
  | 0, _, _ => 0
  | fuel + 1, k, pw => pw / (2 * k + 1) + atanhSeries zz fuel (k + 1) (pw * zz / fixOne)

/-- log2 of m / 2^t for 2^t < m < 2^(t+1), in fixed point. -/
def log2Fraction (m t : Nat) : Nat :=
  let z := (m - 2 ^ t) * fixOne / (m + 2 ^ t)
  2 * atanhSeries (z * z / fixOne) 90 0 z * fixOne / fixLn2

/-- The binary logarithm (R151). DEDUCED, log 65. -/
def flog2 (b : Lane) : Lane :=
  match f32Num b with
  | .nan x => quiet x
  | .inf s => if s then canonNan else b
  | .fin s m e =>
    if m = 0 then toF32 .rn (.inf true)
    else if s then canonNan
    else
      let t := Nat.log2 m
      let n : Int := (t : Int) + e
      if m = 2 ^ t then toF32 .rn (ofInt n)
      else
        let i : Int := n * (fixOne : Int) + (log2Fraction m t : Int)
        toF32 .rn (.fin (decide (i < 0)) (sticky i.natAbs true) (-257))

end Sys2Proof.Machine
end

