-- ==== Sys2Proof/Machine/Space.lean ====
section
/-! DEFINITION. Machine/Space.lean: units by number (R15), the address map (R118), and the bytes, tags, check words
and memory keys of every array (R111, R365, R379).

One list holds every memory. A byte's key is its kind × 2^64 plus its place: kind 0 device HBM by physical address,
1 host memory by physical address, 2 a context's scratchpad image on a tile, 3 cluster memory, 4 weight store, 5 the
anchor granules of capsules (R308), 6 the block that holds QDONE and QNOW (R339). -/

namespace Sys2Proof.Machine

/-! ## Unit numbers (R14, R15) -/

def dieOf (n : Nat) : Nat := n / 256
def rowOf (n : Nat) : Nat := n / 16 % 16
def colOf (n : Nat) : Nat := n % 16
/-- The package quadrant, which is the partition number (R15). -/
def quadOf (n : Nat) : Nat := dieOf n * 4 + rowOf n / 8 * 2 + colOf n / 8
/-- The package cluster (R15). -/
def clusterOf (n : Nat) : Nat := dieOf n * 32 + rowOf n / 2 * 4 + colOf n / 4
/-- The tile within its cluster (R15). -/
def clusterIdx (n : Nat) : Nat := rowOf n % 2 * 4 + colOf n % 4
/-- The tile's index within its partition (R162). -/
def partIdx (n : Nat) : Nat := rowOf n % 8 * 8 + colOf n % 8
/-- Tile j of a package cluster (R15). -/
def clusterTile (k j : Nat) : Nat :=
  k / 32 * 256 + (k % 32 / 4 * 2 + j / 4) * 16 + k % 4 * 4 + j % 4
/-- The eight tiles of a cluster in order. -/
def clusterTiles (k : Nat) : List Nat := (List.range 8).map (clusterTile k)
/-- Tile with index P of a partition (R162). -/
def partTile (p i : Nat) : Nat :=
  p / 4 * 256 + (p % 4 / 2 * 8 + i / 8) * 16 + p % 2 * 8 + i % 8
/-- The partition of a cluster (R15). -/
def clusterPart (k : Nat) : Nat := quadOf (clusterTile k 0)

/-- A number that names a tile the part offers (R15, R391). -/
def State.tileExists (s : State) (n : Nat) : Bool := decide (dieOf n < 10) && !Keys.mem s.absent n

/-- The tiles of a partition that the part offers. -/
def State.partTiles (s : State) (p : Nat) : List Nat :=
  ((List.range 64).map (partTile p)).filter s.tileExists

/-- A context is resident on a tile (R25). -/
def State.resident (s : State) (n c : Nat) : Bool := (Map.get? (s.tile n).ctxs c).isSome

/-- A context's scratchpad image is in place on a tile: it is loaded there (R120, R279). -/
def State.imageAt (s : State) (n c : Nat) : Bool := (s.tile n).loaded == some c && s.resident n c

/-- The base of the code region (R308). -/
def codeBase : Nat := 0xF000 * 2 ^ 32

/-! ## Keys -/

def keyHost (p : Nat) : Nat := 2 ^ 64 + p
def keyScratch (c n off : Nat) : Nat := 2 * 2 ^ 64 + (c * 4096 + n) * 2 ^ 18 + off
def keyCmem (k off : Nat) : Nat := 3 * 2 ^ 64 + k * 2 ^ 22 + off
def keyWs (q off : Nat) : Nat := 4 * 2 ^ 64 + q * 2 ^ 28 + off
def keyAnchor (n : Nat) : Nat := 5 * 2 ^ 64 + n * 16
def keyKind (a : Nat) : Nat := a / 2 ^ 64

/-- The words of the other arrays that a check code covers (R377), named so that their errors have a place: a register of a
set (s, c and k, and each lane of a v register), a 32-bit word of a context's matrix state (array 0 the active plane, 1 the
shadow plane, 2 acc, 3 the plane and 5 the rows that have arrived, 4 the staging slots) or of its Cirrus state, a counter or
barrier or the rounds of a cluster unit, 64 bits of a message of an entry's queue or of a slot of a copy FIFO, a granule of a
firing's task lines, and one of HBM's in L2 or in a tile's L1; then the translation buffer of a tile, the edge copy engines
of a die and its network, whose errors are records only. DESIGN CHOICE, log 86. -/
def keyReg (n set i : Nat) : Nat := 8 * 2 ^ 64 + (n * 4 + set) * 65536 + i * 16
def keyMtx (n c i e : Nat) : Nat := 9 * 2 ^ 64 + (((n * 4096 + c) * 8 + i) * 4096 + e) * 16
def keyUnit (k i : Nat) : Nat := 10 * 2 ^ 64 + (k * 512 + i) * 16
def keyCirrus (n c e : Nat) : Nat := 11 * 2 ^ 64 + ((n * 4096 + c) * 65536 + e) * 16
def keyInbox (n c tag j w : Nat) : Nat := 12 * 2 ^ 64 + ((((n * 4096 + c) * 4096 + tag) * 256 + j) * 8 + w) * 16
def keyFifo (n i w : Nat) : Nat := 13 * 2 ^ 64 + ((n * 8 + i) * 16 + w) * 16
def keyL2 (pa : Nat) : Nat := 14 * 2 ^ 64 + pa
def keyL1 (n pa : Nat) : Nat := 15 * 2 ^ 64 + n * 2 ^ 41 + pa
def keyTlb (n : Nat) : Nat := 16 * 2 ^ 64 + n * 16
def keyEdge (d : Nat) : Nat := 17 * 2 ^ 64 + d * 16
def keyNet (d : Nat) : Nat := 18 * 2 ^ 64 + d * 16
def keyTask (n serial va : Nat) : Nat := (2 ^ 20 + serial * 4096 + n) * 2 ^ 64 + va

/-- The bytes of HBM that each partition owns: 24 GiB, laid out in partition order. DESIGN CHOICE, log 7. -/
def quadBytes : Nat := 24 * 2 ^ 30

/-- The frame of a partition's HBM in which its tenant finds the quiescence counter (R339): the last one.
DESIGN CHOICE, log 32. -/
def isQuiescence (pa : Nat) : Bool := decide (pa < 40 * quadBytes) && decide (quadBytes - 65536 ≤ pa % quadBytes)

/-- The key of an HBM byte by its physical address. -/
def keyHbm (pa : Nat) : Nat := if isQuiescence pa then 6 * 2 ^ 64 + pa % 65536 else pa

/-- The bytes of a save area (R280). -/
def saveAreaSize : Nat := 0x74000

/-- Arrays that keep tags: HBM, scratchpad and cluster memory (R111). -/
def keepsTags (a : Nat) : Bool := keyKind a == 0 || keyKind a == 2 || keyKind a == 3

/-- The first key of the check word that holds a byte (R377): an HBM line, 32 bytes of weight store, a granule. -/
def codeWord (a : Nat) : Nat :=
  match keyKind a with
  | 0 => a - a % 64
  | 4 => a - a % 32
  | _ => a - a % 16

def codeWordSize (a : Nat) : Nat :=
  match keyKind a with
  | 0 => 64
  | 4 => 32
  | _ => 16

/-- The byte of memory that a word stands for: a word of a cache stands for HBM's. -/
def memPlace (w : Nat) : Nat :=
  match keyKind w with
  | 14 => w % 2 ^ 64
  | 15 => w % 2 ^ 41
  | _ => w

/-! ## Bytes -/

/-- Multiples of a step from a's own block up to the block of the last of n bytes. -/
def blocksOf (step a n : Nat) : List Nat :=
  if n = 0 then []
  else (List.range ((a + n - 1) / step - a / step + 1)).map (fun i => (a / step + i) * step)

/-- The number that stands for the ephemeral key among the memory keys (R365, R366): a line that nothing has written
since bring-up or a scrub holds its zeroes under it (R361, R393). -/
def deviceKey : Nat := 2 ^ 16

/-- A memory key of a supervisor's context. -/
def State.pagerKey (s : State) (key : Nat) : Bool :=
  s.contexts.any (fun q => q.2.info.keyId == key && q.2.info.priv == .supervisor)

/-- The memory key of a line is another than the reader's (R365). Partition services hand a frame to a pager with zeroes
(R327): here a line that nothing has written since its scrub reads so for it. DESIGN CHOICE, log 91. -/
def State.otherKey (s : State) (key a : Nat) : Bool :=
  let k := Map.get s.lineKeys (a / 64) deviceKey
  (keyKind a == 0 || keyKind a == 4) && k != key && !(k == deviceKey && s.pagerKey key)

/-- A byte of the quiescence counter (R339): QNOW in bits 63:0 and QDONE in bits 127:64, zero after them. -/
def State.quiescenceByte (s : State) (o : Nat) : Byte :=
  (toBytes 16 (s.qnow % 2 ^ 64 + s.qdone % 2 ^ 64 * 2 ^ 64)).getD o 0

/-- One byte as a reader with a memory key gets it (R339, R365). DESIGN CHOICE, log 6. -/
def State.readByte (s : State) (key a : Nat) : Byte :=
  if keyKind a = 6 then s.quiescenceByte (a % 65536)
  else
    let b := Memory.read s.mem a
    if s.otherKey key a then Config.otherKeyByte a b else b

/-- Successive bytes as a reader with a memory key gets them. DESIGN CHOICE, log 19. -/
def State.readBytes (s : State) (key a : Nat) : Nat → List Byte
  | 0 => []
  | n + 1 => s.readByte key a :: s.readBytes key (a + 1) n

/-- A line about to be written under a key it does not have: its bytes become what the writer reads of them, and its
granules have no tag (R94). -/
def State.rekeyLine (s : State) (key line : Nat) : State :=
  let s1 := if s.otherKey key (line * 64) then
      let s0 := s.setMem (Memory.writeBytes s.mem (line * 64) (s.readBytes key (line * 64) 64))
      { s0 with tags := s0.tags.filter (fun g => g / 64 != line) }
    else s
  { s1 with lineKeys := Map.set s1.lineKeys line key }

/-- Every line of a write under a memory key. -/
def State.rekey (s : State) (key a n : Nat) : State :=
  if keyKind a = 0 ∨ keyKind a = 4 then (blocksOf 64 a n).foldl (fun s l => s.rekeyLine key (l / 64)) s else s

/-- Poisoned words of which a test holds are overwritten whole: they are poisoned no more, and each is owed its record
(R379). -/
def State.cleanse (s : State) (p : Nat → Bool) : State :=
  if s.poison.isEmpty then s
  else { s with poison := s.poison.filter (fun w => !p w), wiped := (s.poison.filter p).foldl Keys.insert s.wiped }

/-- The runs of one write, as key and length, cover a check word together. -/
def coversWord (runs : List (Nat × Nat)) (w : Nat) : Bool :=
  let a := memPlace w
  (List.range (codeWordSize w)).all (fun i => runs.any (fun r => decide (r.1 ≤ a + i) && decide (a + i < r.1 + r.2)))

/-- A write of several runs replaces whole the check words that they cover together (R379). -/
def State.cleanseRuns (s : State) (runs : List (Nat × Nat)) : State := s.cleanse (coversWord runs)

/-- Bytes stored where they lie (R111, R379): every granule they touch loses its tag, and a check word that is replaced
whole is no longer poisoned. -/
def State.putBytes (s : State) (a : Nat) (bs : List Byte) : State :=
  let n := bs.length
  let tags := if s.tags.isEmpty then [] else (blocksOf 16 a n).foldl Keys.remove s.tags
  let s1 := s.cleanse (fun w => decide (a ≤ memPlace w) && decide (memPlace w + codeWordSize w ≤ a + n))
  { s1 with mem := Memory.writeBytes s.mem a bs, tags := tags }

/-- A data write under a memory key; writes to the quiescence counter are ignored (R339). -/
def State.writeBytes (s : State) (key a : Nat) (bs : List Byte) : State :=
  if keyKind a = 6 then s else (s.rekey key a bs.length).putBytes a bs

/-- A write of a whole granule with its tag (R110, R111). -/
def State.writeCap (s : State) (key a : Nat) (x : Cap) : State :=
  let s1 := s.writeBytes key a (toBytes 16 x.bits.toNat)
  if x.tag && keepsTags a then { s1 with tags := Keys.insert s1.tags a } else s1

/-- A granule's tag (R111). -/
def State.tagAt (s : State) (a : Nat) : Bool := keepsTags a && Keys.mem s.tags (a - a % 16)

/-- A granule's tag as a reader with a memory key gets it: bytes written under another key hold no capability of his
(R94, R96, R365). DEDUCED, log 6. -/
def State.tagFor (s : State) (key a : Nat) : Bool := !s.otherKey key a && s.tagAt a

/-- The lowest poisoned byte key among n bytes, if any is (R379): in their own array, or of HBM in L2, which everything that
reads HBM goes through. -/
def State.poisoned (s : State) (a n : Nat) : Option Nat :=
  let base (w : Nat) : Nat := if keyKind w = 14 then memPlace w else w
  match (s.poison.filter (fun w => decide (0 < n) && decide (base w < a + n) && decide (a < base w + codeWordSize w))).map (fun w => max a (base w)) with
  | [] => none
  | w :: ws => some (ws.foldl min w)

/-- Every byte of a range of keys back to zero, with its tags, poison and memory keys (R361). -/
def State.clearKeys (s : State) (lo n : Nat) : State :=
  let inside (a : Nat) : Bool := decide (lo ≤ a) && decide (a < lo + n)
  let s1 := s.cleanse (fun w => inside (memPlace w))
  { s1 with mem := s.mem.filter (fun q => !inside q.1), tags := s.tags.filter (fun a => !inside a)
            painted := s.painted.filter (fun a => !inside a), covers := s.covers.filter (fun q => !inside q.1)
            lineKeys := s.lineKeys.filter (fun q => !inside (q.1 * 64)) }

/-! ## The address map (R118) -/

def loc : Nat := 0xFFF0 * 2 ^ 48

/-- The ranges of R118; each is one space for the rule on accesses that cross. -/
inductive Space where
  | global
  | scratch (tile : Nat)
  | remote (tile : Nat)
  | inbox
  | window
  | cmem
  | wstore
  | void
  deriving DecidableEq, Repr

/-- The space an address lies in for a tile, and its offset there (R118). The cluster window of the tile itself is a
second range of its own scratchpad (R120). -/
def spaceOf (tile a : Nat) : Space × Nat :=
  if a < 2 ^ 48 then (.global, a)
  else if a < loc then (.void, 0)
  else
    let o := a - loc
    if o < 0x40000 then (.scratch tile, o)
    else if 0x80000 ≤ o ∧ o < 0x90000 then (.inbox, o - 0x80000)
    else if 0x90000 ≤ o ∧ o < 0x91000 then (.window, o - 0x90000)
    else if 0x100000 ≤ o ∧ o < 0x300000 then
      (.remote (clusterTile (clusterOf tile) ((o - 0x100000) / 0x40000)), (o - 0x100000) % 0x40000)
    else if 0x400000 ≤ o ∧ o < 0x800000 then (.cmem, o - 0x400000)
    else if 0x10000000 ≤ o ∧ o < 0x20000000 then (.wstore, o - 0x10000000)
    else (.void, 0)

/-- The size of a space, for the test that an access stays inside it. -/
def spaceSize : Space → Nat
  | .global => 2 ^ 48
  | .scratch _ => 0x40000
  | .remote _ => 0x40000
  | .inbox => 0x10000
  | .window => 0x1000
  | .cmem => 0x400000
  | .wstore => 0x10000000
  | .void => 0

/-- The tile whose scratchpad a space is, if it is one. -/
def Space.scratchTile : Space → Option Nat
  | .scratch t => some t
  | .remote t => some t
  | _ => none

/-- A remote space names another tile (R120). -/
def Space.isRemote (tile : Nat) : Space → Bool
  | .remote t => t != tile
  | _ => false

/-- The key of a byte of a local space, for a context on a tile (R119, R120). -/
def localKey (tile ctx : Nat) : Space → Nat → Nat
  | .scratch t, o => keyScratch ctx t o
  | .remote t, o => keyScratch ctx t o
  | .cmem, o => keyCmem (clusterOf tile) o
  | .wstore, o => keyWs (quadOf tile) o
  | _, o => o

end Sys2Proof.Machine
end

