-- ==== Sys2Proof/Machine/Updates.lean ====
section
/-! DEFINITION. Machine/Updates.lean: the arithmetic of atomics (R210, R211) and the update-only lines of `am.upd`
(R212). A held update is the key of its word, its function, the memory key of its context, and its value. -/

namespace Sys2Proof.Machine

/-! ## Arithmetic (R210 to R212) -/

/-- Functions 0 to 5 of R212, in the order of its table. -/
def updateFn (fn : Nat) (w x : Word) : Word :=
  match fn with
  | 0 => w + x
  | 1 => w ||| x
  | 2 => w &&& x
  | 3 => w ^^^ x
  | 4 => if x.slt w then x else w
  | _ => if w.slt x then x else w

/-- CanonicaliseNaN of a float class format (R211, R62). -/
def canonOf (fmt : Nat) : Nat := if fmt = fmtBF16 then 0x7FC0 else if fmt = fmtF16 then 0x7E00 else 0x7FC00000

/-- The new element of `am.fadd` from the bits of the old one (R211). -/
def faddElem (fmt old : Nat) (x : Lane) : Nat :=
  let o := decodeElem [] fmt old 0
  if isNan o || isNan x then canonOf fmt
  else
    match addNum .rn (f32Num o) (f32Num x) with
    | none => canonOf fmt
    | some y => encodeFloat [] fmt .rn y

/-- The width of an update's word (R212). -/
def updateWidth (fn : Nat) : Nat := if fn = 6 then 4 else 8

/-- A word after an update. -/
def applyUpdate (fn old : Nat) (x : Word) : Nat :=
  if fn = 6 then faddElem fmtF32 old (x.extractLsb' 0 32) else (updateFn fn (BitVec.ofNat 64 old) x).toNat

/-! ## Merging (R212) -/

/-- One held update merges at its home: one indivisible read and write of its word. -/
def State.mergeOne (s : State) (u : Nat × Nat × Nat × Word) : State :=
  let w := updateWidth u.2.1
  s.writeBytes u.2.2.1 u.1 (toBytes w (applyUpdate u.2.1 (ofBytes (s.readBytes u.2.2.1 u.1 w)) u.2.2.2))

/-- The held updates of one tile that lie in a line, or all of them. -/
def inLine (line : Option Nat) (u : Nat × Nat × Nat × Word) : Bool :=
  match line with
  | some l => u.1 / 64 == l
  | none => true

/-- The held updates of one tile merge, for a line or for all. -/
def State.mergeTile (s : State) (n : Nat) (line : Option Nat) : State :=
  let t := s.tile n
  let go := t.updates.filter (inLine line)
  if go.isEmpty then s
  else go.foldl State.mergeOne (s.setTile n { t with updates := t.updates.filter (fun u => !inLine line u) })

/-- Tiles that hold updates. -/
def State.updaters (s : State) : List Nat := (s.tiles.filter (fun q => !q.2.updates.isEmpty)).map (fun q => q.1)

/-- The held updates of every tile to the lines of ranges of keys merge, before any other access there.
DEDUCED, log 37. -/
def State.mergeRanges (s : State) (rs : List (Nat × Nat)) : State :=
  let ts := s.updaters
  if ts.isEmpty then s
  else (rs.flatMap (fun r => blocksOf 64 r.1 r.2)).foldl (fun s a =>
    ts.foldl (fun s n => s.mergeTile n (some (a / 64))) s) s

/-- A held update changes a byte of the word that a new one does. -/
def meetsUpdate (key fn : Nat) (u : Nat × Nat × Nat × Word) : Bool :=
  decide (u.1 < key + updateWidth fn) && decide (key < u.1 + updateWidth u.2.1)

/-- The updates of one tile that a test names merge. -/
def State.mergeSome (s : State) (n : Nat) (p : Nat × Nat × Nat × Word → Bool) : State :=
  let t := s.tile n
  (t.updates.filter p).foldl State.mergeOne (s.setTile n { t with updates := t.updates.filter (fun u => !p u) })

/-- Every held update of every tile merges. -/
def State.mergeAll (s : State) : State := s.updaters.foldl (fun s n => s.mergeTile n none) s

/-- A new update joins one to the same word by the same function; a different function first merges the old one. Other words
of the line are as they were. -/
def State.holdUpdate (s : State) (n key fn kid : Nat) (x : Word) : State :=
  let same := (s.tile n).updates.find? (fun u => u.1 == key && u.2.1 == fn && u.2.2.1 == kid)
  match same with
  | some u =>
    let y := if fn = 6 then (fadd .rn (u.2.2.2.extractLsb' 0 32) (x.extractLsb' 0 32)).zeroExtend 64
      else updateFn fn u.2.2.2 x
    s.setTile n { s.tile n with updates := (s.tile n).updates.map (fun v => if v = u then (key, fn, kid, y) else v) }
  | none =>
    let s1 := if (s.tile n).updates.any (meetsUpdate key fn) then s.mergeSome n (meetsUpdate key fn) else s
    s1.setTile n { s1.tile n with updates := (s1.tile n).updates ++ [(key, fn, kid, x)] }

end Sys2Proof.Machine
end

