-- ==== Sys2Proof/Machine/Translate.lean ====
section
/-! DEFINITION. Machine/Translate.lean: page tables and walks (R325 to R330), the revocation filter (R112), and the
errors that reach a firing by an address. -/

namespace Sys2Proof.Machine

/-! ## Walks -/

/-- The usable bytes of a partition's HBM: its CAP register's MIB (R21, R392), 24,192 MiB where bring-up wrote none. -/
def State.usable (s : State) (p : Nat) : Nat := Map.get s.caps p 24192 % 2 ^ 32 * 2 ^ 20

/-- An HBM frame lies in a quadrant that a tenant owns (R327): from its assignment until its release is over (R361). -/
def State.ownedFrame (s : State) (tenant pa : Nat) : Bool :=
  let p := pa / quadBytes
  let q := s.part p
  decide (p < 40) && !q.absent && q.owned && q.tenant == tenant

/-- An HBM page that a leaf may name: in a quadrant that the tenant owns, in its world, outside the carve-outs but for
the frame of the quiescence counter (R327, R339, R363). -/
def State.tenantFrame (s : State) (tenant : Nat) (world : Bool) (pa : Nat) : Bool :=
  let p := pa / quadBytes
  s.ownedFrame tenant pa && (s.part p).world == world &&
    (decide (pa % quadBytes + 65536 ≤ s.usable p) || isQuiescence pa)

/-- The fields of a table entry (R327). -/
def peV (e : Nat) : Bool := e.testBit 63
def peLeaf (e : Nat) : Bool := e.testBit 62
def peHost (e : Nat) : Bool := e.testBit 61
def peHeld (e : Nat) : Bool := e.testBit 60
def peCap (e : Nat) : Bool := e.testBit 59
def peBody (e : Nat) : Bool := e.testBit 58
def peRd (e : Nat) : Bool := e.testBit 57
def peWr (e : Nat) : Bool := e.testBit 56
def peSec (e : Nat) : Bool := e.testBit 55
def peFrame (e : Nat) : Nat := e / 2 ^ 16 % 2 ^ 36
def peReserved (e : Nat) : Bool := bitsOf e 52 3 != 0 || bitsOf e 0 16 != 0

/-- A table entry as it stands in memory once held updates to it have merged (R212): the walk reads it once, whole
(R328). -/
def State.tableEntry (s : State) (frame i : Nat) : Nat :=
  let a := frame * 65536 + 8 * i
  ofBytes (Memory.readBytes (s.mergeRanges [(a, 8)]).mem a 8)

/-- A non-leaf entry is malformed when any bit but V and FRAME is set, or FRAME lies outside the tenant's quadrants
(R327). -/
def State.badNonLeaf (s : State) (tenant e : Nat) : Bool :=
  peReserved e || bitsOf e 55 8 != 0 || !s.ownedFrame tenant (peFrame e * 65536)

/-- A leaf entry is malformed (R327); block marks a level-1 leaf. -/
def State.badLeaf (s : State) (tenant : Nat) (world : Bool) (block : Bool) (e : Nat) : Bool :=
  peReserved e || (block && bitsOf (peFrame e) 0 13 != 0) || peSec e != world || (peBody e && peHost e) ||
    (!peHost e && !s.tenantFrame tenant world (peFrame e * 65536))

/-- Where a walk ends before its leaf's own tests: no entry at a level, a malformed entry, or a leaf, of a block or of
a page (R328). -/
inductive Walk where
  | absent (level : Nat)
  | malformed
  | leaf (e : Nat) (pa : Nat) (block : Bool)
  deriving DecidableEq, Repr

/-- The walk of an address under a context's root (R326, R328): every page of the code region is a body page (R308),
and window slots are never mapped (R352). -/
def State.walk (s : State) (info : RegInfo) (va : Nat) : Walk :=
  if codeBase ≤ va then .leaf (2 ^ 63 + 2 ^ 58) 0 false
  else if 0xE000 * 2 ^ 32 ≤ va then .absent 0
  else
    let e0 := s.tableEntry info.root (va / 2 ^ 42 % 64)
    if !peV e0 then .absent 0
    else if peLeaf e0 || s.badNonLeaf info.tenant e0 then .malformed
    else
      let e1 := s.tableEntry (peFrame e0) (va / 2 ^ 29 % 8192)
      if !peV e1 then .absent 1
      else if peLeaf e1 then
        (if s.badLeaf info.tenant info.secure true e1 then .malformed
         else .leaf e1 (peFrame e1 * 65536 + va % 2 ^ 29) true)
      else if s.badNonLeaf info.tenant e1 then .malformed
      else
        let e2 := s.tableEntry (peFrame e1) (va / 2 ^ 16 % 8192)
        if !peV e2 then .absent 2
        else if s.badLeaf info.tenant info.secure false e2 then .malformed
        else .leaf e2 (peFrame e2 * 65536 + va % 65536) false

/-- What an access asks of a page (R328): a read, a write, an atomic, a store or carry of a tag. -/
inductive Want where
  | rd | wr | atomic | cap
  deriving DecidableEq, Repr

/-- The outcomes of R328 for one address: a key, a message to the pager with its cause and level, or a fault. The
cause of an outcome that a tile takes as a fault is kept for a copy's message. -/
inductive XRes where
  | ok (key : Nat) (entry : Nat)
  | pager (cause level : Nat)
  | fault (code : BitVec 16) (cause : Nat)
  deriving DecidableEq, Repr

/-- The tests on a leaf, in the order of R328. -/
def leafOutcome (e pa : Nat) (w : Want) : XRes :=
  if peBody e then .fault (if w = .rd then Code.cslBody else Code.xlPerm) 4
  else if peHost e && !peHeld e then .pager 2 0
  else if (w == .rd && !peRd e) || ((w == .wr || w == .cap) && !peWr e) ||
          (w == .atomic && !(peRd e && peWr e)) then .fault Code.xlPerm 4
  else if w == .cap && peHost e then .fault Code.capNotag 5
  else if w == .cap && !peCap e then .fault Code.xlCappg 5
  else .ok (if peHost e then keyHost pa else keyHbm pa) e

/-- A walk's outcome for an access (R328). -/
def walkOutcome (w : Want) : Walk → XRes
  | .absent l => .pager 1 l
  | .malformed => .fault Code.xlPage 3
  | .leaf e pa _ => leafOutcome e pa w

/-- A lease that is still live for a page under an address space (R329). -/
def State.lease? (s : State) (asid page : Nat) : Option Lease :=
  s.leases.find? (fun l => l.asid == asid && l.page == page && decide (s.clk < l.ends))

/-- The translation of one address (R328 to R330). A live lease whose entry allows the access and differs from a new
walk's gives the old outcome or the new one, as the device chooses; no failed walk is ever kept. -/
def State.translate (s : State) (info : RegInfo) (va : Nat) (w : Want) : XRes :=
  let fresh := walkOutcome w (s.walk info va)
  match s.lease? info.asid (va / 65536) with
  | none => fresh
  | some l =>
    let pa := if l.block then peFrame l.entry * 65536 + va % 2 ^ 29 else peFrame l.entry * 65536 + va % 65536
    match leafOutcome l.entry pa w with
    | .ok k e => if XRes.ok k e == fresh then fresh else if Config.freeNat (s.tick * 2 ^ 48 + va / 65536) % 2 = 0 then .ok k e else fresh
    | _ => fresh

/-- The lease of a successful translation (R329): 8,400 clk from its walk. -/
def State.addLease (s : State) (asid va e : Nat) (block : Bool) : State :=
  match s.lease? asid (va / 65536) with
  | some _ => s
  | none => { s with leases := { asid := asid, page := va / 65536, entry := e, block := block, ends := s.clk + 8400 } :: s.leases }

/-- The registration that a context number has; an unregistered number has an empty one. -/
def RegInfo.none : RegInfo :=
  { priv := .user, secure := false, tenant := 0, asid := 0, keyId := 0, root := 0, data := Cap.null, parts := []
    protect := false, handle := 0 }

def State.info (s : State) (c : Nat) : RegInfo :=
  match Map.get? s.contexts c with
  | some x => x.info
  | Option.none => RegInfo.none

/-- The fields of an EXP register (R352). -/
def expCtx (w : Word) : Nat := bitsOf w.toNat 48 12
def expBase (w : Word) : Nat := bitsOf w.toNat 16 32 * 65536
def expSize (w : Word) : Nat := (bitsOf w.toNat 0 16 + 1) * 65536

/-- The pieces of n bytes from va, each within one page (R118): address and length. -/
def pagePieces (va n : Nat) : List (Nat × Nat) :=
  if n = 0 then []
  else if va % 65536 + n ≤ 65536 then [(va, n)]
  else
    (blocksOf 65536 va n).map (fun b =>
      let lo := max va b
      (lo, min (va + n) (b + 65536) - lo))

/-- A piece of memory that an access reaches: virtual address, key, length, and whether its page may hold tags. -/
structure Piece where
  va  : Nat
  key : Nat
  n   : Nat
  tag : Bool
  deriving DecidableEq, Repr

/-- A frame of an open export holds a byte of HBM (R354). -/
def State.exported (s : State) (key : Nat) : Bool :=
  s.exps.any (fun q => q.2.getLsbD 63 && (pagePieces (expBase q.2) (expSize q.2)).any (fun r =>
    match s.walk (s.info (expCtx q.2)) r.1 with
    | .leaf e pa _ => !peHost e && pa / 65536 == key / 65536
    | _ => false))

/-- The translation of every piece, lowest first, or the first outcome that fails with its address (R331). -/
def State.translateAll (s : State) (info : RegInfo) (w : Want) : List (Nat × Nat) → Except (XRes × Nat) (List Piece)
  | [] => .ok []
  | (va, n) :: ps =>
    match s.translate info va w with
    | .ok key e =>
      match s.translateAll info w ps with
      | .ok l => .ok ({ va := va, key := key, n := n, tag := peCap e && !peHost e } :: l)
      | .error x => .error x
    | x => .error (x, va)

/-- The leases that successful translations grant or renew (R329). -/
def State.leaseAll (s : State) (info : RegInfo) (ps : List Piece) : State :=
  ps.foldl (fun s p =>
    match s.walk info p.va with
    | .leaf e _ block => s.addLease info.asid p.va e block
    | _ => s) s

/-! ## The revocation filter (R112) -/

/-- The granule key by which a capability base is painted: its HBM granule, or the anchor of a capsule's slot. -/
def State.baseGranule (s : State) (info : RegInfo) (c : Cap) : Option Nat :=
  if c.base < 2 ^ 48 then
    if codeBase ≤ c.base then some (keyAnchor ((c.base - codeBase) / 2 ^ 32))
    else match s.walk info c.base with
      | .leaf e pa _ => if peHost e then Option.none else some (pa - pa % 16)
      | _ => Option.none
  else Option.none

/-- The filter: a revoked capability loses its tag and keeps its bits (R112). -/
def State.filterCap (s : State) (ctx : Nat) (c : Cap) : Cap :=
  if !c.tag || s.painted.isEmpty then c
  else match s.baseGranule (s.info ctx) c with
    | some g => if Keys.mem s.painted g then c.withTag false else c
    | Option.none => c

/-- Every capability of a register set filtered (R112). -/
def State.filterRegs (s : State) (ctx : Nat) (r : RegSet) : RegSet :=
  if s.painted.isEmpty then r
  else { r with c := tabulate 16 (fun i => s.filterCap ctx (r.getC (BitVec.ofNat 4 i))), pcc := s.filterCap ctx r.pcc, epcc := s.filterCap ctx r.epcc }

end Sys2Proof.Machine
end

