-- ==== Sys2Proof/Machine/Ops.lean ====
section
/-! DEFINITION. Machine/Ops.lean: outstanding results (R50), the completion of a chain (R40, R50,
R89), the repeat (R90, R91), taking an exception and returning from one (R265, R266). -/

namespace Sys2Proof.Machine

/-! ## Outstanding results (R50) -/

def RegSet.apply (r : RegSet) : Result → RegSet
  | .s i w => r.setS i w
  | .c i x => r.setC i x
  | .v i m x => r.setLanes i m x
  | .k i w => r.setK i w
  | .table _ => r

def Result.isTable : Result → Bool
  | .table _ => true
  | _ => false

/-- Two results that return to one register. -/
def Result.sameDest : Result → Result → Bool
  | .s i _, .s j _ => i == j
  | .c i _, .c j _ => i == j
  | .v i _ _, .v j _ _ => i == j
  | .k i _, .k j _ => i == j
  | .table _, .table _ => true
  | _, _ => false

/-- The tables of a set that became pending before a stamp have had their effect. -/
def RegSet.passTables (r : RegSet) (stamp : Nat) : RegSet :=
  let l := r.pending.filter (fun q => !(q.res.isTable && decide (q.stamp < stamp)))
  { r with pending := l, parked := r.parked && !l.isEmpty }

/-- A decode table takes effect: the tables issued before it, by either set, have taken theirs (R71, R155). -/
def TileCtx.install (x : TileCtx) (t : List (BitVec 19)) (stamp : Nat) : TileCtx :=
  { x with table := t, normal := x.normal.passTables stamp, urgent := x.urgent.passTables stamp }

/-- One result returns: to its register, a capability through the revocation filter as the bitmap then stands (R112), or to
the decode table of the context on the tile (R71). -/
def State.applyResult (s : State) (q : Pending) : State :=
  match q.res with
  | .table t => s.setTctx (s.tctx.install t q.stamp)
  | .c i x => s.setReg (s.reg.setC i (s.filterCap s.ctxn x))
  | x => s.setReg (s.reg.apply x)

/-- The results of a list return, oldest first. -/
def State.applyAll (s : State) : List Pending → State
  | [] => s
  | q :: qs => (s.applyResult q).applyAll qs

/-- Wait until the pending set is empty (R50): every outstanding result has returned. -/
def State.drain (s : State) : State :=
  let s' := s.applyAll s.reg.pending
  s'.setReg { s'.reg with pending := [], parked := false }

/-- A result for s0 or c0, which are never pending (R50). -/
def Result.toZero : Result → Bool
  | .s i _ => i == 0
  | .c i _ => i == 0
  | _ => false

/-- A result becomes outstanding; one for s0 or c0 goes nowhere (R50). DESIGN CHOICE, log 17. -/
def State.pend (s : State) (x : Result) (banks : List Nat := []) : State :=
  if x.toZero then s else s.setReg { s.reg with pending := s.reg.pending ++ [{ res := x, banks := banks, stamp := s.tick }] }

/-! ## Program counter and loop ends (R79, R89, R308) -/

/-- The base of the code section that holds an address (R308). -/
def sectionBase (a : Nat) : Nat := a - a % 2 ^ 28

/-- The portable offset of an address in its section (R308). -/
def portable (a : Nat) : Nat := a % 2 ^ 28

/-- The loop-end step of R89 for control that would fall through to an offset: where control goes instead, if it
does, and the loop stack after. -/
def loopEnd : List LoopEntry → Nat → Option Nat × List LoopEntry
  | [], _ => (none, [])
  | e :: es, a =>
    if a = e.stop then
      if e.count - 1 = 0 then loopEnd es a else (some e.start, { e with count := e.count - 1 } :: es)
    else (none, e :: es)

/-- Control moves to a portable offset of PCC's section. R86 says that PCC covers its section, yet R87 and R102 let a narrowed
code capability become PCC; here PCC keeps its tag where its address then leaves those bounds, and the next fetch raises
CAP.BOUND (R107). DESIGN CHOICE, log 89. -/
def RegSet.toOffset (r : RegSet) (off : Nat) : RegSet :=
  { r with pcc := r.pcc.withAddr (BitVec.ofNat 64 (sectionBase r.pcc.addr + off)) }

/-- Control falls through past a chain of len bytes, with the loop-end step (R89). -/
def RegSet.fallThrough (r : RegSet) (len : Nat) : RegSet :=
  let a := portable r.pcc.addr + len
  match loopEnd r.loops a with
  | (some start, es) => { r.toOffset start with loops := es }
  | (none, es) => { r.toOffset a with loops := es }

/-- An address lies in the body of a loop (R89), which is of one section. DEDUCED, log 88. -/
def LoopEntry.holds (e : LoopEntry) (a : Nat) : Bool :=
  sectionBase a == e.sect && decide (e.start ≤ portable a) && decide (portable a < e.stop)

/-- Entries whose body a taken exit from one address to another leaves are popped (R89). -/
def leaveLoops : List LoopEntry → Nat → Nat → List LoopEntry
  | [], _, _ => []
  | e :: es, chain, target => if e.holds chain && !e.holds target then leaveLoops es chain target else e :: es

/-! ## Taking an exception and returning from one (R265 to R267) -/

/-- The trap vector of the issuing context (R264). Halo has none. -/
def State.tvec (s : State) : Cap :=
  match s.cur.set with
  | .keeper => Cap.null
  | _ => match s.context? with
    | some c => c.tvec
    | none => Cap.null

/-- The firing takes a terminal code (R267); the TERMINATE event ends it. Halo's own state stops issuing. -/
def State.terminal (s : State) (code : BitVec 16) : State :=
  match s.reg.fir with
  | some f => s.setReg { s.reg with fir := some { f with term := some code }, waiting := false }
  | none => s.setReg { s.reg with pcc := Cap.null, waiting := false }

/-- A chain raises a fault that goes to the firing (R265). -/
def State.raise (s : State) (code : BitVec 16) (ta : Word) : State :=
  let s1 := (s.setReg { s.reg with fcode := code, taddr := ta }).drain
  if s1.reg.inTrap || !s1.tvec.tag then s1.terminal code
  else
    let r := s1.reg
    s1.setReg { r with epcc := r.pcc, savedLoops := r.loops, loops := [], inTrap := true, waiting := false
                       pcc := s1.tvec.withOtype 0 }

/-- `tret` outside its KPR.STATE check (R266). -/
def State.trapReturn (s : State) : State :=
  let s1 := s.drain
  let r := s1.reg
  s1.setReg { r with loops := r.savedLoops, inTrap := false, pcc := r.epcc, waiting := false }

/-- `tret.skip` outside its KPR.STATE check: the faulting chain of len bytes is complete (R266). -/
def State.trapSkip (s : State) (len : Nat) : State :=
  let s1 := s.drain
  let r := s1.reg
  s1.setReg (RegSet.fallThrough { r with loops := r.savedLoops, inTrap := false, pcc := r.epcc, waiting := false
                                         rcnt := { done := 0, remain := 0 } } len)

/-! ## The completion of a chain -/

/-- How the performance of a chain ends: done falls through; goto has moved control itself; gone leaves nothing more
to do (the set is freed, saved or taken by Halo); hold keeps the chain from issuing or completing, with nothing
performed; trap raises a fault after the effects its state holds (R10). -/
inductive Res where
  | done (s : State)
  | goto (s : State)
  | gone (s : State)
  | hold (s : State)
  | trap (s : State) (code : BitVec 16) (ta : Word)

/-- The settle bit parks the firing while results are outstanding (R50). -/
def State.settle (s : State) (p : Pfx) : State :=
  let r := s.reg
  s.setReg { r with waiting := false, parked := p.settle && !r.pending.isEmpty }

/-- The end of a chain that is not repeated. -/
def Res.finish (p : Pfx) (paged : Bool) : Res → State
  | .done s => (s.setReg (s.reg.fallThrough (p.chainBytes paged))).settle p
  | .goto s => s.settle p
  | .gone s => s
  | .hold s => s.setReg { s.reg with waiting := true }
  | .trap s code ta => s.raise code ta

/-- The tokens that a mask names, as a list of numbers. -/
def maskBits (m : BitVec 8) : List (BitVec 3) :=
  ([0, 1, 2, 3, 4, 5, 6, 7] : List (BitVec 3)).filter (fun i => m.getLsbD i.toNat)

/-- Every named token is idle (R36, R252). -/
def RegSet.tokensIdle (r : RegSet) (m : BitVec 8) : Bool := (maskBits m).all (fun i => (r.token i).cnt == 0)

/-- Some named token has a stop that is not cleared (R256). -/
def RegSet.tokensStopped (r : RegSet) (m : BitVec 8) : Bool := (maskBits m).any (fun i => (r.token i).stat != 0)

/-- A chain performed once its token wait is over (R36); CP.STOP before anything is performed (R256). -/
def afterTokens (p : Pfx) (s : State) (body : State → Res) : Res :=
  if !s.reg.tokensIdle p.tokens then .hold s
  else if s.reg.tokensStopped p.tokens then .trap s Code.cpStop 0
  else body s

/-- A chain that takes no repeat prefix. -/
def run (p : Pfx) (paged : Bool) (s : State) (body : State → Res) : Host.Outcome State Fault Refusal :=
  .next ((afterTokens p s body).finish p paged)

/-- Element k's register in a field that steps (R90). -/
def stepField (steps : Bool) (k : Nat) (r : BitVec 5) : BitVec 5 := if steps then r + BitVec.ofNat 5 k else r

/-- The count that a repeat prefix starts with (R90). -/
def RegSet.repCount (r : RegSet) : RepCount → Nat
  | .imm n => n.toNat
  | .reg i => (r.getS i).toNat

/-- A stepped field would pass its file of F registers (R90). -/
def passesFile (steps : Bool) (size : Nat) (r : BitVec 5) (n : Nat) : Bool :=
  steps && decide (size < r.toNat + n)

def RepCnt.zero : RepCnt := { done := 0, remain := 0 }

/-- One element of a repeated chain, k of n: the last one completes the chain with RCNT 0, an earlier one leaves the
chain at its start with RCNT naming what is done (R90, R91); so does a page fault that an element waits on (R332). -/
def Res.finishElement (p : Pfx) (paged : Bool) (k n : Nat) : Res → State
  | .done s =>
    if k + 1 < n then
      s.setReg { s.reg with rcnt := { done := BitVec.ofNat 16 (k + 1), remain := BitVec.ofNat 16 (n - (k + 1)) }
                            waiting := false }
    else
      Res.finish p paged (.done (s.setReg { s.reg with rcnt := RepCnt.zero }))
  | .trap s code ta =>
    Res.finish p paged
      (.trap (s.setReg { s.reg with rcnt := { done := BitVec.ofNat 16 k, remain := BitVec.ofNat 16 (n - k) } }) code ta)
  | .hold s =>
    Res.finish p paged (.hold (if s.reg.pageWait.isNone then s else
      s.setReg { s.reg with rcnt := { done := BitVec.ofNat 16 k, remain := BitVec.ofNat 16 (n - k) } }))
  | x => Res.finish p paged x

/-- A chain that accepts a repeat prefix, with its two register fields and the sizes of their files (R90): without
the prefix it is performed once; with it, one element is performed, or the range check or an empty count ends it. A count of
0 leaves RCNT as it stands, DONE too, since R90 gives it no other effect than the token wait and S, though its procedure ends
with RCNT := 0. DEDUCED, log 18. -/
def runRep (p : Pfx) (paged : Bool) (size1 : Nat) (f1 : BitVec 5) (size2 : Nat) (f2 : BitVec 5) (s : State)
    (body : Nat → BitVec 5 → BitVec 5 → State → Res) : Host.Outcome State Fault Refusal :=
  match p.rep with
  | none => run p paged s (body 0 f1 f2)
  | some q =>
    let r := s.reg
    let resumed := r.rcnt.remain != 0
    let k := if resumed then r.rcnt.done.toNat else 0
    let n := if resumed then r.rcnt.done.toNat + r.rcnt.remain.toNat else r.repCount q.count
    if !r.tokensIdle p.tokens then .next (Res.finish p paged (.hold s))
    else if r.tokensStopped p.tokens then .next (Res.finish p paged (.trap s Code.cpStop 0))
    else if n = 0 then .next (Res.finish p paged (.done s))
    else if 65535 < n || passesFile q.step1 size1 f1 n || passesFile q.step2 size2 f2 n then
      .next (Res.finish p paged (.trap s Code.repRange 0))
    else .next (Res.finishElement p paged k n (body k (stepField q.step1 k f1) (stepField q.step2 k f2) s))

/-- A privileged chain: KPR.PRIV below its level, with nothing else changed (R275). -/
def atPriv (l : Priv) (s : State) (body : State → Res) : Res :=
  if privLevel s.priv < privLevel l then .trap s Code.kprPriv 0 else body s

end Sys2Proof.Machine
end

