-- ==== Sys2Proof/Machine/Flags.lean ====
section
/-! DEFINITION. Machine/Flags.lean: the scalar flags of R77 and the conditions of R78. -/

namespace Sys2Proof.Machine

/-- The flags of the subtraction a − b (R77). -/
def compareFlags (a b : Word) : Flags :=
  let d := a.toInt - b.toInt
  { z := a == b, n := (a - b).msb, c := decide (b.toNat ≤ a.toNat)
    v := decide (d < -(2 ^ 63)) || decide (2 ^ 63 - 1 < d) }

/-- A condition holds (R78). -/
def Flags.holds (f : Flags) : Cond → Bool
  | .eq => f.z
  | .ne => !f.z
  | .lt => f.n != f.v
  | .ge => f.n == f.v
  | .lo => !f.c
  | .hs => f.c
  | .le => f.z || f.n != f.v
  | .gt => !f.z && f.n == f.v
  | .ls => !f.c || f.z
  | .hi => f.c && !f.z

end Sys2Proof.Machine
end

