-- ==== Sys2Proof/Machine/Scalar.lean ====
section
/-! DEFINITION. Machine/Scalar.lean: page 0, the scalar core (R81 to R89). -/

namespace Sys2Proof.Machine

/-! ## Values -/

/-- The number of leading zeros among the low n bits (R85). -/
def leadingZeros (w : Word) : Nat → Nat
  | 0 => 0
  | n + 1 => if w.getLsbD n then 0 else 1 + leadingZeros w n

/-- The number of trailing zeros from bit i on, with n bits left (R85). -/
def trailingZeros (w : Word) (i : Nat) : Nat → Nat
  | 0 => 0
  | n + 1 => if w.getLsbD i then 0 else 1 + trailingZeros w (i + 1) n

/-- The number of one bits among the low n bits (R85). -/
def popCount (w : Word) : Nat → Nat
  | 0 => 0
  | n + 1 => bit (w.getLsbD n) + popCount w n

/-- Bit i of the low n bits moves to bit n − 1 − i (R85). -/
def reverseBits (w : Word) : Nat → Nat
  | 0 => 0
  | n + 1 => bit (w.getLsbD n) * 2 ^ (63 - n) + reverseBits w n

/-- `div` (R82). -/
def divide (a b : Word) : Word :=
  if b = 0 then BitVec.allOnes 64 else BitVec.ofInt 64 (a.toInt.tdiv b.toInt)

/-- `rem` (R82). -/
def remainder (a b : Word) : Word :=
  if b = 0 then a else BitVec.ofInt 64 (a.toInt.tmod b.toInt)

/-- `mulh` (R82). -/
def multiplyHigh (a b : Word) : Word := BitVec.ofInt 64 ((a.toInt * b.toInt) / 2 ^ 64)

/-- The shift amount of a register operand: bits 5:0 (R81). -/
def amount (w : Word) : Nat := w.toNat % 64

def rotateRight (w : Word) (n : Nat) : Word := w >>> n ||| w <<< ((64 - n) % 64)

/-! ## Shapes -/

/-- A two-register operation whose result is interlocked (R81). -/
def alu (p : Pfx) (d a : BitVec 5) (s : State) (f : Word → Word → Word) : Host.Outcome State Fault Refusal :=
  runRep p false 32 d 32 a s (fun _ d a s => .done (s.setS d (f (s.s d) (s.s a))))

/-- A two-register operation of the multiply-divide unit, whose result is outstanding (R82). -/
def mulDiv (p : Pfx) (d a : BitVec 5) (s : State) (f : Word → Word → Word) : Host.Outcome State Fault Refusal :=
  runRep p false 32 d 32 a s (fun _ d a s => .done (s.pend (.s d (f (s.s d) (s.s a)))))

/-- A one-register operation of format I (R83 to R85). -/
def unary (p : Pfx) (d : BitVec 5) (s : State) (f : Word → Word) : Host.Outcome State Fault Refusal :=
  runRep p false 32 d 32 0 s (fun _ d _ s => .done (s.setS d (f (s.s d))))

/-- The flags written from a subtraction (R77). -/
def State.compare (s : State) (a b : Word) : State := s.setReg { s.reg with flags := compareFlags a b }

/-! ## R81 -/

def execMv (p : Pfx) (d a : BitVec 5) (s : State) : Host.Outcome State Fault Refusal := alu p d a s (fun _ b => b)
def execAdd (p : Pfx) (d a : BitVec 5) (s : State) : Host.Outcome State Fault Refusal := alu p d a s (fun x y => x + y)
def execSub (p : Pfx) (d a : BitVec 5) (s : State) : Host.Outcome State Fault Refusal := alu p d a s (fun x y => x - y)
def execAnd (p : Pfx) (d a : BitVec 5) (s : State) : Host.Outcome State Fault Refusal := alu p d a s (fun x y => x &&& y)
def execOr (p : Pfx) (d a : BitVec 5) (s : State) : Host.Outcome State Fault Refusal := alu p d a s (fun x y => x ||| y)
def execXor (p : Pfx) (d a : BitVec 5) (s : State) : Host.Outcome State Fault Refusal := alu p d a s (fun x y => x ^^^ y)
def execShl (p : Pfx) (d a : BitVec 5) (s : State) : Host.Outcome State Fault Refusal :=
  alu p d a s (fun x y => x <<< amount y)
def execShr (p : Pfx) (d a : BitVec 5) (s : State) : Host.Outcome State Fault Refusal :=
  alu p d a s (fun x y => x >>> amount y)
def execSra (p : Pfx) (d a : BitVec 5) (s : State) : Host.Outcome State Fault Refusal :=
  alu p d a s (fun x y => x.sshiftRight (amount y))
def execCmp (p : Pfx) (d a : BitVec 5) (s : State) : Host.Outcome State Fault Refusal :=
  runRep p false 32 d 32 a s (fun _ d a s => .done (s.compare (s.s d) (s.s a)))

/-! ## R82 -/

def execMul (p : Pfx) (d a : BitVec 5) (s : State) : Host.Outcome State Fault Refusal := mulDiv p d a s (fun x y => x * y)
def execMulh (p : Pfx) (d a : BitVec 5) (s : State) : Host.Outcome State Fault Refusal := mulDiv p d a s multiplyHigh
def execDiv (p : Pfx) (d a : BitVec 5) (s : State) : Host.Outcome State Fault Refusal := mulDiv p d a s divide
def execRem (p : Pfx) (d a : BitVec 5) (s : State) : Host.Outcome State Fault Refusal := mulDiv p d a s remainder

/-! ## R83, R84 -/

def execAddi (p : Pfx) (d i : BitVec 5) (s : State) : Host.Outcome State Fault Refusal :=
  unary p d s (fun x => x + wordOfInt (p.immI i))
def execLi (p : Pfx) (d i : BitVec 5) (s : State) : Host.Outcome State Fault Refusal :=
  unary p d s (fun _ => wordOfInt (p.immI i))
def execCmpi (p : Pfx) (d i : BitVec 5) (s : State) : Host.Outcome State Fault Refusal :=
  runRep p false 32 d 32 0 s (fun _ d _ s => .done (s.compare (s.s d) (wordOfInt (p.immI i))))
/-- The amount of the shift family: immediate bits 5:0 (R84). -/
def shiftImm (p : Pfx) (i : BitVec 5) : Nat := (p.immI i % 64).toNat
def execShli (p : Pfx) (d i : BitVec 5) (s : State) : Host.Outcome State Fault Refusal :=
  unary p d s (fun x => x <<< shiftImm p i)
def execShri (p : Pfx) (d i : BitVec 5) (s : State) : Host.Outcome State Fault Refusal :=
  unary p d s (fun x => x >>> shiftImm p i)
def execSrai (p : Pfx) (d i : BitVec 5) (s : State) : Host.Outcome State Fault Refusal :=
  unary p d s (fun x => x.sshiftRight (shiftImm p i))
def execRori (p : Pfx) (d i : BitVec 5) (s : State) : Host.Outcome State Fault Refusal :=
  unary p d s (fun x => rotateRight x (shiftImm p i))

/-! ## R85 -/

def execClz (p : Pfx) (d : BitVec 5) (s : State) : Host.Outcome State Fault Refusal :=
  unary p d s (fun x => BitVec.ofNat 64 (leadingZeros x 64))
def execCtz (p : Pfx) (d : BitVec 5) (s : State) : Host.Outcome State Fault Refusal :=
  unary p d s (fun x => BitVec.ofNat 64 (trailingZeros x 0 64))
def execPopc (p : Pfx) (d : BitVec 5) (s : State) : Host.Outcome State Fault Refusal :=
  unary p d s (fun x => BitVec.ofNat 64 (popCount x 64))
def execBrev (p : Pfx) (d : BitVec 5) (s : State) : Host.Outcome State Fault Refusal :=
  unary p d s (fun x => BitVec.ofNat 64 (reverseBits x 64))
def execNot (p : Pfx) (d : BitVec 5) (s : State) : Host.Outcome State Fault Refusal := unary p d s (fun x => ~~~x)
def execNeg (p : Pfx) (d : BitVec 5) (s : State) : Host.Outcome State Fault Refusal := unary p d s (fun x => 0 - x)
def execAbs (p : Pfx) (d : BitVec 5) (s : State) : Host.Outcome State Fault Refusal :=
  unary p d s (fun x => if x.msb then 0 - x else x)
def execSextB (p : Pfx) (d : BitVec 5) (s : State) : Host.Outcome State Fault Refusal :=
  unary p d s (fun x => (x.extractLsb' 0 8).signExtend 64)
def execSextH (p : Pfx) (d : BitVec 5) (s : State) : Host.Outcome State Fault Refusal :=
  unary p d s (fun x => (x.extractLsb' 0 16).signExtend 64)
def execSextW (p : Pfx) (d : BitVec 5) (s : State) : Host.Outcome State Fault Refusal :=
  unary p d s (fun x => (x.extractLsb' 0 32).signExtend 64)
def execZextB (p : Pfx) (d : BitVec 5) (s : State) : Host.Outcome State Fault Refusal :=
  unary p d s (fun x => (x.extractLsb' 0 8).zeroExtend 64)
def execZextH (p : Pfx) (d : BitVec 5) (s : State) : Host.Outcome State Fault Refusal :=
  unary p d s (fun x => (x.extractLsb' 0 16).zeroExtend 64)
def execZextW (p : Pfx) (d : BitVec 5) (s : State) : Host.Outcome State Fault Refusal :=
  unary p d s (fun x => (x.extractLsb' 0 32).zeroExtend 64)
def execSetc (p : Pfx) (d : BitVec 5) (c : Cond) (s : State) : Host.Outcome State Fault Refusal :=
  runRep p false 32 d 32 0 s (fun _ d _ s => .done (s.setS d (if s.reg.flags.holds c then 1 else 0)))

/-! ## R86: branches -/

/-- A branch whose condition has been tested (R86): an offset of 0 falls through, and a taken branch pops the loops
it leaves (R89). The offset counts halfwords from the halfword after the base word. -/
def branch (p : Pfx) (off : BitVec 10) (s : State) (taken : Bool) : Res :=
  let j := p.immJ off
  if !taken || j == 0 then .done s
  else
    let r := s.reg
    let target := (((portable r.pcc.addr + p.chainBytes false : Nat) : Int) + 2 * j).toNat
    let dest := r.toOffset target
    .goto (s.setReg { dest with loops := leaveLoops r.loops r.pcc.addr dest.pcc.addr })

def execB (p : Pfx) (off : BitVec 10) (s : State) : Host.Outcome State Fault Refusal :=
  run p false s (fun s => branch p off s true)
def execBeq (p : Pfx) (off : BitVec 10) (s : State) : Host.Outcome State Fault Refusal :=
  run p false s (fun s => branch p off s (s.reg.flags.holds .eq))
def execBne (p : Pfx) (off : BitVec 10) (s : State) : Host.Outcome State Fault Refusal :=
  run p false s (fun s => branch p off s (s.reg.flags.holds .ne))
def execBlt (p : Pfx) (off : BitVec 10) (s : State) : Host.Outcome State Fault Refusal :=
  run p false s (fun s => branch p off s (s.reg.flags.holds .lt))
def execBge (p : Pfx) (off : BitVec 10) (s : State) : Host.Outcome State Fault Refusal :=
  run p false s (fun s => branch p off s (s.reg.flags.holds .ge))

/-! ## R87: calls -/

/-- The byte offsets at which the chains of a section start (R39). -/
def chainStarts : Nat → Nat → List Half → List Nat
  | 0, _, _ => []
  | _, _, [] => []
  | fuel + 1, off, h :: hs =>
    match cutChain 4 (h :: hs) with
    | .error _ => []
    | .ok (ps, _, rest) => off :: chainStarts fuel (off + 2 * (ps.length + 1)) rest

/-- The section that an address of the code region lies in: the capsule's number and the section (R308). -/
def State.sectionAt (s : State) (a : Nat) : Option (Nat × Section) :=
  if a < codeBase then none
  else
    let n := (a - codeBase) / 2 ^ 32
    if 4096 ≤ n then none
    else match Map.get? s.capsules n with
      | none => none
      | some k => match k.sections[a / 2 ^ 28 % 16]? with
        | some sec => some (n, sec)
        | none => none

/-- An address is a chain start of the code section it lies in (R87). -/
def State.isChainStart (s : State) (a : Nat) : Bool :=
  match s.sectionAt a with
  | some (_, sec) => (chainStarts sec.code.length 0 sec.code).contains (portable a)
  | none => false

/-- The checks of a transfer of control on its target, after those of its seals (R87, R105). -/
def State.targetFault (s : State) (t : Cap) : Option (BitVec 16) :=
  if !t.within t.addr 2 then some Code.capBound
  else if t.addr % 2 = 1 then some Code.memAlign
  else if !s.isChainStart t.addr then some Code.cslTarget
  else none

/-- The checks of `call` in the order of R87. -/
def State.callFault (s : State) (t : Cap) : Option (BitVec 16) :=
  if !t.tag then some Code.capTag
  else if t.sealed then some Code.capSeal
  else if !t.has permEX then some Code.capPerm
  else s.targetFault t

/-- `call` and `jmp` (R87). A link keeps PCC's tag, bounds and permissions. Only a call without a link leaves
loops (R89). -/
def transfer (p : Pfx) (d a : BitVec 4) (s : State) : Res :=
  let t := s.c a
  match s.callFault t with
  | some e => .trap s e t.addrW
  | none =>
    let r := s.reg
    let chain := r.pcc.addr
    let link := r.pcc.withAddr (BitVec.ofNat 64 (chain + p.chainBytes false))
    let loops := if d = 0 then leaveLoops r.loops chain t.addr else r.loops
    .goto (s.setReg { r.setC d link with pcc := t, loops := loops })

def execCall (p : Pfx) (d a : BitVec 4) (s : State) : Host.Outcome State Fault Refusal :=
  run p false s (transfer p d a)
def execJmp (p : Pfx) (a : BitVec 4) (s : State) : Host.Outcome State Fault Refusal :=
  run p false s (transfer p 0 a)

/-! ## R88: loops -/

def execLoop (p : Pfx) (d i : BitVec 5) (s : State) : Host.Outcome State Fault Refusal :=
  run p false s (fun s =>
    let r := s.reg
    let next := portable r.pcc.addr + p.chainBytes false
    let stop := next + 2 * p.immZ i
    let n := r.getS d
    if n = 0 then
      match loopEnd r.loops stop with
      | (some start, es) => .goto (s.setReg { r.toOffset start with loops := es })
      | (none, es) => .goto (s.setReg { r.toOffset stop with loops := es })
    else if 4 ≤ r.loops.length then .trap s Code.loopDepth 0
    else .goto (s.setReg { r.toOffset next with loops := { sect := sectionBase r.pcc.addr, start := next, stop := stop, count := n } :: r.loops }))

end Sys2Proof.Machine
end

