-- ==== Sys2Proof/Machine/Records.lean ====
section
/-! DEFINITION. Machine/Records.lean: error records and where they go (R367, R373, R389, R390). -/

namespace Sys2Proof.Machine

/-! ## Channels (R367) -/

/-- The fields of CHn (R367). -/
def chValid (w : Word) : Bool := w.getLsbD 63
def chDead (w : Word) : Bool := w.getLsbD 62
def chCtx (w : Word) : Nat := bitsOf w.toNat 48 12
def chBase (w : Word) : Nat := bitsOf w.toNat 16 32 * 65536
def chPages (w : Word) : Nat := bitsOf w.toNat 0 16 + 1

def Channel.empty : Channel := { ctrl := 0, dctr := 0, hctr := 0, key := 0 }
def State.chan (s : State) (n : Nat) : Channel := Map.get s.chans n Channel.empty
def State.setChan (s : State) (n : Nat) (x : Channel) : State := { s with chans := Map.set s.chans n x }

/-- A channel that carries data. -/
def State.channelLive (s : State) (ch : Nat) : Bool := chValid (s.chan ch).ctrl && !chDead (s.chan ch).ctrl

/-- DEAD is set (R369). -/
def State.setDead (s : State) (ch : Nat) : State :=
  s.setChan ch { s.chan ch with ctrl := (s.chan ch).ctrl ||| BitVec.ofNat 64 (2 ^ 62) }

/-! ## Chunks (R367, R368) -/

/-- The IV of a chunk: channel number, half, counter. -/
def chunkIv (ch : Nat) (toHost : Bool) (ctr : Nat) : Nat := ch * 2 ^ 84 + bit toHost * 2 ^ 32 + ctr % 2 ^ 32

/-- Encryption of a chunk under a key and an IV, its own inverse. -/
def chunkCipher (key iv : Nat) (bs : List Byte) : List Byte :=
  (indexed bs).map (fun q => q.2 ^^^ Config.gcmStream key iv q.1)

/-- A plaintext as the chunk that a channel carries. -/
def State.sealChunk (s : State) (ch : Nat) (toHost : Bool) (ctr addr : Nat) (plain : List Byte) : Chunk :=
  let key := (s.chan ch).key
  let iv := chunkIv ch toHost ctr
  { chan := ch, toHost := toHost, ctr := ctr, addr := addr, tag := Config.gcmTag key iv addr plain
    data := chunkCipher key iv plain }

/-- The plaintext of a chunk of the host half, 4 KiB, whose GCM tag verifies. -/
def State.openChunk (s : State) (c : Chunk) : Option (List Byte) :=
  let key := (s.chan c.chan).key
  let iv := chunkIv c.chan false c.ctr
  let plain := chunkCipher key iv c.data
  if !c.toHost && c.data.length == 4096 && Config.gcmTag key iv c.addr plain == c.tag then some plain else none

/-- HCTR after an accepted chunk, and DEAD after the last counter (R368, R369). -/
def State.acceptCtr (s : State) (ch ctr : Nat) : State :=
  let s1 := s.setChan ch { s.chan ch with hctr := max (s.chan ch).hctr ctr }
  if ctr = 0xFFFFFFFF then s1.setDead ch else s1

/-- A chunk of the host half that the device reads of itself, on a live channel: its plaintext, or none with DEAD set where
its tag fails. DESIGN CHOICE, log 72. -/
def State.acceptChunk (s : State) (c : Chunk) : State × Option (List Byte) :=
  if !s.channelLive c.chan then (s, none)
  else match s.openChunk c with
    | some plain => (s.acceptCtr c.chan c.ctr, some plain)
    | none => (s.setDead c.chan, none)

/-- Chunks in their order, up to the first that fails. -/
def State.acceptChunks (s : State) : List Chunk → State × Option (List Byte)
  | [] => (s, some [])
  | c :: cs =>
    match s.acceptChunk c with
    | (s1, none) => (s1, none)
    | (s1, some a) =>
      match s1.acceptChunks cs with
      | (s2, some b) => (s2, some (a ++ b))
      | (s2, none) => (s2, none)

/-- Bytes cut into chunks of 4 KiB, the last padded with zeros; fuel bounds their number. -/
def chunkPieces : Nat → List Byte → List (List Byte)
  | 0, _ => []
  | fuel + 1, bs =>
    if bs.isEmpty then []
    else (bs.take 4096 ++ List.replicate (4096 - (bs.take 4096).length) 0) :: chunkPieces fuel (bs.drop 4096)

/-- One chunk that the device sends of itself: under the next counter of its half, which sets DEAD once it is the last
(R368, R369); none goes on a channel that is not live or has no counter left. The place in the data range is free.
DESIGN CHOICE, log 72. -/
def State.sendChunk (s : State) (ch : Nat) (plain : List Byte) : State :=
  let c := s.chan ch
  if !s.channelLive ch || decide (2 ^ 32 ≤ c.dctr) then s
  else
    let addr := chBase c.ctrl + s.fresh % (chPages c.ctrl * 16) * 4096
    let s1 := s.setChan ch { c with dctr := c.dctr + 1 }
    let s2 : State := { s1 with chanOut := s1.chanOut ++ [s.sealChunk ch true c.dctr addr plain] }
    if c.dctr = 0xFFFFFFFF then s2.setDead ch else s2

/-- Bytes that the device sends of itself, chunk by chunk. -/
def State.sendBytes (s : State) (ch : Nat) (bs : List Byte) : State :=
  (chunkPieces (bs.length / 4096 + 1) bs).foldl (fun s c => s.sendChunk ch c) s

/-- The lowest-numbered live channel of a context. -/
def State.liveChan (s : State) (ctx : Nat) : Option Nat :=
  (s.chans.find? (fun q => chValid q.2.ctrl && !chDead q.2.ctrl && chCtx q.2.ctrl == ctx)).map (fun q => q.1)

/-! ## Records -/

/-- Reliability classes (R389). -/
def clsCorrected : Nat := 0x10
def clsUnconsumed : Nat := 0x11
def clsRerun : Nat := 0x12
def clsPair : Nat := 0x13
def clsPairStop : Nat := 0x14
def clsFlit : Nat := 0x15

/-- The unit code of the array that a key lies in (R389). No code is the inbox's own: its slots are told as scratchpad.
DESIGN CHOICE, log 86. -/
def unitOf (a : Nat) : Nat :=
  match keyKind a with
  | 0 => 0x09
  | 1 => 0x0E
  | 2 => 0x02
  | 3 => 0x04
  | 4 => 0x0A
  | 8 => 0x01
  | 9 => 0x0F
  | 10 => 0x05
  | 11 => 0x07
  | 12 => 0x02
  | 13 => 0x06
  | 14 => 0x08
  | 16 => 0x0B
  | 17 => 0x0C
  | 18 => 0x10
  | _ => 0x03

/-- Arrays with a parity bit, which corrects nothing (R377): matrix units and Cirrus. -/
def parityOnly (a : Nat) : Bool := keyKind a == 9 || keyKind a == 11

/-- The syndrome class of a corrected error: one symbol in HBM and weight store, one bit elsewhere (R377, R389). -/
def corrected (a : Nat) : Nat := if keyKind a = 0 ∨ keyKind a = 4 then 2 else 1

/-- The syndrome class of an error that cannot be corrected. -/
def uncorrected (a : Nat) : Nat := if parityOnly a then 4 else 3

/-- The address that a record of a word tells, and its frame. -/
def addrOf (a : Nat) : Nat := if keyKind (memPlace a) ≤ 4 ∨ 2 ^ 20 ≤ keyKind a then memPlace a % 2 ^ 64 else 0
def frameOf (a : Nat) : Nat := if keyKind (memPlace a) = 0 then memPlace a / 65536 else 0

/-- A context whose records reach the host in the short form only (R373). -/
def isProtected (i : RegInfo) : Bool := i.secure || i.protect

/-- The short form: class, unit, partition, handle and syndrome (R373). -/
def ErrRec.short (r : ErrRec) (handle : Nat) : ErrRec := { r with who := handle, addr := 0, frame := 0, pc := 0 }

/-- The 64 bytes of a slot (R390, R373). -/
def ErrRec.bytes (r : ErrRec) : List Byte :=
  toBytes 8 (r.cls % 256 + r.unit % 256 * 2 ^ 8 + r.part % 64 * 2 ^ 16 + r.who % 2 ^ 32 * 2 ^ 32) ++
  toBytes 8 (r.syn % 256) ++ toBytes 8 r.addr ++ toBytes 8 r.frame ++ toBytes 8 r.pc ++ toBytes 24 0

/-- A record into the ring, or dropped with OVF while the ring is full (R390). DEDUCED, log 42. -/
def State.ringPost (s : State) (r : ErrRec) : State :=
  if (s.etail + 1) % 256 = s.ehead then { s with ovf := true }
  else { s with ering := Map.set s.ering s.etail r, etail := (s.etail + 1) % 256 }

/-- The full records kept for a context go through a channel of it that has opened (R373). -/
def State.sendKept (s : State) (ch : Nat) : State :=
  let ctx := chCtx (s.chan ch).ctrl
  if !s.channelLive ch then s
  else (s.fullRecs.filter (fun q => q.1 == ctx)).foldl (fun s q => s.sendBytes ch q.2.bytes)
    { s with fullRecs := s.fullRecs.filter (fun q => q.1 != ctx) }

/-- The full record of a protected context: through its lowest live channel, else kept, at most 64 (R373). -/
def State.fullRecord (s : State) (ctx : Nat) (r : ErrRec) : State :=
  match s.liveChan ctx with
  | some n => s.sendBytes n r.bytes
  | none =>
    if (s.fullRecs.filter (fun q => q.1 == ctx)).length < 64 then { s with fullRecs := s.fullRecs ++ [(ctx, r)] } else s

/-- A record is posted, for a context or for none (R373, R390). -/
def State.postError (s : State) (ctx : Option Nat) (r : ErrRec) : State :=
  match ctx with
  | none => s.ringPost r
  | some c =>
    let i := s.info c
    if isProtected i then (s.ringPost (r.short i.handle)).fullRecord c r
    else s.ringPost r

/-- The record of an error at a key that a chain, an engine or a commit on a tile has met (R390). -/
def State.errorAt (s : State) (cls n ctx key va : Nat) : ErrRec :=
  { cls := cls, unit := unitOf key, part := quadOf n, who := ctx, syn := uncorrected key, addr := va
    frame := frameOf key, pc := if n = s.cur.tile then portable s.reg.pcc.addr else 0 }

end Sys2Proof.Machine
end

