-- ==== Sys2Proof/Machine/Commit.lean ====
section
/-! DEFINITION. Machine/Commit.lean: live firings and their keys, the horizon, what a commit applies, conflicts,
aborts and pinning (R163, R171 to R173, R184 to R194). -/

namespace Sys2Proof.Machine

/-! ## Live firings (R184, R187) -/

/-- Where a live firing stands. -/
inductive Place where
  | set (k : SetId)
  | saved
  | ended
  deriving DecidableEq, Repr

/-- A live firing with its place. -/
structure LiveFiring where
  tile  : Nat
  ctx   : Nat
  place : Place
  f     : Firing
  deriving DecidableEq, Repr

def optFiring (n c : Nat) (p : Place) : Option Firing → List LiveFiring
  | some f => [{ tile := n, ctx := c, place := p, f := f }]
  | none => []

/-- The live firings of one context on one tile: running or parked, saved, ended and awaiting commit. -/
def TileCtx.live (x : TileCtx) (n c : Nat) : List LiveFiring :=
  optFiring n c (.set .normal) x.normal.fir ++ optFiring n c (.set .urgent) x.urgent.fir ++
  x.saved.flatMap (fun r => optFiring n c .saved r.2.fir) ++
  x.ended.map (fun f => { tile := n, ctx := c, place := .ended, f := f })

def Tile.live (t : Tile) (n : Nat) : List LiveFiring := t.ctxs.flatMap (fun q => q.2.live n q.1)

/-- The live firings of a partition (R19: a partition is the commit domain). -/
def State.live (s : State) (p : Nat) : List LiveFiring :=
  s.tiles.flatMap (fun q => if quadOf q.1 = p then q.2.live q.1 else [])

/-- Keys compare by timestamp, then serial (R184). -/
def Firing.earlier (a b : Firing) : Bool :=
  decide (a.ts < b.ts) || (a.ts == b.ts && decide (a.serial < b.serial))

/-- A firing of a pager context: never a contributor, pinned from its first chain (R333). A tile is a pager's when
its partition names it and the context is the partition's supervisor context there. -/
def State.isPager (s : State) (n c : Nat) : Bool :=
  let q := s.part (quadOf n)
  (s.info c).priv == .supervisor && (partIdx n == q.pager0 || partIdx n == q.pager1) && q.owned

/-- The fields of the port word (R157). -/
def portTag (w : Word) (i : Nat) : Nat := bitsOf w.toNat (16 * i) 12
def portCnt (w : Word) (i : Nat) : Nat := bitsOf w.toNat (16 * i + 12) 4 + 1

/-! ## The horizon (R185, R186) -/

/-- Fault messages and resume packets are no contributors (R331). -/
def Msg.contributes (m : Msg) : Bool := m.knd != 5 && m.knd != 6

def msgTs (l : List Msg) : List Nat := (l.filter Msg.contributes).map (fun m => m.ts)

def Counter.ts : Counter → List Nat
  | .join _ _ _ _ _ ts _ _ => [ts]
  | _ => []

/-- The messages that have returned to a context's queues and are held for a rerun that is owed, or that has been made and
has yet to pop them (R163). -/
def TileCtx.returned (x : TileCtx) : List (Nat × Msg) :=
  x.reruns.flatMap (fun r => (r.firing.origin.consumed ++ r.firing.popped).map (fun q => (portTag r.firing.image.port q.1, q.2))) ++
  (x.live 0 0).flatMap (fun l => l.f.owed.map (fun q => (portTag l.f.image.port q.1, q.2)))

/-- How many messages held for reruns stand at the head of a queue. -/
def TileCtx.heldFor (x : TileCtx) (tag : Nat) : Nat := x.returned.countP (fun q => q.1 == tag)

/-- The timestamps of one context's contributors on one tile. -/
def TileCtx.contributors (x : TileCtx) (isPager : Bool) (n c : Nat) : List Nat :=
  (if isPager then [] else (x.live n c).map (fun l => l.f.ts)) ++ x.reruns.map (fun r => r.firing.ts) ++
  x.entries.flatMap (fun e => msgTs e.2.queue ++ (if e.2.pend then [e.2.pts] else [])) ++
  msgTs (x.returned.map (fun q => q.2)) ++
  msgTs x.unbound ++
  x.copies.flatMap (fun k => if k.fate = .settled && k.w3b.getLsbD 12 then [k.ts] else [])

def copyTs (slots : List (Option Copy)) : List Nat :=
  slots.flatMap (fun o => match o with
    | some k => if k.fate = .settled && k.w3b.getLsbD 12 then [k.ts] else []
    | none => [])

/-- The timestamps of every contributor of a partition (R185, R253). DEDUCED, log 40. -/
def State.contributors (s : State) (p : Nat) : List Nat :=
  s.tiles.flatMap (fun q =>
    if quadOf q.1 = p then
      q.2.ctxs.flatMap (fun x => x.2.contributors (s.isPager q.1 x.1) q.1 x.1) ++
      q.2.deque.map (fun t => t.msg.ts) ++ msgTs q.2.ingress ++ msgTs q.2.away ++ copyTs q.2.slots
    else []) ++
  s.clusters.flatMap (fun q => if clusterPart q.1 = p then q.2.counters.flatMap (fun x => x.2.ts) else []) ++
  (s.net.filter (fun m => quadOf m.dst == p && m.contributes)).map (fun m => m.ts) ++
  (s.launches.filter (fun l => !l.2.sentAll && l.2.parts.contains p)).map (fun l => max l.2.ts (s.part p).floor)

/-- The partition's horizon: the least contributor, or the floor (R185). -/
def State.horizon (s : State) (p : Nat) : Nat :=
  match s.contributors p with
  | [] => (s.part p).floor
  | t :: ts => ts.foldl min t

/-- A commit raises the floor to its timestamp (R186, R187). -/
def State.raiseFloor (s : State) (p ts : Nat) : State :=
  s.setPart p { s.part p with floor := max (s.part p).floor ts }

/-! ## Messages and counters -/

/-- A message leaves for its tile (R159 to R161). One that enters another partition has its TS raised to the floor
there (R186). -/
def State.send (s : State) (m : Msg) : State :=
  let ts := if quadOf m.src = quadOf m.dst then m.ts else max m.ts (s.part (quadOf m.dst)).floor
  { s with net := s.net ++ [{ m with ts := ts }] }

/-- The continuation message of a join counter, its URG matching the entry found there (R173). -/
def State.joinContinuation (s : State) (n : Nat) (tag j : Nat) (payload : List Word) (wid : Word) (ts ctx : Nat)
    (slot : Option Nat) : State :=
  let dst := clusterTile (clusterOf n) j
  let urg := match Map.get? (s.tctxOf dst ctx).entries tag with
    | some e => e.image.ctrl.getLsbD 15
    | none => false
  s.send { ts := ts, src := n, knd := 3, urg := urg, tag := tag, wid := wid, payload := payload
           ctx := ctx, dst := dst, slot := slot }

def State.counter (s : State) (n i : Nat) : Counter := Map.get (s.cluster (clusterOf n)).counters i .idle

def State.setCounter (s : State) (n i : Nat) (x : Counter) : State :=
  let k := s.cluster (clusterOf n)
  s.setCluster (clusterOf n) { k with counters := Map.set k.counters i x }

/-- Arming a counter at commit (R172): an iteration counter from sv, or a join counter, whose count of 0 sends the
continuation at once. -/
def State.armCounter (s : State) (n ctx i : Nat) (join : Bool) (sv : Word) (payload : List Word) (wid : Word) (ts : Nat)
    (slot : Option Nat) : State :=
  let v := sv.toNat
  let s := s.cleanse (fun w => w == keyUnit (clusterOf n) i)
  if join then
    let tag := bitsOf v 32 12
    let j := bitsOf v 44 3
    if bitsOf v 0 32 = 0 then
      (s.setCounter n i .idle).joinContinuation n tag j payload wid ts ctx slot
    else s.setCounter n i (.join (bitsOf v 0 32) tag j payload wid ts ctx slot)
  else
    let minc := bitsOf v 32 16
    let div := bitsOf v 48 8
    s.setCounter n i (.iter (bitsOf v 0 32) (if minc = 0 then 1 else minc) (if div = 0 then 8 else div) 0 none)

/-- A committed decrement (R173): one that meets an idle counter is discarded and reported to Halo, and so is one that
meets an iteration counter, of which the rule does not speak. DESIGN CHOICE, log 67. -/
def State.joinCounter (s : State) (n i ts : Nat) : State :=
  match s.counter n i with
  | .join count tag j payload wid cts ctx slot =>
    if count ≤ 1 then
      (s.setCounter n i .idle).joinContinuation n tag j payload wid (max cts ts) ctx slot
    else s.setCounter n i (.join (count - 1) tag j payload wid cts ctx slot)
  | _ =>
    let k := s.cluster (clusterOf n)
    s.setCluster (clusterOf n) { k with lost := k.lost ++ [i] }

/-! ## Entries -/

def Entry.empty : Entry :=
  { image := { cap := Cap.null, port := 0, ctrl := 0 }, en := false, pend := false, pts := 0, pwid := 0
    pslot := none, lock := false, next := none, queue := [], readyAt := none }

def TileCtx.entry (x : TileCtx) (tag : Nat) : Entry := Map.get x.entries tag Entry.empty
def TileCtx.setEntry (x : TileCtx) (tag : Nat) (e : Entry) : TileCtx := { x with entries := Map.set x.entries tag e }
def State.entryOf (s : State) (n c tag : Nat) : Entry := (s.tctxOf n c).entry tag
def State.setEntryOf (s : State) (n c tag : Nat) (e : Entry) : State :=
  s.setTctxOf n c ((s.tctxOf n c).setEntry tag e)

/-- The fields of the control word (R157). -/
def ctrlKind (w : Word) : Nat := bitsOf w.toNat 16 2
def ctrlNport (w : Word) : Nat := bitsOf w.toNat 12 3
def ctrlDepth (w : Word) : Nat := bitsOf w.toNat 18 6 + 1
def ctrlPrio (w : Word) : Nat := bitsOf w.toNat 24 8
def ctrlNout (w : Word) : Nat := bitsOf w.toNat 32 8
def ctrlClass (w : Word) : Bool := w.getLsbD 15
/-- An entry is ready (R162): enabled, a handler, and pending or with every port supplied. -/
def TileCtx.ready (x : TileCtx) (e : Entry) : Bool :=
  e.en && !e.lock && ctrlKind e.image.ctrl == 1 &&
    (e.pend || (decide (0 < ctrlNport e.image.ctrl) &&
      (List.range (ctrlNport e.image.ctrl)).all (fun i =>
        decide (portCnt e.image.port i ≤ (x.entry (portTag e.image.port i)).queue.length))))

/-- Entries that have just become ready take the next place in the tile's order; those no longer ready leave it
(R164). -/
def State.rankReady (s : State) (n c : Nat) : State :=
  let x := s.tctxOf n c
  let r := x.entries.foldl (fun (acc : Map Entry × Nat) q =>
    let e := q.2
    match x.ready e, e.readyAt with
    | true, none => (acc.1 ++ [(q.1, { e with readyAt := some acc.2 })], acc.2 + 1)
    | true, some _ => (acc.1 ++ [q], acc.2)
    | false, _ => (acc.1 ++ [(q.1, { e with readyAt := none })], acc.2)) ([], (s.tile n).readyCtr)
  let s1 := s.setTctxOf n c { x with entries := r.1 }
  s1.setTile n { s1.tile n with readyCtr := r.2 }

/-- The handler records of R169 on one tile. -/
def State.setEn (s : State) (n c tag : Nat) (en : Bool) : State :=
  (s.setEntryOf n c tag { s.entryOf n c tag with en := en }).rankReady n c

def State.setPend (s : State) (n c tag ts : Nat) (wid : Word) (slot : Option Nat) : State :=
  let e := s.entryOf n c tag
  (s.setEntryOf n c tag { e with pend := true, pts := if e.pend then max e.pts ts else ts, pwid := wid
                                 pslot := slot }).rankReady n c

def State.clearPend (s : State) (n c tag : Nat) : State :=
  (s.setEntryOf n c tag { s.entryOf n c tag with pend := false }).rankReady n c

/-! ## Applying buffered actions (R187) -/

/-- The bytes of a store to its memory pieces, under the context's memory key. -/
def State.writePieces (s : State) (key : Nat) : List (Nat × Nat) → List Byte → State
  | [], _ => s
  | (a, n) :: ps, bs => (s.writeBytes key a (bs.take n)).writePieces key ps (bs.drop n)

/-- Where a buffered store is performed: its pages are translated afresh unless their leases last (R329); none where that
fails. -/
def State.storeKeys (s : State) (ctx va n : Nat) : Option (List (Nat × Nat)) :=
  match s.translateAll (s.info ctx) .wr (pagePieces va n) with
  | .ok ps => some (ps.map (fun p => (p.key, p.n)))
  | .error _ => none

/-- The table entries that a pager's store replaces: frames that it unmaps or maps otherwise, with the time (R338). -/
def State.noteNarrowing (s : State) (keys : List (Nat × Nat)) : State :=
  let old := keys.flatMap (fun k => (blocksOf 8 k.1 k.2).filterMap (fun a =>
    let e := ofBytes (Memory.readBytes s.mem a 8)
    if keyKind a = 0 ∧ peV e ∧ !peHost e then some (peFrame e, if peLeaf e then 8192 else 1, s.clk) else none))
  if old.isEmpty then s else { s with narrowed := s.narrowed.filter (fun r => decide (s.clk < r.2.2 + 8400)) ++ old }

/-- A store of a firing becomes visible: bytes, and the tag that passes the filter (R112, R187). -/
def State.storeGlobal (s : State) (ctx : Nat) (keys : List (Nat × Nat)) (bs : List Byte) (tag : Bool) : State :=
  let s0 := s.mergeRanges keys
  let s1 := (if (s.info ctx).priv = .supervisor then s0.noteNarrowing keys else s0).writePieces (s.info ctx).keyId keys bs
  match tag, keys with
  | true, (a, _) :: _ =>
    if (s.filterCap ctx (Cap.ofBytes true (ofBytes bs))).tag && keepsTags a then
      { s1 with tags := Keys.insert s1.tags a } else s1
  | _, _ => s1

/-- One action is performed (R169, R172, R173, R187, R192). -/
def State.perform (s : State) (n ctx : Nat) : Action → State
  | .store _ keys bs tag => s.storeGlobal ctx keys bs tag
  | .send m => s.send m
  | .setEn tag en => s.setEn n ctx tag en
  | .pend tag ts wid slot => s.setPend n ctx tag ts wid slot
  | .clearPend tag => s.clearPend n ctx tag
  | .arm i join sv payload wid ts slot => s.armCounter n ctx i join sv payload wid ts slot
  | .join i ts => s.joinCounter n i ts

/-- The actions of the first class and then the others: stores in step 1, records in step 2, messages in step 3, each
in issue order (R187). -/
def actionStep : Action → Nat
  | .store _ _ _ _ => 1
  | .send _ => 3
  | _ => 2

/-- A buffered action as it is performed at commit: a store goes where its pages then translate to. -/
def State.atCommit (s : State) (ctx : Nat) : Action → Action
  | .store va keys bs tag => .store va ((s.storeKeys ctx va bs.length).getD keys) bs tag
  | a => a

/-- Every page of the buffered stores translates still. -/
def State.storesReach (s : State) (ctx : Nat) (as : List Action) : Bool :=
  as.all (fun a => match a with
    | .store va _ bs _ => (s.storeKeys ctx va bs.length).isSome
    | _ => true)

/-- Where stores go, as one write of several runs. -/
def storeRuns (as : List Action) : List (Nat × Nat) :=
  as.flatMap (fun a => match a with
    | .store _ keys _ _ => keys
    | _ => [])

def State.performEach (s : State) (n ctx : Nat) (as : List Action) : State := as.foldl (fun s a => s.perform n ctx a) s

/-- The three steps of R187, the stores as one write where they replace a check word together (R379). -/
def State.performAll (s : State) (n ctx : Nat) (as : List Action) : State :=
  let stores := (as.filter (fun a => actionStep a == 1)).map (s.atCommit ctx)
  let s1 := (s.performEach n ctx stores).cleanseRuns (storeRuns stores)
  (s1.performEach n ctx (as.filter (fun a => actionStep a == 2))).performEach n ctx (as.filter (fun a => actionStep a == 3))

/-- The 64-byte lines of an address range, by number. -/
def linesOf (va n : Nat) : List Nat := (blocksOf 64 va n).map (fun b => b / 64)

/-- The lines a firing's buffered stores lie in: its write set (R188). -/
def writeLines (as : List Action) : List Nat :=
  as.flatMap (fun a => match a with
    | .store va _ bs _ => linesOf va bs.length
    | _ => [])

/-- The task-line bytes of buffered actions: 64 for each line and message, 16 for each record (R191). -/
def taskBytes (as : List Action) : Nat :=
  64 * (writeLines as).eraseDups.length +
  (as.map (fun a => match a with
    | .store _ _ _ _ => 0
    | .send _ => 64
    | _ => 16)).foldl (· + ·) 0

/-! ## Removing firings (R163, R171, R189) -/

/-- Same firing: serials are unique within a partition (R162). -/
def FiringId.same (a b : FiringId) : Bool := a.serial == b.serial && quadOf a.tile == quadOf b.tile

def LiveFiring.id (l : LiveFiring) : FiringId := { tile := l.tile, serial := l.f.serial }

/-- A register set freed (R164, R189). -/
def RegSet.freed : RegSet := RegSet.reset

/-- A set that its firing leaves. The errors in its registers go with what it held, and owe their records (R379). -/
def RegSet.free (r : RegSet) : RegSet := { RegSet.freed with owed := r.owed ++ r.bad }

def keepsSerial (serial : Nat) (r : RegSet) : Bool :=
  match r.fir with
  | some f => f.serial != serial
  | none => true

/-- A firing taken out of its place, with its register set or saved image (R189, R283). A decode table that is still outstanding
goes with its other results: R189 discards them and lets only the tables that have taken effect stand. DESIGN CHOICE, log 92. -/
def TileCtx.removeFiring (x : TileCtx) (serial : Nat) : TileCtx :=
  { x with
    normal := if keepsSerial serial x.normal then x.normal else x.normal.free
    urgent := if keepsSerial serial x.urgent then x.urgent else x.urgent.free
    saved := x.saved.filter (fun r => keepsSerial serial r.2)
    ended := x.ended.filter (fun f => f.serial != serial) }

/-- The copies and awaited completion messages of a firing take its fate (R253, R259, R267). -/
def settleCopy (id : FiringId) (fate : PushFate) (detach : Bool) (k : Copy) : Copy :=
  match k.pusher with
  | some i => if i.same id then 
      { k with fate := fate, detached := k.detached || detach, byEnd := k.byEnd || (detach && fate == .settled) } else k
  | none => k

def State.settleCopies (s : State) (n ctx : Nat) (id : FiringId) (fate : PushFate) (detach : Bool) : State :=
  let t := s.tile n
  let s1 := s.setTile n { t with slots := t.slots.map (fun o => o.map (settleCopy id fate detach)) }
  let x := s1.tctxOf n ctx
  let mine := x.compMsgs.filter (fun q => q.1.same id)
  let s2 := s1.setTctxOf n ctx
    { x with copies := x.copies.map (settleCopy id fate detach)
             compMsgs := x.compMsgs.filter (fun q => !q.1.same id) }
  if fate = .settled then mine.foldl (fun s q => s.send q.2) s2 else s2

/-- Messages back at the heads of their queues, consumed ones ahead of popped ones (R163). -/
def TileCtx.requeue (x : TileCtx) (f : Firing) (l : List (Nat × Msg)) : TileCtx :=
  l.reverse.foldl (fun x q =>
    let tag := portTag f.image.port q.1
    let e := x.entry tag
    x.setEntry tag { e with queue := q.2 :: e.queue }) x

/-- Everything that a firing took or was owed. -/
def Firing.holds (f : Firing) : List (Nat × Msg) := f.origin.consumed ++ f.popped ++ f.owed

/-- What the rerun starts from, recovering where this attempt or an earlier one consumed poison (R383): the first 16 claims and the journal go back to it (R174, R194, R223). -/
def Firing.forRerun (f : Firing) (recover : Bool) : Firing :=
  { f with off := 0, outputs := 0, pinned := false, recovering := f.recovering || recover, actions := [], reads := []
           replay := (f.replay.take f.claimed ++ f.claims ++ f.replay.drop f.claimed).take 16
           popped := f.popped ++ f.owed, owed := [], claims := [], claimed := 0
           journalIn := f.journalIn.take f.journaled ++ f.journal ++ f.journalIn.drop f.journaled
           journal := [], journaled := 0, term := none, chains := 0 }

/-- The event record of a firing of a context that Contrail holds on its tile (R322). -/
def State.note (s : State) (n c : Nat) (f : Firing) (k : FireEvent) : State :=
  if (s.tctxOf n c).dbg then
    { s with events := s.events ++ [{ kind := k, tile := n, ctx := c, ts := f.ts, serial := f.serial, time := s.clk }] }
  else s

/-- The task lines of a firing are dropped, with the poison in them (R381). -/
def State.dropLines (s : State) (l : LiveFiring) : State :=
  if s.poison.isEmpty then s
  else { s with poison := s.poison.filter (fun w => keyKind w != keyKind (keyTask l.tile l.f.serial 0)) }

/-- Firings that are saved or aborted hold no sweep open any more (R115). -/
def State.leaveSweeps (s : State) (ids : List FiringId) : State :=
  if s.sweeps.isEmpty then s
  else { s with sweeps := s.sweeps.map (fun w => { w with firings := w.firings.filter (fun i => !ids.any (fun j => i.same j)) }) }

/-- One firing aborted (R189): removed with its set, and no sweep waits for it any more (R115). Its messages return, held for its rerun unless its parent's abort
took it, and a firing made from PEND alone sets PEND again with its own PTS, PWID and slot, whatever request has come
since (R163; DESIGN CHOICE, log 68). -/
def State.abortOne (s : State) (l : LiveFiring) (rerun recover : Bool) : State :=
  let t := s.tile l.tile
  let x := (s.tctxOf l.tile l.ctx).removeFiring l.f.serial
  let x1 := match l.f.origin.pend, l.f.origin.consumed with
    | some (ts, wid, slot), [] =>
      let e := x.entry l.f.tag
      x.setEntry l.f.tag { e with pend := true, pts := ts, pwid := wid, pslot := slot }
    | _, _ => x
  let x2 := if rerun then
      { x1 with reruns := x1.reruns ++ [{ tag := l.f.tag, rank := t.readyCtr, firing := l.f.forRerun recover }] }
    else x1.requeue l.f l.f.holds
  let s1 := ((s.dropLines l).leaveSweeps [l.id]).setTile l.tile { t with readyCtr := t.readyCtr + 1 }
  (((s1.setTctxOf l.tile l.ctx x2).settleCopies l.tile l.ctx l.id .aborted true).rankReady l.tile l.ctx).note l.tile l.ctx l.f
    .aborted

/-- The tasks in deques that a firing forked are removed (R171). -/
def State.dropTasks (s : State) (id : FiringId) : State :=
  { s with tiles := Map.mapKV (fun _ t => { t with deque := t.deque.filter (fun k => !k.parent.same id) }) s.tiles }

/-- A firing forked by another. -/
def isChild (id : FiringId) (f : Firing) : Bool :=
  match f.parent with
  | some q => q.same id
  | none => false

/-- The reruns owed to a firing's forked children are not made, and their messages stand in their queues again (R171). -/
def TileCtx.dropReruns (x : TileCtx) (id : FiringId) : TileCtx :=
  let mine := x.reruns.filter (fun r => isChild id r.firing)
  if mine.isEmpty then x
  else mine.foldl (fun x r => x.requeue r.firing r.firing.holds)
    { x with reruns := x.reruns.filter (fun r => !isChild id r.firing) }

/-- The same on every tile of the partition; entries that the messages make ready take their places (R164). -/
def State.dropReruns (s : State) (p : Nat) (id : FiringId) : State :=
  let hit := s.tiles.flatMap (fun t =>
    if quadOf t.1 = p then (t.2.ctxs.filter (fun q => q.2.reruns.any (fun r => isChild id r.firing))).map (fun q => (t.1, q.1)) else [])
  hit.foldl (fun s h => (s.setTctxOf h.1 h.2 ((s.tctxOf h.1 h.2).dropReruns id)).rankReady h.1 h.2) s

/-- The forked work of a firing is removed, children and their children in turn (R171). The fuel counts generations. -/
def State.abortForks : Nat → State → FiringId → State
  | 0, s, _ => s
  | fuel + 1, s, id =>
    let s1 := (s.dropTasks id).dropReruns (quadOf id.tile) id
    ((s1.live (quadOf id.tile)).filter (fun l => isChild id l.f && !l.f.pinned)).foldl
      (fun s l => State.abortForks fuel (s.abortOne l false false) l.id) s1

/-- How many generations of forks there can be: every live firing may descend from another. -/
def State.generations (s : State) (p : Nat) : Nat := (s.live p).length + 1

/-- A speculative firing is aborted (R189). -/
def State.abort (s : State) (l : LiveFiring) (recover : Bool) : State :=
  let s1 := s.abortOne l true recover
  State.abortForks (s.generations (quadOf l.tile)) s1 l.id

/-! ## Conflicts and commit (R187, R188, R190) -/

/-- The speculative firings whose read sets a write by w into lines meets (R188). -/
def State.readers (s : State) (p asid : Nat) (w : FiringId) (lines : List Nat) : List LiveFiring :=
  if lines.isEmpty then []
  else (s.live p).filter (fun l =>
    !l.f.pinned && !l.id.same w && (s.info l.ctx).asid == asid && l.f.reads.any (fun x => lines.contains x))

/-- The readers that a writer aborts (R188). A reader that an earlier abort of the same list took is gone. -/
def State.abortReaders (s : State) (p : Nat) (ls : List LiveFiring) : State :=
  ls.foldl (fun s l =>
    match (s.live p).find? (fun g => g.id.same l.id) with
    | some g => s.abort g false
    | none => s) s

/-- A direct store of a pinned firing, or an engine's on its behalf, to lines of an address space (R188, R198). -/
def State.directWrite (s : State) (n ctx : Nat) (w : FiringId) (lines : List Nat) : State :=
  let p := quadOf n
  s.abortReaders p (s.readers p (s.info ctx).asid w lines)

/-- The poison of a firing's task lines (R381). -/
def State.taskPoison (s : State) (l : LiveFiring) : Option Nat :=
  s.poison.find? (fun w => keyKind w == keyKind (keyTask l.tile l.f.serial 0))

/-- A speculative firing that has consumed a poisoned word at an address: a record of class 0x12, and its abort (R381). -/
def State.rerunFor (s : State) (l : LiveFiring) (va key : Nat) : State :=
  (s.postError (some l.ctx) (s.errorAt clsRerun l.tile l.ctx key va)).abort l true

/-- The outcome of a firing's commit of its buffer: it is aborted by poison in its task lines (R381) or by an earlier reader
(R188), or its actions are performed, the readers later than it aborted, and the floor raised. It is aborted too where a page
of its stores no longer translates (R329), so that nothing goes to a frame that may be another's; its rerun meets the fault at
the store. DESIGN CHOICE, log 82. -/
def State.commitBuffer (s : State) (l : LiveFiring) : State × Bool :=
  let p := quadOf l.tile
  let hit := s.readers p (s.info l.ctx).asid l.id (writeLines l.f.actions)
  match s.taskPoison l with
  | some key => (s.rerunFor l (addrOf key) key, false)
  | none =>
  if hit.any (fun g => g.f.earlier l.f) || !s.storesReach l.ctx l.f.actions then (s.abort l false, false)
  else
    let s1 := s.abortReaders p hit
    ((s1.performAll l.tile l.ctx l.f.actions).raiseFloor p l.f.ts, true)

/-- Every earlier live firing of the partition is pinned (R192). -/
def State.earlierPinned (s : State) (p : Nat) (f : Firing) : Bool :=
  (s.live p).all (fun l => l.f.pinned || !l.f.earlier f)

/-- Step 1 of R192 is over for a firing. -/
def State.mayPin (s : State) (n : Nat) (f : Firing) : Bool :=
  let p := quadOf n
  s.horizon p == f.ts && s.earlierPinned p f

/-- The running firing as a live one. -/
def State.self (s : State) (f : Firing) : LiveFiring :=
  { tile := s.cur.tile, ctx := s.ctxn, place := .set s.cur.set, f := f }

/-! ## Pair checks (R385 to R388) -/

/-- The partner of a tile that is the primary of a pair (R385). -/
def State.partner (s : State) (n : Nat) : Option Nat :=
  match (s.tile n).pair with
  | some q => if n < q then some q else none
  | none => none

/-- A tile that is the partner in a pair: it runs what the primary forwards, and nothing else (R385). -/
def State.isPartner (s : State) (n : Nat) : Bool :=
  match (s.tile n).pair with
  | some q => decide (q < n)
  | none => false

/-- A pair is dissolved. -/
def State.dissolve (s : State) (n : Nat) : State :=
  match (s.tile n).pair with
  | some q =>
    let s1 := s.setTile n { s.tile n with pair := none, mirror := [] }
    s1.setTile q { s1.tile q with pair := none, mirror := [] }
  | none => s

/-- Both fingerprints restart (R386). -/
def State.restartPrints (s : State) (n q : Nat) : State :=
  let s1 := s.setTile n { s.tile n with fprint := 0 }
  s1.setTile q { s1.tile q with fprint := 0 }

/-- The record of a pair's disagreement; the address field names both tiles (R388). -/
def State.pairRecord (s : State) (n q ctx cls : Nat) : ErrRec :=
  { cls := cls, unit := 0x01, part := quadOf n, who := ctx, syn := 5, addr := n + q * 2 ^ 12, frame := 0
    pc := portable s.reg.pcc.addr }

/-- A firing in its place changed. -/
def changeFiring (serial : Nat) (g : Firing → Firing) (f : Firing) : Firing := if f.serial = serial then g f else f

def RegSet.onFiring (r : RegSet) (serial : Nat) (g : Firing → Firing) : RegSet := { r with fir := r.fir.map (changeFiring serial g) }

def TileCtx.onFiring (x : TileCtx) (serial : Nat) (g : Firing → Firing) : TileCtx :=
  { x with normal := x.normal.onFiring serial g, urgent := x.urgent.onFiring serial g
           saved := x.saved.map (fun r => (r.1, r.2.onFiring serial g)), ended := x.ended.map (changeFiring serial g) }

def State.onFiring (s : State) (l : LiveFiring) (g : Firing → Firing) : State :=
  s.setTctxOf l.tile l.ctx ((s.tctxOf l.tile l.ctx).onFiring l.f.serial g)

/-- A comparison of a live firing's pair: it agrees, or the firing is aborted or given to Halo (R388). -/
def State.comparePair (s : State) (l : LiveFiring) : State × Bool :=
  match s.partner l.tile with
  | none => (s, true)
  | some q =>
    let same := (s.tile l.tile).fprint == (s.tile q).fprint
    let s1 := s.restartPrints l.tile q
    if same then (s1, true)
    else if !l.f.pinned && !l.f.disagreed then
      ((s1.postError (some l.ctx) (s.pairRecord l.tile q l.ctx clsPair)).abort { l with f := { l.f with disagreed := true } } false,
        false)
    else
      (((s1.postError (some l.ctx) (s.pairRecord l.tile q l.ctx clsPairStop)).dissolve l.tile).onFiring l
        (fun f => { f with term := some Code.dataPair }), false)

/-- A chain that a comparison precedes (R387). -/
def afterCompare (c : Bool) (s : State) (body : State → Res) : Res :=
  match s.fir with
  | some f =>
    if c then
      match s.comparePair (s.self f) with
      | (s1, true) => body s1
      | (s1, false) => .gone s1
    else body s
  | none => body s

/-! ## Pinning (R191, R192) -/

/-- What pinning the running firing comes to: nothing to do, not yet, aborted or taken by Halo at step 2, or done
(R192). -/
inductive PinRes where
  | pinned (s : State)
  | wait
  | aborted (s : State)

def State.tryPin (s : State) : PinRes :=
  match s.fir with
  | none => .pinned s
  | some f =>
    if f.pinned then .pinned s
    else if !s.mayPin s.cur.tile f then .wait
    else
      match s.comparePair (s.self f) with
      | (s0, false) => .aborted s0
      | (s0, true) =>
        match s0.commitBuffer (s0.self f) with
        | (s1, false) => .aborted s1
        | (s1, true) =>
          let s2 := s1.setFir { f with pinned := true, actions := [], reads := [] }
          .pinned (s2.settleCopies s2.cur.tile s2.ctxn { tile := s2.cur.tile, serial := f.serial } .settled false)

/-- A chain that pins before it performs anything (R192). -/
def afterPin (s : State) (body : State → Res) : Res :=
  match s.tryPin with
  | .pinned s1 => body s1
  | .wait => .hold s
  | .aborted s1 => .gone s1

/-- A chain that pins only when a condition of R191 holds. -/
def pinIf (c : Bool) (s : State) (body : State → Res) : Res := if c then afterPin s body else body s

/-- The running firing is speculative. -/
def State.speculative (s : State) : Bool :=
  match s.fir with
  | some f => !f.pinned
  | none => false

/-- The task-line bytes that a context's live firings hold on a tile (R191). -/
def State.taskUse (s : State) (n c : Nat) : Nat :=
  ((((s.tctxOf n c).live n c).filter (fun l => !l.f.pinned)).map (fun l => taskBytes l.f.actions)).foldl (· + ·) 0

/-- Actions added to the running firing's task lines fit (R191). -/
def State.fits (s : State) (as : List Action) : Bool :=
  match s.fir with
  | some f =>
    decide (s.taskUse s.cur.tile s.ctxn - taskBytes f.actions + taskBytes (f.actions ++ as) ≤ 32768)
  | none => true

/-- Actions that a pair compares before (R387): global writes and messages. -/
def compared (as : List Action) : Bool := as.any (fun a => actionStep a != 2)

/-- Granules of the running firing's task lines that stores replace whole are poisoned no more (R379). -/
def State.cleanseLines (s : State) (serial : Nat) (as : List Action) : State :=
  s.cleanseRuns (as.flatMap (fun a => match a with
    | .store va _ data _ => [(keyTask s.cur.tile serial va, data.length)]
    | _ => []))

/-- Actions of the running firing: buffered while it is speculative and they fit, performed at issue when it is
pinned; adding what does not fit pins it first (R191, R192). A pinned firing's direct stores meet the read sets of
R188. -/
def act (s : State) (as : List Action) (k : State → Res) : Res :=
  let direct (s : State) : Res :=
    match s.fir with
    | some f =>
      afterCompare (compared as) s (fun s =>
        let s1 := s.directWrite s.cur.tile s.ctxn { tile := s.cur.tile, serial := f.serial } (writeLines as)
        k ((s1.performEach s1.cur.tile s1.ctxn as).cleanseRuns (storeRuns as)))
    | none => k ((s.performEach s.cur.tile s.ctxn as).cleanseRuns (storeRuns as))
  if s.speculative && s.fits as then
    match s.fir with
    | some f => k ((s.cleanseLines f.serial as).setFir { f with actions := f.actions ++ as })
    | none => k s
  else afterPin s direct

/-- Lines read from committed state on behalf of the running firing join its read set (R188). -/
def State.noteReads (s : State) (lines : List Nat) : State :=
  match s.fir with
  | some f => if f.pinned then s else s.setFir { f with reads := (f.reads ++ lines).eraseDups }
  | none => s

end Sys2Proof.Machine
end

