-- ==== Sys2Proof/Machine/Errors.lean ====
section
/-! DEFINITION. Machine/Errors.lean: what consuming a poisoned word does (R380 to R384). -/

namespace Sys2Proof.Machine

/-! ## What is read -/

/-- The address of a word that no address names: beyond all that do, and 0 as TADDR. -/
def noAddr : Nat := 2 ^ 64

/-- A range that a chain or an engine reads: address as the program names it, key, length. bad marks a word whose error is
kept where it lies, as a message's or a copy slot's is. -/
structure Seen where
  va  : Nat
  key : Nat
  n   : Nat
  bad : Bool := false
  deriving DecidableEq, Repr

/-- The lowest poisoned address of a range, with its key. -/
def State.badIn (s : State) (r : Seen) : Option (Nat × Nat) :=
  if r.bad then some (r.va, r.key) else (s.poisoned r.key r.n).map (fun k => (r.va + (k - r.key), k))

/-- The lower of two places. -/
def lower (a b : Option (Nat × Nat)) : Option (Nat × Nat) :=
  match a, b with
  | some x, some y => if y.1 < x.1 then some y else some x
  | some x, none => some x
  | none, b => b

/-- The lowest poisoned address among ranges read, with its key (R382). -/
def State.poisonIn (s : State) : List Seen → Option (Nat × Nat)
  | [] => none
  | r :: rs => lower (s.badIn r) (s.poisonIn rs)

/-! ## Machine checks (R384) -/

/-- The firings whose state a word holds: of the context whose save area, scratchpad image or share of cluster memory it lies
in, or of the register set, matrix unit, Cirrus state or task lines that it is of. -/
def State.firingsAt (s : State) (key : Nat) : List LiveFiring :=
  let on (n c : Nat) : List LiveFiring := ((s.tile n).live n).filter (fun l => l.ctx == c)
  let o := key % 2 ^ 64
  let loaded (n : Nat) : List LiveFiring := match (s.tile n).loaded with
    | some c => on n c
    | none => []
  match keyKind key with
  | 0 => s.tiles.flatMap (fun t => t.2.ctxs.flatMap (fun q =>
      if q.2.saveAddr ≤ key ∧ key < q.2.saveAddr + saveAreaSize then on t.1 q.1 else []))
  | 2 => on (o / 2 ^ 18 % 4096) (o / 2 ^ 18 / 4096)
  | 3 =>
    let k := o / 2 ^ 22
    (s.cluster k).shares.flatMap (fun q =>
      if q.2.cmemOff ≤ o % 2 ^ 22 ∧ o % 2 ^ 22 < q.2.cmemOff + q.2.cmemLen then (clusterTiles k).flatMap (fun n => on n q.1) else [])
  | 8 =>
    let n := o / 65536 / 4
    (loaded n).filter (fun l => l.place == .set (if o / 65536 % 4 = 0 then .urgent else .normal))
  | 9 => on (o / 2 ^ 31) (o / 2 ^ 19 % 4096)
  | 11 => on (o / 2 ^ 32) (o / 2 ^ 20 % 4096)
  | kind =>
    if 2 ^ 20 ≤ kind then
      let n := kind % 4096
      ((s.tile n).live n).filter (fun l => l.f.serial == (kind - 2 ^ 20) / 4096)
    else []

/-- An error that Halo or a pager firing has consumed: Halo takes the machine check next. -/
def State.raiseCheck (s : State) (key : Nat) : State := { s with checks := s.checks ++ [key] }

/-! ## Consumption (R380 to R384) -/

/-- The current chain has consumed a poisoned word: a speculative firing is aborted and its rerun will be recovering, a
pinned one takes DATA.UNC, and so do a pager firing and Halo, for which a machine check goes to Halo. DEDUCED, log 87. -/
def State.badRead (s : State) (va key : Nat) : Res :=
  let trap (s : State) : Res := .trap s Code.dataUnc (BitVec.ofNat 64 va)
  if s.cur.set = .keeper ∨ s.isPager s.cur.tile s.ctxn then trap (s.raiseCheck key)
  else match s.fir with
    | some f => if f.pinned then trap s else .gone (s.rerunFor (s.self f) va key)
    | none => trap s

/-- A chain that consumes ranges. -/
def consume (rs : List Seen) (s : State) (body : State → Res) : Res :=
  match s.poisonIn rs with
  | none => body s
  | some (va, key) => s.badRead va key

end Sys2Proof.Machine
end

