-- ==== Sys2Proof/Machine/Access.lean ====
section
/-! DEFINITION. Machine/Access.lean: the checks before an access (R118, R120, R124), page faults (R331, R332), and what
reads and writes of each space do (R121, R187, R196). -/

namespace Sys2Proof.Machine

/-! ## Effective addresses (R107, R123) -/

/-- The offset of the memory layout: the immediate prefixes or s[X] (R35, R122). -/
def State.offset (s : State) (p : Pfx) (m : MemOp) : Word :=
  if m.regOff then s.s p.x else wordOfInt p.immM

/-- a = (c.ADDR + off + step) mod 2^64. -/
def State.effective (s : State) (p : Pfx) (m : MemOp) (step : Nat) : Nat :=
  ((s.c m.cap).addrW + s.offset p m + BitVec.ofNat 64 step).toNat

/-! ## The checks of R124 -/

/-- What an access is, for the last table of R124. -/
inductive Use where
  | load | vload | store | storeWide | vstore | scatter | wsq | atomic | update | sync | syncInit | capLoad | capStore
  deriving DecidableEq, Repr

/-- The instruction may reach the space (R124, R132). The weight store is refused later, by MEM.WSRO. -/
def Use.reaches (u : Use) : Space → Bool
  | .void => false
  | .inbox => u == .load || u == .vload || u == .capLoad
  | .window => u == .storeWide || u == .vstore
  | .wstore => u != .update && u != .sync && u != .syncInit
  | .global => u != .wsq && u != .sync && u != .syncInit
  | .cmem => u != .wsq && u != .update && u != .sync && u != .syncInit
  | _ => u != .wsq && u != .update

def Use.writes : Use → Bool
  | .load => false | .vload => false | .wsq => false | .capLoad => false | .sync => false
  | _ => true

/-- An access before its space is known: n bytes from a, ta being the effective address that a fault reports. align is
its fixed alignment, and vec makes that alignment apply outside scratchpad only; stride is that of R128; cap is the
value of a `c.st`. -/
structure Access where
  via    : Cap
  a      : Nat
  ta     : Nat
  n      : Nat
  need   : BitVec 12
  align  : Nat
  vec    : Bool
  stride : Int
  use    : Use
  scope  : Scope
  cap    : Option Cap
  deriving DecidableEq, Repr

/-- An access at its effective address with neither stride nor capability. -/
def Access.at (via : Cap) (a n : Nat) (need : BitVec 12) (align : Nat) (use : Use) (scope : Scope) : Access :=
  { via := via, a := a, ta := a, n := n, need := need, align := align, vec := false, stride := 0, use := use
    scope := scope, cap := none }

/-- Where an access that passed its checks goes: the space, the offset there, and its pieces of memory, none in the
inbox and command windows. -/
structure Spot where
  space  : Space
  off    : Nat
  pieces : List Piece
  deriving DecidableEq, Repr

/-- The outcome of the checks: a spot, a fault with its address, or a fault for the pager (R331). -/
inductive Look where
  | ok (sp : Spot)
  | bad (code : BitVec 16) (ta : Nat)
  | page (cause level va : Nat)
  deriving DecidableEq, Repr

/-- Scopes wider than cluster (R52). -/
def scopeWide : Scope → Bool
  | .partition => true | .device => true | .system => true
  | _ => false

/-- Steps 2 and 3 of R124: alignment, and a space that holds every byte and that the instruction may reach. -/
def Access.shape (x : Access) (sp : Space) (off : Nat) : Option (BitVec 16) :=
  if (x.a % x.align != 0 || x.stride % x.align != 0) && !(x.vec && sp.scratchTile.isSome) then some Code.memAlign
  else if sp = .void || !x.use.reaches sp || decide (spaceSize sp < off + x.n) then some Code.memSpace
  else none

/-- Step 4: a remote scratchpad (R120). -/
def State.remoteFault (s : State) (tile ctx : Nat) (sp : Space) : Option (BitVec 16) :=
  match sp with
  | .remote t =>
    if t = tile then none
    else if !s.tileExists t then some Code.memNotile
    else if !s.imageAt t ctx then some Code.memAway
    else none
  | _ => none

/-- The format of the bank that a scratchpad offset lies in, for a context's image on a tile (R63). -/
def State.bankFmt (s : State) (tile ctx off : Nat) : Nat :=
  ((s.tctxOf tile ctx).bankfmt[off / 32768 % 8]'(Nat.mod_lt _ (by decide))).toNat % 8

/-- The format of a spot: F32 outside scratchpad (R64). -/
def State.fmtAt (s : State) (ctx : Nat) (sp : Space) (off : Nat) : Nat :=
  match sp.scratchTile with
  | some t => s.bankFmt t ctx off
  | none => 0

/-- Step 7: a formatted access of n bytes at a scratchpad offset (R65). -/
def formatFault (fmt off n : Nat) (stride : Int) : Option (BitVec 16) :=
  let o := off % 32768
  let g := if fmt = fmtT8B then 4 else elemWidth fmt
  if off % g != 0 || stride % g != 0 || decide (32768 < o + n) then some Code.memAlign
  else if fmt = fmtT8B && decide (0x6000 < o + n) then some Code.memFmt
  else none

/-- Step 8: the tag checks of `c.st` in a local space (R110). -/
def capFault (own : Bool) (sp : Space) (x : Cap) : Option (BitVec 16) :=
  if !x.tag then none
  else if sp = .wstore || sp = .inbox || sp = .window then some Code.capNotag
  else if !x.has permGL && !own then some Code.capLocal
  else none

/-- Whose accesses never produce a message: pager firings and Halo (R333). -/
def State.answersItself (s : State) : Bool := s.cur.set == .keeper || s.isPager s.cur.tile s.ctxn

/-- What an outcome of R328 becomes for a tile's access (R331, R333). -/
def State.lookOf (s : State) (x : XRes) (va ta : Nat) : Look :=
  match x with
  | .pager cause level => if s.answersItself then .bad Code.xlPage ta else .page cause level va
  | .fault code _ => .bad code ta
  | .ok _ _ => .bad Code.xlPage ta

/-- The permission a walk tests (R328). -/
def Access.want (x : Access) : Want :=
  match x.use with
  | .atomic => .atomic
  | .update => .atomic
  | .capStore => match x.cap with
    | some c => if c.tag then .cap else .wr
    | none => .wr
  | u => if u.writes then .wr else .rd

/-- Step 9, and the spot (R124, R328). -/
def State.locate (s : State) (x : Access) (sp : Space) (off : Nat) : Look :=
  match sp with
  | .global =>
    match s.translateAll (s.info s.ctxn) x.want (pagePieces x.a x.n) with
    | .ok ps => .ok { space := sp, off := off, pieces := ps }
    | .error (e, va) => s.lookOf e va x.ta
  | .inbox => .ok { space := sp, off := off, pieces := [] }
  | .window => .ok { space := sp, off := off, pieces := [] }
  | _ => .ok { space := sp, off := off
               pieces := [{ va := x.a, key := localKey s.cur.tile s.ctxn sp off, n := x.n, tag := sp != .wstore }] }

/-- The first fault of a list of checks. -/
def firstFault : List (Option (BitVec 16)) → Option (BitVec 16)
  | [] => none
  | some e :: _ => some e
  | none :: es => firstFault es

/-- Steps 2 to 8 of R124, after CheckAccess; fmt is the format of step 7 where the access is formatted. -/
def State.spaceFault (s : State) (x : Access) (fmt : Option Nat) : Option (BitVec 16) :=
  let q := spaceOf s.cur.tile x.a
  let sp := q.1
  let own := sp.scratchTile == some s.cur.tile
  firstFault
    [ x.shape sp q.2,
      s.remoteFault s.cur.tile s.ctxn sp,
      if scopeWide x.scope && sp.scratchTile.isSome then some Code.memScope else none,
      if x.use.writes && sp == .wstore then some Code.memWsro else none,
      (match fmt with
        | some f => if sp.scratchTile.isSome then formatFault f q.2 x.n x.stride else none
        | none => none),
      (match x.cap with
        | some c => capFault own sp c
        | none => none) ]

/-- Step 9 for an access that passed the others. -/
def State.lookup (s : State) (x : Access) : Look :=
  let q := spaceOf s.cur.tile x.a
  s.locate x q.1 q.2

/-- Steps 2 to 9 of R124. -/
def State.checkSpace (s : State) (x : Access) (fmt : Option Nat) : Look :=
  match s.spaceFault x fmt with
  | some e => .bad e x.ta
  | none => s.lookup x

/-- All of R124. -/
def State.look (s : State) (x : Access) (fmt : Option Nat) : Look :=
  match x.via.checkAccess x.a x.n x.need with
  | some e => .bad e x.ta
  | none => s.checkSpace x fmt

/-! ## Page faults (R331, R332) -/

/-- The pager tile that a faulting tile's message goes to (R331). -/
def State.pagerTile (s : State) (n : Nat) : Nat :=
  let p := quadOf n
  let t0 := partTile p (s.part p).pager0
  let t1 := partTile p (s.part p).pager1
  let first := partIdx n % 2 = 0
  let c := if first then t0 else t1
  if s.tileExists c then c else if first then t1 else t0

/-- The pager context of a partition: the supervisor context resident on its pager tile (R331, R333). -/
def State.pagerCtx (s : State) (n : Nat) : Nat :=
  match (s.tile n).ctxs.find? (fun q => (s.info q.1).priv == .supervisor) with
  | some q => q.1
  | none => 0

/-- The fault message (R331). -/
def State.faultMsg (s : State) (n ctx ts : Nat) (wid : Word) (va handle cause level : Nat) (write tag copy : Bool) : Msg :=
  let dst := s.pagerTile n
  { ts := ts, src := n, knd := 5, urg := true, tag := 0xFFF, wid := wid
    payload := [BitVec.ofNat 64 va, BitVec.ofNat 64 handle,
      BitVec.ofNat 64 (cause + bit write * 16 + bit tag * 32 + bit copy * 64 + level * 256 +
        (s.info ctx).asid % 4096 * 2 ^ 32 + ctx * 2 ^ 48), 0, 0, 0]
    ctx := s.pagerCtx dst, dst := dst, slot := none }

/-- A tile handle (R331). -/
def tileHandle (n : Nat) (k : SetId) (count : Nat) : Nat :=
  n + bit (k == .urgent) * 2 ^ 12 + 2 ^ 15 + count % 2 ^ 32 * 2 ^ 16

/-- An access that meets cause 1 or 2: the message leaves, the set parks at the chain's start (R332). -/
def State.pageFault (s : State) (cause level va : Nat) (write tag : Bool) : State :=
  let r := s.reg
  let t := s.tile s.cur.tile
  let urgent := s.cur.set == .urgent
  let count := ((if urgent then t.faultsU else t.faultsN) + 1) % 2 ^ 32
  let s := s.setTile s.cur.tile (if urgent then { t with faultsU := count } else { t with faultsN := count })
  let ts := match r.fir with | some f => f.ts | none => 0
  let wid := match r.fir with | some f => f.wid | none => 0
  let s1 := s.setReg { r with pageWait := some { count := count, va := va, reply := none } }
  s1.send (s.faultMsg s.cur.tile s.ctxn ts wid va (tileHandle s.cur.tile s.cur.set count) cause level write tag false)

/-- An ordering modifier that takes effect at partition scope or wider merges the tile's held updates (R212). -/
def State.mergeOrdered (s : State) (p : Pfx) (global : Bool) : State :=
  if p.order != .relaxed && (scopeWide p.scope || (p.scope == .dflt && global)) then s.mergeTile s.cur.tile none else s

/-- An access reaches its memory: leases are granted (R329) and held updates there merge first (R212). -/
def State.reach (s : State) (p : Pfx) (ps : List Piece) : State :=
  ((s.leaseAll (s.info s.ctxn) ps).mergeRanges (ps.map (fun q => (q.key, q.n)))).mergeOrdered p (!ps.isEmpty)

/-- An update joins those that the tile holds: it reaches no memory yet, so that nothing merges but by its order (R212). -/
def State.reachHeld (s : State) (p : Pfx) (ps : List Piece) : State :=
  (s.leaseAll (s.info s.ctxn) ps).mergeOrdered p (!ps.isEmpty)

/-- The pieces of a spot that translation gave. -/
def Spot.globals (sp : Spot) : List Piece := if sp.space = .global then sp.pieces else []

/-- A chain performed at the spot its checks find, in the state in which its access gets there. -/
def atLook (l : Look) (write tag : Bool) (s : State) (enter : List Piece → State) (body : Spot → State → Res) : Res :=
  match l with
  | .bad e ta => .trap s e (BitVec.ofNat 64 ta)
  | .page c lv va => .hold (s.pageFault c lv va write tag)
  | .ok sp => body sp (enter sp.globals)

/-- A chain performed at the spot its checks find. -/
def atSpot (p : Pfx) (l : Look) (write tag : Bool) (s : State) (body : Spot → State → Res) : Res :=
  atLook l write tag s (s.reach p) body

/-! ## The inbox window (R162, R163) -/

/-- H0 (R159). -/
def Msg.h0 (m : Msg) : Nat :=
  m.ts % 2 ^ 32 * 2 ^ 32 + m.src % 2 ^ 12 * 2 ^ 20 + m.knd % 16 * 2 ^ 16 + bit m.urg * 2 ^ 14 + m.tag % 2 ^ 12

/-- The 64 bytes of a message (R159). -/
def Msg.bytes (m : Msg) : List Byte :=
  toBytes 8 m.h0 ++ toBytes 8 m.wid.toNat ++ m.payload.flatMap (fun w => toBytes 8 w.toNat)

/-- The messages that made the firing, by port (R162); a task is a firing's single message (R171). -/
def State.consumed (s : State) : List (Nat × Msg) :=
  match s.fir with
  | some f =>
    match f.origin.task with
    | some m => [(0, m)]
    | none => f.origin.consumed
  | none => []

/-- One byte of the inbox window: port i's message j stands at 0x400 i + 64 j; all else is zero (R162). -/
def inboxByte (c : List (Nat × Msg)) (o : Nat) : Byte :=
  if 0x1000 ≤ o then 0
  else match ((c.filter (fun q => q.1 == o / 0x400)).map (fun q => q.2))[o % 0x400 / 64]? with
    | some m => m.bytes.getD (o % 64) 0
    | none => 0

def State.inboxBytes (s : State) (off n : Nat) : List Byte :=
  let c := s.consumed
  (List.range n).map (fun i => inboxByte c (off + i))

/-! ## Reading -/

/-- The memory key of the issuing context (R364). -/
def State.keyId (s : State) : Nat := (s.info s.ctxn).keyId

/-- One buffered store laid over bytes read at va (R121). -/
def overlay (va : Nat) (bs : List Byte) (sva : Nat) (data : List Byte) : List Byte :=
  if sva + data.length ≤ va ∨ va + bs.length ≤ sva then bs
  else (List.range bs.length).map (fun i =>
    if sva ≤ va + i then (match data[va + i - sva]? with | some b => b | none => bs.getD i 0) else bs.getD i 0)

/-- The buffered stores of the running firing, in issue order. -/
def State.buffer (s : State) : List Action :=
  match s.fir with
  | some f => f.actions
  | none => []

/-- Bytes at a virtual address with the firing's own buffered stores on top (R121). -/
def overlayAll (va : Nat) (as : List Action) (bs : List Byte) : List Byte :=
  as.foldl (fun bs a => match a with
    | .store sva _ data _ => overlay va bs sva data
    | _ => bs) bs

/-- Byte i of n at va is covered by a buffered store. -/
def covered (as : List Action) (a : Nat) : Bool :=
  as.any (fun x => match x with
    | .store sva _ data _ => decide (sva ≤ a) && decide (a < sva + data.length)
    | _ => false)

/-- The runs of one piece that come from committed state: byte by byte where the firing has buffered stores. -/
def committedRuns (as : List Action) (p : Piece) : List Seen :=
  if as.any (fun x => match x with
      | .store sva _ data _ => decide (sva < p.va + p.n) && decide (p.va < sva + data.length)
      | _ => false) then
    ((List.range p.n).filter (fun i => !covered as (p.va + i))).map
      (fun i => { va := p.va + i, key := p.key + i, n := 1 })
  else [{ va := p.va, key := p.key, n := p.n }]

/-- The bytes of a spot as the firing reads them. -/
def State.readSpot (s : State) (sp : Spot) (n : Nat) : List Byte :=
  match sp.space with
  | .inbox => s.inboxBytes sp.off n
  | .global => sp.pieces.flatMap (fun p => overlayAll p.va s.buffer (s.readBytes s.keyId p.key p.n))
  | _ => sp.pieces.flatMap (fun p => s.readBytes s.keyId p.key p.n)

/-- What a read of a spot takes from memory (R188, R380), and from the tile's own L1 where that holds an error (R377). -/
def State.seenAt (s : State) (sp : Spot) : List Seen :=
  match sp.space with
  | .global => sp.pieces.flatMap (fun p =>
      let runs := committedRuns s.buffer p
      if keyKind p.key = 0 ∧ !s.poison.isEmpty then runs ++ runs.map (fun r => { r with key := keyL1 s.cur.tile r.key }) else runs)
  | _ => sp.pieces.map (fun p => { va := p.va, key := p.key, n := p.n })

/-- What a read of pieces takes from the firing's own task lines (R121, R380). -/
def State.taskSeen (s : State) (sp : Spot) : List Seen :=
  match sp.space, s.fir with
  | .global, some f => f.actions.flatMap (fun a => match a with
    | .store sva _ data _ => sp.pieces.flatMap (fun p =>
        let lo := max p.va sva
        let hi := min (p.va + p.n) (sva + data.length)
        if lo < hi then [{ va := lo, key := keyTask s.cur.tile f.serial lo, n := hi - lo : Seen }] else [])
    | _ => [])
  | _, _ => []

/-- What a read of the inbox window takes from slots with an error (R377). -/
def State.inboxSeen (s : State) (sp : Spot) (n : Nat) : List Seen :=
  match sp.space with
  | .inbox =>
    let c := s.consumed
    (blocksOf 64 sp.off n).flatMap (fun o =>
      match ((c.filter (fun q => q.1 == o / 0x400)).map (fun q => q.2))[o % 0x400 / 64]? with
      | some m => if o < 0x1000 then
          (m.bad.filter (fun w => decide (sp.off < o + 8 * w + 8) && decide (o + 8 * w < sp.off + n))).map (fun w =>
            { va := loc + 0x80000 + max (o + 8 * w) sp.off, key := keyInbox s.cur.tile s.ctxn m.tag (o % 0x400 / 64) w, n := 1
              bad := true : Seen })
        else []
      | none => [])
  | _ => []

/-- The lines that a read of a global spot adds to the read set (R188). -/
def State.linesRead (s : State) (sp : Spot) : List Nat :=
  match sp.space with
  | .global => (s.seenAt sp).flatMap (fun r => linesOf r.va r.n)
  | _ => []

/-- A read of a spot: poison first (R381, R382), then the bytes, with the lines noted (R188). Accesses of one tile to the
same bytes are performed in issue order (R137): each is performed whole as its chain is. -/
def readAt (sp : Spot) (n : Nat) (s : State) (body : List Byte → State → Res) : Res :=
  consume (s.seenAt sp ++ s.taskSeen sp ++ s.inboxSeen sp n) s (fun s => body (s.readSpot sp n) (s.noteReads (s.linesRead sp)))

/-- The weight-store banks that a span of n bytes lies in (R133). -/
def banksOf (tile off n : Nat) : List Nat := (blocksOf (2 ^ 24) off n).map (fun b => quadOf tile * 16 + b / 2 ^ 24 % 16)

/-- The weight-store banks that a result of n bytes waits for while one of them is in refresh (R133). -/
def Spot.banks (sp : Spot) (tile n : Nat) : List Nat :=
  if sp.space = .wstore then banksOf tile sp.off n else []

/-! ## Writing -/

/-- The runs of buffered or direct stores that pieces make. -/
def storesOf : List Piece → List Byte → Bool → List Action
  | [], _, _ => []
  | p :: ps, bs, tag => .store p.va [(p.key, p.n)] (bs.take p.n) tag :: storesOf ps (bs.drop p.n) tag

/-- A local granule written with its tag, through the filter (R110, R112). -/
def State.writeLocalCap (s : State) (key : Nat) (x : Cap) : State :=
  s.writeCap s.keyId key (s.filterCap s.ctxn x)

/-- A store of bytes to a spot (R121): local spaces at once, the global range by the firing. A tag goes with a whole
granule. Accesses of one tile to the same bytes are performed in issue order (R137). -/
def writeAt (sp : Spot) (bs : List Byte) (tag : Bool) (s : State) (body : State → Res) : Res :=
  match sp.space with
  | .global => act s (storesOf sp.pieces bs tag) body
  | _ =>
    match sp.pieces with
    | p :: _ =>
      if tag then body (s.writeLocalCap p.key (Cap.ofBytes true (ofBytes bs)))
      else body (s.writeBytes s.keyId p.key bs)
    | [] => body s

/-! ## Orders (R196, R200) -/

def releases : Order → Bool
  | .rel => true | .ar => true | _ => false

/-- The firing holds a task-line entry. -/
def State.holdsTaskLines (s : State) : Bool := !s.buffer.isEmpty

/-- A posted write of a firing. -/
def Posted.ownedBy (q : Posted) (id : FiringId) : Bool :=
  match q.owner with
  | some i => i.same id
  | none => false

def State.selfId (s : State) : FiringId :=
  { tile := s.cur.tile, serial := match s.fir with | some f => f.serial | none => 0 }

def State.portState (s : State) (p : Nat) : PortState := Map.get s.ports p .down

/-- PORTS of the status word: one bit for each port that posted writes went to (R200). -/
def portMask (l : List Posted) : Nat :=
  ((List.range 18).map (fun p => if l.any (fun q => q.port == p) then 2 ^ p else 0)).foldl (· + ·) 0

/-- What WaitPosted comes to: it waits, or ends with a status word (R200). -/
inductive PostedRes where
  | wait
  | over (s : State) (st : Word)

/-- WaitPosted (R200). The writes of a port that has gone down (R351) are declared lost once nothing else of the firing's
is outstanding. -/
def State.waitPosted (s : State) : PostedRes :=
  let mine := s.posted.filter (fun q => q.ownedBy s.selfId)
  if mine.isEmpty then .over s 0
  else if mine.all (fun q => q.lost) then
    .over { s with posted := s.posted.filter (fun q => !q.ownedBy s.selfId) } (BitVec.ofNat 64 (2 ^ 63 + portMask mine))
  else .wait

/-- A release of system scope before its write: held, LINK.DOWN with nothing written, or on (R200). -/
def afterPosted (s : State) (body : State → Res) : Res :=
  match s.waitPosted with
  | .wait => .hold s
  | .over s1 st => if st = 0 then body s1 else .trap s1 Code.linkDown 0

/-- A releasing write (R191, R196): it pins first when the firing holds task lines and the release is on a local space
or by an atomic, and waits for posted writes at system scope, which only the global range has. -/
def afterRelease (p : Pfx) (pins global : Bool) (s : State) (body : State → Res) : Res :=
  if !releases p.order then body s
  else pinIf (pins && s.holdsTaskLines) s (fun s =>
    if p.scope = .system && global then afterPosted s body else body s)

end Sys2Proof.Machine
end

