-- ==== Sys2Proof/Machine/Area.lean ====
section
/-! DEFINITION. Machine/Area.lean: the image that a save area holds of a context on a tile (R280, R301). Where the manual gives
a section its place and its contents, the order of the fields inside it is the model's. DESIGN CHOICE, log 75. -/

namespace Sys2Proof.Machine

/-- One datum of an image: its offset, its bytes, and the tag of the granule it fills. -/
structure Datum where
  off   : Nat
  bytes : List Byte
  tag   : Bool
  deriving DecidableEq, Repr

abbrev Image := List Datum

/-- A number, a capability, a run of numbers of one width. -/
def datum (off width v : Nat) : Datum := { off := off, bytes := toBytes width v, tag := false }
def capDatum (off : Nat) (c : Cap) : Datum := { off := off, bytes := toBytes 16 c.bits.toNat, tag := c.tag }
def datums (off width : Nat) (vs : List Nat) : Image := (indexed vs).map (fun q => datum (off + width * q.1) width q.2)
def capsAt (off : Nat) (cs : List Cap) : Image := (indexed cs).map (fun q => capDatum (off + 16 * q.1) q.2)

/-- An image moved up. -/
def Image.at_ (im : Image) (off : Nat) : Image := im.map (fun d => { d with off := off + d.off })

/-- A number that may be absent, as one more than it. -/
def optNat : Option Nat → Nat
  | some v => v + 1
  | none => 0

/-! ## Sections -/

/-- A loop stack in 64 bytes. -/
def loopImage (off : Nat) (l : List LoopEntry) : Image :=
  (indexed (l.take 4)).flatMap (fun q =>
    [datum (off + 16 * q.1) 4 q.2.start, datum (off + 16 * q.1 + 4) 4 q.2.stop, datum (off + 16 * q.1 + 8) 8 q.2.count.toNat])

/-- Which launch slot, entry and serial number a firing has (R162, R180). -/
def Firing.imageAt (f : Firing) : Image :=
  [datum 0xE0 8 f.ts, datum 0xE8 8 f.wid.toNat, datum 0xF0 4 f.off, datum 0xF4 2 f.outputs, datum 0xF6 2 (optNat f.slot),
    datum 0xF8 8 (f.serial * 2 ^ 16 + bit f.pinned * 2 ^ 12 + f.tag % 4096)]

/-- What a set holds beside its registers, at +0x200. -/
def RegSet.control (r : RegSet) : Image :=
  [datum 0x00 8 (bit r.flags.z + bit r.flags.n * 2 + bit r.flags.c * 4 + bit r.flags.v * 8)] ++
    loopImage 0x10 r.loops ++ loopImage 0x50 r.savedLoops ++
    [datum 0x90 8 (r.rcnt.done.toNat * 2 ^ 16 + r.rcnt.remain.toNat), capDatum 0xA0 r.epcc, capDatum 0xB0 r.pcc,
      datum 0xC0 8 (bit r.inTrap), datum 0xC8 8 r.fcode.toNat, datum 0xD0 8 r.fmask.toNat, datum 0xD8 8 r.taddr.toNat] ++
    (match r.fir with
      | some f => f.imageAt
      | none => [])

/-- A set image of 1 KiB. -/
def RegSet.image (r : RegSet) : Image :=
  datums 0 8 (r.s.toList.map BitVec.toNat) ++ capsAt 0x100 r.c.toList ++ Image.at_ r.control 0x200 ++
    datums 0x300 8 (r.k.toList.map BitVec.toNat) ++
    datums 0x340 8 (r.tokens.toList.map (fun t => t.cnt % 2 ^ 32 + t.stat.toNat * 2 ^ 32))

/-- v0 to v31 in 8 KiB. -/
def RegSet.vectors (r : RegSet) : Image :=
  (indexed r.v.toList).flatMap (fun q => datums (256 * q.1) 4 (q.2.toList.map BitVec.toNat))

/-- The status word (R298). -/
def Solve.status (v : Solve) : Word :=
  BitVec.ofNat 64 (v.cepoch.toNat * 2 ^ 32 + bit v.active * 2 ^ 31 + bit v.scope * 2 ^ 30 + bit v.rel * 2 ^ 29 +
    bit v.contrib * 2 ^ 28 + bit v.shape * 2 ^ 27 + bit v.prev * 2 ^ 26 + v.ntm1 % 4 * 2 ^ 24 + v.depth % 16 * 2 ^ 20 +
    v.fill % 16 * 2 ^ 16 + v.head % 16 * 2 ^ 12 + v.drops % 16 * 2 ^ 8 + bit v.held)

/-- The solve section (R301). -/
def Solve.image (v : Solve) : Image :=
  let held := v.result.getD (0, 0, [])
  [datum 0x00 8 v.status.toNat, datum 0x08 8 v.desc0.toNat, datum 0x10 8 v.desc1.toNat, datum 0x18 4 v.slvk.toNat, datum 0x1C 4 v.itceil.toNat,
    datum 0x20 4 v.tol.toNat, datum 0x24 4 v.damp.toNat, datum 0x28 4 v.lambda.toNat, datum 0x2C 4 v.start,
    capDatum 0x30 v.tileCap, capDatum 0x40 v.histCap, datum 0x50 4 v.nrm.toNat, datum 0x54 4 v.ngm.toNat, datum 0x58 4 v.thr.toNat,
    datum 0x5C 4 v.cseq] ++ datums 0x60 4 (v.gammas.map BitVec.toNat) ++
    [datum 0x80 8 (held.1 % 4 + held.2.1 % 16 * 2 ^ 8)] ++ datums 0x88 4 (held.2.2.map BitVec.toNat)

def PlaneClass.code : PlaneClass → Nat
  | .f16 => 0 | .f8 => 1 | .int => 2

/-- The control words of the matrix state at +0x5600, its queue, staging, planes and held arrivals: of an MROT's A span all 2 KiB,
of its plane the class and the values for which the 4 KiB of +0xD000 have room beside it. -/
def Matrix.image (m : Matrix) : Image :=
  [datum 0x5600 8 (bit m.aclsInt + bit m.empty * 2), datum 0x5610 1 m.active.cls.code, datum 0x5611 1 m.shadow.cls.code, datum 0x5618 4 m.mrnd,
    datum 0x5620 1 (bit m.nbrCls), datum 0x5628 4 m.done] ++
    (indexed (m.queue.take 16)).flatMap (fun q => datums (0x6000 + 64 * q.1) 8
      [q.2.opc + q.2.rnd * 2 ^ 8 + bit q.2.ws * 2 ^ 11, q.2.addr, q.2.wfmt * 2 ^ 18 + q.2.pitch, q.2.step]) ++
    m.staging.map (fun q => datum (0x7000 + q.1) 1 q.2.toNat) ++
    datums 0x8000 4 (m.active.vals.map BitVec.toNat) ++ datums 0xA000 4 (m.shadow.vals.map BitVec.toNat) ++
    m.arrA.flatMap (fun q => [datum 0xD900 8 (q.1 + 2 ^ 32)] ++ datums 0xD000 1 ((q.2.take 0x800).map BitVec.toNat)) ++
    m.arrP.flatMap (fun q => [datum 0xD908 8 (q.1 + 2 ^ 32 + q.2.cls.code * 2 ^ 40)] ++ datums 0xD910 4 ((q.2.vals.take 0x1BC).map BitVec.toNat))

/-- acc at +0xC000. -/
def Matrix.accImage (m : Matrix) : Image := datums 0xC000 4 (m.acc.map BitVec.toNat)

/-- The handle of a copy (R257): its push count modulo 2^32. -/
def Copy.handle (k : Copy) (n : Nat) : Nat := n + k.home * 2 ^ 12 + k.push % 2 ^ 32 * 2 ^ 16

/-- A saved copy's portable form in 128 bytes (R260). -/
def Copy.image (k : Copy) (handle : Nat) : Image :=
  [capDatum 0x00 k.src, capDatum 0x10 k.dst, datum 0x20 8 k.w2.toNat, datum 0x28 8 k.w2b.toNat, datum 0x30 8 k.w3.toNat, datum 0x38 8 k.w3b.toNat,
    datum 0x40 8 k.ts, datum 0x48 8 k.wid.toNat, datum 0x50 8 handle, datum 0x58 2 (optNat k.slot),
    datum 0x5A 1 (match k.set with | .normal => 0 | .urgent => 1 | .keeper => 2), datum 0x60 4 k.row, datum 0x64 4 k.done,
    datum 0x68 8 (optNat k.fault)]

/-- The handle of a set (R332), for the page fault of a count. -/
def setHandle (n : Nat) (urgent : Bool) (count : Nat) : Nat := n + bit urgent * 2 ^ 12 + 2 ^ 15 + count % 2 ^ 32 * 2 ^ 16

/-- The resume packets that a saved context holds (R257, R332): handle and value of each. -/
def TileCtx.heldPackets (x : TileCtx) (n : Nat) : List (Nat × Nat) :=
  let of (urgent : Bool) (r : RegSet) : List (Nat × Nat) :=
    match r.pageWait with
    | some w => (w.reply.map (fun v => (setHandle n urgent w.count, v))).toList
    | none => []
  x.copies.flatMap (fun k => (k.reply.map (fun v => (k.handle n, v))).toList) ++ of false x.normal ++ of true x.urgent

/-- A task-line entry of a buffered action (R187): its kind in bits 63:60 of the first doubleword, then its fields; a store's are its
address, its length and tag, its bytes. -/
def Action.line : Action → Image
  | .store va _ data tag => [datum 0 8 va, datum 8 8 (data.length + bit tag * 2 ^ 63), { off := 16, bytes := data, tag := tag }]
  | .send m =>
    [datum 0 8 (2 ^ 60 + m.tag + bit m.urg * 2 ^ 12 + m.dst * 2 ^ 16 + m.ctx * 2 ^ 32), datum 8 8 (m.ts + optNat m.slot * 2 ^ 32),
      datum 16 8 m.wid.toNat] ++ datums 24 8 (m.payload.map BitVec.toNat)
  | .setEn tag en => [datum 0 8 (2 * 2 ^ 60 + tag + bit en * 2 ^ 12)]
  | .pend tag ts wid slot => [datum 0 8 (3 * 2 ^ 60 + tag), datum 8 8 (ts + optNat slot * 2 ^ 32), datum 16 8 wid.toNat]
  | .clearPend tag => [datum 0 8 (4 * 2 ^ 60 + tag)]
  | .arm n isJoin sv payload wid ts slot =>
    [datum 0 8 (5 * 2 ^ 60 + n + bit isJoin * 2 ^ 12), datum 8 8 (ts + optNat slot * 2 ^ 32), datum 16 8 wid.toNat,
      datum 24 8 sv.toNat] ++ datums 32 8 (payload.map BitVec.toNat)
  | .join n ts => [datum 0 8 (6 * 2 ^ 60 + n), datum 8 8 ts]

/-- A firing's task-line entries, then its read set and its write set, laid one after another from an offset. -/
def Firing.taskImage (f : Firing) (off : Nat) : Image × Nat :=
  let r := (f.actions.map Action.line).foldl (fun (a : Image × Nat) im =>
    (a.1 ++ Image.at_ im a.2, a.2 + 16 + (im.foldl (fun n d => max n (d.off + d.bytes.length)) 0 + 15) / 16 * 16)) ([], off)
  let sets := f.reads.length :: f.reads ++ (writeLines f.actions).length :: writeLines f.actions
  (r.1 ++ datums r.2 8 sets, r.2 + (8 * sets.length + 15) / 16 * 16)

/-- The task lines of the firings of a saved context, within their 64 KiB. -/
def taskLines (fs : List Firing) : Image :=
  ((fs.foldl (fun (a : Image × Nat) f => let r := f.taskImage a.2; (a.1 ++ r.1, r.2)) ([], 0x50000)).1).filter
    (fun d => decide (d.off + d.bytes.length ≤ 0x60000))

/-- The firing slots, four of each class, 10 KiB each. -/
def firingSlots (saved : List (Nat × RegSet)) : Image :=
  let of (urgent : Bool) := (saved.filter (fun q => (match q.2.fir with | some f => f.urgent | none => false) == urgent)).take 4
  let lay (base : Nat) (l : List (Nat × RegSet)) : Image :=
    (indexed l).flatMap (fun q => Image.at_ (q.2.2.image ++ Image.at_ q.2.2.vectors 0x400) (base + 0x2800 * q.1))
  lay 0x60000 (of false) ++ lay 0x6A000 (of true)

/-- The firings whose task lines an area holds. -/
def TileCtx.areaFirings (x : TileCtx) : List Firing :=
  x.normal.fir.toList ++ x.urgent.fir.toList ++ x.saved.filterMap (fun q => q.2.fir) ++ x.ended

/-- The whole image of a context on a tile but for acc and the scratchpad (R280). -/
def TileCtx.image (x : TileCtx) (n : Nat) (tvec : Cap) (m : Matrix) : Image :=
  [datum 0x00 8 (bit x.prq * 2 + bit x.dbg * 4), datum 0x08 8 x.kbudget, datum 0x10 8 x.kgrace, capDatum 0x40 tvec] ++
    Image.at_ x.normal.image 0x100 ++ Image.at_ x.urgent.image 0x500 ++
    (indexed x.mail.toList).flatMap (fun q => [datum (0x900 + 16 * q.1) 8 q.2.value.toNat,
      datum (0x908 + 16 * q.1) 8 (bit q.2.presence + bit q.2.overrun * 2)]) ++
    datums 0xB00 1 (x.bankfmt.toList.map BitVec.toNat) ++
    (indexed (x.copies.take 8)).flatMap (fun q => Image.at_ (q.2.image (q.2.handle n)) (0xC00 + 128 * q.1)) ++
    Image.at_ x.normal.vectors 0x1000 ++ Image.at_ x.urgent.vectors 0x3000 ++
    datums 0xD800 8 (((x.heldPackets n).take 16).flatMap (fun q => [q.1, q.2])) ++
    datums 0x5000 4 (x.table.map BitVec.toNat) ++ Image.at_ x.solve.image 0x5400 ++ m.image ++
    taskLines x.areaFirings ++ firingSlots x.saved

/-! ## The area in memory -/

/-- An image's data that are not zero, written under the ephemeral key (R31, R280). -/
def State.storeImage (s : State) (base : Nat) (im : Image) : State :=
  (im.filter (fun d => d.tag || d.bytes.any (fun b => b != 0))).foldl (fun s d =>
    let a := base + d.off
    let s1 := s.writeBytes deviceKey a d.bytes
    if d.tag then { s1 with tags := Keys.insert s1.tags a } else s1) s

/-- A scratchpad image as the area holds it, with its tags. -/
def State.scratchImage (s : State) (c n : Nat) : Image :=
  let lo := keyScratch c n 0
  let inside (a : Nat) : Bool := decide (lo ≤ a) && decide (a < lo + 2 ^ 18)
  (s.mem.filter (fun q => inside q.1)).map (fun q => { off := 0x10000 + (q.1 - lo), bytes := [q.2], tag := false : Datum }) ++
    (s.tags.filter inside).map (fun g => { off := 0x10000 + (g - lo), bytes := s.readBytes deviceKey g 16, tag := true : Datum })

/-- A context's image on a tile, with acc where asked. -/
def State.contextImage (s : State) (n c : Nat) (acc : Bool) : Image :=
  let x := s.tctxOf n c
  let m := if (s.tile n).accown.toNat % 2 ^ 16 = 0x8000 + c % 4096 then (s.tile n).matrix else x.matrix
  let tvec := match Map.get? s.contexts c with
    | some k => k.tvec
    | none => Cap.null
  x.image n tvec m ++ (if acc then m.accImage else []) ++ s.scratchImage c n

/-- The save area of a context on a tile takes its image; acc's section stays as it is (R281, R284). -/
def State.writeSaveArea (s : State) (n c : Nat) : State :=
  let a := (s.tctxOf n c).saveAddr
  ((s.clearKeys a 0xC000).clearKeys (a + 0xD000) (saveAreaSize - 0xD000)).storeImage a (s.contextImage n c false)

/-- The acc section, with ACLS and EMPTY (R285). -/
def State.writeAccArea (s : State) (n c : Nat) (m : Matrix) : State :=
  let a := (s.tctxOf n c).saveAddr
  ((s.clearKeys (a + 0xC000) 0x1000).clearKeys (a + 0x5600) 16).storeImage a
    (m.accImage ++ [datum 0x5600 8 (bit m.aclsInt + bit m.empty * 2)])

/-- The 464 KiB of an image as bytes, and its tagged granules: what a checkpoint takes of an area (R374). -/
def Image.laid (im : Image) : List Byte × List Nat :=
  let m := im.foldl (fun m d => Memory.writeBytes m d.off d.bytes) []
  (Memory.readBytes m 0 saveAreaSize, (im.filter (fun d => d.tag)).foldl (fun ts d => Keys.insert ts d.off) [])

/-! ## Reading an image back (R375) -/

/-- A run of fields of an image's bytes. -/
def fields (bs : List Byte) (off width n : Nat) : List Nat := (List.range n).map (fun i => fieldAt bs (off + width * i) width)

def lanesOf (bs : List Byte) (off n : Nat) : List Lane := (fields bs off 4 n).map (BitVec.ofNat 32)

/-- A plane of an image. -/
def planeOf (bs : List Byte) (cls off : Nat) : Plane :=
  { cls := match fieldAt bs cls 1 with | 0 => .f16 | 1 => .f8 | _ => .int, vals := lanesOf bs off 2048 }

/-- The matrix state of an image, its queue empty. -/
def matrixOf (bs : List Byte) : Matrix :=
  { Matrix.reset with
    active := planeOf bs 0x5610 0x8000, shadow := planeOf bs 0x5611 0xA000, acc := lanesOf bs 0xC000 1024
    aclsInt := (fieldAt bs 0x5600 1).testBit 0, empty := (fieldAt bs 0x5600 1).testBit 1, mrnd := fieldAt bs 0x5618 4
    nbrCls := (fieldAt bs 0x5620 1).testBit 0, done := fieldAt bs 0x5628 4
    staging := (indexed ((bs.drop 0x7000).take 4096)).filter (fun q => q.2 != 0) }

/-- The solve state of an image, its capabilities by their granules. -/
def solveOf (bs : List Byte) (capAt : Nat → Cap) : Solve :=
  let o := 0x5400
  let w := fieldAt bs o 8
  let lane (a : Nat) : Lane := BitVec.ofNat 32 (fieldAt bs (o + a) 4)
  let held := fieldAt bs (o + 0x80) 8
  { Solve.reset with
    cepoch := BitVec.ofNat 32 (w / 2 ^ 32), active := w.testBit 31, scope := w.testBit 30, rel := w.testBit 29
    contrib := w.testBit 28, shape := w.testBit 27, prev := w.testBit 26, ntm1 := bitsOf w 24 2, depth := bitsOf w 20 4
    fill := bitsOf w 16 4, head := bitsOf w 12 4, drops := bitsOf w 8 4, held := w.testBit 0
    desc0 := BitVec.ofNat 64 (fieldAt bs (o + 8) 8), desc1 := BitVec.ofNat 64 (fieldAt bs (o + 0x10) 8), slvk := lane 0x18
    itceil := lane 0x1C, tol := lane 0x20, damp := lane 0x24, lambda := lane 0x28, start := fieldAt bs (o + 0x2C) 4
    tileCap := capAt (o + 0x30), histCap := capAt (o + 0x40), nrm := lane 0x50, ngm := lane 0x54, thr := lane 0x58
    cseq := fieldAt bs (o + 0x5C) 4, gammas := lanesOf bs (o + 0x60) 8
    result := if held % 4 = 0 then none else some (held % 4, bitsOf held 8 4, lanesOf bs (o + 0x88) 8) }

/-- What an area restored gives a context on a tile on which none of its firings is live: mailboxes, bank formats, decode
table, solve and matrix state, budget. -/
def TileCtx.ofImage (x : TileCtx) (bs : List Byte) (capAt : Nat → Cap) : TileCtx :=
  { x with
    kbudget := fieldAt bs 0x08 8, kgrace := fieldAt bs 0x10 8
    mail := tabulate 32 (fun i => { value := BitVec.ofNat 64 (fieldAt bs (0x900 + 16 * i) 8)
                                    presence := (fieldAt bs (0x908 + 16 * i) 1).testBit 0, overrun := (fieldAt bs (0x908 + 16 * i) 1).testBit 1 })
    bankfmt := tabulate 8 (fun i => BitVec.ofNat 8 (fieldAt bs (0xB00 + i) 1))
    table := (fields bs 0x5000 4 256).map (BitVec.ofNat 19), solve := solveOf bs capAt, matrix := matrixOf bs }

end Sys2Proof.Machine
end

