-- ==== Sys2Proof/Machine/MatrixQ.lean ====
section
/-! DEFINITION. Machine/MatrixQ.lean: the matrix unit's owner (R227, R284), commands and their checks (R229, R232, R233),
the queue and the command window (R230). -/

namespace Sys2Proof.Machine

/-! ## Whose state the unit holds (R226, R227, R284) -/

/-- ACCOWN names a context. -/
def ownedBy (w : BitVec 16) (ctx : Nat) : Bool := w.getLsbD 15 && w.toNat % 4096 == ctx

/-- The matrix state of a context on a tile, in the unit or saved. -/
def State.mtxOf (s : State) (n ctx : Nat) : Matrix :=
  if ownedBy (s.tile n).accown ctx then (s.tile n).matrix else (s.tctxOf n ctx).matrix

def State.setMtxOf (s : State) (n ctx : Nat) (m : Matrix) : State :=
  if ownedBy (s.tile n).accown ctx then s.setTile n { s.tile n with matrix := m }
  else s.setTctxOf n ctx { s.tctxOf n ctx with matrix := m }

/-- ACC.FIRST, taken by Halo (R227, R284): the owner's state goes to its save area with its queue stopped at its step,
and the new context's comes in. -/
def State.accFirst (s : State) (n ctx : Nat) : State :=
  let t := s.tile n
  if ownedBy t.accown ctx then s
  else
    let s1 := if t.accown.getLsbD 15 then
        let o := t.accown.toNat % 4096
        (s.setTctxOf n o { s.tctxOf n o with matrix := { t.matrix with stopped := true } }).writeAccArea n o t.matrix
      else s
    let m := { (s1.tctxOf n ctx).matrix with stopped := false }
    s1.setTile n { s1.tile n with matrix := m, accown := BitVec.ofNat 16 (0x8000 + ctx % 4096), idle := false }

/-- A first use (R227): every page 6 chain and window store. -/
def firstUse (s : State) (body : State → Res) : Res := body (s.accFirst s.cur.tile s.ctxn)

/-- The issuing context's matrix state, once ACCOWN names it. -/
def State.mtx (s : State) : Matrix := s.mtxOf s.cur.tile s.ctxn
def State.setMtx (s : State) (m : Matrix) : State := s.setMtxOf s.cur.tile s.ctxn m

/-! ## Commands (R229) -/

/-- The opcodes. -/
def opLds : Nat := 1
def opSwap : Nat := 2
def opStr : Nat := 3
def opMrot : Nat := 4
def opRd : Nat := 5
def opZero : Nat := 6
def opRdz : Nat := 7

/-- The words W0 to W3 of a command as submitted, and whether W4 to W7 are zero. -/
structure CmdWords where
  w0   : Nat
  w1   : Nat
  w2   : Nat
  w3   : Nat
  rest : Bool
  deriving DecidableEq, Repr

def CmdWords.opc (w : CmdWords) : Nat := w.w0 % 256
def CmdWords.rnd (w : CmdWords) : Nat := bitsOf w.w0 8 3
def CmdWords.ws (w : CmdWords) : Bool := w.w0.testBit 11
def CmdWords.addr (w : CmdWords) : Nat := w.w1 % 2 ^ 32
def CmdWords.wfmt (w : CmdWords) : Nat := bitsOf w.w2 18 3
def CmdWords.pitch (w : CmdWords) : Nat := bitsOf w.w2 0 18

/-- The command in 64 bytes. -/
def CmdWords.ofBytes (bs : List Byte) : CmdWords :=
  let w (i : Nat) : Nat := Machine.ofBytes ((bs.drop (8 * i)).take 8)
  { w0 := w 0, w1 := w 1, w2 := w 2, w3 := w 3, rest := (bs.drop 32).all (fun b => b == 0) }

/-- A command breaks a "must" of R229, or holds a reserved value. built marks one that an instruction builds. -/
def CmdWords.broken (w : CmdWords) (built : Bool) : Bool :=
  w.w0 / 2 ^ 12 != 0 || w.opc == 0 || decide (7 < w.opc) ||
  (w.ws && !(built && w.opc == opLds)) ||
  decide (5 < w.rnd) || (w.rnd != 0 && w.opc != opRd && w.opc != opRdz) ||
  w.w1 / 2 ^ 32 != 0 || w.w2 / 2 ^ 21 != 0 || (!w.ws && w.wfmt != 0) || w.w3 != 0 || !w.rest ||
  ((w.opc == opSwap || w.opc == opZero) && (w.w1 != 0 || w.w2 != 0))

/-! ## Operands (R226, R232) -/

/-- The class of the formats that matrix operands take. -/
def fmtClass (fmt : Nat) : Option PlaneClass :=
  if fmt = 1 ∨ fmt = 2 then some .f16 else if fmt = 3 ∨ fmt = 4 then some .f8 else if fmt = 6 then some .int else none

/-- K of a class. -/
def PlaneClass.k : PlaneClass → Nat
  | .f16 => 32
  | _ => 64

/-- NR and RB of an operand (R232); ws marks one in the weight store, where LDS does not take T8B. -/
def operandShape (opc fmt : Nat) (ws : Bool := false) : Nat × Nat :=
  if opc = opLds then
    match fmtClass fmt with
    | some c => (if ws && fmt == fmtT8B then 32 else c.k, 32 * elemWidth fmt)
    | none => (32, 32 * elemWidth fmt)
  else if opc = opStr ∨ opc = opMrot then (32, 64)
  else (32, 32 * elemWidth fmt)

/-- The pitch in force (R229). -/
def pitchOf (opc fmt pitch : Nat) : Nat := if pitch = 0 then (operandShape opc fmt).2 else pitch

/-- The length of a span (R232). -/
def spanLen (opc fmt pitch : Nat) (ws : Bool := false) : Nat :=
  ((operandShape opc fmt ws).1 - 1) * pitchOf opc fmt pitch + (operandShape opc fmt ws).2

def opReads (opc : Nat) : Bool := opc == opLds || opc == opStr || opc == opMrot
def opSpans (opc : Nat) : Bool := opc != opSwap && opc != opZero

/-! ## The state the queue will leave (R233) -/

/-- The classes that the queued commands will produce; accInt is none while acc will be EMPTY. -/
structure Predict where
  active : PlaneClass
  shadow : PlaneClass
  accInt : Option Bool
  deriving DecidableEq, Repr

def Predict.step (q : Predict) (c : MtxCmd) : Predict :=
  let cls := (fmtClass c.fmt).getD q.shadow
  if c.opc = opLds then { q with shadow := cls }
  else if c.opc = opSwap then { q with active := q.shadow, shadow := q.active }
  else if c.opc = opStr then { q with accInt := some (q.active == .int) }
  else if c.opc = opMrot then { q with accInt := some (q.active == .int), shadow := q.active }
  else if c.opc = opZero ∨ c.opc = opRdz then { q with accInt := none }
  else q

def Matrix.predict (m : Matrix) : Predict :=
  m.queue.foldl Predict.step
    { active := m.active.cls, shadow := m.shadow.cls, accInt := if m.empty then none else some m.aclsInt }

/-- Step 6 for a class (R233). -/
def Predict.accepts (q : Predict) (opc fmt : Nat) (ws : Bool) : Bool :=
  if opc = opLds then (fmtClass fmt).isSome && !(ws && fmt == fmtT8B)
  else if opc = opStr ∨ opc = opMrot then
    (match fmtClass fmt with
      | some c => c == q.active && (match q.accInt with
          | none => true
          | some i => i == (c == .int))
      | none => false) && !(opc == opMrot && fmt == fmtT8B)
  else true

/-! ## The torus (R237, R238) -/

def torNorth (w : Word) : Nat := bitsOf w.toNat 36 12
def torWest (w : Word) : Nat := bitsOf w.toNat 24 12
def torShape (w : Word) : Nat := bitsOf w.toNat 18 2

/-- The members of a fused shape from its lowest partition, row by row of the torus; empty where no edge is listed. -/
def fusedMembers (shape base : Nat) : List (List Nat) :=
  let q := base % 4
  let d := base / 4
  let eastDie := if d ≤ 3 ∨ (5 ≤ d ∧ d ≤ 8) then true else false
  match shape with
  | 1 =>
    if q = 0 ∨ q = 2 then [[base, base + 1]]
    else if eastDie then [[base, base + 3]] else []
  | 2 => if q = 0 ∨ q = 1 then [[base], [base + 2]] else []
  | 3 => if q = 0 then [[base, base + 1], [base + 2, base + 3]] else []
  | _ => []

/-- The shape of the torus that a partition's tiles are in, as TORCFG of its first tile has it (R238). -/
def State.torus (s : State) (p : Nat) : Nat := torShape (s.tile (partTile p 0)).torcfg

/-- A partition's place in its torus, in quadrants down and across. -/
def State.torusPlace (s : State) (p : Nat) : Nat × Nat :=
  let w := (s.tile (partTile p 0)).torcfg.toNat
  (bitsOf w 4 4 / 8, bitsOf w 0 4 / 8)

/-- The members of a partition's fused group: those of its torus, whatever PART registers have been written since. -/
def State.group (s : State) (p : Nat) : List Nat :=
  let at_ (b : Nat) : Option Nat := ((fusedMembers (s.torus p) b)[(s.torusPlace p).1]?).bind (fun r => r[(s.torusPlace p).2]?)
  match (List.range 40).find? (fun b => at_ b == some p) with
  | some b => (fusedMembers (s.torus p) b).flatten
  | none => [p]

/-- MTX.NBR (R237): a tile of the torus is absent, or a split of it is asked for. -/
def State.torusBroken (s : State) (n : Nat) : Bool :=
  (s.group (quadOf n)).any (fun p => (s.part p).split || !(((List.range 64).map (partTile p)).all s.tileExists))

/-! ## Checking (R233) -/

/-- Steps 3 to 7 of R233 for a command whose operand offset stands in a space; scr says that it is a scratchpad, own that
it is the tile's own, and ws the weight store. A submitted command with WS set names the weight store whatever its opcode,
so that step 5 refuses it (R241). DEDUCED, log 78. -/
def State.cmdFault (s : State) (q : Predict) (w : CmdWords) (built scr own ws : Bool) (fmt : Nat) : Option (BitVec 16) :=
  let len := spanLen w.opc fmt w.pitch ws
  let bank := if ws then 2 ^ 24 else 32768
  let size := if ws then 2 ^ 28 else 2 ^ 18
  let spans := opSpans w.opc && decide (1 ≤ w.opc) && decide (w.opc ≤ 7)
  firstFault
    [ if spans && (w.addr % 4 != 0 || w.pitch % 4 != 0 ||
          ((scr || ws) && decide (bank < w.addr % bank + len))) then some Code.memAlign else none,
      if spans && (!(own || (ws && (!built || w.opc == opLds))) || decide (size < w.addr + len)) then some Code.memSpace else none,
      if w.broken built then some Code.mtxCmd else none,
      if spans && (!q.accepts w.opc fmt ws ||
          (own && fmt == fmtT8B && decide (0x6000 < w.addr % 32768 + len))) then some Code.mtxFmt else none,
      if w.opc == opMrot && s.torusBroken s.cur.tile then some Code.mtxNbr else none ]

/-- The operand format of a command in the own scratchpad or, with WS, in the weight store (R233). -/
def State.cmdFmt (s : State) (w : CmdWords) (ws : Bool) : Nat :=
  if ws then w.wfmt else s.bankFmt s.cur.tile s.ctxn w.addr

def State.command (s : State) (w : CmdWords) (ws : Bool) : MtxCmd :=
  { opc := w.opc, rnd := w.rnd, ws := ws, addr := w.addr, wfmt := w.wfmt, pitch := w.pitch, step := 0
    fmt := if opSpans w.opc then s.cmdFmt w ws else 0
    owner := s.fir.map (fun f => { tile := s.cur.tile, serial := f.serial }) }

/-- Commands checked in order, each against the state that the queue and the ones before it will leave; the first fault
and the place of the command that failed (R230, R241). -/
def State.checkAll (s : State) : Predict → Nat → List CmdWords → Except (BitVec 16 × Nat) (List MtxCmd)
  | _, _, [] => .ok []
  | q, i, w :: ws =>
    match s.cmdFault q w false (!w.ws) (!w.ws && decide (w.addr < 2 ^ 18)) w.ws (s.cmdFmt w w.ws) with
    | some e => .error (e, i)
    | none =>
      let c := s.command w false
      match s.checkAll (q.step c) (i + 1) ws with
      | .ok l => .ok (c :: l)
      | .error e => .error e

/-- A t8.ld of the context on this tile has not yet taken effect (R71, R155). -/
def State.tablePending (s : State) : Bool :=
  let x := s.tctx
  let waits (r : RegSet) : Bool := r.pending.any (fun q => match q.res with | .table _ => true | _ => false)
  waits x.normal || waits x.urgent

/-- A chain that uses the decode table waits for a pending one (R155, R156, R230). -/
def afterTable (uses : Bool) (s : State) (body : State → Res) : Res :=
  if uses && s.tablePending then .hold s else body s

/-- Commands appended once the queue has room for all of them, else the chain holds (R230, R241). -/
def submit (cs : List MtxCmd) (s : State) (body : State → Res) : Res :=
  let m := s.mtx
  if 16 < m.queue.length + cs.length then .hold s
  else body (s.setMtx { m with queue := m.queue ++ cs })

/-! ## The command window (R230) -/

/-- Bytes laid into the staging slots. -/
def stageBytes (st : List (Nat × Byte)) (ws : List (Nat × Byte)) : List (Nat × Byte) :=
  ws.foldl (fun st w => Memory.write st w.1 w.2) st

/-- The slots whose byte 63 is written, ascending. -/
def submitted (ws : List (Nat × Byte)) : List Nat :=
  (List.range 64).filter (fun q => ws.any (fun w => w.1 == 64 * q + 63))

/-- Words of a context's matrix state on a tile, as a command reads them (R377): cnt of them from e on, of an array of
keyMtx. -/
def mtxSeen (n c i e cnt : Nat) : List Seen := [{ va := noAddr, key := keyMtx n c i e, n := 16 * cnt }]

/-- Words of the matrix state are replaced whole. -/
def State.mtxFresh (s : State) (n c i e cnt : Nat) : State :=
  s.cleanse (fun w => decide (keyMtx n c i e ≤ w) && decide (w < keyMtx n c i (e + cnt)))

/-- A store replaces staging word e whole. -/
def stagesWord (ws : List (Nat × Byte)) (e : Nat) : Bool := [0, 1, 2, 3].all (fun j => ws.any (fun x => x.1 == 4 * e + j))

/-- Staging words that a store replaces whole are poisoned no more (R379). -/
def State.stagedFresh (s : State) (ws : List (Nat × Byte)) : State :=
  s.cleanse (fun w => (List.range 1024).any (fun e => w == keyMtx s.cur.tile s.ctxn 4 e && stagesWord ws e))

/-- The staging words of a submitted slot that the store does not itself replace. -/
def stagedSeen (n c : Nat) (ws : List (Nat × Byte)) (slot : Nat) : List Seen :=
  (((List.range 16).map (fun j => 16 * slot + j)).filter (fun e => !stagesWord ws e)).flatMap (fun e => mtxSeen n c 4 e 1)

/-- A store's bytes go to the staging slots, and the slots it completes are submitted together (R230): the sequencer reads
their words (R380), and they are zero after. -/
def windowStore (ta : Nat) (ws : List (Nat × Byte)) (s : State) (body : State → Res) : Res :=
  firstUse s (fun s =>
    let slots := submitted ws
    consume (slots.flatMap (stagedSeen s.cur.tile s.ctxn ws)) s (fun s =>
    let m := s.mtx
    let st := stageBytes m.staging ws
    let cmds := slots.map (fun q => CmdWords.ofBytes (Memory.readBytes st (64 * q) 64))
    match s.checkAll m.predict 0 cmds with
    | .error (e, _) => .trap s e (BitVec.ofNat 64 ta)
    | .ok cs =>
      afterTable (!slots.isEmpty) s (fun s =>
        submit cs s (fun s =>
          let cleared := slots.foldl (fun st q => Memory.writeBytes st (64 * q) (List.replicate 64 0)) st
          body ((s.stagedFresh ws).setMtx { s.mtx with staging := cleared })))))

end Sys2Proof.Machine
end

