-- ==== Sys2Proof/Machine/Mem.lean ====
section
/-! DEFINITION. Machine/Mem.lean: page 2 and the capability accesses of page 1 (R109, R110, R122 to R134). -/

namespace Sys2Proof.Machine

/-! ## Scalar accesses (R126) -/

/-- A scalar access of n bytes at element k's address (R123). -/
def State.scalarAccess (s : State) (p : Pfx) (m : MemOp) (n k : Nat) (need_ : List Nat) (use : Use) : Access :=
  Access.at (s.c m.cap) (s.effective p m (k * n)) n (need need_) n use p.scope

/-- A load of n bytes whose result is made from their number (R126). -/
def loadScalar (p : Pfx) (d : BitVec 5) (m : MemOp) (n : Nat) (s : State) (f : Nat → Word) :
    Host.Outcome State Fault Refusal :=
  runRep p true 32 d 32 0 s (fun k d _ s =>
    atSpot p (s.look (s.scalarAccess p m n k [permLD] .load) none) false false s (fun sp s =>
      readAt sp n s (fun bs s => .done (s.pend (.s d (f (ofBytes bs))) (sp.banks s.cur.tile n)))))

/-- The bytes of a store to a spot: staging slots in the command window, else memory (R121, R230). -/
def putBytes (ta : Nat) (sp : Spot) (bs : List Byte) (s : State) (body : State → Res) : Res :=
  match sp.space with
  | .window => windowStore ta ((List.range bs.length).map (fun i => (sp.off + i, bs.getD i 0))) s body
  | _ => writeAt sp bs false s body

/-- A store of n bytes (R126). -/
def storeScalar (p : Pfx) (d : BitVec 5) (m : MemOp) (n : Nat) (use : Use) (s : State) :
    Host.Outcome State Fault Refusal :=
  runRep p true 32 d 32 0 s (fun k d _ s =>
    let x := s.scalarAccess p m n k [permST] use
    atSpot p (s.look x none) true false s (fun sp s =>
      afterRelease p (sp.space != .global) (sp.space == .global) s (fun s =>
        putBytes x.ta sp (toBytes n (s.s d).toNat) s (fun s => .done s))))

def signed (w : Nat) (n : Nat) : Word := (BitVec.ofNat w n).signExtend 64

def execLdW (p : Pfx) (d : BitVec 5) (m : MemOp) (s : State) : Host.Outcome State Fault Refusal :=
  loadScalar p d m 4 s (signed 32)
def execLdD (p : Pfx) (d : BitVec 5) (m : MemOp) (s : State) : Host.Outcome State Fault Refusal :=
  loadScalar p d m 8 s (BitVec.ofNat 64)
def execLdB (p : Pfx) (d : BitVec 5) (m : MemOp) (s : State) : Host.Outcome State Fault Refusal :=
  loadScalar p d m 1 s (signed 8)
def execLdH (p : Pfx) (d : BitVec 5) (m : MemOp) (s : State) : Host.Outcome State Fault Refusal :=
  loadScalar p d m 2 s (signed 16)
def execLdWz (p : Pfx) (d : BitVec 5) (m : MemOp) (s : State) : Host.Outcome State Fault Refusal :=
  loadScalar p d m 4 s (BitVec.ofNat 64)
def execLdBz (p : Pfx) (d : BitVec 5) (m : MemOp) (s : State) : Host.Outcome State Fault Refusal :=
  loadScalar p d m 1 s (BitVec.ofNat 64)
def execLdHz (p : Pfx) (d : BitVec 5) (m : MemOp) (s : State) : Host.Outcome State Fault Refusal :=
  loadScalar p d m 2 s (BitVec.ofNat 64)
def execStW (p : Pfx) (d : BitVec 5) (m : MemOp) (s : State) : Host.Outcome State Fault Refusal :=
  storeScalar p d m 4 .storeWide s
def execStD (p : Pfx) (d : BitVec 5) (m : MemOp) (s : State) : Host.Outcome State Fault Refusal :=
  storeScalar p d m 8 .storeWide s
def execStB (p : Pfx) (d : BitVec 5) (m : MemOp) (s : State) : Host.Outcome State Fault Refusal :=
  storeScalar p d m 1 .store s
def execStH (p : Pfx) (d : BitVec 5) (m : MemOp) (s : State) : Host.Outcome State Fault Refusal :=
  storeScalar p d m 2 .store s

/-! ## Mask registers (R130) -/

def execKLd (p : Pfx) (d : BitVec 3) (m : MemOp) (s : State) : Host.Outcome State Fault Refusal :=
  run p true s (fun s =>
    atSpot p (s.look (s.scalarAccess p m 8 0 [permLD] .load) none) false false s (fun sp s =>
      readAt sp 8 s (fun bs s => .done (s.pend (.k d (BitVec.ofNat 64 (ofBytes bs))) (sp.banks s.cur.tile 8)))))

def execKSt (p : Pfx) (d : BitVec 3) (m : MemOp) (s : State) : Host.Outcome State Fault Refusal :=
  run p true s (fun s =>
    let x := s.scalarAccess p m 8 0 [permST] .store
    atSpot p (s.look x none) true false s (fun sp s =>
      afterRelease p (sp.space != .global) (sp.space == .global) s (fun s =>
        putBytes x.ta sp (toBytes 8 (s.k d).toNat) s (fun s => .done s))))

/-! ## Prefetch and refresh (R131, R133, R134) -/

/-- `pf` changes no value that a load can return, and never faults (R131). -/
def execPf (p : Pfx) (_d : BitVec 5) (_m : MemOp) (s : State) : Host.Outcome State Fault Refusal :=
  run p true s (fun s => .done s)

/-- PHASE of a die: what bring-up wrote, which its calibration found (R393). -/
def State.phase (s : State) (die : Nat) : Nat := Map.get s.phases die (Config.calPhase die)

/-- (TIME − PHASE) mod 67,200 on a die (R133). -/
def State.refreshTime (s : State) (die : Nat) : Nat := (s.clk + (67200 - s.phase die % 67200)) % 67200

/-- Bank b is in refresh at a time of the cycle (R133). -/
def inRefresh (t b : Nat) : Bool := decide (4200 * b ≤ t) && decide (t < 4200 * b + 2100)

/-- The word of `ws.q` (R134). -/
def refreshWord (t b : Nat) : Word :=
  let start := 4200 * b
  let wait := if inRefresh t b then start + 2100 - t else (start + 67200 - t) % 67200
  BitVec.ofNat 64 (bit (inRefresh t b) * 2 ^ 63 + b * 2 ^ 32 + wait)

def execWsQ (p : Pfx) (d : BitVec 5) (m : MemOp) (s : State) : Host.Outcome State Fault Refusal :=
  runRep p true 32 d 32 0 s (fun _ d _ s =>
    let x := Access.at (s.c m.cap) (s.effective p m 0) 1 (need [permLD]) 1 .wsq p.scope
    atSpot p (s.look x none) false false s (fun sp s =>
      .done (s.pend (.s d (refreshWord (s.refreshTime (dieOf s.cur.tile)) (sp.off / 2 ^ 24 % 16))))))

/-! ## Elements of a scratchpad bank (R65, R72 to R74) -/

/-- The key of byte off of a context's image on a tile. -/
def imageKey (tile ctx off : Nat) : Nat := keyScratch ctx tile off

/-- The scratchpad offset of the scale of the block that an element lies in (R65). -/
def scaleOff (off : Nat) : Nat := off - off % 32768 + 0x6000 + off % 32768 / 4

/-- Bytes of a scratchpad image, as a number. -/
def State.imageNat (s : State) (tile ctx off n : Nat) : Nat := ofBytes (Memory.readBytes s.mem (imageKey tile ctx off) n)

/-- DecodeElem of the element at an offset (R74). -/
def State.elemAt (s : State) (t : List (BitVec 19)) (tile ctx fmt off : Nat) : Lane :=
  decodeElem t fmt (s.imageNat tile ctx off (elemWidth fmt)) (s.imageNat tile ctx (scaleOff off) 1)

/-- What reading n bytes of elements at an offset takes from memory, the scales of T8B included. -/
def seenElems (tile ctx fmt off n va : Nat) : List Seen :=
  { va := va, key := imageKey tile ctx off, n := n } ::
    (if fmt = fmtT8B then
      [{ va := va + (scaleOff off - off), key := imageKey tile ctx (scaleOff off), n := (n + 3) / 4 }] else [])

/-- Raw bytes written into an image. -/
def State.putImage (s : State) (tile ctx off : Nat) (bs : List Byte) : State := s.writeBytes 0 (imageKey tile ctx off) bs

/-- Four values encoded into the T8B block at an offset (R73). -/
def State.putBlock (s : State) (t : List (BitVec 19)) (mode : Round) (tile ctx off : Nat) (xs : List Num) : State :=
  let e := encodeT8B t mode xs
  (s.putImage tile ctx off (e.1.map (BitVec.ofNat 8))).putImage tile ctx (scaleOff off) [BitVec.ofNat 8 e.2]

/-- The values of a block with some of its elements replaced: the others are decoded from memory (R73). -/
def State.blockWith (s : State) (t : List (BitVec 19)) (tile ctx off : Nat) (new : Nat → Option Num) : List Num :=
  [0, 1, 2, 3].map (fun i =>
    match new i with
    | some x => x
    | none => f32Num (s.elemAt t tile ctx fmtT8B (off + i)))

/-- One lane stored as an element (R73, R74): a T8B element rewrites its block. -/
def State.putLane (s : State) (t : List (BitVec 19)) (mode : Round) (tile ctx fmt off : Nat) (b : Lane) : State :=
  if fmt = fmtT8B then
    let base := off - off % 4
    s.putBlock t mode tile ctx base (s.blockWith t tile ctx base (fun i => if i = off % 4 then some (f32Num b) else none))
  else s.putImage tile ctx off (toBytes (elemWidth fmt) (roundToBank t fmt mode b))

/-! ## Lanes, masks and merging (R138) -/

def VReg.lane (v : VReg) (i : Nat) : Lane := v[i % 64]'(Nat.mod_lt _ (by decide))

/-- The lanes of a result under a mask and a merge mode. -/
def mergeLanes (m : Word) (zeroing : Bool) (old : VReg) (f : Nat → Lane) : VReg :=
  tabulate 64 (fun i => if m.getLsbD i then f i else if zeroing then 0 else VReg.lane old i)

def lanes64 : List Nat := List.range 64
def activeLanes (m : Word) : List Nat := lanes64.filter (fun i => m.getLsbD i)

/-! ## Vector loads and stores (R127, R128) -/

/-- The format that governs a vector access at an address, and whether it lies in scratchpad (R64). -/
def State.vecFmt (s : State) (a : Nat) : Nat × Bool :=
  let q := spaceOf s.cur.tile a
  (s.fmtAt s.ctxn q.1 q.2, q.1.scratchTile.isSome)

def usesT8 (fmt : Nat) : Bool := fmt == fmtT8 || fmt == fmtT8B

/-- The tile whose scratchpad a spot lies in. -/
def Spot.tile (sp : Spot) : Nat := match sp.space.scratchTile with | some t => t | none => 0

/-- The bytes of a spot from an offset on. -/
def Spot.part (sp : Spot) (off n : Nat) : Spot :=
  { sp with off := sp.off + off
            pieces := (sp.pieces.foldl (fun (q : Nat × List Piece) p =>
              let lo := max off q.1
              let hi := min (off + n) (q.1 + p.n)
              (q.1 + p.n, if lo < hi then q.2 ++ [{ p with va := p.va + (lo - q.1), key := p.key + (lo - q.1), n := hi - lo }]
                else q.2)) (0, [])).2 }

/-- The lanes that a masked result writes (R138). -/
def writtenLanes (m : Word) (zeroing : Bool) : Word := if zeroing then BitVec.allOnes 64 else m

/-- The part of a spot that a lane takes. -/
def Spot.lane (sp : Spot) (w : Nat) (delta : Nat → Nat) (i : Nat) : Spot := sp.part (delta i) w

/-- What the lanes of a mask take from a spot (R380): lane i stands delta i bytes from the spot's first byte. -/
def State.lanesSeen (s : State) (sp : Spot) (va fmt : Nat) (scratch : Bool) (m : Word) (delta : Nat → Nat) : List Seen :=
  (activeLanes m).flatMap (fun i =>
    if scratch then seenElems sp.tile s.ctxn fmt (sp.off + delta i) (elemWidth fmt) (va + delta i)
    else
      let q := sp.lane 4 delta i
      s.seenAt q ++ s.taskSeen q ++ s.inboxSeen q 4)

/-- Lanes decoded from a spot, of which those of a mask are read. -/
def readLanes (sp : Spot) (va fmt : Nat) (scratch : Bool) (n : Nat) (m : Word) (delta : Nat → Nat) (s : State)
    (body : (Nat → Lane) → State → Res) : Res :=
  consume (s.lanesSeen sp va fmt scratch m delta) s (fun s =>
    if scratch then
      let t := s.tctx.table
      body (fun i => s.elemAt t sp.tile s.ctxn fmt (sp.off + delta i)) s
    else
      let bs := s.readSpot sp n
      body (fun i => BitVec.ofNat 32 (ofBytes ((bs.drop (delta i)).take 4)))
        (s.noteReads ((activeLanes m).flatMap (fun i => s.linesRead (sp.lane 4 delta i)))))

/-- The weight-store banks that the lanes of a mask are read from (R133). -/
def Spot.laneBanks (sp : Spot) (tile w : Nat) (m : Word) (delta : Nat → Nat) : List Nat :=
  if sp.space = .wstore then ((activeLanes m).flatMap (fun i => banksOf tile (sp.off + delta i) w)).eraseDups else []

/-- A contiguous or strided vector load (R127, R128): lowest address lo, n bytes, lane i delta i bytes above lo. -/
def vectorLoad (p : Pfx) (d : BitVec 5) (x : Access) (fmt : Nat) (scratch : Bool) (delta : Nat → Nat) (s : State) : Res :=
  afterTable (scratch && usesT8 fmt) s (fun s =>
    atSpot p (s.look x (some fmt)) false false s (fun sp s =>
      let m := s.k p.maskReg
      readLanes sp x.a fmt scratch x.n m delta s (fun f s =>
        .done (s.pend (.v d (writtenLanes m p.zeroing) (mergeLanes m p.zeroing (s.v d) f))
          (sp.laneBanks s.cur.tile (elemWidth fmt) m delta)))))

/-- The bytes of the active lanes as runs: offset from the spot's first byte, and bytes. -/
def laneRuns (m : Word) (v : VReg) (delta : Nat → Nat) : List (Nat × List Byte) :=
  (activeLanes m).map (fun i => (delta i, toBytes 4 (VReg.lane v i).toNat))

/-- The piece of a spot that holds the byte off above its first one, as a store of n bytes there. -/
def pieceStore : List Piece → Nat → List Byte → List Action
  | [], _, _ => []
  | q :: qs, off, bs => if off < q.n then [.store (q.va + off) [(q.key + off, bs.length)] bs false] else pieceStore qs (off - q.n) bs

/-- Raw lanes written outside scratchpad (R127). All 64 lanes go as one run where they are contiguous. -/
def putRaw (ta : Nat) (sp : Spot) (runs : List (Nat × List Byte)) (s : State) (body : State → Res) : Res :=
  match sp.space with
  | .window =>
    windowStore ta (runs.flatMap (fun r => (List.range r.2.length).map (fun i => (sp.off + r.1 + i, r.2.getD i 0)))) s body
  | .global => act s (runs.flatMap (fun r => pieceStore sp.pieces r.1 r.2)) body
  | _ =>
    match sp.pieces with
    | q :: _ =>
      body ((runs.foldl (fun s r => s.writeBytes s.keyId (q.key + r.1) r.2) s).cleanseRuns
        (runs.map (fun r => (q.key + r.1, r.2.length))))
    | [] => body s

/-- The runs of an image that elements at offsets fill: themselves, or in T8B their blocks with the scales (R73). -/
def elemRuns (tile ctx fmt : Nat) (offs : List Nat) : List (Nat × Nat) :=
  offs.flatMap (fun o =>
    if fmt = fmtT8B then [(imageKey tile ctx (o - o % 4), 4), (imageKey tile ctx (scaleOff o), 1)]
    else [(imageKey tile ctx o, elemWidth fmt)])

/-- What a store of lanes to a T8B bank reads: the elements of its blocks that it does not replace, with their scales. A
contiguous store replaces all its lanes of a block at once, any other one at a time (R73, R127, R128). -/
def State.blocksRead (s : State) (tile off va : Nat) (m : Word) (delta : Nat → Nat) (blocks : Bool) : List Seen :=
  let new := (activeLanes m).map (fun i => off + delta i)
  new.flatMap (fun o => ([0, 1, 2, 3].map (fun j => o - o % 4 + j)).flatMap (fun e =>
    if e = o || (blocks && new.contains e) then []
    else seenElems tile s.ctxn fmtT8B e 1 (va + e - off)))

/-- Lanes written to a scratchpad bank: by blocks in T8B for a contiguous store (R127), lane by lane otherwise. -/
def State.putElems (s : State) (t : List (BitVec 19)) (mode : Round) (tile ctx fmt off : Nat) (m : Word) (v : VReg)
    (delta : Nat → Nat) (blocks : Bool) : State :=
  State.cleanseRuns (runs := elemRuns tile ctx fmt ((activeLanes m).map (fun i => off + delta i)))
  (if fmt = fmtT8B && blocks then
    ((List.range 16).filter (fun j => (List.range 4).any (fun i => m.getLsbD (4 * j + i)))).foldl (fun s j =>
      let base := off + 4 * j
      s.putBlock t mode tile ctx base (s.blockWith t tile ctx base (fun i =>
        if m.getLsbD (4 * j + i) then some (f32Num (VReg.lane v (4 * j + i))) else none))) s
  else (activeLanes m).foldl (fun s i => s.putLane t mode tile ctx fmt (off + delta i) (VReg.lane v i)) s)

/-- A contiguous or strided vector store (R127, R128). -/
def vectorStore (p : Pfx) (d : BitVec 5) (x : Access) (fmt : Nat) (scratch : Bool) (delta : Nat → Nat) (blocks : Bool)
    (s : State) : Res :=
  afterTable (scratch && usesT8 fmt) s (fun s =>
    atSpot p (s.look x (some fmt)) true false s (fun sp s =>
      afterRelease p (sp.space != .global) (sp.space == .global) s (fun s =>
        let m := s.k p.maskReg
        if scratch then
          consume (if fmt = fmtT8B then s.blocksRead sp.tile sp.off x.a m delta blocks else []) s (fun s =>
            .done (s.putElems s.tctx.table p.round sp.tile s.ctxn fmt sp.off m (s.v d) delta blocks))
        else putRaw x.ta sp (laneRuns m (s.v d) delta) s (fun s => .done s))))

/-- The access of `v.ld`, `v.st` and `v.ldb` for element k (R123): STEPSIZE comes from the width at element 0. -/
def State.vecAccess (s : State) (p : Pfx) (m : MemOp) (k : Nat) (one : Bool) (store : Bool) : Access × Nat × Bool :=
  let w0 := elemWidth (s.vecFmt (s.effective p m 0)).1
  let a := s.effective p m (k * (if one then w0 else 64 * w0))
  let q := s.vecFmt a
  let w := elemWidth q.1
  ({ Access.at (s.c m.cap) a (if one then w else 64 * w) (need [if store then permST else permLD]) 4
      (if store then .vstore else .vload) p.scope with vec := true }, q.1, q.2)

def execVLd (p : Pfx) (d : BitVec 5) (m : MemOp) (s : State) : Host.Outcome State Fault Refusal :=
  runRep p true 32 d 32 0 s (fun k d _ s =>
    let q := s.vecAccess p m k false false
    vectorLoad p d q.1 q.2.1 q.2.2 (fun i => i * elemWidth q.2.1) s)

def execVLdb (p : Pfx) (d : BitVec 5) (m : MemOp) (s : State) : Host.Outcome State Fault Refusal :=
  runRep p true 32 d 32 0 s (fun k d _ s =>
    let q := s.vecAccess p m k true false
    vectorLoad p d q.1 q.2.1 q.2.2 (fun _ => 0) s)

def execVSt (p : Pfx) (d : BitVec 5) (m : MemOp) (s : State) : Host.Outcome State Fault Refusal :=
  runRep p true 32 d 32 0 s (fun k d _ s =>
    let q := s.vecAccess p m k false true
    vectorStore p d q.1 q.2.1 q.2.2 (fun i => i * elemWidth q.2.1) true s)

/-- s[X+1], the stride of `v.lds` and `v.sts` (R128). -/
def State.stride (s : State) (p : Pfx) : Int := (s.s (p.x + 1)).toInt

/-- The access of `v.lds` and `v.sts` for element k (R123, R128): the span of all 64 lanes. -/
def State.strideAccess (s : State) (p : Pfx) (m : MemOp) (k : Nat) (store : Bool) : Access × Nat × Bool :=
  let st := s.stride p
  let a := (BitVec.ofInt 64 ((s.effective p m 0 : Int) + 64 * st * k)).toNat
  let q := s.vecFmt a
  let lo := (BitVec.ofInt 64 ((a : Int) + min 0 (63 * st))).toNat
  ({ via := s.c m.cap, a := lo, ta := a, n := 63 * st.natAbs + elemWidth q.1
     need := need [if store then permST else permLD], align := 4, vec := true, stride := st
     use := if store then .scatter else .vload, scope := p.scope, cap := none }, q.1, q.2)

/-- Lane i's place above the lowest byte of the span (R128). -/
def strideDelta (st : Int) (i : Nat) : Nat := (st * i - min 0 (63 * st)).toNat

def execVLds (p : Pfx) (d : BitVec 5) (m : MemOp) (s : State) : Host.Outcome State Fault Refusal :=
  runRep p true 32 d 32 0 s (fun k d _ s =>
    let q := s.strideAccess p m k false
    vectorLoad p d q.1 q.2.1 q.2.2 (strideDelta (s.stride p)) s)

def execVSts (p : Pfx) (d : BitVec 5) (m : MemOp) (s : State) : Host.Outcome State Fault Refusal :=
  runRep p true 32 d 32 0 s (fun k d _ s =>
    let q := s.strideAccess p m k true
    vectorStore p d q.1 q.2.1 q.2.2 (strideDelta (s.stride p)) false s)

/-! ## Gathers and scatters (R108, R129) -/

/-- Lane i's address. -/
def laneAddr (a0 w : Nat) (ix : VReg) (i : Nat) : Nat :=
  (BitVec.ofInt 64 ((a0 : Int) + (VReg.lane ix i).toInt * w)).toNat

/-- An active lane passes its bounds check: within the capability, and in a0's bank where a0 lies in scratchpad. -/
def lanePasses (tile : Nat) (c : Cap) (a0 w : Nat) (a : Nat) : Bool :=
  let q0 := spaceOf tile a0
  let q := spaceOf tile a
  c.within a w && (q0.1.scratchTile.isNone ||
    (q.1.scratchTile == q0.1.scratchTile && q.2 / 32768 == q0.2 / 32768 &&
      decide (q.2 % 32768 + w ≤ 32768)))

/-- A bit set of lanes. -/
def laneMask (l : List Nat) : Word := l.foldl (fun w i => w ||| BitVec.ofNat 64 (2 ^ i)) 0

/-- The spots of the lanes that pass, in ascending order, or the first one's outcome. -/
def State.lookLanes (s : State) (x : Access) (fmt : Nat) : List (Nat × Nat) → Except Look (List (Nat × Spot))
  | [] => .ok []
  | (i, a) :: l =>
    match s.checkSpace { x with a := a, ta := a } (some fmt) with
    | .ok sp =>
      match s.lookLanes x fmt l with
      | .ok r => .ok ((i, sp) :: r)
      | .error e => .error e
    | e => .error e

/-- Everything that R108 and R129 check before any lane is performed, then the lanes: those that pass with their spots,
and the mask of those that fail. -/
def withLanes (p : Pfx) (m : MemOp) (ix : VReg) (store : Bool) (s : State)
    (body : Nat → Bool → List (Nat × Spot) → Word → State → Res) : Res :=
  let c := s.c m.cap
  let a0 := s.effective p m 0
  let q := s.vecFmt a0
  let w := elemWidth q.1
  match c.checkKind (need [if store then permST else permLD]) with
  | some e => .trap s e (BitVec.ofNat 64 a0)
  | none =>
    let act_ := activeLanes (s.k p.maskReg)
    let fails := act_.filter (fun i => !lanePasses s.cur.tile c a0 w (laneAddr a0 w ix i))
    match fails, p.laneZero with
    | f :: fs, false =>
      .trap (s.setReg { s.reg with fmask := laneMask (f :: fs) }) Code.capLane (BitVec.ofNat 64 (laneAddr a0 w ix f))
    | _, _ =>
      if !q.2 && a0 % 4 != 0 then .trap s Code.memAlign (BitVec.ofNat 64 a0)
      else
        afterTable (q.2 && usesT8 q.1) s (fun s =>
          let x : Access :=
            { via := c, a := a0, ta := a0, n := w, need := 0, align := 1, vec := true, stride := 0
              use := if store then .scatter else .vload, scope := p.scope, cap := none }
          let pass := act_.filter (fun i => !fails.contains i)
          match s.lookLanes x q.1 (pass.map (fun i => (i, laneAddr a0 w ix i))) with
          | .error (.bad e ta) => .trap s e (BitVec.ofNat 64 ta)
          | .error (.page cz lv va) => .hold (s.pageFault cz lv va store false)
          | .error (.ok _) => .done s
          | .ok l => body q.1 q.2 l (laneMask fails)
              (s.reach p (l.flatMap (fun r => r.2.globals))))

/-- The address of a spot, as the program names it. -/
def Spot.va (sp : Spot) : Nat := match sp.pieces with | p :: _ => p.va | [] => 0

/-- What the lanes read from memory. -/
def State.seenLanes (s : State) (fmt : Nat) (scratch : Bool) (l : List (Nat × Spot)) : List Seen :=
  l.flatMap (fun r =>
    if scratch then seenElems r.2.tile s.ctxn fmt r.2.off (elemWidth fmt) r.2.va else s.seenAt r.2 ++ s.taskSeen r.2 ++ s.inboxSeen r.2 4)

/-- In lane mode 01 the failing lanes go to the report register, as a result that is outstanding (R50, R108). -/
def State.reportLanes (s : State) (p : Pfx) (failed : Word) : State :=
  if p.laneZero then s.pend (.k p.report failed) else s

def execVGth (p : Pfx) (d : BitVec 5) (m : MemOp) (s : State) : Host.Outcome State Fault Refusal :=
  runRep p true 31 d 32 0 s (fun _ d _ s =>
    withLanes p m (s.v (d + 1)) false s (fun fmt scratch l failed s =>
      consume (s.seenLanes fmt scratch l) s (fun s =>
        let t := s.tctx.table
        let value (r : Nat × Spot) : Lane :=
          if scratch then s.elemAt t r.2.tile s.ctxn fmt r.2.off
          else BitVec.ofNat 32 (ofBytes (s.readSpot r.2 4))
        let vals := l.map (fun r => (r.1, value r))
        let mask := s.k p.maskReg
        let res := mergeLanes mask p.zeroing (s.v d) (fun i =>
          match Map.get? vals i with
          | some b => b
          | none => 0)
        let lines := l.flatMap (fun r => s.linesRead r.2)
        let banks := (l.flatMap (fun r => r.2.banks s.cur.tile (elemWidth fmt))).eraseDups
        .done (((s.noteReads lines).pend (.v d (writtenLanes mask p.zeroing) res) banks).reportLanes p failed))))

/-- The lanes of a scatter outside scratchpad, in ascending order: the global ones as one list of stores (R192), the
local ones at once. -/
def putScatter (v : VReg) (l : List (Nat × Spot)) (s : State) (body : State → Res) : Res :=
  let stores := l.flatMap (fun r =>
    if r.2.space = .global then storesOf r.2.pieces (toBytes 4 (VReg.lane v r.1).toNat) false else [])
  let finish (s : State) : Res :=
    let local_ := l.filter (fun r => r.2.space != .global)
    body ((local_.foldl (fun s r =>
      match r.2.pieces with
      | q :: _ => s.writeBytes s.keyId q.key (toBytes 4 (VReg.lane v r.1).toNat)
      | [] => s) s).cleanseRuns (local_.flatMap (fun r => r.2.pieces.map (fun q => (q.key, q.n)))))
  if stores.isEmpty then finish s else act s stores finish

def execVSct (p : Pfx) (d : BitVec 5) (m : MemOp) (s : State) : Host.Outcome State Fault Refusal :=
  runRep p true 31 d 32 0 s (fun _ d _ s =>
    withLanes p m (s.v (d + 1)) true s (fun fmt scratch l failed s =>
      let v := s.v d
      afterRelease p (l.any (fun r => r.2.space != .global)) (l.any (fun r => r.2.space == .global)) s (fun s =>
        if scratch then
          consume (if fmt = fmtT8B then l.flatMap (fun r => s.blocksRead r.2.tile r.2.off r.2.va 1 (fun _ => 0) false) else []) s (fun s =>
            let t := s.tctx.table
            let s1 := l.foldl (fun s r => s.putLane t p.round r.2.tile s.ctxn fmt r.2.off (VReg.lane v r.1)) s
            .done ((s1.cleanseRuns (l.flatMap (fun r => elemRuns r.2.tile s.ctxn fmt [r.2.off]))).reportLanes p failed))
        else putScatter v l s (fun s => .done (s.reportLanes p failed)))))

/-! ## `c.ld` and `c.st` (R109, R110) -/

/-- The tag of a global granule as the firing sees it: its latest buffered store to the granule decides (R121). A page
that may hold no tags gives 0 whatever is buffered (R328). -/
def bufferedTag (as : List Action) (a : Nat) (old : Bool) : Bool :=
  as.foldl (fun t x => match x with
    | .store sva _ data tag => if sva < a + 16 && a < sva + data.length then tag && sva == a else t
    | _ => t) old

def State.tagSeen (s : State) (sp : Spot) : Bool :=
  match sp.pieces with
  | q :: _ =>
    let t := s.tagFor s.keyId q.key
    q.tag && (if sp.space = .global then bufferedTag s.buffer q.va t else t)
  | [] => false

/-- `c.ld`: the value meets the revocation filter when it enters the register (R112). -/
def execCLd (p : Pfx) (d : BitVec 4) (m : MemOp) (s : State) : Host.Outcome State Fault Refusal :=
  run p true s (fun s =>
    let c := s.c m.cap
    let x := Access.at c (s.effective p m 0) 16 (need [permLD]) 16 .capLoad p.scope
    atSpot p (s.look x none) false false s (fun sp s =>
      readAt sp 16 s (fun bs s1 =>
        let y := Cap.ofBytes (s.tagSeen sp && c.has permLDC) (ofBytes bs)
        .done (s1.pend (.c d y) (sp.banks s1.cur.tile 16)))))

def execCSt (p : Pfx) (d : BitVec 4) (m : MemOp) (s : State) : Host.Outcome State Fault Refusal :=
  run p true s (fun s =>
    let y := s.c d
    let x := { Access.at (s.c m.cap) (s.effective p m 0) 16 (need (if y.tag then [permST, permSTC] else [permST])) 16
                .capStore p.scope with cap := some y }
    atSpot p (s.look x none) true y.tag s (fun sp s =>
      afterRelease p (sp.space != .global) (sp.space == .global) s (fun s =>
        writeAt sp (toBytes 16 y.bits.toNat) y.tag s (fun s => .done s))))

end Sys2Proof.Machine
end

