-- ==== Sys2Proof/Machine/Caps.lean ====
section
/-! DEFINITION. Machine/Caps.lean: the rest of page 1: derivations, seals, field reads, painting and sweeps (R101 to
R106, R113, R114). -/

namespace Sys2Proof.Machine

/-! ## R101, R103 -/

/-- A derivation of cd in place, which never faults. -/
def deriveCap (p : Pfx) (d : BitVec 4) (s : State) (f : Cap → Cap) : Host.Outcome State Fault Refusal :=
  run p true s (fun s => .done (s.setC d (f (s.c d))))

def execCMv (p : Pfx) (d a : BitVec 4) (s : State) : Host.Outcome State Fault Refusal :=
  run p true s (fun s => .done (s.setC d (s.c a)))
def execCClrtag (p : Pfx) (d a : BitVec 4) (s : State) : Host.Outcome State Fault Refusal :=
  run p true s (fun s => .done (s.setC d ((s.c a).withTag false)))
def execCAdd (p : Pfx) (d : BitVec 4) (a : BitVec 5) (s : State) : Host.Outcome State Fault Refusal :=
  deriveCap p d s (fun c => c.derive (c.addrW + s.s a))
def execCAddi (p : Pfx) (d : BitVec 4) (i : BitVec 5) (s : State) : Host.Outcome State Fault Refusal :=
  deriveCap p d s (fun c => c.derive (c.addrW + wordOfInt (p.immI i)))
def execCSetaddr (p : Pfx) (d : BitVec 4) (a : BitVec 5) (s : State) : Host.Outcome State Fault Refusal :=
  deriveCap p d s (fun c => c.derive (s.s a))
def execCAndp (p : Pfx) (d : BitVec 4) (a : BitVec 5) (s : State) : Host.Outcome State Fault Refusal :=
  deriveCap p d s (fun c => (c.withPerms (c.perms &&& (s.s a).extractLsb' 0 12)).withTag (c.tag && !c.sealed))

/-- The word of `c.fit` (R103). -/
def fitWord (w : Word) : Word :=
  let l := max (min w.toNat topMax) 1
  let e := fitLen l 50 0
  BitVec.ofNat 64 ((l + 2 ^ e - 1) / 2 ^ e * 256 + e)
where
  /-- The smallest exponent at which a length takes at most 16,383 steps. -/
  fitLen (l : Nat) : Nat → Nat → Nat
    | 0, e => e
    | fuel + 1, e => if (l + 2 ^ e - 1) / 2 ^ e ≤ 16383 then e else fitLen l fuel (e + 1)

def execCFit (p : Pfx) (d a : BitVec 5) (s : State) : Host.Outcome State Fault Refusal :=
  run p true s (fun s => .done (s.setS d (fitWord (s.s a))))

def execCSnap (p : Pfx) (d : BitVec 4) (a : BitVec 5) (s : State) : Host.Outcome State Fault Refusal :=
  deriveCap p d s (fun c =>
    let g := min ((s.s a).toNat % 64) 50
    c.derive (BitVec.ofNat 64 (c.addr - c.addr % 2 ^ g)))

/-! ## R102 -/

def boundsCap (p : Pfx) (d : BitVec 4) (a : BitVec 5) (exact_ : Bool) (s : State) : Host.Outcome State Fault Refusal :=
  run p true s (fun s =>
    let c := s.c d
    match c.setBounds (s.s a).toNat exact_ with
    | .error e => .trap s e c.addrW
    | .ok x => .done (s.setC d x))

def execCSetb (p : Pfx) (d : BitVec 4) (a : BitVec 5) (s : State) : Host.Outcome State Fault Refusal :=
  boundsCap p d a false s
def execCSetbx (p : Pfx) (d : BitVec 4) (a : BitVec 5) (s : State) : Host.Outcome State Fault Refusal :=
  boundsCap p d a true s

/-! ## R104, R105 -/

/-- The checks of `c.seal`. -/
def sealFault (x au : Cap) : Option (BitVec 16) :=
  if !x.tag || !au.tag then some Code.capTag
  else if x.sealed || au.sealed then some Code.capSeal
  else if !au.has permSEAL then some Code.capPerm
  else if au.addr < au.base ∨ au.top < au.addr + 1 then some Code.capBound
  else if au.addr < 0x100 ∨ 0xFFFF < au.addr then some Code.capType
  else none

/-- The checks of `c.unseal`. -/
def unsealFault (x au : Cap) : Option (BitVec 16) :=
  if !x.tag || !au.tag then some Code.capTag
  else if !x.sealed || au.sealed then some Code.capSeal
  else if !au.has permUNSEAL then some Code.capPerm
  else if au.addr < au.base ∨ au.top < au.addr + 1 then some Code.capBound
  else if x.otype.toNat < 0x100 ∨ x.otype.toNat ≠ au.addr then some Code.capType
  else none

def execCSeal (p : Pfx) (d a : BitVec 4) (s : State) : Host.Outcome State Fault Refusal :=
  run p true s (fun s =>
    let x := s.c d
    let au := s.c a
    match sealFault x au with
    | some e => .trap s e au.addrW
    | none => .done (s.setC d (x.withOtype (BitVec.ofNat 16 au.addr))))

def execCUnseal (p : Pfx) (d a : BitVec 4) (s : State) : Host.Outcome State Fault Refusal :=
  run p true s (fun s =>
    let x := s.c d
    let au := s.c a
    match unsealFault x au with
    | some e => .trap s e au.addrW
    | none =>
      let perms := if x.has permGL && !au.has permGL then x.perms &&& ~~~(need [permGL]) else x.perms
      .done (s.setC d ((x.withOtype 0).withPerms perms)))

/-- The checks of `c.inv`. -/
def State.invokeFault (s : State) (x y : Cap) : Option (BitVec 16) :=
  if !x.tag || !y.tag then some Code.capTag
  else if !x.sealed || !y.sealed then some Code.capSeal
  else if x.otype ≠ y.otype ∨ x.otype.toNat < 0x100 then some Code.capType
  else if !x.has permINV || !y.has permINV || !x.has permEX || y.has permEX then some Code.capPerm
  else s.targetFault x

/-- `c.inv` waits until the pending set is empty before it reads a register (R51, R105). -/
def execCInv (p : Pfx) (d a : BitVec 4) (s : State) : Host.Outcome State Fault Refusal :=
  run p true s (fun s =>
    let s1 := s.drain
    let x := s1.c d
    let y := s1.c a
    match s1.invokeFault x y with
    | some e => .trap s1 e x.addrW
    | none =>
      .goto (s1.setReg { s1.reg.setC 1 (y.withOtype 0) with pcc := x.withOtype 0, loops := [] }))

/-! ## R106 -/

def readField (p : Pfx) (d : BitVec 5) (a : BitVec 4) (s : State) (f : Cap → Nat) : Host.Outcome State Fault Refusal :=
  run p true s (fun s => .done (s.setS d (BitVec.ofNat 64 (f (s.c a)))))

def execCGaddr (p : Pfx) (d : BitVec 5) (a : BitVec 4) (s : State) : Host.Outcome State Fault Refusal :=
  readField p d a s (fun c => c.addr)
def execCGbase (p : Pfx) (d : BitVec 5) (a : BitVec 4) (s : State) : Host.Outcome State Fault Refusal :=
  readField p d a s (fun c => c.base)
def execCGlen (p : Pfx) (d : BitVec 5) (a : BitVec 4) (s : State) : Host.Outcome State Fault Refusal :=
  readField p d a s (fun c => c.top - c.base)
def execCGperm (p : Pfx) (d : BitVec 5) (a : BitVec 4) (s : State) : Host.Outcome State Fault Refusal :=
  readField p d a s (fun c => c.perms.toNat)
def execCGtype (p : Pfx) (d : BitVec 5) (a : BitVec 4) (s : State) : Host.Outcome State Fault Refusal :=
  readField p d a s (fun c => c.otype.toNat)
def execCGtag (p : Pfx) (d : BitVec 5) (a : BitVec 4) (s : State) : Host.Outcome State Fault Refusal :=
  readField p d a s (fun c => bit c.tag)

/-! ## Painting (R113) -/

/-- The bitmap's granules for n bytes at va in one page: those of its HBM frame, whatever the page permits, or the
anchors of the capsule slots that it touches (R308). A page of host memory has no bit; a held one raises nothing, as no
store there would. DESIGN CHOICE, log 66. -/
def State.pieceGranules (s : State) (info : RegInfo) (va n : Nat) : Except (BitVec 16 × Nat) (List Nat) :=
  if codeBase ≤ va then .ok ((blocksOf (2 ^ 32) (va - codeBase) n).map (fun b => keyAnchor (b / 2 ^ 32)))
  else match s.walk info va with
    | .leaf e pa _ =>
      if !peHost e then .ok (blocksOf 16 pa n) else if peHeld e then .ok [] else .error (Code.xlPage, va)
    | _ => .error (Code.xlPage, va)

/-- The granules of every piece of a range, or the fault of the lowest that no memory stands behind. -/
def State.rangeGranules (s : State) (info : RegInfo) : List (Nat × Nat) → Except (BitVec 16 × Nat) (List Nat)
  | [] => .ok []
  | (va, n) :: l =>
    match s.pieceGranules info va n with
    | .error e => .error e
    | .ok g =>
      match s.rangeGranules info l with
      | .error e => .error e
      | .ok gs => .ok (g ++ gs)

/-- The bitmap bits of granules set or cleared (R113). A granule that becomes painted is covered by no sweep yet; the
next one to open covers it (R114, R338). -/
def State.paint (s : State) (gs : List Nat) (on : Bool) : State :=
  let fresh := gs.filter (fun g => !Keys.mem s.painted g)
  { s with painted := gs.foldl (fun l g => if on then Keys.insert l g else Keys.remove l g) s.painted
           covers := if on then fresh.foldl (fun m g => Map.set m g 0) s.covers
                     else gs.foldl Map.drop s.covers }

/-- Every granule of a capability's bounds, before any bit changes. A range that reaches above the global range has no
HBM translation and raises MEM.SPACE, as a store there would. DESIGN CHOICE, log 66. -/
def State.paintLook (s : State) (info : RegInfo) (c : Cap) : Except (BitVec 16 × Nat) (List Nat) :=
  let lo := c.base - c.base % 16
  if 2 ^ 48 < c.top then .error (Code.memSpace, c.base)
  else s.rangeGranules info (pagePieces lo (c.top - lo))

def execCPaint (p : Pfx) (d : BitVec 4) (a : BitVec 5) (s : State) : Host.Outcome State Fault Refusal :=
  run p true s (fun s => atPriv .keeper s (fun s =>
    let c := s.c d
    match c.checkAccess c.base 1 (need [permST]) with
    | some e => .trap s e (BitVec.ofNat 64 c.base)
    | none =>
      match s.paintLook (s.info s.ctxn) c with
      | .error (code, va) => .trap s code (BitVec.ofNat 64 va)
      | .ok gs => .done (s.paint gs ((s.s a).getLsbD 0))))

/-! ## Sweeps (R114) -/

/-- The number after an epoch (R114). -/
def nextEpoch (l : Nat) : Nat := if l = 0xFFFFFFFF then 1 else l + 1

/-- The distance of epoch n before l around the nonzero numbers (R114). -/
def epochDist (l n : Nat) : Nat := (l + (2 ^ 32 - 1) - n % (2 ^ 32 - 1)) % (2 ^ 32 - 1)

/-- The unfinished copies of a context, by tile and push (R115). -/
def State.livePushes (s : State) (ctx : Nat) : List (Nat × Nat) :=
  s.tiles.flatMap (fun q =>
    (q.2.slots.flatMap (fun o => match o with
      | some k => if k.ctx = ctx then [(q.1, k.push)] else []
      | none => [])) ++
    (q.2.ctxs.flatMap (fun x => if x.1 = ctx then x.2.copies.map (fun k => (q.1, k.push)) else [])))

/-- The live firings of a context. -/
def State.liveOf (s : State) (ctx : Nat) : List LiveFiring :=
  s.tiles.flatMap (fun q => (q.2.live q.1).filter (fun l => l.ctx == ctx))

/-- A live firing that a sweep waits for: it is not saved, by itself or with its context (R115). -/
def State.unsaved (s : State) (l : LiveFiring) : Bool :=
  match l.place with
  | .saved => false
  | .ended => true
  | .set _ => (s.tile l.tile).loaded == some l.ctx

/-- A sweep of a context opens, or does not: the epoch, or 0 (R114). It covers every granule painted before it. -/
def State.openSweep (s : State) (ctx : Nat) : State × Nat :=
  match Map.get? s.contexts ctx with
  | none => (s, 0)
  | some x =>
    let dies := (x.info.parts.map (fun q => q / 4)).eraseDups
    let e := nextEpoch s.lastEpoch
    let full := dies.any (fun d => decide (8 ≤ (s.sweeps.filter (fun w => w.dies.contains d)).length))
    let old := s.sweeps.any (fun w => decide (2 ^ 31 ≤ epochDist e w.epoch))
    if full || old then (s, 0)
    else
      ({ s with sweeps := s.sweeps ++ [{ epoch := e, ctx := ctx, dies := dies
                                         firings := ((s.liveOf ctx).filter s.unsaved).map LiveFiring.id, pushes := s.livePushes ctx }]
                lastEpoch := e, epochWrap := s.epochWrap || e == 0xFFFFFFFF
                covers := Map.mapKV (fun _ q => if q = 0 then e else q) s.covers }, e)

/-- The answer of `c.sweepq` for an epoch (R114). -/
def State.sweepState (s : State) (n : Nat) : Nat :=
  if n = 0 ∨ (s.lastEpoch < n ∧ !s.epochWrap) then 2
  else if epochDist s.lastEpoch n < 2 ^ 31 then (if s.sweeps.any (fun w => w.epoch == n) then 0 else 1)
  else 1

def execCSweep (p : Pfx) (d a : BitVec 5) (s : State) : Host.Outcome State Fault Refusal :=
  run p true s (fun s => atPriv .keeper s (fun s =>
    let r := s.openSweep ((s.s a).toNat % 4096)
    .done (r.1.setS d (BitVec.ofNat 64 r.2))))

def execCSweepq (p : Pfx) (d a : BitVec 5) (s : State) : Host.Outcome State Fault Refusal :=
  run p true s (fun s => atPriv .keeper s (fun s =>
    .done (s.setS d (BitVec.ofNat 64 (s.sweepState ((s.s a).toNat % 2 ^ 32))))))

end Sys2Proof.Machine
end

