-- ==== Sys2Proof/Machine/Vector.lean ====
section
/-! DEFINITION. Machine/Vector.lean: pages 4 and 5 (R138 to R154). -/

namespace Sys2Proof.Machine

/-! ## Shapes (R138, R139) -/

/-- The destination lanes of a masked result. -/
def State.masked (s : State) (p : Pfx) (d : BitVec 5) (f : Nat → Lane) : State :=
  s.setLanes d (writtenLanes (s.k p.maskReg) p.zeroing) (mergeLanes (s.k p.maskReg) p.zeroing (s.v d) f)

/-- vd from vd and vs, lane by lane. The result stands before the next chain issues: that is the interlock of R156. -/
def vecBin (p : Pfx) (d a : BitVec 5) (s : State) (f : Lane → Lane → Lane) : Host.Outcome State Fault Refusal :=
  runRep p true 32 d 32 a s (fun _ d a s =>
    .done (s.masked p d (fun i => f (VReg.lane (s.v d) i) (VReg.lane (s.v a) i))))

/-- vd from vs, lane by lane, interlocked as vecBin is (R156). -/
def vecUn (p : Pfx) (d a : BitVec 5) (s : State) (f : Lane → Lane) : Host.Outcome State Fault Refusal :=
  vecBin p d a s (fun _ y => f y)

/-- A compare into the k register of X (R145), under the mask and merge rules, interlocked as vecBin is (R156). -/
def vecCmp (p : Pfx) (d a : BitVec 5) (s : State) (f : Lane → Lane → Bool) : Host.Outcome State Fault Refusal :=
  runRep p true 32 d 32 a s (fun _ d a s =>
    let m := s.k p.maskReg
    let old := s.k p.cmpDest
    let on (i : Nat) : Bool :=
      if m.getLsbD i then f (VReg.lane (s.v d) i) (VReg.lane (s.v a) i) else !p.zeroing && old.getLsbD i
    .done (s.setK p.cmpDest (laneMask (lanes64.filter on))))

/-- A fused operation, with vx of X (R142). -/
def vecFused (p : Pfx) (d a : BitVec 5) (sub : Bool) (s : State) : Host.Outcome State Fault Refusal :=
  runRep p true 32 d 32 a s (fun _ d a s =>
    let x := s.v p.x
    .done (s.masked p d (fun i => ffma p.round sub (VReg.lane (s.v d) i) (VReg.lane (s.v a) i) (VReg.lane x i))))

/-- kd from kd and ks (R146). -/
def maskOp (p : Pfx) (d a : BitVec 3) (s : State) (f : Word → Word → Word) : Host.Outcome State Fault Refusal :=
  runRep p true 8 (d.zeroExtend 5) 8 (a.zeroExtend 5) s (fun _ d a s =>
    let kd := d.extractLsb' 0 3
    .done (s.setK kd (f (s.k kd) (s.k (a.extractLsb' 0 3)))))

/-- The shift amount of a lane: bits 4:0 (R144). -/
def laneAmount (y : Lane) : Nat := y.toNat % 32

/-! ## Page 4 -/

def execVMv (p : Pfx) (d a : BitVec 5) (s : State) : Host.Outcome State Fault Refusal :=
  vecUn p d a s (fun y => y)
def execVAdd (p : Pfx) (d a : BitVec 5) (s : State) : Host.Outcome State Fault Refusal :=
  vecBin p d a s (fadd p.round)
def execVSub (p : Pfx) (d a : BitVec 5) (s : State) : Host.Outcome State Fault Refusal :=
  vecBin p d a s (fsub p.round)
def execVMul (p : Pfx) (d a : BitVec 5) (s : State) : Host.Outcome State Fault Refusal :=
  vecBin p d a s (fmul p.round)
def execVFma (p : Pfx) (d a : BitVec 5) (s : State) : Host.Outcome State Fault Refusal :=
  vecFused p d a false s
def execVFms (p : Pfx) (d a : BitVec 5) (s : State) : Host.Outcome State Fault Refusal :=
  vecFused p d a true s
def execVMin (p : Pfx) (d a : BitVec 5) (s : State) : Host.Outcome State Fault Refusal :=
  vecBin p d a s fmin
def execVMax (p : Pfx) (d a : BitVec 5) (s : State) : Host.Outcome State Fault Refusal :=
  vecBin p d a s fmax
def execVAbs (p : Pfx) (d a : BitVec 5) (s : State) : Host.Outcome State Fault Refusal :=
  vecUn p d a s (fun y => y &&& 0x7FFFFFFF)
def execVNeg (p : Pfx) (d a : BitVec 5) (s : State) : Host.Outcome State Fault Refusal :=
  vecUn p d a s (fun y => y ^^^ 0x80000000)
def execVIadd (p : Pfx) (d a : BitVec 5) (s : State) : Host.Outcome State Fault Refusal :=
  vecBin p d a s (fun x y => x + y)
def execVIsub (p : Pfx) (d a : BitVec 5) (s : State) : Host.Outcome State Fault Refusal :=
  vecBin p d a s (fun x y => x - y)
def execVImul (p : Pfx) (d a : BitVec 5) (s : State) : Host.Outcome State Fault Refusal :=
  vecBin p d a s (fun x y => x * y)
def execVImin (p : Pfx) (d a : BitVec 5) (s : State) : Host.Outcome State Fault Refusal :=
  vecBin p d a s (fun x y => if y.slt x then y else x)
def execVImax (p : Pfx) (d a : BitVec 5) (s : State) : Host.Outcome State Fault Refusal :=
  vecBin p d a s (fun x y => if x.slt y then y else x)
def execVAnd (p : Pfx) (d a : BitVec 5) (s : State) : Host.Outcome State Fault Refusal :=
  vecBin p d a s (fun x y => x &&& y)
def execVOr (p : Pfx) (d a : BitVec 5) (s : State) : Host.Outcome State Fault Refusal :=
  vecBin p d a s (fun x y => x ||| y)
def execVXor (p : Pfx) (d a : BitVec 5) (s : State) : Host.Outcome State Fault Refusal :=
  vecBin p d a s (fun x y => x ^^^ y)
def execVShl (p : Pfx) (d a : BitVec 5) (s : State) : Host.Outcome State Fault Refusal :=
  vecBin p d a s (fun x y => x <<< laneAmount y)
def execVShr (p : Pfx) (d a : BitVec 5) (s : State) : Host.Outcome State Fault Refusal :=
  vecBin p d a s (fun x y => x >>> laneAmount y)
def execVSra (p : Pfx) (d a : BitVec 5) (s : State) : Host.Outcome State Fault Refusal :=
  vecBin p d a s (fun x y => x.sshiftRight (laneAmount y))
def execVFeq (p : Pfx) (d a : BitVec 5) (s : State) : Host.Outcome State Fault Refusal :=
  vecCmp p d a s feq
def execVFlt (p : Pfx) (d a : BitVec 5) (s : State) : Host.Outcome State Fault Refusal :=
  vecCmp p d a s flt
def execVFle (p : Pfx) (d a : BitVec 5) (s : State) : Host.Outcome State Fault Refusal :=
  vecCmp p d a s fle
def execVFun (p : Pfx) (d a : BitVec 5) (s : State) : Host.Outcome State Fault Refusal :=
  vecCmp p d a s fun_
def execVIeq (p : Pfx) (d a : BitVec 5) (s : State) : Host.Outcome State Fault Refusal :=
  vecCmp p d a s (fun x y => x == y)
def execVIlt (p : Pfx) (d a : BitVec 5) (s : State) : Host.Outcome State Fault Refusal :=
  vecCmp p d a s (fun x y => x.slt y)
def execVIle (p : Pfx) (d a : BitVec 5) (s : State) : Host.Outcome State Fault Refusal :=
  vecCmp p d a s (fun x y => x.sle y)
def execVIlo (p : Pfx) (d a : BitVec 5) (s : State) : Host.Outcome State Fault Refusal :=
  vecCmp p d a s (fun x y => x.ult y)
def execVIabs (p : Pfx) (d a : BitVec 5) (s : State) : Host.Outcome State Fault Refusal :=
  vecUn p d a s (fun y => if y.msb then 0 - y else y)

def execVBcs (p : Pfx) (d a : BitVec 5) (s : State) : Host.Outcome State Fault Refusal :=
  runRep p true 32 d 32 a s (fun _ d a s => .done (s.masked p d (fun _ => (s.s a).extractLsb' 0 32)))
def execVLi (p : Pfx) (d i : BitVec 5) (s : State) : Host.Outcome State Fault Refusal :=
  runRep p true 32 d 32 0 s (fun _ d _ s => .done (s.masked p d (fun _ => BitVec.ofInt 32 (p.immI i))))

def execKAnd (p : Pfx) (d a : BitVec 3) (s : State) : Host.Outcome State Fault Refusal :=
  maskOp p d a s (fun x y => x &&& y)
def execKOr (p : Pfx) (d a : BitVec 3) (s : State) : Host.Outcome State Fault Refusal :=
  maskOp p d a s (fun x y => x ||| y)
def execKXor (p : Pfx) (d a : BitVec 3) (s : State) : Host.Outcome State Fault Refusal :=
  maskOp p d a s (fun x y => x ^^^ y)
def execKAndn (p : Pfx) (d a : BitVec 3) (s : State) : Host.Outcome State Fault Refusal :=
  maskOp p d a s (fun x y => x &&& ~~~y)
def execKNot (p : Pfx) (d a : BitVec 3) (s : State) : Host.Outcome State Fault Refusal :=
  maskOp p d a s (fun _ y => ~~~y)
def execKMv (p : Pfx) (d a : BitVec 3) (s : State) : Host.Outcome State Fault Refusal :=
  maskOp p d a s (fun _ y => y)

/-! ## Page 5: conversions, elementary functions, permutes (R147, R148, R150, R151) -/

def execVCvtfi (p : Pfx) (d a : BitVec 5) (s : State) : Host.Outcome State Fault Refusal :=
  vecUn p d a s (fun y => BitVec.ofInt 32 (convertToInt (-(2 ^ 31)) (2 ^ 31 - 1) p.round (f32Num y)))
def execVCvtif (p : Pfx) (d a : BitVec 5) (s : State) : Host.Outcome State Fault Refusal :=
  vecUn p d a s (fun y => toF32 p.round (ofInt y.toInt))
def execVExp2 (p : Pfx) (d a : BitVec 5) (s : State) : Host.Outcome State Fault Refusal :=
  vecUn p d a s fexp2
def execVLog2 (p : Pfx) (d a : BitVec 5) (s : State) : Host.Outcome State Fault Refusal :=
  vecUn p d a s flog2
def execVRcp (p : Pfx) (d a : BitVec 5) (s : State) : Host.Outcome State Fault Refusal :=
  vecUn p d a s frcp
def execVRsq (p : Pfx) (d a : BitVec 5) (s : State) : Host.Outcome State Fault Refusal :=
  vecUn p d a s frsq
def execVSqrt (p : Pfx) (d a : BitVec 5) (s : State) : Host.Outcome State Fault Refusal :=
  vecUn p d a s (fsqrt p.round)
def execVRnd (p : Pfx) (d a : BitVec 5) (s : State) : Host.Outcome State Fault Refusal :=
  vecUn p d a s (frnd p.round)

def execVPerm (p : Pfx) (d a : BitVec 5) (s : State) : Host.Outcome State Fault Refusal :=
  runRep p true 32 d 32 a s (fun _ d a s =>
    let x := s.v p.x
    .done (s.masked p d (fun i => VReg.lane (s.v a) ((VReg.lane x i).toNat % 64))))

def execVBcl (p : Pfx) (d i : BitVec 5) (s : State) : Host.Outcome State Fault Refusal :=
  runRep p true 32 d 32 0 s (fun _ d _ s =>
    let b := VReg.lane (s.v d) (p.immI i % 64).toNat
    .done (s.masked p d (fun _ => b)))

def execVRot (p : Pfx) (d i : BitVec 5) (s : State) : Host.Outcome State Fault Refusal :=
  runRep p true 32 d 32 0 s (fun _ d _ s =>
    .done (s.masked p d (fun j => VReg.lane (s.v d) (j + (p.immI i % 64).toNat))))

/-- `v.cmpr`: the mask selects source lanes (R148). -/
def execVCmpr (p : Pfx) (d a : BitVec 5) (s : State) : Host.Outcome State Fault Refusal :=
  runRep p true 32 d 32 a s (fun _ d a s =>
    let picked := activeLanes (s.k p.maskReg)
    .done (s.setLanes d (writtenLanes (laneMask (List.range picked.length)) p.zeroing) (tabulate 64 (fun i => match picked[i]? with
      | some j => VReg.lane (s.v a) j
      | none => if p.zeroing then 0 else VReg.lane (s.v d) i))))

/-! ## Reductions (R152) -/

def combine {α : Type} (op : α → α → α) : Option α → Option α → Option α
  | none, b => b
  | a, none => a
  | some a, some b => some (op a b)

/-- One level of the tree: h sums from 2h values. -/
def foldHalf {α : Type} (op : α → α → α) (h : Nat) (l : List (Option α)) : List (Option α) :=
  (List.zip (l.take h) (l.drop h)).map (fun q => combine op q.1 q.2)

/-- The fixed tree over 64 lanes. -/
def foldTree {α : Type} (op : α → α → α) (l : List (Option α)) : Option α :=
  (([32, 16, 8, 4, 2, 1].foldl (fun l h => foldHalf op h l) l).head?).getD none

/-- The active lanes of a register, the others absent. -/
def presentLanes (m : Word) (v : VReg) : List (Option Lane) :=
  lanes64.map (fun i => if m.getLsbD i then some (VReg.lane v i) else none)

/-- A reduction into sd, zero-extended, interlocked as vecBin is (R156). -/
def reduceLanes (p : Pfx) (d a : BitVec 5) (s : State) (op : Lane → Lane → Lane) (empty : Lane) :
    Host.Outcome State Fault Refusal :=
  runRep p true 32 d 32 a s (fun _ d a s =>
    .done (s.setS d (((foldTree op (presentLanes (s.k p.maskReg) (s.v a))).getD empty).zeroExtend 64)))

def execVRsum (p : Pfx) (d a : BitVec 5) (s : State) : Host.Outcome State Fault Refusal :=
  reduceLanes p d a s (fadd p.round) 0
def execVRmax (p : Pfx) (d a : BitVec 5) (s : State) : Host.Outcome State Fault Refusal :=
  reduceLanes p d a s fmax 0xFF800000
def execVRmin (p : Pfx) (d a : BitVec 5) (s : State) : Host.Outcome State Fault Refusal :=
  reduceLanes p d a s fmin 0x7F800000
def execVIrsum (p : Pfx) (d a : BitVec 5) (s : State) : Host.Outcome State Fault Refusal :=
  runRep p true 32 d 32 a s (fun _ d a s =>
    let l := (presentLanes (s.k p.maskReg) (s.v a)).map (fun o => o.map (fun (b : Lane) => b.toInt))
    .done (s.setS d (BitVec.ofInt 64 ((foldTree (fun (x y : Int) => x + y) l).getD 0))))

/-! ## One lane, and counts (R146, R149) -/

def execVExt (p : Pfx) (d a : BitVec 5) (s : State) : Host.Outcome State Fault Refusal :=
  runRep p true 32 d 32 a s (fun _ d a s =>
    .done (s.setS d ((VReg.lane (s.v a) ((s.s d).toNat % 64)).zeroExtend 64)))
def execVIns (p : Pfx) (d a : BitVec 5) (s : State) : Host.Outcome State Fault Refusal :=
  runRep p true 32 d 32 a s (fun _ d a s =>
    let w := s.s a
    let l := w.toNat / 2 ^ 32 % 64
    .done (s.setLanes d (laneMask [l]) (tabulate 64 (fun i => if i = l then w.extractLsb' 0 32 else VReg.lane (s.v d) i))))
def execKPop (p : Pfx) (d : BitVec 5) (a : BitVec 3) (s : State) : Host.Outcome State Fault Refusal :=
  runRep p true 32 d 8 (a.zeroExtend 5) s (fun _ d a s =>
    .done (s.setS d (BitVec.ofNat 64 (popCount (s.k (a.extractLsb' 0 3)) 64))))
def execKFirst (p : Pfx) (d : BitVec 5) (a : BitVec 3) (s : State) : Host.Outcome State Fault Refusal :=
  runRep p true 32 d 8 (a.zeroExtend 5) s (fun _ d a s =>
    .done (s.setS d (BitVec.ofNat 64 (trailingZeros (s.k (a.extractLsb' 0 3)) 0 64))))

/-! ## T8 (R153, R154) -/

def execVT8dec (p : Pfx) (d a : BitVec 5) (s : State) : Host.Outcome State Fault Refusal :=
  runRep p true 32 d 32 a s (fun _ d a s => afterTable true s (fun s =>
    let t := s.tctx.table
    .done (s.masked p d (fun i => decodeT8 t (VReg.lane (s.v a) i).toNat))))
def execVT8enc (p : Pfx) (d a : BitVec 5) (s : State) : Host.Outcome State Fault Refusal :=
  runRep p true 32 d 32 a s (fun _ d a s => afterTable true s (fun s =>
    let t := s.tctx.table
    .done (s.masked p d (fun i => BitVec.ofNat 32 (encodeT8 t p.round (f32Num (VReg.lane (s.v a) i)))))))

/-- A copy converts to or from T8 or T8B (R71). -/
def Copy.usesT8 (k : Copy) : Bool :=
  match k.conv with
  | some q => Machine.usesT8 q.1 || Machine.usesT8 q.2
  | none => false

/-- An earlier operation of the context on this tile still converts by the table (R71). -/
def State.tableBusy (s : State) : Bool :=
  (s.mtxOf s.cur.tile s.ctxn).queue.any (fun c => Machine.usesT8 c.fmt) ||
  (s.tile s.cur.tile).slots.any (fun o => match o with
    | some k => k.ctx == s.ctxn && k.usesT8
    | none => false)

/-- A decode table becomes pending once every earlier conversion of the context has finished (R71). -/
def loadTable (t : List (BitVec 19)) (s : State) : Res :=
  if s.tableBusy then .hold s else .done (s.pend (.table t))

/-- Element k of a `t8.ld`: selector 0 reads an image, 1 and 2 are the presets (R69, R154). -/
def tableElement (p : Pfx) (m : MemOp) (k : Nat) (sel : BitVec 5) (s : State) : Res :=
  if sel = 1 then loadTable tableE4 s
  else if sel = 2 then loadTable tableE5 s
  else
    let x := Access.at (s.c m.cap) (s.effective p m (1024 * k)) 1024 (need [permLD]) 4 .load p.scope
    atSpot p (s.look x none) false false s (fun sp s =>
      readAt sp 1024 s (fun bs s =>
        let image := (List.range 256).map (fun i => ofBytes ((bs.drop (4 * i)).take 4))
        if tableValid image then loadTable (image.map (BitVec.ofNat 19)) s
        else .trap s Code.numTable (BitVec.ofNat 64 x.ta)))

def execT8Ld (p : Pfx) (m : MemOp) (s : State) : Host.Outcome State Fault Refusal :=
  runRep p true 3 0 32 0 s (fun k sel _ s => tableElement p m k sel s)
def execT8LdE4 (p : Pfx) (s : State) : Host.Outcome State Fault Refusal :=
  runRep p true 3 1 32 0 s (fun k sel _ s => tableElement p { cap := 0, regOff := false } k sel s)
def execT8LdE5 (p : Pfx) (s : State) : Host.Outcome State Fault Refusal :=
  runRep p true 3 2 32 0 s (fun k sel _ s => tableElement p { cap := 0, regOff := false } k sel s)

end Sys2Proof.Machine
end

