-- ==== Sys2Proof/Machine/Sync.lean ====
section
/-! DEFINITION. Machine/Sync.lean: page 3: atomics, sync words, barriers, mailboxes and the fence (R197, R208 to
R223). -/

namespace Sys2Proof.Machine

/-! ## Atomics (R209 to R211, R213) -/

/-- Steps 2 to 5 of R209, the pin of a global address among them, then the atomic at its spot. space is a fault of
step 2 that the format of a bank raises. DESIGN CHOICE, log 36. -/
def atomically (p : Pfx) (x : Access) (space : Option (BitVec 16)) (s : State) (body : Spot → State → Res) : Res :=
  let ta := BitVec.ofNat 64 x.ta
  match firstFault [x.via.checkAccess x.a x.n x.need, if x.a % x.align != 0 then some Code.memAlign else none,
      space, s.spaceFault x none] with
  | some e => .trap s e ta
  | none =>
    pinIf ((spaceOf s.cur.tile x.a).1 == .global) s (fun s => afterCompare (!s.speculative) s (fun s =>
      atSpot p (s.lookup x) true false s (fun sp s =>
        if sp.pieces.any (fun q => keyKind q.key == 1) && s.fresh % 2 == 1 then .trap s Code.hostAtom ta
        else afterRelease p true (sp.space == .global) s (fun s => body sp s))))

/-- The access of an atomic. -/
def State.atomicAccess (s : State) (p : Pfx) (m : MemOp) (n align : Nat) (use : Use) : Access :=
  Access.at (s.c m.cap) (s.effective p m 0) n (need [permLD, permST, permATOM]) align use p.scope

/-- Majors 0 to 7: the old doubleword returns to sd; f gives the new one, or none where nothing is written (R210). -/
def atomicOp (p : Pfx) (d : BitVec 5) (m : MemOp) (s : State) (f : Word → Option Word) :
    Host.Outcome State Fault Refusal :=
  run p true s (fun s =>
    atomically p (s.atomicAccess p m 8 8 .atomic) none s (fun sp s =>
      readAt sp 8 s (fun bs s =>
        let old := BitVec.ofNat 64 (ofBytes bs)
        let fin (s : State) : Res := .done (s.pend (.s d old))
        match f old with
        | some w => writeAt sp (toBytes 8 w.toNat) false s fin
        | none => fin s)))

def execAmAdd (p : Pfx) (d : BitVec 5) (m : MemOp) (s : State) : Host.Outcome State Fault Refusal :=
  atomicOp p d m s (fun w => some (updateFn 0 w (s.s d)))
def execAmAnd (p : Pfx) (d : BitVec 5) (m : MemOp) (s : State) : Host.Outcome State Fault Refusal :=
  atomicOp p d m s (fun w => some (updateFn 2 w (s.s d)))
def execAmOr (p : Pfx) (d : BitVec 5) (m : MemOp) (s : State) : Host.Outcome State Fault Refusal :=
  atomicOp p d m s (fun w => some (updateFn 1 w (s.s d)))
def execAmXor (p : Pfx) (d : BitVec 5) (m : MemOp) (s : State) : Host.Outcome State Fault Refusal :=
  atomicOp p d m s (fun w => some (updateFn 3 w (s.s d)))
def execAmMin (p : Pfx) (d : BitVec 5) (m : MemOp) (s : State) : Host.Outcome State Fault Refusal :=
  atomicOp p d m s (fun w => some (updateFn 4 w (s.s d)))
def execAmMax (p : Pfx) (d : BitVec 5) (m : MemOp) (s : State) : Host.Outcome State Fault Refusal :=
  atomicOp p d m s (fun w => some (updateFn 5 w (s.s d)))
def execAmSwp (p : Pfx) (d : BitVec 5) (m : MemOp) (s : State) : Host.Outcome State Fault Refusal :=
  atomicOp p d m s (fun _ => some (s.s d))
def execAmCas (p : Pfx) (d : BitVec 5) (m : MemOp) (s : State) : Host.Outcome State Fault Refusal :=
  atomicOp p d m s (fun w => if w = s.s p.y then some (s.s d) else none)

/-- The formats that `am.fadd` refuses in scratchpad (R211). -/
def faddFault (fmt : Nat) : Option (BitVec 16) := if 3 ≤ fmt then some Code.memSpace else none

def execAmFadd (p : Pfx) (d : BitVec 5) (m : MemOp) (s : State) : Host.Outcome State Fault Refusal :=
  run p true s (fun s =>
    let q := s.vecFmt (s.effective p m 0)
    let w := elemWidth q.1
    atomically p (s.atomicAccess p m w w .atomic) (if q.2 then faddFault q.1 else none) s (fun sp s =>
      readAt sp w s (fun bs s =>
        let old := ofBytes bs
        writeAt sp (toBytes w (faddElem q.1 old ((s.s d).extractLsb' 0 32))) false s (fun s =>
          .done (s.pend (.s d ((decodeElem [] q.1 old 0).zeroExtend 64)))))))

/-! ## Updates (R212) -/

/-- An update at its spot: held by the tile, or performed at the memory controller where the frame is one of an open export,
which no cache holds (R354). -/
def State.putUpdate (s : State) (key fn : Nat) (x : Word) : State :=
  if s.exported key then (s.mergeRanges [(key, updateWidth fn)]).mergeOne (key, fn, s.keyId, x)
  else s.holdUpdate s.cur.tile key fn s.keyId x

/-- The bytes that an update covers for step 2 of R209: its word's, or a scratchpad element's for fadd. -/
def State.updateBytes (s : State) (a fn : Nat) : Nat :=
  let q := s.vecFmt a
  if fn = 6 ∧ q.2 then elemWidth q.1 else updateWidth fn

def updateOp (p : Pfx) (d : BitVec 5) (m : MemOp) (fn : Nat) (s : State) : Host.Outcome State Fault Refusal :=
  run p true s (fun s => atPriv .supervisor s (fun s =>
    let w := s.updateBytes (s.effective p m 0) fn
    let x := s.atomicAccess p m w w .update
    atLook (s.look x none) true false s (s.reachHeld p) (fun sp s =>
      match sp.pieces with
      | [] => .done s
      | q :: _ =>
        if keyKind q.key = 1 then .trap s Code.memSpace (BitVec.ofNat 64 x.ta)
        else afterRelease p false true s (fun s => .done (s.putUpdate q.key fn (s.s d))))))

def execAmUpdAdd (p : Pfx) (d : BitVec 5) (m : MemOp) (s : State) : Host.Outcome State Fault Refusal := updateOp p d m 0 s
def execAmUpdOr (p : Pfx) (d : BitVec 5) (m : MemOp) (s : State) : Host.Outcome State Fault Refusal := updateOp p d m 1 s
def execAmUpdAnd (p : Pfx) (d : BitVec 5) (m : MemOp) (s : State) : Host.Outcome State Fault Refusal := updateOp p d m 2 s
def execAmUpdXor (p : Pfx) (d : BitVec 5) (m : MemOp) (s : State) : Host.Outcome State Fault Refusal := updateOp p d m 3 s
def execAmUpdMin (p : Pfx) (d : BitVec 5) (m : MemOp) (s : State) : Host.Outcome State Fault Refusal := updateOp p d m 4 s
def execAmUpdMax (p : Pfx) (d : BitVec 5) (m : MemOp) (s : State) : Host.Outcome State Fault Refusal := updateOp p d m 5 s
def execAmUpdFadd (p : Pfx) (d : BitVec 5) (m : MemOp) (s : State) : Host.Outcome State Fault Refusal := updateOp p d m 6 s

/-- UPDATE_MERGE: the held updates of a line merge as it is evicted (R212). -/
def execUpdateMerge (tile line : Nat) (s : State) : Host.Outcome State Fault Refusal :=
  .next (s.mergeTile tile (some line))

/-! ## Sync words (R214, R216) -/

def syncWord (p : Pfx) (m : MemOp) (use : Use) (s : State) (body : Spot → State → Res) : Host.Outcome State Fault Refusal :=
  run p true s (fun s =>
    let x := Access.at (s.c m.cap) (s.effective p m 0) 16 (need [if use.writes then permST else permLD]) 16 use .dflt
    atSpot p (s.look x none) use.writes false s body)

/-- GEN and COUNT of a sync word's bytes. -/
def syncGen (bs : List Byte) : Nat := ofBytes ((bs.drop 8).take 4)
def syncCount (bs : List Byte) : Nat := ofBytes ((bs.drop 4).take 4)

def execSwInit (p : Pfx) (d : BitVec 5) (m : MemOp) (s : State) : Host.Outcome State Fault Refusal :=
  syncWord p m .syncInit s (fun sp s =>
    match sp.pieces with
    | [] => .done s
    | q :: _ => .done ((s.writeBytes s.keyId q.key (toBytes 8 ((s.s d).toNat % 2 ^ 32))).writeBytes s.keyId (q.key + 12)
        (toBytes 4 0)))

def execSwWait (p : Pfx) (d : BitVec 5) (m : MemOp) (s : State) : Host.Outcome State Fault Refusal :=
  syncWord p m .sync s (fun sp s => readAt sp 16 s (fun bs s =>
    if syncGen bs = (s.s d).toNat % 2 ^ 32 then .hold s else .done s))

def execSwGen (p : Pfx) (d : BitVec 5) (m : MemOp) (s : State) : Host.Outcome State Fault Refusal :=
  syncWord p m .sync s (fun sp s => readAt sp 16 s (fun bs s =>
    .done (s.pend (.s d (BitVec.ofNat 64 (syncCount bs * 2 ^ 32 + syncGen bs))))))

/-! ## The journal (R223) -/

/-- Same instruction and target. -/
def Journal.same : Journal → Journal → Bool
  | .arv b _, .arv c _ => b == c
  | .put t i, .put u j => t == u && i == j
  | .got i _, .got j _ => i == j
  | _, _ => false

/-- The value an entry holds for sd. -/
def Journal.value : Journal → Word
  | .arv _ v => v
  | .got _ v => v
  | .put _ _ => 0

/-- A journalled chain after its checks: the entry it received replays it, or it is performed afresh, the entries from
there on being discarded. key names its instruction and target. -/
def journalled (key : Journal) (s : State) (replay : Word → State → Res) (body : State → Res) : Res :=
  match s.fir with
  | none => body s
  | some f =>
    match f.journalIn[f.journaled]? with
    | some j =>
      if j.same key then replay j.value (s.setFir { f with journaled := f.journaled + 1 })
      else body (s.setFir { f with journalIn := f.journalIn.take f.journaled })
    | none => body s

/-- A chain performed afresh is recorded by a speculative firing among its first 16. -/
def State.record (s : State) (j : Journal) : State :=
  match s.fir with
  | none => s
  | some f =>
    if !f.pinned && decide (f.journaled + f.journal.length < 16) then s.setFir { f with journal := f.journal ++ [j] } else s

/-! ## Barriers (R220 to R222) -/

def Barrier.reset : Barrier := { mask := 0, arr := 0, phase := 0 }

/-- The package number of the context's barrier b in the issuing tile's cluster, if its block has it. -/
def State.barrierNum (s : State) (b : Nat) : Option Nat :=
  match Map.get? (s.cluster (clusterOf s.cur.tile)).shares s.ctxn with
  | some x => if b < x.barLen then some (x.barLo + b) else none
  | none => none

def State.barrier (s : State) (i : Nat) : Barrier := Map.get (s.cluster (clusterOf s.cur.tile)).barriers i Barrier.reset

def State.setBarrier (s : State) (i : Nat) (x : Barrier) : State :=
  let k := clusterOf s.cur.tile
  s.setCluster k { s.cluster k with barriers := Map.set (s.cluster k).barriers i x }

/-- A barrier of the issuing tile's cluster, as a chain reads it (R377). -/
def State.barrierSeen (s : State) (i : Nat) : Seen := { va := noAddr, key := keyUnit (clusterOf s.cur.tile) (256 + i), n := 1 }

/-- A chain on barrier b of the context's block: BAR.OWN first. -/
def atBarrier (p : Pfx) (i : BitVec 5) (s : State) (body : Nat → Barrier → State → Res) :
    Host.Outcome State Fault Refusal :=
  run p true s (fun s =>
    match s.barrierNum (p.immI i).toNat with
    | none => .trap s Code.barOwn 0
    | some n => consume [s.barrierSeen n] s (fun s => body n (s.barrier n) s))

def execBarCfg (p : Pfx) (d i : BitVec 5) (s : State) : Host.Outcome State Fault Refusal :=
  atBarrier p i s (fun n x s =>
    let m := (s.s d).toNat % 256
    .done (if x.mask = m then s else s.setBarrier n { x with mask := m, arr := 0 }))

/-- An arrival of tile j of the cluster. -/
def Barrier.arrive (x : Barrier) (j : Nat) : Barrier :=
  let a := x.arr ||| 2 ^ j
  if a = x.mask then { x with arr := 0, phase := (x.phase + 1) % 2 ^ 32 } else { x with arr := a }

def execBarArv (p : Pfx) (d i : BitVec 5) (s : State) : Host.Outcome State Fault Refusal :=
  atBarrier p i s (fun n x s =>
    let j := clusterIdx s.cur.tile
    let b := (p.immI i).toNat
    if !x.mask.testBit j then .trap s Code.barMemb 0
    else
      journalled (.arv b 0) s (fun v s => .done (s.setS d v)) (fun s =>
        if x.arr.testBit j then .hold s
        else
          let v := BitVec.ofNat 64 x.phase
          .done (((s.setBarrier n (x.arrive j)).record (.arv b v)).setS d v)))

def execBarWt (p : Pfx) (d i : BitVec 5) (s : State) : Host.Outcome State Fault Refusal :=
  atBarrier p i s (fun _ x s => if x.phase = (s.s d).toNat % 2 ^ 32 then .hold s else .done s)

/-! ## Mailboxes (R217 to R219) -/

def TileCtx.mailbox (x : TileCtx) (i : BitVec 5) : Mailbox := x.mail[i.toNat]'i.isLt
def TileCtx.setMailbox (x : TileCtx) (i : BitVec 5) (b : Mailbox) : TileCtx := { x with mail := x.mail.set i.toNat b i.isLt }

/-- A value put into a mailbox. -/
def Mailbox.put (b : Mailbox) (v : Word) : Mailbox := { value := v, presence := true, overrun := b.overrun || b.presence }

/-- `mb.put`. A release pins as one on a local space does; a mailbox is no space of R118 that has a widest scope, and here the
release waits for no posted write, whatever its scope. DESIGN CHOICE, log 90. -/
def execMbPut (p : Pfx) (d a : BitVec 5) (s : State) : Host.Outcome State Fault Refusal :=
  run p true s (fun s =>
    let t := (s.s d).toNat
    if !s.tileExists t then .trap s Code.memNotile 0
    else if !s.resident t s.ctxn then .trap s Code.memAway 0
    else
      journalled (.put t p.x.toNat) s (fun _ s => .done s) (fun s =>
        afterRelease p true false s (fun s =>
          let s := s.mergeOrdered p true
          let x := s.tctxOf t s.ctxn
          .done ((s.setTctxOf t s.ctxn (x.setMailbox p.x ((x.mailbox p.x).put (s.s a)))).record (.put t p.x.toNat)))))

def execMbGet (p : Pfx) (d a : BitVec 5) (s : State) : Host.Outcome State Fault Refusal :=
  run p true s (fun s =>
    journalled (.got a.toNat 0) s (fun v s => .done (s.pend (.s d v))) (fun s =>
      let b := s.tctx.mailbox a
      if !b.presence then .hold s
      else
        let s := s.mergeOrdered p true
        .done (((s.setTctx (s.tctx.setMailbox a { b with presence := false, overrun := false })).record
          (.got a.toNat b.value)).pend (.s d b.value))))

/-- The bits of a flag of m31 to m0. -/
def TileCtx.mailBits (x : TileCtx) (f : Mailbox → Bool) : Nat :=
  ((List.range 32).map (fun i => bit (f (x.mailbox (BitVec.ofNat 5 i))) * 2 ^ i)).foldl (· + ·) 0

def execMbTest (p : Pfx) (d : BitVec 5) (s : State) : Host.Outcome State Fault Refusal :=
  run p true s (fun s =>
    .done (s.setS d (BitVec.ofNat 64 (s.tctx.mailBits Mailbox.overrun * 2 ^ 32 + s.tctx.mailBits Mailbox.presence))))

/-! ## The fence (R197) -/

/-- A copy that the running firing pushed has not completed. -/
def State.ownCopies (s : State) : Bool :=
  let mine (k : Copy) : Bool := match k.pusher with | some i => i.same s.selfId | none => false
  (s.tile s.cur.tile).slots.any (fun o => match o with | some k => mine k | none => false) || s.tctx.copies.any mine

/-- The fence. An earlier message of class m counts as performed at the scope when it has left the tile: its pin has sent what
the firing had buffered, and the fence waits for no arrival. DESIGN CHOICE, log 90. -/
def fenceBody (p : Pfx) (d : BitVec 5) (classes : Nat) (s : State) : Res :=
  let g := classes.testBit 1
  let rel := releases p.order
  pinIf (rel && (g || classes.testBit 2) && s.holdsTaskLines) s (fun s =>
    if rel && classes.testBit 3 && s.ownCopies then .hold s
    else
      let s := if g && p.scope != .tile && p.scope != .cluster then s.mergeTile s.cur.tile none else s
      if p.scope = .system then
        match s.waitPosted with
        | .wait => .hold s
        | .over s st =>
          let s := s.setS d st
          if st.msb then .trap s Code.linkDown 0 else .done s
      else .done (s.setS d 0))

def execFence (p : Pfx) (d i : BitVec 5) (s : State) : Host.Outcome State Fault Refusal :=
  run p true s (fun s => fenceBody p d (p.immI i).toNat s)

end Sys2Proof.Machine
end

