-- ==== Sys2Proof/Machine/Matrix.lean ====
section
/-! DEFINITION. Machine/Matrix.lean: page 6 (R231 to R242) and the units that the matrix sequencer performs (R228, R234
to R243). -/

namespace Sys2Proof.Machine

/-! ## Page 6 -/

/-- RND's code of a rounding mode (R229). -/
def roundCode : Round → Nat
  | .dflt => 0 | .rn => 1 | .rz => 2 | .ru => 3 | .rd => 4 | .ro => 5

def roundOfCode : Nat → Round
  | 1 => .rn | 2 => .rz | 3 => .ru | 4 => .rd | 5 => .ro | _ => .dflt

/-- A command that an instruction builds with an operand: steps 2 to 7 of R233, then the queue (R231, R233). -/
def matrixOp (p : Pfx) (d : BitVec 5) (m : MemOp) (opc : Nat) (perms : List Nat) (s : State) :
    Host.Outcome State Fault Refusal :=
  run p true s (fun s => firstUse s (fun s =>
    let a := s.effective p m 0
    let q := spaceOf s.cur.tile a
    let own := q.1.scratchTile == some s.cur.tile
    let ws := q.1 == .wstore
    let sp := (s.s d).toNat
    let w : CmdWords :=
      { w0 := opc + roundCode p.round * 2 ^ 8 + bit (ws && opc == opLds) * 2 ^ 11, w1 := q.2, w2 := sp % 2 ^ 21, w3 := 0
        rest := true }
    let fmt := if ws then w.wfmt else s.fmtAt s.ctxn q.1 q.2
    let ta := BitVec.ofNat 64 a
    match firstFault [(s.c m.cap).checkAccess a (spanLen opc fmt w.pitch ws) (need perms),
        s.cmdFault s.mtx.predict w true q.1.scratchTile.isSome own ws fmt] with
    | some e => .trap s e ta
    | none =>
      afterTable (usesT8 fmt) s (fun s => submit [{ s.command w ws with fmt := fmt }] s (fun s => .done s))))

/-- A command without an operand. -/
def matrixPlain (p : Pfx) (opc : Nat) (s : State) : Host.Outcome State Fault Refusal :=
  run p true s (fun s => firstUse s (fun s =>
    submit [s.command { w0 := opc, w1 := 0, w2 := 0, w3 := 0, rest := true } false] s (fun s => .done s)))

def execMLds (p : Pfx) (d : BitVec 5) (m : MemOp) (s : State) : Host.Outcome State Fault Refusal :=
  matrixOp p d m opLds [permLD] s
def execMStr (p : Pfx) (d : BitVec 5) (m : MemOp) (s : State) : Host.Outcome State Fault Refusal :=
  matrixOp p d m opStr [permLD] s
def execMMrot (p : Pfx) (d : BitVec 5) (m : MemOp) (s : State) : Host.Outcome State Fault Refusal :=
  matrixOp p d m opMrot [permLD, permST] s
def execMRd (p : Pfx) (d : BitVec 5) (m : MemOp) (s : State) : Host.Outcome State Fault Refusal :=
  matrixOp p d m opRd [permST] s
def execMRdz (p : Pfx) (d : BitVec 5) (m : MemOp) (s : State) : Host.Outcome State Fault Refusal :=
  matrixOp p d m opRdz [permST] s
def execMSwap (p : Pfx) (s : State) : Host.Outcome State Fault Refusal := matrixPlain p opSwap s
def execMZero (p : Pfx) (s : State) : Host.Outcome State Fault Refusal := matrixPlain p opZero s

/-- The checks of `m.cmd` before its commands' own (R241). -/
def State.mcmdFault (s : State) (c : Cap) (a n : Nat) : Option (BitVec 16) :=
  let q := spaceOf s.cur.tile a
  let own := q.1.scratchTile == some s.cur.tile
  firstFault
    [ c.checkAccess a (64 * n) (need [permLD]),
      if a % 64 != 0 then some Code.memAlign else none,
      if !own || decide (2 ^ 18 < q.2 + 64 * n) then some Code.memSpace else none,
      if 16 < n then some Code.mtxCmd else none ]

def execMCmd (p : Pfx) (d : BitVec 5) (m : MemOp) (s : State) : Host.Outcome State Fault Refusal :=
  run p true s (fun s => firstUse s (fun s =>
    let a := s.effective p m 0
    let n := (s.s d).toNat
    let ta := BitVec.ofNat 64 a
    match s.mcmdFault (s.c m.cap) a n with
    | some e => .trap s e ta
    | none =>
      let key := keyScratch s.ctxn s.cur.tile (spaceOf s.cur.tile a).2
      consume [{ va := a, key := key, n := 64 * n }] s (fun s =>
        let bs := Memory.readBytes s.mem key (64 * n)
        let cmds := (List.range n).map (fun i => CmdWords.ofBytes ((bs.drop (64 * i)).take 64))
        match s.checkAll s.mtx.predict 0 cmds with
        | .error (e, _) => .trap s e ta
        | .ok cs => afterTable (n != 0) s (fun s => submit cs s (fun s => .done s)))))

def execMDrain (p : Pfx) (s : State) : Host.Outcome State Fault Refusal :=
  run p true s (fun s => firstUse s (fun s => if s.mtx.queue.isEmpty then .done s else .hold s))

/-- The word of `m.q` (R242). A queue that runs is performing its first command. -/
def Matrix.statusWord (m : Matrix) : Word :=
  BitVec.ofNat 64 (m.queue.length % 32 + bit (!m.queue.isEmpty && !m.stopped) * 2 ^ 5 + m.done % 2 ^ 32 * 2 ^ 8 +
    bit m.nbrCls * 2 ^ 40)

def execMQ (p : Pfx) (d : BitVec 5) (s : State) : Host.Outcome State Fault Refusal :=
  run p true s (fun s => firstUse s (fun s =>
    let m := s.mtx
    .done ((s.setMtx { m with nbrCls := false }).setS d m.statusWord)))

/-! ## Elements of operands (R226, R232) -/

/-- The context whose state a tile's unit holds, while its queue may run. -/
def State.mtxOwner (s : State) (n : Nat) : Option Nat :=
  let t := s.tile n
  if t.accown.getLsbD 15 && !t.matrix.stopped then some (t.accown.toNat % 4096) else none

/-- One row of an operand, decoded: count elements from an offset, in the own scratchpad or the weight store. -/
def State.operandRow (s : State) (n ctx : Nat) (c : MtxCmd) (off count : Nat) : List Lane :=
  let t := (s.tctxOf n ctx).table
  let w := elemWidth c.fmt
  (List.range count).map (fun j =>
    if c.ws then decodeElem t c.fmt (ofBytes (s.readBytes (s.info ctx).keyId (keyWs (quadOf n) (off + j * w)) w)) 0
    else s.elemAt t n ctx c.fmt (off + j * w))

/-- What a row's read takes from memory. -/
def rowSeen (n ctx : Nat) (c : MtxCmd) (off count : Nat) : List Seen :=
  if c.ws then [{ va := loc + 0x10000000 + off, key := keyWs (quadOf n) off, n := count * elemWidth c.fmt }]
  else seenElems n ctx c.fmt off (count * elemWidth c.fmt) (loc + off)

/-- The offset of row i of a command's operand. -/
def MtxCmd.rowOff (c : MtxCmd) (i : Nat) : Nat := c.addr + i * pitchOf c.opc c.fmt c.pitch

/-- A value of a list of lanes, an absent one being zero (R226). -/
def laneAt (l : List Lane) (i : Nat) : Lane := l.getD i 0

/-! ## The arithmetic of STR (R236) -/

/-- Successive halvings of a row of products: p[k] + p[k + h] for h = K/2 down to 1. -/
def treeSum {α : Type} (op : α → α → α) (z : α) : Nat → List α → α
  | 0, l => l.headD z
  | fuel + 1, l =>
    let h := l.length / 2
    if h = 0 then l.headD z else treeSum op z fuel (List.zipWith op (l.take h) (l.drop h))

/-- One element of StreamRow: the row's K values against column j of the plane, added into x. -/
def streamElem (cls : PlaneClass) (row plane : List Lane) (j : Nat) (x : Lane) : Lane :=
  match cls with
  | .int =>
    let ps : List Int := (List.range row.length).map (fun k => (laneAt row k).toInt * (laneAt plane (32 * k + j)).toInt)
    x + BitVec.ofInt 32 (treeSum (fun a b => a + b) 0 7 ps)
  | _ =>
    let ps : List Lane := (List.range row.length).map (fun k => fmul .rn (laneAt row k) (laneAt plane (32 * k + j)))
    fadd .rn x (treeSum (fadd .rn) 0 7 ps)

/-- Row i of acc replaced. -/
def setAccRow (acc : List Lane) (i : Nat) (f : Nat → Lane → Lane) : List Lane :=
  (List.range 1024).map (fun e => if e / 32 = i then f (e % 32) (laneAt acc e) else laneAt acc e)

/-- StreamRow(i). -/
def Matrix.streamRow (m : Matrix) (i : Nat) (row : List Lane) : Matrix :=
  { m with acc := setAccRow m.acc i (fun j x => streamElem m.active.cls row m.active.vals j x)
           aclsInt := m.active.cls == .int, empty := false }

/-! ## Readout (R240) -/

/-- The exact value that ReadElem rounds. -/
def Matrix.readNum (m : Matrix) (x : Lane) : Num :=
  if m.empty then .fin false 0 0 else if m.aclsInt then ofInt x.toInt else f32Num x

/-- ReadElem, but for T8B. -/
def Matrix.readElem (m : Matrix) (t : List (BitVec 19)) (fmt : Nat) (mode : Round) (x : Lane) : Nat :=
  let v := m.readNum x
  if intClass fmt then
    let r := intRange fmt
    if m.aclsInt && !m.empty then encodeInt fmt x.toInt
    else (BitVec.ofInt (8 * elemWidth fmt) (convertToInt r.1 r.2 (if mode = .dflt then .rz else mode) v)).toNat
  else encodeFloat t fmt mode v

/-- Row i of acc written to the target. -/
def State.readoutRow (s : State) (n ctx : Nat) (m : Matrix) (c : MtxCmd) (i : Nat) : State :=
  let t := (s.tctxOf n ctx).table
  let mode := roundOfCode c.rnd
  let row := (List.range 32).map (fun j => laneAt m.acc (32 * i + j))
  if c.fmt = fmtT8B then
    (List.range 8).foldl (fun s b =>
      s.putBlock t mode n ctx (c.rowOff i + 4 * b) (((row.drop (4 * b)).take 4).map m.readNum)) s
  else s.putImage n ctx (c.rowOff i) (row.flatMap (fun x => toBytes (elemWidth c.fmt) (m.readElem t c.fmt mode x)))

/-! ## The sequencer (R228, R243) -/

/-- The firing that queued a command, while it lives. -/
def State.cmdOwner (s : State) (n : Nat) (o : Option FiringId) : Option LiveFiring :=
  match o with
  | some i => (s.live (quadOf n)).find? (fun l => l.id.same i)
  | none => none

/-- That firing while it is speculative. -/
def State.speculativeOwner (s : State) (n : Nat) (o : Option FiringId) : Option LiveFiring :=
  (s.cmdOwner n o).bind (fun l => if l.f.pinned then none else some l)

/-- DATA.UNC raised on the set of a pinned firing, between two of its chains; one that is saved ends with that code. -/
def State.raiseOn (s : State) (l : LiveFiring) (va : Nat) : State :=
  match l.place with
  | .set k =>
    let s1 : State := { s with cur := { tile := l.tile, set := k } }
    let s2 := s1.raise Code.dataUnc (BitVec.ofNat 64 va)
    { s2 with cur := s.cur }
  | _ => s.onFiring l (fun f => { f with term := some Code.dataUnc })

/-- What a poisoned word does that a command has read (R380 to R384): its speculative firing is aborted, a pinned one takes
DATA.UNC, for a pager firing and for a command of Halo's a machine check goes to Halo, and where the command's firing is over a
record of class 0x11 is posted. DEDUCED, log 87. -/
def State.engineBad (s : State) (n ctx : Nat) (o : Option FiringId) (va key : Nat) : State :=
  match s.cmdOwner n o with
  | some l =>
    if s.isPager l.tile l.ctx then (s.raiseCheck key).raiseOn l va
    else if l.f.pinned then s.raiseOn l va else s.rerunFor l va key
  | none => if o.isNone then s.raiseCheck key else s.postError (some ctx) (s.errorAt clsUnconsumed n ctx key va)

/-- The first command of a running queue. -/
def State.headCmd (s : State) (n : Nat) : Option (Nat × MtxCmd) :=
  match s.mtxOwner n, (s.tile n).matrix.queue with
  | some ctx, c :: _ => some (ctx, c)
  | _, _ => none

/-- A unit of the first command is done: it advances its step, or completes. -/
def Matrix.advanceHead (m : Matrix) (last : Nat) : Matrix :=
  match m.queue with
  | [] => m
  | c :: cs =>
    if last ≤ c.step + 1 then { m with queue := cs, done := (m.done + 1) % 2 ^ 32 }
    else { m with queue := { c with step := c.step + 1 } :: cs }

/-- A change of the unit's state on a tile. -/
def State.onMatrix (s : State) (n : Nat) (f : Matrix → Matrix) : State :=
  s.setTile n { s.tile n with matrix := f (s.tile n).matrix }

/-- A unit performed on words it reads. Where one of them is poisoned nothing of the unit is performed, and the command is
over (R382). -/
def State.engineReads (s : State) (n ctx : Nat) (c : MtxCmd) (rs : List Seen) (body : State → State) : State :=
  match s.poisonIn rs with
  | none => body s
  | some (va, key) =>
    (s.onMatrix n (fun m => { m with queue := m.queue.drop 1, done := (m.done + 1) % 2 ^ 32 })).engineBad n ctx c.owner va key

/-- A unit of the first command of a tile, if its opcode is the one named. -/
def unitOp (n opc : Nat) (s : State) (body : Nat → MtxCmd → Matrix → State → State) : Host.Outcome State Fault Refusal :=
  match s.headCmd n with
  | some (ctx, c) => .next (if c.opc = opc then body ctx c (s.tile n).matrix s else s)
  | none => .next s

/-- Eight rows of weights into the shadow plane (R234). -/
def Matrix.loadRows (m : Matrix) (cls : PlaneClass) (k0 : Nat) (rows : List (List Lane)) : Matrix :=
  let old := m.shadow.vals
  { m with shadow := { cls := cls, vals := (List.range (32 * cls.k)).map (fun e =>
      match rows[e / 32 - k0]? with
      | some r => if k0 ≤ e / 32 then laneAt r (e % 32) else laneAt old e
      | none => laneAt old e) } }

/-- A bank of the weight-store rows that a unit reads is in refresh on the tile's die (R133). -/
def State.unitWaits (s : State) (n : Nat) (c : MtxCmd) : Bool :=
  c.ws && (List.range 8).any (fun r =>
    (banksOf n (c.rowOff (8 * c.step + r)) (32 * elemWidth c.fmt)).any (fun b => inRefresh (s.refreshTime (dieOf n)) (b % 16)))

def execLds (n : Nat) (s : State) : Host.Outcome State Fault Refusal :=
  unitOp n opLds s (fun ctx c _ s =>
    if s.unitWaits n c then s
    else
      let cls := (fmtClass c.fmt).getD .f16
      let k0 := 8 * c.step
      s.engineReads n ctx c ((List.range 8).flatMap (fun r => rowSeen n ctx c (c.rowOff (k0 + r)) 32)) (fun s =>
        let rows := (List.range 8).map (fun r => s.operandRow n ctx c (c.rowOff (k0 + r)) 32)
        (s.mtxFresh n ctx 1 (32 * k0) 256).onMatrix n (fun m => (m.loadRows cls k0 rows).advanceHead (cls.k / 8))))

/-- A word lies in an array of a context's matrix state. -/
def inMtx (n c i w : Nat) : Bool := decide (keyMtx n c i 0 ≤ w) && decide (w < keyMtx n c (i + 1) 0)

/-- The poisoned words of one array, as words of another (R379). -/
def State.mtxMoved (s : State) (n c i n' j : Nat) : List Nat :=
  (s.poison.filter (inMtx n c i)).map (fun w => keyMtx n' c j 0 + (w - keyMtx n c i 0))

/-- The planes change places, with the poison in them. -/
def State.swapPoison (s : State) (n c : Nat) : State :=
  if s.poison.isEmpty then s
  else
    { s with poison := (s.mtxMoved n c 0 n 1 ++ s.mtxMoved n c 1 n 0).foldl Keys.insert
               (s.poison.filter (fun w => !inMtx n c 0 w && !inMtx n c 1 w)) }

def execSwap (n : Nat) (s : State) : Host.Outcome State Fault Refusal :=
  unitOp n opSwap s (fun ctx _ _ s =>
    (s.swapPoison n ctx).onMatrix n (fun m => ({ m with active := m.shadow, shadow := m.active }).advanceHead 1))

def execZero (n : Nat) (s : State) : Host.Outcome State Fault Refusal :=
  unitOp n opZero s (fun ctx _ _ s => (s.mtxFresh n ctx 2 0 1024).onMatrix n (fun m => ({ m with acc := [], empty := true }).advanceHead 1))

/-- Row `step` of a stream: the bytes are read, then the product is added. -/
def State.streamUnit (s : State) (n ctx : Nat) (c : MtxCmd) (last : Nat) : State :=
  let k := (s.tile n).matrix.active.cls.k
  let off := c.rowOff c.step
  s.engineReads n ctx c (rowSeen n ctx c off k ++ mtxSeen n ctx 0 0 (32 * k) ++ mtxSeen n ctx 2 (32 * c.step) 32) (fun s =>
    let row := s.operandRow n ctx c off k
    s.onMatrix n (fun m => (m.streamRow c.step row).advanceHead last))

def execStr (n : Nat) (s : State) : Host.Outcome State Fault Refusal :=
  unitOp n opStr s (fun ctx c _ s => s.streamUnit n ctx c 32)

def execRd (n : Nat) (s : State) : Host.Outcome State Fault Refusal :=
  unitOp n opRd s (fun ctx c m s =>
    s.engineReads n ctx c (mtxSeen n ctx 2 (32 * c.step) 32) (fun s => (s.readoutRow n ctx m c c.step).onMatrix n (fun m => m.advanceHead 32)))

def execRdz (n : Nat) (s : State) : Host.Outcome State Fault Refusal :=
  unitOp n opRdz s (fun ctx c m s =>
    s.engineReads n ctx c (mtxSeen n ctx 2 (32 * c.step) 32) (fun s =>
      (s.readoutRow n ctx m c c.step).onMatrix n (fun m =>
        let m1 := { m with acc := setAccRow m.acc c.step (fun _ _ => 0), empty := m.empty || c.step == 31 }
        m1.advanceHead 32)))

/-! ## The torus (R237) -/

/-- The raw bytes of an MROT's rows. -/
def State.mrotBytes (s : State) (n ctx : Nat) (c : MtxCmd) : List Byte :=
  (List.range 32).flatMap (fun i => Memory.readBytes s.mem (imageKey n ctx (c.rowOff i)) 64)

/-- A tile's landing buffer of a direction holds no arrival of any context: it has one for each (R237). -/
def State.landingFree (s : State) (n : Nat) (p : Matrix → Bool) : Bool :=
  p (s.tile n).matrix && (s.tile n).ctxs.all (fun q => p (s.mtxOf n q.1))

/-- The neighbours' landing buffers are free and the context is resident there (R237). -/
def State.mrotMaySend (s : State) (n ctx : Nat) : Bool :=
  let t := (s.tile n).torcfg
  s.resident (torWest t) ctx && s.resident (torNorth t) ctx &&
    s.landingFree (torWest t) (fun m => m.arrA.isEmpty) && s.landingFree (torNorth t) (fun m => m.arrP.isEmpty)

/-- What the rows that an MROT sends take from memory. -/
def mrotSeen (n ctx : Nat) (c : MtxCmd) : List Seen :=
  (List.range 32).map (fun i => { va := loc + c.rowOff i, key := imageKey n ctx (c.rowOff i), n := 64 })

/-- The poison of a plane goes with it to the tile it lands on (R379). -/
def State.landPoison (s : State) (n ctx north : Nat) : State :=
  let s1 := s.mtxFresh north ctx 3 0 2048
  if s.poison.isEmpty then s1 else { s1 with poison := (s.mtxMoved n ctx 0 north 3).foldl Keys.insert s1.poison }

/-- Steps 0 to 31 stream a row; step 32 sends once it may. -/
def execMrot (n : Nat) (s : State) : Host.Outcome State Fault Refusal :=
  unitOp n opMrot s (fun ctx c m s =>
    if c.step < 32 then s.streamUnit n ctx c 34
    else if c.step = 32 && s.mrotMaySend n ctx then
      s.engineReads n ctx c (mrotSeen n ctx c) (fun s =>
      let t := (s.tile n).torcfg
      let bytes := s.mrotBytes n ctx c
      let s := (s.landPoison n ctx (torNorth t)).mtxFresh (torWest t) ctx 5 0 512
      let s1 := s.setMtxOf (torWest t) ctx { s.mtxOf (torWest t) ctx with arrA := [(m.mrnd, bytes)] }
      let s2 := s1.setMtxOf (torNorth t) ctx { s1.mtxOf (torNorth t) ctx with arrP := [(m.mrnd, m.active)] }
      s2.onMatrix n (fun m => m.advanceHead 34))
    else s)

/-- The arrivals of an MROT's round. -/
def Matrix.arrivals (m : Matrix) : Option (List Byte × Plane) :=
  match Map.get? m.arrA m.mrnd, Map.get? m.arrP m.mrnd with
  | some a, some q => some (a, q)
  | _, _ => none

/-- Step 33: the arrivals of the round are applied (R237). -/
def execMrotArrival (n : Nat) (s : State) : Host.Outcome State Fault Refusal :=
  unitOp n opMrot s (fun ctx c m s =>
    if c.step = 33 then
      match m.arrivals with
      | none => s
      | some (a, q) =>
        s.engineReads n ctx c (mtxSeen n ctx 3 0 2048 ++ mtxSeen n ctx 5 0 512) (fun s =>
        let s1 := (List.range 32).foldl (fun s i => s.putImage n ctx (c.rowOff i) ((a.drop (64 * i)).take 64)) s
        let same := q.cls == m.active.cls
        (s1.mtxFresh n ctx 1 0 2048).onMatrix n (fun m =>
          ({ m with shadow := if same then q else { cls := m.active.cls, vals := [] }
                    nbrCls := m.nbrCls || !same
                    mrnd := (m.mrnd + 1) % 2 ^ 32, arrA := [], arrP := [] }).advanceHead 34))
    else s)

/-- The event that performs the next unit of a tile's queue, if it can be performed now. -/
def State.matrixEvent (s : State) (n : Nat) : List Event :=
  match s.headCmd n with
  | none => []
  | some (ctx, c) =>
    if c.opc = opLds then (if s.unitWaits n c then [] else [.lds n])
    else if c.opc = opSwap then [.swap n]
    else if c.opc = opStr then [.str n]
    else if c.opc = opMrot then
      (if c.step < 32 then [.mrot n]
       else if c.step = 32 then (if s.mrotMaySend n ctx then [.mrot n] else [])
       else if (s.tile n).matrix.arrivals.isSome then [.mrotArrival n] else [])
    else if c.opc = opRd then [.rd n]
    else if c.opc = opZero then [.zero n]
    else [.rdz n]

end Sys2Proof.Machine
end

