-- ==== Sys2Proof/Machine/Firings.lean ====
section
/-! DEFINITION. Machine/Firings.lean: arrivals, unbound queues and rewrites (R158 to R161), the making, saving, ending
and committing of firings (R27, R99, R162 to R166, R171, R175, R187, R267, R283). -/

namespace Sys2Proof.Machine

/-! ## The inbox (R160) -/

/-- The inbox slots of a context that are in use on a tile: queued and unbound messages, those held for reruns, and
those that its speculative firings hold (R160, R163). -/
def TileCtx.slotsUsed (x : TileCtx) (n c : Nat) : Nat :=
  (x.entries.map (fun e => e.2.queue.length)).foldl (· + ·) 0 + x.unbound.length +
  x.returned.length +
  (((x.live n c).filter (fun l => !l.f.pinned)).map (fun l => l.f.origin.consumed.length + l.f.popped.length)).foldl (· + ·) 0

def TileCtx.hasRoom (x : TileCtx) (n c : Nat) : Bool := decide (x.slotsUsed n c < x.share)

/-- Messages of the unbound queue that an entry would take. -/
def boundTo (e : Entry) (tag : Nat) (m : Msg) : Bool := m.tag == tag && m.urg == ctrlClass e.image.ctrl

/-- The messages of a list that pass a test, oldest first, at most k of them, and what is left. -/
def takeUpTo {α : Type} (p : α → Bool) : Nat → List α → List α × List α
  | _, [] => ([], [])
  | 0, l => ([], l)
  | k + 1, m :: l =>
    if p m then ((m :: (takeUpTo p k l).1), (takeUpTo p k l).2) else ((takeUpTo p (k + 1) l).1, m :: (takeUpTo p (k + 1) l).2)

/-- Unbound messages move into an entry's queue in arrival order, as far as it has room (R158). -/
def State.deliverUnbound (s : State) (n c tag : Nat) : State :=
  let x := s.tctxOf n c
  let e := x.entry tag
  if ctrlKind e.image.ctrl = 0 || e.lock then s
  else
    let r := takeUpTo (boundTo e tag) (ctrlDepth e.image.ctrl - (x.heldFor tag + e.queue.length)) x.unbound
    if r.1.isEmpty then s
    else
      (s.setTctxOf n c { x.setEntry tag { e with queue := e.queue ++ r.1 } with unbound := r.2 }).rankReady n c

/-- A message at a tile: held by Halo where its context is not resident, placed in a queue or the unbound queue, or none
where it waits at the ingress (R160). -/
def State.takeIn (s : State) (m : Msg) : Option State :=
  let n := m.dst
  let c := m.ctx
  if !s.resident n c then
    let t := s.tile n
    some (s.setTile n { t with away := t.away ++ [m] })
  else
    let s := s.deliverUnbound n c m.tag
    let x := s.tctxOf n c
    let e := x.entry m.tag
    let room := x.hasRoom n c
    let unbind := if room then some (s.setTctxOf n c { x with unbound := x.unbound ++ [m] }) else none
    if e.lock then none
    else if ctrlKind e.image.ctrl = 0 || m.urg != ctrlClass e.image.ctrl then unbind
    else if x.unbound.any (boundTo e m.tag) || decide (ctrlDepth e.image.ctrl ≤ x.heldFor m.tag + e.queue.length) || !room then none
    else some ((s.setTctxOf n c (x.setEntry m.tag { e with queue := e.queue ++ [m] })).rankReady n c)

/-- A waiting message of the same context and class stands before the new one (R160). -/
def blocks (m q : Msg) : Bool := q.ctx == m.ctx && q.urg == m.urg && q.dst == m.dst

/-- MESSAGE_ARRIVAL: a message in flight reaches its tile, unless an earlier one of its sender, class and tile is still
in flight (R160, R161). Resume packets go to sets and copies by another event. -/
def execMessageArrival (idx : Nat) (s : State) : Host.Outcome State Fault Refusal :=
  match s.net[idx]? with
  | none => .next s
  | some m =>
    if m.knd = 6 || (s.net.take idx).any (fun q => q.src == m.src && q.dst == m.dst && q.urg == m.urg && q.knd != 6) then .next s
    else
      let s0 : State := { s with net := s.net.eraseIdx idx }
      let s1 := if s.resident m.dst m.ctx then s0.wake m.dst else s0
      let t := s1.tile m.dst
      let waits := s1.setTile m.dst { t with ingress := t.ingress ++ [m] }
      if t.ingress.any (blocks m) then .next waits
      else match s1.takeIn m with
        | some s2 => .next s2
        | none => .next waits

/-- QUEUE_ADMIT: a message that waits at the ingress is placed, once none of its context and class is before it (R160). -/
def execQueueAdmit (tile idx : Nat) (s : State) : Host.Outcome State Fault Refusal :=
  let t := s.tile tile
  match t.ingress[idx]? with
  | none => .next s
  | some m =>
    if (t.ingress.take idx).any (blocks m) then .next s
    else match (s.setTile tile { t with ingress := t.ingress.eraseIdx idx }).takeIn m with
      | some s1 => .next s1
      | none => .next s

/-- UNBOUND_DELIVERY (R158). -/
def execUnboundDelivery (tile ctx tag : Nat) (s : State) : Host.Outcome State Fault Refusal :=
  .next (s.deliverUnbound tile ctx tag)

/-! ## Rewrites (R157, R158) -/

def EntryImage.empty : EntryImage := { cap := Cap.null, port := 0, ctrl := 0 }

/-- The entry of a context's table (R157). -/
def Context.entry (x : Context) (tag : Nat) : EntryImage := Map.get x.table tag EntryImage.empty

/-- A rewrite is refused (R158): its capability is untagged or of another type, KIND or NPORT is reserved, a PTAG names an
empty entry, or a queue would serve two handler entries. -/
def Context.refuses (x : Context) (tag : Nat) (im : EntryImage) : Bool :=
  let kind := ctrlKind im.ctrl
  let np := ctrlNport im.ctrl
  let ports := (List.range np).map (portTag im.port)
  !im.cap.tag || im.cap.otype != 2 || kind == 3 || decide (4 < np) ||
  ports.any (fun t => t != tag && ctrlKind (x.entry t).ctrl == 0) ||
  (kind == 1 && x.table.any (fun q => q.1 != tag && ctrlKind q.2.ctrl == 1 &&
    (List.range (ctrlNport q.2.ctrl)).any (fun i => ports.contains (portTag q.2.port i))))

/-- The rewrite on one tile: the image with its bits, and the lock is clear; the queue is kept, or goes to the unbound queue
(R158). EN and PEND are the image's, also where `h.en` or `h.pend` acted on the empty entry before (R169); a pending bit
that the image sets has the floor's timestamp, work identifier 0 and no launch slot. DESIGN CHOICE, log 69. -/
def State.rewriteOn (s : State) (n c tag : Nat) (im : EntryImage) : State :=
  let x := s.tctxOf n c
  let e := x.entry tag
  let gone := ctrlKind im.ctrl = 0
  let e1 : Entry := { image := im, en := im.ctrl.getLsbD 0, pend := im.ctrl.getLsbD 1
                      pts := (s.part (quadOf n)).floor, pwid := 0, pslot := none, lock := false
                      next := none, queue := if gone then [] else e.queue, readyAt := none }
  let x1 := x.setEntry tag e1
  let x2 := if gone then { x1 with unbound := x1.unbound ++ e.queue } else x1
  ((s.setTctxOf n c x2).rankReady n c).deliverUnbound n c tag

/-- The tiles on which a context is resident. -/
def State.homesOf (s : State) (c : Nat) : List Nat := (s.tiles.filter (fun q => (Map.get? q.2.ctxs c).isSome)).map (fun q => q.1)

/-- An image written into one entry, on every tile of the context. -/
def State.writeEntry (s : State) (c tag : Nat) (im : EntryImage) : State :=
  match Map.get? s.contexts c with
  | none => s
  | some x =>
    let s1 := { s with contexts := Map.set s.contexts c { x with table := Map.set x.table tag im } }
    (s1.homesOf c).foldl (fun s n => s.rewriteOn n c tag im) s1

/-- The entry of one tile locked, with the image that is to come (R158). -/
def State.lockEntry (s : State) (n c tag : Nat) (im : EntryImage) : State :=
  (s.setEntryOf n c tag { s.entryOf n c tag with lock := true, next := some im }).rankReady n c

/-- Halo's rewrite of one entry, unless it is refused (R158): every tile of the context locks the entry, and each writes
the image by itself. -/
def State.rewriteEntry (s : State) (c tag : Nat) (im : EntryImage) : State :=
  match Map.get? s.contexts c with
  | none => s
  | some x =>
    if x.refuses tag im then s
    else
      let s1 := { s with contexts := Map.set s.contexts c { x with table := Map.set x.table tag im } }
      (s1.homesOf c).foldl (fun s n => s.lockEntry n c tag im) s1

def execEntryRewrite (ctx tag : Nat) (image : EntryImage) (s : State) : Host.Outcome State Fault Refusal :=
  .next (s.rewriteEntry ctx (tag % 4096) image)

/-- The second part of a rewrite on one tile: the image is written and the lock clears. No firing of the entry is being
made between two steps. -/
def execRewriteOn (tile ctx tag : Nat) (s : State) : Host.Outcome State Fault Refusal :=
  .next (match (s.entryOf tile ctx tag).next with
    | some im => s.rewriteOn tile ctx tag im
    | none => s)

/-! ## The filter on firings (R112, R283) -/

/-- A buffered `c.st` whose capability is revoked keeps its bits and loses its tag (R112). -/
def State.filterAction (s : State) (c : Nat) : Action → Action
  | .store va keys data tag => .store va keys data (tag && (s.filterCap c (Cap.ofBytes true (ofBytes data))).tag)
  | a => a

/-- The task lines of a firing through the filter. -/
def State.filterFiring (s : State) (c : Nat) (f : Firing) : Firing :=
  if s.painted.isEmpty then f else { f with actions := f.actions.map (s.filterAction c) }

/-- A register set and the firing on it through the filter, as `ctx.sv` and `ctx.ld` pass them (R112, R283). -/
def State.filterSet (s : State) (c : Nat) (r : RegSet) : RegSet :=
  let r1 := s.filterRegs c r
  { r1 with fir := r1.fir.map (s.filterFiring c) }

/-! ## Entry state (R27, R99) -/

/-- The tile scratchpad capability. -/
def scratchCap : Cap := Cap.root loc 0x40000 (need [permLD, permST, permLDC, permSTC, permATOM, permENG])

/-- The capability of the inbox window. -/
def inboxCap : Cap := Cap.root (loc + 0x80000) 0x1000 (need [permLD])

/-- The payload that reaches s1 to s6: of a port with a consumption count of 1 that is the entry's only one. -/
def Firing.entryPayload (f : Firing) : List Word :=
  match f.origin.task, f.origin.consumed with
  | some m, _ => m.payload
  | none, (_, m) :: _ => if ctrlNport f.image.ctrl = 1 ∧ portCnt f.image.port 0 = 1 then m.payload else []
  | none, [] => []

/-- The payload registers whose words of the message have an error: it travels with them (R379). -/
def Firing.entryBad (f : Firing) : List Nat :=
  if f.entryPayload.isEmpty then []
  else ((match f.origin.task with
    | some m => m.bad
    | none => f.origin.consumed.flatMap (fun (q : Nat × Msg) => q.2.bad)).filter (fun w => decide (2 ≤ w) && decide (w < 8))).map (fun w => w - 1)

/-- The registers that a firing finds at entry. -/
def State.entryRegs (s : State) (f : Firing) : RegSet :=
  let pay := f.entryPayload
  { RegSet.freed with
    pcc := s.filterCap f.ctx (f.image.cap.withOtype 0)
    c := tabulate 16 (fun i =>
      if i = 1 then s.filterCap f.ctx (s.info f.ctx).data else if i = 2 then scratchCap else if i = 3 then inboxCap
      else Cap.null)
    s := tabulate 32 (fun i => if 1 ≤ i ∧ i ≤ 6 then pay.getD (i - 1) 0 else 0)
    bad := f.entryBad
    fir := some f }

/-- A set takes up a firing at its entry. -/
def State.enter (s : State) (n : Nat) (f : Firing) : State :=
  let k : SetId := if f.urgent then .urgent else .normal
  let x := s.tctxOf n f.ctx
  (s.setTctxOf n f.ctx (x.setRegs k (s.entryRegs f))).note n f.ctx f .start

/-- A serial number is taken (R162). -/
def State.newSerial (s : State) (n : Nat) : Nat × State :=
  let t := s.tile n
  (t.count * 64 + partIdx n, s.setTile n { t with count := t.count + 1 })

/-- A firing of an entry with its origin. -/
def State.newFiring (s : State) (n ctx tag : Nat) (image : EntryImage) (ts : Nat) (wid : Word) (serial : Nat)
    (slot : Option Nat) (parent : Option FiringId) (origin : Origin) : Firing :=
  { ctx := ctx, tag := tag, urgent := ctrlClass image.ctrl, image := image, ts := ts, wid := wid, serial := serial
    slot := slot, off := 0, outputs := 0, pinned := s.isPager n ctx, recovering := false, parent := parent
    origin := origin, popped := [], owed := [], actions := [], reads := [], claims := [], replay := [], claimed := 0, journal := []
    journalIn := [], journaled := 0, term := none, disagreed := false, chains := 0 }

/-! ## Making a firing (R162) -/

/-- The heads of an entry's ports leave their queues: CNT + 1 of each, or what there is. -/
def takePorts (w : Word) : List Nat → TileCtx → TileCtx × List (Nat × Msg)
  | [], x => (x, [])
  | i :: is, x =>
    let tag := portTag w i
    let e := x.entry tag
    let k := portCnt w i
    let r := takePorts w is (x.setEntry tag { e with queue := e.queue.drop k })
    (r.1, (e.queue.take k).map (fun m => (i, m)) ++ r.2)

/-- The first message of port 0. -/
def firstOf (l : List (Nat × Msg)) : Option Msg := (l.find? (fun q => q.1 == 0)).map (fun q => q.2)

/-- A ready entry makes a firing. -/
def State.makeFrom (s : State) (n c tag : Nat) : State :=
  let x := s.tctxOf n c
  let e := x.entry tag
  let r := takePorts e.image.port (List.range (ctrlNport e.image.ctrl)) x
  let first := firstOf r.2
  let ts := (r.2.map (fun q => q.2.ts) ++ (if e.pend then [e.pts] else [])).foldl max 0
  let wid := match first with | some m => m.wid | none => e.pwid
  let slot := match first with | some m => m.slot | none => e.pslot
  let x1 := r.1.setEntry tag { r.1.entry tag with pend := false, readyAt := none }
  let q := (s.setTctxOf n c x1).newSerial n
  let f := s.newFiring n c tag e.image ts wid q.1 slot none
    { consumed := r.2, pend := if e.pend then some (e.pts, e.pwid, e.pslot) else none, task := none }
  (q.2.enter n f).rankReady n c

/-! ## Reruns (R163, R189, R194, R228) -/

/-- A copy of a firing's attempt has not completed, or a matrix command that it queued. -/
def State.attemptBusy (s : State) (n c : Nat) (id : FiringId) : Bool :=
  let mine (k : Copy) : Bool := match k.pusher with | some i => i.same id | none => false
  (s.tile n).slots.any (fun o => match o with | some k => mine k | none => false) ||
  (s.tctxOf n c).copies.any mine ||
  (s.mtxOf n c).queue.any (fun k => match k.owner with | some i => i.same id | none => false)

/-- The rerun of an aborted firing is made: it takes exactly the messages that returned, the popped ones as it pops them
(R163, R194). The PEND request that its abort set again is taken with it, unless another request has replaced it.
DESIGN CHOICE, log 68. An entry that has been rewritten or emptied since the abort changes neither: the rerun has the contents that
the aborted firing had, and its messages are held for it; R163 does not say. DESIGN CHOICE, log 97. -/
def State.makeRerun (s : State) (n c : Nat) (r : Rerun) : State :=
  let f := r.firing
  let x := s.tctxOf n c
  let x1 := { x with reruns := x.reruns.filter (fun q => q.firing.serial != f.serial) }
  let x2 := match f.origin.consumed, f.origin.pend with
    | [], some (pts, pwid, pslot) =>
      let e := x1.entry f.tag
      if e.pts = pts ∧ e.pwid = pwid ∧ e.pslot = pslot then x1.setEntry f.tag { e with pend := false } else x1
    | _, _ => x1
  let x3 := x2.setEntry f.tag { x2.entry f.tag with readyAt := none }
  let g := { f with popped := [], owed := f.popped, pinned := s.isPager n c }
  ((s.setTctxOf n c x3).enter n g).rankReady n c

/-! ## The choice (R164) -/

/-- What a tile's set may take up. -/
inductive Cand where
  | rerun (r : Rerun)
  | saved (r : RegSet)
  | entry (tag : Nat)
  deriving DecidableEq, Repr

/-- A candidate with its priority, its place in the order of readiness, and its entry's tag. -/
structure Choice where
  prio : Nat
  rank : Nat
  tag  : Nat
  cand : Cand
  deriving DecidableEq, Repr

/-- The capsule that a code capability lies in is void, or is being rebuilt (R319). -/
def State.voidBody (s : State) (c : Cap) : Bool :=
  match s.sectionAt c.base with
  | some (n, _) => (match Map.get? s.capsules n with
    | some k => k.void || k.rebuild.isSome
    | none => false)
  | none => false

/-- A register set's program counter lies in such a body (R319). -/
def State.voidPcc (s : State) (r : RegSet) : Bool := r.fir.isSome && s.voidBody r.pcc

/-- Of reruns owed to one entry the one with the lowest serial number is next. -/
def TileCtx.nextRerun (x : TileCtx) (r : Rerun) : Bool :=
  x.reruns.all (fun q => q.tag != r.tag || decide (r.firing.serial ≤ q.firing.serial))

/-- The candidates of a class on a tile's loaded context: reruns owed, firings that `yield` saved, ready entries. A rerun
became ready when its attempt was aborted. DEDUCED, log 38. -/
def State.candidates (s : State) (n c : Nat) (urgent : Bool) : List Choice :=
  let x := s.tctxOf n c
  (x.reruns.filter (fun r => r.firing.urgent == urgent && x.nextRerun r && !s.voidBody r.firing.image.cap &&
      !s.attemptBusy n c { tile := n, serial := r.firing.serial })).map
    (fun r => { prio := ctrlPrio r.firing.image.ctrl, rank := r.rank + 1, tag := r.tag, cand := .rerun r }) ++
  x.saved.flatMap (fun r => match r.2.fir with
    | some f => if f.urgent == urgent && !s.voidPcc r.2 then
        [{ prio := ctrlPrio f.image.ctrl, rank := r.1 + 1, tag := f.tag, cand := .saved r.2 }] else []
    | none => []) ++
  x.entries.flatMap (fun q =>
    let e := q.2
    if x.ready e && ctrlClass e.image.ctrl == urgent && !x.reruns.any (fun r => r.tag == q.1) && !s.voidBody e.image.cap then
      [{ prio := ctrlPrio e.image.ctrl, rank := (match e.readyAt with | some r => r + 1 | none => 0), tag := q.1
         cand := .entry q.1 }] else [])

/-- The better of two candidates: higher priority, then the one that became ready first. -/
def better (a b : Choice) : Choice := if a.prio < b.prio ∨ (a.prio = b.prio ∧ b.rank < a.rank) then b else a

def State.choose (s : State) (n c : Nat) (urgent : Bool) : Option Choice :=
  match s.candidates n c urgent with
  | [] => none
  | a :: l => some (l.foldl better a)

/-- The tile may start firings of its loaded context: no pre-emption request is open and it is no partner of a pair
(R279, R385). -/
def State.mayStart (s : State) (n : Nat) : Option Nat :=
  match (s.tile n).loaded with
  | some c =>
    let partner := match (s.tile n).pair with
      | some q => decide (q < n)
      | none => false
    if (s.tctxOf n c).prq || partner then none else some c
  | none => none

def State.setFree (s : State) (n c : Nat) (urgent : Bool) : Bool :=
  ((s.tctxOf n c).regs (if urgent then .urgent else .normal)).fir.isNone

/-- The class of an entry's firings. -/
def State.entryUrgent (s : State) (n c tag : Nat) : Bool := ctrlClass (s.entryOf n c tag).image.ctrl

/-- The priority of the bottom task of a tile's own deque, where it is one of a class of the context and its entry may
make a firing (R163, R164, R319). -/
def State.taskPrio (s : State) (n c : Nat) (urgent : Bool) : Option Nat :=
  match (s.tile n).deque.getLast? with
  | some k =>
    let e := s.entryOf n c k.msg.tag
    if k.msg.ctx == c && ctrlClass e.image.ctrl == urgent && !s.voidBody e.image.cap &&
        !(s.tctxOf n c).reruns.any (fun r => r.tag == k.msg.tag) then some (ctrlPrio e.image.ctrl) else none
  | none => none

/-- The bottom task of the deque has a higher priority than a choice (R164). -/
def State.taskAhead (s : State) (n c : Nat) (urgent : Bool) (q : Choice) : Bool :=
  match s.taskPrio n c urgent with
  | some p => decide (q.prio < p)
  | none => false

/-- Something of a class is ready on a tile: a candidate or the bottom task of its deque. -/
def State.readyWork (s : State) (n c : Nat) (urgent : Bool) : Bool :=
  !(s.candidates n c urgent).isEmpty || (s.taskPrio n c urgent).isSome

/-- A tile takes up its choice for one class, if that choice is of the entry named and is a rerun or not as asked. -/
def State.takeUp (s : State) (n c tag : Nat) (urgent rerun : Bool) : State :=
  if s.mayStart n == some c && s.setFree n c urgent then
    match s.choose n c urgent with
    | some q =>
      if q.tag != tag || s.taskAhead n c urgent q then s
      else match q.cand with
        | .rerun r => if rerun then s.makeRerun n c r else s
        | .saved r =>
          if rerun then s
          else
            let x := s.tctxOf n c
            s.setTctxOf n c ({ x with saved := x.saved.filter (fun y => y.2.fir != r.fir) }.setRegs
              (if urgent then .urgent else .normal) (s.filterSet c r))
        | .entry t => if rerun then s else s.makeFrom n c t
    | none => s
  else s

/-- MAKE_FIRING: the tile's choice for a class is an entry's new firing, or its firing that `yield` saved. -/
def execMakeFiring (tile ctx tag : Nat) (s : State) : Host.Outcome State Fault Refusal :=
  .next ((s.takeUp tile ctx tag true false).takeUp tile ctx tag false false)

/-- RERUN: the tile's choice for a class is the rerun of an aborted firing. -/
def execRerun (tile serial : Nat) (s : State) : Host.Outcome State Fault Refusal :=
  match (s.tile tile).loaded with
  | none => .next s
  | some c =>
    match (s.tctxOf tile c).reruns.find? (fun r => r.firing.serial == serial) with
    | some r => .next (s.takeUp tile c r.tag r.firing.urgent true)
    | none => .next s

/-! ## Deque tasks (R171) -/

/-- A task becomes a firing on a tile, or is held in the unbound queue there, or at the ingress while the context's share
is used up (R160). What is held is a message: a firing made of it later takes a new serial number and has no parent.
DESIGN CHOICE, log 70. The tile's count of firings advanced at the fork, and does not again: R162 does not say whether the firing
made of a task counts once more. DESIGN CHOICE, log 96. -/
def State.startTask (s : State) (n : Nat) (k : Task) : State :=
  let c := k.msg.ctx
  let x := s.tctxOf n c
  let e := x.entry k.msg.tag
  if ctrlKind e.image.ctrl = 1 ∧ ctrlNport e.image.ctrl = 1 ∧ portCnt e.image.port 0 = 1 then
    s.enter n (s.newFiring n c k.msg.tag e.image k.msg.ts k.msg.wid k.serial k.msg.slot (some k.parent)
      { consumed := [], pend := none, task := some k.msg })
  else if x.hasRoom n c then s.setTctxOf n c { x with unbound := x.unbound ++ [k.msg] }
  else s.setTile n { s.tile n with ingress := (s.tile n).ingress ++ [k.msg] }

/-- A tile may take a task of its loaded context: its entry's set is free, and no candidate of that class has an equal or
higher priority. -/
def State.mayTake (s : State) (n : Nat) (k : Task) : Bool :=
  match s.mayStart n with
  | none => false
  | some c =>
    let e := s.entryOf n c k.msg.tag
    let u := ctrlClass e.image.ctrl
    k.msg.ctx == c && s.setFree n c u && !s.voidBody e.image.cap &&
      !(s.tctxOf n c).reruns.any (fun r => r.tag == k.msg.tag) &&
      (match s.choose n c u with
        | some q => decide (q.prio < ctrlPrio e.image.ctrl)
        | none => true)

/-- TASK_TAKE: the bottom task of the tile's own deque. -/
def execTaskTake (tile : Nat) (s : State) : Host.Outcome State Fault Refusal :=
  let t := s.tile tile
  match t.deque.getLast? with
  | some k =>
    if s.mayTake tile k then .next ((s.setTile tile { t with deque := t.deque.dropLast }).startTask tile k) else .next s
  | none => .next s

/-- The tile whose deque a thief steals from: the first after it in its cluster with a task on top that it may take. -/
def State.victim (s : State) (n : Nat) : Option Nat :=
  if !(s.tile n).deque.isEmpty then none
  else
    ((List.range 7).map (fun i => clusterTile (clusterOf n) ((clusterIdx n + 1 + i) % 8))).find? (fun v =>
      match (s.tile v).deque.head? with
      | some k => s.mayTake n k && (s.choose n k.msg.ctx true).isNone && (s.choose n k.msg.ctx false).isNone
      | none => false)

/-- TASK_STEAL: the top task of another tile's deque. -/
def execTaskSteal (tile : Nat) (s : State) : Host.Outcome State Fault Refusal :=
  match s.victim tile with
  | none => .next s
  | some v =>
    match (s.tile v).deque with
    | k :: l => .next ((s.setTile v { s.tile v with deque := l }).startTask tile k)
    | [] => .next s

/-! ## Ending (R166, R179, R252) -/

/-- The messages that a firing took. -/
def Firing.taken (f : Firing) : List Msg := (f.origin.consumed ++ f.popped).map (fun q => q.2)

/-- The serial stream of a dispatch message goes on once the firing made from it has ended (R179). -/
def Launch.goesOn (l : Launch) (wid : Nat) : Launch :=
  { l with streams := l.streams.map (fun x => if x.wid = wid then { x with busy := false } else x) }

def State.streamEnded (s : State) (f : Firing) : State :=
  (f.taken.filter (fun m => m.knd == 2)).foldl (fun s m =>
    match m.slot with
    | some k =>
      match Map.get? s.launches k with
      | some l => { s with launches := Map.set s.launches k (l.goesOn m.wid.toNat) }
      | none => s
    | none => s) s

/-! ## Pull groups (R179) -/

/-- A message of a pull group in a cluster. -/
def inGroup (k slot wid : Nat) (m : Msg) : Bool :=
  m.knd == 2 && m.slot == some slot && m.wid.toNat == wid && clusterOf m.dst == k

/-- A firing has taken a message of a pull group, or is owed one. -/
def Firing.holdsGroup (f : Firing) (k slot wid : Nat) : Bool := f.holds.any (fun q => inGroup k slot wid q.2)

/-- A pull group has a message that no firing has taken, a live firing, or a rerun owed. -/
def State.groupBusy (s : State) (k slot wid : Nat) : Bool :=
  s.net.any (inGroup k slot wid) ||
  (clusterTiles k).any (fun n =>
    let t := s.tile n
    t.ingress.any (inGroup k slot wid) || t.away.any (inGroup k slot wid) || (t.live n).any (fun l => l.f.holdsGroup k slot wid) ||
    t.ctxs.any (fun q => q.2.unbound.any (inGroup k slot wid) ||
      q.2.entries.any (fun e => e.2.queue.any (inGroup k slot wid)) ||
      q.2.reruns.any (fun r => r.firing.holdsGroup k slot wid)))

/-- A counter of a pull group becomes idle when every firing of the group has committed. -/
def State.freeCounter (s : State) (k : Nat) (c : Counter) : Counter :=
  match c with
  | .iter _ _ _ _ (some (slot, wid)) => if s.groupBusy k slot wid then c else .idle
  | _ => c

def State.freeGroups (s : State) : State :=
  { s with clusters := Map.mapKV (fun k x => { x with counters := Map.mapKV (fun _ c => s.freeCounter k c) x.counters }) s.clusters }

/-- A firing's copies leave its set's tokens and run on. -/
def State.detach (s : State) (n c : Nat) (id : FiringId) : State :=
  let go (k : Copy) : Copy :=
    match k.pusher with
    | some i => if i.same id then { k with detached := true, byEnd := true } else k
    | none => k
  let t := s.tile n
  let s1 := s.setTile n { t with slots := t.slots.map (fun o => o.map go) }
  let x := s1.tctxOf n c
  s1.setTctxOf n c { x with copies := x.copies.map go }

/-- A set's firing ends: a speculative one awaits its commit, a pinned one has committed (R166, R192). Messages that an
aborted attempt had popped and this one has not stand in their queues again. -/
def State.endFiring (s : State) (n c : Nat) (k : SetId) : State :=
  let x := s.tctxOf n c
  match (x.regs k).fir with
  | none => s
  | some f =>
    let x1 := (x.setRegs k (x.regs k).free).requeue f f.owed
    let f := { f with owed := [] }
    let x2 := if f.pinned then x1 else { x1 with ended := x1.ended ++ [f] }
    let s1 := (s.note n c f .ended)
    let s2 := if f.pinned then s1.note n c f .committed else s1
    ((((s2.setTctxOf n c x2).rankReady n c).detach n c { tile := n, serial := f.serial }).streamEnded f).freeGroups

/-! ## Saving by `yield` (R175, R283) -/

/-- How many firing slots of a class are taken. -/
def TileCtx.savedCount (x : TileCtx) (urgent : Bool) : Nat :=
  x.saved.countP (fun r => match r.2.fir with | some f => f.urgent == urgent | none => false)

/-- A condition of R175 holds for the firing of a set, and one of the four slots of its class is free. -/
def State.yields (s : State) (n c : Nat) (f : Firing) : Bool :=
  let x := s.tctxOf n c
  let above (p : Option Nat) : Bool := match p with
    | some q => decide (ctrlPrio f.image.ctrl < q)
    | none => false
  let higher := above ((s.choose n c f.urgent).map (fun q => q.prio))
  (x.prq || higher) && decide (x.savedCount f.urgent < 4)

/-- A set's firing is saved and its set freed. -/
def State.saveFiring (s : State) (n c : Nat) (k : SetId) : State :=
  let t := s.tile n
  let x := s.tctxOf n c
  let r := s.filterSet c (x.regs k)
  let x1 := { x.setRegs k (x.regs k).free with saved := x.saved ++ [(t.readyCtr, { r with waiting := false, asked := none })] }
  let s1 := (s.leaveSweeps (match r.fir with
    | some f => [{ tile := n, serial := f.serial }]
    | none => [])).setTctxOf n c x1
  s1.setTile n { s1.tile n with readyCtr := t.readyCtr + 1 }

/-! ## Commit (R187) -/

/-- A firing's copies have all finished reading their sources. -/
def State.copiesRead (s : State) (n c : Nat) (id : FiringId) : Bool :=
  let busy (k : Copy) : Bool := match k.pusher with | some i => i.same id | none => false
  !((s.tile n).slots.any (fun o => match o with | some k => busy k | none => false) || (s.tctxOf n c).copies.any busy)

/-- A forked firing's parent has committed (R171). -/
def State.parentDone (s : State) (p : Nat) (f : Firing) : Bool :=
  match f.parent with
  | none => true
  | some i => !(s.live p).any (fun l => l.id.same i && !l.f.pinned)

/-- A firing with a terminal code may end: it is pinned, or step 1 of R192 is over for it (R267). -/
def State.mayTerminate (s : State) (l : LiveFiring) : Bool := l.f.pinned || s.mayPin l.tile l.f

/-- An ended firing that may commit now, or end by the terminal code that it was given at its commit (R388). -/
def State.mayCommit (s : State) (l : LiveFiring) : Bool :=
  let p := quadOf l.tile
  l.place == .ended &&
    (if l.f.term.isSome then s.mayTerminate l
     else s.horizon p == l.f.ts && s.copiesRead l.tile l.ctx l.id && s.parentDone p l.f)

/-- The commit: the pair is compared (R387), the buffer performed, and the firing with its messages is gone; the
completion messages it awaits leave (R253). -/
def State.commitFiring (s : State) (l : LiveFiring) : State :=
  match s.comparePair l with
  | (s0, false) => s0
  | (s0, true) =>
    match s0.commitBuffer l with
    | (s1, false) => s1
    | (s1, true) =>
      (((s1.note l.tile l.ctx l.f .committed).setTctxOf l.tile l.ctx ((s1.tctxOf l.tile l.ctx).removeFiring l.f.serial)).settleCopies l.tile l.ctx l.id
        .settled false).freeGroups

/-- The live firing with a serial number that a tile holds. -/
def State.liveAt (s : State) (tile serial : Nat) : Option LiveFiring :=
  ((s.tile tile).live tile).find? (fun l => l.f.serial == serial)

/-- ABORT of a speculative firing (R189). -/
def execAbort (tile serial : Nat) (s : State) : Host.Outcome State Fault Refusal :=
  match s.liveAt tile serial with
  | some l => .next (if l.f.pinned then s else s.abort l false)
  | none => .next s

/-- HORIZON_UPDATE: the reduction tree's value reaches the tiles of a partition, and a dispatcher with no contributor
resets the floor (R185, R186). DEDUCED, log 41. -/
def execHorizonUpdate (part : Nat) (s : State) : Host.Outcome State Fault Refusal :=
  let h := s.horizon part
  let none_ := (s.contributors part).isEmpty
  let s1 := { s with tiles := Map.mapKV (fun n t => if quadOf n = part then { t with horizon := h } else t) s.tiles }
  .next (if none_ then s1.setPart part { s1.part part with floor := 0 } else s1)

/-! ## Pinning as an event, and terminal faults (R192, R267, R383) -/

/-- The set's firing is made the running one, for what is said of the running firing. -/
def State.onSet (s : State) (n : Nat) (k : SetId) (f : State → State) : State :=
  let u := s.cur
  let s1 := f { s with cur := { tile := n, set := k } }
  { s1 with cur := u }

/-- PIN: a set's speculative firing that step 1 of R192 has let through is pinned. -/
def execPin (tile : Nat) (set : SetId) (s : State) : Host.Outcome State Fault Refusal :=
  .next (s.onSet tile set (fun s => match s.tryPin with
    | .pinned s1 => s1
    | .wait => s
    | .aborted s1 => s1))

/-- The error record of a terminal fault (R267, R389): its fault class, for the unit of scalar and vector work. The rules
give such a record no syndrome: it is free. DESIGN CHOICE, log 71. -/
def State.faultRecord (s : State) (l : LiveFiring) (code : BitVec 16) : ErrRec :=
  let r := match l.place with
    | .set k => (s.tctxOf l.tile l.ctx).regs k
    | _ => RegSet.freed
  { cls := code.toNat / 256, unit := 0x01, part := quadOf l.tile, who := l.ctx, syn := 1 + s.fresh % 6
    addr := r.taddr.toNat, frame := 0, pc := portable r.pcc.addr }

/-- The record of a terminal fault is posted; a pair's disagreement has posted its own (R388). -/
def State.recordFault (s : State) (l : LiveFiring) (code : BitVec 16) : State :=
  if code = Code.dataPair then s else s.postError (some l.ctx) (s.faultRecord l code)

/-- A firing is terminated (R267): its buffer and messages are gone, its forks go, its copies run on, and its code is
recorded against the launch slot and in the error ring. -/
def State.terminateFiring (s : State) (l : LiveFiring) (code : BitVec 16) : State :=
  let s0 := ((s.recordFault l code).wake l.tile).note l.tile l.ctx l.f .ended
  let s1 := (s0.setTctxOf l.tile l.ctx (((s0.tctxOf l.tile l.ctx).removeFiring l.f.serial).requeue l.f l.f.owed)).rankReady
    l.tile l.ctx
  let s2 := State.abortForks (s.generations (quadOf l.tile)) s1 l.id
  let s3 := ((s2.settleCopies l.tile l.ctx l.id .settled true).streamEnded l.f).freeGroups
  match l.f.slot with
  | some k =>
    (match Map.get? s3.launches k with
      | some q => { s3 with launches := Map.set s3.launches k { q with term := q.term <|> some code } }
      | none => s3)
  | none => s3

def execCommit (tile serial : Nat) (s : State) : Host.Outcome State Fault Refusal :=
  match s.liveAt tile serial with
  | some l => .next (
      if s.mayCommit l then (match l.f.term with
        | some code => s.terminateFiring l code
        | none => s.commitFiring l)
      else s)
  | none => .next s

/-- TERMINATE. -/
def execTerminate (tile : Nat) (set : SetId) (s : State) : Host.Outcome State Fault Refusal :=
  match (s.tile tile).loaded with
  | none => .next s
  | some c =>
    match ((s.tctxOf tile c).regs set).fir with
    | none => .next s
    | some f =>
      let l : LiveFiring := { tile := tile, ctx := c, place := .set set, f := f }
      match f.term with
      | some code => .next (if s.mayTerminate l then s.terminateFiring l code else s)
      | none => .next s

end Sys2Proof.Machine
end

