-- ==== Sys2Proof/Machine/Tasking.lean ====
section
/-! DEFINITION. Machine/Tasking.lean: page 7 (R165 to R176). -/

namespace Sys2Proof.Machine

/-- A page 7 chain of the running firing. Halo's own state has no firing: its chain ends there. -/
def asFiring (s : State) (body : Firing → Res) : Res :=
  match s.fir with
  | some f => body f
  | none => .gone (s.setReg { s.reg with pcc := Cap.null })

/-! ## R166, R175 -/

def execEndF (p : Pfx) (s : State) : Host.Outcome State Fault Refusal :=
  run p true s (fun s => asFiring s (fun _ => .gone (s.endFiring s.cur.tile s.ctxn s.cur.set)))

/-- The save point: the firing is saved at the chain after `yield`. -/
def execYield (p : Pfx) (s : State) : Host.Outcome State Fault Refusal :=
  run p true s (fun s => asFiring s (fun f =>
    if s.yields s.cur.tile s.ctxn f then
      let s1 := s.drain
      let s2 := s1.setReg (s1.reg.fallThrough (p.chainBytes true))
      .gone (s2.saveFiring s2.cur.tile s2.ctxn s2.cur.set)
    else .done s))

/-! ## R167, R168 -/

/-- NOUT of the firing's entry leaves no room for another output. -/
def Firing.full (f : Firing) : Bool := decide (ctrlNout f.image.ctrl < f.outputs + 1)

/-- The message of a `send`. -/
def State.message (s : State) (f : Firing) (dst : Nat) (tag : Nat) (urg : Bool) : Msg :=
  { ts := f.ts + f.off, src := s.cur.tile, knd := 1, urg := urg, tag := tag, wid := f.wid, payload := s.payload
    ctx := f.ctx, dst := dst, slot := f.slot }

/-- One more output is counted. -/
def State.countOutput (s : State) : State :=
  match s.fir with
  | some f => s.setFir { f with outputs := f.outputs + 1 }
  | none => s

def sendOp (p : Pfx) (d a : BitVec 5) (urg : Bool) (s : State) : Host.Outcome State Fault Refusal :=
  run p true s (fun s => asFiring s (fun f =>
    let dst := (s.s d).toNat
    if !s.tileExists dst then .trap s Code.memNotile 0
    else if f.full then .trap s Code.tskOuts 0
    else
      let m := s.message f dst ((s.s a).toNat % 4096) urg
      pinIf (quadOf dst != quadOf s.cur.tile) s (fun s => act s [.send m] (fun s => .done s.countOutput))))

def execSend (p : Pfx) (d a : BitVec 5) (s : State) : Host.Outcome State Fault Refusal := sendOp p d a false s
def execSendU (p : Pfx) (d a : BitVec 5) (s : State) : Host.Outcome State Fault Refusal := sendOp p d a true s

def execTsAdd (p : Pfx) (d i : BitVec 5) (s : State) : Host.Outcome State Fault Refusal :=
  run p true s (fun s => asFiring s (fun f =>
    let off := f.off + (p.immI i).toNat
    if 0xFFFFFFFF < f.ts + off then .trap s Code.tskTsovf 0
    else .done ((s.setFir { f with off := off }).setS d (BitVec.ofNat 64 (f.ts + off)))))

/-! ## R169 -/

/-- A record of R169, buffered or applied. -/
def recordOp (p : Pfx) (a : BitVec 5) (s : State) (r : Firing → Nat → Action) : Host.Outcome State Fault Refusal :=
  run p true s (fun s => asFiring s (fun f => act s [r f ((s.s a).toNat % 4096)] (fun s => .done s)))

def execHEn (p : Pfx) (a : BitVec 5) (s : State) : Host.Outcome State Fault Refusal :=
  recordOp p a s (fun _ tag => .setEn tag true)
def execHDis (p : Pfx) (a : BitVec 5) (s : State) : Host.Outcome State Fault Refusal :=
  recordOp p a s (fun _ tag => .setEn tag false)
def execHPend (p : Pfx) (a : BitVec 5) (s : State) : Host.Outcome State Fault Refusal :=
  recordOp p a s (fun f tag => .pend tag (f.ts + f.off) f.wid f.slot)
def execHClrp (p : Pfx) (a : BitVec 5) (s : State) : Host.Outcome State Fault Refusal :=
  recordOp p a s (fun _ tag => .clearPend tag)

/-- The messages in a queue of a context on a tile, those held for reruns with them (R163, R169, R170). -/
def TileCtx.queueLen (x : TileCtx) (tag : Nat) : Nat := x.heldFor tag + (x.entry tag).queue.length

/-- The word of `h.tag`. -/
def TileCtx.tagWord (x : TileCtx) (tag : Nat) : Word :=
  let e := x.entry tag
  let w := e.image.ctrl
  BitVec.ofNat 64 (bit e.lock * 2 ^ 63 + bit e.en * 2 ^ 62 + bit e.pend * 2 ^ 61 + bit (ctrlClass w) * 2 ^ 60 +
    ctrlKind w * 2 ^ 58 + ctrlNport w * 2 ^ 55 + ctrlPrio w * 2 ^ 40 +
    min 255 (x.unbound.countP (fun m => m.tag == tag)) * 2 ^ 8 + x.queueLen tag % 128)

def execHTag (p : Pfx) (d a : BitVec 5) (s : State) : Host.Outcome State Fault Refusal :=
  run p true s (fun s => .done (s.setS d (s.tctx.tagWord ((s.s a).toNat % 4096))))

/-! ## R170 -/

/-- The payload registers loaded from a message. -/
def State.setPayload (s : State) (l : List Word) : State :=
  (List.range 6).foldl (fun s i => s.setS (BitVec.ofNat 5 (i + 1)) (l.getD i 0)) s

/-- A firing's next further message of a port: what an aborted attempt of it had popped there first (R163, R194), then the
head of the queue behind what is held for reruns. -/
def execInPop (p : Pfx) (d a : BitVec 5) (s : State) : Host.Outcome State Fault Refusal :=
  run p true s (fun s => asFiring s (fun f =>
    let port := (s.s a).toNat % 4
    if ctrlNport f.image.ctrl ≤ port then .trap s Code.tskPort 0
    else
      let tag := portTag f.image.port port
      let x := s.tctx
      let e := x.entry tag
      let back (m : Msg) (s1 : State) (f : Firing) : Res :=
        consume ((m.bad.filter (fun w => w != 1)).map (fun w => { va := noAddr, key := keyInbox s.cur.tile s.ctxn tag 0 w, n := 1, bad := true })) s (fun _ =>
        let s2 := (s1.setFir { f with popped := f.popped ++ [(port, m)] }).rankReady s1.cur.tile s1.ctxn
        .done ((s2.setPayload m.payload).setS d (BitVec.ofNat 64 m.h0)))
      match f.owed.find? (fun q => portTag f.image.port q.1 == tag), e.queue with
      | some q, _ => back q.2 s { f with owed := f.owed.erase q }
      | none, [] => .done (s.setS d 0)
      | none, m :: rest => back m (s.setTctx (x.setEntry tag { e with queue := rest })) f))

/-- What `in.cnt` counts: an empty entry's queue as 0. -/
def TileCtx.queueCount (x : TileCtx) (tag : Nat) : Nat :=
  if ctrlKind (x.entry tag).image.ctrl = 0 then 0 else x.queueLen tag

def execInCnt (p : Pfx) (d a : BitVec 5) (s : State) : Host.Outcome State Fault Refusal :=
  run p true s (fun s =>
    .done (s.setS d (BitVec.ofNat 64 (s.tctx.queueCount ((s.s a).toNat % 4096)))))

/-! ## R171 -/

def execFork (p : Pfx) (d a : BitVec 5) (s : State) : Host.Outcome State Fault Refusal :=
  run p true s (fun s => asFiring s (fun f =>
    let tag := (s.s a).toNat % 4096
    let im := (s.tctx.entry tag).image
    let n := s.cur.tile
    if ctrlKind im.ctrl ≠ 1 ∨ ctrlNport im.ctrl ≠ 1 ∨ portCnt im.port 0 ≠ 1 then .trap s Code.tskFork 0
    else if f.full then .trap s Code.tskOuts 0
    else if 64 ≤ (s.tile n).deque.length then .done (s.setS d 0)
    else
      let q := s.countOutput.newSerial n
      let k : Task := { msg := s.message f n tag false, serial := q.1, parent := { tile := n, serial := f.serial } }
      let s1 := q.2.setTile n { q.2.tile n with deque := (q.2.tile n).deque ++ [k] }
      .done (s1.setS d 1)))

/-! ## R172 to R174 -/

/-- The counter number is one of the context's in the issuing tile's cluster. DEDUCED, log 39. -/
def State.ownsCounter (s : State) (i : Nat) : Bool :=
  match Map.get? (s.cluster (clusterOf s.cur.tile)).shares s.ctxn with
  | some x => decide (x.ctrLo ≤ i) && decide (i < x.ctrLo + x.ctrLen)
  | none => false

/-- A counter of the issuing tile's cluster, as a chain reads it (R377). -/
def State.counterSeen (s : State) (i : Nat) : Seen := { va := noAddr, key := keyUnit (clusterOf s.cur.tile) i, n := 1 }

def execJcInit (p : Pfx) (d a : BitVec 5) (s : State) : Host.Outcome State Fault Refusal :=
  run p true s (fun s => asFiring s (fun f =>
    let sc := (s.s d).toNat
    let i := sc % 256
    if !s.ownsCounter i then .trap s Code.tskJcown 0
    else act s [.arm i (!sc.testBit 8) (s.s a) s.payload f.wid (f.ts + f.off) f.slot] (fun s => .done s)))

def execJoin (p : Pfx) (a : BitVec 5) (s : State) : Host.Outcome State Fault Refusal :=
  run p true s (fun s => asFiring s (fun f =>
    let i := (s.s a).toNat % 256
    if !s.ownsCounter i then .trap s Code.tskJcown 0
    else consume [s.counterSeen i] s (fun s => match s.counter s.cur.tile i with
      | .join _ _ _ _ _ _ _ _ => act s [.join i f.ts] (fun s => .done s)
      | _ => .trap s Code.tskJckind 0)))

/-- The length of a claim. -/
def claimLen (stop minc div next : Nat) : Nat :=
  let r := stop - next
  min r (max minc ((r + div - 1) / div))

/-- A claim from an iteration counter, recorded among the first 16. -/
def claim (d : BitVec 5) (i : Nat) (s : State) : Res :=
  match s.counter s.cur.tile i with
  | .iter stop minc div next owner =>
    let l := claimLen stop minc div next
    let w := BitVec.ofNat 64 (l * 2 ^ 32 + next % 2 ^ 32)
    let s1 := s.setCounter s.cur.tile i (.iter stop minc div (next + l) owner)
    let s2 := match s1.fir with
      | some f => if f.claimed + f.claims.length < 16 then s1.setFir { f with claims := f.claims ++ [w] } else s1
      | none => s1
    .done (s2.pend (.s d w))
  | _ => .trap s Code.tskJckind 0

def execChunk (p : Pfx) (d a : BitVec 5) (s : State) : Host.Outcome State Fault Refusal :=
  run p true s (fun s => asFiring s (fun f =>
    let i := (s.s a).toNat % 256
    if !s.ownsCounter i then .trap s Code.tskJcown 0
    else consume [s.counterSeen i] s (fun s => match s.counter s.cur.tile i with
      | .iter _ _ _ _ _ =>
        if f.claims.isEmpty && decide (f.claimed < f.replay.length) then
          .done ((s.setFir { f with claimed := f.claimed + 1 }).pend (.s d (f.replay.getD f.claimed 0)))
        else pinIf (decide (16 ≤ f.claimed + f.claims.length)) s (claim d i)
      | _ => .trap s Code.tskJckind 0)))

/-! ## R176 -/

/-- The layout of work identifiers that a context has in a tile's partition. -/
def State.layout (s : State) (n c : Nat) : List Nat := Map.get (s.part (quadOf n)).layouts c []

/-- Field n of a work identifier. -/
def widField (ws : List Nat) (w : Word) (n : Nat) : Word :=
  if ws.length ≤ n then 0
  else BitVec.ofNat 64 (w.toNat / 2 ^ ((ws.drop (n + 1)).foldl (· + ·) 0) % 2 ^ (ws.getD n 0))

def execWidFld (p : Pfx) (d i : BitVec 5) (s : State) : Host.Outcome State Fault Refusal :=
  run p true s (fun s => asFiring s (fun f =>
    let ws := match f.slot with
      | some _ => s.layout s.cur.tile s.ctxn
      | none => []
    .done (s.setS d (widField ws f.wid (p.immI i).toNat))))

end Sys2Proof.Machine
end

