-- ==== Sys2Proof/Machine/Copy.lean ====
section
/-! DEFINITION. Machine/Copy.lean: copy requests and their push (R246 to R249, R353, R369), the engines (R198, R250,
R251, R258), completion, stops and suspensions (R252 to R257), channels (R368, R369) and window traffic (R352 to R355,
R358). -/

namespace Sys2Proof.Machine

/-! ## Request words (R246, R247) -/

def Copy.len (k : Copy) : Nat := k.w2.toNat % 2 ^ 32
def Copy.rows (k : Copy) : Nat := max (k.w2.toNat / 2 ^ 32) 1
/-- The row strides, ignored for one row. -/
def Copy.sstr (k : Copy) : Int := if k.rows ≤ 1 then 0 else sextNat 32 (k.w2b.toNat % 2 ^ 32)
def Copy.dstr (k : Copy) : Int := if k.rows ≤ 1 then 0 else sextNat 32 (k.w2b.toNat / 2 ^ 32)
def Copy.swe (k : Copy) : Bool := k.w3.getLsbD 6
def Copy.swoff (k : Copy) : Nat := bitsOf k.w3.toNat 8 18
def Copy.rnd (k : Copy) : Nat := bitsOf k.w3.toNat 3 3
def Copy.tok (k : Copy) : BitVec 3 := k.w3.extractLsb' 0 3
def Copy.cmsg (k : Copy) : Bool := k.w3b.getLsbD 12
def Copy.ctag (k : Copy) : Nat := bitsOf k.w3b.toNat 0 12
def Copy.curg (k : Copy) : Bool := k.w3b.getLsbD 13
def Copy.cookie (k : Copy) : Nat := k.w3b.toNat / 2 ^ 32

/-- Element widths of a converting copy, 1 and 1 otherwise (R247). -/
def Copy.ws (k : Copy) : Nat := match k.conv with | some q => elemWidth q.1 | none => 1
def Copy.wd (k : Copy) : Nat := match k.conv with | some q => elemWidth q.2 | none => 1
def Copy.dlen (k : Copy) : Nat := k.len / k.ws * k.wd

def Copy.srcRow (k : Copy) (r : Nat) : Int := (k.src.addr : Int) + k.sstr * r
def Copy.dstRow (k : Copy) (r : Nat) : Int := (k.dst.addr : Int) + k.dstr * r

/-- The span of rows from a start with a stride: lowest address and length. -/
def spanOf (start : Nat) (stride : Int) (rows len : Nat) : Int × Nat :=
  let last := stride * (rows - 1 : Nat)
  ((start : Int) + min 0 last, last.natAbs + len)

def Copy.srcSpan (k : Copy) : Int × Nat := spanOf k.src.addr k.sstr k.rows k.len
def Copy.dstSpan (k : Copy) : Int × Nat := spanOf k.dst.addr k.dstr k.rows k.dlen

/-- The address of the sync word. -/
def Copy.swAddr (k : Copy) : Nat := k.dst.base + 16 * k.swoff

/-! ## Windows (R352) -/

def winBase : Nat := 0xE000 * 2 ^ 32

/-- A capability of a fabric window. -/
def isWindow (c : Cap) : Bool := c.otype == 3

def winOf (c : Cap) : Nat := (c.base - winBase) / 2 ^ 32
def winCtx (w : Word) : Nat := bitsOf w.toNat 48 12
def winPeer (w : Word) : Nat := bitsOf w.toNat 38 10
def winExp (w : Word) : Nat := bitsOf w.toNat 26 12
def winGroup (w : Word) : Nat := bitsOf w.toNat 18 8
def State.window (s : State) (c : Cap) : Word := Map.get s.wins (winOf c) 0

/-- The up ports that a window may use. -/
def State.upPorts (s : State) (w : Word) : List Nat :=
  (List.range 18).filter (fun p => w.getLsbD p && s.portState p == .up)

/-- The present attempt number of a context's group (R355). -/
def State.attemptOf (s : State) (c g : Nat) : Nat :=
  match Map.get? s.contexts c with
  | some x => Map.get x.attempts g 0
  | none => 0

/-! ## Checks at push (R249) -/

/-- CheckAccess over a span that may start below zero (R107). -/
def spanCheck (c : Cap) (sp : Int × Nat) (mask : BitVec 12) (window : Bool) : Option (BitVec 16) :=
  if !c.tag then some Code.capTag
  else if c.sealed && !window then some Code.capSeal
  else if c.perms &&& mask != mask then some Code.capPerm
  else if (c.base : Int) ≤ sp.1 ∧ sp.1 + sp.2 ≤ (c.top : Int) then none
  else some Code.capBound

/-- The pieces of a range for a copy's tile and context (R118, R328). -/
def State.enginePieces (s : State) (n ctx va len : Nat) (w : Want) : Except (XRes × Nat) (List Piece) :=
  let q := spaceOf n va
  match q.1 with
  | .global => s.translateAll (s.info ctx) w (pagePieces va len)
  | sp => .ok [{ va := va, key := localKey n ctx sp q.2, n := len, tag := sp != .wstore }]

/-- A range reaches a host page, held or not. -/
def isHost (ps : Except (XRes × Nat) (List Piece)) : Bool :=
  match ps with
  | .ok l => l.any (fun p => keyKind p.key == 1)
  | .error (.pager 2 _, _) => true
  | .error _ => false

/-- A page of a range of global addresses is host memory, whatever accesses its entry allows. -/
def State.hostPages (s : State) (ctx : Nat) (sp : Int × Nat) : Bool :=
  (pagePieces sp.1.toNat sp.2).any (fun p =>
    isHost (s.enginePieces s.cur.tile ctx p.1 p.2 .rd) || isHost (s.enginePieces s.cur.tile ctx p.1 p.2 .wr))

/-- Memory of this package, as the other end of a window copy must be: no page of it is host memory. DEDUCED, log 76. -/
def State.ownMemory (s : State) (ctx : Nat) (c : Cap) (sp : Int × Nat) : Bool :=
  match (spaceOf s.cur.tile c.addr).1 with
  | .global => !s.hostPages ctx sp
  | .scratch _ => true | .remote _ => true | .cmem => true | .wstore => true
  | _ => false

/-- The package's own number in the fabric domain (R350). -/
def selfPackage : Nat := Config.freeNat 0 % 1024

/-- A window to the package itself whose export is another world's (R363). What a peer exports is known at the peer alone.
DEDUCED, log 77. -/
def State.otherWorld (s : State) (ctx : Nat) (w : Word) : Bool :=
  winPeer w == selfPackage &&
    (s.info (bitsOf (Map.get s.exps (winExp w) 0).toNat 48 12)).secure != (s.info ctx).secure

/-- One end of a request: step 1 or 2 of R249, by R353 for a window. -/
def State.endFault (s : State) (k : Copy) (c other : Cap) (sp osp : Int × Nat) (mask : BitVec 12) : Option (BitVec 16) :=
  if isWindow c then
    let w := s.window c
    firstFault
      [ spanCheck c sp mask true,
        if !w.getLsbD 63 || winCtx w != k.ctx || isWindow other || !s.ownMemory k.ctx other osp || s.otherWorld k.ctx w then
          some Code.fabWin else none,
        if (s.upPorts w).isEmpty then some Code.linkDown else none ]
  else spanCheck c sp mask false

/-- A range that lies in one tile's scratchpad, this tile's or another's; an empty one lies anywhere. -/
def scratchSpan (tile : Nat) (a n : Nat) : Bool :=
  let q := spaceOf tile a
  n == 0 || (q.1.scratchTile.isSome && decide (q.2 + n ≤ 2 ^ 18))

/-- Ranges that have a byte in common. -/
def overlaps (a n b m : Nat) : Bool := decide (0 < n) && decide (0 < m) && decide (a < b + m) && decide (b < a + n)

/-- Step 3: a breach of R246 or R247. -/
def State.reqFault (s : State) (k : Copy) : Bool :=
  let n := s.cur.tile
  let lo := k.dstSpan.1.toNat
  let g := k.swAddr
  decide (k.w3.toNat / 2 ^ 26 ≠ 0) || k.w3.getLsbD 7 || (!k.swe && k.swoff != 0) || decide (5 < k.rnd) ||
  bitsOf k.w3b.toNat 14 18 != 0 || (!k.cmsg && (k.ctag != 0 || k.curg || k.cookie != 0)) ||
  (match k.conv with
    | some q => k.len % (if q.1 = fmtT8B then 4 else elemWidth q.1) != 0
    | none => false) ||
  decide (0xFFFFFFFF < k.rows * k.dlen) ||
  (k.swe && (!k.dst.within g 16 || !scratchSpan n g 16 || !scratchSpan n lo k.dstSpan.2 || overlaps g 16 lo k.dstSpan.2))

/-- Step 4 for one span that is not a window; an empty span touches nothing. -/
def State.spanSpace (s : State) (sp : Int × Nat) : Option (BitVec 16) :=
  let q := spaceOf s.cur.tile sp.1.toNat
  if sp.2 = 0 then none
  else if q.1 = .void ∨ q.1 = .inbox ∨ q.1 = .window ∨ spaceSize q.1 < q.2 + sp.2 then some Code.memSpace
  else none

/-- The addresses of a request that may lie in a scratchpad: its spans and its sync word. -/
def Copy.localEnds (k : Copy) : List Nat :=
  (if isWindow k.src then [] else [k.srcSpan.1.toNat]) ++ (if isWindow k.dst then [] else [k.dstSpan.1.toNat]) ++
    (if k.swe then [k.swAddr] else [])

/-- Step 5: MEM.NOTILE for any of them, then MEM.AWAY. -/
def State.tileFault (s : State) (k : Copy) : Option (BitVec 16 × Nat) :=
  let at_ (e : BitVec 16) : Option (BitVec 16 × Nat) :=
    (k.localEnds.find? (fun a => s.remoteFault s.cur.tile k.ctx (spaceOf s.cur.tile a).1 == some e)).map (fun a => (e, a))
  at_ Code.memNotile <|> at_ Code.memAway

/-- Step 6 for the rows of one end: each row start, and each row within its bank and clear of its scales. -/
def rowsFault (fmt : Nat) (start : Nat) (stride : Int) (len : Nat) : Nat → Option (BitVec 16)
  | 0 => none
  | r + 1 =>
    match rowsFault fmt start stride len r with
    | some e => some e
    | none =>
      let o := ((start : Int) + stride * r).toNat
      let g := if fmt = fmtT8B then 4 else elemWidth fmt
      if o % g != 0 || decide (32768 < o % 32768 + len) then some Code.memAlign else none

def scalesFault (fmt : Nat) (start : Nat) (stride : Int) (len : Nat) : Nat → Option (BitVec 16)
  | 0 => none
  | r + 1 =>
    match scalesFault fmt start stride len r with
    | some e => some e
    | none =>
      let o := ((start : Int) + stride * r).toNat
      if fmt = fmtT8B ∧ 0x6000 < o % 32768 + len then some Code.memFmt else none

/-- Step 6 at the source and at the destination of a converting copy, by one of the two checks above. -/
def State.convFault (s : State) (k : Copy) (check : Nat → Nat → Int → Nat → Nat → Option (BitVec 16)) :
    Option (BitVec 16) × Option (BitVec 16) :=
  match k.conv with
  | none => (none, none)
  | some q =>
    let n := s.cur.tile
    (check q.1 (spaceOf n k.src.addr).2 k.sstr k.len k.rows, check q.2 (spaceOf n k.dst.addr).2 k.dstr k.dlen k.rows)

/-- The channel whose data range holds a host span of a context (R369). The range is one of the owner's address space, all of
it host memory (R367); a span of another context is a host span where its own tables map it so. -/
def State.channelOf (s : State) (ctx : Nat) (sp : Int × Nat) : Option Nat :=
  (s.chans.find? (fun q => chValid q.2.ctrl && (chCtx q.2.ctrl == ctx || s.hostPages ctx sp) &&
    decide ((chBase q.2.ctrl : Int) ≤ sp.1 ∧ sp.1 + sp.2 ≤ (chBase q.2.ctrl + chPages q.2.ctrl * 65536 : Nat)))).map (fun q => q.1)

/-- The channel that carries a copy and whether it goes to the host: the destination's, else the source's. -/
def State.copyChannel (s : State) (k : Copy) : Option (Nat × Bool) :=
  if isWindow k.src ∨ isWindow k.dst then none
  else match s.channelOf k.ctx k.dstSpan with
    | some n => some (n, true)
    | none => (s.channelOf k.ctx k.srcSpan).map (fun n => (n, false))

/-- Counters that a copy needs of a channel's device half. -/
def Copy.counters (k : Copy) : Nat := k.rows * k.len / 4096

/-- The checks of R369 after step 6. -/
def State.chanFault (s : State) (k : Copy) : Option (BitVec 16) :=
  match s.copyChannel k with
  | none => none
  | some (n, toHost) =>
    let c := s.chan n
    let start := if toHost then k.dst.addr else k.src.addr
    let stride := if toHost then k.dstr else k.sstr
    if start % 4096 != 0 || k.len % 4096 != 0 || stride % 4096 != 0 then some Code.memAlign
    else if chDead c.ctrl || chCtx c.ctrl != k.ctx || (toHost && decide (2 ^ 32 < c.dctr + k.counters)) then some Code.chanDead
    else none

/-- Every check of R249 in its order, with the address that a fault reports (the lowest of the span concerned). -/
def State.pushFault (s : State) (k : Copy) : Option (BitVec 16 × Nat) :=
  let ss := k.srcSpan
  let ds := k.dstSpan
  let so := ss.1.toNat
  let d := ds.1.toNat
  let both (a b : Option (BitVec 16)) : Option (BitVec 16 × Nat) :=
    match a, b with
    | some e, _ => some (e, so)
    | none, some e => some (e, d)
    | none, none => none
  let steps : List (Option (BitVec 16 × Nat)) :=
    [ both (s.endFault k k.src k.dst ss ds (need [permLD, permENG])) none,
      both none (s.endFault k k.dst k.src ds ss (need [permST, permENG])),
      if s.reqFault k then some (Code.cpReq, 0) else none,
      both (if isWindow k.src then none else s.spanSpace ss) (if isWindow k.dst then none else s.spanSpace ds),
      s.tileFault k,
      both (s.convFault k rowsFault).1 (s.convFault k rowsFault).2,
      both (s.convFault k scalesFault).1 (s.convFault k scalesFault).2,
      (match s.copyChannel k with
        | some (_, true) => both none (s.chanFault k)
        | _ => both (s.chanFault k) none) ]
  steps.findSome? (fun x => x)

/-! ## Push (R249) -/

/-- A copy's span lies in a scratchpad. -/
def inScratch (tile : Nat) (sp : Int × Nat) : Bool := decide (0 ≤ sp.1) && scratchSpan tile sp.1.toNat sp.2

/-- The formats by which a copy converts (R247): those of the banks of its first bytes, where they differ and both spans, as
long as the conversion makes them, lie in scratchpad. -/
def State.convOf (s : State) (k : Copy) : Option (Nat × Nat) :=
  let n := s.cur.tile
  let a := spaceOf n k.src.addr
  let b := spaceOf n k.dst.addr
  if !isWindow k.src && !isWindow k.dst && a.1.scratchTile.isSome && b.1.scratchTile.isSome then
    let f := s.fmtAt k.ctx a.1 a.2
    let g := s.fmtAt k.ctx b.1 b.2
    let c : Copy := { k with conv := some (f, g) }
    if f = g || !inScratch n c.srcSpan || !inScratch n c.dstSpan then none else some (f, g)
  else none

/-- The request that a `cp` names. -/
def State.request (s : State) (p : Pfx) (d a : BitVec 4) : Copy :=
  let f := s.fir
  let base : Copy :=
    { ctx := s.ctxn, src := s.c d, dst := s.c a, w2 := s.s p.x, w2b := s.s (p.x + 1), w3 := s.s (p.x + 2)
      w3b := s.s (p.x + 3), ts := match f with | some f => f.ts + f.off | none => 0
      wid := match f with | some f => f.wid | none => 0, slot := f.bind (fun f => f.slot)
      pusher := f.map (fun f => { tile := s.cur.tile, serial := f.serial })
      fate := match f with | some f => (if f.pinned then .settled else .speculative) | none => .settled
      set := s.cur.set, detached := false, byEnd := false, push := (s.tile s.cur.tile).pushes, home := 0
      conv := none, started := false, row := 0, done := 0, written := 0, fault := none
      reply := none, attempt := 0, chan := none, ctrs := [], takesLast := false, since := s.clk, stop := none }
  let w := if isWindow base.src then base.src else base.dst
  { base with conv := s.convOf base, attempt := if isWindow w then s.attemptOf s.ctxn (winGroup (s.window w)) else 0 }

/-- A push pins first (R191). A global source overlaps a line of the write set where the line meets the span that R247 gives the
source, the gaps between its rows with it: R191 does not say whether the rows alone count. DESIGN CHOICE, log 99. -/
def State.pushPins (s : State) (k : Copy) : Bool :=
  let global (c : Cap) : Bool := !isWindow c && (spaceOf s.cur.tile c.addr).1 == .global
  isWindow k.dst || global k.dst ||
    (global k.src && (writeLines s.buffer).any (fun l =>
      decide ((l * 64 : Nat) < k.srcSpan.1 + k.srcSpan.2 ∧ k.srcSpan.1 < (l * 64 + 64 : Nat))))

/-- The lowest free slot of a FIFO (R250). -/
def freeSlot (slots : List (Option Copy)) : Option Nat := slots.findIdx? (fun o => o.isNone)

/-- The request takes a slot; its token counts it; channel counters are reserved (R249, R369). -/
def State.pushCopy (s : State) (k : Copy) (i : Nat) : State :=
  let n := s.cur.tile
  let q := s.copyChannel k
  let toHost := match q with | some (_, b) => b | none => false
  let dctr := match q with | some (c, _) => (s.chan c).dctr | none => 0
  let key := match q with | some (c, _) => (s.chan c).key | none => 0
  let cnt := if toHost then k.counters else 0
  let k1 := { k with home := i, chan := q, chanKey := key, agedTo := s.clk, ctrs := (List.range cnt).map (fun j => dctr + j)
                     takesLast := toHost && decide (0 < cnt) && dctr + cnt == 2 ^ 32 }
  let s1 := match q with
    | some (c, true) => s.setChan c { s.chan c with dctr := dctr + cnt }
    | _ => s
  let t := s1.tile n
  let s2 := s1.setTile n { t with slots := t.slots.set i (some k1), pushes := t.pushes + 1 }
  let r := s2.reg
  s2.setReg (r.setToken k.tok { r.token k.tok with cnt := (r.token k.tok).cnt + 1 })

def copyOp (p : Pfx) (d a : BitVec 4) (s : State) (busy : State → Res) (pushed : State → State) :
    Host.Outcome State Fault Refusal :=
  run p true s (fun s =>
    pinIf (s.pushPins (s.request p d a)) s (fun s =>
      let k := s.request p d a
      match s.pushFault k with
      | some (e, ta) => .trap s e (BitVec.ofNat 64 ta)
      | none =>
        match freeSlot (s.tile s.cur.tile).slots with
        | none => busy s
        | some i => afterTable k.usesT8 s (fun s =>
            afterCompare (!s.speculative) s (fun s => .done (pushed (s.pushCopy k i))))))

def execCp (p : Pfx) (d a : BitVec 4) (s : State) : Host.Outcome State Fault Refusal :=
  copyOp p d a s (fun s => .hold s) (fun s => s)
def execCpTry (p : Pfx) (d a : BitVec 4) (s : State) : Host.Outcome State Fault Refusal :=
  copyOp p d a s (fun s => .done (s.setS p.y 1)) (fun s => s.setS p.y 0)

/-! ## `tk.q` and `cp.rsm` (R254, R257) -/

/-- The word of `tk.q`. -/
def State.tokenWord (s : State) (i : BitVec 3) : Word :=
  let r := s.reg
  let free := (s.tile s.cur.tile).slots.countP (fun o => o.isNone)
  let idle := ((List.range 8).map (fun j => bit ((r.token (BitVec.ofNat 3 j)).cnt == 0) * 2 ^ j)).foldl (· + ·) 0
  BitVec.ofNat 64 ((r.token i).stat.toNat * 2 ^ 48 + (r.token i).cnt % 16 * 2 ^ 44 + free % 16 * 2 ^ 40 + idle)

def execTkQ (p : Pfx) (d a : BitVec 5) (s : State) : Host.Outcome State Fault Refusal :=
  run p true s (fun s =>
    let w := s.s a
    let i := w.extractLsb' 0 3
    let s1 := s.setS d (s.tokenWord i)
    .done (if w.getLsbD 3 then s1.setReg (s1.reg.setToken i { s1.reg.token i with stat := 0 }) else s1))

def execCpRsm (p : Pfx) (d a : BitVec 5) (s : State) : Host.Outcome State Fault Refusal :=
  run p true s (fun s => atPriv .supervisor s (fun s =>
    let h := (s.s d).toNat
    let m : Msg :=
      { ts := 0, src := s.cur.tile, knd := 6, urg := true, tag := 0xFFF, wid := 0
        payload := [s.s d, BitVec.ofNat 64 ((s.s a).toNat % 2 ^ 16), 0, 0, 0, 0], ctx := 0, dst := h % 4096, slot := none }
    .done { s with net := s.net ++ [m] }))

/-! ## Slots -/

def Tile.copyAt (t : Tile) (i : Nat) : Option Copy := (t.slots[i]?).bind (fun o => o)
def State.setSlot (s : State) (n i : Nat) (o : Option Copy) : State :=
  s.setTile n { s.tile n with slots := (s.tile n).slots.set i o }

/-- A started copy that is not suspended and has not been stopped. -/
def Copy.running (k : Copy) : Bool := k.started && k.fault.isNone && k.stop.isNone

/-- Every row has been moved. -/
def Copy.moved (k : Copy) : Bool := decide (k.rows ≤ k.row) || k.dlen == 0

/-! ## Starting (R132, R198, R250, R255) -/

/-- Every live launch of a quadrant is a weight-load launch, and the copy's own is one. -/
def State.mayLoadWeights (s : State) (n : Nat) (k : Copy) : Bool :=
  (match k.slot with
    | some l => (match Map.get? s.launches l with
      | some q => q.wload
      | none => false)
    | none => false) &&
  s.launches.all (fun q => !q.2.begun || q.2.complete || !q.2.parts.contains (quadOf n) || q.2.wload)

/-- Active requests of a cluster's copy engine. -/
def State.activeCopies (s : State) (k : Nat) : Nat :=
  ((clusterTiles k).map (fun n => (s.tile n).slots.countP (fun o => match o with
    | some c => c.started
    | none => false))).foldl (· + ·) 0

/-- A copy, or the next chunk of one, begins to wait: its age is 0, and nothing of the chunk is paid or under way. -/
def Copy.restart (k : Copy) (clk : Nat) : Copy := { k with since := clk, aged := 0, agedTo := clk, paid := false, engine := none }

/-- Copies of a FIFO start in push order. -/
def Tile.firstUnstarted (t : Tile) (k : Copy) : Bool :=
  t.slots.all (fun o => match o with
    | some c => c.started || decide (k.push ≤ c.push)
    | none => true)

def State.mayStartCopy (s : State) (n : Nat) (k : Copy) : Bool :=
  !k.started && (s.tile n).firstUnstarted k && decide (s.activeCopies (clusterOf n) < 16)

def execCopyStart (tile cpSlot : Nat) (s : State) : Host.Outcome State Fault Refusal :=
  match (s.tile tile).copyAt cpSlot with
  | none => .next s
  | some k =>
    if s.mayStartCopy tile k then
      let refused := !isWindow k.dst && (spaceOf tile k.dst.addr).1 == .wstore && !s.mayLoadWeights tile k
      .next (s.setSlot tile cpSlot (some { k.restart s.clk with started := true, passed := 0, stop := if refused then some Code.memWsro else k.stop }))
    else .next s

/-! ## One write unit (R251) -/

/-- What an engine's step comes to: the unit moved, a translation that failed with what a message says of it, a stop. -/
inductive UnitRes where
  | moved (s : State) (k : Copy)
  | fault (x : XRes) (va : Nat) (write tag : Bool)
  | stop (code : BitVec 16)

/-- The bytes of the next unit: within the row, and within 64 aligned bytes of the destination. -/
def Copy.unitLen (k : Copy) : Nat := min (k.dlen - k.done) (64 - ((k.dstRow k.row).toNat + k.done) % 64)

/-- The destination offset: the bytes of the request before the next one, over all its rows. DEDUCED, log 60. -/
def Copy.offset (k : Copy) : Nat := k.row * k.dlen + k.done

/-- The bytes of the next unit through an edge engine, which cuts at every multiple of 4,096 bytes of destination offset
(R258). -/
def Copy.edgeLen (k : Copy) : Nat := min k.unitLen (4096 - k.offset % 4096)

def Copy.dstVa (k : Copy) : Nat := (k.dstRow k.row).toNat + k.done
def Copy.srcVa (k : Copy) : Nat := (k.srcRow k.row).toNat + k.done / k.wd * k.ws

/-- The granules that would carry a tag from a source range to an aligned destination range (R111): offset and
capability. -/
def State.carried (s : State) (k : Copy) (src : List Piece) (sva dva len : Nat) : List (Nat × Cap) :=
  if k.conv.isSome || !k.src.has permLDC || !k.dst.has permSTC || sva % 16 != dva % 16 then []
  else (blocksOf 16 dva len).flatMap (fun g =>
    if g < dva ∨ dva + len < g + 16 then []
    else
      let o := g - dva
      match src.find? (fun p => decide (p.va ≤ sva + o) && decide (sva + o < p.va + p.n)) with
      | some p =>
        let key := p.key + (sva + o - p.va)
        if p.tag && s.tagFor (s.info k.ctx).keyId key then
          [(o, Cap.ofBytes true (ofBytes (s.readBytes (s.info k.ctx).keyId key 16)))]
        else []
      | none => [])

/-- Counting a unit of n bytes into a sync word (R215). -/
def countWord (bs : List Byte) (n : Nat) : List Byte :=
  let target := ofBytes (bs.take 4)
  let t := ofBytes ((bs.drop 4).take 4) + n
  let gen := ofBytes ((bs.drop 8).take 4)
  if target = 0 then bs.take 4 ++ toBytes 4 t ++ (bs.drop 8)
  else bs.take 4 ++ toBytes 4 (t % target) ++ toBytes 4 (gen + t / target) ++ bs.drop 12

def State.countSync (s : State) (n : Nat) (k : Copy) (len : Nat) : State :=
  if k.swe then
    let q := spaceOf n k.swAddr
    let key := localKey n k.ctx q.1 q.2
    s.writeBytes 0 (key + 4) (((countWord (Memory.readBytes s.mem key 16) len).drop 4).take 8)
  else s

/-- Lines read on behalf of a speculative firing join its read set (R188, R198). -/
def State.noteEngineReads (s : State) (n : Nat) (k : Copy) (lines : List Nat) : State :=
  match s.speculativeOwner n k.pusher with
  | some l => s.onFiring l (fun f => { f with reads := (f.reads ++ lines).eraseDups })
  | none => s

/-- The lines of a global range that an engine reads. -/
def State.noteSource (s : State) (n : Nat) (k : Copy) (va : Nat) (ps : List Piece) : State :=
  if (spaceOf n va).1 = .global then s.noteEngineReads n k (ps.flatMap (fun p => linesOf p.va p.n)) else s

/-- The leases of an engine's translations of a range (R329). -/
def State.engineLeases (s : State) (n : Nat) (k : Copy) (va : Nat) (ps : List Piece) : State :=
  if (spaceOf n va).1 = .global then s.leaseAll (s.info k.ctx) ps else s

/-- The stop of a tag that memory would refuse (R111): CAP.LOCAL outside the pushing tile's scratchpad, CAP.NOTAG where no
tag is kept. R111 gives a copy no order for a granule that meets both: CAP.LOCAL comes first here. DESIGN CHOICE, log 95. -/
def tagStop (n : Nat) (dsp : Space) (keeps : Bool) (tags : List (Nat × Cap)) : Option (BitVec 16) :=
  if tags.any (fun t => !t.2.has permGL) && dsp.scratchTile != some n then some Code.capLocal
  else if !tags.isEmpty && !keeps then some Code.capNotag
  else none

/-- The engine's write: the firing's direct store (R188, R198), with the tags it carries, through the filter (R112). -/
def State.engineWrite (s : State) (n : Nat) (k : Copy) (dst : List Piece) (global : Bool) (bs : List Byte)
    (tags : List (Nat × Cap)) : State :=
  let dva := match dst with | p :: _ => p.va | [] => 0
  let s1 := match k.pusher, global with
    | some i, true => s.directWrite n k.ctx i (linesOf dva bs.length)
    | _, _ => s
  let keys := dst.map (fun p => (p.key, p.n))
  let s2 := (s1.mergeRanges keys).writePieces (s.info k.ctx).keyId keys bs
  (tags.filter (fun t => (s2.filterCap k.ctx t.2).tag)).foldl (fun s t =>
    match dst.find? (fun p => decide (p.va ≤ dva + t.1) && decide (dva + t.1 < p.va + p.n)) with
    | some p => { s with tags := Keys.insert s.tags (p.key + (dva + t.1 - p.va)) }
    | none => s) s2

/-- Bytes that no rule fixes. -/
def State.freeBytes (s : State) (n : Nat) : List Byte := (List.range n).map (fun i => Config.freeByte (s.tick * 64 + i))

/-- The destination bytes of a converting unit, by blocks for T8B; each element takes its own bank's format, and one
of another width than the copy's gives bytes that no rule fixes (R66, R247, R251). -/
def State.convertUnit (s : State) (n : Nat) (k : Copy) (len : Nat) : State :=
  let t := (s.tctxOf n k.ctx).table
  let mode := roundOfCode k.rnd
  let a := spaceOf n k.srcVa
  let b := spaceOf n k.dstVa
  let st := (a.1.scratchTile).getD n
  let dt := (b.1.scratchTile).getD n
  let f := s.bankFmt st k.ctx a.2
  let g := s.bankFmt dt k.ctx b.2
  let cnt := len / k.wd
  let elem (j : Nat) : Nat × Nat :=
    let o := a.2 + j * k.ws
    (s.imageNat st k.ctx o k.ws, s.imageNat st k.ctx (scaleOff o) 1)
  if elemWidth f != k.ws || elemWidth g != k.wd then s.putImage dt k.ctx b.2 (s.freeBytes len)
  else if g = fmtT8B then
    State.cleanseRuns (runs := elemRuns dt k.ctx fmtT8B ((List.range cnt).map (fun j => b.2 + j)))
    ((blocksOf 4 b.2 len).foldl (fun s base =>
      s.putBlock t mode dt k.ctx base (s.blockWith t dt k.ctx base (fun i =>
        if b.2 ≤ base + i ∧ base + i < b.2 + cnt then
          let e := elem (base + i - b.2)
          some (anyNum t f e.1 e.2)
        else none))) s)
  else
    s.putImage dt k.ctx b.2 ((List.range cnt).flatMap (fun j =>
      let e := elem j
      toBytes k.wd (convertElem t f g mode e.1 e.2)))

/-- Progress by n destination bytes. -/
def Copy.advance (k : Copy) (n : Nat) : Copy :=
  if k.dlen ≤ k.done + n then { k with row := k.row + 1, done := 0, written := k.written + n }
  else { k with done := k.done + n, written := k.written + n }

/-- What a unit reads: memory, and the request in its FIFO slot (R377, R384). -/
def Copy.unitSeen (k : Copy) (src : List Piece) : List Seen :=
  let base := src.map (fun p => { va := p.va, key := p.key, n := p.n : Seen }) ++
    k.bad.map (fun w => { va := noAddr, key := keyFifo 0 k.home w, n := 1, bad := true })
  match k.conv, src with
  | some q, p :: _ =>
    if q.1 = fmtT8B then base ++ [{ va := p.va - p.va % 32768 + 0x6000 + p.va % 32768 / 4, key := p.key - p.key % 32768 + 0x6000 + p.key % 32768 / 4, n := (p.n + 3) / 4 }]
    else base
  | _, _ => base

/-- What a converting unit reads of a T8B destination: the elements of its first and last blocks that it does not replace, with
their scales (R251, R380). -/
def State.convertRest (s : State) (n : Nat) (k : Copy) (len : Nat) : List Seen :=
  let b := spaceOf n k.dstVa
  let dt := (b.1.scratchTile).getD n
  if k.conv.isSome ∧ s.bankFmt dt k.ctx b.2 = fmtT8B then
    (blocksOf 4 b.2 len).flatMap (fun base => ([0, 1, 2, 3].map (fun j => base + j)).flatMap (fun e =>
      if b.2 ≤ e ∧ e < b.2 + len then [] else seenElems dt k.ctx fmtT8B e 1 (k.dstVa + e - b.2)))
  else []

/-- One unit of len bytes of a copy between memories. -/
def State.copyUnit (s : State) (n : Nat) (k : Copy) (len : Nat) : UnitRes :=
  let slen := len / k.wd * k.ws
  match s.enginePieces n k.ctx k.srcVa slen .rd with
  | .error (x, va) => .fault x va false false
  | .ok src =>
    let s := s.mergeRanges (src.map (fun p => (p.key, p.n)))
    match s.poisonIn (k.unitSeen src ++ s.convertRest n k len) with
    | some _ => .stop Code.dataUnc
    | none =>
      let tags := s.carried k src k.srcVa k.dstVa len
      let dsp := (spaceOf n k.dstVa).1
      let global := dsp == .global
      match tagStop n dsp (dsp != .wstore) tags with
      | some e => .stop e
      | none => match s.enginePieces n k.ctx k.dstVa len (if tags.isEmpty then .wr else .cap) with
        | .error (.fault code cause, va) =>
          if code = Code.capNotag then .stop code else .fault (.fault code cause) va true (!tags.isEmpty)
        | .error (x, va) => .fault x va true (!tags.isEmpty)
        | .ok dst =>
          let s0 := (s.engineLeases n k k.srcVa src).engineLeases n k k.dstVa dst
          let s1 := s0.noteSource n k k.srcVa src
          let s2 := match k.conv with
            | some _ => s1.convertUnit n k len
            | none =>
              let bs := src.flatMap (fun (p : Piece) => s1.readBytes (s1.info k.ctx).keyId p.key p.n)
              s1.engineWrite n k dst global bs tags
          .moved (s2.countSync n k len) (k.advance len)

/-! ## Suspending (R257, R331) -/

/-- The copy suspends at a fault and its message leaves. -/
def State.suspend (s : State) (n i : Nat) (k : Copy) (x : XRes) (va : Nat) (write tag : Bool) : State :=
  let q : Nat × Nat := match x with
    | .pager cause level => (cause, level)
    | .fault _ cause => (cause, 0)
    | .ok _ _ => (0, 0)
  (s.setSlot n i (some { k with fault := some va, engine := none })).send
    (s.faultMsg n k.ctx k.ts k.wid va (k.handle n) q.1 q.2 write tag true)

/-- The state after a step of an engine on slot i. -/
def State.settleUnit (s : State) (n i : Nat) (k : Copy) : UnitRes → State
  | .moved s1 k1 => s1.setSlot n i (some k1)
  | .fault x va w t => s.suspend n i k x va w t
  | .stop code => s.setSlot n i (some { k with stop := some code })

/-! ## Which engine (R258) -/

/-- The next unit goes through an edge engine: a window, a channel, or a host page at either end. -/
def State.throughEdge (s : State) (n : Nat) (k : Copy) : Bool :=
  isWindow k.src || isWindow k.dst || k.chan.isSome ||
    isHost (s.enginePieces n k.ctx k.srcVa (k.unitLen / k.wd * k.ws) .rd) || isHost (s.enginePieces n k.ctx k.dstVa k.unitLen .wr)

/-- A weight-store bank of the next unit's source is in refresh (R133). -/
def State.copyWaits (s : State) (n : Nat) (k : Copy) : Bool :=
  let q := spaceOf n k.srcVa
  !isWindow k.src && q.1 == .wstore && (banksOf n q.2 (k.unitLen / k.wd * k.ws)).any (fun b =>
    inRefresh (s.refreshTime (dieOf n)) (b % 16))

/-- A unit of slot i may be performed now. -/
def State.mayMove (s : State) (n : Nat) (k : Copy) : Bool :=
  k.running && !k.moved && (s.tile n).loaded == some k.ctx && !s.copyWaits n k

/-! ## Arbitration (R250, R357) -/

/-- WEIGHT of a context (R357). -/
def State.weight (s : State) (ctx : Nat) : Nat :=
  match Map.get? s.contexts ctx with
  | some x => max (bitsOf x.edgebud.toNat 56 8) 1
  | none => 1

/-- The age of a waiting copy or chunk: it rises by its context's WEIGHT every 32 clk (R357). -/
def State.age (s : State) (k : Copy) : Nat := k.aged + (s.clk - k.agedTo) / 32 * s.weight k.ctx

/-- One goes before another: the older, then the earlier arrival, then the lower context number (R357). -/
def State.olderChunk (s : State) (k j : Copy) : Bool :=
  decide (s.age j < s.age k) || (s.age j == s.age k && (decide (k.since < j.since) || (k.since == j.since && decide (k.ctx < j.ctx))))

/-- What the age of every copy of a context has come to, before its WEIGHT changes: what is gained is kept. -/
def State.keepAges (s : State) (ctx : Nat) : State :=
  let go (k : Copy) : Copy :=
    if k.ctx = ctx then { k with aged := s.age k, agedTo := k.agedTo + (s.clk - k.agedTo) / 32 * 32 } else k
  { s with tiles := Map.mapKV (fun _ t => { t with
      slots := t.slots.map (fun o => o.map go)
      ctxs := Map.mapKV (fun _ x => { x with copies := x.copies.map go }) t.ctxs }) s.tiles }

/-- A unit of a copy may go through the cluster's copy engine now. -/
def State.mayWrite (s : State) (n : Nat) (k : Copy) : Bool := s.mayMove n k && !s.throughEdge n k

/-- The active requests of a cluster that have a unit to write. -/
def State.writers (s : State) (k : Nat) : List Copy :=
  (clusterTiles k).flatMap (fun n => (s.tile n).slots.flatMap (fun o => match o with
    | some c => if s.mayWrite n c then [c] else []
    | none => []))

/-- The next write slot given to a request would leave others without their one in 16: for some j, more than j of them must
have theirs within the j slots after it. -/
def crowded (l : List Copy) (k : Copy) : Bool :=
  (List.range 16).any (fun j => decide (j < (l.erase k).countP (fun c => decide (15 ≤ c.passed + j))))

/-- The request that has the next write slot of a cluster's engine (R250): the oldest, unless that would crowd another out; the
one that has waited most slots then. DESIGN CHOICE, log 61. -/
def State.writesNext (s : State) (k : Nat) (c : Copy) : Bool :=
  let l := s.writers k
  let oldest (c : Copy) : Bool := l.all (fun j => !s.olderChunk j c)
  if l.any (fun j => oldest j && crowded l j) then l.all (fun j => decide (j.passed ≤ c.passed)) else oldest c

/-- The other requests of a cluster that had a unit to write have been passed over once more. -/
def State.passSlot (s : State) (n i : Nat) : State :=
  (clusterTiles (clusterOf n)).foldl (fun t m =>
    t.setTile m { t.tile m with slots := (indexed (t.tile m).slots).map (fun q => match q.2 with
      | some c => if m = n ∧ q.1 = i then some { c with passed := 0 }
        else if s.mayWrite m c then some { c with passed := c.passed + 1 } else some c
      | none => none) }) s

def execCopyWriteUnit (tile cpSlot : Nat) (s : State) : Host.Outcome State Fault Refusal :=
  match (s.tile tile).copyAt cpSlot with
  | none => .next s
  | some k =>
    if s.mayWrite tile k && s.writesNext (clusterOf tile) k then
      .next ((s.passSlot tile cpSlot).settleUnit tile cpSlot { k with passed := 0 }
        ((s.passSlot tile cpSlot).copyUnit tile { k with passed := 0 } k.unitLen))
    else .next s

/-! ## Completion and stops (R252, R253, R256) -/

/-- Outstanding traffic of a copy with its peer. -/
def Posted.ofCopy (q : Posted) (n push : Nat) : Bool := q.unit.tile == n && q.unit.push == push

def State.peerBusy (s : State) (n : Nat) (k : Copy) : Bool :=
  s.posted.any (fun q => q.ofCopy n k.push) || s.fabric.any (fun q => q.ofCopy n k.push)

/-- The completion message. -/
def Copy.message (k : Copy) (n : Nat) (code : BitVec 16) : Msg :=
  { ts := k.ts, src := n, knd := 4, urg := k.curg, tag := k.ctag, wid := k.wid
    payload := [BitVec.ofNat 64 (code.toNat + k.tok.toNat * 2 ^ 16), BitVec.ofNat 64 k.written, BitVec.ofNat 64 k.cookie,
      0, 0, 0]
    ctx := k.ctx, dst := n, slot := k.slot }

/-- A token after one of its copies has ended. -/
def Token.after (t : Token) (code : BitVec 16) : Token :=
  { cnt := t.cnt - 1, stat := if t.stat = 0 then code else t.stat }

def RegSet.tokenAfter (r : RegSet) (k : Copy) (code : BitVec 16) : RegSet :=
  r.setToken k.tok ((r.token k.tok).after code)

/-- The set that pushed the copy, live or saved, has its token updated. -/
def TileCtx.tokenAfter (x : TileCtx) (k : Copy) (id : FiringId) (code : BitVec 16) : TileCtx :=
  let go (r : RegSet) : RegSet :=
    match r.fir with
    | some f => if f.serial = id.serial then r.tokenAfter k code else r
    | none => r
  { x with normal := go x.normal, urgent := go x.urgent, saved := x.saved.map (fun q => (q.1, go q.2)) }

/-- A stop of a detached copy is recorded, at most 64 of them (R256, R277). -/
def TileCtx.recordStop (x : TileCtx) (k : Copy) (code : BitVec 16) : TileCtx :=
  if x.stops.length < 64 then { x with stops := x.stops ++ [{ code := code, tok := k.tok.toNat }] }
  else { x with stopsLost := true }

/-- A copy that has completed (code 0) or stopped: its token, its message, its slot. -/
def State.finishCopy (s : State) (n i : Nat) (k : Copy) (code : BitVec 16) : State :=
  let s0 := (s.setSlot n i none).wake n
  let s1 := match k.chan, k.takesLast && k.chan.any (fun q => (s0.chan q.1).key == k.chanKey) with
    | some (c, _), true => s0.setChan c { s0.chan c with ctrl := (s0.chan c).ctrl ||| BitVec.ofNat 64 (2 ^ 62) }
    | _, _ => s0
  let s2 := match k.detached, k.pusher with
    | false, some id => s1.setTctxOf n k.ctx ((s1.tctxOf n k.ctx).tokenAfter k id code)
    | false, none => s1.setTile n { s1.tile n with keeper := (s1.tile n).keeper.tokenAfter k code }
    | true, _ => if code != 0 && k.byEnd then s1.setTctxOf n k.ctx ((s1.tctxOf n k.ctx).recordStop k code) else s1
  if !k.cmsg then s2
  else match k.fate, k.pusher with
    | .settled, _ => s2.send (k.message n code)
    | .speculative, some id => s2.setTctxOf n k.ctx { s2.tctxOf n k.ctx with
        compMsgs := (s2.tctxOf n k.ctx).compMsgs ++ [(id, k.message n code)] }
    | _, _ => s2

def State.mayComplete (s : State) (n : Nat) (k : Copy) : Bool := k.running && k.moved && !s.peerBusy n k

def execCopyComplete (tile cpSlot : Nat) (s : State) : Host.Outcome State Fault Refusal :=
  match (s.tile tile).copyAt cpSlot with
  | some k => .next (if s.mayComplete tile k then s.finishCopy tile cpSlot k 0 else s)
  | none => .next s

/-- COPY_STOP: a stop that an engine has met, or that a party of the event names for a started copy (R255). -/
def execCopyStop (tile cpSlot code : Nat) (s : State) : Host.Outcome State Fault Refusal :=
  match (s.tile tile).copyAt cpSlot with
  | some k => .next (if k.started && k.stop == some (BitVec.ofNat 16 code) then s.finishCopy tile cpSlot k (BitVec.ofNat 16 code) else s)
  | none => .next s

/-- COMPLETION_MESSAGE: a completion message in flight arrives (R253, R160). -/
def execCompletionMessage (idx : Nat) (s : State) : Host.Outcome State Fault Refusal :=
  match s.net[idx]? with
  | some m => if m.knd = 4 then execMessageArrival idx s else .next s
  | none => .next s

/-! ## Budgets and chunks (R357, R358) -/

def Context.refill (x : Context) : Nat := bitsOf x.edgebud.toNat 0 24

/-- The context has budget for a chunk. -/
def State.hasBudget (s : State) (c : Nat) : Bool :=
  match Map.get? s.contexts c with
  | some x => x.refill == 0 || decide (0 < x.left)
  | none => true

/-- Starting a chunk takes one from LEFT. -/
def State.spend (s : State) (c : Nat) : State :=
  match Map.get? s.contexts c with
  | some x => if x.refill = 0 then s else { s with contexts := Map.set s.contexts c { x with left := x.left - 1 } }
  | none => s

/-- The length of a period. -/
def periodClk : Nat := 21000

/-- A period has begun in which the context's budget has not been refilled. DEDUCED, log 60. -/
def State.refillDue (s : State) (x : Context) : Bool := decide (x.period < s.clk / periodClk)

/-- BUDGET_REFILL: a period begins (R357). -/
def execBudgetRefill (ctx : Nat) (s : State) : Host.Outcome State Fault Refusal :=
  match Map.get? s.contexts ctx with
  | some x =>
    .next (if s.refillDue x then
      { s with contexts := Map.set s.contexts ctx { x with left := x.refill, period := s.clk / periodClk } } else s)
  | none => .next s

/-- Units up to the end of the chunk, at a multiple of 4,096 bytes of destination offset (R258). -/
def State.hostChunk (n i : Nat) : Nat → State → State
  | 0, s => s
  | fuel + 1, s =>
    match (s.tile n).copyAt i with
    | some k =>
      if !k.running || k.moved then s
      else
        match s.copyUnit n k k.edgeLen with
        | .moved s1 k1 =>
          let s2 := s1.setSlot n i (some k1)
          if k1.offset % 4096 = 0 then s2 else State.hostChunk n i fuel s2
        | r => s.settleUnit n i k r
    | none => s

/-! ## Window traffic (R352 to R355) -/

/-- The unit that a copy sends or asks for next, one to a flit. -/
def State.fabricUnit (s : State) (n : Nat) (k : Copy) (w : Word) (off dst : Nat) (bs : List Byte) : FabricUnit :=
  { src := selfPackage, pkg := winPeer w, export_ := winExp w, group := winGroup w, attempt := k.attempt, off := off
    units := 1, secure := (s.info k.ctx).secure, tile := n, push := k.push, dst := dst, data := bs, poison := false }

/-- A copy's attempt is old: its units are dropped unsent, and count as moved (R355). -/
def State.oldAttempt (s : State) (k : Copy) (w : Word) : Bool := decide (k.attempt < s.attemptOf k.ctx (winGroup w))

/-- Progress by n bytes that were not written. -/
def Copy.pass (k : Copy) (n : Nat) : Copy := { k.advance n with written := k.written }

/-- The port that a window's next unit leaves by. -/
def State.nextPort (s : State) (w : Word) : Option Nat := (s.upPorts w)[s.tick % (s.upPorts w).length]?

/-- One unit of a copy to a window: sent on an up port, or dropped unsent when its attempt is old. -/
def State.windowOut (s : State) (n : Nat) (k : Copy) : UnitRes :=
  let len := k.edgeLen
  match s.enginePieces n k.ctx k.srcVa len .rd with
  | .error (x, va) => .fault x va false false
  | .ok src =>
    let s := s.mergeRanges (src.map (fun p => (p.key, p.n)))
    match s.poisonIn (k.unitSeen src) with
    | some _ => .stop Code.dataUnc
    | none =>
      let w := s.window k.dst
      let bs := src.flatMap (fun p => s.readBytes (s.info k.ctx).keyId p.key p.n)
      if s.oldAttempt k w then .moved s (k.pass len)
      else match s.nextPort w with
        | none => .moved s k
        | some p =>
          let u := s.fabricUnit n k w (k.dstVa % 2 ^ 32) 0 bs
          let s1 := (s.engineLeases n k k.srcVa src).noteSource n k k.srcVa src
          .moved { s1 with outbound := s1.outbound ++ [.write u]
                           posted := s1.posted ++ [{ unit := u, port := p, owner := k.pusher, lost := false }] } (k.advance len)

/-- One unit of a copy from a window: its request leaves, and the copy moves on once the response has come. -/
def State.windowIn (s : State) (n : Nat) (k : Copy) : UnitRes :=
  let len := k.edgeLen
  match s.enginePieces n k.ctx k.dstVa len .wr with
  | .error (x, va) => .fault x va true false
  | .ok dst =>
    let s := s.engineLeases n k k.dstVa dst
    let w := s.window k.src
    if s.oldAttempt k w then .moved s (k.pass len)
    else match s.nextPort w with
      | none => .moved s k
      | some p =>
        let u := s.fabricUnit n k w (k.srcVa % 2 ^ 32) k.dstVa (List.replicate len 0)
        .moved { s with outbound := s.outbound ++ [.readRequest u]
                        fabric := s.fabric ++ [{ unit := u, port := p, owner := k.pusher, lost := false }] } k

/-- The units of one chunk to a window. -/
def State.windowChunk (n i : Nat) : Nat → State → State
  | 0, s => s
  | fuel + 1, s =>
    match (s.tile n).copyAt i with
    | some k =>
      if !k.running || k.moved then s
      else
        match s.windowOut n k with
        | .moved s1 k1 =>
          let s2 := s1.setSlot n i (some k1)
          if k1.offset % 4096 = 0 ∨ k1 = k then s2 else State.windowChunk n i fuel s2
        | r => s.settleUnit n i k r
    | none => s

/-- POSTED_DONE, the second part of EDGE_CHUNK: a posted write is performed at the peer (R200, R252). -/
def State.postedDone (s : State) (i : Nat) : State :=
  match s.posted[i]? with
  | some q => if !q.lost && s.portState q.port == .up then { s with posted := s.posted.eraseIdx i } else s
  | none => s

def execPostedDone (i : Nat) (s : State) : Host.Outcome State Fault Refusal := .next (s.postedDone i)

/-! ## Channels (R368, R369) -/

/-- The 32 bytes that the tag area holds for a chunk (R367). -/
def tagBytes (tag : BitVec 128) (ctr : Nat) (toHost : Bool) : List Byte :=
  toBytes 16 tag.toNat ++ toBytes 4 ctr ++ [BitVec.ofNat 8 (bit toHost)] ++ toBytes 11 0

/-- Where the tag area holds the 32 bytes of a chunk. -/
def tagAddr (c : Word) (va : Nat) : Nat := chBase c + chPages c * 65536 + (va - chBase c) / 4096 * 32

/-- One chunk from device memory to the host: encrypted under the next reserved counter. Host memory keeps no tag. -/
def State.chunkOut (s : State) (n : Nat) (k : Copy) (ch : Nat) : UnitRes :=
  let c := s.chan ch
  match s.enginePieces n k.ctx k.srcVa 4096 .rd with
  | .error (x, va) => .fault x va false false
  | .ok src =>
    match s.enginePieces n k.ctx k.dstVa 4096 .wr with
    | .error (x, va) => .fault x va true false
    | .ok dst =>
      match s.enginePieces n k.ctx (tagAddr c.ctrl k.dstVa) 32 .wr with
      | .error (x, va) => .fault x va true false
      | .ok tg =>
        let s := s.mergeRanges (src.map (fun p => (p.key, p.n)))
        match s.poisonIn (k.unitSeen src), tagStop n (spaceOf n k.dstVa).1 false (s.carried k src k.srcVa k.dstVa 4096) with
        | some _, _ => .stop Code.dataUnc
        | none, some e => .stop e
        | none, none =>
          let plain := src.flatMap (fun p => s.readBytes (s.info k.ctx).keyId p.key p.n)
          let ctr := k.ctrs.headD 0
          let x := s.sealChunk ch true ctr k.dstVa plain
          let s1 := (((s.engineLeases n k k.srcVa src).engineLeases n k k.dstVa dst).engineLeases n k (tagAddr c.ctrl k.dstVa) tg).noteSource
            n k k.srcVa src
          let s2 := s1.engineWrite n k dst true x.data []
          .moved (s2.engineWrite n k tg true (tagBytes x.tag ctr true) []) { k.advance 4096 with ctrs := k.ctrs.drop 1 }

/-- One chunk from the host: verified, then written. -/
def State.chunkIn (s : State) (n : Nat) (k : Copy) (ch : Nat) : UnitRes :=
  let c := s.chan ch
  match s.enginePieces n k.ctx k.srcVa 4096 .rd with
  | .error (x, va) => .fault x va false false
  | .ok src =>
    match s.enginePieces n k.ctx (tagAddr c.ctrl k.srcVa) 32 .rd with
    | .error (x, va) => .fault x va false false
    | .ok tg =>
      match s.enginePieces n k.ctx k.dstVa 4096 .wr with
      | .error (x, va) => .fault x va true false
      | .ok dst =>
        match s.poisonIn (k.unitSeen (src ++ tg)) with
        | some _ => .stop Code.dataUnc
        | none =>
          let bytes (l : List Piece) : List Byte := l.flatMap (fun p => s.readBytes 0 p.key p.n)
          let t := bytes tg
          let ctr := ofBytes ((t.drop 16).take 4)
          let x : Chunk := { chan := ch, toHost := (t.getD 20 0).getLsbD 0, ctr := ctr, addr := k.srcVa
                             tag := BitVec.ofNat 128 (ofBytes (t.take 16)), data := bytes src }
          match s.openChunk x with
          | none => .stop Code.chanDead
          | some plain =>
            let tva := tagAddr c.ctrl k.srcVa
            let s0 := ((s.acceptCtr ch ctr).noteSource n k k.srcVa src).noteSource n k tva tg
            let s1 := ((s0.engineLeases n k k.srcVa src).engineLeases n k tva tg).engineLeases n k k.dstVa dst
            let s2 := s1.engineWrite n k dst ((spaceOf n k.dstVa).1 == .global) plain []
            .moved (s2.countSync n k 4096) (k.advance 4096)

/-- A chunk of a channel copy: none starts once DEAD is set, and a tag that fails sets it. Nor does one under another key than the
channel had at the push: the counters reserved then are those of a channel that is no more (R369). -/
def State.channelChunk (s : State) (n i : Nat) (k : Copy) (ch : Nat) (toHost : Bool) : State :=
  if chDead (s.chan ch).ctrl || (s.chan ch).key != k.chanKey then s.setSlot n i (some { k with stop := some Code.chanDead })
  else
    match (if toHost then s.chunkOut n k ch else s.chunkIn n k ch) with
    | .stop code => (if code = Code.chanDead then s.setDead ch else s).setSlot n i (some { k with stop := some code })
    | r => s.settleUnit n i k r

/-! ## The edge engine (R258, R358) -/

/-- A request of the copy is on its way to a peer. -/
def State.asked (s : State) (n : Nat) (k : Copy) : Bool := s.fabric.any (fun q => q.ofCopy n k.push)

/-- A copy whose next chunk, or the rest of one that has begun, waits for an edge engine: within its budget, which is
tested where a chunk begins (R358), and with a port that is up. -/
def State.chunkWaits (s : State) (n : Nat) (k : Copy) : Bool :=
  s.mayMove n k && s.throughEdge n k && !s.asked n k && (s.hasBudget k.ctx || k.paid) &&
    (if isWindow k.src then !(s.upPorts (s.window k.src)).isEmpty || s.oldAttempt k (s.window k.src)
     else if isWindow k.dst then !(s.upPorts (s.window k.dst)).isEmpty || s.oldAttempt k (s.window k.dst) else true)

/-- The link that a copy's next unit leaves by: a Moatal Link port, or the host link. -/
def State.linkOf (s : State) (k : Copy) : Option Nat :=
  if isWindow k.src then s.nextPort (s.window k.src)
  else if isWindow k.dst then s.nextPort (s.window k.dst) else none

/-- The I/O die whose engines serve a copy (R13, R258): 0 for the host, and the one that carries the port. -/
def State.edgeDie (s : State) (k : Copy) : Nat :=
  if isWindow k.src then (s.nextPort (s.window k.src)).getD 0 / 9
  else if isWindow k.dst then (s.nextPort (s.window k.dst)).getD 0 / 9 else 0

/-- A copy holds an edge engine of a die, in a chunk that is under way. -/
def Copy.holds (k : Copy) (die : Nat) : Bool := k.engine == some die && k.running && !k.moved

/-- An edge engine of a die is free: each die has eight (R13, R258), and one moves one chunk at a time (R358). -/
def State.engineFree (s : State) (die : Nat) : Bool :=
  decide ((s.tiles.map (fun q => q.2.slots.countP (fun o => match o with
    | some k => k.holds die
    | none => false))).foldl (· + ·) 0 < 8)

/-- No chunk that waits for an engine of the same I/O die goes before. -/
def State.edgeFirst (s : State) (k : Copy) : Bool :=
  s.tiles.all (fun q => q.2.slots.all (fun o => match o with
    | some j => !(s.olderChunk j k && s.edgeDie j == s.edgeDie k && j.engine.isNone && s.chunkWaits q.1 j)
    | none => true))

/-- No unit that waits at the same link, the host's or a port's, goes before (R357): of chunks that are under way, since a
link is no bound for one that has no engine. -/
def State.linkFirst (s : State) (k : Copy) : Bool :=
  s.tiles.all (fun q => q.2.slots.all (fun o => match o with
    | some j => !(s.olderChunk j k && s.linkOf j == s.linkOf k && j.engine.isSome && s.chunkWaits q.1 j)
    | none => true))

/-- A chunk of the copy is next at an edge engine, or its next unit at the link of a chunk that is under way: none of those is
pre-empted. -/
def State.mayChunk (s : State) (n : Nat) (k : Copy) : Bool :=
  s.chunkWaits n k && (if k.engine.isSome then s.linkFirst k else s.engineFree (s.edgeDie k) && s.edgeFirst k)

/-- What an edge engine does for a copy: a chunk of a channel, to the host or a window, or a unit from a window. -/
def State.edgeMove (s : State) (n i : Nat) (k : Copy) : State :=
  match k.chan with
  | some (ch, toHost) => s.channelChunk n i k ch toHost
  | none =>
    if isWindow k.src then s.settleUnit n i k (s.windowIn n k)
    else if isWindow k.dst then State.windowChunk n i 4096 s
    else State.hostChunk n i 4096 s

/-- After an engine's work: a chunk that has begun took one from LEFT, once (R358), and holds its engine; where it is over, the
next one starts to wait. -/
def State.afterChunk (s : State) (n i : Nat) (k : Copy) : State :=
  match (s.tile n).copyAt i with
  | some j =>
    if j.offset ≠ k.offset ∨ s.asked n j then
      let s1 := if k.paid then s else s.spend k.ctx
      s1.setSlot n i (some (
        if j.offset ≠ k.offset ∧ j.offset % 4096 = 0 then j.restart s1.clk
        else { j with paid := true, engine := if j.fault.isSome then none else some (k.engine.getD (s.edgeDie k)) }))
    else s
  | none => s

def execEdgeChunk (tile cpSlot : Nat) (s : State) : Host.Outcome State Fault Refusal :=
  match (s.tile tile).copyAt cpSlot with
  | some k => .next (if s.mayChunk tile k then (s.edgeMove tile cpSlot k).afterChunk tile cpSlot k else s)
  | none => .next s

/-! ## Resume packets (R257, R332) -/

/-- A reply for a suspended copy: 0 retries the unit, another value stops the copy. -/
def Copy.resume (k : Copy) (v : Nat) : Copy :=
  if v = 0 then { k with fault := none } else { k with fault := none, stop := some (BitVec.ofNat 16 v) }

/-- A suspended copy that a handle's push count, modulo 2^32, names. -/
def Copy.awaits (k : Copy) (push : Nat) : Bool := k.push % 2 ^ 32 == push && k.fault.isSome

/-- A copy handle: a copy in the FIFO resumes, one that is saved keeps the reply (R257, R260). -/
def State.resumeCopy (s : State) (n push home v : Nat) : State :=
  let t := s.tile n
  let go (k : Copy) : Copy := if k.awaits push && k.home == home then k.resume v else k
  let keep (k : Copy) : Copy := if k.awaits push && k.home == home && k.reply.isNone then { k with reply := some v } else k
  s.setTile n { t with slots := t.slots.map (fun o => o.map go)
                       ctxs := Map.mapKV (fun _ x => { x with copies := x.copies.map keep }) t.ctxs }

/-- What a parked chain does by its reply (R332). -/
def State.answerPage (s : State) (v va : Nat) : State :=
  let s1 := s.setReg { s.reg with pageWait := none }
  if v = 0 then s1
  else s1.raise (if 0x301 ≤ v ∧ v ≤ 0x304 then BitVec.ofNat 16 v else Code.xlPage) (BitVec.ofNat 64 va)

/-- A set's page fault of a count awaits a reply. -/
def RegSet.awaitsPage (r : RegSet) (count : Nat) : Option Nat :=
  match r.pageWait with
  | some w => if w.count = count ∧ w.reply = none then some w.va else none
  | none => none

def RegSet.holdReply (r : RegSet) (count v : Nat) : RegSet :=
  match r.pageWait with
  | some w => if w.count = count ∧ w.reply = none then { r with pageWait := some { w with reply := some v } } else r
  | none => r

/-- A tile handle: the live set acts, a saved one holds the reply until its context is loaded (R332). -/
def State.resumeSet (s : State) (n : Nat) (k : SetId) (count v : Nat) : State :=
  match (s.regOf n k).awaitsPage count, (s.tile n).loaded with
  | some va, some _ => s.onSet n k (fun s => s.answerPage v va)
  | _, l => s.setTile n { s.tile n with ctxs := Map.mapKV (fun c x =>
      if l = some c then x else x.setRegs k ((x.regs k).holdReply count v)) (s.tile n).ctxs }

def execResumePacket (idx : Nat) (s : State) : Host.Outcome State Fault Refusal :=
  match s.net[idx]? with
  | none => .next s
  | some m =>
    if m.knd ≠ 6 then .next s
    else
      let s1 := { s with net := s.net.eraseIdx idx }.wake m.dst
      let h := (m.payload.getD 0 0).toNat
      let v := (m.payload.getD 1 0).toNat % 2 ^ 16
      let n := h % 2 ^ 12
      let count := h / 2 ^ 16 % 2 ^ 32
      if h / 2 ^ 48 ≠ 0 then .next s1
      else if h.testBit 15 then
        (if bitsOf h 13 2 ≠ 0 then .next s1
         else .next (s1.resumeSet n (if h.testBit 12 then .urgent else .normal) count v))
      else .next (s1.resumeCopy n count (bitsOf h 12 3) v)

end Sys2Proof.Machine
end

