-- ==== Sys2Proof/Machine/Solve.lean ====
section
/-! DEFINITION. Machine/Solve.lean: solve regions (R289 to R302). -/

namespace Sys2Proof.Machine

/-! ## The fixed arithmetic (R295) -/

/-- a − b × c with one rounding. -/
def subProduct (a b c : Lane) : Lane := ffma .rn true a b c

/-- SubProduct over a run of factors, in order. -/
def subAll (s : Lane) (ps : List (Lane × Lane)) : Lane := ps.foldl (fun s q => subProduct s q.1 q.2) s

/-- SumTile: 16 fused steps in each of 64 lanes, then the tree of R152. -/
def sumTile (a b : List Lane) : Lane :=
  let s := (List.range 16).foldl (fun acc v =>
    (acc.zip (((a.drop (64 * v)).take 64).zip ((b.drop (64 * v)).take 64))).map (fun q => ffma .rn false q.1 q.2.1 q.2.2))
    (List.replicate 64 (0 : Lane))
  (foldTree (fadd .rn) (s.map some)).getD 0

/-- A list of tiles, each its 1,024 elements in order (R292). -/
abbrev Area := List (List Lane)

/-- SumProducts: this tile's part. -/
def sumProducts (a b : Area) : Lane := (a.zip b).foldl (fun p q => fadd .rn p (sumTile q.1 q.2)) 0

def subArea (a b : Area) : Area := (a.zip b).map (fun q => (q.1.zip q.2).map (fun x => fsub .rn x.1 x.2))

/-- u − d × g over an area. -/
def subScaled (u d : Area) (g : Lane) : Area := (u.zip d).map (fun q => (q.1.zip q.2).map (fun x => subProduct x.1 x.2 g))

/-- Combine: the part itself in tile scope, the sum over tiles 0 to 7 in cluster scope. -/
def combineParts (cluster : Bool) (ps : List Lane) : Lane := if cluster then ps.foldl (fadd .rn) 0 else ps.headD 0

/-! ## SolveMix (R296) -/

/-- Row i of L below its diagonal, from row i of H and the rows above. -/
def factorRow (h : List Lane) (rows : List (List Lane)) : List Lane :=
  rows.foldl (fun acc r => acc ++ [fdiv .rn (subAll (h.getD acc.length 0) (acc.zip r)) (r.getD acc.length 0)]) []

/-- A pivot is a finite value above zero. -/
def goodPivot (x : Lane) : Bool := flt 0 x && x != 0x7F800000

/-- The rows of L, or none where a pivot is bad. -/
def factor : List (List Lane) → List (List Lane) → Option (List (List Lane))
  | [], rows => some rows
  | h :: hs, rows =>
    let r := factorRow h rows
    let pivot := subAll (h.getD r.length 0) (r.zip r)
    if goodPivot pivot then factor hs (rows ++ [r ++ [fsqrt .rn pivot]]) else none

def forwardSolve (rows : List (List Lane)) (c : List Lane) : List Lane :=
  rows.foldl (fun w r => w ++ [fdiv .rn (subAll (c.getD w.length 0) (r.zip w)) (r.getD w.length 0)]) []

def backSolve (rows : List (List Lane)) (w : List Lane) : List Lane :=
  (List.range rows.length).reverse.foldl (fun g i =>
    fdiv .rn (subAll (w.getD i 0) (((rows.drop (i + 1)).map (fun r => r.getD i 0)).zip g)) ((rows.getD i []).getD i 0) :: g) []

/-- The loop over D: n pairs remain of F. -/
def mixFrom (h : List (List Lane)) (c : List Lane) (f : Nat) : Nat → Nat × List Lane
  | 0 => (f, [])
  | n + 1 =>
    let d := f - (n + 1)
    match factor ((h.drop d).map (fun r => r.drop d)) [] with
    | some rows => (d, backSolve rows (forwardSolve rows (c.drop d)))
    | none => mixFrom h c f n

/-- SolveMix: the drops D and the coefficients. -/
def solveMix (h : List (List Lane)) (c : List Lane) : Nat × List Lane := mixFrom h c c.length c.length

/-! ## Decide (R296, R297) -/

/-- What Decide comes to: verdict 1 pass, 2 fail, 3 nan; thr is none where the verdict was reached before it. -/
structure Decision where
  verdict : Nat
  nr      : Lane
  ng      : Lane
  thr     : Option Lane
  shape   : Bool
  drops   : Nat
  gammas  : List Lane
  deriving DecidableEq, Repr

/-- The entry of an upper triangle listed by rows. -/
def triangle (f p q : Nat) : Nat := min p q * f - min p q * (min p q - 1) / 2 + (max p q - min p q)

def notFinite (x : Lane) : Bool := decide (0x7F800000 ≤ x.toNat % 2 ^ 31)

def RoundPart.sameShape (a b : RoundPart) : Bool := a.nt == b.nt && a.rel == b.rel && a.fill == b.fill

/-- One round from its parts. lead's TOL, LAMBDA and shape are the ones applied. -/
def decideRound (cluster : Bool) (lead : RoundPart) (ps : List RoundPart) : Decision :=
  let nr := fsqrt .rn (combineParts cluster (ps.map (fun p => p.nr)))
  let ng := if lead.rel then fsqrt .rn (combineParts cluster (ps.map (fun p => p.ng))) else 0
  let unequal := ps.any (fun p => !p.sameShape lead)
  if notFinite nr || notFinite ng || unequal then
    { verdict := 3, nr := nr, ng := ng, thr := none, shape := unequal, drops := 0, gammas := [] }
  else
    let thr := if lead.rel then fmul .rn lead.tol ng else lead.tol
    if fle nr thr then { verdict := 1, nr := nr, ng := ng, thr := some thr, shape := false, drops := 0, gammas := [] }
    else
      let f := lead.fill
      let sum (g : RoundPart → List Lane) (i : Nat) : Lane := combineParts cluster (ps.map (fun p => (g p).getD i 0))
      let h := (List.range f).map (fun p => (List.range f).map (fun q =>
        let x := sum (fun r => r.hs) (triangle f p q)
        if p = q then fadd .rn x lead.lambda else x))
      let m := solveMix h ((List.range f).map (sum (fun r => r.cs)))
      { verdict := 2, nr := nr, ng := ng, thr := some thr, shape := false, drops := m.1, gammas := m.2 }

/-! ## The region record -/

def Solve.nt (v : Solve) : Nat := v.ntm1 + 1

/-- Fields of the descriptor (R292). -/
def descXt (w : Word) (i : Nat) : Nat := bitsOf w.toNat (8 * i) 6
def descGt (w : Word) (i : Nat) : Nat := bitsOf w.toNat (32 + 8 * i) 6
def descNt (w : Word) : Nat := bitsOf w.toNat 0 2 + 1
def descM (w : Word) : Nat := min (bitsOf w.toNat 8 4) 8
def descRel (w : Word) : Bool := w.getLsbD 4
def descScope (w : Word) : Bool := w.getLsbD 5

/-- The address of a carried or image tile. -/
def tileAddr (base : Word) (t : Nat) : Nat := (base + BitVec.ofNat 64 (4096 * t)).toNat

def carriedAddrs (base d0 : Word) (nt : Nat) : List Nat := (List.range nt).map (fun i => tileAddr base (descXt d0 i))
def imageAddrs (base d0 : Word) (nt : Nat) : List Nat := (List.range nt).map (fun i => tileAddr base (descGt d0 i))

def State.setSolve (s : State) (v : Solve) : State := s.setTctx { s.tctx with solve := v }

/-! ## `slv.begin` (R293) -/

/-- The first fault of a list with its address. -/
def firstAt : List (Option (BitVec 16) × Nat) → Option (BitVec 16 × Nat)
  | [] => none
  | (some e, a) :: _ => some (e, a)
  | (none, _) :: l => firstAt l

/-- The checks of `slv.begin` in their order. -/
def State.beginFault (s : State) (ct ch : Cap) (d0 d1 : Word) : Option (BitVec 16 × Nat) :=
  let n := s.cur.tile
  let nt := descNt d1
  let hlen := (2 + 2 * descM d1) * nt * 4096
  let tiles := carriedAddrs ct.addrW d0 nt ++ imageAddrs ct.addrW d0 nt
  let h := spaceOf n ch.addr
  let hist := (h.1.scratchTile == some n || h.1 == .cmem) && decide (h.2 + hlen ≤ spaceSize h.1)
  let mates := clusterTiles (clusterOf n)
  firstAt
    (tiles.map (fun a => (ct.checkAccess a 4096 (need [permLD, permST]), a)) ++
     [(ch.checkAccess ch.addr hlen (need [permLD, permST, permENG]), ch.addr)] ++
     tiles.map (fun a => (if a % 4096 != 0 then some Code.memAlign else none, a)) ++
     [(if ch.addr % 64 != 0 then some Code.memAlign else none, ch.addr)] ++
     tiles.map (fun a => (if (spaceOf n a).1.scratchTile != some n then some Code.memSpace else none, a)) ++
     [(if hist then none else some Code.memSpace, ch.addr),
      (if descScope d1 && mates.any (fun t => !s.tileExists t) then some Code.memNotile else none, 0),
      (if descScope d1 && mates.any (fun t => !s.resident t s.ctxn) then some Code.memAway else none, 0)])

def execSlvBegin (p : Pfx) (d a : BitVec 4) (s : State) : Host.Outcome State Fault Refusal :=
  run p true s (fun s =>
    let d1 := s.s (p.x + 1)
    pinIf (descScope d1) s (fun s =>
      let ct := s.c d
      let ch := s.c a
      let d0 := s.s p.x
      match s.beginFault ct ch d0 d1 with
      | some (e, ta) => .trap s e (BitVec.ofNat 64 ta)
      | none =>
        let v := s.tctx.solve
        .done (s.setSolve { v with
          desc0 := d0, desc1 := d1, tileCap := ct, histCap := ch
          start := portable s.reg.pcc.addr + p.chainBytes true
          slvk := 0, fill := 0, head := 0, prev := false, contrib := false, held := false, result := none, drops := 0
          shape := false, active := true, scope := descScope d1, rel := descRel d1, ntm1 := descNt d1 - 1
          depth := descM d1
          cepoch := if descScope d1 then v.cepoch + 1 else v.cepoch
          cseq := if descScope d1 then 0 else v.cseq })))

/-! ## `slv.end` (R294) -/

/-- Raw F32 words of a tile-sized slot. -/
def toLanes : Nat → List Byte → List Lane
  | 0, _ => []
  | n + 1, bs => BitVec.ofNat 32 (ofBytes (bs.take 4)) :: toLanes n (bs.drop 4)

/-- The key of an address that the solve unit reaches. -/
def State.solveKey (s : State) (a : Nat) : Nat :=
  let q := spaceOf s.cur.tile a
  localKey s.cur.tile s.ctxn q.1 q.2

def State.readTile (s : State) (a : Nat) : List Lane := toLanes 1024 (s.readBytes s.keyId (s.solveKey a) 4096)
def State.readArea (s : State) (as : List Nat) : Area := as.map s.readTile
def State.writeTile (s : State) (a : Nat) (v : List Lane) : State :=
  s.writeBytes s.keyId (s.solveKey a) (v.flatMap (fun x => toBytes 4 x.toNat))
def State.writeArea (s : State) (as : List Nat) (v : Area) : State := (as.zip v).foldl (fun s q => s.writeTile q.1 q.2) s

/-- The addresses of area k of the history, in slots of NT tiles. -/
def Solve.slots (v : Solve) (k : Nat) : List Nat :=
  (List.range v.nt).map (fun t => (v.histCap.addr + 4096 * (k * v.nt + t)) % 2 ^ 64)

def Solve.xs (v : Solve) : List Nat := carriedAddrs v.tileCap.addrW v.desc0 v.nt
def Solve.gs (v : Solve) : List Nat := imageAddrs v.tileCap.addrW v.desc0 v.nt

/-- The ring positions of the pairs held, oldest first. -/
def Solve.ring (v : Solve) : List Nat := (List.range v.fill).map (fun i => (v.head + i) % v.depth)

/-- What an invocation reads: the image, the residual, the pairs that Decide gets (each ΔG with its ΔR), and the
would-be newest of them. -/
structure Invocation where
  g     : Area
  r     : Area
  pairs : List (Area × Area)
  newest : Option (Area × Area)
  deriving DecidableEq, Repr

def State.invocation (s : State) (v : Solve) : Invocation :=
  let g := s.readArea v.gs
  let r := subArea g (s.readArea v.xs)
  let held := v.ring.map (fun p => (s.readArea (v.slots (2 + 2 * p)), s.readArea (v.slots (3 + 2 * p))))
  if v.prev then
    let newest := (subArea g (s.readArea (v.slots 0)), subArea r (s.readArea (v.slots 1)))
    let f := min (v.fill + 1) v.depth
    let all := held ++ [newest]
    { g := g, r := r, pairs := all.drop (all.length - f), newest := some newest }
  else { g := g, r := r, pairs := held, newest := none }

/-- The ranges that an invocation reads (R380), with the Cirrus state and the cluster unit's rounds (R384). -/
def State.solveSeen (s : State) (v : Solve) : List Seen :=
  (v.xs ++ v.gs ++ (if v.prev then v.slots 0 ++ v.slots 1 else []) ++
    (v.ring.drop (v.fill + bit v.prev - v.depth)).flatMap (fun p => v.slots (2 + 2 * p) ++ v.slots (3 + 2 * p))).map
    (fun a => { va := a, key := s.solveKey a, n := 4096 }) ++
  [{ va := noAddr, key := keyCirrus s.cur.tile s.ctxn 0, n := 16 * 65536 }, { va := noAddr, key := keyUnit (clusterOf s.cur.tile) 320, n := 1 }]

/-- This tile's part of a round (R297). -/
def Invocation.part (q : Invocation) (v : Solve) : RoundPart :=
  let rs := q.pairs.map (fun x => x.2)
  { nt := v.nt, rel := v.rel, fill := q.pairs.length, nr := sumProducts q.r q.r
    ng := if v.rel then sumProducts q.g q.g else 0
    hs := (List.range rs.length).flatMap (fun i => (rs.drop i).map (fun y => sumProducts (rs.getD i []) y))
    cs := rs.map (fun x => sumProducts x q.r), lambda := v.lambda, tol := v.tol }

/-- The values that Decide leaves before the verdict. -/
def Solve.decided (v : Solve) (d : Decision) : Solve :=
  { v with nrm := d.nr, ngm := d.ng, thr := d.thr.getD v.thr, shape := if d.verdict = 3 then d.shape else v.shape }

/-- UpdateElem over all elements (R296). -/
def Invocation.update (q : Invocation) (damp : Lane) (d : Nat) (gammas : List Lane) : Area :=
  let used := (q.pairs.drop d).zip gammas
  let u := used.foldl (fun u x => subScaled u x.1.1 x.2) q.g
  if damp.toNat % 2 ^ 31 = 0 then u
  else
    let w := used.foldl (fun w x => subScaled w x.1.2 x.2) q.r
    (u.zip w).map (fun y => (y.1.zip y.2).map (fun e => subProduct e.1 damp e.2))

/-- A failing verdict applied: the history, the ring, X, the coefficients and SLVK. -/
def State.applyMix (s : State) (v : Solve) (q : Invocation) (d : Nat) (gammas : List Lane) : State :=
  let f := q.pairs.length
  let s1 := match q.newest with
    | some y =>
      if v.depth = 0 then s
      else
        let at_ := if v.fill < v.depth then (v.head + v.fill) % v.depth else v.head
        (s.writeArea (v.slots (2 + 2 * at_)) y.1).writeArea (v.slots (3 + 2 * at_)) y.2
    | none => s
  let head := if q.newest.isSome && v.fill ≥ v.depth && v.depth != 0 then (v.head + 1) % v.depth else v.head
  let s2 := (s1.writeArea (v.slots 0) q.g).writeArea (v.slots 1) q.r
  let s3 := s2.writeArea v.xs (q.update v.damp d gammas)
  s3.setSolve { v with
    prev := true, head := if v.depth = 0 then head else (head + d) % v.depth, fill := f - d, drops := d
    gammas := gammas ++ List.replicate (8 - gammas.length) 0, slvk := v.slvk + 1 }

/-- The end of `slv.end` once its verdict stands. -/
def applyVerdict (v : Solve) (q : Invocation) (verdict d : Nat) (gammas : List Lane) (s : State) : Res :=
  if verdict = 3 then .trap (s.setSolve v) Code.slvNan 0
  else if verdict = 1 then .done ((s.writeArea v.xs q.g).setSolve { v with active := false })
  else
    let s1 := s.applyMix v q d gammas
    .goto (s1.setReg (s1.reg.toOffset v.start))

/-- A tile's part joins its round in the cluster unit (R297). -/
def State.contribute (s : State) (v : Solve) (x : RoundPart) : State :=
  let n := s.cur.tile
  let k := s.cluster (clusterOf n)
  let mine (r : SolveRound) : Bool := r.ctx == s.ctxn && r.epoch == v.cepoch.toNat && r.seq == v.cseq
  let rounds := if k.rounds.any mine then
      k.rounds.map (fun r => if mine r then { r with parts := Map.set r.parts (clusterIdx n) x } else r)
    else k.rounds ++ [{ ctx := s.ctxn, epoch := v.cepoch.toNat, seq := v.cseq, parts := [(clusterIdx n, x)] }]
  (s.setCluster (clusterOf n) { k with rounds := rounds }).setSolve { v with contrib := true }

def execSlvEnd (p : Pfx) (s : State) : Host.Outcome State Fault Refusal :=
  run p true s (fun s =>
    let s := s.drain
    let v := s.tctx.solve
    if !v.active then .done s
    else if !v.tileCap.tag || !v.histCap.tag then .trap s Code.capTag 0
    else if v.itceil.toNat ≤ v.slvk.toNat then .trap s Code.slvCeil 0
    else if v.scope && v.contrib && v.result.isNone then .hold s
    else
      consume (s.solveSeen v) s (fun s =>
        let q := s.invocation v
        if !v.scope then
          let d := decideRound false (q.part v) [q.part v]
          applyVerdict (v.decided d) q d.verdict d.drops d.gammas s
        else match v.result with
          | some (verdict, d, gammas) =>
            applyVerdict { v with contrib := false, held := false, result := none, cseq := (v.cseq + 1) % 2 ^ 32 }
              q verdict d gammas s
          | none => .hold (s.contribute v (q.part v))))

/-- A tile still takes part in a round: in the epoch and at the round of the record (R293, R297). -/
def Solve.inRound (v : Solve) (r : SolveRound) : Bool :=
  v.active && v.contrib && v.cepoch.toNat == r.epoch && v.cseq == r.seq

/-- CLUSTER_ROUND: a round with all eight parts is decided, and each tile that is still in it holds the result (R297). -/
def execClusterRound (cluster ctx : Nat) (s : State) : Host.Outcome State Fault Refusal :=
  let k := s.cluster cluster
  match k.rounds.find? (fun r => r.ctx == ctx && decide (8 ≤ r.parts.length)) with
  | none => .next s
  | some r =>
    let ps := r.parts.map (fun q => q.2)
    match ps[s.fresh % ps.length]? with
    | none => .next s
    | some lead =>
      let s1 := s.setCluster cluster { k with rounds := k.rounds.filter (fun q => !(q == r)) }
      .next (r.parts.foldl (fun s q =>
        let n := clusterTile cluster q.1
        let d := decideRound true { q.2 with tol := lead.tol, lambda := lead.lambda } ps
        let x := s.tctxOf n ctx
        if x.solve.inRound r then
          s.setTctxOf n ctx { x with solve := { x.solve.decided d with
            held := true, result := some (d.verdict, d.drops, d.gammas) } }
        else s) s1)

/-! ## `slv.hclr` and `slv.q` (R298) -/

def execSlvHclr (p : Pfx) (s : State) : Host.Outcome State Fault Refusal :=
  run p true s (fun s => .done (s.setSolve { s.tctx.solve with fill := 0, head := 0, prev := false }))

def Solve.query (v : Solve) (sel : Nat) : Word :=
  match sel with
  | 0 => v.status
  | 1 => v.nrm.zeroExtend 64
  | 2 => v.ngm.zeroExtend 64
  | 3 => v.thr.zeroExtend 64
  | n => if n < 12 then (v.gammas.getD (n - 4) 0).zeroExtend 64 else 0

def execSlvQ (p : Pfx) (d a : BitVec 5) (s : State) : Host.Outcome State Fault Refusal :=
  run p true s (fun s => .done (s.setS d (s.tctx.solve.query ((s.s a).toNat % 16))))

end Sys2Proof.Machine
end

