-- ==== Sys2Proof/Machine/System.lean ====
section
/-! DEFINITION. Machine/System.lean: page 9 but for the capsule instructions (R266, R269 to R287), and the saving and
loading of a context (R260, R280 to R284). -/

namespace Sys2Proof.Machine

/-! ## Budgets (R273, R279) -/

/-- KBUDGET: it falls by one each clk while its context is loaded (R273). -/
def State.budgetLeft (s : State) (n c : Nat) : Nat :=
  let x := s.tctxOf n c
  if (s.tile n).loaded = some c then x.kbudget - (s.clk - x.kstamp) else x.kbudget

/-- A pre-emption request opens, and its grace begins (R279). -/
def State.openPrq (s : State) (n c : Nat) : State :=
  let x := s.tctxOf n c
  if x.prq then s else s.setTctxOf n c { x with prq := true, prqAt := s.clk }

/-! ## `rsr` and `wsr` (R270 to R273) -/

def privCode : Priv → Nat
  | .user => 0 | .supervisor => 1 | .keeper => 2

/-- CTX (R272). -/
def State.ctxWord (s : State) : Word :=
  BitVec.ofNat 64 (bit (s.cur.set == .urgent) * 2 ^ 15 + privCode s.priv * 2 ^ 13 + bit (s.info s.ctxn).secure * 2 ^ 12 +
    s.ctxn % 4096)

/-- TSTAT (R273). -/
def State.tstat (s : State) : Word :=
  BitVec.ofNat 64 (bit s.tctx.dbg * 4 + bit s.tctx.prq * 2 + bit s.reg.inTrap)

def RepCnt.word (r : RepCnt) : Word := BitVec.ofNat 64 (r.done.toNat * 2 ^ 16 + r.remain.toNat)

/-- The value of system register n, zero-extended. -/
def State.sysReg (s : State) (n : Nat) : Word :=
  let v := s.tctx.solve
  let t := s.tile s.cur.tile
  match n with
  | 0 => s.ctxWord
  | 1 => BitVec.ofNat 64 s.cur.tile
  | 2 => BitVec.ofNat 64 (match s.fir with | some f => f.ts | none => 0)
  | 3 => (match s.fir with | some f => f.wid | none => 0)
  | 4 => BitVec.ofNat 64 t.horizon
  | 5 => t.accown.zeroExtend 64
  | 6 => v.tol.zeroExtend 64
  | 7 => v.itceil.zeroExtend 64
  | 8 => v.slvk.zeroExtend 64
  | 9 => v.damp.zeroExtend 64
  | 10 => v.lambda.zeroExtend 64
  | 11 => s.reg.rcnt.word
  | 12 => s.reg.fcode.zeroExtend 64
  | 13 => s.reg.fmask
  | 14 => BitVec.ofNat 64 s.clk
  | 15 => t.torcfg
  | 24 => BitVec.ofNat 64 (portable s.reg.epcc.addr)
  | 25 => s.tstat
  | 26 => s.reg.taddr
  | 27 => BitVec.ofNat 64 (s.budgetLeft s.cur.tile s.ctxn)
  | 28 => BitVec.ofNat 64 s.tctx.kgrace
  | k => if 16 ≤ k ∧ k < 24 then ((s.tctx.bankfmt.toList).getD (k - 16) 0).zeroExtend 64 else 0

/-- The number of a system register or of a service. -/
def Pfx.number (p : Pfx) (i : BitVec 5) : Nat := (p.immI i).toNat

def execRsr (p : Pfx) (d i : BitVec 5) (s : State) : Host.Outcome State Fault Refusal :=
  run p true s (fun s => .done (s.setS d (s.sysReg (Pfx.number p i))))

/-- Registers that only the keeper writes (R270). -/
def keeperReg (n : Nat) : Bool := n == 5 || n == 11 || n == 12 || n == 15 || n == 27 || n == 28

/-- The writable fields of ACCOWN and TORCFG. -/
def accownMask : BitVec 16 := 0x8FFF
def torcfgMask : Word := 0x0000FFFFFF0C00FF

/-- System register n written from a word: each field by its access code, read-only ones unchanged (R8, R271). -/
def State.setSysReg (s : State) (n : Nat) (w : Word) : State :=
  let v := s.tctx.solve
  let t := s.tile s.cur.tile
  let lane : Lane := w.extractLsb' 0 32
  match n with
  | 5 => s.setTile s.cur.tile { t with accown := w.extractLsb' 0 16 &&& accownMask }
  | 6 => s.setSolve { v with tol := lane }
  | 7 => s.setSolve { v with itceil := lane }
  | 9 => s.setSolve { v with damp := lane }
  | 10 => s.setSolve { v with lambda := lane }
  | 11 => s.setReg { s.reg with rcnt := { done := w.extractLsb' 16 16, remain := w.extractLsb' 0 16 } }
  | 12 => s.setReg { s.reg with fcode := w.extractLsb' 0 16 }
  | 15 => s.setTile s.cur.tile { t with torcfg := w &&& torcfgMask }
  | 27 => s.setTctx { s.tctx with kbudget := w.toNat % 2 ^ 32, kstamp := s.clk }
  | 28 => s.setTctx { s.tctx with kgrace := w.toNat % 2 ^ 20 }
  | k =>
    if 16 ≤ k ∧ k < 24 then
      let fmts := tabulate 8 (fun j => if j = k - 16 then w.extractLsb' 0 8 &&& 7 else (s.tctx.bankfmt.toList).getD j 0)
      s.setTctx { s.tctx with bankfmt := fmts }
    else s

/-- A queued matrix command of the context reaches the bank whose format register n is: a write of it comes after that
access (R66, R242). -/
def State.fmtBusy (s : State) (n : Nat) : Bool :=
  decide (16 ≤ n) && decide (n < 24) && (s.mtxOf s.cur.tile s.ctxn).queue.any (fun c =>
    !c.ws && c.opc != opSwap && c.opc != opZero && c.addr / 32768 == n - 16)

def execWsr (p : Pfx) (d i : BitVec 5) (s : State) : Host.Outcome State Fault Refusal :=
  run p true s (fun s =>
    let n := Pfx.number p i
    if keeperReg n && decide (privLevel s.priv < 2) then .trap s Code.kprPriv 0
    else if s.fmtBusy n then .hold s
    else .done (s.setSysReg n (s.s d)))

/-! ## `kcall` (R277) -/

/-- A keeper call: the pending set empties, Halo wakes, a pair compares (R387), and the service is performed. -/
def service (p : Pfx) (s : State) (body : State → Res) : Host.Outcome State Fault Refusal :=
  run p true s (fun s => afterCompare true (s.drain.wake s.cur.tile) body)

def execKcallSliceEnd (p : Pfx) (_i : BitVec 5) (s : State) : Host.Outcome State Fault Refusal :=
  service p s (fun s => .done ((s.openPrq s.cur.tile s.ctxn).setS 8 0))

def execKcallBudget (p : Pfx) (_i : BitVec 5) (s : State) : Host.Outcome State Fault Refusal :=
  service p s (fun s => .done ((s.setS 8 (s.sysReg 27)).setS 9 (s.sysReg 28)))

/-- The word of a recorded stop. -/
def StopRec.word (r : StopRec) : Word := BitVec.ofNat 64 (r.tok % 8 * 2 ^ 16 + r.code.toNat)

def execKcallStops (p : Pfx) (_i : BitVec 5) (s : State) : Host.Outcome State Fault Refusal :=
  service p s (fun s =>
    let x := s.tctx
    let oldest := match x.stops with | r :: _ => r.word | [] => 0
    let s1 := s.setTctx { x with stops := x.stops.drop 1, stopsLost := false }
    .done ((s1.setS 8 (BitVec.ofNat 64 (bit x.stopsLost * 2 ^ 63 + x.stops.length))).setS 9 oldest))

def execKcallUnbound (p : Pfx) (_i : BitVec 5) (s : State) : Host.Outcome State Fault Refusal :=
  service p s (fun s => .done (s.setS 8 (BitVec.ofNat 64 s.tctx.unbound.length)))

/-- The checks of the revoke service on c8. -/
def State.revokeFault (s : State) (c : Cap) : Option (BitVec 16) :=
  let d := (s.info s.ctxn).data
  firstFault
    [ c.checkAccess c.base (c.top - c.base) (need [permST]),
      if c.base < d.base ∨ d.top < c.top then some Code.capBound else none ]

def execKcallRevoke (p : Pfx) (_i : BitVec 5) (s : State) : Host.Outcome State Fault Refusal :=
  service p s (fun s =>
    let c := s.c 8
    let ta := BitVec.ofNat 64 c.base
    match s.revokeFault c with
    | some e => .trap s e ta
    | none =>
      match s.paintLook (s.info s.ctxn) c with
      | .error (code, va) => .trap s code (BitVec.ofNat 64 va)
      | .ok gs =>
        let r := (s.paint gs true).openSweep s.ctxn
        .done (r.1.setS 8 (BitVec.ofNat 64 r.2)))

def execKcallSweepQuery (p : Pfx) (_i : BitVec 5) (s : State) : Host.Outcome State Fault Refusal :=
  service p s (fun s => .done (s.setS 8 (BitVec.ofNat 64 (s.sweepState ((s.s 9).toNat % 2 ^ 32)))))

/-- Services 6 to 255 are not offered. -/
def execKcallOther (p : Pfx) (_i : BitVec 5) (s : State) : Host.Outcome State Fault Refusal :=
  service p s (fun s => .trap s Code.kprCall 0)

/-! ## Returns from traps (R266) -/

def execTret (p : Pfx) (s : State) : Host.Outcome State Fault Refusal :=
  run p true s (fun s => if s.reg.inTrap then .goto s.trapReturn else .trap s Code.kprState 0)

/-- The length in bytes of the chain at an address. -/
def State.chainLen (s : State) (a : Nat) : Nat :=
  match s.sectionAt a with
  | none => 0
  | some (_, sec) =>
    match decode (sec.code.drop (portable a / 2)) with
    | .ok (_, rest) => 2 * (sec.code.length - portable a / 2 - rest.length)
    | .error _ => 0

def execTretSkip (p : Pfx) (s : State) : Host.Outcome State Fault Refusal :=
  run p true s (fun s =>
    if s.reg.inTrap then .goto (s.trapSkip (s.chainLen s.reg.epcc.addr)) else .trap s Code.kprState 0)

/-! ## `brk` (R278) -/

/-- While Contrail holds the context, the firing stops at this chain and goes on after it. DEDUCED, log 24. -/
def execBrk (p : Pfx) (i : BitVec 5) (s : State) : Host.Outcome State Fault Refusal :=
  run p true s (fun s =>
    let n := BitVec.ofNat 64 (Pfx.number p i)
    if s.tctx.dbg && s.cur.set != .keeper then
      .gone ((s.setReg { s.reg with taddr := n, debugStop := true, brkPassed := true, waiting := false }).wake s.cur.tile)
    else .trap s Code.kprBrk n)

/-! ## Saving a context (R260, R280 to R283) -/

/-- Every pending result of a set returns. -/
def TileCtx.drainSet (x : TileCtx) (k : SetId) : TileCtx :=
  let l := (x.regs k).pending
  let x1 := l.foldl (fun x q => match q.res with | .table t => x.install t q.stamp | _ => x) x
  x1.setRegs k { l.foldl (fun r q => r.apply q.res) (x1.regs k) with pending := [], parked := false, waiting := false }

def State.filterSolve (s : State) (c : Nat) (v : Solve) : Solve :=
  { v with tileCap := s.filterCap c v.tileCap, histCap := s.filterCap c v.histCap }

/-- A copy whose capability the filter has untagged stops when it resumes (R260). -/
def State.filterCopy (s : State) (c : Nat) (k : Copy) : Copy :=
  let k1 := { k with src := s.filterCap c k.src, dst := s.filterCap c k.dst }
  if k1.src.tag && k1.dst.tag then k1 else { k1 with started := true, stop := some (k.stop.getD Code.capTag) }

/-- The firings that have left the live sets, with their task lines: saved ones with their registers, ended ones. -/
def State.filterAway (s : State) (c : Nat) (x : TileCtx) : TileCtx :=
  { x with saved := x.saved.map (fun q => (q.1, s.filterSet c q.2)), ended := x.ended.map (s.filterFiring c) }

/-- Every capability of a context that its save area takes or gives (R112, R280, R283). -/
def State.filterTctx (s : State) (c : Nat) (x : TileCtx) : TileCtx :=
  s.filterAway c
    { x with normal := s.filterSet c x.normal, urgent := s.filterSet c x.urgent, solve := s.filterSolve c x.solve
             copies := x.copies.map (s.filterCopy c) }

/-- The tags of a range of keys through the filter. -/
def State.filterTags (s : State) (c lo n : Nat) : State :=
  if s.painted.isEmpty then s
  else { s with tags := s.tags.filter (fun g =>
    !(decide (lo ≤ g) && decide (g < lo + n)) ||
      (s.filterCap c (Cap.ofBytes true (ofBytes (s.readBytes (s.info c).keyId g 16)))).tag) }

/-- TVEC through the filter. -/
def State.filterTvec (s : State) (c : Nat) : State :=
  match Map.get? s.contexts c with
  | some x => { s with contexts := Map.set s.contexts c { x with tvec := s.filterCap c x.tvec } }
  | none => s

/-- Copies in push order. -/
def insertCopy (k : Copy) : List Copy → List Copy
  | [] => [k]
  | j :: l => if k.push ≤ j.push then k :: j :: l else j :: insertCopy k l

def byPush (l : List Copy) : List Copy := l.foldl (fun l k => insertCopy k l) []

/-- The queue of the unit stops at its step while it is a context's (R281). -/
def Tile.stopQueue (t : Tile) (c : Nat) (on : Bool) : Tile :=
  if ownedBy t.accown c then { t with matrix := { t.matrix with stopped := on } } else t

/-- A chunk of an edge engine is in flight for a context's copies on a tile: a unit asked of a peer, or a chunk from a
window that has begun and can go on (R258, R260). -/
def State.chunkOpen (s : State) (n c : Nat) : Bool :=
  (s.tile n).slots.any (fun o => match o with
    | some k => k.ctx == c && (s.asked n k ||
        (isWindow k.src && k.running && !k.moved && k.offset % 4096 != 0 && !(s.upPorts (s.window k.src)).isEmpty))
    | none => false)

/-- `ctx.sv`: the loaded context leaves; acc and ACCOWN stay (R281, R284). -/
def State.saveContext (s : State) (n c : Nat) : State :=
  let t := s.tile n
  let x := ((s.tctxOf n c).drainSet .normal).drainSet .urgent
  let mine (o : Option Copy) : Bool := match o with | some k => k.ctx == c | none => false
  let copies := byPush (t.slots.flatMap (fun o => match o with
    | some k => if k.ctx = c then [{ k with started := false }] else []
    | none => []))
  let x1 := s.filterTctx c { x with copies := x.copies ++ copies, kbudget := s.budgetLeft n c, prq := false }
  let t1 := ({ t with slots := t.slots.map (fun o => if mine o then none else o), loaded := none }.setTctx c x1).stopQueue c true
  let ids := (optFiring n c (.set .normal) x.normal.fir ++ optFiring n c (.set .urgent) x.urgent.fir).map LiveFiring.id
  ((((s.leaveSweeps ids).setTile n t1).filterTags c (keyScratch c n 0) (2 ^ 18)).filterTvec c).writeSaveArea n c

/-! ## Loading a context (R260, R281, R332) -/

/-- Saved copies re-enter the FIFO in their order, with the replies held for them. -/
def reenter : List Copy → List (Option Copy) → List (Option Copy) × List Copy
  | [], slots => (slots, [])
  | k :: ks, slots =>
    let k1 := match k.reply with
      | some v => { k.resume v with reply := none }
      | none => k
    match freeSlot slots with
    | some i => reenter ks (slots.set i (some k1))
    | none => let r := reenter ks slots; (r.1, k :: r.2)

/-- A reply held for a set applies. -/
def State.applyReply (s : State) (n : Nat) (k : SetId) : State :=
  match (s.regOf n k).pageWait with
  | some w => (match w.reply with
    | some v => s.onSet n k (fun s => s.answerPage v w.va)
    | none => s)
  | none => s

/-- `ctx.ld`: a context becomes the loaded one. -/
def State.loadContext (s : State) (n c : Nat) : State :=
  let x := s.filterTctx c (s.tctxOf n c)
  let t := s.tile n
  let q := reenter x.copies t.slots
  let t1 := ({ t with slots := q.1, loaded := some c, lastLoad := c }.setTctx c
    { x with copies := q.2, kstamp := s.clk }).stopQueue c false
  let s1 := ((s.setTile n t1).filterTags c (keyScratch c n 0) (2 ^ 18)).filterTvec c
  (s1.applyReply n .normal).applyReply n .urgent

/-! ## `ctx.sv`, `ctx.ld`, `acc.sv`, `acc.ld` (R281, R285) -/

/-- The context of a tile whose save area lies at an address. -/
def State.areaOwner (s : State) (n a : Nat) : Option Nat :=
  ((s.tile n).ctxs.find? (fun q => q.2.saveAddr == a)).map (fun q => q.1)

/-- A chain that changes which context is loaded: Halo's own state goes on, and a firing's set is left after the chain. -/
def State.leave (s : State) (p : Pfx) (f : State → State) : Res :=
  if s.cur.set = .keeper then .done (f s) else .gone (f (Res.finish p true (.done s)))

def execCtxSv (p : Pfx) (a : BitVec 4) (s : State) : Host.Outcome State Fault Refusal :=
  run p true s (fun s => atPriv .keeper s (fun s =>
    let c := s.c a
    let n := s.cur.tile
    match c.checkAccess c.addr saveAreaSize (need [permST]), (s.tile n).loaded with
    | some e, _ => .trap s e (BitVec.ofNat 64 c.addr)
    | none, none => .done s
    | none, some x =>
      if c.addr ≠ (s.tctxOf n x).saveAddr then .trap s Code.capBound (BitVec.ofNat 64 c.addr)
      else if s.chunkOpen n x then .hold s
      else s.leave p (fun s => s.saveContext n x)))

def execCtxLd (p : Pfx) (d : BitVec 4) (a : BitVec 5) (s : State) : Host.Outcome State Fault Refusal :=
  run p true s (fun s => atPriv .keeper s (fun s =>
    let c := s.c d
    let n := s.cur.tile
    let x := (s.s a).toNat % 4096
    match c.checkAccess c.addr saveAreaSize (need [permLD]) with
    | some e => .trap s e (BitVec.ofNat 64 c.addr)
    | none =>
      if !s.resident n x then .trap s Code.kprState 0
      else if c.addr ≠ (s.tctxOf n x).saveAddr then .trap s Code.capBound (BitVec.ofNat 64 c.addr)
      else s.leave p (fun s => s.loadContext n x)))

/-- The checks that `acc.sv` and `acc.ld` share, and their wait. -/
def accAccess (p : Pfx) (a : BitVec 4) (perm : Nat) (s : State) (body : Nat → Nat → State → State) :
    Host.Outcome State Fault Refusal :=
  run p true s (fun s => atPriv .keeper s (fun s =>
    let c := s.c a
    let n := s.cur.tile
    let m := (s.tile n).matrix
    match c.checkAccess c.addr saveAreaSize (need [perm]), s.areaOwner n c.addr with
    | some e, _ => .trap s e (BitVec.ofNat 64 c.addr)
    | none, none => .trap s Code.capBound (BitVec.ofNat 64 c.addr)
    | none, some x => if !m.queue.isEmpty && !m.stopped then .hold s else .done (body n x s)))

/-- acc with ACLS and EMPTY, from one matrix state to another. -/
def Matrix.copyAcc (dst src : Matrix) : Matrix := { dst with acc := src.acc, aclsInt := src.aclsInt, empty := src.empty }

def execAccSv (p : Pfx) (a : BitVec 4) (s : State) : Host.Outcome State Fault Refusal :=
  accAccess p a permST s (fun n x s =>
    let c := s.tctxOf n x
    let s := match s.poisonIn (mtxSeen n x 2 0 1024) with
      | some (_, key) => s.raiseCheck key
      | none => s
    (s.setTctxOf n x { c with matrix := c.matrix.copyAcc (s.tile n).matrix }).writeAccArea n x (s.tile n).matrix)

def execAccLd (p : Pfx) (a : BitVec 4) (s : State) : Host.Outcome State Fault Refusal :=
  accAccess p a permLD s (fun n x s =>
    let t := s.tile n
    (s.mtxFresh n x 2 0 1024).setTile n { t with matrix := t.matrix.copyAcc (s.tctxOf n x).matrix })

/-! ## `pair.on`, `pair.off`, `idle` (R286, R287) -/

/-- Adjacent in row or column on the same die (R286). -/
def adjacent (a b : Nat) : Bool :=
  dieOf a == dieOf b && b / 4096 == 0 &&
    ((rowOf a == rowOf b && (colOf a + 1 == colOf b || colOf b + 1 == colOf a)) ||
     (colOf a == colOf b && (rowOf a + 1 == rowOf b || rowOf b + 1 == rowOf a)))

def State.setPair (s : State) (n : Nat) (q : Option Nat) (w : Option (Nat × Nat)) : State :=
  s.setTile n { s.tile n with pair := q, pairWait := w }

/-- How long a `pair.on` waits for the other tile's. -/
def pairWindow : Nat := 400

/-- A pair forms: both name each other, and both fingerprints start (R386). The tile that asked first keeps its request, by
which its own `pair.on` knows that it is answered. -/
def State.formPair (s : State) (n q : Nat) : State :=
  ((s.setPair n (some q) none).setPair q (some n) (s.tile q).pairWait).restartPrints n q

/-- The pair of a tile has formed from its own request (R286). -/
def Tile.answered (t : Tile) (q : Nat) : Bool := t.pair == some q && (t.pairWait.map (fun w => w.1)) == some q

def execPairOn (p : Pfx) (d a : BitVec 5) (s : State) : Host.Outcome State Fault Refusal :=
  run p true s (fun s => atPriv .keeper s (fun s =>
    let n := s.cur.tile
    let q := (s.s a).toNat
    let t := s.tile n
    let fail (s : State) (w : Word) : Res := .done ((s.setPair n t.pair none).setS d w)
    if !adjacent n q then fail s 1
    else if t.answered q then .done ((s.setPair n (some q) none).setS d 0)
    else if !s.tileExists q || (s.tile q).pair.isSome || t.pair.isSome then fail s 2
    else
      let theirs := match (s.tile q).pairWait with
        | some (m, at_) => m == n && decide (s.clk ≤ at_ + pairWindow)
        | none => false
      if theirs then .done ((s.formPair n q).setS d 0)
      else match t.pairWait with
        | some (m, at_) =>
          if m = q then (if s.clk ≤ at_ + pairWindow then .hold s else fail s 2)
          else .hold (s.setPair n none (some (q, s.clk)))
        | none => .hold (s.setPair n none (some (q, s.clk)))))

def execPairOff (p : Pfx) (d : BitVec 5) (s : State) : Host.Outcome State Fault Refusal :=
  run p true s (fun s => atPriv .keeper s (fun s =>
    let n := s.cur.tile
    .done (if (s.tile n).pair.isSome then (s.dissolve n).setS d 0 else s.setS d 1)))

def execIdle (p : Pfx) (s : State) : Host.Outcome State Fault Refusal :=
  run p true s (fun s => atPriv .keeper s (fun s =>
    .done (s.setTile s.cur.tile { s.tile s.cur.tile with idle := true })))

end Sys2Proof.Machine
end

