-- ==== Sys2Proof/Machine/Uses.lean ====
section
/-! DEFINITION. Machine/Uses.lean: what each instruction reads, writes and makes pending (R50, R51), its memory operand,
and where control goes from it, as the installer's second pass takes them. -/

namespace Sys2Proof.Machine

/-! ## Register masks -/

/-- A set of registers: s in bits 31:0, c in 47:32, v in 79:48, k in 87:80, the decode table in bit 88. Bit 89 stands for a
field that steps past its file. -/
abbrev Mask := BitVec 90

inductive File where
  | s | c | v | k
  deriving DecidableEq, Repr

def File.base : File → Nat
  | .s => 0 | .c => 32 | .v => 48 | .k => 80

def File.size : File → Nat
  | .s => 32 | .c => 16 | .v => 32 | .k => 8

/-- One register; a number beyond its file names none. -/
def regMask (f : File) (n : Nat) : Mask := if n < f.size then BitVec.ofNat 90 (2 ^ (f.base + n)) else 0

def tableMask : Mask := BitVec.ofNat 90 (2 ^ 88)

def pastMask : Mask := BitVec.ofNat 90 (2 ^ 89)

/-- Registers from n on, k of them, below a size. -/
def regRunTo (f : File) (size n k : Nat) : Mask :=
  (List.range k).foldl (fun m i => if n + i < size then m ||| regMask f (n + i) else m) 0
def regRun (f : File) (n k : Nat) : Mask := regRunTo f f.size n k

/-- s0 and c0 are never pending (R50). -/
def neverPending : Mask := regMask .s 0 ||| regMask .c 0

/-- How many elements a field is taken for (R51): with a register count, every one up to the end of its file. -/
def Pfx.elements (p : Pfx) (steps : Bool) (size : Nat) : Nat :=
  match p.rep with
  | none => 1
  | some q => match q.count with
    | .imm n => if n = 0 then 0 else if steps then n.toNat else 1
    | .reg _ => if steps then size else 1

/-- A static count of 0: no element makes anything pending (R51). -/
def Pfx.noElements (p : Pfx) : Bool :=
  match p.rep with
  | some q => (match q.count with | .imm n => n == 0 | .reg _ => false)
  | none => false

def Pfx.step1 (p : Pfx) : Bool := match p.rep with | some q => q.step1 | none => false
def Pfx.step2 (p : Pfx) : Bool := match p.rep with | some q => q.step2 | none => false

/-- The registers of a field that steps in a file of a size: of one element, or of every one that a count could reach (R51). -/
def stepped (e : Option Nat) (f : File) (size : Nat) (p : Pfx) (steps : Bool) (n : Nat) : Mask :=
  match e with
  | none => regRunTo f size n (Pfx.elements p steps size)
  | some j => let m := n + if steps then j else 0; if m < size then regMask f m else pastMask

/-- The registers of the field at bits 9:5, and of the field at bits 4:0. -/
def f1 (e : Option Nat) (f : File) (p : Pfx) (n : Nat) : Mask := stepped e f f.size p (Pfx.step1 p) n
def f2 (e : Option Nat) (f : File) (p : Pfx) (n : Nat) : Mask := stepped e f f.size p (Pfx.step2 p) n
/-- The data registers of a gather or scatter, whose file ends at v30 (R123). -/
def dataReg (e : Option Nat) (p : Pfx) (d : BitVec 5) : Mask := stepped e .v 31 p (Pfx.step1 p) d.toNat
/-- The selector of a `t8.ld`, which steps through three values (R154). -/
def selPast (e : Option Nat) (p : Pfx) (sel : Nat) : Mask :=
  match e with
  | some j => if Pfx.step1 p ∧ 3 ≤ sel + j then pastMask else 0
  | none => 0

/-- The count register of a repeat. -/
def countReg (p : Pfx) : Mask :=
  match p.rep with
  | some q => (match q.count with | .reg r => regMask .s r.toNat | .imm _ => 0)
  | none => 0

/-- The mask register that an extra-register prefix names. -/
def maskReg (p : Pfx) : Mask := match p.xr with | some _ => regMask .k p.maskReg.toNat | none => 0

/-- The report register of lane-fault mode 01 (R108). -/
def reportReg (p : Pfx) : Mask := if p.laneZero && !(Pfx.noElements p) then regMask .k p.report.toNat else 0

/-- The decode table that a chain makes pending. -/
def tableLoad (p : Pfx) : Mask := if Pfx.noElements p then 0 else tableMask

/-- The address registers of a memory operand (R122). -/
def addrRegs (p : Pfx) (m : MemOp) : Mask :=
  regMask .c m.cap.toNat ||| (if m.regOff then regMask .s p.x.toNat else 0)

/-- What a chain reads, writes and makes pending. waits marks the chains that empty the pending set first, calls those
that R51 refuses with results pending. -/
structure Uses where
  rd    : Mask
  wr    : Mask
  pd    : Mask
  waits : Bool
  calls : Bool
  deriving DecidableEq, Repr

def Uses.none : Uses := { rd := 0, wr := 0, pd := 0, waits := false, calls := false }
def reads (r : Mask) : Uses := { Uses.none with rd := r }
def rw (r w : Mask) : Uses := { Uses.none with rd := r, wr := w }
/-- A result that returns later: what is written is pending. -/
def rwp (r w : Mask) : Uses := { Uses.none with rd := r, wr := w, pd := w &&& ~~~neverPending }

def ss (e : Option Nat) (p : Pfx) (d a : BitVec 5) : Mask := f1 e .s p d.toNat ||| f2 e .s p a.toNat
def vv (e : Option Nat) (p : Pfx) (d a : BitVec 5) : Mask := f1 e .v p d.toNat ||| f2 e .v p a.toNat
def sd (e : Option Nat) (p : Pfx) (d : BitVec 5) : Mask := f1 e .s p d.toNat
def sa (e : Option Nat) (p : Pfx) (a : BitVec 5) : Mask := f2 e .s p a.toNat
def vd (e : Option Nat) (p : Pfx) (d : BitVec 5) : Mask := f1 e .v p d.toNat
def va (e : Option Nat) (p : Pfx) (a : BitVec 5) : Mask := f2 e .v p a.toNat
def cr (d : BitVec 4) : Mask := regMask .c d.toNat

/-- Loads, stores and atomics. -/
def load (p : Pfx) (w : Mask) (m : MemOp) : Uses := rwp (addrRegs p m ||| maskReg p) w
def store (p : Pfx) (r : Mask) (m : MemOp) : Uses := reads (r ||| addrRegs p m ||| maskReg p)
def atomic (e : Option Nat) (p : Pfx) (d : BitVec 5) (m : MemOp) (more : Mask) : Uses :=
  rwp (sd e p d ||| addrRegs p m ||| more) (sd e p d)
/-- The second register of a stride (R128). -/
def strideReg (p : Pfx) : Mask := regMask .s (p.x.toNat + 1)
/-- The payload registers s1 to s6. -/
def payloadRegs : Mask := regRun .s 1 6
/-- A vector operation that reads its sources only, and one that reads its destination too. -/
def vecW (e : Option Nat) (p : Pfx) (d a : BitVec 5) : Uses := rw (va e p a ||| maskReg p) (vd e p d)
def vecRW (e : Option Nat) (p : Pfx) (d a : BitVec 5) : Uses := rw (vv e p d a ||| maskReg p) (vd e p d)
def vecCmpU (e : Option Nat) (p : Pfx) (d a : BitVec 5) : Uses := rw (vv e p d a ||| maskReg p) (regMask .k p.cmpDest.toNat)
def kPair (e : Option Nat) (p : Pfx) (d a : BitVec 3) : Mask := f1 e .k p d.toNat ||| f2 e .k p a.toNat
def reduceU (e : Option Nat) (p : Pfx) (d a : BitVec 5) : Uses := rw (va e p a ||| maskReg p) (sd e p d)

/-- The registers of a chain outside its repeat count, of one element or of all. With a static count of 0 the two base fields
count as none; the fields that never step, such as address and mask registers, count still. DEDUCED, log 93. -/
def baseUses (e : Option Nat) : Instr → Uses
  | .mv p d a => rw (sa e p a) (sd e p d)
  | .add p d a | .sub p d a | .and p d a | .or p d a | .xor p d a | .shl p d a | .shr p d a | .sra p d a =>
    rw (ss e p d a) (sd e p d)
  | .mul p d a | .mulh p d a | .div p d a | .rem p d a => rwp (ss e p d a) (sd e p d)
  | .cmp p d a => reads (ss e p d a)
  | .addi p d _ | .shli p d _ | .shri p d _ | .srai p d _ | .rori p d _ => rw (sd e p d) (sd e p d)
  | .li p d _ | .setc p d _ => rw 0 (sd e p d)
  | .cmpi p d _ | .loop p d _ => reads (sd e p d)
  | .clz p d | .ctz p d | .popc p d | .brev p d | .not p d | .neg p d | .abs p d | .sextB p d | .sextH p d | .sextW p d
  | .zextB p d | .zextH p d | .zextW p d => rw (sd e p d) (sd e p d)
  | .b _ _ | .beq _ _ | .bne _ _ | .blt _ _ | .bge _ _ => Uses.none
  | .call _ d a => { rw (cr a) (cr d) with calls := true }
  | .jmp _ a => { reads (cr a) with calls := true }
  | .cMv _ d a | .cClrtag _ d a => rw (cr a) (cr d)
  | .cAdd p d a | .cSetaddr p d a | .cSetb p d a | .cSetbx p d a | .cAndp p d a | .cSnap p d a =>
    rw (cr d ||| sa e p a) (cr d)
  | .cAddi _ d _ => rw (cr d) (cr d)
  | .cSeal _ d a | .cUnseal _ d a => rw (cr d ||| cr a) (cr d)
  | .cInv _ _ _ => { Uses.none with waits := true }
  | .cGaddr p d a | .cGbase p d a | .cGlen p d a | .cGperm p d a | .cGtype p d a | .cGtag p d a => rw (cr a) (sd e p d)
  | .cLd p d m => load p (cr d) m
  | .cSt p d m => store p (cr d) m
  | .cFit p d a | .cSweep p d a | .cSweepq p d a => rw (sa e p a) (sd e p d)
  | .cPaint p d a => reads (cr d ||| sa e p a)
  | .ldW p d m | .ldD p d m | .ldB p d m | .ldH p d m | .ldWz p d m | .ldBz p d m | .ldHz p d m | .wsQ p d m =>
    rwp (addrRegs p m) (sd e p d)
  | .stW p d m | .stD p d m | .stB p d m | .stH p d m => reads (sd e p d ||| addrRegs p m)
  | .vLd p d m | .vLdb p d m => load p (vd e p d) m
  | .vLds p d m => { load p (vd e p d) m with rd := (load p (vd e p d) m).rd ||| strideReg p }
  | .vGth p d m => { load p (dataReg e p d ||| reportReg p) m with
      rd := addrRegs p m ||| maskReg p ||| f1 e .v p (d.toNat + 1) ||| (dataReg e p d &&& pastMask) }
  | .vSt p d m => store p (vd e p d) m
  | .vSts p d m => store p (vd e p d ||| strideReg p) m
  | .vSct p d m => rwp (dataReg e p d ||| f1 e .v p (d.toNat + 1) ||| addrRegs p m ||| maskReg p) (reportReg p)
  | .pf p _ m => reads (addrRegs p m)
  | .kLd p d m => rwp (addrRegs p m) (f1 e .k p d.toNat)
  | .kSt p d m => reads (f1 e .k p d.toNat ||| addrRegs p m)
  | .amAdd p d m | .amAnd p d m | .amOr p d m | .amXor p d m | .amMin p d m | .amMax p d m | .amSwp p d m | .amFadd p d m =>
    atomic e p d m 0
  | .amCas p d m => atomic e p d m (regMask .s p.y.toNat)
  | .amUpdAdd p d m | .amUpdOr p d m | .amUpdAnd p d m | .amUpdXor p d m | .amUpdMin p d m | .amUpdMax p d m
  | .amUpdFadd p d m | .swInit p d m | .swWait p d m => reads (sd e p d ||| addrRegs p m)
  | .swGen p d m => rwp (addrRegs p m) (sd e p d)
  | .barArv p d _ | .fence p d _ | .mbTest p d => rw 0 (sd e p d)
  | .barWt p d _ | .barCfg p d _ => reads (sd e p d)
  | .mbPut p d a => reads (ss e p d a)
  | .mbGet p d _ => rwp 0 (sd e p d)
  | .vMv p d a | .vAbs p d a | .vNeg p d a | .vIabs p d a | .vCvtfi p d a | .vCvtif p d a | .vExp2 p d a | .vLog2 p d a
  | .vRcp p d a | .vRsq p d a | .vSqrt p d a | .vRnd p d a | .vCmpr p d a => vecW e p d a
  | .vAdd p d a | .vSub p d a | .vMul p d a | .vMin p d a | .vMax p d a | .vIadd p d a | .vIsub p d a | .vImul p d a
  | .vImin p d a | .vImax p d a | .vAnd p d a | .vOr p d a | .vXor p d a | .vShl p d a | .vShr p d a | .vSra p d a =>
    vecRW e p d a
  | .vFma p d a | .vFms p d a => { vecRW e p d a with rd := (vecRW e p d a).rd ||| regMask .v p.x.toNat }
  | .vPerm p d a => { vecW e p d a with rd := (vecW e p d a).rd ||| regMask .v p.x.toNat }
  | .vFeq p d a | .vFlt p d a | .vFle p d a | .vFun p d a | .vIeq p d a | .vIlt p d a | .vIle p d a | .vIlo p d a =>
    vecCmpU e p d a
  | .vBcs p d a => rw (sa e p a ||| maskReg p) (vd e p d)
  | .vLi p d _ => rw (maskReg p) (vd e p d)
  | .vBcl p d _ | .vRot p d _ => rw (vd e p d ||| maskReg p) (vd e p d)
  | .kAnd p d a | .kOr p d a | .kXor p d a | .kAndn p d a => rw (kPair e p d a) (f1 e .k p d.toNat)
  | .kNot p d a | .kMv p d a => rw (f2 e .k p a.toNat) (f1 e .k p d.toNat)
  | .vRsum p d a | .vRmax p d a | .vRmin p d a | .vIrsum p d a => reduceU e p d a
  | .vT8dec p d a | .vT8enc p d a => { vecW e p d a with rd := (vecW e p d a).rd ||| tableMask }
  | .t8Ld p m => { reads (addrRegs p m ||| selPast e p 0) with pd := tableLoad p }
  | .t8LdE4 p => { reads (selPast e p 1) with pd := tableLoad p }
  | .t8LdE5 p => { reads (selPast e p 2) with pd := tableLoad p }
  | .vExt p d a => rw (sd e p d ||| va e p a) (sd e p d)
  | .vIns p d a => rw (vd e p d ||| sa e p a) (vd e p d)
  | .kPop p d a | .kFirst p d a => rw (f2 e .k p a.toNat) (sd e p d)
  | .mLds p d m | .mStr p d m | .mMrot p d m | .mRd p d m | .mCmd p d m | .mRdz p d m =>
    reads (sd e p d ||| addrRegs p m ||| tableMask)
  | .mSwap _ | .mZero _ | .mDrain _ => Uses.none
  | .mQ p d => rw 0 (sd e p d)
  | .endF _ | .yield _ => Uses.none
  | .send p d a | .sendU p d a | .jcInit p d a => reads (ss e p d a ||| payloadRegs)
  | .fork p d a => rw (sa e p a ||| payloadRegs) (sd e p d)
  | .join p a | .hEn p a | .hDis p a | .hPend p a | .hClrp p a => reads (sa e p a)
  | .chunk p d a => rwp (sa e p a) (sd e p d)
  | .inPop p d a => rw (sa e p a) (sd e p d ||| payloadRegs)
  | .inCnt p d a | .hTag p d a => rw (sa e p a) (sd e p d)
  | .widFld p d _ | .tsAdd p d _ => rw 0 (sd e p d)
  | .cp p d a => reads (cr d ||| cr a ||| regRun .s p.x.toNat 4)
  | .cpTry p d a => rw (cr d ||| cr a ||| regRun .s p.x.toNat 4) (regMask .s p.y.toNat)
  | .tkQ p d a | .slvQ p d a => rw (sa e p a) (sd e p d)
  | .slvBegin p d a => reads (cr d ||| cr a ||| regRun .s p.x.toNat 2)
  | .slvEnd _ => { Uses.none with waits := true }
  | .slvHclr _ => Uses.none
  | .cpRsm p d a => reads (ss e p d a)
  | .rsr p d _ => rw 0 (sd e p d)
  | .wsr p d _ => reads (sd e p d)
  | .kcallSliceEnd _ _ | .kcallBudget _ _ | .kcallStops _ _ | .kcallUnbound _ _ | .kcallRevoke _ _ | .kcallSweepQuery _ _
  | .kcallOther _ _ => { Uses.none with waits := true }
  | .tret _ | .tretSkip _ => { Uses.none with waits := true }
  | .cslInst _ d a => rwp (cr a) (cr d)
  | .cslRbld p d a => rw (cr a) (sd e p d)
  | .cslBind _ d a => reads (cr d ||| cr a)
  | .cslQ p d a => rwp (sd e p d ||| cr a) (sd e p d)
  | .pairOn p d a => rw (sa e p a) (sd e p d)
  | .pairOff p d => rw 0 (sd e p d)
  | .brk _ _ | .idle _ => Uses.none
  | .ctxSv _ a | .accSv _ a | .accLd _ a => reads (cr a)
  | .ctxLd p d a => reads (cr d ||| sa e p a)
  | _ => Uses.none

/-! ## Prefixes, pages and memory operands -/

/-- The prefixes of an instruction and whether its page is another than 0. -/
def prefixesOf : Instr → Pfx × Bool
  | .mv p _ _ | .add p _ _ | .sub p _ _ | .mul p _ _ | .mulh p _ _ | .div p _ _ | .rem p _ _ | .and p _ _ | .or p _ _
  | .xor p _ _ | .shl p _ _ | .shr p _ _ | .sra p _ _ | .cmp p _ _ | .addi p _ _ | .li p _ _ | .cmpi p _ _ | .shli p _ _
  | .shri p _ _ | .srai p _ _ | .rori p _ _ | .clz p _ | .ctz p _ | .popc p _ | .brev p _ | .not p _ | .neg p _ | .abs p _
  | .sextB p _ | .sextH p _ | .sextW p _ | .zextB p _ | .zextH p _ | .zextW p _ | .setc p _ _ | .loop p _ _ | .b p _
  | .beq p _ | .bne p _ | .blt p _ | .bge p _ | .call p _ _ | .jmp p _ => (p, false)
  | .cMv p _ _ | .cAdd p _ _ | .cAddi p _ _ | .cSetaddr p _ _ | .cSetb p _ _ | .cSetbx p _ _ | .cAndp p _ _ | .cSeal p _ _
  | .cUnseal p _ _ | .cInv p _ _ | .cGaddr p _ _ | .cGbase p _ _ | .cGlen p _ _ | .cGperm p _ _ | .cGtype p _ _ | .cGtag p _ _
  | .cClrtag p _ _ | .cLd p _ _ | .cSt p _ _ | .cFit p _ _ | .cSnap p _ _ | .cPaint p _ _ | .cSweep p _ _ | .cSweepq p _ _
  | .ldW p _ _ | .stW p _ _ | .ldD p _ _ | .stD p _ _ | .ldB p _ _ | .stB p _ _ | .ldH p _ _ | .stH p _ _ | .vLd p _ _
  | .vSt p _ _ | .ldWz p _ _ | .ldBz p _ _ | .ldHz p _ _ | .vGth p _ _ | .vSct p _ _ | .vLdb p _ _ | .vLds p _ _ | .vSts p _ _
  | .wsQ p _ _ | .pf p _ _ | .kLd p _ _ | .kSt p _ _ | .amAdd p _ _ | .amAnd p _ _ | .amOr p _ _ | .amXor p _ _ | .amMin p _ _
  | .amMax p _ _ | .amSwp p _ _ | .amCas p _ _ | .amFadd p _ _ | .amUpdAdd p _ _ | .amUpdOr p _ _ | .amUpdAnd p _ _
  | .amUpdXor p _ _ | .amUpdMin p _ _ | .amUpdMax p _ _ | .amUpdFadd p _ _ | .swInit p _ _ | .swWait p _ _ | .swGen p _ _
  | .barArv p _ _ | .barWt p _ _ | .barCfg p _ _ | .mbPut p _ _ | .mbGet p _ _ | .mbTest p _ | .fence p _ _ | .vMv p _ _
  | .vAdd p _ _ | .vSub p _ _ | .vMul p _ _ | .vFma p _ _ | .vFms p _ _ | .vMin p _ _ | .vMax p _ _ | .vAbs p _ _ | .vNeg p _ _
  | .vIadd p _ _ | .vIsub p _ _ | .vImul p _ _ | .vImin p _ _ | .vImax p _ _ | .vAnd p _ _ | .vOr p _ _ | .vXor p _ _
  | .vShl p _ _ | .vShr p _ _ | .vSra p _ _ | .vFeq p _ _ | .vFlt p _ _ | .vFle p _ _ | .vFun p _ _ | .vIeq p _ _ | .vIlt p _ _
  | .vIle p _ _ | .vIlo p _ _ | .vIabs p _ _ | .vBcs p _ _ | .vLi p _ _ | .kAnd p _ _ | .kOr p _ _ | .kXor p _ _ | .kAndn p _ _
  | .kNot p _ _ | .kMv p _ _ | .vCvtfi p _ _ | .vCvtif p _ _ | .vExp2 p _ _ | .vLog2 p _ _ | .vRcp p _ _ | .vRsq p _ _
  | .vSqrt p _ _ | .vPerm p _ _ | .vBcl p _ _ | .vRot p _ _ | .vRsum p _ _ | .vRmax p _ _ | .vRmin p _ _ | .vIrsum p _ _
  | .vT8dec p _ _ | .vT8enc p _ _ | .t8Ld p _ | .t8LdE4 p | .t8LdE5 p | .vExt p _ _ | .vIns p _ _ | .kPop p _ _
  | .kFirst p _ _ | .vRnd p _ _ | .vCmpr p _ _ | .mLds p _ _ | .mStr p _ _ | .mMrot p _ _ | .mRd p _ _ | .mCmd p _ _
  | .mRdz p _ _ | .mSwap p | .mZero p | .mDrain p | .mQ p _ | .endF p | .send p _ _ | .sendU p _ _ | .fork p _ _ | .join p _
  | .jcInit p _ _ | .chunk p _ _ | .yield p | .hEn p _ | .hDis p _ | .hPend p _ | .hClrp p _ | .inPop p _ _ | .inCnt p _ _
  | .widFld p _ _ | .tsAdd p _ _ | .hTag p _ _ | .cp p _ _ | .cpTry p _ _ | .tkQ p _ _ | .slvBegin p _ _ | .slvEnd p
  | .slvHclr p | .slvQ p _ _ | .cpRsm p _ _ | .rsr p _ _ | .wsr p _ _ | .kcallSliceEnd p _ | .kcallBudget p _
  | .kcallStops p _ | .kcallUnbound p _ | .kcallRevoke p _ | .kcallSweepQuery p _ | .kcallOther p _ | .tret p | .tretSkip p
  | .cslInst p _ _ | .cslRbld p _ _ | .cslBind p _ _ | .cslQ p _ _ | .pairOn p _ _ | .pairOff p _ | .brk p _ | .ctxSv p _
  | .ctxLd p _ _ | .accSv p _ | .accLd p _ | .idle p => (p, true)
  | _ => (Pfx.plain, false)

/-- The length of a chain in bytes. -/
def chainBytesOf (i : Instr) : Nat := let q := prefixesOf i; q.1.chainBytes q.2

/-- The memory operand of an instruction of the memory layout. -/
def memOf : Instr → Option MemOp
  | .cLd _ _ m | .cSt _ _ m | .ldW _ _ m | .stW _ _ m | .ldD _ _ m | .stD _ _ m | .ldB _ _ m | .stB _ _ m | .ldH _ _ m
  | .stH _ _ m | .vLd _ _ m | .vSt _ _ m | .ldWz _ _ m | .ldBz _ _ m | .ldHz _ _ m | .vGth _ _ m | .vSct _ _ m | .vLdb _ _ m
  | .vLds _ _ m | .vSts _ _ m | .wsQ _ _ m | .pf _ _ m | .kLd _ _ m | .kSt _ _ m | .amAdd _ _ m | .amAnd _ _ m | .amOr _ _ m
  | .amXor _ _ m | .amMin _ _ m | .amMax _ _ m | .amSwp _ _ m | .amCas _ _ m | .amFadd _ _ m | .amUpdAdd _ _ m
  | .amUpdOr _ _ m | .amUpdAnd _ _ m | .amUpdXor _ _ m | .amUpdMin _ _ m | .amUpdMax _ _ m | .amUpdFadd _ _ m | .swInit _ _ m
  | .swWait _ _ m | .swGen _ _ m | .t8Ld _ m | .mLds _ _ m | .mStr _ _ m | .mMrot _ _ m | .mRd _ _ m | .mCmd _ _ m
  | .mRdz _ _ m => some m
  | _ => none

/-- The registers of a chain, its repeat count among the reads (R51). -/
def usesOf (i : Instr) : Uses :=
  let u := baseUses none i
  { u with rd := u.rd ||| countReg (prefixesOf i).1 }

/-! ## Control (R51, R86 to R89, R299) -/

/-- Where control goes: on, or not; and the target of a branch or the END of a loop, in bytes from the next chain. -/
inductive Ctl where
  | next
  | branch (always : Bool) (delta : Int)
  | loop (len : Nat)
  | call | invoke | leave
  | regionBegin | regionEnd
  deriving DecidableEq, Repr

def controlOf : Instr → Ctl
  | .b p off => .branch true (2 * p.immJ off)
  | .beq p off | .bne p off | .blt p off | .bge p off => .branch false (2 * p.immJ off)
  | .loop p _ i => .loop (2 * p.immZ i)
  | .call _ _ _ => .call
  | .cInv _ _ _ => .invoke
  | .jmp _ _ | .endF _ | .tret _ | .tretSkip _ => .leave
  | .slvBegin _ _ _ => .regionBegin
  | .slvEnd _ => .regionEnd
  | _ => .next

/-- What a chain does to the c registers known to hold scratchpad (R52). -/
def carryScratch (i : Instr) (m : BitVec 16) : BitVec 16 :=
  let clear (d : BitVec 4) : BitVec 16 := m &&& ~~~(BitVec.ofNat 16 (2 ^ d.toNat))
  match i with
  | .cMv _ d a => if m.getLsbD a.toNat && d != 0 then m ||| BitVec.ofNat 16 (2 ^ d.toNat) else clear d
  | .cClrtag _ d _ | .cSeal _ d _ | .cUnseal _ d _ | .cLd _ d _ | .cslInst _ d _ => clear d
  | .call _ _ _ | .jmp _ _ | .cInv _ _ _ => 0
  | _ => m

end Sys2Proof.Machine
end

