-- ==== Sys2Proof/Machine/Verify.lean ====
section
/-! DEFINITION. Machine/Verify.lean: the installer's second pass over a code section (R51, R52, R55) and the region rules
of R299. -/

namespace Sys2Proof.Machine

/-! ## A chain of a section -/

/-- A chain: its offset, its length in bytes and its instruction. -/
structure Chain where
  off   : Nat
  bytes : Nat
  instr : Instr
  deriving DecidableEq, Repr

/-- The offset after a chain. -/
def Chain.next (c : Chain) : Nat := c.off + c.bytes

def chainsOf (l : List (Nat × Instr)) : List Chain := l.map (fun q => { off := q.1, bytes := chainBytesOf q.2, instr := q.2 })

/-- An offset that is the start of a chain. -/
def isStart (cs : List Chain) (off : Nat) : Bool := cs.any (fun c => c.off == off)

/-- An offset at which a loop may end: the start of a chain or the end of the section (R88). -/
def isStop (cs : List Chain) (off : Nat) : Bool := isStart cs off || cs.any (fun c => c.next == off)

/-- An offset relative to the one after a chain, if it does not lie before the section. -/
def Chain.target (c : Chain) (delta : Int) : Option Nat :=
  let t := (c.next : Int) + delta
  if t < 0 then none else some t.toNat

/-- Where a taken branch goes, unless it falls through (R86). -/
def Chain.branchTo (c : Chain) : Option (Option Nat) :=
  match controlOf c.instr with
  | .branch _ delta => if delta = 0 then none else some (c.target delta)
  | _ => none

/-- The END of a loop chain (R88). -/
def Chain.loopEnd (c : Chain) : Option Nat :=
  match controlOf c.instr with
  | .loop len => some (c.next + len)
  | _ => none

/-- Control does not go on to the next chain. -/
def Chain.leaves (c : Chain) : Bool :=
  match controlOf c.instr with
  | .branch always delta => always && delta != 0
  | .leave => true
  | _ => false

def Chain.begins (c : Chain) : Bool := match controlOf c.instr with | .regionBegin => true | _ => false
def Chain.ends (c : Chain) : Bool := match controlOf c.instr with | .regionEnd => true | _ => false

/-! ## The flow of control (R51) -/

/-- The region start of the `slv.end` at an offset: the chain after the last `slv.begin` before it. -/
def regionStart (cs : List Chain) (off : Nat) : Option Nat :=
  match (cs.filter (fun c => c.begins && decide (c.off < off))).getLast? with
  | some c => some c.next
  | none => none

/-- Loops whose END a chain falls through to from within their bodies go back to their STARTs (R89). -/
def loopBacks (cs : List Chain) (c : Chain) (a : Nat) : List Nat :=
  cs.flatMap (fun l => if l.loopEnd = some a ∧ l.next ≤ c.off then [l.next] else [])

/-- The offsets to which control may go from a chain. A loop that runs no pass falls to its own END, and from there as
any chain does (R88, R89). `jmp` and `ret` have no way on to the chain that stands after them, so that what another path knows
there stands: R52 does not say whether they count among the calls whose following chain knows nothing. DESIGN CHOICE, log 94. -/
def successors (cs : List Chain) (c : Chain) : List Nat :=
  (if c.leaves then [] else c.next :: loopBacks cs c c.next) ++
  (match c.branchTo with
    | some (some t) => [t]
    | _ => []) ++
  (match c.loopEnd with
    | some e => e :: loopBacks cs c e
    | none => []) ++
  (if c.ends then (match regionStart cs c.off with
    | some a => [a]
    | none => []) else [])

/-- What is known before a chain: the pending registers, and the c registers known to hold scratchpad. -/
structure Known where
  pend : Mask
  scr  : BitVec 16
  deriving DecidableEq, Repr

/-- Paths that meet: pending on either, scratchpad on both. -/
def Known.join (a b : Known) : Known := { pend := a.pend ||| b.pend, scr := a.scr &&& b.scr }

/-- What is known after a chain (R50 to R52). -/
def Chain.after (c : Chain) (k : Known) : Known :=
  let u := usesOf c.instr
  let settles := (prefixesOf c.instr).1.settle || u.waits
  { pend := if settles then 0 else k.pend ||| u.pd, scr := carryScratch c.instr k.scr }

/-- What is known before each chain that a path has reached, by offset. -/
abbrev Facts := Map Known

/-- A path comes to an offset. -/
def Facts.arrive (f : Facts) (off : Nat) (k : Known) : Facts :=
  match Map.get? f off with
  | some old => Map.set f off (old.join k)
  | none => Map.set f off k

/-- Every path goes one chain further. -/
def Facts.advance (cs : List Chain) (f : Facts) : Facts :=
  cs.foldl (fun f c =>
    match Map.get? f c.off with
    | some k => (successors cs c).foldl (fun f t => if isStart cs t then f.arrive t (c.after k) else f) f
    | none => f) f

/-- The paths followed to a fixed point. The fuel counts the ways in which what is known can still change. -/
def Facts.settle (cs : List Chain) : Nat → Facts → Facts
  | 0, f => f
  | n + 1, f =>
    let g := f.advance cs
    if g = f then f else Facts.settle cs n g

/-- Each pass over a section that changes what is known adds a chain, a pending register or an unknown space. -/
def settleFuel (cs : List Chain) : Nat := 106 * cs.length + 1

def Known.start : Known := { pend := 0, scr := 0 }
/-- A handler's entry chain: c2 holds scratchpad (R52). -/
def Known.entry : Known := { pend := 0, scr := 4 }

/-- What is known before every chain, from handler entries and the other starts (R51). A chain that no path reaches is a
start. R52 gives a handler's entry chain c2 in scratchpad and every other start nothing; for a chain that is both, it does
not say which holds, and here the two join, so that c2 is unknown. DESIGN CHOICE, log 80. -/
def factsOf (cs : List Chain) (entries starts : List Nat) : Facts :=
  let f0 := entries.foldl (fun f a => if isStart cs a then Facts.arrive f a .entry else f) []
  let f1 := starts.foldl (fun f a => if isStart cs a then Facts.arrive f a .start else f) f0
  let f2 := Facts.settle cs (settleFuel cs) f1
  let f3 := cs.foldl (fun f c => if (Map.get? f2 c.off).isNone then Facts.arrive f c.off .start else f) f2
  Facts.settle cs (settleFuel cs) f3

/-! ## The checks (R51, R52, R54) -/

/-- BR.TARGET (R54). -/
def badTarget (cs : List Chain) (size : Nat) (c : Chain) : Bool :=
  (match c.branchTo with
    | some (some t) => !isStart cs t
    | some none => true
    | none => false) ||
  (match c.loopEnd with
    | some e => !isStart cs e && e != size
    | none => false)

/-- MOD.SCOPE (R52). -/
def badScope (c : Chain) (k : Known) : Bool :=
  scopeWide (Pfx.scope (prefixesOf c.instr).1) &&
  (match memOf c.instr with
    | some m => k.scr.getLsbD m.cap.toNat
    | none => false)

/-- The codes of R54 that a chain earns. What was pending before the chain is tested, as R51 says of each chain; whether an
element of a repeated chain may use a register that an earlier element of the same chain made pending, R51 and R90 do not
say. Here the installer lets it, and such an element reads the register as it then stands, the old value or the returned
one. DESIGN CHOICE, log 81. -/
def chainCodes (cs : List Chain) (size : Nat) (c : Chain) (k : Known) : List Nat :=
  let u := usesOf c.instr
  let hazards := k.pend != 0 && !u.waits
  (if badTarget cs size c then [Reject.code .brTarget] else []) ++
  (if badScope c k then [Reject.code .modScope] else []) ++
  (if hazards && u.rd &&& k.pend != 0 then [Reject.code .hazRead] else []) ++
  (if hazards && (u.wr ||| u.pd) &&& k.pend &&& ~~~tableMask != 0 then [Reject.code .hazWrite] else []) ++
  (if hazards && u.calls then [Reject.code .hazCall] else [])

/-! ## Regions (R299) -/

def rgnOpen : Nat := 0x0501
def rgnNest : Nat := 0x0502
def rgnXfer : Nat := 0x0503
def rgnLoop : Nat := 0x0504

/-- A region: the offset of its `slv.begin`, its start, and the offset of its `slv.end`. -/
structure Region where
  b     : Nat
  start : Nat
  stop  : Nat
  deriving DecidableEq, Repr

/-- The regions of the chains in order, one for each `slv.begin` up to the first `slv.end` after it, and the RGN.OPEN and RGN.NEST
that they earn; open_ holds the `slv.begin`s that no `slv.end` has come after. -/
def regionsOf : List Chain → List Chain → List Region × List (Nat × Nat)
  | open_, [] => ([], open_.map (fun b => (b.off, rgnOpen)))
  | open_, c :: cs =>
    if c.begins then
      let r := regionsOf (open_ ++ [c]) cs
      (r.1, if open_.isEmpty then r.2 else (c.off, rgnNest) :: r.2)
    else if c.ends then
      let r := regionsOf [] cs
      (open_.map (fun b => { b := b.off, start := b.next, stop := c.off : Region }) ++ r.1,
        if open_.isEmpty then (c.off, rgnOpen) :: r.2 else r.2)
    else regionsOf open_ cs

/-- A chain that transfers control in a way no region holds. -/
def Chain.transfers (c : Chain) : Bool :=
  match controlOf c.instr with
  | .call => true | .invoke => true | .leave => true | _ => false

/-- What a chain earns by one region: RGN.XFER and RGN.LOOP. -/
def regionCodes (r : Region) (c : Chain) : List (Nat × Nat) :=
  let inside := decide (r.b < c.off) && decide (c.off < r.stop)
  let cross := match c.branchTo with
    | some (some t) => inside != (decide (r.start ≤ t) && decide (t ≤ r.stop))
    | some none => inside
    | none => false
  let loop := match c.loopEnd with
    | some e => (inside && decide (r.stop < e)) || (decide (c.off < r.b) && decide (r.b < e) && decide (e ≤ r.stop))
    | none => false
  (if (inside && c.transfers) || cross then [(c.off, rgnXfer)] else []) ++ (if loop then [(c.off, rgnLoop)] else [])

/-- Everything that the region rules reject. -/
def regionRejects (cs : List Chain) : List (Nat × Nat) :=
  let r := regionsOf [] cs
  r.2 ++ r.1.flatMap (fun g => cs.flatMap (regionCodes g))

/-! ## The report (R55) -/

/-- The lower offset, and at one offset the lower code. -/
def firstReject : Option (Nat × Nat) → Nat × Nat → Option (Nat × Nat)
  | none, b => some b
  | some a, b => if b.1 < a.1 ∨ (b.1 = a.1 ∧ b.2 < a.2) then some b else some a

/-- The second pass: the first rejection, as offset and code. -/
def secondPass (cs : List Chain) (size : Nat) (entries starts : List Nat) : Option (Nat × Nat) :=
  let f := factsOf cs entries starts
  let rs := cs.flatMap (fun c => (chainCodes cs size c (Map.get f c.off .start)).map (fun n => (c.off, n)))
  (rs ++ regionRejects cs).foldl firstReject none

/-- Both passes over a section of halfwords: its chains, or the first rejection as offset and code (R55). -/
def verifySection (hs : List Half) (entries starts : List Nat) : Except (Nat × Nat) (List Chain) :=
  match decodeSection hs.length 0 hs with
  | .error (e, off) => .error (off, e.code)
  | .ok l =>
    let cs := chainsOf l
    match secondPass cs (2 * hs.length) entries starts with
    | some r => .error r
    | none => .ok cs

end Sys2Proof.Machine
end

