-- ==== Sys2Proof/Machine/Installer.lean ====
section
/-! DEFINITION. Machine/Installer.lean: code objects (R304 to R307), the installer's checks in the order of R313, relocation,
and the capsule that an accepted object becomes (R308, R309, R314). -/

namespace Sys2Proof.Machine

/-! ## Reports (R313) -/

/-- What the installer rejects: the table entry, the offset, the section or 0xFF, and the code. -/
structure Report where
  index : Nat
  off   : Nat
  sect  : Nat
  code  : Nat
  deriving DecidableEq, Repr

/-- The untagged value that cd receives. -/
def Report.cap (r : Report) : Cap :=
  Cap.ofBytes false (r.index % 4096 * 2 ^ 64 + r.off % 2 ^ 32 * 2 ^ 32 + r.sect % 256 * 2 ^ 16 + r.code % 2 ^ 16)

def objMagic : Nat := 0x0201
def objVer : Nat := 0x0202
def objCount : Nat := 0x0203
def objSize : Nat := 0x0204
def objRsv : Nat := 0x0205
def secShape : Nat := 0x0206
def plcRange : Nat := 0x0207
def parType : Nat := 0x0301
def gotKind : Nat := 0x0302
def gotTarget : Nat := 0x0303
def rlcKind : Nat := 0x0304
def rlcIndex : Nat := 0x0305
def rlcSite : Nat := 0x0306
def hndField : Nat := 0x0401
def hndEntry : Nat := 0x0402
def hndDup : Nat := 0x0403
def hndPort : Nat := 0x0404
def trpEntry : Nat := 0x0405
def insSpace : Nat := 0x0601

/-- The first report of a list of checks, each a code, a place in the object, an index, and whether it rejects. -/
def firstBad : List (Bool × Nat × Nat × Nat) → Except Report Unit
  | [] => .ok ()
  | (bad, code, off, index) :: l =>
    if bad then .error { index := index, off := off, sect := 0xFF, code := code } else firstBad l

/-! ## The parts of an object (R304 to R306) -/

/-- The header. -/
structure Header where
  magic    : Nat
  ver      : Nat
  nsect    : Nat
  nhnd     : Nat
  ngot     : Nat
  npar     : Nat
  nrel     : Nat
  total    : Nat
  placeoff : Nat
  trapsec  : Nat
  trapf    : Nat
  zero16   : Nat
  trapoff  : Nat
  zero1c   : Nat
  deriving DecidableEq, Repr

def headerOf (d : List Byte) : Header :=
  { magic := fieldAt d 0 4, ver := fieldAt d 4 2, nsect := fieldAt d 6 1, nhnd := fieldAt d 7 1, ngot := fieldAt d 8 1
    npar := fieldAt d 9 1, nrel := fieldAt d 0xA 2, total := fieldAt d 0xC 4, placeoff := fieldAt d 0x10 4
    trapsec := fieldAt d 0x14 1, trapf := fieldAt d 0x15 1, zero16 := fieldAt d 0x16 2, trapoff := fieldAt d 0x18 4
    zero1c := fieldAt d 0x1C 36 }

/-- Where the tables start (R304). -/
def Header.hndAt (h : Header) : Nat := 64 + 16 * h.nsect
def Header.gotAt (h : Header) : Nat := h.hndAt + 32 * h.nhnd
def Header.parAt (h : Header) : Nat := h.gotAt + 16 * h.ngot
def Header.relAt (h : Header) : Nat := h.parAt + 8 * h.npar
/-- The end of the tables, and TABEND. -/
def Header.tables (h : Header) : Nat := h.relAt + 8 * h.nrel
def Header.tabend (h : Header) : Nat := (h.tables + 15) / 16 * 16

/-- A section entry, a handler declaration, a parameter and a relocation as they stand in the object; a GOT entry is
kept as it is read. zero holds the fields that must be zero. -/
structure SectEntry where
  off  : Nat
  len  : Nat
  zero : Nat
  deriving DecidableEq, Repr

structure HandEntry where
  trel  : Nat
  sect  : Nat
  entry : Nat
  ports : Word
  ctrl  : Word
  zero  : Nat
  deriving DecidableEq, Repr

structure RelocEntry where
  off   : Nat
  sect  : Nat
  kind  : Nat
  index : Nat
  deriving DecidableEq, Repr

/-- A whole object. got pairs each entry with its zero fields, par gives TYPE, NEED and the zero field. -/
structure Object where
  data  : List Byte
  head  : Header
  sects : List SectEntry
  hands : List HandEntry
  gots  : List (GotDecl × Nat)
  pars  : List (Nat × Nat × Nat)
  rels  : List RelocEntry
  deriving DecidableEq, Repr

/-- The reserved bits of the control word (R157). DEDUCED, log 27. -/
def ctrlReserved (w : Word) : Nat := bitsOf w.toNat 40 24 + bitsOf w.toNat 2 10

def objectOf (d : List Byte) : Object :=
  let h := headerOf d
  { data := d, head := h
    sects := (List.range h.nsect).map (fun i =>
      let a := 64 + 16 * i
      { off := fieldAt d a 4, len := fieldAt d (a + 4) 4, zero := fieldAt d (a + 8) 8 })
    hands := (List.range h.nhnd).map (fun i =>
      let a := h.hndAt + 32 * i
      let w := BitVec.ofNat 64 (fieldAt d (a + 16) 8)
      { trel := fieldAt d a 2 % 4096, sect := fieldAt d (a + 2) 1, entry := fieldAt d (a + 4) 4
        ports := BitVec.ofNat 64 (fieldAt d (a + 8) 8), ctrl := w
        zero := fieldAt d a 2 / 4096 + fieldAt d (a + 3) 1 + fieldAt d (a + 24) 8 + ctrlReserved w })
    gots := (List.range h.ngot).map (fun i =>
      let a := h.gotAt + 16 * i
      ({ kind := fieldAt d a 1, sect := fieldAt d (a + 1) 1, off := fieldAt d (a + 4) 4 },
        fieldAt d (a + 2) 2 + fieldAt d (a + 8) 8))
    pars := (List.range h.npar).map (fun i =>
      let a := h.parAt + 8 * i
      (fieldAt d a 2, fieldAt d (a + 2) 2, fieldAt d (a + 4) 4))
    rels := (List.range h.nrel).map (fun i =>
      let a := h.relAt + 8 * i
      { off := fieldAt d a 4, sect := fieldAt d (a + 4) 1, kind := fieldAt d (a + 5) 1, index := fieldAt d (a + 6) 2 }) }

/-! ## Step 1 -/

/-- OBJ.MAGIC through OBJ.SIZE, from the header alone; limit is how many bytes the capability gives (R312).
DEDUCED, log 26. -/
def checkHeader (h : Header) (limit : Nat) : Except Report Unit :=
  firstBad
    [ (h.magic != 0x4F484245, objMagic, 0, 0), (h.ver != 1, objVer, 4, 0)
    , (h.nsect == 0 || decide (16 < h.nsect), objCount, 6, 0), (decide (64 < h.nhnd), objCount, 7, 0)
    , (decide (64 < h.ngot), objCount, 8, 0), (decide (15 < h.npar), objCount, 9, 0)
    , (decide (4096 < h.nrel), objCount, 0xA, 0)
    , (h.total % 16 != 0 || decide (h.total < h.tabend) || decide (limit < h.total), objSize, 0xC, 0) ]

/-- OBJ.RSV of the header and PLC.RANGE. -/
def checkHeaderRest (h : Header) : Except Report Unit :=
  let noTrap := h.trapf % 2 == 0
  firstBad
    [ (noTrap && h.trapsec != 0, objRsv, 0x14, 0), (h.trapf / 2 != 0, objRsv, 0x15, 0), (h.zero16 != 0, objRsv, 0x16, 0)
    , (noTrap && h.trapoff != 0, objRsv, 0x18, 0), (h.zero1c != 0, objRsv, 0x1C, 0)
    , (h.placeoff % 16 != 0 || decide (0x40000 < h.placeoff + 16 * (h.ngot + h.npar)), plcRange, 0x10, 0) ]

/-- A section entry breaks R306; entries are taken one at a time, so an overlap is found at the later one.
DEDUCED, log 11. -/
def badSection (o : Object) (i : Nat) (e : SectEntry) : Bool :=
  e.off % 16 != 0 || decide (e.off < o.head.tabend) || decide (o.head.total < e.off + e.len) || e.len % 2 != 0 ||
    decide (e.len < 2) || decide (0x1000000 < e.len) ||
    (indexed o.sects).any (fun q => decide (q.1 < i) && decide (e.off < q.2.off + q.2.len) && decide (q.2.off < e.off + e.len))

/-- The tables' entries one at a time, in the order of R304. -/
def checkTables (o : Object) : Except Report Unit :=
  let h := o.head
  firstBad
    ((indexed o.sects).flatMap (fun q =>
        [(q.2.zero != 0, objRsv, 64 + 16 * q.1, q.1), (badSection o q.1 q.2, secShape, 64 + 16 * q.1, q.1)]) ++
     (indexed o.hands).map (fun q => (q.2.zero != 0, objRsv, h.hndAt + 32 * q.1, q.1)) ++
     (indexed o.gots).map (fun q => (q.2.2 != 0, objRsv, h.gotAt + 16 * q.1, q.1)) ++
     (indexed o.pars).map (fun q => (q.2.2.2 != 0, objRsv, h.parAt + 8 * q.1, q.1)))

/-! ## Steps 2 to 6 -/

/-- PAR.TYPE. -/
def checkParams (o : Object) : Except Report Unit :=
  firstBad ((indexed o.pars).map (fun q =>
    (decide (q.2.1 < 0x100) || decide (2048 ≤ q.2.2.1), parType, o.head.parAt + 8 * q.1, q.1)))

/-- The halfwords of a run of bytes. -/
def halvesAt : List Byte → List Half
  | a :: b :: l => (b ++ a) :: halvesAt l
  | _ => []

def sectionHalves (d : List Byte) (e : SectEntry) : List Half := halvesAt ((d.drop e.off).take e.len)

/-- The handler entries and the other starts that lie in a section (R51). -/
def entriesIn (o : Object) (i : Nat) : List Nat :=
  (o.hands.filter (fun e => ctrlKind e.ctrl == 1 && e.sect == i)).map (fun e => e.entry)

def startsIn (o : Object) (i : Nat) : List Nat :=
  (o.gots.filter (fun g => g.1.kind == 1 && g.1.sect == i)).map (fun g => g.1.off) ++
  (if o.head.trapf % 2 = 1 ∧ o.head.trapsec = i then [o.head.trapoff] else [])

/-- Both passes over every section, in order (step 3): the chains of each, or the first rejection. -/
def checkSections (o : Object) : List (Nat × SectEntry) → Except Report (List (List Chain))
  | [] => .ok []
  | (i, e) :: l =>
    match verifySection (sectionHalves o.data e) (entriesIn o i) (startsIn o i) with
    | .error (off, code) => .error { index := 0, off := off, sect := i, code := code }
    | .ok cs =>
      match checkSections o l with
      | .error r => .error r
      | .ok css => .ok (cs :: css)

/-- A chain start of a section. -/
def startIn (css : List (List Chain)) (sect off : Nat) : Bool := isStart (css.getD sect []) off

/-- GOT.KIND and GOT.TARGET (step 4). -/
def checkGots (o : Object) (css : List (List Chain)) : Except Report Unit :=
  firstBad ((indexed o.gots).flatMap (fun q =>
    let g := q.2.1
    let a := o.head.gotAt + 16 * q.1
    [(g.kind == 0 || decide (7 < g.kind), gotKind, a, q.1), (g.kind == 1 && !startIn css g.sect g.off, gotTarget, a, q.1)]))

/-- The ports in use. -/
def HandEntry.portTags (e : HandEntry) : List Nat := (List.range (ctrlNport e.ctrl)).map (portTag e.ports)

/-- HND.FIELD. -/
def badHandler (e : HandEntry) : Bool :=
  let kind := ctrlKind e.ctrl
  let np := ctrlNport e.ctrl
  kind == 0 || kind == 3 || decide (4 < np) ||
    (kind == 2 && (np != 0 || e.ports != 0 || e.entry != 0 || e.sect != 0)) || e.ports.toNat / 2 ^ (16 * min np 4) != 0

/-- HND.PORT: a port that no declaration owns, or a queue that an earlier handler already serves. DEDUCED, log 11. -/
def badPorts (o : Object) (i : Nat) (e : HandEntry) : Bool :=
  ctrlKind e.ctrl == 1 && e.portTags.any (fun t =>
    !o.hands.any (fun x => x.trel == t) ||
    (indexed o.hands).any (fun q => decide (q.1 < i) && ctrlKind q.2.ctrl == 1 && q.2.portTags.contains t))

/-- The handler declarations and the trap entry (step 5). -/
def checkHandlers (o : Object) (css : List (List Chain)) : Except Report Unit :=
  let h := o.head
  firstBad
    ((indexed o.hands).flatMap (fun q =>
        let e := q.2
        let a := h.hndAt + 32 * q.1
        [ (badHandler e, hndField, a, q.1), (ctrlKind e.ctrl == 1 && !startIn css e.sect e.entry, hndEntry, a, q.1)
        , ((o.hands.take q.1).any (fun x => x.trel == e.trel), hndDup, a, q.1), (badPorts o q.1 e, hndPort, a, q.1) ]) ++
     [(h.trapf % 2 == 1 && !startIn css h.trapsec h.trapoff, trpEntry, 0x14, 0)])

/-- The base words that a SLOT relocation may change (R307). -/
def relocates : Instr → Bool
  | .li p _ i | .addi p _ i | .cAddi p _ i => p.imm == [0, 0] && i == 0
  | i => (prefixesOf i).1.imm == [0, 0] && (match memOf i with
    | some m => !m.regOff
    | none => false)

/-- The chain of a site. -/
def siteChain (css : List (List Chain)) (r : RelocEntry) : Option Chain :=
  (css.getD r.sect []).find? (fun c => c.off == r.off)

/-- RLC.KIND, RLC.INDEX and RLC.SITE (step 6). -/
def checkRelocs (o : Object) (css : List (List Chain)) : Except Report Unit :=
  firstBad ((indexed o.rels).flatMap (fun q =>
    let r := q.2
    let a := o.head.relAt + 8 * q.1
    [ (r.kind != 1, rlcKind, a, q.1), (decide (o.head.ngot + o.head.npar ≤ r.index), rlcIndex, a, q.1)
    , ((match siteChain css r with
        | some c => !relocates c.instr
        | none => true), rlcSite, a, q.1) ]))

/-! ## Relocation (R47, R307) -/

/-- An immediate prefix with a payload. -/
def immPrefix (n : Nat) : Half := BitVec.ofNat 16 (30 * 1024 + n % 1024)

/-- The value split into the immediate fields of the chain that starts here: the prefixes, most significant first, and
for format I the low five bits in the base word. k counts the prefixes met. -/
def patchChain (mem : Bool) (v : Nat) : Nat → List Half → List Half
  | _, [] => []
  | k, h :: hs =>
    let low := if mem then 0 else 5
    if halfMajor h = 30 then immPrefix (v / 2 ^ (low + (if k = 0 then 10 else 0))) :: patchChain mem v (k + 1) hs
    else if isPrefix h then h :: patchChain mem v k hs
    else (if mem then h else BitVec.ofNat 16 (h.toNat / 32 * 32 + v % 32)) :: hs

/-- One relocation of a section's halfwords. -/
def applyReloc (place : Nat) (css : List (List Chain)) (hs : List Half) (r : RelocEntry) : List Half :=
  match siteChain css r with
  | some c => hs.take (r.off / 2) ++ patchChain (memOf c.instr).isSome (place + 16 * r.index) 0 (hs.drop (r.off / 2))
  | none => hs

/-- A section relocated. -/
def relocated (o : Object) (css : List (List Chain)) (i : Nat) (e : SectEntry) : List Half :=
  (o.rels.filter (fun r => r.sect == i)).foldl (applyReloc o.head.placeoff css) (sectionHalves o.data e)

/-! ## The verified object -/

/-- A section relocated, with where it stands in the object. -/
structure Built where
  off  : Nat
  code : List Half
  deriving DecidableEq, Repr

/-- Steps 1 (from OBJ.RSV of the header) to 6: the relocated sections, or the report. -/
def verifyObject (o : Object) : Except Report (List Built) :=
  match checkHeaderRest o.head with
  | .error r => .error r
  | .ok _ => match checkTables o with
    | .error r => .error r
    | .ok _ => match checkParams o with
      | .error r => .error r
      | .ok _ => match checkSections o (indexed o.sects) with
        | .error r => .error r
        | .ok css => match checkGots o css with
          | .error r => .error r
          | .ok _ => match checkHandlers o css with
            | .error r => .error r
            | .ok _ => match checkRelocs o css with
              | .error r => .error r
              | .ok _ => .ok ((indexed o.sects).map (fun q => { off := q.2.off, code := relocated o css q.1 q.2 }))

/-- Bytes laid into a run of bytes. -/
def splice (bs : List Byte) (off : Nat) (part : List Byte) : List Byte :=
  bs.take off ++ part ++ bs.drop (off + part.length)

/-- The retained portable form: tables and relocated sections, with zeros between (R314, R321). -/
def retained (o : Object) (bs : List Built) : List Byte :=
  bs.foldl (fun d b => splice d b.off (b.code.flatMap (fun h => toBytes 2 h.toNat)))
    (o.data.take o.head.tables ++ List.replicate (o.head.total - o.head.tables) 0)

/-- The generation code of R1. -/
def generation : Nat := 1

/-- The capsule that an accepted object becomes, installed by a context under the present installer. -/
def capsuleOf (o : Object) (bs : List Built) (ctx : Nat) (meas : BitVec 256) : Capsule :=
  { ctx := ctx, sections := bs.map (fun b => { code := b.code })
    handlers := o.hands.map (fun e => { tag := e.trel, sect := e.sect, off := e.entry, ctrl := e.ctrl, port := e.ports })
    gots := o.gots.map (fun g => g.1), params := o.pars.map (fun q => (q.1, q.2.1))
    trap := if o.head.trapf % 2 = 1 then some (o.head.trapsec, o.head.trapoff) else none
    place := o.head.placeoff, image := retained o bs, gen := generation, meas := meas, void := false, rebuild := none, released := false
    breaks := [] }

/-! ## The code region (R308, R309) -/

/-- The slot base of a capsule. -/
def slotBase (n : Nat) : Nat := codeBase + n * 2 ^ 32

/-- The capsule capability. -/
def capsuleCap (n : Nat) : Cap := (Cap.root (slotBase n) (2 ^ 32) (need [permGL])).withOtype 1

/-- The capsule number that a capability over the code region names. -/
def capsuleNumber (c : Cap) : Nat := (c.base - codeBase) / 2 ^ 32 % 4096

/-- A capability over a section at a chain: an entry's with OTYPE 2, a code capability with 0. -/
def Capsule.codeCap (k : Capsule) (n sect off : Nat) (otype : BitVec 16) : Cap :=
  let base := slotBase n + sect * 2 ^ 28
  let len := match k.sections[sect]? with
    | some s => 2 * s.code.length
    | none => 2
  ((Cap.root base len (need [permLD, permEX, permGL])).withAddr (BitVec.ofNat 64 (base + off))).withOtype otype

/-- A capsule number that is free, looked for from a number on. DESIGN CHOICE, log 25. -/
def freeNumber (m : Map Capsule) (start : Nat) : Option Nat :=
  ((List.range 4096).map (fun i => (start + i) % 4096)).find? (fun n => (Map.get? m n).isNone)

end Sys2Proof.Machine
end

