-- ==== Sys2Proof/Machine/Capsules.lean ====
section
/-! DEFINITION. Machine/Capsules.lean: the capsule instructions of page 9 (R310 to R321). -/

namespace Sys2Proof.Machine

/-! ## `csl.inst` (R312) -/

/-- The spaces from which an object is read. DEDUCED, log 30. -/
def holdsObjects (tile : Nat) : Space → Bool
  | .global => true
  | .cmem => true
  | .scratch t => t == tile
  | .remote t => t == tile
  | _ => false

/-- A read of n bytes of the object at a, for steps 3 to 9 of R124. -/
def objectAccess (c : Cap) (a n : Nat) : Access := Access.at c a n (need [permLD]) 1 .load .dflt

/-- Step 7 of R313, and the result. -/
def State.register (s : State) (o : Object) (bs : List Built) : State × Cap :=
  match freeNumber s.capsules (s.fresh % 4096) with
  | some n =>
    if Config.bodyRoom s.tick then
      ({ s with capsules := Map.set s.capsules n (capsuleOf o bs s.ctxn s.instMeas) }, capsuleCap n)
    else (s, Report.cap { index := 0, off := 0, sect := 0xFF, code := insSpace })
  | none => (s, Report.cap { index := 0, off := 0, sect := 0xFF, code := insSpace })

/-- The object is verified and installed, or reported. -/
def State.install (s : State) (data : List Byte) : State × Cap :=
  let o := objectOf data
  match verifyObject o with
  | .error r => (s, r.cap)
  | .ok bs => s.register o bs

/-- The rest of an object whose header has passed, read and installed. -/
def installRest (p : Pfx) (d : BitVec 4) (c : Cap) (h : Header) (head : List Byte) (s : State) : Res :=
  let a := c.addr
  atSpot p (s.checkSpace (objectAccess c (a + 64) (h.total - 64)) none) false false s (fun sp s =>
    readAt sp (h.total - 64) s (fun bs s =>
      let r := s.install (head ++ bs)
      .done (r.1.pend (.c d r.2))))

/-- `csl.inst` once the firing is pinned. -/
def installBody (p : Pfx) (d a : BitVec 4) (s : State) : Res :=
  let c := s.c a
  let x := objectAccess c c.addr 64
  match c.checkAccess c.addr 64 (need [permLD]) with
  | some e => .trap s e c.addrW
  | none =>
    if c.addr % 16 != 0 then .trap s Code.memAlign c.addrW
    else if !holdsObjects s.cur.tile (spaceOf s.cur.tile c.addr).1 then .trap s Code.memSpace c.addrW
    else
      atSpot p (s.checkSpace x none) false false s (fun sp s =>
        readAt sp 64 s (fun head s =>
          let h := headerOf head
          match checkHeader h (c.top - c.addr) with
          | .error r => .done (s.pend (.c d r.cap))
          | .ok _ => installRest p d c h head s))

def execCslInst (p : Pfx) (d a : BitVec 4) (s : State) : Host.Outcome State Fault Refusal :=
  run p true s (fun s => afterPin s (installBody p d a))

/-! ## `csl.bind` (R314 to R316) -/

/-- The first three checks on a capsule capability (R315). -/
def capsuleFault (x : Cap) : Option (BitVec 16) :=
  if !x.tag then some Code.capTag
  else if x.otype = 0 then some Code.capSeal
  else if x.otype ≠ 1 then some Code.capType
  else none

/-- The capsule that a capability names. -/
def State.capsuleOf? (s : State) (x : Cap) : Option Capsule := Map.get? s.capsules (capsuleNumber x)

/-- The checks on the reference of a parameter slot. -/
def paramFault (r : Cap) (q : Nat × Nat) : Option (BitVec 16) :=
  let mask := BitVec.ofNat 12 q.2
  if !r.tag then some Code.capTag
  else if r.otype = 0 then some Code.capSeal
  else if r.otype.toNat ≠ q.1 then some Code.capType
  else if r.perms &&& mask ≠ mask then some Code.capPerm
  else if !r.has permGL then some Code.capLocal
  else none

/-- The first slot that fails, with its index. -/
def firstSlot : Nat → List (Cap × (Nat × Nat)) → Option (BitVec 16 × Nat)
  | _, [] => none
  | i, (r, q) :: l =>
    match paramFault r q with
    | some e => some (e, i)
    | none => firstSlot (i + 1) l

/-- The value of a GOT entry for a context on a tile (R314). -/
def State.gotValue (s : State) (k : Capsule) (n tile ctx : Nat) (g : GotDecl) : Cap :=
  match g.kind with
  | 1 => k.codeCap n g.sect g.off 0
  | 2 => (s.info ctx).data
  | 3 => Cap.root (loc + 0x100000) 0x200000 (need [permLD, permST])
  | 4 =>
    match Map.get? (s.cluster (clusterOf tile)).shares ctx with
    | some q =>
      if q.cmemLen = 0 then Cap.null
      else Cap.root (loc + 0x400000 + q.cmemOff) q.cmemLen (need [permLD, permST, permLDC, permSTC, permATOM, permENG])
    | none => Cap.null
  | 5 => Cap.root (loc + 0x90000) 0x1000 (need [permST])
  | 6 => Cap.root (loc + 0x10000000) 0x10000000 (need [permLD, permST, permENG])
  | 7 => Cap.root 0x100 0xFF00 (need [permSEAL, permUNSEAL, permGL])
  | _ => Cap.null

/-- The tags of a binding. -/
def Capsule.tags (k : Capsule) (base : Nat) : List Nat := k.handlers.map (fun h => (base + h.tag) % 4096)

/-- The port word of a declaration with its tags turned to the binding's; the counts stay. -/
def boundPorts (base : Nat) (h : HandlerDecl) : Word :=
  BitVec.ofNat 64 (((List.range (ctrlNport h.ctrl)).map (fun i =>
    (((base + portTag h.port i) % 4096) + (portCnt h.port i - 1) * 4096) * 2 ^ (16 * i))).foldl (· + ·) 0)

/-- Every entry of a binding is emptied, and the binding is no longer present. -/
def State.unbind (s : State) (b : Binding) : State :=
  let s1 := b.tags.foldl (fun s t => s.writeEntry b.ctx t EntryImage.empty) s
  { s1 with binds := s1.binds.filter (fun x => x != b) }

/-- One placement slot written with its tag, through the filter, on one tile. -/
def State.writeSlot (s : State) (tile ctx off : Nat) (v : Cap) : State :=
  s.writeCap (s.info ctx).keyId (keyScratch ctx tile off) (s.filterCap ctx v)

/-- The placement area of a binding on one tile. -/
def State.placeOn (s : State) (k : Capsule) (n ctx : Nat) (params : List Cap) (tile : Nat) : State :=
  let vals := k.gots.map (s.gotValue k n tile ctx) ++ params.map (fun r => r.withOtype 0)
  (indexed vals).foldl (fun s q => s.writeSlot tile ctx (k.place + 16 * q.1) q.2) s

/-- The trap vector that a binding sets (R264). -/
def Capsule.trapCap (k : Capsule) (n : Nat) : Cap :=
  match k.trap with
  | some (sect, off) => k.codeCap n sect off 2
  | none => Cap.null

def State.setTvec (s : State) (ctx : Nat) (v : Cap) : State :=
  match Map.get? s.contexts ctx with
  | some x => { s with contexts := Map.set s.contexts ctx { x with tvec := v } }
  | none => s

/-- The five steps of R316, in one act: no lock of R158 is held past it. DESIGN CHOICE, log 69. -/
def State.bind (s : State) (k : Capsule) (n ctx base : Nat) (trap : Bool) (params : List Cap) : State :=
  let tags := k.tags base
  let meets := s.binds.filter (fun b => b.ctx == ctx && b.tags.any (fun t => tags.contains t))
  let s1 := meets.foldl State.unbind s
  let s2 := k.handlers.foldl (fun s h =>
    s.writeEntry ctx ((base + h.tag) % 4096)
      { cap := k.codeCap n h.sect h.off 2, port := boundPorts base h, ctrl := h.ctrl }) s1
  let s3 := if trap then s2.setTvec ctx (k.trapCap n) else s2
  let s4 := (s3.homesOf ctx).foldl (fun s tile => s.placeOn k n ctx params tile) s3
  { s4 with binds := s4.binds ++ [{ ctx := ctx, capsule := n, tagbase := base, tags := tags, params := params }] }

/-- The granule at a key as `c.ld` reads it (R110, R112). -/
def State.granule (s : State) (key : Nat) (bs : List Byte) : Cap :=
  s.filterCap s.ctxn (Cap.ofBytes (s.tagFor s.keyId key) (ofBytes bs))

/-- The bind block is read and the binding performed. -/
def bindBlock (k : Capsule) (n b key : Nat) (bs : List Byte) (s : State) : Res :=
  let params := (List.range k.params.length).map (fun i => s.granule (key + 16 * (i + 1)) ((bs.drop (16 * (i + 1))).take 16))
  match firstSlot 0 (params.zip k.params) with
  | some (e, i) => .trap s e (BitVec.ofNat 64 (b + 16 * (i + 1)))
  | none =>
    let w := ofBytes (bs.take 4)
    .done (s.bind k n s.ctxn (w % 4096) (w.testBit 16) params)

/-- `csl.bind` once the firing is pinned. -/
def bindBody (p : Pfx) (d a : BitVec 4) (s : State) : Res :=
  let x := s.c d
  match capsuleFault x with
  | some e => .trap s e 0
  | none =>
    match s.capsuleOf? x with
    | none => .trap s Code.capPerm 0
    | some k =>
      if k.ctx != s.ctxn then .trap s Code.capPerm 0
      else
        let c := s.c a
        let len := 16 * (1 + k.params.length)
        match c.checkAccess c.addr len (need [permLD, permLDC]) with
        | some e => .trap s e c.addrW
        | none =>
          if c.addr % 16 != 0 then .trap s Code.memAlign c.addrW
          else if (spaceOf s.cur.tile c.addr).1.scratchTile != some s.cur.tile then .trap s Code.memSpace c.addrW
          else
            atSpot p (s.checkSpace (objectAccess c c.addr len) none) false false s (fun sp s =>
              readAt sp len s (fun bs s =>
                match sp.pieces with
                | q :: _ => bindBlock k (capsuleNumber x) c.addr q.key bs s
                | [] => .done s))

/-- `csl.bind` (R315). DEDUCED, log 29. -/
def execCslBind (p : Pfx) (d a : BitVec 4) (s : State) : Host.Outcome State Fault Refusal :=
  run p true s (fun s => afterPin s (bindBody p d a))

/-! ## `csl.rbld` and `csl.q` (R320, R321) -/

/-- A void body is rebuilt under the present installer, and no rebuild of it runs (R320). -/
def State.rebuild (s : State) (n : Nat) (k : Capsule) : State :=
  { s with capsules := Map.set s.capsules n { k with void := false, rebuild := none, gen := generation, meas := s.instMeas } }

/-- A rebuild of a body starts, for the register set that asks for it (R319, R320). -/
def State.startRebuild (s : State) (n : Nat) (k : Capsule) : State :=
  { s.setReg { s.reg with asked := some n } with capsules := Map.set s.capsules n { k with rebuild := some s.cur } }

/-- `csl.rbld` (R320): the chain that starts a rebuild holds issue until it completes, and a chain that meets another's
rebuild waits for it. DESIGN CHOICE, log 73. -/
def execCslRbld (p : Pfx) (d : BitVec 5) (a : BitVec 4) (s : State) : Host.Outcome State Fault Refusal :=
  run p true s (fun s =>
    let x := s.c a
    match capsuleFault x with
    | some e => .trap s e 0
    | none =>
      match s.capsuleOf? x with
      | none => .done (s.setS d 1)
      | some k =>
        match k.rebuild with
        | some u =>
          if u = s.cur ∧ s.reg.asked = some (capsuleNumber x) then
            .done (((s.rebuild (capsuleNumber x) k).setReg { s.reg with asked := none }).setS d 0)
          else .hold s
        | none =>
          if !k.void then .done (s.setS d 1)
          else if Config.bodyRoom s.tick then .hold (s.startRebuild (capsuleNumber x) k)
          else .done (s.setS d (BitVec.ofNat 64 insSpace)))

/-- A rebuild whose chain no longer waits for it, aborted or saved, ends by itself: it is never rolled back (R320). -/
def State.rebuildDue (s : State) (n : Nat) (k : Capsule) : Bool :=
  match k.rebuild with
  | some u => !((s.regOf u.tile u.set).waiting && (s.regOf u.tile u.set).asked == some n)
  | none => false

def execRebuildEnd (capsule : Nat) (s : State) : Host.Outcome State Fault Refusal :=
  .next (match Map.get? s.capsules capsule with
    | some k => if s.rebuildDue capsule k then s.rebuild capsule k else s
    | none => s)

/-- The present bindings of a capsule in a context, oldest first. -/
def State.bindsOf (s : State) (ctx n : Nat) : List Binding := s.binds.filter (fun b => b.ctx == ctx && b.capsule == n)

/-- The status word (R321). -/
def State.capsuleStatus (s : State) (n : Nat) (k : Capsule) : Word :=
  BitVec.ofNat 64 (bit k.void * 2 ^ 63 + bit k.rebuild.isSome * 2 ^ 62 + bit (!(s.bindsOf s.ctxn n).isEmpty) * 2 ^ 61 + bit k.trap.isSome * 2 ^ 60 +
    k.gen % 256 * 2 ^ 48 + (k.sections.length - 1) % 16 * 2 ^ 40 + k.handlers.length % 256 * 2 ^ 32 +
    k.gots.length % 256 * 2 ^ 24 + k.params.length % 16 * 2 ^ 20 + n % 4096)

/-- Bytes 0 to 7 of a digest. -/
def digestWord (d : BitVec 256) : Word := d.extractLsb' 0 64

/-- What a selector reads of a capsule (R321). -/
def State.capsuleWord (s : State) (n : Nat) (k : Capsule) (sel : Nat) : Word :=
  match sel with
  | 0 => s.capsuleStatus n k
  | 1 => digestWord k.meas
  | 2 => digestWord s.instMeas
  | 3 => BitVec.ofNat 64 k.image.length
  | 4 => BitVec.ofNat 64 k.place
  | 5 => digestWord (digestOf k.image)
  | 6 =>
    match (s.bindsOf s.ctxn n).getLast? with
    | some b => BitVec.ofNat 64 b.tagbase
    | none => BitVec.allOnes 64
  | _ => 0

def execCslQ (p : Pfx) (d : BitVec 5) (a : BitVec 4) (s : State) : Host.Outcome State Fault Refusal :=
  run p true s (fun s =>
    let x := s.c a
    match capsuleFault x with
    | some e => .trap s e 0
    | none =>
      match s.capsuleOf? x with
      | none => .done (s.pend (.s d 0))
      | some k => .done (s.pend (.s d (s.capsuleWord (capsuleNumber x) k ((s.s d).toNat % 16)))))

end Sys2Proof.Machine
end

