-- ==== Sys2Proof/Machine/Reclaim.lean ====
section
/-! DEFINITION. Machine/Reclaim.lean: what Squall filters in a sweep (R115), leases (R329), and the quarantine of freed memory
(R338, R339). -/

namespace Sys2Proof.Machine

/-! ## The pages of an address space (R326, R327) -/

/-- The indexes of a table frame's entries that any byte of memory makes nonzero. -/
def State.liveEntries (s : State) (frame : Nat) : List Nat :=
  let a := frame * 65536
  ((s.mem.filter (fun q => decide (a ≤ q.1) && decide (q.1 < a + 65536))).map (fun q => (q.1 - a) / 8)).eraseDups

/-- The leaves of an address space: virtual address, entry, and length. -/
def State.leaves (s : State) (info : RegInfo) : List (Nat × Nat × Nat) :=
  (s.liveEntries info.root).flatMap (fun i0 =>
    let e0 := s.tableEntry info.root i0
    if 64 ≤ i0 || !peV e0 || peLeaf e0 || s.badNonLeaf info.tenant e0 then []
    else (s.liveEntries (peFrame e0)).flatMap (fun i1 =>
      let e1 := s.tableEntry (peFrame e0) i1
      let va := i0 * 2 ^ 42 + i1 * 2 ^ 29
      if !peV e1 then []
      else if peLeaf e1 then [(va, e1, 2 ^ 29)]
      else if s.badNonLeaf info.tenant e1 then []
      else (s.liveEntries (peFrame e1)).flatMap (fun i2 =>
        let e2 := s.tableEntry (peFrame e1) i2
        if peV e2 then [(va + i2 * 65536, e2, 65536)] else [])))

/-- The HBM ranges that an address space maps, and whether they hold capabilities. -/
def State.hbmPages (s : State) (info : RegInfo) : List (Nat × Nat × Bool) :=
  ((s.leaves info).filter (fun l => !peHost l.2.1)).map (fun l => (peFrame l.2.1 * 65536, l.2.2, peCap l.2.1))

/-! ## Sweeps (R115) -/

/-- A live firing still holds a sweep open: it was live when the sweep opened, and has not been saved since. -/
def holdsSweep (w : Sweep) (l : LiveFiring) : Bool := w.firings.any (fun i => i.same l.id)

/-- No earlier sweep is before this one on a die (R114). -/
def firstSweep (w : Sweep) : List Sweep → Bool
  | [] => false
  | v :: l => if v.epoch = w.epoch then true else !v.dies.any (fun d => w.dies.contains d) && firstSweep w l

/-- Conditions 2 and 3, and the order of sweeps on each die. -/
def State.sweepDone (s : State) (w : Sweep) : Bool :=
  firstSweep w s.sweeps && !(s.liveOf w.ctx).any (holdsSweep w) && !(s.livePushes w.ctx).any (fun q => w.pushes.contains q)

/-- The context whose capabilities a local granule holds: the image's in a scratchpad, the share's in cluster memory. -/
def State.localOwner (s : State) (ctx g : Nat) : Nat :=
  if keyKind g = 2 then g % 2 ^ 64 / 2 ^ 18 / 4096
  else
    let k := g % 2 ^ 64 / 2 ^ 22
    match (s.cluster k).shares.find? (fun q =>
        decide (q.2.cmemOff ≤ g % 2 ^ 22) && decide (g % 2 ^ 22 < q.2.cmemOff + q.2.cmemLen)) with
    | some q => q.1
    | none => ctx

/-- Whether Squall reads a granule in a sweep of a context: its HBM pages that hold capabilities, the scratchpads and
cluster memories of its partitions. -/
def inSweep (info : RegInfo) (pages : List (Nat × Nat × Bool)) (g : Nat) : Bool :=
  match keyKind g with
  | 0 => pages.any (fun q => q.2.2 && decide (q.1 ≤ g) && decide (g < q.1 + q.2.1))
  | 2 => info.parts.contains (quadOf (g % 2 ^ 64 / 2 ^ 18 % 4096))
  | 3 => info.parts.contains (clusterPart (g % 2 ^ 64 / 2 ^ 22))
  | _ => false

/-- A granule passes the filter of its context; Squall reads it under the key of its own line. -/
def State.granuleKept (s : State) (ctx g : Nat) : Bool :=
  let c := if keyKind g = 0 then ctx else s.localOwner ctx g
  (s.filterCap c (Cap.ofBytes true (ofBytes (Memory.readBytes s.mem g 16)))).tag

/-- The save areas of a context through the filter: on a tile where it is loaded, the firings saved in its area; on
another, all of it. -/
def State.sweepAreas (s : State) (ctx : Nat) : State :=
  (s.homesOf ctx).foldl (fun s n =>
    let x := s.tctxOf n ctx
    s.setTctxOf n ctx (if (s.tile n).loaded = some ctx then s.filterAway ctx x else s.filterTctx ctx x)) s

/-- Condition 1: Squall filters every granule of the sweep, those of its save areas among them; a context that is registered no more has none.
DESIGN CHOICE, log 31. -/
def State.squall (s : State) (ctx : Nat) : State :=
  if (Map.get? s.contexts ctx).isNone then s
  else
    let info := s.info ctx
    let areas := (s.homesOf ctx).map (fun n => ((s.tctxOf n ctx).saveAddr, saveAreaSize, true))
    let pages := s.hbmPages info ++ areas
    let s1 := { s with tags := s.tags.filter (fun g => !inSweep info pages g || s.granuleKept ctx g) }
    (s1.sweepAreas ctx).filterTvec ctx

def execSweepComplete (epoch : Nat) (s : State) : Host.Outcome State Fault Refusal :=
  match s.sweeps.find? (fun w => w.epoch == epoch) with
  | none => .next s
  | some w =>
    if s.sweepDone w then
      let s1 := s.squall w.ctx
      .next { s1 with sweeps := s1.sweeps.filter (fun v => v.epoch != epoch) }
    else .next s

/-! ## Leases and epochs (R329, R339) -/

/-- The updates that a tile holds for a lease's frame are written back to it: the lease that they were translated under has
ended (R329). -/
def State.flushLease (s : State) (l : Lease) : State :=
  let lo := keyHbm (peFrame l.entry * 65536)
  let n := if l.block then 2 ^ 29 else 65536
  s.updaters.foldl (fun s i => s.mergeSome i (fun u => decide (lo ≤ u.1) && decide (u.1 < lo + n))) s

def execLeaseExpiry (idx : Nat) (s : State) : Host.Outcome State Fault Refusal :=
  match s.leases[idx]? with
  | some l => .next (if l.ends ≤ s.clk then { s.flushLease l with leases := s.leases.eraseIdx idx } else s)
  | none => .next s

/-- The length of an epoch. -/
def epochClk : Nat := 2048

def State.qnowDue (s : State) : Bool := decide (s.qnow < s.clk / epochClk)

def execQnowAdvance (s : State) : Host.Outcome State Fault Refusal :=
  .next (if s.qnowDue then { s with qnow := s.qnow + 1 } else s)

/-- Every access translated in an epoch or before it has been performed: no lease of its walks stands. A lease stands until
it has expired, when the held updates under it have merged; a buffered store is translated afresh when it commits (R329), so
that it holds no epoch. -/
def State.epochQuiet (s : State) (e : Nat) : Bool :=
  s.leases.all (fun l => decide (e < (l.ends - 8400) / epochClk))

def State.qdoneDue (s : State) : Bool := decide (s.qdone + 1 < s.qnow) && s.epochQuiet (s.qdone + 1)

def execQdoneAdvance (s : State) : Host.Outcome State Fault Refusal :=
  .next (if s.qdoneDue then { s with qdone := s.qdone + 1 } else s)

/-! ## The quarantine (R338) -/

/-- The frames of an entry as a range of HBM. -/
def itemRange (q : QItem) : Nat × Nat := (q.frame * 65536, q.count * 65536)

/-- Some context still maps a frame of a range, or a lease that has not yet expired names one. -/
def State.frameInUse (s : State) (lo n : Nat) : Bool :=
  s.contexts.any (fun q => (s.hbmPages q.2.info).any (fun g => overlaps lo n g.1 g.2.1)) ||
  s.leases.any (fun l => !peHost l.entry &&
    overlaps lo n (peFrame l.entry * 65536) (if l.block then 2 ^ 29 else 65536))

/-- The bitmap bits of an entry. -/
def itemHolds (q : QItem) (g : Nat) : Bool :=
  match q.capsule with
  | some n => g == keyAnchor n
  | none => decide ((itemRange q).1 ≤ g) && decide (g < (itemRange q).1 + (itemRange q).2)

/-- A sweep covers a granule: it opened after the granule was painted (R114, R338). -/
def State.coveredBy (s : State) (sweep g : Nat) : Bool :=
  match Map.get? s.covers g with
  | some e => e != 0 && sweep != 0 && decide (epochDist s.lastEpoch sweep ≤ epochDist s.lastEpoch e)
  | none => false

/-- Every granule of an entry is painted, and its sweep covers it. -/
def State.itemCovered (s : State) (q : QItem) : Bool :=
  let gs := s.painted.filter (itemHolds q)
  decide (gs.length = (match q.capsule with | some _ => 1 | none => q.count * 4096)) && gs.all (s.coveredBy q.sweep)

/-- An entry of some queue already holds what this one would. -/
def State.isQueued (s : State) (q : QItem) : Bool :=
  s.parts.any (fun p => p.2.quar.any (fun i =>
    match q.capsule, i.capsule with
    | some n, some m => n == m
    | none, none => overlaps (itemRange q).1 (itemRange q).2 (itemRange i).1 (itemRange i).2
    | _, _ => false))

/-- Frames that a narrowing less than 8,400 clk old has unmapped (R338). -/
def State.justNarrowed (s : State) (q : QItem) : Bool :=
  s.narrowed.any (fun r => overlaps q.frame q.count r.1 r.2.1 && decide (s.clk < r.2.2 + 8400))

/-- What Halo may enqueue: frames that were unmapped at least 8,400 clk ago, as Halo says and as the pager's stores were
performed, and that nothing names any more, or a released capsule, with every granule painted and covered by the sweep. -/
def State.mayQueue (s : State) (p : Nat) (q : QItem) : Bool :=
  decide ((s.part p).quar.length < 1024) && s.itemCovered q && !s.isQueued q &&
    (match q.capsule with
      | some n => (match Map.get? s.capsules n with
        | some k => k.released
        | none => false)
      | none => decide (0 < q.count) && decide (q.narrowed + 8400 ≤ s.clk) && !s.justNarrowed q && !s.frameInUse (itemRange q).1 (itemRange q).2)

def execQuarantineEnqueue (part : Nat) (item : QItem) (s : State) : Host.Outcome State Fault Refusal :=
  .next (if s.mayQueue part item then
      s.setPart part { s.part part with quar := (s.part part).quar ++ [{ item with free := s.qnow }] }
    else s)

/-- An entry may leave. -/
def State.mayRelease (s : State) (q : QItem) : Bool := s.sweepState q.sweep == 1 && decide (q.free ≤ s.qdone)

def execQuarantineRelease (part idx : Nat) (s : State) : Host.Outcome State Fault Refusal :=
  let p := s.part part
  match p.quar[idx]? with
  | none => .next s
  | some q =>
    if s.mayRelease q then
      let s1 := s.setPart part { p with quar := p.quar.eraseIdx idx }
      let s2 := { s1 with painted := s1.painted.filter (fun g => !itemHolds q g)
                          covers := s1.covers.filter (fun g => !itemHolds q g.1) }
      .next (match q.capsule with
        | some n => { s2 with capsules := Map.drop s2.capsules n }
        | none => s2)
    else .next s

end Sys2Proof.Machine
end

