-- ==== Sys2Proof/Machine/Queues.lean ====
section
/-! DEFINITION. Machine/Queues.lean: work queues and their completion rings (R342 to R344, R347), the doorbells, and the
records but for the launch record (R317, R335, R336, R346, R348, R356). -/

namespace Sys2Proof.Machine

/-! ## Rings (R342, R347) -/

/-- The size of a queue's rings. -/
def Queue.size (q : Queue) : Nat := 2 ^ q.logsz

/-- The dispatcher serves the queue. -/
def Queue.runs (q : Queue) : Bool := q.en && decide (4 ≤ q.logsz)

/-- A host physical address with 4 KiB alignment, from QBASE or CBASE. -/
def ringBase (w : Word) : Nat := w.toNat / 4096 * 4096

/-- The record at HEAD, if the ring holds one and the record before it has started (R343). -/
def State.ringRecord (s : State) (n : Nat) : Option (List Byte) :=
  let q := s.queue n
  if q.runs && q.head != q.tail && q.held.isNone then some (Memory.readBytes s.mem (keyHost (ringBase q.qbase + 256 * q.head)) 256)
  else none

def recType (r : List Byte) : Nat := fieldAt r 0 1
def recSeq (r : List Byte) : Nat := fieldAt r 4 4

/-- HEAD moves past a record. -/
def State.pass (s : State) (n : Nat) : State :=
  let q := s.queue n
  s.setQueue n { q with head := (q.head + 1) % q.size }

/-- The 32 bytes of a completion record (R347). -/
def Completion.bytes (c : Completion) : List Byte :=
  toBytes 8 (c.typ % 256 + c.status % 256 * 2 ^ 8 + c.seq % 2 ^ 32 * 2 ^ 32) ++ toBytes 8 c.code.toNat ++
    toBytes 8 (c.parts % 2 ^ 40) ++ toBytes 8 0

/-- The ring has room: CTAIL + 1 is not CHEAD. -/
def Queue.room (q : Queue) : Bool := (q.ctail + 1) % q.size != q.chead

/-- The launch that a queue and sequence number name: the latest. -/
def State.launchNamed (s : State) (queue seq : Nat) : Option (Nat × Launch) :=
  (s.launches.reverse).find? (fun q => q.2.queue == queue && q.2.seq == seq)

/-- The deferred flush of a launch named in this package is done, or there is none to do. -/
def State.flushDone (s : State) (queue seq : Nat) : Bool :=
  s.doneLaunch.contains (queue, seq) &&
    (match s.launchNamed queue seq with
      | some q => q.2.flushed
      | none => true)

/-- The requests of peers for the flush of a launch. -/
def State.flushAsked (s : State) (queue seq : Nat) : List (Nat × Nat × Nat) :=
  s.flushReqs.filter (fun q => q.2 == (queue, seq))

/-- The acknowledgement of every request. -/
def State.acknowledge (s : State) (qs : List (Nat × Nat × Nat)) : State :=
  { s with outbound := s.outbound ++ qs.map (fun q => .flushAck selfPackage q.1 q.2.1 q.2.2)
           flushReqs := s.flushReqs.filter (fun q => !qs.contains q) }

/-- A launch has its completion record. One that was refused has nothing to flush: its flush is acknowledged (R346). -/
def State.launchOver (s : State) (queue seq : Nat) : State :=
  let s1 : State := { s with doneLaunch := s.doneLaunch.erase (queue, seq) ++ [(queue, seq)] }
  if s1.flushDone queue seq then s1.acknowledge (s1.flushAsked queue seq) else s1

/-- A completion record is written, CTAIL moves past it, and the ring's MSI-X message follows. -/
def State.writeCompletion (s : State) (c : Completion) : State :=
  let q := s.queue c.queue
  let s1 := s.writeBytes 0 (keyHost (ringBase q.cbase + 32 * q.ctail)) c.bytes
  let s2 := s1.setQueue c.queue { q with ctail := (q.ctail + 1) % q.size }
  let s3 : State := { s2 with msix := s2.msix ++ [c.queue] }
  if c.typ = 1 then s3.launchOver c.queue c.seq else s3

/-- Held completions are written in their order as far as their rings have room. -/
def State.drainComps (s : State) : List Completion → State
  | [] => s
  | c :: cs =>
    let held := s.comps.any (fun x => x.queue == c.queue)
    if !held && (s.queue c.queue).room then (s.writeCompletion c).drainComps cs
    else
      let s1 : State := { s with comps := s.comps ++ [c] }
      s1.drainComps cs

def State.flushComps (s : State) : State :=
  let s1 : State := { s with comps := [] }
  s1.drainComps s.comps

/-- A record completes. -/
def State.finishRecord (s : State) (queue typ status seq : Nat) (code : BitVec 16) (parts : Nat) : State :=
  let c : Completion := { queue := queue, typ := typ, status := status, seq := seq, code := code, parts := parts }
  let s1 : State := { s with comps := s.comps ++ [c] }
  s1.flushComps

/-- A record is refused. -/
def State.refuse (s : State) (queue : Nat) (r : List Byte) (status : Nat) : State :=
  s.finishRecord queue (recType r) status (recSeq r) 0 0

/-- A mask with one bit for each of a list of partitions. -/
def partMask (ps : List Nat) : Nat := (ps.map (fun p => 2 ^ p)).foldl (· ||| ·) 0

/-- The context's lowest-numbered partition, whose dispatcher serves its queues (R343). -/
def firstPart (i : RegInfo) : Option Nat :=
  match i.parts with
  | [] => none
  | p :: ps => some (ps.foldl min p)

/-- The context that a queue is bound to. -/
def State.queueInfo (s : State) (n : Nat) : RegInfo := s.info (s.queue n).ctx

/-- The partition of the dispatcher that serves a queue, as a mask. DEDUCED, log 33. -/
def State.queuePart (s : State) (n : Nat) : Nat :=
  match firstPart (s.queueInfo n) with
  | some p => 2 ^ p
  | none => 0

/-- Fields of a record that must be zero, and the upper bits of its first word (R344). -/
def badRecord (r : List Byte) (zeros : List (Nat × Nat)) : Bool :=
  fieldAt r 1 3 != 0 || zeros.any (fun z => fieldAt r z.1 z.2 != 0)

/-- A record of a type at the head of a queue is taken from its ring. -/
def atRecord (n typ : Nat) (s : State) (body : List Byte → State → State) : State :=
  match s.ringRecord n with
  | some r => if recType r = typ then body r (s.pass n) else s
  | none => s

/-! ## Doorbells and registers (R8, R342, R343) -/

/-- A write of TAIL or CHEAD: in range it is taken, else ERR is set. BAR0 holds 32,768 queue blocks (R342), and writes
to it are ignored before READY (R393). -/
def State.indexWrite (s : State) (n value : Nat) (f : Queue → Nat → Queue) : State :=
  let q := s.queue n
  let v := value % 65536
  if !s.status.ready || decide (32768 ≤ n) then s
  else if q.size ≤ v then s.setQueue n { q with err := true }
  else s.setQueue n (f q v)

/-- The doorbell. -/
def State.tailWrite (s : State) (queue value : Nat) : State := s.indexWrite queue value (fun q v => { q with tail := v })

/-- What the host has consumed of a completion ring: held completions may have room now. -/
def State.cheadWrite (s : State) (queue value : Nat) : State :=
  (s.indexWrite queue value (fun q v => { q with chead := v })).flushComps

def execTailWrite (queue value : Nat) (s : State) : Host.Outcome State Fault Refusal := .next (s.tailWrite queue value)

def execCheadWrite (queue value : Nat) (s : State) : Host.Outcome State Fault Refusal := .next (s.cheadWrite queue value)

/-- A word with bits hi:lo taken from another. -/
def mixBits (old new : Word) (lo width : Nat) : Word :=
  let m := BitVec.ofNat 64 ((2 ^ width - 1) * 2 ^ lo)
  (old &&& ~~~m) ||| (new &&& m)

/-- QCTL: ERR is cleared by writing one; the /K fields keep what they hold below keeper privilege; LOGSZ changes only while
EN = 0. -/
def Queue.control (q : Queue) (w : Word) (keeper : Bool) : Queue :=
  let q1 := { q with err := q.err && !w.getLsbD 62 }
  if keeper then
    { q1 with en := w.getLsbD 63, ctx := bitsOf w.toNat 32 12, logsz := if q.en then q.logsz else bitsOf w.toNat 16 4 }
  else q1

/-- CHn (R367): opening a channel clears DEAD and starts both counters again, under the key that the device and the guest
have agreed for it, which is free. DESIGN CHOICE, log 85. -/
def Channel.control (c : Channel) (w : Word) (key : Nat) : Channel :=
  let opens := w.getLsbD 63 && !c.ctrl.getLsbD 63
  let body := mixBits (mixBits 0 w 0 60) w 63 1
  if opens then { ctrl := body, dctr := 0, hctr := 0, key := key }
  else { c with ctrl := mixBits body c.ctrl 62 1 }

/-- The capability of a window, in the granule that partition services put it in (R352). -/
def State.handWindow (s : State) (w ctx : Nat) (h : WinHand) : State :=
  let perms := need ([permENG] ++ (if h.rd then [permLD] else []) ++ (if h.wr then [permST] else []))
  if h.off + h.len ≤ 2 ^ 32 ∧ h.gran < 16384 ∧ s.resident h.tile ctx then
    s.writeCap (s.info ctx).keyId (keyScratch ctx h.tile (16 * h.gran))
      ((Cap.root (winBase + w * 2 ^ 32 + h.off) h.len perms).withOtype 3)
  else s

/-- A page of HBM that programs and the host may reach: of a partition of the non-secure world, and no device-private one, which
keeper privilege alone reaches (R31, R363). -/
def State.hostMay (s : State) (a : Nat) : Bool :=
  decide (a / quadBytes < 40) && !(s.part (a / quadBytes)).world && decide (a % quadBytes < s.usable (a / quadBytes))

/-- An HDM decoder as partition services program it (R341): whole pages, to device memory that the host may reach, with a key ID
for the requests through it. -/
def State.setHdm (s : State) (i base len dev key : Nat) : State :=
  if i < 2 ∧ base % 65536 = 0 ∧ len % 65536 = 0 ∧ dev % 65536 = 0 ∧ base + len ≤ 2 ^ 64 ∧ key < 4096 ∧
      (List.range (len / 65536)).all (fun j => s.hostMay (dev + 65536 * j)) then
    { s with hdm := tabulate 2 (fun j => if j = i then { base := base, len := len, dev := dev, key := key }
        else s.hdm.toList.getD j { base := 0, len := 0, dev := 0, key := 0 }) }
  else s

/-- The fault of a write from a privilege below a field's (R8). No chain makes these writes, so none takes it: it stands in
the error ring as a record of its class, for the link that the write came over, with a syndrome that is free.
DESIGN CHOICE, log 83. -/
def State.denied (s : State) : State :=
  s.postError none { cls := 0x0A, unit := 0x0E, part := 0, who := 0, syn := 1 + s.fresh % 6, addr := 0, frame := 0, pc := 0 }

/-- The privilege that a register's fields ask of a write, and 0 for a number that no register has. -/
def regLevel : DevReg → Nat
  | .qctl n => if n < 32768 then 2 else 0
  | .win n _ => if n < 4096 then 1 else 0
  | .exp n => if n < 4096 then 1 else 0
  | .chan n => if n < 4096 then 2 else 0
  | .hdm i _ _ => if i < 2 then 2 else 0
  | .edgebud _ => 2
  | _ => 0

/-- A write to a register that has no row of its own, by a privilege that may or may not make it. -/
def State.regPut (s : State) (r : DevReg) (w : Word) (priv : Priv) : State :=
  let keeper := decide (2 ≤ privLevel priv)
  let queue (n : Nat) (f : Queue → Queue) : State :=
    if s.status.ready && decide (n < 32768) then s.setQueue n (f (s.queue n)) else s
  match r with
  | .qbase n => queue n (fun q => if q.en then q else { q with qbase := w &&& ~~~0xFFF })
  | .cbase n => queue n (fun q => if q.en then q else { q with cbase := w &&& ~~~0xFFF })
  | .qctl n => queue n (fun q => q.control w keeper)
  | .win n hand =>
    if 1 ≤ privLevel priv ∧ n < 4096 then
      let s1 : State := { s with wins := Map.set s.wins n (mixBits w 0 60 3) }
      match hand with
      | some h => if w.getLsbD 63 then s1.handWindow n (bitsOf w.toNat 48 12) h else s1
      | none => s1
    else s
  | .hdm i base len => if keeper then s.setHdm i base len (w.toNat / 4096 * 4096) (w.toNat % 4096) else s
  | .exp n => if 1 ≤ privLevel priv ∧ n < 4096 then { s with exps := Map.set s.exps n (mixBits w 0 60 1) } else s
  | .edgebud c =>
    match Map.get? s.contexts c with
    | some x => if keeper then
        { s.keepAges c with contexts := Map.set s.contexts c { x with edgebud := mixBits (mixBits 0 w 56 8) w 0 24 } } else s
    | none => s
  | .chan n => if keeper && decide (n < 4096) then (s.setChan n ((s.chan n).control w s.fresh)).sendKept n else s
  | .errctl => { s with ovf := s.ovf && !w.getLsbD 63, ehead := bitsOf w.toNat 8 8 }
  | .readOnly _ => s

/-- A register write: a field that asks for more than the write's privilege keeps what it holds, and the fault is recorded
(R8). Before READY the queue blocks take no write at all (R393). -/
def State.regWrite (s : State) (r : DevReg) (w : Word) (priv : Priv) : State :=
  let s1 := s.regPut r w priv
  let asleep := match r with
    | .qctl _ => !s.status.ready
    | _ => false
  if privLevel priv < regLevel r && !asleep then s1.denied else s1

def execRegisterWrite (reg : DevReg) (value : Word) (priv : Priv) (s : State) : Host.Outcome State Fault Refusal :=
  .next (s.regWrite reg value priv)

/-! ## Acquire and release of host ranges (R335, R336, R348) -/

/-- The key of the leaf entry that maps an address, with the entry. -/
def State.leafEntry (s : State) (info : RegInfo) (va : Nat) : Option (Nat × Nat) :=
  let at_ (frame i : Nat) : Nat × Nat := (frame * 65536 + 8 * i, s.tableEntry frame i)
  if 0xE000 * 2 ^ 32 ≤ va then none
  else
    let e0 := (at_ info.root (va / 2 ^ 42 % 64)).2
    if !peV e0 || peLeaf e0 || s.badNonLeaf info.tenant e0 then none
    else
      let q1 := at_ (peFrame e0) (va / 2 ^ 29 % 8192)
      if !peV q1.2 then none
      else if peLeaf q1.2 then some q1
      else if s.badNonLeaf info.tenant q1.2 then none
      else
        let q2 := at_ (peFrame q1.2) (va / 2 ^ 16 % 8192)
        if peV q2.2 then some q2 else none

/-- The range that an acquire or release names: base and pages. -/
def rangeOf (r : List Byte) : Nat × Nat := (fieldAt r 8 8, fieldAt r 16 4)

/-- A range that starts at no page or holds none (R344, R348). DEDUCED, log 34. -/
def badRange (r : List Byte) : Bool :=
  badRecord r [(0x14, 0xEC)] || (rangeOf r).1 % 65536 != 0 || (rangeOf r).2 == 0

/-- Every page of the range is a host page. -/
def State.allHost (s : State) (info : RegInfo) (base pages : Nat) : Bool :=
  (List.range pages).all (fun i => match s.leafEntry info (base + 65536 * i) with
    | some q => peHost q.2
    | none => false)

/-- HELD written in the entry of one page, as the pager's store does it. -/
def State.setHeld (s : State) (info : RegInfo) (va : Nat) (on : Bool) : State :=
  match s.leafEntry info va with
  | some q =>
    let e := if on then q.2 ||| 2 ^ 60 else q.2 - bit (peHeld q.2) * 2 ^ 60
    { s.setMem (Memory.writeBytes s.mem q.1 (toBytes 8 e)) with tags := Keys.remove s.tags (q.1 - q.1 % 16) }
  | none => s

def State.holdRange (s : State) (info : RegInfo) (base pages : Nat) (on : Bool) : State :=
  (List.range pages).foldl (fun s i => s.setHeld info (base + 65536 * i) on) s

def execAcquireRecord (queue : Nat) (s : State) : Host.Outcome State Fault Refusal :=
  .next (atRecord queue 2 s (fun r s =>
    let q := rangeOf r
    let i := s.queueInfo queue
    if badRange r then s.refuse queue r 3
    else if !s.allHost i q.1 q.2 then s.refuse queue r 2
    else (s.holdRange i q.1 q.2 true).finishRecord queue 2 0 (recSeq r) 0 (s.queuePart queue)))

/-- A release of this queue whose wait is over (R336). -/
def State.dueRelease (s : State) (queue : Nat) : Option (Nat × Waiting) :=
  s.waits.findSome? (fun w => match w with
    | .relRange q seq ends => if q = queue ∧ ends ≤ s.clk then some (seq, w) else none
    | _ => none)

def State.dropWait (s : State) (w : Waiting) : State := { s with waits := s.waits.erase w }

/-- RELEASE_RECORD: HELD is cleared and the wait for leases starts, or a wait is over and the record completes. The
writes of the range already stand in host memory. -/
def execReleaseRecord (queue : Nat) (s : State) : Host.Outcome State Fault Refusal :=
  match s.dueRelease queue with
  | some (seq, w) => .next ((s.dropWait w).finishRecord queue 3 0 seq 0 (s.queuePart queue))
  | none =>
    .next (atRecord queue 3 s (fun r s =>
      let q := rangeOf r
      let i := s.queueInfo queue
      if badRange r then s.refuse queue r 3
      else if !s.allHost i q.1 q.2 then s.refuse queue r 2
      else
        let s1 := s.holdRange i q.1 q.2 false
        { s1 with waits := s1.waits ++ [.relRange queue (recSeq r) (s.clk + 8400)] }))

/-! ## Collective abort (R356) -/

/-- The abort tokens of a context's group: one to the peer of every valid window, on each up port of it. -/
def State.abortTokens (s : State) (ctx group attempt : Nat) : List Outbound :=
  s.wins.flatMap (fun q =>
    let w := q.2
    if w.getLsbD 63 && bitsOf w.toNat 48 12 == ctx && bitsOf w.toNat 18 8 == group then
      ((List.range 18).filter (fun p => w.getLsbD p && s.portState p == .up)).map
        (fun _ => .abortToken selfPackage (bitsOf w.toNat 38 10) (winExp w) group attempt)
    else [])

def State.setAttempt (s : State) (ctx group n : Nat) : State :=
  match Map.get? s.contexts ctx with
  | some x => { s with contexts := Map.set s.contexts ctx { x with attempts := Map.set x.attempts group n } }
  | none => s

def execCollectiveAbort (queue : Nat) (s : State) : Host.Outcome State Fault Refusal :=
  .next (atRecord queue 4 s (fun r s =>
    let ctx := (s.queue queue).ctx
    let g := fieldAt r 8 1
    if badRecord r [(9, 0xF7)] then s.refuse queue r 3
    else
      let a := (match Map.get? s.contexts ctx with
        | some x => Map.get x.attempts g 0
        | none => 0) + 1
      if 0xFFFFFFFF < a then s.refuse queue r 7
      else
        let s1 := s.setAttempt ctx g a
        let s2 : State := { s1 with outbound := s1.outbound ++ s1.abortTokens ctx g a }
        s2.finishRecord queue 4 0 (recSeq r) 0 (s.queuePart queue)))

/-! ## Capsule release (R317) -/

/-- An address lies in a capsule's slot. -/
def inSlot (n a : Nat) : Bool := decide (codeBase ≤ a) && (a - codeBase) / 2 ^ 32 == n

/-- A firing runs, or waits saved, in a capsule. -/
def State.capsuleBusy (s : State) (n : Nat) : Bool :=
  let here (r : RegSet) : Bool := r.fir.isSome && inSlot n r.pcc.addr
  s.tiles.any (fun t => t.2.ctxs.any (fun q => here q.2.normal || here q.2.urgent || q.2.saved.any (fun x => here x.2)))

/-- The release itself: bindings emptied, the anchor painted, a sweep opened. None while no sweep can open. -/
def State.releaseCapsule (s : State) (n ctx : Nat) : Option State :=
  let s1 := (s.binds.filter (fun b => b.capsule == n)).foldl State.unbind s
  let r := (s1.paint [keyAnchor n] true).openSweep ctx
  if r.2 = 0 then none
  else match Map.get? r.1.capsules n with
    | some k => some { r.1 with capsules := Map.set r.1.capsules n { k with released := true } }
    | none => none

/-- A capsule release of this queue that may be performed. -/
def State.dueCapsule (s : State) (queue : Nat) : Option (Nat × Nat × Waiting) :=
  s.waits.findSome? (fun w => match w with
    | .capRel q seq n => if q = queue ∧ !s.capsuleBusy n then some (seq, n, w) else none
    | _ => none)

/-- A capsule is the context's to release. -/
def State.ownsCapsule (s : State) (n ctx : Nat) : Bool :=
  match Map.get? s.capsules n with
  | some k => k.ctx == ctx && !k.released
  | none => false

/-- CAPSULE_RELEASE: the record is taken up, or one that waited is performed. Another record may have released the capsule
meanwhile: this one is then refused as one that comes after it. -/
def execCapsuleRelease (queue : Nat) (s : State) : Host.Outcome State Fault Refusal :=
  let ctx := (s.queue queue).ctx
  match s.dueCapsule queue with
  | some (seq, n, w) =>
    .next (if !s.ownsCapsule n ctx then (s.dropWait w).finishRecord queue 5 5 seq 0 0
      else match (s.dropWait w).releaseCapsule n ctx with
      | some s1 => s1.finishRecord queue 5 0 seq 0 (partMask (s.info ctx).parts)
      | none => s)
  | none =>
    .next (atRecord queue 5 s (fun r s =>
      let n := fieldAt r 8 2
      if badRecord r [(0xA, 0xF6)] || decide (4096 ≤ n) then s.refuse queue r 3
      else
        if s.ownsCapsule n ctx then { s with waits := s.waits ++ [.capRel queue (recSeq r) n] } else s.refuse queue r 5))

/-! ## Host sync and reserved records (R344, R346) -/

/-- The dependency field at offset 0x88: package, queue, SEQ. -/
def depOf (r : List Byte) : Nat × Nat × Nat :=
  let d := fieldAt r 0x88 8
  (bitsOf d 48 10, bitsOf d 32 15, bitsOf d 0 32)

/-- The launch that a host sync names has completed, and its flush is performed. -/
def State.syncDone (s : State) (d : Nat × Nat × Nat) : Bool :=
  if d.1 = selfPackage then s.flushDone d.2.1 d.2.2 else s.flushAcks.contains d

def State.dueSync (s : State) (queue : Nat) : Option (Nat × (Nat × Nat × Nat) × Waiting) :=
  s.waits.findSome? (fun w => match w with
    | .sync q seq d => if q = queue ∧ s.syncDone d then some (seq, d, w) else none
    | _ => none)

/-- An acknowledgement of a peer is used by the record that asked for it, and by no later one (R346). -/
def State.useAck (s : State) (d : Nat × Nat × Nat) : State :=
  if d.1 = selfPackage then s else { s with flushAcks := s.flushAcks.erase d }

/-- A flush request leaves for the package that ran the launch. -/
def State.askFlush (s : State) (d : Nat × Nat × Nat) : State :=
  if d.1 = selfPackage then s else { s with outbound := s.outbound ++ [.flushRequest selfPackage d.1 d.2.1 d.2.2] }

def execHostSync (queue : Nat) (s : State) : Host.Outcome State Fault Refusal :=
  match s.dueSync queue with
  | some (seq, d, w) => .next (((s.dropWait w).useAck d).finishRecord queue 6 0 seq 0 0)
  | none =>
    .next (atRecord queue 6 s (fun r s =>
      let d := fieldAt r 0x88 8
      let depv := d.testBit 63
      if badRecord r [(8, 0x80), (0x90, 0x70)] || bitsOf d 58 5 != 0 || d.testBit 47 || (!depv && d != 0) then
        s.refuse queue r 3
      else if depv then
        let s1 : State := { s with waits := s.waits ++ [.sync queue (recSeq r) (depOf r)] }
        s1.askFlush (depOf r)
      else s.finishRecord queue 6 0 (recSeq r) 0 0))

/-- The types that R344 defines. -/
def knownType (n : Nat) : Bool := decide (1 ≤ n) && decide (n ≤ 6)

def execReservedRecord (queue : Nat) (s : State) : Host.Outcome State Fault Refusal :=
  match s.ringRecord queue with
  | some r => .next (if knownType (recType r) then s else (s.pass queue).refuse queue r 3)
  | none => .next s

end Sys2Proof.Machine
end

