-- ==== Sys2Proof/Machine/Launches.lean ====
section
/-! DEFINITION. Machine/Launches.lean: launches from their record to their completion and their deferred flush (R177 to
R180, R186, R345, R346). -/

namespace Sys2Proof.Machine

/-! ## The work header (R177, R345) -/

/-- The fields of a launch record. -/
def hdrFields (r : List Byte) : Nat := bitsOf (fieldAt r 0x18 8) 0 3
def hdrPull (r : List Byte) : Bool := (fieldAt r 0x18 8).testBit 3
def hdrTag (r : List Byte) : Nat := bitsOf (fieldAt r 0x18 8) 4 12
def hdrTs (r : List Byte) : Nat := bitsOf (fieldAt r 0x18 8) 16 32
def hdrMinc (r : List Byte) : Nat := bitsOf (fieldAt r 0x18 8) 48 16
def hdrWidth (r : List Byte) (i : Nat) : Nat := bitsOf (fieldAt r 0x20 8) (7 * i) 7
def hdrScope (r : List Byte) (i : Nat) : Nat := bitsOf (fieldAt r 0x20 8) (42 + 3 * i) 3
def hdrExtent (r : List Byte) (i : Nat) : Nat := fieldAt r (0x28 + 8 * i) 8
def hdrCapsule (r : List Byte) : Nat := bitsOf (fieldAt r 8 8) 0 12
def hdrMask (r : List Byte) : Nat := bitsOf (fieldAt r 0x10 8) 0 40

/-- Xi = 0 stands for 2^Wi. -/
def fullExtent (w x : Nat) : Nat := if x = 0 then 2 ^ w else x

/-- The fields of a list from the first to the last. -/
def upTo (n : Nat) (f : Nat → Nat) : List Nat := (List.range n).map f

/-- A list never decreases. -/
def neverFalls : List Nat → Bool
  | a :: b :: l => decide (a ≤ b) && neverFalls (b :: l)
  | _ => true

/-- A work header that keeps R177. -/
def goodHeader (r : List Byte) : Bool :=
  let n := hdrFields r
  let ws := upTo n (hdrWidth r)
  let scs := upTo n (hdrScope r)
  decide (1 ≤ n) && decide (n ≤ 6) && ws.all (fun w => decide (1 ≤ w) && decide (w ≤ 64)) &&
    decide (ws.foldl (· + ·) 0 ≤ 64) && scs.all (fun c => decide (c ≤ 5)) && neverFalls scs &&
    (List.range n).all (fun i => decide (hdrExtent r i ≤ 2 ^ hdrWidth r i)) &&
    (List.range 6).all (fun i => decide (i < n) || (hdrWidth r i == 0 && hdrScope r i == 0 && hdrExtent r i == 0)) &&
    (!hdrPull r || (hdrScope r (n - 1) == 3 && decide (fullExtent (hdrWidth r (n - 1)) (hdrExtent r (n - 1)) ≤ 0xFFFFFFFF)))

/-- A reserved field of a launch record is not zero (R344, R345). -/
def launchReserved (r : List Byte) : Bool :=
  let d := fieldAt r 0x88 8
  badRecord r [(0x90, 0x70)] || decide (4096 ≤ fieldAt r 8 8) || decide (2 ^ 40 ≤ fieldAt r 0x10 8) ||
    decide (2 ^ 60 ≤ fieldAt r 0x20 8) || bitsOf d 58 4 != 0 || d.testBit 47

/-- The partitions that a launch record names. -/
def launchParts (r : List Byte) : List Nat := (List.range 40).filter (hdrMask r).testBit

/-- A partition of the part in which the context is registered. -/
def State.partServes (s : State) (i : RegInfo) (p : Nat) : Bool :=
  !(s.part p).absent && (s.part p).st == .assigned && i.parts.contains p

/-- A binding of the capsule in the context whose tags hold a tag (R317). -/
def State.bindingHolds (s : State) (ctx capsule tag : Nat) : Bool :=
  s.binds.any (fun b => b.ctx == ctx && b.capsule == capsule && b.tags.contains tag)

/-- The context's entry for a tag. -/
def State.tableEntryOf (s : State) (ctx tag : Nat) : EntryImage :=
  match Map.get? s.contexts ctx with
  | some x => x.entry tag
  | none => EntryImage.empty

/-- A single-port handler with a count of 1. -/
def isSingle (e : EntryImage) : Bool := ctrlKind e.ctrl == 1 && ctrlNport e.ctrl == 1 && portCnt e.port 0 == 1

/-- The status that refuses a launch, 0 where none applies. -/
def State.launchStatus (s : State) (ctx : Nat) (r : List Byte) : Nat :=
  let ps := launchParts r
  if launchReserved r then 3
  else if ps.isEmpty || ps.any (fun p => !s.partServes (s.info ctx) p) then 4
  else if !s.bindingHolds ctx (hdrCapsule r) (hdrTag r) then 5
  else if !goodHeader r || (hdrPull r && !isSingle (s.tableEntryOf ctx (hdrTag r))) then 6
  else 0

/-- The launch of a record. DEDUCED, log 35. -/
def State.launchOf (s : State) (queue ctx : Nat) (r : List Byte) : Launch :=
  let n := hdrFields r
  let d := fieldAt r 0x88 8
  { queue := queue, seq := recSeq r, ctx := ctx, parts := launchParts r, pull := hdrPull r, tag := hdrTag r
    urg := ctrlClass (s.tableEntryOf ctx (hdrTag r)).ctrl, ts := hdrTs r, minc := hdrMinc r
    widths := upTo n (hdrWidth r), scopes := upTo n (hdrScope r)
    extents := upTo n (fun i => fullExtent (hdrWidth r i) (hdrExtent r i)), args := (r.drop 0x58).take 48
    wload := d.testBit 62, dep := if d.testBit 63 then some (depOf r) else none
    begun := false, begunIn := [], next := 0, late := [], streams := [], sentAll := false, term := none, complete := false, flushed := false }

/-- An earlier launch of the context that is not complete holds another layout in one of a launch's partitions (R179),
or a checkpoint holds one of them. DEDUCED, log 44. -/
def State.launchBlocked (s : State) (l : Launch) : Bool :=
  s.launches.any (fun q => q.2.ctx == l.ctx && !q.2.complete && q.2.widths != l.widths &&
    q.2.parts.any l.parts.contains) || l.parts.any (fun p => (s.part p).checkpt.isSome)

/-- A partition with no contributor has its floor reset (R186). -/
def State.resetFloor (s : State) (p : Nat) : State :=
  if (s.contributors p).isEmpty then s.setPart p { s.part p with floor := 0 } else s

/-- The next launch slot. -/
def State.newSlot (s : State) : Nat :=
  match s.launches.getLast? with
  | some q => q.1 + 1
  | none => 0

/-- A launch record that has been read stands for its SEQ from now on: an earlier launch of that number is done with
(R346). -/
def State.renewSeq (s : State) (queue seq : Nat) : State := { s with doneLaunch := s.doneLaunch.erase (queue, seq) }

/-- A launch takes its slot. -/
def State.startLaunch (s : State) (l : Launch) : State :=
  let s1 := l.parts.foldl State.resetFloor s
  let s2 : State := { s1 with launches := Map.set s1.launches s1.newSlot l }
  match l.dep with
  | some d => s2.askFlush d
  | none => s2

/-- A launch that was read takes its slot, or is held until the layout rule lets it. -/
def State.startOrHold (s : State) (queue : Nat) (l : Launch) : State :=
  let hold (o : Option Launch) : State := s.setQueue queue { s.queue queue with held := o }
  if s.launchBlocked l then hold (some l) else (hold none).startLaunch l

/-- LAUNCH_RECORD: the record at HEAD is read, once, and started, refused or held; or a held launch starts. -/
def execLaunchRecord (queue : Nat) (s : State) : Host.Outcome State Fault Refusal :=
  match (s.queue queue).held with
  | some l => .next (s.startOrHold queue l)
  | none =>
    .next (atRecord queue 1 s (fun r s =>
      let ctx := (s.queue queue).ctx
      let st := s.launchStatus ctx r
      let s := s.renewSeq queue (recSeq r)
      if st != 0 then s.refuse queue r st else s.startOrHold queue (s.launchOf queue ctx r)))

/-! ## Work identifiers and tiles (R176, R178) -/

/-- The product of a list. -/
def product (l : List Nat) : Nat := l.foldl (· * ·) 1

/-- The digits of a number in a mixed radix, the last radix lowest. -/
def digits : List Nat → Nat → List Nat
  | [], _ => []
  | e :: es, n => n / product es % e :: digits es n

/-- Fields packed into a work identifier, field 0 highest (R176). -/
def packWid (widths fields : List Nat) : Nat := (widths.zip fields).foldl (fun a q => a * 2 ^ q.1 + q.2) 0

/-- How many fields of a launch are not serial: they come first, because scopes never decrease. -/
def Launch.fixed (l : Launch) : Nat := l.scopes.countP (fun c => c != 5)

/-- The extents that number a launch's streams or pull groups, and those within one. -/
def Launch.outer (l : Launch) : List Nat :=
  if l.pull then l.extents.dropLast else l.extents.take l.fixed
def Launch.inner (l : Launch) : List Nat := if l.pull then [1] else l.extents.drop l.fixed

/-- The fields of the work identifier at a place in a stream. -/
def Launch.fields (l : Launch) (idx pos : Nat) : List Nat := digits l.outer idx ++ digits l.inner pos

/-- The unit of a level that holds a tile (R15, R177). -/
def unitAt (level n : Nat) : Nat :=
  match level with
  | 0 => 0
  | 1 => dieOf n
  | 2 => quadOf n
  | 3 => clusterOf n
  | _ => n

/-- The different numbers of a rising list. -/
def distinct : List Nat → List Nat
  | a :: b :: l => if a = b then distinct (b :: l) else a :: distinct (b :: l)
  | l => l

/-- A list of numbers in rising order. -/
def ascending (l : List Nat) : List Nat := l.foldl Keys.insert []

/-- The choice of a tile (R178), over the tiles U. -/
def chooseTile : List (Nat × Nat) → Nat → List Nat → Option Nat
  | [], wid, us => us[wid % us.length]?
  | (scope, v) :: fs, wid, us =>
    if scope = 5 then chooseTile fs wid us
    else
      let list := ascending (us.map (unitAt scope))
      match list[v % list.length]? with
      | some unit => chooseTile fs wid (us.filter (fun n => unitAt scope n == unit))
      | none => none

/-- The tiles of a launch, ascending: where its context is resident at the message that asks. R178 does not say whether they are
those of the launch's start. DESIGN CHOICE, log 98. -/
def State.launchTiles (s : State) (l : Launch) : List Nat :=
  ascending ((l.parts.flatMap s.partTiles).filter (fun n => s.resident n l.ctx))

/-- Fields with the serial ones zero. -/
def unserial (scopes fields : List Nat) : List Nat := (scopes.zip fields).map (fun q => if q.1 = 5 then 0 else q.2)

/-- The work identifier of a place, and its tile. R178 numbers the last choice by the whole work identifier, serial fields
included, and R179 sends work identifiers that differ only in serial fields to one tile: where U still holds several tiles,
the tile is the one that R178 gives the first of them, with serial fields zero. DEDUCED, log 79. -/
def State.target (s : State) (l : Launch) (idx pos : Nat) : Nat × Option Nat :=
  let fs := l.fields idx pos
  (packWid l.widths fs, chooseTile (l.scopes.zip fs) (packWid l.widths (unserial l.scopes fs)) (s.launchTiles l))

/-! ## Dispatch (R179, R345) -/

/-- A launch's dependency is over (R346), and stays over once the launch has sent. -/
def State.depOver (s : State) (l : Launch) : Bool :=
  l.begun || match l.dep with
  | none => true
  | some d => if d.1 = selfPackage then s.doneLaunch.contains d.2 else s.flushAcks.contains d

/-- The weight-load rule lets a launch send in a partition (R345): what its dispatcher started before it stands lower in the
slots. -/
def State.weightsAllow (s : State) (slot : Nat) (l : Launch) (p : Nat) : Bool :=
  s.launches.all (fun q => !decide (q.1 < slot) || q.2.complete || !q.2.parts.contains p || q.2.wload == l.wload ||
    (l.wload && l.begunIn.contains p))

/-- A begun stream's next message may go: to the stream's tile, which R179 makes one for the whole stream. -/
def State.streamMay (s : State) (slot : Nat) (l : Launch) (x : Stream) : Bool := !x.busy && s.weightsAllow slot l (quadOf x.tile)

/-- The message at a place may go: it has a tile, and the weight-load rule holds nothing back in that tile's partition. -/
def State.sendable (s : State) (slot : Nat) (l : Launch) (idx pos : Nat) : Bool :=
  match (s.target l idx pos).2 with
  | some n => s.weightsAllow slot l (quadOf n)
  | none => false

/-- What a launch does next: its next message in a begun stream, the first message of a stream or pull group, or a stream or
group passed over because its partition is held. -/
inductive Sending where
  | on (x : Stream) | first (idx : Nat) | pass (idx : Nat)
  deriving DecidableEq, Repr

/-- The next thing to send (R179): of a begun stream whose firing has ended, else of what was passed over, else the next
stream or group. -/
def State.sending (s : State) (slot : Nat) (l : Launch) : Option Sending :=
  match l.streams.find? (s.streamMay slot l) with
  | some x => some (.on x)
  | none =>
    match l.late.find? (fun i => s.sendable slot l i 0) with
    | some i => some (.first i)
    | none =>
      if product l.outer ≤ l.next then none
      else if s.sendable slot l l.next 0 then some (.first l.next)
      else if (s.target l l.next 0).2.isSome then some (.pass l.next)
      else none

/-- The dispatch message of a work identifier to a tile. DEDUCED, log 45. -/
def State.dispatchMsg (s : State) (slot : Nat) (l : Launch) (wid n : Nat) (payload : List Word) : Msg :=
  { ts := max l.ts (s.part (quadOf n)).floor, src := partTile (quadOf n) (s.part (quadOf n)).pager0, knd := 2, urg := l.urg, tag := l.tag
    wid := BitVec.ofNat 64 wid, payload := payload, ctx := l.ctx, dst := n, slot := some slot }

/-- The six words of the argument block. -/
def Launch.words (l : Launch) : List Word := (List.range 6).map (fun i => BitVec.ofNat 64 (fieldAt l.args (8 * i) 8))

/-- The layout of the context is set in a launch's partitions before its first message, and the acknowledgement that it
waited for is used. -/
def State.begin_ (s : State) (l : Launch) : State :=
  let s1 := match l.dep with
    | some d => s.useAck d
    | none => s
  l.parts.foldl (fun s p => s.setPart p { s.part p with layouts := Map.set (s.part p).layouts l.ctx l.widths }) s1

/-- Nothing more is to be sent. -/
def Launch.settle (l : Launch) : Launch :=
  { l with sentAll := decide (product l.outer ≤ l.next) && l.late.isEmpty && l.streams.isEmpty }

def State.putLaunch (s : State) (slot : Nat) (l : Launch) : State := { s with launches := Map.set s.launches slot l.settle }

/-- A launch's stream sends the message at a place to a tile. -/
def State.sendAt (s : State) (slot : Nat) (l : Launch) (idx pos n : Nat) : State × Stream :=
  let wid := packWid l.widths (l.fields idx pos)
  let s1 := if l.begun then s else s.begin_ l
  ({ s1 with net := s1.net ++ [s1.dispatchMsg slot l wid n l.words] }, { idx := idx, pos := pos, wid := wid, tile := n, busy := true })

/-- A stream after its message: it stays while it has more to send. -/
def Launch.keep (l : Launch) (x : Stream) : List Stream := if x.pos + 1 < product l.inner then [x] else []

/-- A launch whose stream or group at a place is taken up: the next one, or one that was passed over. -/
def Launch.take (l : Launch) (idx : Nat) : Launch :=
  { l with next := if idx = l.next then l.next + 1 else l.next, late := l.late.filter (fun i => i != idx) }

/-- A launch that has sent in a partition. -/
def Launch.sent (l : Launch) (p : Nat) : Launch :=
  { l with begun := true, begunIn := if l.begunIn.contains p then l.begunIn else l.begunIn ++ [p] }

/-- The tile of the first message of a stream or group. -/
def State.targetTile (s : State) (l : Launch) (idx : Nat) : Nat := (s.target l idx 0).2.getD 0

/-- A free counter of a context's range in a cluster: the lowest. -/
def State.idleCounter (s : State) (k ctx : Nat) : Option Nat :=
  match Map.get? (s.cluster k).shares ctx with
  | some q => ((List.range q.ctrLen).map (fun i => q.ctrLo + i)).find? (fun i =>
      match Map.get (s.cluster k).counters i .idle with
      | .idle => true
      | _ => false)
  | none => none

/-- A group of a pull launch: its counter is armed and each of the launch's tiles in the cluster has a message; while no
counter is free the dispatcher waits. -/
def State.sendGroup (s : State) (slot : Nat) (l : Launch) (idx : Nat) : Option State :=
  let q := s.target l idx 0
  let k := clusterOf (q.2.getD 0)
  (s.idleCounter k l.ctx).map (fun i =>
    let s1 := if l.begun then s else s.begin_ l
    let x := s1.cluster k
    let c := Counter.iter (l.extents.getLastD 0) (if l.minc = 0 then 1 else l.minc) 8 0 (some (slot, q.1))
    let s2 := s1.setCluster k { x with counters := Map.set x.counters i c }
    let pay := BitVec.ofNat 64 i :: l.words.drop 1
    { s2 with net := s2.net ++ ((s.launchTiles l).filter (fun t => clusterOf t == k)).map (fun t => s2.dispatchMsg slot l q.1 t pay) })

/-- What a launch sends of what is next. -/
def State.sendStep (s : State) (slot : Nat) (l : Launch) : Sending → State
  | .pass idx => s.putLaunch slot { l.take idx with late := l.late ++ [idx] }
  | .on x =>
    let r := s.sendAt slot l x.idx (x.pos + 1) x.tile
    r.1.putLaunch slot { l.sent (quadOf x.tile) with
      streams := l.streams.flatMap (fun z => if z.idx = x.idx then l.keep r.2 else [z]) }
  | .first idx =>
    let l1 := (l.take idx).sent (quadOf (s.targetTile l idx))
    if l.pull then
      match s.sendGroup slot l idx with
      | some s1 => s1.putLaunch slot l1
      | none => s
    else
      let r := s.sendAt slot l idx 0 (s.targetTile l idx)
      r.1.putLaunch slot { l1 with streams := l.streams ++ l.keep r.2 }

/-- A launch may send now: while no counter is free for a pull group, the dispatcher waits. -/
def State.maySend (s : State) (slot : Nat) (l : Launch) : Bool :=
  !l.sentAll && s.depOver l &&
    match s.sending slot l with
    | some (.first idx) => !l.pull || (s.idleCounter (clusterOf (s.targetTile l idx)) l.ctx).isSome
    | some _ => true
    | none => false

def execDispatchMessage (slot : Nat) (s : State) : Host.Outcome State Fault Refusal :=
  .next (match Map.get? s.launches slot with
    | some l => (match s.sending slot l with
      | some x => if s.maySend slot l then s.sendStep slot l x else s
      | none => s)
    | none => s)

/-! ## Completion (R180, R253) -/

def ofSlot (slot : Nat) (m : Msg) : Bool := m.slot == some slot

/-- Work of a launch slot on one tile: messages held for a rerun, or that a rerun has yet to pop, are queued ones (R163).
DEDUCED, log 46. -/
def Tile.slotWork (t : Tile) (n slot : Nat) : Bool :=
  (t.live n).any (fun l => l.f.slot == some slot || l.f.owed.any (fun q => ofSlot slot q.2)) ||
    t.ingress.any (ofSlot slot) || t.away.any (ofSlot slot) || t.deque.any (fun k => ofSlot slot k.msg) ||
    t.slots.any (fun o => match o with | some k => k.slot == some slot | none => false) ||
    t.ctxs.any (fun q =>
      let x := q.2
      x.unbound.any (ofSlot slot) || x.reruns.any (fun r => r.firing.slot == some slot || r.firing.holds.any (fun q => ofSlot slot q.2)) ||
        x.entries.any (fun e => e.2.queue.any (ofSlot slot) || (e.2.pend && e.2.pslot == some slot)) ||
        x.copies.any (fun k => k.slot == some slot) || x.compMsgs.any (fun m => ofSlot slot m.2))

def State.slotWork (s : State) (slot : Nat) : Bool :=
  s.net.any (ofSlot slot) || s.tiles.any (fun q => q.2.slotWork q.1 slot)

def execLaunchCompletion (slot : Nat) (s : State) : Host.Outcome State Fault Refusal :=
  match Map.get? s.launches slot with
  | some l =>
    if l.sentAll && !l.complete && !s.slotWork slot then
      let s1 : State := { s with launches := Map.set s.launches slot { l with complete := true } }
      let code := match l.term with | some c => c | none => 0
      .next (s1.finishRecord l.queue 1 (if l.term.isSome then 1 else 0) l.seq code (partMask l.parts))
    else .next s
  | none => .next s

/-! ## The deferred flush (R180, R346) -/

/-- A host sync waits for the flush of a launch. -/
def State.syncAsked (s : State) (queue seq : Nat) : Bool :=
  s.waits.any (fun w => match w with
    | .sync _ _ d => d == (selfPackage, queue, seq)
    | _ => false)

/-- A launch whose deferred flush is due. -/
def State.flushDue (s : State) (l : Launch) : Bool :=
  s.doneLaunch.contains (l.queue, l.seq) && !l.flushed &&
    (!(s.flushAsked l.queue l.seq).isEmpty || s.syncAsked l.queue l.seq)

/-- RELEASE_FLUSH. The lines already stand at their homes: the model keeps no copy of a line elsewhere. -/
def execReleaseFlush (slot : Nat) (s : State) : Host.Outcome State Fault Refusal :=
  match Map.get? s.launches slot with
  | some l =>
    if s.flushDue l then
      let s1 : State := { s with launches := Map.set s.launches slot { l with flushed := true } }
      .next (s1.acknowledge (s1.flushAsked l.queue l.seq))
    else .next s
  | none => .next s

/-- FLUSH_REQUEST: a peer asks for the flush of a launch of this package. -/
def execFlushRequest (src queue seq : Nat) (s : State) : Host.Outcome State Fault Refusal :=
  let s1 : State := { s with flushReqs := s.flushReqs ++ [(src, queue, seq)] }
  .next (if s.flushDone queue seq then s1.acknowledge (s1.flushAsked queue seq) else s1)

/-- FLUSH_ACKNOWLEDGEMENT: the launch that a peer ran has been flushed. -/
def execFlushAcknowledgement (pkg queue seq : Nat) (s : State) : Host.Outcome State Fault Refusal :=
  .next { s with flushAcks := s.flushAcks ++ [(pkg, queue, seq)] }

end Sys2Proof.Machine
end

