-- ==== Sys2Proof/Machine/Fabric.lean ====
section
/-! DEFINITION. Machine/Fabric.lean: what arrives over the links: window traffic of peers and the attempt numbers of collectives (R354, R355), and the ports themselves (R351, R389). -/

namespace Sys2Proof.Machine

/-! ## Exports and attempts (R352, R354, R355) -/

/-- The memory that an inbound unit reaches, or none where the ingress refuses it: for the reasons of R354, or because it
comes of the other world (R363). DEDUCED, log 77. -/
def State.exportPieces (s : State) (u : FabricUnit) (write : Bool) : Option (List Piece) :=
  let e := Map.get s.exps u.export_ 0
  let c := expCtx e
  if !e.getLsbD 63 || !e.getLsbD (if write then 62 else 61) || decide (expSize e < u.off + u.data.length) then none
  else if (s.info c).secure != u.secure then none
  else if u.attempt < s.attemptOf c u.group then none
  else match s.translateAll (s.info c) (if write then .wr else .rd) (pagePieces (expBase e + u.off) u.data.length) with
    | .ok ps => some ps
    | .error _ => none

/-- An accepted unit raises the attempt number to its own. DEDUCED, log 48. -/
def State.acceptAttempt (s : State) (c : Nat) (u : FabricUnit) : State :=
  if s.attemptOf c u.group < u.attempt then s.setAttempt c u.group u.attempt else s

/-- A refused unit goes back to its sender. -/
def State.dropUnit (s : State) (u : FabricUnit) : State := { s with outbound := s.outbound ++ [.dropNotice { u with src := selfPackage, pkg := u.src }] }

/-- A write that carries poison leaves its words poisoned (R379). -/
def State.poisonPieces (s : State) (ps : List Piece) : State :=
  { s with poison := ps.foldl (fun l p => (blocksOf 16 p.key p.n).foldl (fun l b => Keys.insert l (codeWord b)) l) s.poison }

def execFabricWrite (unit : FabricUnit) (s : State) : Host.Outcome State Fault Refusal :=
  let c := expCtx (Map.get s.exps unit.export_ 0)
  match s.exportPieces unit true with
  | none => .next (s.dropUnit unit)
  | some ps =>
    let keys := ps.map (fun p => (p.key, p.n))
    let s1 := ((s.acceptAttempt c unit).mergeRanges keys).writePieces (s.info c).keyId keys unit.data
    .next (if unit.poison then s1.poisonPieces ps else s1)

def execFabricReadRequest (unit : FabricUnit) (s : State) : Host.Outcome State Fault Refusal :=
  let c := expCtx (Map.get s.exps unit.export_ 0)
  match s.exportPieces unit false with
  | none => .next (s.dropUnit unit)
  | some ps =>
    let s1 := (s.acceptAttempt c unit).mergeRanges (ps.map (fun p => (p.key, p.n)))
    let bad := ps.any (fun p => (s1.poisoned p.key p.n).isSome)
    let bs := ps.flatMap (fun p => s1.readBytes (s.info c).keyId p.key p.n)
    .next { s1 with outbound := s1.outbound ++ [.readResponse { unit with src := selfPackage, pkg := unit.src, data := bs, poison := bad }] }

/-! ## What comes back to a copy (R252 to R254, R354) -/

/-- The copy of a push count on a tile, in the FIFO or saved, changed. -/
def State.onCopy (s : State) (n push : Nat) (f : Copy → Copy) : State :=
  let t := s.tile n
  let go (k : Copy) : Copy := if k.push = push then f k else k
  s.setTile n { t with slots := t.slots.map (fun o => o.map go)
                       ctxs := Map.mapKV (fun _ x => { x with copies := x.copies.map go }) t.ctxs }

/-- An outstanding unit is the one that has come back. -/
def Posted.isUnit (q : Posted) (u : FabricUnit) : Bool :=
  q.unit.tile == u.tile && q.unit.push == u.push && q.unit.off == u.off && q.unit.dst == u.dst

def dropFirst {α : Type} (p : α → Bool) : List α → List α
  | [] => []
  | a :: l => if p a then l else a :: dropFirst p l

/-- A copy's slot. -/
def Tile.slotOf (t : Tile) (push : Nat) : Option Nat :=
  t.slots.findIdx? (fun o => match o with
    | some k => k.push == push
    | none => false)

/-- A unit that a copy in its slot asked for, and for which it still waits: not stopped, not suspended. -/
def Copy.wants (k : Copy) (u : FabricUnit) : Bool := k.running && !k.moved && k.dstVa == u.dst

/-- A unit that came back is counted into the copy's progress; at a chunk's end the next one starts to wait. -/
def State.unitOver (s : State) (i : Nat) (u : FabricUnit) (k : Copy) : State :=
  s.setSlot u.tile i (some (if k.offset % 4096 = 0 then k.restart s.clk else k))

/-- What a response does for the copy that asked for it: its bytes are written, unless its attempt is stale (R355); poison
stops the copy (R379), and a page that has gone suspends it, to ask again. -/
def State.takeResponse (s : State) (i : Nat) (u : FabricUnit) (k : Copy) : State :=
  if u.attempt < s.attemptOf k.ctx u.group then s
  else if u.poison then s.setSlot u.tile i (some { k with stop := some Code.dataUnc })
  else match s.enginePieces u.tile k.ctx u.dst u.data.length .wr with
    | .error (x, va) => s.suspend u.tile i k x va true false
    | .ok dst =>
      let s1 := (s.acceptAttempt k.ctx u).engineLeases u.tile k u.dst dst
      let s2 := s1.engineWrite u.tile k dst ((spaceOf u.tile u.dst).1 == .global) u.data []
      (s2.countSync u.tile k u.data.length).unitOver i u (k.advance u.data.length)

/-- FABRIC_READ_RESPONSE. A response that no copy waits for any more changes nothing. -/
def execFabricReadResponse (unit : FabricUnit) (s : State) : Host.Outcome State Fault Refusal :=
  if !s.fabric.any (fun q => q.isUnit unit) then .next s
  else
    let s1 : State := { s with fabric := dropFirst (fun q => q.isUnit unit) s.fabric }
    .next (match (s1.tile unit.tile).slotOf unit.push with
      | none => s1
      | some i => (match (s1.tile unit.tile).copyAt i with
        | some k => if k.wants unit then s1.takeResponse i unit k else s1
        | none => s1))

/-- DROP_NOTICE: a dropped unit counts toward completion and not toward the bytes written. -/
def execDropNotice (unit : FabricUnit) (s : State) : Host.Outcome State Fault Refusal :=
  if s.posted.any (fun q => q.isUnit unit && !q.lost) then
    let s1 : State := { s with posted := dropFirst (fun q => q.isUnit unit && !q.lost) s.posted }
    .next (s1.onCopy unit.tile unit.push (fun k => { k with written := k.written - unit.data.length }))
  else if s.fabric.any (fun q => q.isUnit unit) then
    let s1 : State := { s with fabric := dropFirst (fun q => q.isUnit unit) s.fabric }
    .next (match (s1.tile unit.tile).slotOf unit.push with
      | none => s1
      | some i => (match (s1.tile unit.tile).copyAt i with
        | some k => if k.wants unit then s1.unitOver i unit (k.pass unit.data.length) else s1
        | none => s1))
  else .next s

/-- ABORT_TOKEN: it acts on the attempt number as a unit of its attempt does (R355). -/
def execAbortToken (ctx group attempt : Nat) (s : State) : Host.Outcome State Fault Refusal :=
  .next (if s.attemptOf ctx group < attempt then s.setAttempt ctx group attempt else s)

/-! ## Ports (R351, R359, R389) -/

def State.setPort (s : State) (p : Nat) (x : PortState) : State := { s with ports := Map.set s.ports p x }

/-- How long a port may retrain. -/
def retrainClk : Nat := 252000

/-- LINK_RETRAIN: an up port, or a down one that partition services retrain. A port that failed its training at bring-up is
absent until the next reset (R391, R393). -/
def execLinkRetrain (port : Nat) (s : State) : Host.Outcome State Fault Refusal :=
  match Map.get? s.ports port with
  | none => .next s
  | some (.retraining _) => .next s
  | some _ => .next (if port < 18 then s.setPort port (.retraining s.clk) else s)

/-- LINK_RETURN: within the time, nothing is lost. -/
def execLinkReturn (port : Nat) (s : State) : Host.Outcome State Fault Refusal :=
  match s.portState port with
  | .retraining since => .next (if s.clk ≤ since + retrainClk then s.setPort port .up else s)
  | _ => .next s

/-- A copy stops with LINK.DOWN, its n bytes on the port unwritten (R255, R351). -/
def Copy.cut (k : Copy) (n : Nat) : Copy := { k with stop := k.stop <|> some Code.linkDown, written := k.written - n }

/-- A port's units are lost: each copy that has one stops with LINK.DOWN, and writes of firings stay for the fence that
reports them (R200). -/
def State.loseUnits (s : State) (p : Nat) : State :=
  let on (l : List Posted) (n : Posted → Nat) (s : State) : State :=
    (l.filter (fun q => q.port == p && !q.lost)).foldl (fun s q => s.onCopy q.unit.tile q.unit.push (fun k => k.cut (n q))) s
  let s1 := on s.fabric (fun _ => 0) (on s.posted (fun q => q.unit.data.length) s)
  { s1 with posted := (s1.posted.filter (fun q => q.port != p || q.owner.isSome)).map
              (fun q => if q.port = p then { q with lost := true } else q)
            fabric := s1.fabric.filter (fun q => q.port != p) }

/-- PORT_DOWN: the time is over. -/
def execPortDown (port : Nat) (s : State) : Host.Outcome State Fault Refusal :=
  match s.portState port with
  | .retraining since => .next (if since + retrainClk < s.clk then (s.setPort port .down).loseUnits port else s)
  | _ => .next s

/-- The unit of a link (R389): the Moatal Link ports are 0 to 17, the CXL link 18, and the links between the dies follow. -/
def linkUnit (port : Nat) : Nat := if port < 18 then 0x0D else if port = 18 then 0x0E else 0x10

/-- FLIT_RETRY: a record, and nothing else. -/
def execFlitRetry (port : Nat) (s : State) : Host.Outcome State Fault Refusal :=
  .next (s.postError none
    { cls := clsFlit, unit := linkUnit port, part := 0, who := 0, syn := 6, addr := 0, frame := 0, pc := 0 })

end Sys2Proof.Machine
end

