-- ==== Sys2Proof/Machine/Partitions.lean ====
section
/-! DEFINITION. Machine/Partitions.lean: partitions and their scrub (R360, R361), fusion (R238, R239, R362), and the
registration and residence of contexts (R25, R276, R280, R325, R363, R364). -/

namespace Sys2Proof.Machine

/-! ## Ranges of memory -/

/-- The scratchpad images of the tiles of a partition. -/
def State.clearScratch (s : State) (p : Nat) : State :=
  let inside (a : Nat) : Bool := keyKind a == 2 && quadOf (a % 2 ^ 64 / 2 ^ 18 % 4096) == p
  { s.cleanse inside with mem := s.mem.filter (fun q => !inside q.1), tags := s.tags.filter (fun a => !inside a) }

/-- The clusters of a partition. -/
def partClusters (p : Nat) : List Nat := (List.range 320).filter (fun k => clusterPart k == p)

/-! ## PART registers (R360, R361) -/

def partStateCode : PartState → Nat
  | .free => 0 | .scrubbing => 1 | .assigned => 2 | .releasing => 3

/-- The moves of STATE along the cycle of R361, which leaves the scrub of an assignment for 10 and that of a release for 00, and
a write that leaves STATE as it is (R360). -/
def partMove (st : PartState) (toFree : Bool) (code : Nat) : Option PartState :=
  if code = partStateCode st then some st
  else match st, code with
    | .free, 1 => some .scrubbing
    | .scrubbing, 2 => if toFree then none else some .assigned
    | .assigned, 3 => some .releasing
    | .releasing, 1 => some .scrubbing
    | .scrubbing, 0 => if toFree then some .free else none
    | _, _ => none

/-- A split is asked for in every member of a fused group (R362). -/
def State.askSplit (s : State) (p : Nat) : State :=
  if s.torus p = 0 then s
  else (s.group p).foldl (fun s q => s.setPart q { s.part q with split := true }) s

/-! ## The scrub (R361) -/

/-- Tiles and clusters of a partition as the scrub leaves them. DEDUCED, log 53. -/
def State.scrubUnits (s : State) (p : Nat) : State :=
  let s1 := (s.partTiles p).foldl (fun s n =>
    s.setTile n { s.tile n with matrix := Matrix.reset, torcfg := ownTorcfg n, accown := 0, horizon := 0, updates := [] }) s
  let s2 := (partClusters p).foldl (fun s k => s.setCluster k Cluster.reset) s1
  s2.cleanse (fun w => (keyKind w == 9 && quadOf (w % 2 ^ 64 / 16 / 4) == p) || (keyKind w == 11 && quadOf (w % 2 ^ 64 / 16) == p) ||
    (keyKind w == 10 && clusterPart (w % 2 ^ 64 / 16 / 512) == p))

/-- Held updates to a range of keys are gone. -/
def State.dropUpdates (s : State) (lo n : Nat) : State :=
  { s with tiles := Map.mapKV (fun _ t =>
      { t with updates := t.updates.filter (fun u => !(decide (lo ≤ u.1) && decide (u.1 < lo + n))) }) s.tiles }

/-- The memories of a partition, with updates on their way to them, and the leases of walks that end in its frames. -/
def State.scrubMemory (s : State) (p : Nat) : State :=
  let s1 := ((s.dropUpdates (p * quadBytes) quadBytes).clearKeys (p * quadBytes) quadBytes).clearKeys (keyWs p 0) (2 ^ 28)
  let s2 := (partClusters p).foldl (fun s k => s.clearKeys (keyCmem k 0) (2 ^ 22)) s1
  let s3 := s2.clearScratch p
  { s3 with leases := s3.leases.filter (fun l => peHost l.entry || peFrame l.entry * 65536 / quadBytes != p) }

/-- The scrub of a partition, and its register after it: assigned, or free after a release. -/
def State.scrubbed (s : State) (part : Nat) (q : Partition) (free : Bool) : State :=
  let s1 := (s.scrubMemory part).scrubUnits part
  s1.setPart part (
    if free then { q with st := .free, tenant := 0, quar := [], floor := 0, layouts := [], split := false, checkpt := none
                          toFree := false }
    else { q with st := .assigned, quar := [], floor := 0, layouts := [], toFree := false })

/-- SCRUB: memory and units of a partition are zeroed; it is then assigned, or free after a release. -/
def execScrub (part : Nat) (s : State) : Host.Outcome State Fault Refusal :=
  let p := s.part part
  if p.st ≠ .scrubbing then .next s else .next (s.scrubbed part p p.toFree)

/-! ## Deregistration and release (R361) -/

/-- What is on its way to a context on the tiles of a partition. -/
def boundFor (c p : Nat) (m : Msg) : Bool := m.ctx == c && quadOf m.dst == p

/-- A context leaves the tiles and clusters of a partition. -/
def State.evict (s : State) (c p : Nat) : State :=
  let s0 : State := { s with net := s.net.filter (fun m => !boundFor c p m) }
  let s1 := (s0.partTiles p).foldl (fun s n =>
    let t := s.tile n
    s.setTile n { t with loaded := if t.loaded = some c then none else t.loaded, ctxs := Map.drop t.ctxs c
                         slots := t.slots.map (fun o => match o with
                           | some k => if k.ctx = c then none else some k
                           | none => none)
                         deque := t.deque.filter (fun k => k.msg.ctx != c)
                         ingress := t.ingress.filter (fun m => m.ctx != c), away := t.away.filter (fun m => m.ctx != c) }) s0
  (partClusters p).foldl (fun s k =>
    let x := s.cluster k
    match Map.get? x.shares c with
    | some q => s.setCluster k { x with
        shares := Map.drop x.shares c
        counters := x.counters.filter (fun y => !(decide (q.ctrLo ≤ y.1) && decide (y.1 < q.ctrLo + q.ctrLen)))
        barriers := x.barriers.filter (fun y => !(decide (q.barLo ≤ y.1) && decide (y.1 < q.barLo + q.barLen)))
        rounds := x.rounds.filter (fun r => r.ctx != c) }
    | none => s) s1

/-- The anchors of a context's capsules are painted and a sweep of it opens, as at a release (R317). -/
def State.paintCapsules (s : State) (c : Nat) : State :=
  let mine := (s.capsules.filter (fun q => q.2.ctx == c)).map (fun q => q.1)
  if mine.isEmpty then s
  else
    let s1 := (s.paint (mine.map keyAnchor) true).openSweep c
    { s1.1 with capsules := Map.mapKV (fun _ k => if k.ctx = c then { k with released := true } else k) s1.1.capsules }

/-- Launches of a context that no tile of its partitions can take any more have sent all they will. -/
def State.stopLaunches (s : State) (c : Nat) : State :=
  { s with launches := Map.mapKV (fun _ l =>
      if l.ctx = c && !s.tiles.any (fun t => l.parts.contains (quadOf t.1) && (Map.get? t.2.ctxs c).isSome) then
        { l with sentAll := true } else l) s.launches }

/-- A record that waits on a queue of a context. -/
def State.waitsFor (s : State) (c : Nat) : Waiting → Bool
  | .sync q _ _ => (s.queue q).ctx == c
  | .relRange q _ _ => (s.queue q).ctx == c
  | .capRel q _ _ => (s.queue q).ctx == c

/-- A context is no longer registered in a partition, and in its last one no longer at all: its bindings end, its capsules are
released (R316, R317), and what waits for it is gone: records of its queues, and full records of its errors (R373). DEDUCED, log 51. -/
def State.deregister (s : State) (p c : Nat) : State :=
  match Map.get? s.contexts c with
  | none => s
  | some x =>
    let s1 := (s.evict c p).stopLaunches c
    let parts := x.info.parts.filter (fun q => q != p)
    if !parts.isEmpty then
      { s1 with contexts := Map.set s1.contexts c { x with info := { x.info with parts := parts } } }
    else
      let s2 := s1.paintCapsules c
      { s2 with contexts := Map.drop s2.contexts c, binds := s2.binds.filter (fun b => b.ctx != c)
                waits := s2.waits.filter (fun w => !s2.waitsFor c w), fullRecs := s2.fullRecs.filter (fun q => q.1 != c) }

/-- No firing of a releasing partition is live, and its fusion is split. -/
def State.releaseDue (s : State) (p : Nat) : Bool :=
  (s.part p).st == .releasing && s.torus p == 0 && (s.live p).isEmpty

/-- Every context of a partition is deregistered there, and the release scrub is to come. -/
def State.releasePart (s : State) (part : Nat) : State :=
  let cs := (s.contexts.filter (fun q => q.2.info.parts.contains part)).map (fun q => q.1)
  let s1 := cs.foldl (State.deregister · part ·) s
  s1.setPart part { s1.part part with st := .scrubbing, toFree := true }

def execPartitionRelease (part : Nat) (s : State) : Host.Outcome State Fault Refusal :=
  if s.releaseDue part then .next (s.releasePart part) else .next s

/-! ## PART writes (R360) -/

/-- The register's contents after a write that is not ignored. -/
def Partition.written (p : Partition) (value : Word) : Partition :=
  let v := value.toNat
  { p with world := value.getLsbD 61, shape := bitsOf v 56 2, fbase := bitsOf v 50 6, tenant := bitsOf v 32 16
           pager0 := bitsOf v 24 6, pager1 := bitsOf v 16 6 }

/-- PART_WRITE: the register is written whole, or the write is ignored. A release forces the split of its fused group, which its
torus tells and no field of the register. A write that moves STATE on from scrubbing ends the scrub with it: no byte of a tenant
is left. One that asks for the scrub of a release has it once no firing is live and the fusion is split, as R361 orders: until
then STATE stays 11. DESIGN CHOICE, log 50. -/
def execPartWrite (part : Nat) (value : Word) (s : State) : Host.Outcome State Fault Refusal :=
  let p := s.part part
  let v := value.toNat
  let p0 := bitsOf v 24 6
  let p1 := bitsOf v 16 6
  match partMove p.st p.toFree (bitsOf v 62 2) with
  | none => .next s
  | some st =>
    if 40 ≤ part ∨ p.absent ∨ p0 = p1 ∨ !s.tileExists (partTile part p0) ∨ !s.tileExists (partTile part p1) then .next s
    else if st = p.st then .next (s.setPart part (p.written value))
    else match st with
      | .releasing =>
        let s1 := s.askSplit part
        let q := s1.part part
        .next (s1.setPart part { q.written value with st := .releasing })
      | .scrubbing =>
        if p.st = .releasing ∧ !s.releaseDue part then .next (s.setPart part (p.written value))
        else
          let s1 := if p.st = .releasing then s.releasePart part else s
          let q := s1.part part
          .next (s1.setPart part { q.written value with st := .scrubbing })
      | .assigned => .next (s.scrubbed part (p.written value) false)
      | .free => .next (s.scrubbed part (p.written value) true)

/-! ## Fusion (R238, R239, R362) -/

/-- The tile at a row and column of a fused torus. -/
def fusedTile (ms : List (List Nat)) (r c : Nat) : Nat :=
  partTile ((ms.getD (r / 8) []).getD (c / 8) 0) (r % 8 * 8 + c % 8)

/-- TORCFG of that tile. -/
def fusedTorcfg (shape : Nat) (ms : List (List Nat)) (r c : Nat) : Word :=
  let rows := 8 * ms.length
  let cols := 8 * (ms.headD []).length
  BitVec.ofNat 64 (fusedTile ms ((r + rows - 1) % rows) c * 2 ^ 36 + fusedTile ms r ((c + cols - 1) % cols) * 2 ^ 24 +
    shape * 2 ^ 18 + r * 16 + c)

/-- A matrix queue holds an MROT. -/
def Matrix.hasMrot (m : Matrix) : Bool := m.queue.any (fun c => c.opc == opMrot)

/-- An MROT is queued on some tile of a list of partitions, in a unit or saved. -/
def State.mrotQueued (s : State) (ps : List Nat) : Bool :=
  s.tiles.any (fun q => ps.contains (quadOf q.1) && (q.2.matrix.hasMrot || q.2.ctxs.any (fun x => x.2.matrix.hasMrot)))

/-- Members that may fuse. DEDUCED, log 52. -/
def State.mayFuse (s : State) (ps : List Nat) : Bool :=
  match ps with
  | [] => false
  | p :: _ => ps.all (fun q => decide (q < 40) && (s.part q).st == .assigned && (s.part q).tenant == (s.part p).tenant &&
      (s.part q).world == (s.part p).world && s.torus q == 0 && !(s.part q).split)

/-- FUSION: along a listed edge, with no MROT queued on any tile of the group. -/
def execFusion (shape base : Nat) (s : State) : Host.Outcome State Fault Refusal :=
  let ms := fusedMembers shape base
  let ps := ms.flatten
  if s.mayFuse ps && !s.mrotQueued ps then
    let s1 := (List.range (8 * ms.length)).foldl (fun s r =>
      (List.range (8 * (ms.headD []).length)).foldl (fun s c =>
        let n := fusedTile ms r c
        s.setTile n { s.tile n with torcfg := fusedTorcfg shape ms r c }) s) s
    .next (ps.foldl (fun s q => s.setPart q { s.part q with shape := shape, fbase := base }) s1)
  else .next s

/-- A fused group goes back to its own tori. -/
def State.unfuse (s : State) (ps : List Nat) : State :=
  ps.foldl (fun s q =>
    let s1 := ((List.range 64).map (partTile q)).foldl (fun s n => s.setTile n { s.tile n with torcfg := ownTorcfg n }) s
    s1.setPart q { s1.part q with shape := 0, fbase := q, split := false }) s

/-- SPLIT: the request, and the split itself once no MROT is queued on any tile of the group. -/
def execSplit (part : Nat) (s : State) : Host.Outcome State Fault Refusal :=
  if s.torus part = 0 then .next s
  else
    let ps := s.group part
    let s1 := s.askSplit part
    .next (if s1.mrotQueued ps then s1 else s1.unfuse ps)

/-! ## Contexts (R25, R276, R280, R325, R363, R364) -/

/-- Contexts share an ASID only with a tenant, world and root in common, and a key ID only with a tenant in common. -/
def sharesRight (a b : RegInfo) : Bool :=
  (a.asid != b.asid || (a.tenant == b.tenant && a.secure == b.secure && a.root == b.root)) &&
  (a.keyId != b.keyId || a.tenant == b.tenant)

/-- A data capability that Halo may give as c1 (R27, R96, R310): made as a capability is, unsealed, over no byte of the code
region. DEDUCED, log 54. -/
def goodData (i : RegInfo) : Bool :=
  let c := i.data
  !c.tag || (c.wellMade && !c.sealed && decide (c.top ≤ codeBase))

/-- A root table that the context's walks may start from: its frame is one that the tenant owns, of the context's world, and no
device-private one (R327, R363). -/
def State.goodRoot (s : State) (i : RegInfo) : Bool :=
  s.tenantFrame i.tenant i.secure (65536 * i.root) && !isQuiescence (65536 * i.root)

/-- A context may be registered with what Halo and partition services give it. DEDUCED, log 54. -/
def State.mayRegister (s : State) (c : Nat) (i : RegInfo) : Bool :=
  let k := Map.get s.keys i.keyId 0
  decide (c < 4096) && (Map.get? s.contexts c).isNone && !i.parts.isEmpty && decide (i.asid < 4096) && decide (i.keyId < 4096) &&
    i.parts.all (fun p => decide (p < 40) && (s.part p).st == .assigned && (s.part p).world == i.secure &&
      (s.part p).tenant == i.tenant) &&
    s.contexts.all (fun q => sharesRight i q.2.info) && s.goodRoot i &&
    k.getLsbD 62 == i.secure && bitsOf k.toNat 32 16 == i.tenant && goodData i

/-- EDGEBUD at reset: WEIGHT 1 (R357). -/
def edgebudReset : Word := BitVec.ofNat 64 (2 ^ 56)

def Context.fresh (i : RegInfo) : Context :=
  { info := i, tvec := Cap.null, table := [], edgebud := edgebudReset, left := 0, period := 0, attempts := [] }

/-- CONTEXT_REGISTRATION: the context's table is empty, its scratchpad images zero. -/
def execContextRegistration (ctx : Nat) (info : RegInfo) (s : State) : Host.Outcome State Fault Refusal :=
  if s.mayRegister ctx info then
    let s1 := s.clearKeys (keyScratch ctx 0 0) (4096 * 2 ^ 18)
    .next { s1 with contexts := Map.set s1.contexts ctx (Context.fresh info) }
  else .next s

/-- Two ranges of units that do not overlap. -/
def apart (a n b m : Nat) : Bool := n == 0 || m == 0 || !overlaps a n b m

/-- A context's share of a cluster. -/
def ResInfo.cluster (r : ResInfo) : ClusterShare :=
  { ctrLo := r.ctrLo, ctrLen := r.ctrLen, barLo := r.barLo, barLen := r.barLen, cmemOff := r.cmemOff, cmemLen := r.cmemLen }

def goodShare (q : ClusterShare) : Bool :=
  decide (q.ctrLo + q.ctrLen ≤ 256) && decide (q.barLen ≤ 16) && decide (q.barLo + q.barLen ≤ 64) &&
    q.cmemOff % 65536 == 0 && q.cmemLen % 65536 == 0 && decide (q.cmemOff + q.cmemLen ≤ 2 ^ 22)

def sharesApart (a b : ClusterShare) : Bool :=
  apart a.ctrLo a.ctrLen b.ctrLo b.ctrLen && apart a.barLo a.barLen b.barLo b.barLen &&
    apart a.cmemOff a.cmemLen b.cmemOff b.cmemLen

/-- A save area lies in device-private HBM of a partition, clear of the quiescence frame and of every other save area (R276,
R280). -/
def State.goodArea (s : State) (p a : Nat) : Bool :=
  a % 16 == 0 && decide (p * quadBytes + s.usable p ≤ a) && decide (a + saveAreaSize + 65536 ≤ (p + 1) * quadBytes) &&
    s.tiles.all (fun t => t.2.ctxs.all (fun q => !overlaps a saveAreaSize q.2.saveAddr saveAreaSize))

/-- Halo runs on a tile that the part offers, from step 6 of bring-up on (R393). -/
def State.haloRuns (s : State) (n : Nat) : Bool := s.tileExists n && decide (7 ≤ s.status.stage)

/-- What Halo may assign (R276): the context's share of a cluster is the same on each of its tiles there.
DEDUCED, log 54. -/
def State.mayReside (s : State) (n c : Nat) (r : ResInfo) : Bool :=
  let t := s.tile n
  let k := s.cluster (clusterOf n)
  (match Map.get? s.contexts c with
    | some x => x.info.parts.contains (quadOf n)
    | none => false) &&
  s.haloRuns n && !s.resident n c && decide (t.ctxs.length < 8) && decide (16 ≤ r.share) &&
    decide ((t.ctxs.map (fun q => q.2.share)).foldl (· + ·) r.share ≤ 1024) &&
    goodShare (ResInfo.cluster r) && s.goodArea (quadOf n) r.saveAddr &&
    (match Map.get? k.shares c with
      | some q => q == ResInfo.cluster r
      | none => k.shares.all (fun q => sharesApart (ResInfo.cluster r) q.2))

/-- The messages that Halo held for a context on a tile while it was not resident there go to its unbound queue (R158, R160),
and from there to the entries that take them. -/
def State.takeAway (s : State) (n c : Nat) : State :=
  let t := s.tile n
  let mine := t.away.filter (fun m => m.ctx == c)
  let x := t.tctx c
  let s1 := s.setTile n ({ t with away := t.away.filter (fun m => m.ctx != c) }.setTctx c { x with unbound := x.unbound ++ mine })
  ((mine.map (fun m => m.tag)).eraseDups).foldl (fun s tag => s.deliverUnbound n c tag) s1

/-- The placement slots of a context's present bindings on one tile, in the order of the bindings (R316). -/
def State.placeBindings (s : State) (n c : Nat) : State :=
  (s.binds.filter (fun b => b.ctx == c)).foldl (fun s b =>
    match Map.get? s.capsules b.capsule with
    | some k => s.placeOn k b.capsule c b.params n
    | none => s) s

/-- MAKE_RESIDENT: the context's save area as registered, its entries and placement slots as its table and its bindings have
them, and the messages that Halo held for it. -/
def execMakeResident (tile ctx : Nat) (info : ResInfo) (s : State) : Host.Outcome State Fault Refusal :=
  if s.mayReside tile ctx info then
    let s1 := s.setTctxOf tile ctx { TileCtx.reset with share := info.share, saveAddr := info.saveAddr }
    let s1 := (s1.writeSaveArea tile ctx).writeAccArea tile ctx Matrix.reset
    let k := s1.cluster (clusterOf tile)
    let s2 := s1.setCluster (clusterOf tile) { k with shares := Map.set k.shares ctx (ResInfo.cluster info) }
    let table := match Map.get? s2.contexts ctx with
      | some x => x.table
      | none => []
    .next (((table.foldl (fun s q => s.rewriteOn tile ctx q.1 q.2) s2).takeAway tile ctx).placeBindings tile ctx)
  else .next s

end Sys2Proof.Machine
end

