-- ==== Sys2Proof/Machine/Services.lean ====
section
/-! DEFINITION. Machine/Services.lean: what partition services do at the request of tenants: memory keys (R364, R365),
reports (R370, R372), firmware (R318, R371), checkpoints and restores (R374, R375). -/

namespace Sys2Proof.Machine

/-! ## Keys (R364) -/

/-- A key that no slot holds: the key that a changed slot has lost. -/
def lostKey : Nat := 4096

/-- The key pair that a channel chunk brings: its first 64 bytes. -/
def materialOf (plain : List Byte) : Nat := ofBytes (plain.take 64)

/-- What was written under a slot's key is readable no more. -/
def State.loseKey (s : State) (slot : Nat) : State :=
  { s with lineKeys := Map.mapKV (fun _ k => if k = slot then lostKey else k) s.lineKeys }

/-- A slot's register, whose key is lost with VALID. -/
def State.setKeySlot (s : State) (slot : Nat) (value : Word) : State :=
  let s1 : State := { s with keys := Map.set s.keys slot (mixBits (mixBits 0 value 32 16) value 62 2) }
  if value.getLsbD 63 then s1
  else { s1.loseKey slot with keyMat := Map.drop s1.keyMat slot }

/-- What a write that brings no key leaves of a slot's word: VALID stands only while the slot holds a key, and a key stays its
tenant's and its world's (R364). -/
def State.keyWord (s : State) (slot : Nat) (value : Word) : Word :=
  let old := Map.get s.keys slot 0
  if (Map.get? s.keyMat slot).isSome ∧ bitsOf old.toNat 32 16 = bitsOf value.toNat 32 16 ∧ old.getLsbD 62 = value.getLsbD 62 then value
  else mixBits value 0 63 1

/-- Key material put in a slot: a key that differs from the slot's own makes what was written under that one unreadable. -/
def State.setMaterial (s : State) (slot m : Nat) : State :=
  if Map.get? s.keyMat slot = some m then s
  else { s.loseKey slot with keyMat := Map.set s.keyMat slot m }

/-- The tenant whose context owns a channel: none while no such context is registered. -/
def State.chanTenant (s : State) (ch : Nat) : Option Nat :=
  (Map.get? s.contexts (chCtx (s.chan ch).ctrl)).map (fun x => x.info.tenant)

/-- KEY_WRITE: a slot whose ID no registered context holds, with the chunk in which the slot's tenant sends its key. A chunk
of another tenant's channel, or one whose tag fails, changes no slot. DEDUCED, log 55. -/
def execKeyWrite (slot : Nat) (write : KeyWrite) (s : State) : Host.Outcome State Fault Refusal :=
  if 4096 ≤ slot ∨ s.contexts.any (fun q => q.2.info.keyId == slot) then .next s
  else match write.material with
    | none => .next (s.setKeySlot slot (s.keyWord slot write.value))
    | some c =>
      if s.chanTenant c.chan ≠ some (bitsOf write.value.toNat 32 16) ∨ !write.value.getLsbD 63 then .next s
      else match s.acceptChunk c with
        | (s1, none) => .next s1
        | (s1, some plain) => .next ((s1.setKeySlot slot write.value).setMaterial slot (materialOf plain))

/-! ## Reports (R370, R372) -/

/-- A measurement register extended with a digest: SHA-256(MR ‖ d). -/
def extendMr (mr d : BitVec 256) : BitVec 256 := digestOf (toBytes 32 mr.toNat ++ toBytes 32 d.toNat)

/-- Exactly n bytes. -/
def sized (n : Nat) (bs : List Byte) : List Byte := bs.take n ++ List.replicate (n - bs.length) 0

/-- The partitions of a tenant, as a mask. -/
def State.tenantMask (s : State) (tenant : Nat) : Nat :=
  partMask ((List.range 40).filter (fun p => (s.part p).st == .assigned && (s.part p).tenant == tenant))

/-- Bytes 0x000 to 0x17F of a report for a channel. -/
def State.reportBody (s : State) (ch : Nat) (nonce : List Byte) : List Byte :=
  let i := s.info (chCtx (s.chan ch).ctrl)
  toBytes 4 1 ++ toBytes 1 generation ++ toBytes 1 Config.stepping ++ toBytes 2 0 ++ sha256 Config.identityKey ++
    s.mr.toList.flatMap (fun m => toBytes 32 m.toNat) ++ nonce ++ toBytes 8 (s.tenantMask i.tenant) ++
    toBytes 2 i.tenant ++ toBytes 1 (bit i.secure) ++ toBytes 1 0 ++ sha256 (Config.channelKey ch) ++ toBytes 12 0

/-- The bytes of a report: its body and the signature over it. -/
def State.report (s : State) (ch : Nat) (nonce : List Byte) : List Byte :=
  let body := s.reportBody ch nonce
  body ++ sized 7856 (Config.reportSignature body)

/-- The chunks of one part of a tenant's request, all of its channel. -/
def State.acceptOn (s : State) (ch : Nat) (cs : List Chunk) : State × Option (List Byte) :=
  if cs.all (fun c => c.chan == ch) then s.acceptChunks cs else (s, none)

/-- REPORT_REQUEST: a chunk of a registered context's channel brings the nonce, its first 32 bytes; the signed report returns
through the same channel. -/
def execReportRequest (chan : Nat) (request : Chunk) (s : State) : Host.Outcome State Fault Refusal :=
  if (s.chanTenant chan).isNone then .next s
  else match s.acceptOn chan [request] with
    | (s1, none) => .next s1
    | (s1, some plain) =>
      let r := s1.report chan (plain.take 32)
      .next ({ s1 with reports := s1.reports ++ [(chan, r)] }.sendBytes chan r)

/-! ## Firmware (R318, R371) -/

/-- No firing is live in a partition. -/
def State.quiet (s : State) (p : Nat) : Bool := (s.live p).isEmpty

/-- FIRMWARE_INSTALL of installer firmware through a partition: the rollback counter rises, MR2 is extended, and every body of
another installer is void. DEDUCED, log 56. -/
def execFirmwareInstall (part : Nat) (firmware : Firmware) (s : State) : Host.Outcome State Fault Refusal :=
  if Config.firmwareSigned firmware.image firmware.version && decide (s.rollback ≤ firmware.version) && s.quiet part then
    let d := digestOf firmware.image
    .next { s with
      rollback := firmware.version, instMeas := d, mr := s.mr.set 2 (extendMr s.mr[2] d)
      capsules := Map.mapKV (fun _ k => if k.meas = d then k else { k with void := true }) s.capsules }
  else .next s

/-! ## Checkpoints (R374) -/

/-- A firing of a tenant's contexts is live in a partition, or anywhere. -/
def State.tenantLive (s : State) (tenant : Nat) (p : Nat) : Bool :=
  (s.live p).any (fun l => (s.info l.ctx).tenant == tenant)

/-- The contexts registered in a partition. -/
def State.contextsIn (s : State) (p : Nat) : List (Nat × Context) :=
  s.contexts.filter (fun q => q.2.info.parts.contains p)

/-- The 64 KiB pages of a leaf: virtual and physical addresses. -/
def pagesOf (l : Nat × Nat × Nat) : List (Nat × Nat) :=
  (List.range (l.2.2 / 65536)).map (fun i => (l.1 + 65536 * i, peFrame l.2.1 * 65536 + 65536 * i))

/-- The pages that a context maps in a partition's HBM. -/
def State.shard (s : State) (p : Nat) (i : RegInfo) : List (Nat × Nat) :=
  (((s.leaves i).filter (fun l => !peHost l.2.1)).flatMap pagesOf).filter (fun q => q.2 / quadBytes == p)

/-- Bits packed eight to a byte, the first lowest. -/
def packBits : List Bool → List Byte
  | a :: b :: c :: d :: e :: f :: g :: h :: l =>
    BitVec.ofNat 8 (bit a + bit b * 2 + bit c * 4 + bit d * 8 + bit e * 16 + bit f * 32 + bit g * 64 + bit h * 128) :: packBits l
  | _ => []

/-- The indexes of the bits that are set in a bitmap of n. -/
def setBits (bitmap : List Byte) (n : Nat) : List Nat :=
  (List.range n).filter (fun i => (bitmap.getD (i / 8) 0).getLsbD (i % 8))

/-- The key by which a line is read for several contexts of one address space: the line's own where it is one of theirs. -/
def State.keyAmong (s : State) (keys : List Nat) (line : Nat) : Nat :=
  let k := Map.get s.lineKeys line deviceKey
  if keys.contains k then k else keys.headD 0

/-- A block: a page's bytes and its tag bitmap, with every capability through the filter. Each line is read by the key of a
context of the page's address space that has it. -/
def State.blockOf (s : State) (ctx : Nat) (keys : List Nat) (pa : Nat) : List Byte :=
  let lines := (List.range 1024).map (fun j => pa / 64 + j)
  let bs := lines.flatMap (fun l => s.readBytes (s.keyAmong keys l) (64 * l) 64)
  let kept (g : Nat) : Bool :=
    let k := s.keyAmong keys (g / 64)
    s.tagFor k g && (s.filterCap ctx (Cap.ofBytes true (ofBytes (s.readBytes k g 16)))).tag
  bs ++ packBits ((List.range 4096).map (fun j => kept (pa + 16 * j)))

/-- The key IDs of a partition's contexts of one address space. -/
def State.spaceKeys (s : State) (p asid : Nat) : List Nat :=
  ((s.contextsIn p).filter (fun q => q.2.info.asid == asid)).map (fun q => q.2.info.keyId)

/-- A checkpoint so far: digests written, manifest entries, blocks. -/
structure Shard where
  digests  : List Nat
  manifest : List (Nat × Nat)
  blocks   : List (List Byte)
  deriving DecidableEq, Repr

/-- A block's entry of the manifest: its ASID in bits 59:48 over its virtual address. -/
def blockName (asid va : Nat) : Nat := asid * 2 ^ 48 + va % 2 ^ 48

/-- One block added: written only where the replica list and the blocks written so far lack its digest. -/
def Shard.add (a : Shard) (replicas : List Nat) (va : Nat) (block : List Byte) : Shard :=
  let d := (digestOf block).toNat
  let a1 : Shard := { a with manifest := a.manifest ++ [(va, d)] }
  if replicas.contains d || a.digests.contains d then a1
  else { a1 with digests := d :: a.digests, blocks := a.blocks ++ [block] }

/-- A page of a shard: its virtual address, its place, and a context that maps it. -/
structure ShardPage where
  va  : Nat
  pa  : Nat
  ctx : Nat
  deriving DecidableEq, Repr

/-- A page put in its place by ascending virtual address. -/
def insertPage (q : ShardPage) : List ShardPage → List ShardPage
  | [] => [q]
  | p :: l => if q.va < p.va then q :: p :: l else p :: insertPage q l

/-- One context of each address space. -/
def oneByAsid : List (Nat × Context) → List (Nat × Context)
  | [] => []
  | q :: l => q :: (oneByAsid l).filter (fun r => r.2.info.asid != q.2.info.asid)

/-- The pages of a partition's shard in ascending virtual address. -/
def State.shardPages (s : State) (p : Nat) : List ShardPage :=
  let ps := (oneByAsid (s.contextsIn p)).flatMap (fun q =>
    (s.shard p q.2.info).map (fun v => { va := v.1, pa := v.2, ctx := q.1 : ShardPage }))
  ps.foldl (fun l q => insertPage q l) []

/-- The tiles of a partition on which a context is resident. -/
def State.homesIn (s : State) (c p : Nat) : List Nat := (s.homesOf c).filter (fun n => quadOf n == p)

/-- A save area's image with its tag bitmap, every capability through the filter, after the context and tile that it is of. -/
def State.areaOut (s : State) (n c : Nat) : List Byte :=
  let s1 := (s.setTctxOf n c (s.filterTctx c (s.tctxOf n c))).filterTags c (keyScratch c n 0) (2 ^ 18)
  let r := (s1.contextImage n c true).laid
  toBytes 8 c ++ toBytes 8 n ++ r.1 ++ packBits ((List.range (saveAreaSize / 16)).map (fun j => Keys.mem r.2 (16 * j)))

/-- A capsule's retained form with its declarations and stamp, and where each field lies. -/
def CapsuleImage.bytes (k : CapsuleImage) : List Byte :=
  toBytes 2 k.number ++ toBytes 2 k.ctx ++ toBytes 1 k.gen ++ toBytes 32 k.meas.toNat ++ toBytes 4 k.image.length ++ k.image

def CapsuleImage.ofBytes (bs : List Byte) : CapsuleImage :=
  { number := fieldAt bs 0 2, ctx := fieldAt bs 2 2, gen := fieldAt bs 4 1, meas := BitVec.ofNat 256 (fieldAt bs 5 32)
    image := (bs.drop 41).take (fieldAt bs 37 4) }

/-- What a checkpoint writes: its blocks, the save areas, the capsules, and the manifest. DESIGN CHOICE, log 57. -/
def State.checkpointOut (s : State) (p : Nat) (replicas : List Nat) : List (List Byte) :=
  let cs := s.contextsIn p
  let a := (s.shardPages p).foldl (fun (a : Shard) q =>
    a.add replicas (blockName (s.info q.ctx).asid q.va) (s.blockOf q.ctx (s.spaceKeys p (s.info q.ctx).asid) q.pa))
    { digests := [], manifest := [], blocks := [] }
  let ks := s.capsules.filter (fun q => !q.2.released && cs.any (fun c => c.1 == q.2.ctx))
  a.blocks ++ cs.flatMap (fun c => (s.homesIn c.1 p).map (fun n => s.areaOut n c.1)) ++
    ks.map (fun q => CapsuleImage.bytes { number := q.1, ctx := q.2.ctx, gen := q.2.gen, meas := q.2.meas, image := q.2.image }) ++
    [toBytes 8 a.manifest.length ++ a.manifest.flatMap (fun m => toBytes 8 m.1 ++ toBytes 32 m.2)]

/-- A channel through which the tenant of an assigned partition may ask for it. -/
def State.asksFor (s : State) (p ch : Nat) : Bool :=
  (s.part p).st == .assigned && s.channelLive ch && s.chanTenant ch == some (s.part p).tenant &&
    (s.info (chCtx (s.chan ch).ctrl)).secure == (s.part p).world

/-- The replica digests of a request, after their number. -/
def replicasOf (plain : List Byte) : List Nat := (List.range (fieldAt plain 0 8)).map (fun i => fieldAt plain (8 + 32 * i) 32)

/-- A checkpoint is performed, and goes out through the channel that brought its request. -/
def State.checkpointNow (s : State) (part ch : Nat) (replicas : List Nat) : State :=
  ((s.checkpointOut part replicas).foldl (fun s bs => s.sendBytes ch bs) s).setPart part { s.part part with checkpt := none }

/-- CHECKPOINT: verified chunks of a channel of the tenant bring the request, with at most 65,536 digests. It holds launches for
the partition back, and is performed once none of the tenant's firings is live there. -/
def execCheckpoint (part : Nat) (ask : CheckpointAsk) (s : State) : Host.Outcome State Fault Refusal :=
  if !s.asksFor part ask.chan then .next s
  else match s.acceptOn ask.chan ask.request with
    | (s1, none) => .next s1
    | (s1, some plain) =>
      if 65536 < fieldAt plain 0 8 then .next s1
      else if s1.tenantLive (s1.part part).tenant part then
        .next (s1.setPart part { s1.part part with checkpt := some (ask.chan, replicasOf plain) })
      else .next (s1.checkpointNow part ask.chan (replicasOf plain))

/-- A checkpoint that has waited for the tenant's firings. -/
def execCheckpointGo (part : Nat) (s : State) : Host.Outcome State Fault Refusal :=
  match (s.part part).checkpt with
  | some q => .next (if s.asksFor part q.1 && !s.tenantLive (s.part part).tenant part then s.checkpointNow part q.1 q.2 else s)
  | none => .next s

/-- A checkpoint asked for may be performed. -/
def State.checkpointDue (s : State) (p : Nat) : Bool :=
  match (s.part p).checkpt with
  | some q => s.asksFor p q.1 && !s.tenantLive (s.part p).tenant p
  | none => false

/-! ## Restores (R375) -/

/-- A capability over an old slot, encoded from a new one with the same offsets. -/
def Cap.moved (c : Cap) (from_ to_ : Nat) : Cap :=
  let base := c.base - slotBase from_ + slotBase to_
  (c.withAddr (BitVec.ofNat 64 (c.addr - slotBase from_ + slotBase to_))).withBounds (BitVec.ofNat 14 c.lm)
    (BitVec.ofNat 14 (base / 2 ^ c.expo)) (BitVec.ofNat 6 c.expo)

/-- A tagged capability of a restored block with its capsule's new number. -/
def renumbered (m : Map Nat) (c : Cap) : Cap :=
  if c.addr < codeBase then c
  else
    let n := (c.addr - codeBase) / 2 ^ 32
    match Map.get? m n with
    | some k => Cap.moved c n k
    | none => c

/-- Restored bytes with a tag bitmap, at their place. -/
def State.putTagged (s : State) (key : Nat) (m : Map Nat) (a : Nat) (data bitmap : List Byte) : State :=
  (setBits bitmap (data.length / 16)).foldl (fun s g =>
    s.writeCap key (a + 16 * g) (renumbered m (Cap.ofBytes true (fieldAt data (16 * g) 16)))) (s.writeBytes key a data)

/-- The sections of a retained form: they are relocated already. -/
def retainedCode (o : Object) : List Built := o.sects.map (fun e => { off := e.off, code := sectionHalves o.data e })

/-- A context of a partition, and of the partition's tenant. -/
def State.restoresTo (s : State) (part c : Nat) : Bool :=
  match Map.get? s.contexts c with
  | some x => x.info.parts.contains part && x.info.tenant == (s.part part).tenant
  | none => false

/-- A capsule of a checkpoint under a new free number, void, for a context of the partition. -/
def State.putCapsule (s : State) (part : Nat) (m : Map Nat) (c : CapsuleImage) : State × Map Nat :=
  let o := objectOf c.image
  match checkSections o (indexed o.sects), if s.restoresTo part c.ctx then freeNumber s.capsules (s.fresh % 4096) else none with
  | .ok _, some n =>
    let k := capsuleOf o (retainedCode o) c.ctx c.meas
    ({ s with capsules := Map.set s.capsules n { k with void := true, gen := c.gen } }, Map.set m c.number n)
  | _, _ => (s, m)

/-- The capsules of a manifest; none once a chunk fails. -/
def State.putCapsules (s : State) (part ch : Nat) (m : Map Nat) : List (List Chunk) → State × Option (Map Nat)
  | [] => (s, some m)
  | c :: cs =>
    match s.acceptOn ch c with
    | (s1, none) => (s1, none)
    | (s1, some bs) => let r := s1.putCapsule part m (CapsuleImage.ofBytes bs); r.1.putCapsules part ch r.2 cs

/-- A save area's image back on a tile of the partition where its context is resident: its state and its scratchpad. -/
def State.putArea (s : State) (part : Nat) (m : Map Nat) (n c : Nat) (bs bitmap : List Byte) : State :=
  if !s.resident n c || !s.restoresTo part c || quadOf n != part then s
  else
    let tagged := setBits bitmap (saveAreaSize / 16)
    let capAt (o : Nat) : Cap := renumbered m (Cap.ofBytes (tagged.contains (o / 16)) (fieldAt bs o 16))
    let x := (s.tctxOf n c).ofImage bs capAt
    let s1 := (s.setTctxOf n c x).putTagged (s.info c).keyId m (keyScratch c n 0) ((bs.drop 0x10000).take 0x40000)
      ((bitmap.drop 0x200).take 0x800)
    (s1.writeSaveArea n c).writeAccArea n c x.matrix

/-- The save areas of a restore, up to one whose chunks fail. -/
def State.putAreas (s : State) (part ch : Nat) (m : Map Nat) : List (List Chunk) → State
  | [] => s
  | a :: as =>
    match s.acceptOn ch a with
    | (s1, none) => s1
    | (s1, some bs) =>
      (s1.putArea part m (fieldAt bs 8 8) (fieldAt bs 0 8) ((bs.drop 16).take saveAreaSize) (bs.drop (16 + saveAreaSize))).putAreas part ch m as

/-- A context of a partition that has an address space. -/
def State.spaceIn (s : State) (part asid : Nat) : Option (Nat × Context) :=
  (s.contextsIn part).find? (fun q => q.2.info.asid == asid)

/-- A restore goes on with its blocks, then its save areas: it stops at a block whose tag fails or whose address space no context
of the partition has, and waits at one whose page the pager has not mapped. DESIGN CHOICE, log 57. -/
def State.putBlocks (s : State) (part : Nat) (r : Restore) : List (Nat × Nat × List Chunk) → State
  | [] => ({ s with restores := Map.drop s.restores part }).putAreas part r.chan r.map r.areas
  | b :: bs =>
    let wait : State := { s with restores := Map.set s.restores part { r with blocks := b :: bs } }
    match s.spaceIn part b.1 with
    | none => { s with restores := Map.drop s.restores part }
    | some q =>
      match s.walk q.2.info b.2.1 with
      | .leaf e pa _ =>
        if peHost e then wait
        else match s.acceptOn r.chan b.2.2 with
          | (s1, none) => { s1 with restores := Map.drop s1.restores part }
          | (s1, some d) =>
            (s1.putTagged q.2.info.keyId r.map (pa - pa % 65536) (sized 65536 d) ((d.drop 65536).take 512)).putBlocks part r bs
      | _ => wait

/-- No firing of a tenant is live anywhere. -/
def State.tenantQuiet (s : State) (tenant : Nat) : Bool := !(List.range 40).any (s.tenantLive tenant)

/-- The blocks that a manifest names, each with the chunks that bring it: ASID and virtual address. -/
def manifestBlocks (plain : List Byte) (chunks : List (List Chunk)) : List (Nat × Nat × List Chunk) :=
  (indexed (chunks.take (fieldAt plain 0 8))).map (fun q =>
    let w := fieldAt plain (8 + 40 * q.1) 8
    (w / 2 ^ 48, w % 2 ^ 48, q.2))

/-- RESTORE into a partition of the channel's tenant and world, with none of its firings live: the manifest comes first. -/
def execRestore (part : Nat) (manifest : Manifest) (s : State) : Host.Outcome State Fault Refusal :=
  if !s.asksFor part manifest.chan ∨ !s.tenantQuiet (s.part part).tenant then .next s
  else match s.acceptOn manifest.chan manifest.index with
    | (s1, none) => .next s1
    | (s1, some plain) => (match s1.putCapsules part manifest.chan [] manifest.capsules with
      | (s2, none) => .next s2
      | (s2, some m) =>
        .next (s2.putBlocks part { chan := manifest.chan, map := m, blocks := [], areas := manifest.areas }
          (manifestBlocks plain manifest.blocks)))

/-- A restore that waits goes on once its next page is mapped and none of the tenant's firings is live, or ends where the
partition or the channel is the tenant's no more. -/
def State.restoreDue (s : State) (part : Nat) (r : Restore) : Bool :=
  !s.asksFor part r.chan ||
  (s.tenantQuiet (s.part part).tenant &&
    match r.blocks with
    | b :: _ => (match (s.spaceIn part b.1).map (fun q => s.walk q.2.info b.2.1) with
      | some (.leaf e _ _) => !peHost e
      | some _ => false
      | none => true)
    | [] => false)

def execRestoreGo (part : Nat) (s : State) : Host.Outcome State Fault Refusal :=
  match Map.get? s.restores part with
  | some r => .next (
    if !s.restoreDue part r then s
    else if !s.asksFor part r.chan then { s with restores := Map.drop s.restores part }
    else s.putBlocks part r r.blocks)
  | none => .next s

end Sys2Proof.Machine
end

