-- ==== Sys2Proof/Machine/Contrail.lean ====
section
/-! DEFINITION. Machine/Contrail.lean: what Contrail may do under debug (R278, R322). -/

namespace Sys2Proof.Machine

/-! ## Breakpoints (R322) -/

/-- The chains of a section of a capsule. -/
def Capsule.chains (k : Capsule) (sect : Nat) : List Chain :=
  let o := objectOf k.image
  match o.sects[sect]? with
  | some e => (match checkSections o [(sect, e)] with
    | .ok css => css.headD []
    | .error _ => [])
  | none => []

/-- An address of the code region as capsule, section and portable offset. -/
def codePlace (a : Nat) : Nat × Nat × Nat := ((a - codeBase) / 2 ^ 32 % 4096, a / 2 ^ 28 % 16, portable a)

/-- CONTRAIL_BREAKPOINT, in a capsule that the context has installed: an offset that is no chain start is refused. -/
def execContrailBreakpoint (ctx addr : Nat) (s : State) : Host.Outcome State Fault Refusal :=
  let q := codePlace addr
  match Map.get? s.capsules q.1 with
  | none => .next s
  | some k =>
    if decide (codeBase ≤ addr) && k.ctx == ctx && isStart (k.chains q.2.1) q.2.2 && !k.breaks.contains q.2 then
      .next { s with capsules := Map.set s.capsules q.1 { k with breaks := k.breaks ++ [q.2] } }
    else .next s

/-! ## Patches (R322) -/

/-- Every set that a firing will go on with: live, saved by `yield`, or saved with its context. A live set whose firing runs
in another capsule holds saved places too: EPCC, and the loop entries of its callers and of the chain that trapped. -/
def State.allSets (s : State) : List RegSet :=
  s.tiles.flatMap (fun t => t.2.ctxs.flatMap (fun q => q.2.saved.map (fun r => r.2) ++ [q.2.normal, q.2.urgent]))

/-- A firing runs in a capsule: on a live set. -/
def State.capsuleRuns (s : State) (n : Nat) : Bool :=
  s.tiles.any (fun t => match t.2.loaded with
    | some c =>
      let x := t.2.tctx c
      (x.normal.fir.isSome && inSlot n x.normal.pcc.addr) || (x.urgent.fir.isSome && inSlot n x.urgent.pcc.addr)
    | none => false)

/-- A set's program counters and loop entries name chain starts of a patched section. -/
def setStands (n sect : Nat) (cs : List Chain) (r : RegSet) : Bool :=
  let here (a : Nat) : Bool := inSlot n a && a / 2 ^ 28 % 16 == sect
  let pc (a : Nat) : Bool := !here a || isStart cs (portable a)
  let loops (l : List LoopEntry) : Bool := l.all (fun e => !here e.sect || (isStart cs e.start && isStop cs e.stop))
  r.fir.isNone || (pc r.pcc.addr && loops r.loops && (!r.inTrap || (pc r.epcc.addr && loops r.savedLoops)))

/-- The bytes of a relocation site's chain in an object. -/
def siteBytes (o : Object) (css : List Chain) (r : RelocEntry) : List Byte :=
  match css.find? (fun c => c.off == r.off), o.sects[r.sect]? with
  | some c, some e => (o.data.drop (e.off + c.off)).take c.bytes
  | _, _ => []

/-- An object with a patched section, or the reason code for which the patch is refused: that of step 3 of R313, SEC.SHAPE
past the section, RLC.SITE for a changed site, and a free code where a saved place no longer stands, for which the rules
name none. DESIGN CHOICE, log 74. -/
def State.patched (s : State) (n : Nat) (k : Capsule) (sect off : Nat) (halves : List Half) : Except Nat Object :=
  let o := objectOf k.image
  match o.sects[sect]? with
  | none => .error secShape
  | some e =>
    if off % 2 ≠ 0 ∨ e.len < off + 2 * halves.length then .error secShape
    else
      let o1 := objectOf (splice o.data (e.off + off) (halves.flatMap (fun h => toBytes 2 h.toNat)))
      match checkSections o1 [(sect, e)] with
      | .error r => .error r.code
      | .ok css =>
        let cs := css.headD []
        let old := k.chains sect
        let sites := (o.rels.filter (fun r => r.sect == sect)).all (fun r =>
          siteBytes o1 cs r == siteBytes o old r && !(siteBytes o old r).isEmpty)
        let stands := s.allSets.all (setStands n sect cs) &&
          k.breaks.all (fun b => b.1 != sect || isStart cs b.2)
        if !sites then .error rlcSite else if stands then .ok o1 else .error (s.fresh % 2 ^ 16)

/-- A patch is refused: its reason code is kept for Contrail, and nothing else changes. -/
def State.refusePatch (s : State) (n code : Nat) : State := { s with refused := s.refused ++ [(n, code)] }

/-- A context holds the capsule under Contrail's hold on some tile. -/
def State.heldFor (s : State) (k : Capsule) : Bool := s.tiles.any (fun t => (t.2.tctx k.ctx).dbg)

/-- CONTRAIL_PATCH of a capsule of a context that Contrail holds, while no firing runs in it: an accepted patch joins the
retained form and voids the body, and Contrail rebuilds it by R320 where there is room. -/
def execContrailPatch (capsule sect off : Nat) (halves : List Half) (s : State) : Host.Outcome State Fault Refusal :=
  match Map.get? s.capsules capsule with
  | none => .next s
  | some k =>
    if !s.heldFor k then .next s
    else if s.capsuleRuns capsule then .next (s.refusePatch capsule (s.fresh % 2 ^ 16))
    else match s.patched capsule k sect off halves with
      | .ok o =>
        let k1 : Capsule := { k with image := o.data, sections := (retainedCode o).map (fun b => { code := b.code }), void := true }
        .next (if Config.bodyRoom s.tick then s.rebuild capsule k1 else { s with capsules := Map.set s.capsules capsule k1 })
      | .error e => .next (s.refusePatch capsule e)

/-! ## Stopped and saved firings (R278, R322) -/

/-- The set of a context holds a firing that Contrail may touch: stopped under debug, or saved with its context.
DEDUCED, log 58. -/
def State.inHand (s : State) (n c : Nat) (k : SetId) : Bool :=
  let r := (s.tctxOf n c).regs k
  k != .keeper && r.fir.isSome && (r.debugStop || (s.tile n).loaded != some c)

/-- What is said of a running firing, said of a context's set. -/
def State.onSetOf (s : State) (n c : Nat) (k : SetId) (f : State → State) : State :=
  let was := (s.tile n).loaded
  let s1 := (s.setTile n { s.tile n with loaded := some c }).onSet n k f
  s1.setTile n { s1.tile n with loaded := was }

def RegSet.setLane (r : RegSet) (i : BitVec 5) (lane : BitVec 6) (v : Lane) : RegSet :=
  r.setV i ((r.getV i).set lane.toNat v lane.isLt)

/-- A list of values with one changed; an empty list stands for zeros. -/
def setVal (l : List Lane) (n i : Nat) (v : Lane) : List Lane :=
  (List.range n).map (fun j => if j = i then v else l.getD j 0)

/-- A loop entry: the address of its section, its portable offsets, its count. -/
def loopOf (q : Nat × Nat × Nat × Word) : LoopEntry :=
  { sect := sectionBase q.1, start := q.2.1, stop := q.2.2.1, count := q.2.2.2 }

/-- A store of Contrail through a capability register of the firing, with the checks of R107 and R124. -/
def State.debugWrite (s : State) (n c : Nat) (x : Cap) (off : Word) (data : List Byte) : State :=
  let a := (x.addrW + off).toNat
  let q := spaceOf n a
  let shape := match q.1 with
    | .void => false | .inbox => false | .window => false | .wstore => false
    | sp => decide (q.2 + data.length ≤ spaceSize sp)
  match x.checkAccess a data.length (need [permST]), s.remoteFault n c q.1, s.enginePieces n c a data.length .wr with
  | none, none, .ok ps =>
    if shape then
      let keys := ps.map (fun p => (p.key, p.n))
      (s.mergeRanges keys).writePieces (s.info c).keyId keys data
    else s
  | _, _, _ => s

/-- A change to the matrix state of a context. -/
def State.onMtxOf (s : State) (n c : Nat) (f : Matrix → Matrix) : State := s.setMtxOf n c (f (s.mtxOf n c))

/-- The chains of the section that an address lies in. -/
def State.chainsAt (s : State) (a : Nat) : List Chain :=
  let q := codePlace a
  match Map.get? s.capsules q.1 with
  | some k => if codeBase ≤ a then k.chains q.2.1 else []
  | none => []

/-- PCC set by portable offset, where a chain starts there (R40, R308): at another chain RCNT is zero (R80), and a stop at
the old one is over. -/
def State.debugPc (s : State) (off : Nat) : State :=
  let r := s.reg
  if !isStart (s.chainsAt r.pcc.addr) off then s
  else if off = portable r.pcc.addr then s
  else s.setReg { r.toOffset off with rcnt := RepCnt.zero, brkPassed := false, moved := true }

/-- EPCC set by portable offset, where a chain starts there. -/
def State.debugEpcc (s : State) (off : Nat) : State :=
  let r := s.reg
  if isStart (s.chainsAt r.epcc.addr) off then
    s.setReg { r with epcc := r.epcc.withAddr (BitVec.ofNat 64 (sectionBase r.epcc.addr + off)) }
  else s

/-- A loop stack set, where every entry names chain starts of the section it runs in (R79), a caller's among them. -/
def State.debugLoops (s : State) (saved : Bool) (q : List (Nat × Nat × Nat × Word)) : State :=
  let r := s.reg
  let l := q.map loopOf
  let wrong (e : LoopEntry) : Bool := let cs := s.chainsAt e.sect; !isStart cs e.start || !isStop cs e.stop
  if 4 < l.length ∨ l.any wrong then s
  else s.setReg (if saved then { r with savedLoops := l } else { r with loops := l })

/-- A solve record set; a capability that Contrail writes is untagged. -/
def Solve.untagged (v : Solve) : Solve := { v with tileCap := v.tileCap.withTag false, histCap := v.histCap.withTag false }

/-- A system register of a firing in hand, those that programs only read among them; RCNT stays zero at a chain other than the
one at which the firing was interrupted (R80). -/
def State.debugSys (s : State) (i : Nat) (v : Word) : State :=
  let onF (g : Firing → Firing) : State := s.setReg { s.reg with fir := s.reg.fir.map g }
  match i with
  | 2 => onF (fun f => { f with ts := v.toNat % 2 ^ 32 })
  | 3 => onF (fun f => { f with wid := v })
  | 8 => s.setSolve { s.tctx.solve with slvk := v.extractLsb' 0 32 }
  | 11 => if s.reg.moved then s else s.setSysReg 11 v
  | 13 => s.setReg { s.reg with fmask := v }
  | 26 => s.setReg { s.reg with taddr := v }
  | i => s.setSysReg i v

/-- A matrix queue set: commands with their STEP, where none breaks the rules of a command (R229). -/
def State.debugQueue (s : State) (n c : Nat) (l : List (Nat × Nat × Nat × Nat)) : State :=
  let words := l.map (fun q => ({ w0 := q.1, w1 := q.2.1, w2 := q.2.2.1, w3 := q.2.2.2, rest := true } : CmdWords))
  if 16 < words.length ∨ words.any (fun w => ({ w with w3 := w.w3 / 64 } : CmdWords).broken true) then s
  else s.onMtxOf n c (fun m => { m with queue := words.map (fun w => { s.command w w.ws with step := w.w3 % 64 }) })

/-- One access to a set in hand, or to its context. No capability that Contrail writes is tagged (R94). -/
def State.debugSet (s : State) (n c : Nat) (k : SetId) : DebugAccess → State
  | .setS r v => s.onSetOf n c k (fun s => s.setS r v)
  | .setC r v => s.onSetOf n c k (fun s => s.setC r { tag := false, bits := v })
  | .setV r lane v => s.onSetOf n c k (fun s => s.setReg (s.reg.setLane r lane v))
  | .setK r v => s.onSetOf n c k (fun s => s.setK r v)
  | .setFlags z ng cy v => s.onSetOf n c k (fun s => s.setReg { s.reg with flags := { z := z, n := ng, c := cy, v := v } })
  | .setLoops saved l => s.onSetOf n c k (fun s => s.debugLoops saved l)
  | .setToken i cnt stat => s.onSetOf n c k (fun s => s.setReg (s.reg.setToken i { cnt := cnt, stat := stat }))
  | .setSys i v => s.onSetOf n c k (fun s => s.debugSys i v)
  | .setOff v => s.onSetOf n c k (fun s => s.setReg { s.reg with fir := s.reg.fir.map (fun f => { f with off := v }) })
  | .setOutputs v => s.onSetOf n c k (fun s => s.setReg { s.reg with fir := s.reg.fir.map (fun f => { f with outputs := v }) })
  | .setMtx mrnd done acls empty nbr => s.onMtxOf n c (fun m =>
      { m with mrnd := mrnd % 2 ^ 32, done := done % 2 ^ 32, aclsInt := acls, empty := empty, nbrCls := nbr })
  | .setQueue l => s.onSetOf n c k (fun s => s.debugQueue n c l)
  | .setStaging off v => s.onMtxOf n c (fun m => { m with staging := Memory.write m.staging (off % 4096) v })
  | .setPc off => s.onSetOf n c k (fun s => s.debugPc off)
  | .setEpcc off => s.onSetOf n c k (fun s => s.debugEpcc off)
  | .setInTrap on => s.onSetOf n c k (fun s => s.setReg { s.reg with inTrap := on })
  | .setAcc i v => s.onMtxOf n c (fun m => { m with acc := setVal m.acc 1024 i v })
  | .setPlane shadow i v => s.onMtxOf n c (fun m =>
      let go (q : Plane) : Plane := { q with vals := setVal q.vals (32 * q.cls.k) i v }
      if shadow then { m with shadow := go m.shadow } else { m with active := go m.active })
  | .setSolve v => s.setTctxOf n c { s.tctxOf n c with solve := v.untagged }
  | .setCopy i row done written =>
    let x := s.tctxOf n c
    s.setTctxOf n c { x with copies := (indexed x.copies).map (fun q =>
      if q.1 = i then { q.2 with row := row, done := done, written := written } else q.2) }
  | .writeMem r off data => s.debugWrite n c (((s.tctxOf n c).regs k).getC r) off data
  | _ => s

/-- An access to the image of a firing that `yield` saved: it is had in the place of a set. -/
def State.debugImage (s : State) (n c serial : Nat) (acc : DebugAccess) : State :=
  let x := s.tctxOf n c
  match x.saved.find? (fun r => !keepsSerial serial r.2) with
  | none => s
  | some (_, r) =>
    let s1 := (s.setTctxOf n c { x with normal := r }).debugSet n c .normal acc
    let y := s1.tctxOf n c
    s1.setTctxOf n c { y with normal := x.normal
                              saved := y.saved.map (fun q => if keepsSerial serial q.2 then q else (q.1, y.normal)) }

/-- An access to the state that a context's sets share. -/
def sharedAccess : DebugAccess → Bool
  | .setAcc _ _ => true
  | .setPlane _ _ _ => true
  | .setSolve _ => true
  | .setCopy _ _ _ _ => true
  | .setMtx _ _ _ _ _ => true
  | .setQueue _ => true
  | .setStaging _ _ => true
  | _ => false

/-- Contrail may have an access: to a set in its hand, and to what the sets share where the context is saved too (R289, R322).
DEDUCED, log 58. -/
def State.mayAccess (s : State) (n c : Nat) (k : SetId) (a : DebugAccess) : Bool :=
  s.inHand n c k || (sharedAccess a && (s.tile n).loaded != some c)

/-- A tenant's authorisation: a chunk that verifies on a live channel of the context (R322, R368). -/
def State.authorised (s : State) (ctx : Nat) (auth : Chunk) : State × Bool :=
  if chCtx (s.chan auth.chan).ctrl ≠ ctx then (s, false)
  else
    let r := s.acceptChunk auth
    (r.1, r.2.isSome)

/-- CONTRAIL_ACCESS: Contrail's hold of a context on a tile, which the tenant authorises, or an access to a firing in its
hand. -/
def execContrailAccess (tile ctx : Nat) (set : SetId) (acc : DebugAccess) (s : State) : Host.Outcome State Fault Refusal :=
  let x := s.tctxOf tile ctx
  if !s.resident tile ctx then .next s
  else match acc with
    | .hold auth =>
      let r := s.authorised ctx auth
      .next (if r.2 then r.1.setTctxOf tile ctx { r.1.tctxOf tile ctx with dbg := true } else r.1)
    | .release => .next (s.setTctxOf tile ctx { x with dbg := false })
    | .saved serial a => .next (if x.dbg then s.debugImage tile ctx serial a else s)
    | a => .next (if x.dbg && s.mayAccess tile ctx set a then s.debugSet tile ctx set a else s)

/-- CONTRAIL_RELEASE: a firing stopped at a `brk` goes on at the chain after it, with RCNT 0 (R80), one stopped at a breakpoint at its chain. -/
def execContrailRelease (tile : Nat) (set : SetId) (s : State) : Host.Outcome State Fault Refusal :=
  .next (s.onSet tile set (fun s =>
    let r := s.reg
    if !r.debugStop then s
    else if r.brkPassed then
      s.setReg { r.fallThrough (s.chainLen r.pcc.addr) with debugStop := false, brkPassed := false, rcnt := RepCnt.zero }
    else s.setReg { r with debugStop := false, brkPassed := true }))

end Sys2Proof.Machine
end

