-- ==== Sys2Proof/Machine/Slices.lean ====
section
/-! DEFINITION. Machine/Slices.lean: results that return (R50, R71), weight-store refresh (R133), budgets, graces and slices
(R273, R279). -/

namespace Sys2Proof.Machine

/-! ## Results (R50, R71, R133) -/

/-- A bank's refresh window by the clock: banks are numbered 16 to a quadrant. -/
def State.windowOpen (s : State) (bank : Nat) : Bool := inRefresh (s.refreshTime (bank / 64)) (bank % 16)

/-- A result that waits for no bank in refresh. -/
def State.comes (s : State) (q : Pending) : Bool := q.banks.all (fun b => !s.windowOpen b)

/-- The oldest outstanding result of a set that may return, of the decode table or of a register: results for one
register return in the order of their issue. -/
def State.nextResult (s : State) (r : RegSet) (table : Bool) : Option Nat :=
  ((indexed r.pending).find? (fun q => q.2.res.isTable == table && s.comes q.2 &&
    !(r.pending.take q.1).any (fun o => o.res.sameDest q.2.res))).map (fun q => q.1)

/-- One result of a set returns; the set is no longer parked once none is outstanding (R50). -/
def State.returnResult (s : State) (n : Nat) (k : SetId) (table : Bool) : State :=
  s.onSet n k (fun s =>
    match s.nextResult s.reg table with
    | some i =>
      match s.reg.pending[i]? with
      | some q =>
        let left := s.reg.pending.eraseIdx i
        (s.setReg { s.reg with pending := left, parked := s.reg.parked && !left.isEmpty }).applyResult q
      | none => s
    | none => s)

def execOutstandingResultReturn (tile : Nat) (set : SetId) (s : State) : Host.Outcome State Fault Refusal :=
  .next (s.returnResult tile set false)

/-- T8_TABLE_EFFECT. Every earlier conversion had finished before the table became pending. -/
def execT8TableEffect (tile : Nat) (set : SetId) (s : State) : Host.Outcome State Fault Refusal :=
  .next (s.returnResult tile set true)

/-! ## Refresh (R133) -/

def execRefreshStart (bank : Nat) (s : State) : Host.Outcome State Fault Refusal :=
  .next (if s.windowOpen bank then { s with refreshing := Keys.insert s.refreshing bank } else s)

def execRefreshEnd (bank : Nat) (s : State) : Host.Outcome State Fault Refusal :=
  .next (if s.windowOpen bank then s else { s with refreshing := Keys.remove s.refreshing bank })

/-! ## Slices (R279, R319) -/

/-- A firing runs on either set of a context. -/
def TileCtx.running (x : TileCtx) : Bool := x.normal.fir.isSome || x.urgent.fir.isSome

/-- A resident context has ready or saved-running work, and may be loaded. -/
def State.hasWork (s : State) (n c : Nat) : Bool :=
  let x := s.tctxOf n c
  !s.voidPcc x.normal && !s.voidPcc x.urgent &&
    (x.running || s.readyWork n c true || s.readyWork n c false)

/-- The next context in round-robin order after the last one loaded. -/
def State.nextContext (s : State) (n : Nat) : Option Nat :=
  let t := s.tile n
  let l := (t.ctxs.map (fun q => q.1)).filter (s.hasWork n)
  match l.find? (fun c => decide (t.lastLoad < c)) with
  | some c => some c
  | none => l.head?

/-- A slice starts: Halo writes KBUDGET and KGRACE as it chooses, and no request is open. DESIGN CHOICE, log 22. -/
def State.startSlice (s : State) (n c : Nat) : State :=
  let x := s.tctxOf n c
  (s.setTctxOf n c { x with kbudget := s.fresh % 2 ^ 32, kstamp := s.clk, kgrace := s.fresh / 2 ^ 32 % 2 ^ 20
                            prq := false }).bump

/-- The loaded context leaves for the next one, unless that is the same. -/
def State.turnSlice (s : State) (n : Nat) : State :=
  match s.nextContext n with
  | none => s
  | some c =>
    let s1 :=
      if (s.tile n).loaded = some c then s
      else match (s.tile n).loaded with
        | some o => (s.saveContext n o).loadContext n c
        | none => s.loadContext n c
    s1.startSlice n c

/-- The loaded context may leave a tile: no chunk of an edge engine is in flight for it (R260), or it stays. -/
def State.mayLeave (s : State) (n : Nat) : Bool :=
  match (s.tile n).loaded with
  | some c => s.nextContext n == some c || !s.chunkOpen n c
  | none => true

/-- The slice of a tile is over without an overrun. -/
def State.sliceOver (s : State) (n : Nat) : Bool :=
  match (s.tile n).loaded with
  | none => (s.nextContext n).isSome
  | some c =>
    let x := s.tctxOf n c
    !x.running && ((x.prq && (s.nextContext n).isSome) || (s.tile n).ctxs.any (fun q => q.1 != c && s.hasWork n q.1))

def execSliceEnd (tile : Nat) (s : State) : Host.Outcome State Fault Refusal :=
  .next (if s.sliceOver tile && s.mayLeave tile then (s.turnSlice tile).wake tile else s)

/-- KBUDGET stands at 0 with no request open. -/
def State.budgetOut (s : State) (n : Nat) : Bool :=
  match (s.tile n).loaded with
  | some c => !(s.tctxOf n c).prq && s.budgetLeft n c == 0
  | none => false

def execBudgetExpiry (tile : Nat) (s : State) : Host.Outcome State Fault Refusal :=
  .next (match (s.tile tile).loaded with
    | some c => if s.budgetOut tile then (s.openPrq tile c).wake tile else s
    | none => s)

/-- The grace of an open request is over with a firing running. -/
def State.graceOut (s : State) (n : Nat) : Bool :=
  match (s.tile n).loaded with
  | some c =>
    let x := s.tctxOf n c
    x.prq && x.running && decide (x.prqAt + x.kgrace ≤ s.clk)
  | none => false

/-- GRACE_EXPIRY: Halo records KPR.OVR, stops each running firing and ends the slice. -/
def execGraceExpiry (tile : Nat) (s : State) : Host.Outcome State Fault Refusal :=
  .next (match (s.tile tile).loaded with
    | some c =>
      if s.graceOut tile && s.mayLeave tile then
        ((s.setTctxOf tile c { s.tctxOf tile c with overruns := (s.tctxOf tile c).overruns + 1 }).turnSlice tile).wake tile
      else s
    | none => s)

end Sys2Proof.Machine
end

