-- ==== Sys2Proof/Machine/Bringup.lean ====
section
/-! DEFINITION. Machine/Bringup.lean: errors outside a firing (R373, R377 to R379, R384) and cold reset to READY or FAIL (R366, R370,
R371, R391, R393). -/

namespace Sys2Proof.Machine

/-! ## Errors that no firing consumes (R377 to R379, R384) -/

/-- A context that has the memory key of a line: of several that share the key ID a protected one, so that nothing about it
reaches the host but in the short form (R373). -/
def State.keyOwner (s : State) (key : Nat) : Option Nat :=
  let l := s.contexts.filter (fun q => q.2.info.keyId == Map.get s.lineKeys (key / 64) deviceKey)
  ((l.find? (fun q => isProtected q.2.info)) <|> l.head?).map (fun q => q.1)

/-- The context whose save area a word of HBM lies in. -/
def State.areaCtx (s : State) (key : Nat) : Option Nat :=
  ((s.tiles.flatMap (fun t => t.2.ctxs)).find? (fun q => decide (q.2.saveAddr ≤ key) && decide (key < q.2.saveAddr + saveAreaSize))).map
    (fun q => q.1)

/-- The tile that a word of a tile's arrays is on. -/
def wordTile (key : Nat) : Nat :=
  let o := key % 2 ^ 64
  match keyKind key with
  | 2 => o / 2 ^ 18 % 4096
  | 8 => o / 65536 / 4
  | 9 => o / 2 ^ 31
  | 11 => o / 2 ^ 32
  | 12 => o / 2 ^ 39
  | 13 => o / 2 ^ 11
  | 15 => o / 2 ^ 41
  | 16 => o / 16
  | kind => kind % 4096

/-- The context that a word of HBM is about. -/
def State.hbmCtx (s : State) (key : Nat) : Option Nat :=
  match s.areaCtx key with
  | some c => some c
  | none => s.keyOwner key

/-- The context that an error of a word is about, if it is about one (R373). -/
def State.wordCtx (s : State) (key : Nat) : Option Nat :=
  let o := key % 2 ^ 64
  match keyKind key with
  | 0 => s.hbmCtx key
  | 14 => s.hbmCtx (memPlace key)
  | 15 => s.hbmCtx (memPlace key)
  | 2 => some (o / 2 ^ 18 / 4096)
  | 3 => ((s.cluster (o / 2 ^ 22)).shares.find? (fun q =>
      decide (q.2.cmemOff ≤ o % 2 ^ 22) && decide (o % 2 ^ 22 < q.2.cmemOff + q.2.cmemLen))).map (fun q => q.1)
  | 4 => s.keyOwner key
  | 9 => some (o / 2 ^ 19 % 4096)
  | 10 => none
  | 11 => some (o / 2 ^ 20 % 4096)
  | 12 => some (o / 2 ^ 27 % 4096)
  | 16 => none
  | 17 => none
  | 18 => none
  | _ => (s.tile (wordTile key)).loaded

/-- The partition of a word. -/
def wordPart (key : Nat) : Nat :=
  let o := key % 2 ^ 64
  match keyKind key with
  | 0 => key / quadBytes
  | 1 => 0
  | 3 => clusterPart (o / 2 ^ 22)
  | 4 => o / 2 ^ 28
  | 10 => clusterPart (o / 16 / 512)
  | 14 => memPlace key / quadBytes
  | 17 => o / 16 * 4
  | 18 => o / 16 * 4
  | _ => quadOf (wordTile key)

/-- A record of an error that no firing has consumed (R373, R378, R379). -/
def State.recordAt (s : State) (cls syn key : Nat) : State :=
  let ctx := s.wordCtx key
  s.postError ctx { cls := cls, unit := unitOf key, part := wordPart key, who := ctx.getD 0, syn := syn, addr := addrOf key
                    frame := frameOf key, pc := 0 }

/-- A word that the patrol read reaches: of HBM, or of the weight store outside its bank's refresh window. -/
def State.patrolled (s : State) (key : Nat) : Bool :=
  (keyKind key == 0 && decide (key < 40 * quadBytes)) ||
    (keyKind key == 4 && !s.windowOpen (key % 2 ^ 64 / 2 ^ 28 * 16 + key % 2 ^ 28 / 2 ^ 24))

/-- The registers or lanes of a set that were overwritten with an error in them and have no record yet, as keys (R379). -/
def RegSet.owedKeys (r : RegSet) (n : Nat) (k : SetId) : List Nat := r.owed.map (keyReg n (setCode k))

/-- The set of a register's key. -/
def keySet (key : Nat) : SetId :=
  match key % 2 ^ 64 / 65536 % 4 with
  | 0 => .urgent
  | 1 => .normal
  | _ => .keeper

/-- A set of a tile changed: of the loaded context, or Halo's. -/
def State.onRegs (s : State) (n : Nat) (k : SetId) (g : RegSet → RegSet) : State :=
  let t := s.tile n
  match k, t.loaded with
  | .keeper, _ => s.setTile n { t with keeper := g t.keeper }
  | k, some c => s.setTctxOf n c ((s.tctxOf n c).setRegs k (g ((s.tctxOf n c).regs k)))
  | _, none => s

/-- A register of a set that was overwritten with its error still owes its record. -/
def State.owes (s : State) (key : Nat) : Bool :=
  keyKind key == 8 && ((s.regOf (wordTile key) (keySet key)).owedKeys (wordTile key) (keySet key)).contains key

/-- A granule of a firing's task lines is in use. -/
def State.inLines (s : State) (key : Nat) : Bool :=
  (s.firingsAt key).any (fun l => l.f.actions.any (fun a => match a with
    | .store va _ data _ => decide (va < key % 2 ^ 64 + 16) && decide (key % 2 ^ 64 < va + data.length)
    | _ => false))

/-- A message of an entry's queue with an error in a word of it. -/
def TileCtx.spoilMsg (x : TileCtx) (tag j w : Nat) : TileCtx :=
  let e := x.entry tag
  x.setEntry tag { e with queue := (indexed e.queue).map (fun q =>
    if q.1 = j then { q.2 with bad := Keys.insert q.2.bad w } else q.2) }

/-- A register set with an error in a register or lane. -/
def RegSet.spoil (r : RegSet) (i : Nat) : RegSet := { r with bad := Keys.insert r.bad i }

/-- An error that the code of a word detects and cannot correct arises there (R379). DESIGN CHOICE, log 86. -/
def State.spoil (s : State) (key : Nat) : State :=
  let poisoned : State := { s with poison := Keys.insert s.poison (codeWord key) }
  let o := key % 2 ^ 64
  let n := wordTile key
  match keyKind key with
  | 0 => if key < 40 * quadBytes then poisoned else s
  | 1 => s
  | 8 => s.onRegs n (keySet key) (fun r => r.spoil (o % 65536 / 16))
  | 12 =>
    let c := o / 2 ^ 27 % 4096
    if s.resident n c then s.setTctxOf n c ((s.tctxOf n c).spoilMsg (o / 2 ^ 15 % 4096) (o / 128 % 256) (o / 16 % 8)) else s
  | 13 =>
    let t := s.tile n
    s.setTile n { t with slots := (indexed t.slots).map (fun q =>
      if q.1 = o / 256 % 8 then q.2.map (fun k => { k with bad := Keys.insert k.bad (o / 16 % 16) }) else q.2) }
  | kind => if (16 ≤ kind ∧ kind < 2 ^ 20) ∨ (2 ^ 20 ≤ kind ∧ !s.inLines key) then s else poisoned

/-- PATROL_READ: an error of a word. One that its code corrects costs a record and nothing else; one that it cannot correct
poisons the word, with a record where the patrol read has found it. A poisoned word that was overwritten has its record here
too. DESIGN CHOICE, log 86. -/
def execPatrolRead (addr : Nat) (err : WordError) (s : State) : Host.Outcome State Fault Refusal :=
  .next (
    if s.owes addr then
      (s.onRegs (wordTile addr) (keySet addr) (fun r => { r with owed := r.owed.erase (addr % 65536 / 16) })).recordAt clsUnconsumed
        (uncorrected addr) addr
    else if Keys.mem s.wiped addr then ({ s with wiped := Keys.remove s.wiped addr }).recordAt clsUnconsumed (uncorrected addr) addr
    else match err with
      | .corrected => if parityOnly addr then s else s.recordAt clsCorrected (corrected addr) addr
      | .latent => s.spoil addr
      | .found =>
        if s.patrolled addr then
          { s with poison := Keys.insert s.poison (codeWord addr) }.recordAt clsUnconsumed (uncorrected addr) addr
        else s)

/-- MACHINE_CHECK: Halo takes an error that it, a pager or partition services have consumed, and terminates the firings whose
state the word held (R384). -/
def execMachineCheck (addr : Nat) (s : State) : Host.Outcome State Fault Refusal :=
  if (s.poisoned addr 1).isNone && !s.checks.contains addr then .next s
  else
    let s1 := ({ s with checks := s.checks.erase addr } : State).recordAt clsUnconsumed (uncorrected addr) addr
    .next ((s1.firingsAt addr).foldl (fun s l =>
      if (s.tctxOf l.tile l.ctx).live l.tile l.ctx |>.any (fun m => m.f.serial == l.f.serial) then
        s.terminateFiring l Code.dataUnc else s) s1)

/-! ## Absent units (R391) -/

/-- The tiles of a part without those that fuses or calibration take, by the rules on clusters. -/
def tileGone (fuses : List Nat) (tick n : Nat) : Bool := Keys.mem fuses n || Config.tileFails tick n

def clusterGone (fuses : List Nat) (tick k : Nat) : Bool := (clusterTiles k).any (tileGone fuses tick)

/-- The HBM channels of a quadrant that work, as a mask. -/
def channelMask (tick p : Nat) : Nat :=
  ((List.range 16).map (fun i => if Config.channelFails tick (16 * p + i) then 0 else 2 ^ i)).foldl (· + ·) 0

def channelCount (tick p : Nat) : Nat := (List.range 16).countP (fun i => !Config.channelFails tick (16 * p + i))

/-- CAPp (R392) of a quadrant that is present. -/
def capWord (tick p : Nat) : Nat :=
  channelMask tick p * 2 ^ 32 + (24192 - 1512 * (16 - channelCount tick p))

/-- The channels that a CAP register tells. -/
def capChannels (cap : Nat) : Nat := (List.range 16).countP (fun i => cap.testBit (32 + i))

/-- A quadrant that is absent whole, by what its training has left in CAPp. -/
def quadGone (fuses : List Nat) (tick cap p : Nat) : Bool :=
  decide (2 < (partClusters p).countP (clusterGone fuses tick)) || decide (capChannels cap < 12) || Config.quadFails tick p

/-- The quadrants that are absent whole. -/
def State.goneQuads (s : State) : List Nat :=
  (List.range 40).filter (fun p => quadGone s.fuses s.tick (Map.get s.caps p 0) p)

/-- Every absent tile, ascending. -/
def State.absentTiles (s : State) : List Nat :=
  (List.range 320).flatMap (fun k =>
    if clusterGone s.fuses s.tick k || s.goneQuads.contains (clusterPart k) then clusterTiles k else [])

/-! ## Cold reset (R393) -/

/-- What survives a cold reset: host memory, fuses, the rollback counter, what the host has read, and the model's own numbering
and outside events. DEDUCED, log 59. -/
def State.cold (s : State) : State :=
  { State.reset with
    mem := s.mem.filter (fun q => keyKind q.1 == 1), fuses := s.fuses, absent := s.fuses, rollback := s.rollback, tick := s.tick
    hostReads := s.hostReads, agenda := s.agenda }

/-- STATUS while a step of bring-up is in progress, and once one has failed in a way that nothing absorbs (R392, R393). -/
def State.atStage (s : State) (k : Nat) : State := { s with status := { ready := false, fail := false, fstage := 0, stage := k } }
def State.failed (s : State) (k : Nat) : State := { s with status := { ready := false, fail := true, fstage := k, stage := k } }

/-- Firmware with its versions, in the order in which it is verified: the rollback counter after what was accepted before the
first that is not, and whether all of it was (R371). -/
def takeFirmware : Nat → List (List Byte × Nat) → Nat × Bool
  | r, [] => (r, true)
  | r, i :: is => if Config.firmwareSigned i.1 i.2 && decide (r ≤ i.2) then takeFirmware i.2 is else (r, false)

/-- The firmware of step 1, and that of step 6. -/
def bootFirmware : List (List Byte × Nat) := [(Config.bootImage, Config.bootVersion), (Config.haloImage, Config.haloVersion)]
def serviceFirmware : List (List Byte × Nat) :=
  [(Config.installerImage, Config.installerVersion), (Config.servicesImage, Config.servicesVersion)]

/-- A measurement register after a digest. -/
def State.measure (s : State) (i : Nat) (d : BitVec 256) : State :=
  { s with mr := tabulate 8 (fun j => if j = i then extendMr (s.mr.toList.getD i 0) d else s.mr.toList.getD j 0) }

/-- The ports that a part has, as a mask. -/
def State.portMask (s : State) : Nat := (s.ports.map (fun q => 2 ^ q.1)).foldl (· + ·) 0

/-- Step 1: the ephemeral key is drawn, at every reset (R366); boot firmware and Halo are verified and measured. -/
def State.bring1 (s : State) : State × Bool :=
  let r := takeFirmware s.rollback bootFirmware
  let s1 : State := { s with ephemeral := Config.freeNat s.tick, rollback := r.1 }
  if r.2 then ((s1.measure 0 (digestOf Config.bootImage)).measure 1 (digestOf Config.haloImage), true) else (s1, false)

/-- Step 2: the HBM channels are trained. -/
def State.bring2 (s : State) : State := { s with caps := (List.range 40).map (fun p => (p, capWord s.tick p)) }

/-- Step 3: the weight store's refresh is calibrated, for each die. -/
def State.bring3 (s : State) : State := { s with phases := (List.range 10).map (fun d => (d, Config.calPhase (s.tick + d))) }

/-- Step 4: the links are trained, and what the part lacks is known (R391): a quadrant that is absent whole has no capacity. -/
def State.bring4 (s : State) : State :=
  { s with ports := ((List.range 18).filter (fun p => !Config.portFails s.tick p)).map (fun p => (p, .up))
           absent := s.absentTiles.foldl Keys.insert []
           caps := s.caps.map (fun q => if s.goneQuads.contains q.1 then (q.1, 0) else q)
           parts := s.goneQuads.map (fun p => (p, { Partition.reset p with absent := true })) }

/-- Step 5: every memory of the device holds zeroes, without a tag, a painted granule or an error. -/
def State.bring5 (s : State) : State :=
  { s with mem := s.mem.filter (fun q => keyKind q.1 == 1), tags := [], painted := [], covers := [], lineKeys := []
           poison := s.poison.filter (fun w => keyKind w == 1) }

/-- Step 6: the installer and partition services are verified and measured, and the configuration; Halo starts. -/
def State.bring6 (s : State) : State × Bool :=
  let r := takeFirmware s.rollback serviceFirmware
  let s1 : State := { s with rollback := r.1 }
  if r.2 then
    ((({ s1 with instMeas := digestOf Config.installerImage }.measure 2 (digestOf Config.installerImage)).measure 3
      (digestOf Config.servicesImage)).measure 4 (Config.configDigest Config.stepping s.absent s.caps s.portMask s.phases), true)
  else (s1, false)

/-- What a step of bring-up does, and whether it succeeds. -/
def State.bringWork (s : State) (k : Nat) : State × Bool :=
  match k with
  | 1 => s.bring1
  | 2 => (s.bring2, true)
  | 3 => (s.bring3, true)
  | 4 => (s.bring4, true)
  | 5 => (s.bring5, true)
  | 6 => s.bring6
  | _ => (s, true)

/-- BRING_UP, an event of the device itself: the step in progress ends, in the next one, in READY, or in FAIL, where what it has
done stands. -/
def State.bringStep (s : State) : State :=
  let k := s.status.stage
  if k = 0 then s.atStage 1
  else
    let r := s.bringWork k
    if Config.bringUpFails s.tick = k ∨ r.2 = false then r.1.failed k
    else if k = 7 then { r.1 with status := { ready := true, fail := false, fstage := 0, stage := 8 } }
    else r.1.atStage (k + 1)

def execBringUp (s : State) : Host.Outcome State Fault Refusal := .next (if s.status.ready || s.status.fail then s else s.bringStep)

/-- COLD_RESET: the device is as at power-on, and runs bring-up, step 1 of it in progress, to READY or FAIL. -/
def execColdReset (s : State) : Host.Outcome State Fault Refusal := .next (s.cold.atStage 1)

/-- Bring-up is under way. -/
def State.needsBringUp (s : State) : Bool := !s.status.ready && !s.status.fail

end Sys2Proof.Machine
end

