-- ==== Sys2Proof/Machine/HostMem.lean ====
section
/-! DEFINITION. Machine/HostMem.lean: the host's own accesses (R334, R341): the queue blocks in BAR0 (R342), the status block
in BAR2 (R392), device memory behind the two HDM decoders, and its own memory. -/

namespace Sys2Proof.Machine

/-! ## Registers as the host reads them (R8) -/

/-- A doubleword of a queue block (R342). -/
def Queue.word (q : Queue) (off : Nat) : Nat :=
  match off with
  | 0x00 => q.qbase.toNat
  | 0x08 => bit q.en * 2 ^ 63 + bit q.err * 2 ^ 62 + q.ctx % 4096 * 2 ^ 32 + q.logsz % 16 * 2 ^ 16
  | 0x10 => q.tail % 65536
  | 0x18 => q.head % 65536
  | 0x20 => q.cbase.toNat
  | 0x28 => q.ctail % 65536
  | 0x30 => q.chead % 65536
  | _ => 0

/-- A doubleword of BAR0. -/
def State.bar0Word (s : State) (off : Nat) : Nat :=
  if off < 64 * 32768 then (s.queue (off / 64)).word (off % 64) else 0

/-- PARTp (R360). -/
def Partition.word (p : Partition) : Nat :=
  partStateCode p.st * 2 ^ 62 + bit p.world * 2 ^ 61 + bit p.absent * 2 ^ 60 + p.shape % 4 * 2 ^ 56 + p.fbase % 64 * 2 ^ 50 +
    p.tenant % 65536 * 2 ^ 32 + p.pager0 % 64 * 2 ^ 24 + p.pager1 % 64 * 2 ^ 16

/-- STATUS (R392). -/
def Status.word (x : Status) : Nat := bit x.ready * 2 ^ 63 + bit x.fail * 2 ^ 62 + x.fstage % 256 * 2 ^ 8 + x.stage % 256

/-- ERRCTL (R390). -/
def State.errctlWord (s : State) : Nat := bit s.ovf * 2 ^ 63 + s.ehead % 256 * 2 ^ 8 + s.etail % 256

/-- One 64-bit word of the map of a die's tiles that are present: bit 16 × ROW + COL of it is bit 0 of word 0 on. -/
def State.tileMapWord (s : State) (die i : Nat) : Nat :=
  ((List.range 64).map (fun b => bit (s.tileExists (256 * die + 64 * i + b)) * 2 ^ b)).foldl (· + ·) 0

/-- The map of the Moatal Link ports that the part has. -/
def State.portMap (s : State) : Nat := ((List.range 18).map (fun p => bit (Map.get? s.ports p).isSome * 2 ^ p)).foldl (· + ·) 0

/-- A doubleword of the status block (R392). -/
def State.bar2Word (s : State) (off : Nat) : Nat :=
  if off = 0 then s.status.word
  else if off = 8 then generation + Config.stepping % 256 * 2 ^ 8
  else if off = 0x40 then s.portMap
  else if 0x100 ≤ off ∧ off < 0x240 then Map.get s.caps ((off - 0x100) / 8) 0
  else if 0x400 ≤ off ∧ off < 0x500 then
    ((s.mr.toList.getD ((off - 0x400) / 32) 0).toNat >>> (64 * ((off - 0x400) / 8 % 4))) % 2 ^ 64
  else if 0x600 ≤ off ∧ off < 0x740 then s.tileMapWord ((off - 0x600) / 32) ((off - 0x600) / 8 % 4)
  else if 0x1000 ≤ off ∧ off < 0x1140 then (s.part ((off - 0x1000) / 8)).word
  else if off = 0x3000 then s.errctlWord
  else if 0x4000 ≤ off ∧ off < 0x8000 then
    match Map.get? s.ering ((off - 0x4000) / 64) with
    | some r => fieldAt r.bytes (off % 64) 8
    | none => 0
  else if 0x8000 ≤ off ∧ off < 0xC000 then fieldAt Config.certificate (off - 0x8000) 8
  else 0

/-- Bytes of a map that is read by doublewords. -/
def bytesOf (word : Nat → Nat) (off n : Nat) : List Byte :=
  (List.range n).map (fun i => BitVec.ofNat 8 (word ((off + i) / 8 * 8) >>> (8 * ((off + i) % 8))))

/-! ## Writes (R8, R342, R390) -/

/-- A doubleword that the host writes to BAR0. -/
def State.bar0Write (s : State) (off : Nat) (w : Word) : State :=
  let q := off / 64
  match off % 64 with
  | 0x00 => s.regWrite (.qbase q) w .user
  | 0x08 => s.regWrite (.qctl q) w .user
  | 0x10 => s.tailWrite q w.toNat
  | 0x20 => s.regWrite (.cbase q) w .user
  | 0x30 => s.cheadWrite q w.toNat
  | _ => s

/-- A doubleword that the host writes to the status block: ERRCTL alone has fields that it may write. -/
def State.bar2Write (s : State) (off : Nat) (w : Word) : State := if off = 0x3000 then s.regWrite .errctl w .user else s

/-- Aligned doublewords, one after another; an access of another size or place changes nothing. DESIGN CHOICE, log 84. -/
def wordWrites (write : State → Nat → Word → State) (off : Nat) (bs : List Byte) (s : State) : State :=
  if off % 8 = 0 ∧ bs.length % 8 = 0 then
    (List.range (bs.length / 8)).foldl (fun s i => write s (off + 8 * i) (BitVec.ofNat 64 (fieldAt bs (8 * i) 8))) s
  else s

/-! ## Memory (R334, R341) -/

/-- The place of a host physical address, and the memory key of a request to it: device memory behind an HDM decoder, under the
decoder's key, else the host's own memory. R341 has the memory controllers serve the request, and names no key for it.
DESIGN CHOICE, log 47. -/
def State.hostKey (s : State) (a : Nat) : Nat × Nat :=
  match s.hdm.toList.find? (fun d => decide (d.base ≤ a) && decide (a < d.base + d.len)) with
  | some d => (d.dev + (a - d.base), d.key)
  | none => (keyHost a, 0)

/-- A range of an access that lies in one page: how many of the access's bytes came before, its place, the memory key, and how
many bytes it has. -/
structure HostPiece where
  before : Nat
  key    : Nat
  keyId  : Nat
  n      : Nat
  deriving DecidableEq, Repr

/-- The ranges of an access, page by page. -/
def State.hostPieces (s : State) (a n : Nat) : List HostPiece :=
  (pagePieces a n).map (fun p => { before := p.1 - a, key := (s.hostKey p.1).1, keyId := (s.hostKey p.1).2, n := p.2 })

/-- A memory key that no line has. -/
def hiddenKey : Nat := 2 ^ 17

/-- Host memory, or device memory that the host may still reach. -/
def State.hostServed (s : State) (key : Nat) : Bool := keyKind key != 0 || s.hostMay key

/-- What the host reads: a line under another key, or of memory that is not the host's to reach, reveals nothing (R363, R365). -/
def State.hostBytes (s : State) (a n : Nat) : List Byte :=
  (s.hostPieces a n).flatMap (fun p => s.readBytes (if s.hostServed p.key then p.keyId else hiddenKey) p.key p.n)

/-- What the host writes: a line takes the request's key, and memory that is not the host's to reach is left as it is. -/
def State.hostStore (s : State) (a : Nat) (bs : List Byte) : State :=
  (s.hostPieces a bs.length).foldl (fun s p =>
    if s.hostServed p.key then s.writeBytes p.keyId p.key ((bs.drop p.before).take p.n) else s) s

/-- HOST_MEM_ACCESS: a read, whose bytes the host receives, or a write. -/
def execHostMemAccess (addr : HostAddr) (op : HostOp) (s : State) : Host.Outcome State Fault Refusal :=
  .next (match op with
    | .read n =>
      let bs := match addr with
        | .memory a => s.hostBytes a (min n (2 ^ 64 - a))
        | .bar0 off => bytesOf s.bar0Word off n
        | .bar2 off => bytesOf s.bar2Word off n
      { s with hostReads := s.hostReads ++ [(addr, bs)] }
    | .write bs =>
      match addr with
      | .memory a => s.hostStore a (bs.take (2 ^ 64 - a))
      | .bar0 off => wordWrites State.bar0Write off bs s
      | .bar2 off => wordWrites State.bar2Write off bs s)

end Sys2Proof.Machine
end

