-- ==== Sys2Proof/Machine/Dispatch.lean ====
section
/-! DEFINITION. Machine/Dispatch.lean: each instruction and event to its meaning. -/

namespace Sys2Proof.Machine

def exec (i : Instr) (s : State) : Host.Outcome State Fault Refusal :=
  match i with
  | .mv p d a => Sys2Proof.Machine.execMv p d a s
  | .add p d a => Sys2Proof.Machine.execAdd p d a s
  | .sub p d a => Sys2Proof.Machine.execSub p d a s
  | .mul p d a => Sys2Proof.Machine.execMul p d a s
  | .mulh p d a => Sys2Proof.Machine.execMulh p d a s
  | .div p d a => Sys2Proof.Machine.execDiv p d a s
  | .rem p d a => Sys2Proof.Machine.execRem p d a s
  | .and p d a => Sys2Proof.Machine.execAnd p d a s
  | .or p d a => Sys2Proof.Machine.execOr p d a s
  | .xor p d a => Sys2Proof.Machine.execXor p d a s
  | .shl p d a => Sys2Proof.Machine.execShl p d a s
  | .shr p d a => Sys2Proof.Machine.execShr p d a s
  | .sra p d a => Sys2Proof.Machine.execSra p d a s
  | .cmp p d a => Sys2Proof.Machine.execCmp p d a s
  | .addi p d imm => Sys2Proof.Machine.execAddi p d imm s
  | .li p d imm => Sys2Proof.Machine.execLi p d imm s
  | .cmpi p d imm => Sys2Proof.Machine.execCmpi p d imm s
  | .shli p d imm => Sys2Proof.Machine.execShli p d imm s
  | .shri p d imm => Sys2Proof.Machine.execShri p d imm s
  | .srai p d imm => Sys2Proof.Machine.execSrai p d imm s
  | .rori p d imm => Sys2Proof.Machine.execRori p d imm s
  | .clz p d => Sys2Proof.Machine.execClz p d s
  | .ctz p d => Sys2Proof.Machine.execCtz p d s
  | .popc p d => Sys2Proof.Machine.execPopc p d s
  | .brev p d => Sys2Proof.Machine.execBrev p d s
  | .not p d => Sys2Proof.Machine.execNot p d s
  | .neg p d => Sys2Proof.Machine.execNeg p d s
  | .abs p d => Sys2Proof.Machine.execAbs p d s
  | .sextB p d => Sys2Proof.Machine.execSextB p d s
  | .sextH p d => Sys2Proof.Machine.execSextH p d s
  | .sextW p d => Sys2Proof.Machine.execSextW p d s
  | .zextB p d => Sys2Proof.Machine.execZextB p d s
  | .zextH p d => Sys2Proof.Machine.execZextH p d s
  | .zextW p d => Sys2Proof.Machine.execZextW p d s
  | .setc p d c => Sys2Proof.Machine.execSetc p d c s
  | .loop p d imm => Sys2Proof.Machine.execLoop p d imm s
  | .b p off => Sys2Proof.Machine.execB p off s
  | .beq p off => Sys2Proof.Machine.execBeq p off s
  | .bne p off => Sys2Proof.Machine.execBne p off s
  | .blt p off => Sys2Proof.Machine.execBlt p off s
  | .bge p off => Sys2Proof.Machine.execBge p off s
  | .call p d a => Sys2Proof.Machine.execCall p d a s
  | .jmp p a => Sys2Proof.Machine.execJmp p a s
  | .cMv p d a => Sys2Proof.Machine.execCMv p d a s
  | .cAdd p d a => Sys2Proof.Machine.execCAdd p d a s
  | .cAddi p d imm => Sys2Proof.Machine.execCAddi p d imm s
  | .cSetaddr p d a => Sys2Proof.Machine.execCSetaddr p d a s
  | .cSetb p d a => Sys2Proof.Machine.execCSetb p d a s
  | .cSetbx p d a => Sys2Proof.Machine.execCSetbx p d a s
  | .cAndp p d a => Sys2Proof.Machine.execCAndp p d a s
  | .cSeal p d a => Sys2Proof.Machine.execCSeal p d a s
  | .cUnseal p d a => Sys2Proof.Machine.execCUnseal p d a s
  | .cInv p d a => Sys2Proof.Machine.execCInv p d a s
  | .cGaddr p d a => Sys2Proof.Machine.execCGaddr p d a s
  | .cGbase p d a => Sys2Proof.Machine.execCGbase p d a s
  | .cGlen p d a => Sys2Proof.Machine.execCGlen p d a s
  | .cGperm p d a => Sys2Proof.Machine.execCGperm p d a s
  | .cGtype p d a => Sys2Proof.Machine.execCGtype p d a s
  | .cGtag p d a => Sys2Proof.Machine.execCGtag p d a s
  | .cClrtag p d a => Sys2Proof.Machine.execCClrtag p d a s
  | .cLd p d m => Sys2Proof.Machine.execCLd p d m s
  | .cSt p d m => Sys2Proof.Machine.execCSt p d m s
  | .cFit p d a => Sys2Proof.Machine.execCFit p d a s
  | .cSnap p d a => Sys2Proof.Machine.execCSnap p d a s
  | .cPaint p d a => Sys2Proof.Machine.execCPaint p d a s
  | .cSweep p d a => Sys2Proof.Machine.execCSweep p d a s
  | .cSweepq p d a => Sys2Proof.Machine.execCSweepq p d a s
  | .ldW p d m => Sys2Proof.Machine.execLdW p d m s
  | .stW p d m => Sys2Proof.Machine.execStW p d m s
  | .ldD p d m => Sys2Proof.Machine.execLdD p d m s
  | .stD p d m => Sys2Proof.Machine.execStD p d m s
  | .ldB p d m => Sys2Proof.Machine.execLdB p d m s
  | .stB p d m => Sys2Proof.Machine.execStB p d m s
  | .ldH p d m => Sys2Proof.Machine.execLdH p d m s
  | .stH p d m => Sys2Proof.Machine.execStH p d m s
  | .vLd p d m => Sys2Proof.Machine.execVLd p d m s
  | .vSt p d m => Sys2Proof.Machine.execVSt p d m s
  | .ldWz p d m => Sys2Proof.Machine.execLdWz p d m s
  | .ldBz p d m => Sys2Proof.Machine.execLdBz p d m s
  | .ldHz p d m => Sys2Proof.Machine.execLdHz p d m s
  | .vGth p d m => Sys2Proof.Machine.execVGth p d m s
  | .vSct p d m => Sys2Proof.Machine.execVSct p d m s
  | .vLdb p d m => Sys2Proof.Machine.execVLdb p d m s
  | .vLds p d m => Sys2Proof.Machine.execVLds p d m s
  | .vSts p d m => Sys2Proof.Machine.execVSts p d m s
  | .wsQ p d m => Sys2Proof.Machine.execWsQ p d m s
  | .pf p d m => Sys2Proof.Machine.execPf p d m s
  | .kLd p d m => Sys2Proof.Machine.execKLd p d m s
  | .kSt p d m => Sys2Proof.Machine.execKSt p d m s
  | .amAdd p d m => Sys2Proof.Machine.execAmAdd p d m s
  | .amAnd p d m => Sys2Proof.Machine.execAmAnd p d m s
  | .amOr p d m => Sys2Proof.Machine.execAmOr p d m s
  | .amXor p d m => Sys2Proof.Machine.execAmXor p d m s
  | .amMin p d m => Sys2Proof.Machine.execAmMin p d m s
  | .amMax p d m => Sys2Proof.Machine.execAmMax p d m s
  | .amSwp p d m => Sys2Proof.Machine.execAmSwp p d m s
  | .amCas p d m => Sys2Proof.Machine.execAmCas p d m s
  | .amFadd p d m => Sys2Proof.Machine.execAmFadd p d m s
  | .amUpdAdd p d m => Sys2Proof.Machine.execAmUpdAdd p d m s
  | .amUpdOr p d m => Sys2Proof.Machine.execAmUpdOr p d m s
  | .amUpdAnd p d m => Sys2Proof.Machine.execAmUpdAnd p d m s
  | .amUpdXor p d m => Sys2Proof.Machine.execAmUpdXor p d m s
  | .amUpdMin p d m => Sys2Proof.Machine.execAmUpdMin p d m s
  | .amUpdMax p d m => Sys2Proof.Machine.execAmUpdMax p d m s
  | .amUpdFadd p d m => Sys2Proof.Machine.execAmUpdFadd p d m s
  | .swInit p d m => Sys2Proof.Machine.execSwInit p d m s
  | .swWait p d m => Sys2Proof.Machine.execSwWait p d m s
  | .swGen p d m => Sys2Proof.Machine.execSwGen p d m s
  | .barArv p d imm => Sys2Proof.Machine.execBarArv p d imm s
  | .barWt p d imm => Sys2Proof.Machine.execBarWt p d imm s
  | .barCfg p d imm => Sys2Proof.Machine.execBarCfg p d imm s
  | .mbPut p d a => Sys2Proof.Machine.execMbPut p d a s
  | .mbGet p d a => Sys2Proof.Machine.execMbGet p d a s
  | .mbTest p d => Sys2Proof.Machine.execMbTest p d s
  | .fence p d imm => Sys2Proof.Machine.execFence p d imm s
  | .vMv p d a => Sys2Proof.Machine.execVMv p d a s
  | .vAdd p d a => Sys2Proof.Machine.execVAdd p d a s
  | .vSub p d a => Sys2Proof.Machine.execVSub p d a s
  | .vMul p d a => Sys2Proof.Machine.execVMul p d a s
  | .vFma p d a => Sys2Proof.Machine.execVFma p d a s
  | .vFms p d a => Sys2Proof.Machine.execVFms p d a s
  | .vMin p d a => Sys2Proof.Machine.execVMin p d a s
  | .vMax p d a => Sys2Proof.Machine.execVMax p d a s
  | .vAbs p d a => Sys2Proof.Machine.execVAbs p d a s
  | .vNeg p d a => Sys2Proof.Machine.execVNeg p d a s
  | .vIadd p d a => Sys2Proof.Machine.execVIadd p d a s
  | .vIsub p d a => Sys2Proof.Machine.execVIsub p d a s
  | .vImul p d a => Sys2Proof.Machine.execVImul p d a s
  | .vImin p d a => Sys2Proof.Machine.execVImin p d a s
  | .vImax p d a => Sys2Proof.Machine.execVImax p d a s
  | .vAnd p d a => Sys2Proof.Machine.execVAnd p d a s
  | .vOr p d a => Sys2Proof.Machine.execVOr p d a s
  | .vXor p d a => Sys2Proof.Machine.execVXor p d a s
  | .vShl p d a => Sys2Proof.Machine.execVShl p d a s
  | .vShr p d a => Sys2Proof.Machine.execVShr p d a s
  | .vSra p d a => Sys2Proof.Machine.execVSra p d a s
  | .vFeq p d a => Sys2Proof.Machine.execVFeq p d a s
  | .vFlt p d a => Sys2Proof.Machine.execVFlt p d a s
  | .vFle p d a => Sys2Proof.Machine.execVFle p d a s
  | .vFun p d a => Sys2Proof.Machine.execVFun p d a s
  | .vIeq p d a => Sys2Proof.Machine.execVIeq p d a s
  | .vIlt p d a => Sys2Proof.Machine.execVIlt p d a s
  | .vIle p d a => Sys2Proof.Machine.execVIle p d a s
  | .vIlo p d a => Sys2Proof.Machine.execVIlo p d a s
  | .vIabs p d a => Sys2Proof.Machine.execVIabs p d a s
  | .vBcs p d a => Sys2Proof.Machine.execVBcs p d a s
  | .vLi p d imm => Sys2Proof.Machine.execVLi p d imm s
  | .kAnd p d a => Sys2Proof.Machine.execKAnd p d a s
  | .kOr p d a => Sys2Proof.Machine.execKOr p d a s
  | .kXor p d a => Sys2Proof.Machine.execKXor p d a s
  | .kAndn p d a => Sys2Proof.Machine.execKAndn p d a s
  | .kNot p d a => Sys2Proof.Machine.execKNot p d a s
  | .kMv p d a => Sys2Proof.Machine.execKMv p d a s
  | .vCvtfi p d a => Sys2Proof.Machine.execVCvtfi p d a s
  | .vCvtif p d a => Sys2Proof.Machine.execVCvtif p d a s
  | .vExp2 p d a => Sys2Proof.Machine.execVExp2 p d a s
  | .vLog2 p d a => Sys2Proof.Machine.execVLog2 p d a s
  | .vRcp p d a => Sys2Proof.Machine.execVRcp p d a s
  | .vRsq p d a => Sys2Proof.Machine.execVRsq p d a s
  | .vSqrt p d a => Sys2Proof.Machine.execVSqrt p d a s
  | .vPerm p d a => Sys2Proof.Machine.execVPerm p d a s
  | .vBcl p d imm => Sys2Proof.Machine.execVBcl p d imm s
  | .vRot p d imm => Sys2Proof.Machine.execVRot p d imm s
  | .vRsum p d a => Sys2Proof.Machine.execVRsum p d a s
  | .vRmax p d a => Sys2Proof.Machine.execVRmax p d a s
  | .vRmin p d a => Sys2Proof.Machine.execVRmin p d a s
  | .vIrsum p d a => Sys2Proof.Machine.execVIrsum p d a s
  | .vT8dec p d a => Sys2Proof.Machine.execVT8dec p d a s
  | .vT8enc p d a => Sys2Proof.Machine.execVT8enc p d a s
  | .t8Ld p m => Sys2Proof.Machine.execT8Ld p m s
  | .t8LdE4 p => Sys2Proof.Machine.execT8LdE4 p s
  | .t8LdE5 p => Sys2Proof.Machine.execT8LdE5 p s
  | .vExt p d a => Sys2Proof.Machine.execVExt p d a s
  | .vIns p d a => Sys2Proof.Machine.execVIns p d a s
  | .kPop p d a => Sys2Proof.Machine.execKPop p d a s
  | .kFirst p d a => Sys2Proof.Machine.execKFirst p d a s
  | .vRnd p d a => Sys2Proof.Machine.execVRnd p d a s
  | .vCmpr p d a => Sys2Proof.Machine.execVCmpr p d a s
  | .mLds p d m => Sys2Proof.Machine.execMLds p d m s
  | .mStr p d m => Sys2Proof.Machine.execMStr p d m s
  | .mMrot p d m => Sys2Proof.Machine.execMMrot p d m s
  | .mRd p d m => Sys2Proof.Machine.execMRd p d m s
  | .mCmd p d m => Sys2Proof.Machine.execMCmd p d m s
  | .mRdz p d m => Sys2Proof.Machine.execMRdz p d m s
  | .mSwap p => Sys2Proof.Machine.execMSwap p s
  | .mZero p => Sys2Proof.Machine.execMZero p s
  | .mDrain p => Sys2Proof.Machine.execMDrain p s
  | .mQ p d => Sys2Proof.Machine.execMQ p d s
  | .endF p => Sys2Proof.Machine.execEndF p s
  | .send p d a => Sys2Proof.Machine.execSend p d a s
  | .sendU p d a => Sys2Proof.Machine.execSendU p d a s
  | .fork p d a => Sys2Proof.Machine.execFork p d a s
  | .join p a => Sys2Proof.Machine.execJoin p a s
  | .jcInit p d a => Sys2Proof.Machine.execJcInit p d a s
  | .chunk p d a => Sys2Proof.Machine.execChunk p d a s
  | .yield p => Sys2Proof.Machine.execYield p s
  | .hEn p a => Sys2Proof.Machine.execHEn p a s
  | .hDis p a => Sys2Proof.Machine.execHDis p a s
  | .hPend p a => Sys2Proof.Machine.execHPend p a s
  | .hClrp p a => Sys2Proof.Machine.execHClrp p a s
  | .inPop p d a => Sys2Proof.Machine.execInPop p d a s
  | .inCnt p d a => Sys2Proof.Machine.execInCnt p d a s
  | .widFld p d imm => Sys2Proof.Machine.execWidFld p d imm s
  | .tsAdd p d imm => Sys2Proof.Machine.execTsAdd p d imm s
  | .hTag p d a => Sys2Proof.Machine.execHTag p d a s
  | .cp p d a => Sys2Proof.Machine.execCp p d a s
  | .cpTry p d a => Sys2Proof.Machine.execCpTry p d a s
  | .tkQ p d a => Sys2Proof.Machine.execTkQ p d a s
  | .slvBegin p d a => Sys2Proof.Machine.execSlvBegin p d a s
  | .slvEnd p => Sys2Proof.Machine.execSlvEnd p s
  | .slvHclr p => Sys2Proof.Machine.execSlvHclr p s
  | .slvQ p d a => Sys2Proof.Machine.execSlvQ p d a s
  | .cpRsm p d a => Sys2Proof.Machine.execCpRsm p d a s
  | .rsr p d imm => Sys2Proof.Machine.execRsr p d imm s
  | .wsr p d imm => Sys2Proof.Machine.execWsr p d imm s
  | .kcallSliceEnd p imm => Sys2Proof.Machine.execKcallSliceEnd p imm s
  | .kcallBudget p imm => Sys2Proof.Machine.execKcallBudget p imm s
  | .kcallStops p imm => Sys2Proof.Machine.execKcallStops p imm s
  | .kcallUnbound p imm => Sys2Proof.Machine.execKcallUnbound p imm s
  | .kcallRevoke p imm => Sys2Proof.Machine.execKcallRevoke p imm s
  | .kcallSweepQuery p imm => Sys2Proof.Machine.execKcallSweepQuery p imm s
  | .kcallOther p imm => Sys2Proof.Machine.execKcallOther p imm s
  | .tret p => Sys2Proof.Machine.execTret p s
  | .tretSkip p => Sys2Proof.Machine.execTretSkip p s
  | .cslInst p d a => Sys2Proof.Machine.execCslInst p d a s
  | .cslRbld p d a => Sys2Proof.Machine.execCslRbld p d a s
  | .cslBind p d a => Sys2Proof.Machine.execCslBind p d a s
  | .cslQ p d a => Sys2Proof.Machine.execCslQ p d a s
  | .pairOn p d a => Sys2Proof.Machine.execPairOn p d a s
  | .pairOff p d => Sys2Proof.Machine.execPairOff p d s
  | .brk p imm => Sys2Proof.Machine.execBrk p imm s
  | .ctxSv p a => Sys2Proof.Machine.execCtxSv p a s
  | .ctxLd p d a => Sys2Proof.Machine.execCtxLd p d a s
  | .accSv p a => Sys2Proof.Machine.execAccSv p a s
  | .accLd p a => Sys2Proof.Machine.execAccLd p a s
  | .idle p => Sys2Proof.Machine.execIdle p s
  | .outstandingResultReturn tile set => Sys2Proof.Machine.execOutstandingResultReturn tile set s
  | .sweepComplete epoch => Sys2Proof.Machine.execSweepComplete epoch s
  | .refreshStart bank => Sys2Proof.Machine.execRefreshStart bank s
  | .refreshEnd bank => Sys2Proof.Machine.execRefreshEnd bank s
  | .updateMerge tile line => Sys2Proof.Machine.execUpdateMerge tile line s
  | .t8TableEffect tile set => Sys2Proof.Machine.execT8TableEffect tile set s
  | .lds tile => Sys2Proof.Machine.execLds tile s
  | .swap tile => Sys2Proof.Machine.execSwap tile s
  | .str tile => Sys2Proof.Machine.execStr tile s
  | .mrot tile => Sys2Proof.Machine.execMrot tile s
  | .mrotArrival tile => Sys2Proof.Machine.execMrotArrival tile s
  | .rd tile => Sys2Proof.Machine.execRd tile s
  | .zero tile => Sys2Proof.Machine.execZero tile s
  | .rdz tile => Sys2Proof.Machine.execRdz tile s
  | .messageArrival idx => Sys2Proof.Machine.execMessageArrival idx s
  | .queueAdmit tile idx => Sys2Proof.Machine.execQueueAdmit tile idx s
  | .unboundDelivery tile ctx tag => Sys2Proof.Machine.execUnboundDelivery tile ctx tag s
  | .entryRewrite ctx tag image => Sys2Proof.Machine.execEntryRewrite ctx tag image s
  | .makeFiring tile ctx tag => Sys2Proof.Machine.execMakeFiring tile ctx tag s
  | .taskTake tile => Sys2Proof.Machine.execTaskTake tile s
  | .taskSteal tile => Sys2Proof.Machine.execTaskSteal tile s
  | .launchRecord queue => Sys2Proof.Machine.execLaunchRecord queue s
  | .dispatchMessage slot => Sys2Proof.Machine.execDispatchMessage slot s
  | .launchCompletion slot => Sys2Proof.Machine.execLaunchCompletion slot s
  | .releaseFlush slot => Sys2Proof.Machine.execReleaseFlush slot s
  | .horizonUpdate part => Sys2Proof.Machine.execHorizonUpdate part s
  | .commit tile serial => Sys2Proof.Machine.execCommit tile serial s
  | .abort tile serial => Sys2Proof.Machine.execAbort tile serial s
  | .rerun tile serial => Sys2Proof.Machine.execRerun tile serial s
  | .pin tile set => Sys2Proof.Machine.execPin tile set s
  | .copyStart tile cpSlot => Sys2Proof.Machine.execCopyStart tile cpSlot s
  | .copyWriteUnit tile cpSlot => Sys2Proof.Machine.execCopyWriteUnit tile cpSlot s
  | .copyComplete tile cpSlot => Sys2Proof.Machine.execCopyComplete tile cpSlot s
  | .copyStop tile cpSlot code => Sys2Proof.Machine.execCopyStop tile cpSlot code s
  | .completionMessage idx => Sys2Proof.Machine.execCompletionMessage idx s
  | .resumePacket idx => Sys2Proof.Machine.execResumePacket idx s
  | .edgeChunk tile cpSlot => Sys2Proof.Machine.execEdgeChunk tile cpSlot s
  | .budgetRefill ctx => Sys2Proof.Machine.execBudgetRefill ctx s
  | .clusterRound cluster ctx => Sys2Proof.Machine.execClusterRound cluster ctx s
  | .terminate tile set => Sys2Proof.Machine.execTerminate tile set s
  | .budgetExpiry tile => Sys2Proof.Machine.execBudgetExpiry tile s
  | .graceExpiry tile => Sys2Proof.Machine.execGraceExpiry tile s
  | .sliceEnd tile => Sys2Proof.Machine.execSliceEnd tile s
  | .leaseExpiry idx => Sys2Proof.Machine.execLeaseExpiry idx s
  | .qnowAdvance => Sys2Proof.Machine.execQnowAdvance s
  | .qdoneAdvance => Sys2Proof.Machine.execQdoneAdvance s
  | .quarantineEnqueue part item => Sys2Proof.Machine.execQuarantineEnqueue part item s
  | .quarantineRelease part idx => Sys2Proof.Machine.execQuarantineRelease part idx s
  | .tailWrite queue value => Sys2Proof.Machine.execTailWrite queue value s
  | .cheadWrite queue value => Sys2Proof.Machine.execCheadWrite queue value s
  | .registerWrite reg value priv => Sys2Proof.Machine.execRegisterWrite reg value priv s
  | .acquireRecord queue => Sys2Proof.Machine.execAcquireRecord queue s
  | .releaseRecord queue => Sys2Proof.Machine.execReleaseRecord queue s
  | .collectiveAbort queue => Sys2Proof.Machine.execCollectiveAbort queue s
  | .capsuleRelease queue => Sys2Proof.Machine.execCapsuleRelease queue s
  | .hostSync queue => Sys2Proof.Machine.execHostSync queue s
  | .reservedRecord queue => Sys2Proof.Machine.execReservedRecord queue s
  | .hostMemAccess addr op => Sys2Proof.Machine.execHostMemAccess addr op s
  | .flushRequest src queue seq => Sys2Proof.Machine.execFlushRequest src queue seq s
  | .flushAcknowledgement pkg queue seq => Sys2Proof.Machine.execFlushAcknowledgement pkg queue seq s
  | .fabricWrite unit => Sys2Proof.Machine.execFabricWrite unit s
  | .fabricReadRequest unit => Sys2Proof.Machine.execFabricReadRequest unit s
  | .fabricReadResponse unit => Sys2Proof.Machine.execFabricReadResponse unit s
  | .dropNotice unit => Sys2Proof.Machine.execDropNotice unit s
  | .abortToken ctx group attempt => Sys2Proof.Machine.execAbortToken ctx group attempt s
  | .linkRetrain port => Sys2Proof.Machine.execLinkRetrain port s
  | .linkReturn port => Sys2Proof.Machine.execLinkReturn port s
  | .portDown port => Sys2Proof.Machine.execPortDown port s
  | .flitRetry port => Sys2Proof.Machine.execFlitRetry port s
  | .partWrite part value => Sys2Proof.Machine.execPartWrite part value s
  | .scrub part => Sys2Proof.Machine.execScrub part s
  | .partitionRelease part => Sys2Proof.Machine.execPartitionRelease part s
  | .fusion shape base => Sys2Proof.Machine.execFusion shape base s
  | .split part => Sys2Proof.Machine.execSplit part s
  | .keyWrite slot write => Sys2Proof.Machine.execKeyWrite slot write s
  | .reportRequest chan request => Sys2Proof.Machine.execReportRequest chan request s
  | .checkpoint part ask => Sys2Proof.Machine.execCheckpoint part ask s
  | .restore part manifest => Sys2Proof.Machine.execRestore part manifest s
  | .firmwareInstall part firmware => Sys2Proof.Machine.execFirmwareInstall part firmware s
  | .contrailBreakpoint ctx addr => Sys2Proof.Machine.execContrailBreakpoint ctx addr s
  | .contrailPatch capsule sect off halves => Sys2Proof.Machine.execContrailPatch capsule sect off halves s
  | .contrailAccess tile ctx set acc => Sys2Proof.Machine.execContrailAccess tile ctx set acc s
  | .machineCheck addr => Sys2Proof.Machine.execMachineCheck addr s
  | .patrolRead addr err => Sys2Proof.Machine.execPatrolRead addr err s
  | .coldReset => Sys2Proof.Machine.execColdReset s
  | .contextRegistration ctx info => Sys2Proof.Machine.execContextRegistration ctx info s
  | .makeResident tile ctx info => Sys2Proof.Machine.execMakeResident tile ctx info s
  | .contrailRelease tile set => Sys2Proof.Machine.execContrailRelease tile set s

end Sys2Proof.Machine
end

