-- ==== Sys2Proof/Machine/Fetch.lean ====
section
/-! DEFINITION. Machine/Fetch.lean: which register set issues, and the chain it issues (R28, R40, R265, R319). -/

namespace Sys2Proof.Machine

/-- One step's time (R5, R24): TIME rises by at least one, QNOW with it at each boundary of 2,048 clk (R339), and the free
values move on. DESIGN CHOICE, log 2. -/
def State.advance (s : State) : State :=
  let now := s.clk + 1 + Config.freeClk s.tick
  { s with clk := now, tick := s.tick + 1, qnow := s.qnow + (now / 2048 - s.clk / 2048) }

/-- A set with a firing that nothing keeps from issuing its next chain. A chain that waits is tested again. A
recovering firing pins first (R383). -/
def RegSet.active (r : RegSet) : Bool :=
  (match r.fir with
    | some f => f.term.isNone && (f.pinned || !f.recovering)
    | none => false) && !r.parked && r.pageWait.isNone && !r.debugStop

/-- Something urgent is ready on a tile and would start at once: its set is free (R28, R164). -/
def State.urgentDue (s : State) (n : Nat) : Bool :=
  match s.mayStart n with
  | some c => s.setFree n c true && s.readyWork n c true
  | none => false

/-- The chain that a set would issue lies in a body that is being rebuilt: it waits (R319). -/
def State.rebuilding (s : State) (r : RegSet) : Bool :=
  match s.sectionAt r.pcc.addr with
  | some (n, _) => (match Map.get? s.capsules n with
    | some k => k.rebuild.isSome
    | none => false)
  | none => false

/-- Whether a set may issue (R28): an urgent firing that is not waiting suspends the normal one, and so does one that is
ready and starts at this boundary; nothing of its own runs on the partner of a pair (R385); Halo issues while its own program counter is live and it is not idle. -/
def State.canIssue (s : State) (u : Unit_) : Bool :=
  let t := s.tile u.tile
  if s.isPartner u.tile && u.set != .keeper then false
  else match u.set with
  | .keeper => t.keeper.pcc.tag && !t.keeper.parked && !t.idle
  | .urgent =>
    let urgent := s.regOf u.tile .urgent
    t.loaded.isSome && urgent.active && !s.rebuilding urgent
  | .normal =>
    let urgent := s.regOf u.tile .urgent
    let normal := s.regOf u.tile .normal
    t.loaded.isSome && normal.active && !s.rebuilding normal &&
      !(urgent.active && !urgent.waiting && !s.rebuilding urgent) && !s.urgentDue u.tile

/-- What the current set would do next: an instruction, a fault of the fetch, a breakpoint that Contrail placed, or
nothing that is an instruction. -/
inductive Fetched where
  | instr (i : Instr)
  | trap (code : BitVec 16)
  | breakpoint
  | bad
  deriving DecidableEq, Repr

/-- The chain at the front of a section's rest carries a repeat prefix (R44). -/
def repeats (hs : List Half) : Bool :=
  match cutChain 4 hs with
  | .ok (ps, _, _) => ps.any (fun h => halfMajor h == 27)
  | .error _ => false

/-- The chain at the program counter has begun: it waits, or some of its elements are done (R91). A breakpoint lies
before it (R322). -/
def RegSet.begun (r : RegSet) (hs : List Half) : Bool := r.waiting || (r.rcnt.remain != 0 && repeats hs)

/-- The chain at the program counter: R107 on PCC, a void body (R319), a breakpoint (R322), the bytes (R39). -/
def State.fetch (s : State) : Fetched :=
  let r := s.reg
  let a := r.pcc.addr
  match r.pcc.checkAccess a 2 (need [permEX]) with
  | some e => .trap e
  | none =>
    match s.sectionAt a with
    | none => .trap Code.capBound
    | some (n, sec) =>
      let void := match Map.get? s.capsules n with
        | some k => k.void
        | none => false
      let breaks := match Map.get? s.capsules n with
        | some k => k.breaks
        | none => []
      let rest := sec.code.drop (portable a / 2)
      if 2 * sec.code.length ≤ portable a then .trap Code.capBound
      else if void then .trap Code.cslVoid
      else if s.tctx.dbg && !r.brkPassed && !r.begun rest && breaks.contains (a / 2 ^ 28 % 16, portable a) then .breakpoint
      else match decode rest with
        | .ok (i, _) => .instr i
        | .error _ => .bad

end Sys2Proof.Machine
end

