-- ==== Sys2Proof/Machine/Place.lean ====
section
/-! DEFINITION. Machine/Place.lean: a code section placed as if a capsule had been installed, bound and fired, so that a
state's next step runs its first chain. -/

namespace Sys2Proof.Machine

/-- A firing whose first chain is about to issue, with nothing consumed. -/
def Firing.placed : Firing :=
  { ctx := 0, tag := 0, urgent := false, image := { cap := Cap.null, port := 0, ctrl := 0 }, ts := 0, wid := 0
    serial := 0, slot := none, off := 0, outputs := 0, pinned := false, recovering := false, parent := none
    origin := { consumed := [], pend := none, task := none }, popped := [], owed := [], actions := [], reads := [], claims := []
    replay := [], claimed := 0, journal := [], journalIn := [], journaled := 0, term := none, disagreed := false
    chains := 0 }

/-- Halfwords placed as section 0 of capsule 0, context 0 loaded on tile 0, and a normal firing at their first chain.
DESIGN CHOICE, log 15. -/
def State.place (s : State) (hs : List Half) : State :=
  let k : Capsule :=
    { ctx := 0, sections := [{ code := hs }], handlers := [], gots := [], params := [], trap := none, place := 0, image := [], gen := 0
      meas := 0, void := false, rebuild := none, released := false, breaks := [] }
  let pcc := Cap.root codeBase (2 * hs.length) (need [permLD, permEX, permGL])
  let s1 := { s with
    capsules := Map.set s.capsules 0 k
    contexts := Map.set s.contexts 0 { info := RegInfo.none, tvec := Cap.null, table := []
                                       edgebud := BitVec.ofNat 64 (2 ^ 56), left := 0, period := 0, attempts := [] }
    status := { s.status with ready := true, stage := 8 }
    agenda := [], cur := { tile := 0, set := .normal }, turn := true }
  let s2 := s1.setTile 0 { s1.tile 0 with loaded := some 0 }
  let r := (s2.tctxOf 0 0).normal
  s2.setTctxOf 0 0 { s2.tctxOf 0 0 with
    normal := { r with fir := some Firing.placed, pcc := pcc, waiting := false, parked := false, pageWait := none
                       debugStop := false }
    urgent := { (s2.tctxOf 0 0).urgent with fir := none } }

end Sys2Proof.Machine
end

