-- ==== Sys2Proof/Machine/Pairs.lean ====
section
/-! DEFINITION. Machine/Pairs.lean: what a pair of tiles does at each retired chain: the partner runs it again, and the
fingerprints of both move on (R385 to R387). -/

namespace Sys2Proof.Machine

/-! ## The fingerprint (R386) -/

/-- One byte into a CRC-64 with the ECMA-182 polynomial, its most significant bit first. -/
def crcByte (c : BitVec 64) (b : Byte) : BitVec 64 :=
  (List.range 8).foldl (fun (c : BitVec 64) _ => if c.msb then (c <<< 1) ^^^ 0x42F0E1EBA9EA3693 else c <<< 1)
    (c ^^^ (b.zeroExtend 64 <<< 56))

def crc64 (c : BitVec 64) (bs : List Byte) : BitVec 64 := bs.foldl crcByte c

/-! ## What a chain writes -/

/-- How many elements a chain has that starts or goes on in a set (R90, R91). -/
def RegSet.elements (r : RegSet) (p : Pfx) : Nat :=
  match p.rep with
  | none => 1
  | some q => if r.rcnt.remain = 0 then r.repCount q.count else r.rcnt.done.toNat + r.rcnt.remain.toNat

/-- The registers that a chain has written by its last element; s0 and c0 hold nothing. -/
def RegSet.chainWrites (r : RegSet) (i : Instr) : Mask :=
  let p := (prefixesOf i).1
  let n := r.elements p
  let m := if Pfx.step1 p || Pfx.step2 p then n else min n 1
  ((List.range m).foldl (fun a j => a ||| (baseUses (some j) i).wr) 0) &&& ~~~neverPending

/-- The values of registers, in register number order, the files in the order s, c, v, k; a result that is still outstanding
counts as it will be. A capability is its 16 bytes and its tag. DESIGN CHOICE, log 8. -/
def RegSet.written (r : RegSet) (m : Mask) : List Byte :=
  let r1 := r.pending.foldl (fun r q => r.apply q.res) r
  let pick (f : File) (g : Nat → List Byte) : List Byte :=
    ((List.range f.size).filter (fun i => m.getLsbD (f.base + i))).flatMap g
  pick .s (fun i => toBytes 8 (r1.getS (BitVec.ofNat 5 i)).toNat) ++
  pick .c (fun i => let x := r1.getC (BitVec.ofNat 4 i); toBytes 16 x.bits.toNat ++ toBytes 1 (bit x.tag)) ++
  pick .v (fun i => lanes64.flatMap (fun l => toBytes 4 (VReg.lane (r1.getV (BitVec.ofNat 5 i)) l).toNat)) ++
  pick .k (fun i => toBytes 8 (r1.getK (BitVec.ofNat 3 i)).toNat)

/-- The bytes of a store of n bytes at an address, as the firing then reads them. -/
def State.storedAt (s : State) (a n : Nat) : List Byte :=
  let q := spaceOf s.cur.tile a
  match q.1 with
  | .global => (match s.translateAll (s.info s.ctxn) .rd (pagePieces a n) with
    | .ok ps => s.readSpot { space := .global, off := a, pieces := ps } n
    | .error _ => [])
  | .window => (List.range n).map (fun i => Memory.read s.mtx.staging (q.2 + i))
  | sp => s.readBytes s.keyId (localKey s.cur.tile s.ctxn sp q.2) n

/-- The stores of element k of a chain, as address and length, from the state before it. -/
def State.storeSpans (s : State) (i : Instr) (k : Nat) : List (Nat × Nat) :=
  let lanes (p : Pfx) (a w : Nat) (delta : Nat → Nat) : List (Nat × Nat) :=
    (activeLanes (s.k p.maskReg)).map (fun l => (a + delta l, w))
  match i with
  | .stW p _ m => [(s.effective p m (4 * k), 4)]
  | .stD p _ m => [(s.effective p m (8 * k), 8)]
  | .stB p _ m => [(s.effective p m k, 1)]
  | .stH p _ m => [(s.effective p m (2 * k), 2)]
  | .kSt p _ m => [(s.effective p m 0, 8)]
  | .cSt p _ m => [(s.effective p m 0, 16)]
  | .vSt p _ m => let q := s.vecAccess p m k false true; lanes p q.1.a (elemWidth q.2.1) (fun l => l * elemWidth q.2.1)
  | .vSts p _ m => let q := s.strideAccess p m k true; lanes p q.1.a (elemWidth q.2.1) (strideDelta (s.stride p))
  | .vSct p d m =>
    let a := s.effective p m 0
    let w := elemWidth (s.vecFmt a).1
    let ix := s.v (stepField (Pfx.step1 p) k d + 1)
    ((activeLanes (s.k p.maskReg)).map (fun l => laneAddr a w ix l)).filterMap (fun x =>
      if lanePasses s.cur.tile (s.c m.cap) a w x then some (x, w) else none)
  | .amAdd p _ m | .amAnd p _ m | .amOr p _ m | .amXor p _ m | .amMin p _ m | .amMax p _ m | .amSwp p _ m | .amCas p _ m =>
    [(s.effective p m 0, 8)]
  | .amFadd p _ m => [(s.effective p m 0, elemWidth (s.vecFmt (s.effective p m 0)).1)]
  | .swInit p _ m => [(s.effective p m 0, 16)]
  | _ => []

/-- An address followed by its data. -/
def addressed (a : Nat) (bs : List Byte) : List Byte := toBytes 8 a ++ bs

/-- The stores of a whole chain from the state before its last element, with what stands there after it. An `am.upd`, which
reaches no memory yet, counts with its operand. DESIGN CHOICE, log 8. -/
def State.storesMade (t u : State) (i : Instr) : List Byte :=
  let n := t.reg.elements (prefixesOf i).1
  let held (p : Pfx) (m : MemOp) (d : BitVec 5) (fn : Nat) : List Byte :=
    addressed (t.effective p m 0) (toBytes (updateWidth fn) (t.s d).toNat)
  match i with
  | .amUpdAdd p d m => held p m d 0
  | .amUpdOr p d m => held p m d 1
  | .amUpdAnd p d m => held p m d 2
  | .amUpdXor p d m => held p m d 3
  | .amUpdMin p d m => held p m d 4
  | .amUpdMax p d m => held p m d 5
  | .amUpdFadd p d m => held p m d 6
  | _ => (List.range n).flatMap (fun k => (t.storeSpans i k).flatMap (fun q => addressed q.1 (u.storedAt q.1 q.2)))

/-! ## Retirement (R385 to R387) -/

/-- Bytes into both fingerprints. An error of the pair that no code detects shows as a difference between them: it is free.
DESIGN CHOICE, log 8. -/
def State.feedPair (s : State) (n q : Nat) (bs : List Byte) : State :=
  let s1 := s.setTile n { s.tile n with fprint := crc64 (s.tile n).fprint bs }
  s1.setTile q { s1.tile q with fprint := crc64 (s1.tile q).fprint bs ^^^ Config.pairUpset s.tick q }

/-- The chain that the current set issued in a state is over in the state after it, with its firing where that then stands:
it neither waits, nor has elements left, nor has raised a fault. -/
def State.retired (t u : State) (i : Instr) : Option LiveFiring :=
  match t.fir with
  | none => none
  | some f =>
    match ((u.tctxOf t.cur.tile t.ctxn).live t.cur.tile t.ctxn).find? (fun l => l.f.serial == f.serial) with
    | none => none
    | some l =>
      let r := (u.tctxOf t.cur.tile t.ctxn).regs t.cur.set
      if l.place != .set t.cur.set then some l
      else if r.waiting || (r.inTrap && !t.reg.inTrap) || l.f.term.isSome || ((prefixesOf i).1.rep.isSome && r.rcnt.remain != 0) then none
      else some l

/-- After a chain of a primary's firing: the partner has run it from the values forwarded, so that its registers are the
primary's; both fingerprints take what it wrote, and every 4,096 chains of the firing they are compared. -/
def State.retire (t u : State) (i : Instr) : State :=
  let n := t.cur.tile
  match t.partner n, t.retired u i with
  | some q, some l =>
    let r := (u.tctxOf n t.ctxn).regs t.cur.set
    let s1 := u.setTile q { u.tile q with mirror := Map.set (u.tile q).mirror (setCode t.cur.set) r }
    let s2 := s1.feedPair n q (r.written (t.reg.chainWrites i) ++ t.storesMade u i)
    let l1 : LiveFiring := { l with f := { l.f with chains := l.f.chains + 1 } }
    let s3 := s2.onFiring l (fun f => { f with chains := f.chains + 1 })
    if l1.f.chains % 4096 = 0 then (s3.comparePair l1).1 else s3
  | _, _ => u

/-- After a unit of a readout on a primary: the address of its row and its data (R386). -/
def State.readoutPrint (t u : State) (n : Nat) : State :=
  match t.partner n, t.headCmd n with
  | some q, some (ctx, c) =>
    if (u.tile n).matrix.queue == (t.tile n).matrix.queue then u
    else
      let off := c.rowOff c.step
      u.feedPair n q (addressed (loc + off) (Memory.readBytes u.mem (imageKey n ctx off) (32 * elemWidth c.fmt)))
  | _, _ => u

end Sys2Proof.Machine
end

