-- ==== Sys2Proof/Machine/Sched.lean ====
section
/-! DEFINITION. Machine/Sched.lean: which of the machine's parties acts next. Everything that may act at once is
independent in the manual; here one acts at a time, in an order that plain data in the state fixes (DESIGN CHOICE, log 1). -/

namespace Sys2Proof.Machine

/-! ## Register sets in turn -/

def setOrder : List SetId := [.urgent, .normal, .keeper]

/-- Every register set that may issue. -/
def State.runnable (s : State) : List Unit_ :=
  s.tiles.flatMap (fun q => (setOrder.map (fun k => { tile := q.1, set := k : Unit_ })).filter s.canIssue)

/-- Where a set stands in the order of rotation. -/
def Unit_.place (u : Unit_) : Nat :=
  u.tile * 3 + (match u.set with | .urgent => 0 | .normal => 1 | .keeper => 2)

/-- The set after the current one that may issue, around the package. -/
def State.nextUnit (s : State) : Unit_ :=
  match s.runnable.find? (fun u => decide (s.cur.place < u.place)) with
  | some u => u
  | none => match s.runnable.head? with
    | some u => u
    | none => s.cur

/-! ## What comes next -/

/-- The next act: an instruction or event of a state, a state that is all of the step, or bytes that decode to nothing. -/
inductive Next where
  | exec (i : Instr) (s : State)
  | event (e : Event) (s : State)
  | quiet (s : State)
  | bad

/-- The element that a chain performs next and the registers that it reads (R90); none where it performs nothing: it waits for
its tokens or is stopped by one (R36, R256), has no element, or passes a file. -/
def State.operandsNow (s : State) (i : Instr) : Option (Nat × Mask) :=
  let p := (prefixesOf i).1
  let r := s.reg
  let at_ (k : Nat) : Mask := (baseUses (some k) i).rd
  if !r.tokensIdle p.tokens || r.tokensStopped p.tokens then none
  else if p.rep.isNone then some (0, at_ 0)
  else
    let counted := if r.rcnt.remain = 0 then countReg p else 0
    let k := if r.rcnt.remain = 0 then 0 else r.rcnt.done.toNat
    let n := r.elements p
    if r.bad.any counted.getLsbD then some (k, counted)
    else if n = 0 || decide (65535 < n) || (at_ (n - 1) &&& pastMask) != 0 then none
    else some (k, at_ k)

/-- The lanes of a v register that element k of a chain reads (R138, R148, R149). -/
def State.lanesRead (s : State) (i : Instr) (k v : Nat) : Word :=
  let p := (prefixesOf i).1
  let m := s.k p.maskReg
  match i with
  | .vExt p d _ => laneMask [(s.s (stepField (Pfx.step1 p) k d)).toNat % 64]
  | .vIns _ _ _ => 0
  | .vBcl p _ n => if m = 0 then 0 else laneMask [(p.immI n % 64).toNat]
  | .vRot p _ n => laneMask ((activeLanes m).map (fun j => (j + (p.immI n % 64).toNat) % 64))
  | .vPerm p _ a =>
    let x := s.v p.x
    (if v = p.x.toNat then m else 0) |||
      (if v = (stepField (Pfx.step2 p) k a).toNat then laneMask ((activeLanes m).map (fun j => (VReg.lane x j).toNat % 64)) else 0)
  | _ => m

/-- A register or lane with an error is one that element k of a chain reads. -/
def State.readsBad (s : State) (i : Instr) (k : Nat) (rd : Mask) (j : Nat) : Bool :=
  if j < 256 then rd.getLsbD (if 80 ≤ j then j else if j < 48 then j else 89)
  else
    let v := (j - 256) / 64
    rd.getLsbD (48 + v) && (s.lanesRead i k v).getLsbD ((j - 256) % 64)

/-- The first register or lane that a chain consumes an error in, with the element that does (R91, R380). -/
def State.badOperand (s : State) (i : Instr) : Option (Nat × Nat) :=
  match s.operandsNow i with
  | some (k, rd) => (s.reg.bad.find? (s.readsBad i k rd)).map (fun j => (k, j))
  | none => none

/-- A chain consumes such a register: its element performs nothing (R381, R382). -/
def State.badChain (s : State) (i : Instr) (k j : Nat) : State :=
  let r := s.reg
  let p := (prefixesOf i).1
  let rep := if p.rep.isSome then { done := BitVec.ofNat 16 k, remain := BitVec.ofNat 16 (r.elements p - k) } else r.rcnt
  match s.badRead noAddr (keyReg s.cur.tile (setCode s.cur.set) j) with
  | .trap t code ta => (t.setReg { t.reg with rcnt := rep }).raise code ta
  | .gone t => t
  | _ => s

/-- The current set issues its next chain. A breakpoint that Contrail placed is KPR.BRK, which Halo takes (R278, R287). -/
def State.issue (s : State) : Next :=
  match s.fetch with
  | .instr i => (match s.badOperand i with
    | some (k, j) => .quiet { s.badChain i k j with turn := false }
    | none => .exec i { s.setReg { s.reg with brkPassed := false, moved := false } with turn := false })
  | .trap e => .quiet { s.raise e s.reg.pcc.addrW with turn := false }
  | .breakpoint => .quiet { (s.setReg { s.reg with debugStop := true, waiting := false }).wake s.cur.tile with turn := false }
  | .bad => .bad

/-! ## Events that may happen -/

def when_ (b : Bool) (e : Event) : List Event := if b then [e] else []

/-- The indexes of a list at which a test holds. -/
def indexesOf {α : Type} (p : Nat → α → Bool) (l : List α) : List Nat :=
  ((indexed l).filter (fun q => p q.1 q.2)).map (fun q => q.1)

/-- The results, pinning and termination of one set. -/
def State.setEvents (s : State) (n : Nat) (k : SetId) : List Event :=
  let r := s.regOf n k
  when_ (s.nextResult r false).isSome (.resultReturn n k) ++ when_ (s.nextResult r true).isSome (.t8TableEffect n k) ++
  (match r.fir with
    | some f =>
      let l : LiveFiring := { tile := n, ctx := f.ctx, place := .set k, f := f }
      when_ (f.recovering && !f.pinned && f.term.isNone && s.mayPin n f) (.pin n k) ++
        when_ (f.term.isSome && s.mayTerminate l) (.terminate n k)
    | none => [])

/-- What one class of a tile may take up. -/
def State.choiceEvents (s : State) (n c : Nat) (urgent : Bool) : List Event :=
  if s.mayStart n == some c && s.setFree n c urgent then
    match s.choose n c urgent with
    | some q =>
      if s.taskAhead n c urgent q then []
      else (match q.cand with
        | .rerun r => [.rerun n r.firing.serial]
        | _ => [.makeFiring n c q.tag])
    | none => []
  else []

/-- Tags of the unbound queue whose entry would take a message now. -/
def State.unboundTags (s : State) (n c : Nat) : List Nat :=
  let x := s.tctxOf n c
  ((x.unbound.map (fun m => m.tag)).eraseDups).filter (fun tag =>
    let e := x.entry tag
    ctrlKind e.image.ctrl != 0 && !e.lock && decide (x.heldFor tag + e.queue.length < ctrlDepth e.image.ctrl) && x.unbound.any (boundTo e tag))

/-- A message at the ingress that would be placed. -/
def State.mayAdmit (s : State) (n i : Nat) (m : Msg) : Bool :=
  let t := s.tile n
  !(t.ingress.take i).any (blocks m) && ((s.setTile n { t with ingress := t.ingress.eraseIdx i }).takeIn m).isSome

/-- What a copy slot may do. -/
def State.copyEvents (s : State) (n i : Nat) (k : Copy) : List Event :=
  when_ (s.mayStartCopy n k) (.copyStart n i) ++ when_ (s.mayMove n k && !s.throughEdge n k) (.copyWriteUnit n i) ++
  when_ (s.mayChunk n k) (.edgeChunk n i) ++ when_ (s.mayComplete n k) (.copyComplete n i) ++
  (match k.stop with
    | some e => when_ k.started (.copyStop n i e.toNat)
    | none => [])

/-- What may happen on one tile. -/
def State.tileEvents (s : State) (n : Nat) (t : Tile) : List Event :=
  setOrder.flatMap (s.setEvents n) ++ (match t.loaded with
    | some c => s.choiceEvents n c true ++ s.choiceEvents n c false
    | none => []) ++
  (match t.deque.getLast? with
    | some k => when_ (s.mayTake n k) (.taskTake n)
    | none => []) ++
  when_ (s.victim n).isSome (.taskSteal n) ++
  ((t.live n).filter s.mayCommit).map (fun l => .commit n l.f.serial) ++
  (indexesOf (s.mayAdmit n) t.ingress).map (fun i => .queueAdmit n i) ++
  t.ctxs.flatMap (fun q => (s.unboundTags n q.1).map (fun tag => .unboundDelivery n q.1 tag) ++
    (q.2.entries.filter (fun e => e.2.next.isSome)).map (fun e => .entryWrite n q.1 e.1)) ++
  (indexed t.slots).flatMap (fun q => match q.2 with
    | some k => s.copyEvents n q.1 k
    | none => []) ++
  s.matrixEvent n ++ (match t.updates with
    | u :: _ => [.updateMerge n (u.1 / 64)]
    | [] => []) ++
  when_ (s.budgetOut n) (.budgetExpiry n) ++ when_ (s.graceOut n && s.mayLeave n) (.graceExpiry n) ++ when_ (s.sliceOver n && s.mayLeave n) (.sliceEnd n)

/-- A message in flight may arrive. -/
def State.mayArrive (s : State) (i : Nat) (m : Msg) : Bool :=
  m.knd == 6 || !(s.net.take i).any (fun q => q.src == m.src && q.dst == m.dst && q.urg == m.urg && q.knd != 6)

def State.netEvents (s : State) : List Event :=
  (indexesOf s.mayArrive s.net).map (fun i => match s.net[i]? with
    | some m => if m.knd = 6 then .resumePacket i else if m.knd = 4 then .completionMessage i else .messageArrival i
    | none => .messageArrival i)

/-- A launch may send, complete or be flushed. -/
def State.launchEvents (s : State) (slot : Nat) (l : Launch) : List Event :=
  when_ (s.maySend slot l) (.dispatchMessage slot) ++
  when_ (l.sentAll && !l.complete && !s.slotWork slot) (.launchCompletion slot) ++ when_ (s.flushDue l) (.releaseFlush slot)

/-- What a dispatcher may do for one queue. -/
def State.queueEvents (s : State) (n : Nat) : List Event :=
  when_ (s.dueRelease n).isSome (.releaseRecord n) ++ when_ (s.dueCapsule n).isSome (.capsuleRelease n) ++
  when_ (s.dueSync n).isSome (.hostSync n) ++
  (match (s.queue n).held with
    | some l => when_ (!s.launchBlocked l) (.launchRecord n)
    | none => []) ++
  (match s.ringRecord n with
    | some r => (match recType r with
      | 1 => [.launchRecord n] | 2 => [.acquireRecord n] | 3 => [.releaseRecord n] | 4 => [.collectiveAbort n]
      | 5 => [.capsuleRelease n] | 6 => [.hostSync n] | _ => [.reservedRecord n])
    | none => [])

/-- The tree's value has not reached every tile, or a floor is to be reset. -/
def State.horizonDue (s : State) (p : Nat) : Bool :=
  s.tiles.any (fun q => quadOf q.1 == p && q.2.horizon != s.horizon p) || ((s.contributors p).isEmpty && (s.part p).floor != 0)

/-- What a partition may do. -/
def State.partEvents (s : State) (p : Nat) : List Event :=
  let q := s.part p
  when_ (s.horizonDue p) (.horizonUpdate p) ++ when_ (q.st == .scrubbing) (.scrub p) ++ when_ (s.releaseDue p) (.partitionRelease p) ++
  when_ (q.split && !s.mrotQueued (s.group p)) (.split p) ++ when_ (s.checkpointDue p) (.checkpoint p) ++
  (indexesOf (fun _ i => s.mayRelease i) q.quar).map (fun i => .quarantineRelease p i)

/-- The partitions that anything is said of. -/
def State.partsInUse (s : State) : List Nat := (s.parts.map (fun q => q.1) ++ s.tiles.map (fun q => quadOf q.1)).eraseDups

/-- Refresh windows that open or close (R133). -/
def State.refreshEvents (s : State) : List Event :=
  ((List.range 640).filter (fun b => s.windowOpen b && !Keys.mem s.refreshing b)).map (fun b => .refreshStart b) ++
  (s.refreshing.filter (fun b => !s.windowOpen b)).map (fun b => .refreshEnd b)

/-- An event of the outside is one that the device takes: before READY and after FAIL it is deaf to all but a cold reset and the
host's reads of its status and of memory (R393). -/
def State.heeds (s : State) : Instr → Bool
  | .coldReset => true
  | .hostMemAccess _ _ => true
  | _ => s.status.ready

/-- The events that may happen now. Nothing else happens before bring-up is over, and nothing at all after FAIL (R393). -/
def State.enabled (s : State) : List Event :=
  if s.needsBringUp then [.bringUp]
  else if !s.status.ready then []
  else
    s.tiles.flatMap (fun q => s.tileEvents q.1 q.2) ++ s.netEvents ++
    s.clusters.flatMap (fun q => (q.2.rounds.filter (fun r => decide (8 ≤ r.parts.length))).map (fun r => .clusterRound q.1 r.ctx)) ++
    s.launches.flatMap (fun q => s.launchEvents q.1 q.2) ++ s.queues.flatMap (fun q => s.queueEvents q.1) ++
    s.partsInUse.flatMap s.partEvents ++
    (s.contexts.filter (fun q => s.refillDue q.2)).map (fun q => .budgetRefill q.1) ++
    (s.sweeps.filter s.sweepDone).map (fun w => .sweepComplete w.epoch) ++
    (indexesOf (fun _ l => decide (l.ends ≤ s.clk)) s.leases).map (fun i => .leaseExpiry i) ++
    (indexesOf (fun _ q => !q.lost && s.portState q.port == .up) s.posted).map (fun i => .postedDone i) ++
    s.wiped.map (fun a => .patrolRead a) ++
    s.tiles.flatMap (fun q => setOrder.flatMap (fun k => ((s.regOf q.1 k).owedKeys q.1 k).map (fun a => .patrolRead a))) ++ s.checks.map (fun a => .machineCheck a) ++
    when_ s.qnowDue .qnowAdvance ++ when_ s.qdoneDue .qdoneAdvance ++
    (s.ports.filter (fun q => match q.2 with
      | .retraining since => decide (since + retrainClk < s.clk)
      | _ => false)).map (fun q => .portDown q.1) ++
    (s.restores.filter (fun q => s.restoreDue q.1 q.2)).map (fun q => .restoreGo q.1) ++
    (s.capsules.filter (fun q => s.rebuildDue q.1 q.2)).map (fun q => .rebuildEnd q.1) ++ s.refreshEvents

/-- An event performed, with the meaning of its row of the table of operations. -/
def Event.run (e : Event) (s : State) : Host.Outcome State Fault Refusal :=
  match e with
  | .resultReturn n k => execOutstandingResultReturn n k s
  | .sweepComplete w => execSweepComplete w s
  | .refreshStart b => execRefreshStart b s
  | .refreshEnd b => execRefreshEnd b s
  | .updateMerge n l => execUpdateMerge n l s
  | .t8TableEffect n k => execT8TableEffect n k s
  | .lds n => execLds n s
  | .swap n => execSwap n s
  | .str n => execStr n s
  | .mrot n => execMrot n s
  | .mrotArrival n => execMrotArrival n s
  | .rd n => execRd n s
  | .zero n => execZero n s
  | .rdz n => execRdz n s
  | .messageArrival i => execMessageArrival i s
  | .queueAdmit n i => execQueueAdmit n i s
  | .unboundDelivery n c t => execUnboundDelivery n c t s
  | .entryWrite n c t => execRewriteOn n c t s
  | .makeFiring n c t => execMakeFiring n c t s
  | .taskTake n => execTaskTake n s
  | .taskSteal n => execTaskSteal n s
  | .launchRecord q => execLaunchRecord q s
  | .dispatchMessage l => execDispatchMessage l s
  | .launchCompletion l => execLaunchCompletion l s
  | .releaseFlush l => execReleaseFlush l s
  | .horizonUpdate p => execHorizonUpdate p s
  | .commit n f => execCommit n f s
  | .rerun n f => execRerun n f s
  | .pin n k => execPin n k s
  | .copyStart n i => execCopyStart n i s
  | .copyWriteUnit n i => execCopyWriteUnit n i s
  | .copyComplete n i => execCopyComplete n i s
  | .copyStop n i c => execCopyStop n i c s
  | .completionMessage i => execCompletionMessage i s
  | .resumePacket i => execResumePacket i s
  | .edgeChunk n i => execEdgeChunk n i s
  | .postedDone i => execPostedDone i s
  | .budgetRefill c => execBudgetRefill c s
  | .clusterRound k c => execClusterRound k c s
  | .terminate n k => execTerminate n k s
  | .budgetExpiry n => execBudgetExpiry n s
  | .graceExpiry n => execGraceExpiry n s
  | .sliceEnd n => execSliceEnd n s
  | .leaseExpiry i => execLeaseExpiry i s
  | .qnowAdvance => execQnowAdvance s
  | .qdoneAdvance => execQdoneAdvance s
  | .quarantineRelease p i => execQuarantineRelease p i s
  | .acquireRecord q => execAcquireRecord q s
  | .releaseRecord q => execReleaseRecord q s
  | .collectiveAbort q => execCollectiveAbort q s
  | .capsuleRelease q => execCapsuleRelease q s
  | .hostSync q => execHostSync q s
  | .reservedRecord q => execReservedRecord q s
  | .scrub p => execScrub p s
  | .partitionRelease p => execPartitionRelease p s
  | .split p => execSplit p s
  | .checkpoint p => execCheckpointGo p s
  | .restoreGo p => execRestoreGo p s
  | .portDown p => execPortDown p s
  | .patrolRead a => execPatrolRead a .found s
  | .machineCheck a => execMachineCheck a s
  | .rebuildEnd n => execRebuildEnd n s
  | .bringUp => execBringUp s

/-- What comes next once nothing from outside waits: chains and events take turns, and the events that may happen come
round in their order. DESIGN CHOICE, log 1. -/
def State.next (s : State) : Next :=
  if s.turn && s.canIssue s.cur then s.issue
  else
    let s1 := { s with turn := true, cur := s.nextUnit }
    let l := s.enabled
    match l[s.tick / 2 % l.length]? with
    | some e => .event e s1
    | none => .quiet s1

end Sys2Proof.Machine
end

