-- ==== Sys2Proof/Machine/Step.lean ====
section
/-! DEFINITION. Machine/Step.lean: one step of the machine. -/

namespace Sys2Proof.Machine

/-- A chain on a tile of a pair has its part in the pair's checks (R385 to R387). -/
def chained (t : State) (i : Instr) : Host.Outcome State Fault Refusal → Host.Outcome State Fault Refusal
  | .next u => .next (t.retire u i)
  | x => x

/-- So has a readout. -/
def evented (t : State) (e : Event) : Host.Outcome State Fault Refusal → Host.Outcome State Fault Refusal
  | .next u => .next (match e with
    | .rd n => t.readoutPrint u n
    | .rdz n => t.readoutPrint u n
    | _ => u)
  | x => x

/-- One step: time moves on; an event that the outside has brought is performed, else what the machine itself does
next. -/
def step (s : State) : Host.Outcome State Fault Refusal :=
  let s1 := s.advance
  match s1.agenda with
  | i :: rest => if s1.heeds i then exec i { s1 with agenda := rest } else .next { s1 with agenda := rest }
  | [] =>
    match s1.next with
    | .exec i t => chained t i (exec i t)
    | .event e t => evented t e (e.run t)
    | .quiet t => .next t
    | .bad => .fault .undecodable

/-- An instruction placed where step fetches next (Machine/Place.lean says how). -/
def State.withFetchWord (s : State) (nbits w : Nat) : State := s.place (halvesOf maxChain (w % 2 ^ nbits))

end Sys2Proof.Machine
end

