-- ==== Sys2Proof/Safety.lean ====
section
/-! DEFINITION. Safety.lean: the terms in which claims speak of the machine: what counts as a safe run, when a chain is
free to be performed, and the state that a performed chain leaves. -/

namespace Sys2Proof.Machine

/-! ## Safe runs -/

/-- The memory of a state is in canonical form. -/
abbrev State.memWf (s : State) : Prop := Memory.wf s.mem = true

/-- A step goes on. -/
def State.goesOn (s : State) : Prop := ∃ t, step s = .next t

/-! ## A chain free to be performed -/

/-- The token wait of a chain is over and no named token is stopped (R36, R256). -/
abbrev State.free (s : State) (p : Pfx) : Prop :=
  s.reg.tokensIdle p.tokens = true ∧ s.reg.tokensStopped p.tokens = false

/-- A chain free to be performed at a privilege of at least l (R275). -/
abbrev State.freeAt (s : State) (p : Pfx) (l : Priv) : Prop := s.free p ∧ privLevel l ≤ privLevel s.priv

/-- The chain is free to be performed, and what it performs next is element k of n (R90, R91): the only one without a
repeat prefix; with one, the next after RCNT's, or the first of a count that is neither 0 nor more than 65,535 and that
takes no stepped field f1, f2 past its file of size1, size2 registers. -/
structure State.onElement (s : State) (p : Pfx) (size1 : Nat) (f1 : BitVec 5) (size2 : Nat) (f2 : BitVec 5) (k n : Nat) :
    Prop where
  free  : s.free p
  index : match p.rep with
    | none => k = 0 ∧ n = 1
    | some q =>
      (if s.reg.rcnt.remain = 0 then k = 0 ∧ n = s.reg.repCount q.count
        else k = s.reg.rcnt.done.toNat ∧ n = s.reg.rcnt.done.toNat + s.reg.rcnt.remain.toNat) ∧
      0 < n ∧ n ≤ 65535
  fits1 : ∀ q, p.rep = some q → q.step1 = true → f1.toNat + n ≤ size1
  fits2 : ∀ q, p.rep = some q → q.step2 = true → f2.toNat + n ≤ size2

/-- Nothing that a read of n bytes at a spot consumes is poisoned (R380). -/
abbrev State.readsClean (s : State) (sp : Spot) (n : Nat) : Prop :=
  s.poisonIn (s.seenAt sp ++ s.taskSeen sp ++ s.inboxSeen sp n) = none

/-- A writing chain's release waits for nothing (R191, R196, R200): the chain does not release; or it need not pin, since it
writes the global range only or its firing holds no buffered stores, and at system scope the firing has no posted write
outstanding. -/
abbrev State.releasesNow (s : State) (p : Pfx) (pins global : Bool) : Prop :=
  releases p.order = false ∨
    ((pins = true → s.buffer = []) ∧
      (global = true → p.scope = .system → ∀ q, q ∈ s.posted → q.ownedBy s.selfId = false))

end Sys2Proof.Machine

namespace Sys2Proof

/-- The first register field at element k (R90). -/
def Pfx.field1 (p : Pfx) (k : Nat) (f : BitVec 5) : BitVec 5 :=
  match p.rep with
  | none => f
  | some q => if q.step1 then f + BitVec.ofNat 5 k else f

/-- The second register field at element k (R90). -/
def Pfx.field2 (p : Pfx) (k : Nat) (f : BitVec 5) : BitVec 5 :=
  match p.rep with
  | none => f
  | some q => if q.step2 then f + BitVec.ofNat 5 k else f

/-- The conditions of R96 on a tagged capability. -/
structure Cap.legal (c : Cap) : Prop where
  low      : c.base ≤ c.addr
  high     : c.addr ≤ c.top
  exponent : c.expo ≤ 50
  length   : c.lm ≤ 16382
  limit    : c.top ≤ 16383 * 2 ^ 50
  reserved : c.perms.getLsbD 11 = false ∧ c.bits.extractLsb' 126 2 = 0
  object   : c.otype.toNat ≤ 4 ∨ 0x100 ≤ c.otype.toNat

/-- One capability authorises nothing that another does not: bounds within its bounds, permissions among its
permissions (R97, R99). -/
def Cap.noMoreThan (x c : Cap) : Prop := c.base ≤ x.base ∧ x.top ≤ c.top ∧ x.perms &&& c.perms = x.perms

end Sys2Proof

namespace Sys2Proof.Machine

/-! ## Exact values and their rounding (R56, R60) -/

/-- The value of a finite encoding (R56). -/
def FloatFmt.value (f : FloatFmt) (n : Nat) : ℚ :=
  let ex := n % 2 ^ f.signBit / 2 ^ f.p
  let fr := n % 2 ^ f.p
  (if n / 2 ^ f.signBit % 2 = 1 then -1 else 1) *
    (if ex = 0 then (fr : ℚ) * 2 ^ (f.emin - f.p) else ((2 ^ f.p + fr : Nat) : ℚ) * 2 ^ ((ex : Int) - f.emax - f.p))

/-- The value of an F32 lane (R56). -/
def realOf (b : Lane) : ℝ := f32.value b.toNat

/-- Neither an infinity nor a NaN. -/
abbrev finite (b : Lane) : Prop := b.toNat % 2 ^ 31 < 0x7F800000

/-- The number y of steps of size q that R60 picks for a magnitude a in a mode: one of the two neighbours that a lies
between, and a itself where it is one of them. -/
def picks (mode : Round) (neg : Bool) (a q : ℝ) (y : Nat) : Prop :=
  ∃ lo : Nat, lo * q ≤ a ∧ a < (lo + 1) * q ∧ (y = lo ∨ y = lo + 1) ∧ (a = lo * q → y = lo) ∧
    (a ≠ lo * q → match mode with
      | .rz => y = lo
      | .ru => y = if neg then lo else lo + 1
      | .rd => y = if neg then lo + 1 else lo
      | .ro => y % 2 = 1
      | .rn | .dflt => (a - lo * q < (lo + 1) * q - a → y = lo) ∧ ((lo + 1) * q - a < a - lo * q → y = lo + 1) ∧
          (a - lo * q = (lo + 1) * q - a → y % 2 = 0))

/-- The bits n are those that RoundFloat gives for a real x that is not zero (R60). -/
def roundsTo (f : FloatFmt) (mode : Round) (x : ℝ) (n : Nat) : Prop :=
  ∃ (e : ℤ) (y : Nat), f.emin ≤ e ∧ |x| < 2 ^ (e + 1) ∧ (e = f.emin ∨ 2 ^ e ≤ |x|) ∧
    picks mode (decide (x < 0)) |x| (2 ^ (e - f.p)) y ∧ n < 2 ^ (f.signBit + 1) ∧ (2 ^ f.signBit ≤ n ↔ x < 0) ∧
    let past := (2 ^ (f.p + 1) - 1 : ℝ) * 2 ^ (f.emax - f.p) < y * 2 ^ (e - f.p)
    let mag := n % 2 ^ f.signBit
    (past → mag = if overflowsToInf mode (decide (x < 0)) then f.infBits else f.infBits - 1) ∧
    (¬ past → mag < f.infBits ∧ (f.value mag : ℝ) = y * 2 ^ (e - f.p))

/-! ## The state that a performed chain leaves -/

/-- The chain is complete and control falls through past it (R40, R89); the settle bit parks the firing while results
are outstanding (R50). -/
def State.past (s : State) (p : Pfx) (paged : Bool) : State :=
  let r := s.reg.fallThrough (p.chainBytes paged)
  s.setReg { r with waiting := false, parked := p.settle && !r.pending.isEmpty }

/-- The chain is complete and has moved control itself. -/
def State.moved (s : State) (p : Pfx) : State :=
  s.setReg { s.reg with waiting := false, parked := p.settle && !s.reg.pending.isEmpty }

/-- Element k of n is done: without a repeat prefix the chain is complete; with one, RCNT says how far it is, and the
last element completes the chain with RCNT zero (R90, R91). -/
def State.pastElement (s : State) (p : Pfx) (paged : Bool) (k n : Nat) : State :=
  match p.rep with
  | none => s.past p paged
  | some _ =>
    if k + 1 < n then
      s.setReg { s.reg with rcnt := { done := BitVec.ofNat 16 (k + 1), remain := BitVec.ofNat 16 (n - (k + 1)) }
                            waiting := false }
    else (s.setReg { s.reg with rcnt := RepCnt.zero }).past p paged

/-- Element k of n faults: the elements before it stand, and with a repeat prefix RCNT says how many (R91). -/
def State.raiseElement (s : State) (p : Pfx) (k n : Nat) (code : BitVec 16) (ta : Word) : State :=
  State.raise (match p.rep with
    | none => s
    | some _ => s.setReg { s.reg with rcnt := { done := BitVec.ofNat 16 k, remain := BitVec.ofNat 16 (n - k) } })
    code ta

/-- A chain holds, with nothing performed (R10, R28). -/
def State.held (s : State) : State := s.setReg { s.reg with waiting := true }

end Sys2Proof.Machine
end

