-- ==== Sys2Proof/Certificates/Slice0/Obligations.lean ====
section
/-! DEFINITION. Certificates/Slice0/Obligations.lean: the statements for the provers, in the order of OBLIGATIONS.json. The
terms they use beside the machine's own are in Safety.lean. -/

open Sys2Proof Sys2Proof.Machine

/-! ## Page 0 -/

/-- R81: the two-register operations of the scalar core, with every register operand, shift amount and repeat. The next
state is named whole, so nothing else changes; a destination s0 discards its result (HardWiredRegisters). R82: the
multiply-divide unit, whose result is outstanding. The quotient q and the remainder r of a nonzero divisor are the only
integers that R82's truncation allows. -/
def Obligations.ScalarTwoRegister : Prop :=
  (∀ (p : Pfx) (d a : BitVec 5) (s : State) (k n : Nat), s.onElement p 32 d 32 a k n →
     let x := s.s (p.field1 k d)
     let y := s.s (p.field2 k a)
     let gives := fun w => Host.Outcome.next ((s.setS (p.field1 k d) w).pastElement p false k n)
     exec (.mv p d a) s = gives y ∧
     exec (.add p d a) s = gives (x + y) ∧
     exec (.sub p d a) s = gives (x - y) ∧
     exec (.and p d a) s = gives (x &&& y) ∧
     exec (.or p d a) s = gives (x ||| y) ∧
     exec (.xor p d a) s = gives (x ^^^ y) ∧
     exec (.shl p d a) s = gives (BitVec.ofNat 64 (x.toNat * 2 ^ (y.toNat % 64))) ∧
     exec (.shr p d a) s = gives (BitVec.ofNat 64 (x.toNat / 2 ^ (y.toNat % 64))) ∧
     exec (.sra p d a) s = gives (BitVec.ofInt 64 (x.toInt / 2 ^ (y.toNat % 64)))) ∧
  (∀ (p : Pfx) (d a : BitVec 5) (s : State) (k n : Nat), s.onElement p 32 d 32 a k n →
     let x := s.s (p.field1 k d)
     let y := s.s (p.field2 k a)
     let gives := fun w => Host.Outcome.next ((s.pend (.s (p.field1 k d) w)).pastElement p false k n)
     exec (.mul p d a) s = gives (BitVec.ofInt 64 (x.toInt * y.toInt)) ∧
     exec (.mulh p d a) s = gives ((BitVec.ofInt 128 (x.toInt * y.toInt)).extractLsb' 64 64) ∧
     (y = 0 → exec (.div p d a) s = gives (BitVec.allOnes 64) ∧ exec (.rem p d a) s = gives x) ∧
     (x.toInt = -2 ^ 63 → y.toInt = -1 → exec (.div p d a) s = gives x ∧ exec (.rem p d a) s = gives 0) ∧
     (y ≠ 0 → ¬ (x.toInt = -2 ^ 63 ∧ y.toInt = -1) → ∃ q r : Int,
       x.toInt = y.toInt * q + r ∧ r.natAbs < y.toInt.natAbs ∧ (0 ≤ x.toInt → 0 ≤ r) ∧ (x.toInt ≤ 0 → r ≤ 0) ∧
       (∃ w, w.toInt = q ∧ exec (.div p d a) s = gives w) ∧ (∃ w, w.toInt = r ∧ exec (.rem p d a) s = gives w)))

/-- R83, R84, R85: the immediate forms and the unary family. R85: the bit counts and the reversal, by the bits of the
operand. -/
def Obligations.ScalarInPlace : Prop :=
  (∀ (p : Pfx) (d i : BitVec 5) (c : Cond) (s : State) (k n : Nat), s.onElement p 32 d 32 0 k n →
     let x := s.s (p.field1 k d)
     let gives := fun w => Host.Outcome.next ((s.setS (p.field1 k d) w).pastElement p false k n)
     let m := (p.immI i % 64).toNat
     exec (.addi p d i) s = gives (x + BitVec.ofInt 64 (p.immI i)) ∧
     exec (.li p d i) s = gives (BitVec.ofInt 64 (p.immI i)) ∧
     exec (.shli p d i) s = gives (BitVec.ofNat 64 (x.toNat * 2 ^ m)) ∧
     exec (.shri p d i) s = gives (BitVec.ofNat 64 (x.toNat / 2 ^ m)) ∧
     exec (.srai p d i) s = gives (BitVec.ofInt 64 (x.toInt / 2 ^ m)) ∧
     exec (.rori p d i) s = gives (x.rotateRight m) ∧
     exec (.not p d) s = gives (~~~x) ∧
     exec (.neg p d) s = gives (BitVec.ofInt 64 (-x.toInt)) ∧
     exec (.abs p d) s = gives (BitVec.ofNat 64 x.toInt.natAbs) ∧
     exec (.sextB p d) s = gives ((x.setWidth 8).signExtend 64) ∧
     exec (.sextH p d) s = gives ((x.setWidth 16).signExtend 64) ∧
     exec (.sextW p d) s = gives ((x.setWidth 32).signExtend 64) ∧
     exec (.zextB p d) s = gives (BitVec.ofNat 64 (x.toNat % 2 ^ 8)) ∧
     exec (.zextH p d) s = gives (BitVec.ofNat 64 (x.toNat % 2 ^ 16)) ∧
     exec (.zextW p d) s = gives (BitVec.ofNat 64 (x.toNat % 2 ^ 32)) ∧
     exec (.setc p d c) s = gives (if s.reg.flags.holds c then 1 else 0)) ∧
  (∀ (p : Pfx) (d : BitVec 5) (s : State) (k n : Nat), s.onElement p 32 d 32 0 k n →
     let x := s.s (p.field1 k d)
     let gives := fun w => Host.Outcome.next ((s.setS (p.field1 k d) w).pastElement p false k n)
     (∃ m, m ≤ 64 ∧ (∀ j, j < m → x.getLsbD (63 - j) = false) ∧ (m < 64 → x.getLsbD (63 - m) = true) ∧
       exec (.clz p d) s = gives (BitVec.ofNat 64 m)) ∧
     (∃ m, m ≤ 64 ∧ (∀ j, j < m → x.getLsbD j = false) ∧ (m < 64 → x.getLsbD m = true) ∧
       exec (.ctz p d) s = gives (BitVec.ofNat 64 m)) ∧
     exec (.popc p d) s = gives (BitVec.ofNat 64 ((List.range 64).countP (fun j => x.getLsbD j))) ∧
     (∃ w : Word, (∀ j, j < 64 → w.getLsbD j = x.getLsbD (63 - j)) ∧ exec (.brev p d) s = gives w))

/-- R77, R78: what the flags of a comparison of x and y say through each condition, for both compare instructions. -/
def Obligations.CompareConditions : Prop :=
  ∀ (p : Pfx) (d a i : BitVec 5) (s : State) (k n : Nat) (x y : Word), x = s.s (p.field1 k d) →
    ∃ f : Flags,
      (s.onElement p 32 d 32 a k n → y = s.s (p.field2 k a) →
        exec (.cmp p d a) s = .next ((s.setReg { s.reg with flags := f }).pastElement p false k n)) ∧
      (s.onElement p 32 d 32 0 k n → y = BitVec.ofInt 64 (p.immI i) →
        exec (.cmpi p d i) s = .next ((s.setReg { s.reg with flags := f }).pastElement p false k n)) ∧
      (f.holds .eq = true ↔ x = y) ∧ (f.holds .ne = true ↔ x ≠ y) ∧
      (f.holds .lt = true ↔ x.toInt < y.toInt) ∧ (f.holds .ge = true ↔ y.toInt ≤ x.toInt) ∧
      (f.holds .le = true ↔ x.toInt ≤ y.toInt) ∧ (f.holds .gt = true ↔ y.toInt < x.toInt) ∧
      (f.holds .lo = true ↔ x.toNat < y.toNat) ∧ (f.holds .hs = true ↔ y.toNat ≤ x.toNat) ∧
      (f.holds .ls = true ↔ x.toNat ≤ y.toNat) ∧ (f.holds .hi = true ↔ y.toNat < x.toNat)

/-- R86: a branch that is taken, with an offset other than 0, moves the program counter by its offset from the halfword
after the base word, within PCC's section, and leaves loops (LoopInstructions); an untaken branch and an offset of 0 fall
through. -/
def Obligations.Branches : Prop :=
  ∀ (p : Pfx) (off : BitVec 10) (s : State), s.free p →
    let chain := portable s.reg.pcc.addr
    let target := ((chain + p.chainBytes false : Nat) + 2 * p.immJ off : Int).toNat
    let dest := s.reg.pcc.withAddr (BitVec.ofNat 64 (sectionBase s.reg.pcc.addr + target))
    let away := (s.setReg { s.reg with pcc := dest, loops := leaveLoops s.reg.loops s.reg.pcc.addr dest.addr }).moved p
    let ends := fun (taken : Bool) =>
      Host.Outcome.next (if taken = true ∧ p.immJ off ≠ 0 then away else s.past p false)
    exec (.b p off) s = ends true ∧
    exec (.beq p off) s = ends s.reg.flags.z ∧
    exec (.bne p off) s = ends (!s.reg.flags.z) ∧
    exec (.blt p off) s = ends (s.reg.flags.n != s.reg.flags.v) ∧
    exec (.bge p off) s = ends (s.reg.flags.n == s.reg.flags.v)

/-- R87: `call` and `jmp` through a capability that passes every check; each failing check's fault, in R87's order, with
no register changed but those of the fault. The chain's own link names the chain after it. -/
def Obligations.CallsAndJumps : Prop :=
  ∀ (p : Pfx) (d a : BitVec 4) (s : State), s.free p →
    let t := s.c a
    let link := s.reg.pcc.withAddr (BitVec.ofNat 64 (s.reg.pcc.addr + p.chainBytes false))
    let left := leaveLoops s.reg.loops s.reg.pcc.addr t.addr
    let fails := fun code => exec (.call p d a) s = .next (s.raise code t.addrW) ∧
      exec (.jmp p a) s = .next (s.raise code t.addrW)
    if t.tag = false then fails Code.capTag
    else if t.otype ≠ 0 then fails Code.capSeal
    else if t.perms.getLsbD 2 = false then fails Code.capPerm
    else if t.addr < t.base ∨ t.top < t.addr + 2 then fails Code.capBound
    else if t.addr % 2 = 1 then fails Code.memAlign
    else if s.isChainStart t.addr = false then fails Code.cslTarget
    else
      exec (.jmp p a) s = .next ((s.setReg { s.reg with pcc := t, loops := left }).moved p) ∧
      exec (.call p d a) s = .next ((s.setReg { s.reg.setC d link with
        pcc := t, loops := if d = 0 then left else s.reg.loops }).moved p)

/-- R88: `loop` pushes an entry whose body runs from the chain after it for 2 × len bytes; a count of 0 goes to the body's
end, where the loop-end step follows; a full stack raises LOOP.DEPTH. R89: the loop-end step and the entries that a
taken exit pops. At a loop end the entries that end at the offset are counted down from the top; the exhausted ones are
popped, and the first that is not takes control to its start. That an entry
keeps the section of its body too, so that a callee's chains are told from the caller's, is the model's reading (log 88). -/
def Obligations.LoopInstructions : Prop :=
  (∀ (p : Pfx) (d i : BitVec 5) (s : State), s.free p →
     let next := portable s.reg.pcc.addr + p.chainBytes false
     let stop := next + 2 * (immPayload p.imm 0 * 32 + i.toNat)
     let count := s.s d
     if count = 0 then
       exec (.loop p d i) s = .next ((s.setReg { s.reg.toOffset ((loopEnd s.reg.loops stop).1.getD stop) with
         loops := (loopEnd s.reg.loops stop).2 }).moved p)
     else if 4 ≤ s.reg.loops.length then exec (.loop p d i) s = .next (s.raise Code.loopDepth 0)
     else exec (.loop p d i) s = .next ((s.setReg { s.reg.toOffset next with
       loops := { sect := sectionBase s.reg.pcc.addr, start := next, stop := stop, count := count } :: s.reg.loops }).moved p)) ∧
  ((∀ (es : List LoopEntry) (a : Nat), ∃ (popped rest : List LoopEntry),
     es = popped ++ rest ∧ (∀ e, e ∈ popped → e.stop = a ∧ e.count = 1) ∧
     ((∃ e rest', rest = e :: rest' ∧ e.stop = a ∧ e.count ≠ 1 ∧
         loopEnd es a = (some e.start, { e with count := e.count - 1 } :: rest')) ∨
      ((∀ e, rest.head? = some e → e.stop ≠ a) ∧ loopEnd es a = (none, rest)))) ∧
   (∀ (es : List LoopEntry) (chain target : Nat),
     let inside := fun (e : LoopEntry) (a : Nat) => sectionBase a = e.sect ∧ e.start ≤ portable a ∧ portable a < e.stop
     ∃ (popped rest : List LoopEntry), es = popped ++ rest ∧ leaveLoops es chain target = rest ∧
     (∀ e, e ∈ popped → inside e chain ∧ ¬ inside e target) ∧
     (∀ e, rest.head? = some e → ¬ inside e chain ∨ inside e target)) ∧
   (∀ (s : State) (p : Pfx) (paged : Bool),
     let a := portable s.reg.pcc.addr + p.chainBytes paged
     (s.past p paged).reg.loops = (loopEnd s.reg.loops a).2 ∧
     (s.past p paged).reg.pcc = s.reg.pcc.withAddr (BitVec.ofNat 64 (sectionBase s.reg.pcc.addr +
       (match (loopEnd s.reg.loops a).1 with | some start => start | none => a)))))


/-! ## Page 1 -/

/-- R101, R103: the derivations of a capability in place, which never fault: the whole next state, with the tag that each
leaves. R94, R95, R106: the field reads, each from the bits of the value, sealed and untagged alike. -/
def Obligations.CapabilityDerivations : Prop :=
  (∀ (p : Pfx) (d a : BitVec 4) (r i : BitVec 5) (s : State), s.free p →
     let c := s.c d
     let w := s.s r
     let gives := fun x => Host.Outcome.next ((s.setC d x).past p true)
     let moved := fun (n : Word) =>
       ({ tag := decide (c.tag = true ∧ c.otype = 0 ∧ c.base ≤ n.toNat ∧ n.toNat ≤ c.top)
          bits := c.bits.extractLsb' 64 64 ++ n } : Cap)
     exec (.cMv p d a) s = gives (s.c a) ∧
     exec (.cClrtag p d a) s = gives { s.c a with tag := false } ∧
     exec (.cAdd p d r) s = gives (moved (c.addrW + w)) ∧
     exec (.cAddi p d i) s = gives (moved (c.addrW + BitVec.ofInt 64 (p.immI i))) ∧
     exec (.cSetaddr p d r) s = gives (moved w) ∧
     exec (.cSnap p d r) s = gives (moved (BitVec.ofNat 64 (c.addr / 2 ^ min (w.toNat % 64) 50 * 2 ^ min (w.toNat % 64) 50))) ∧
     exec (.cAndp p d r) s = gives
       { tag := decide (c.tag = true ∧ c.otype = 0)
         bits := c.bits.extractLsb' 76 52 ++ (c.perms &&& w.setWidth 12) ++ c.bits.extractLsb' 0 64 }) ∧
  (∀ (p : Pfx) (d : BitVec 5) (a : BitVec 4) (s : State), s.free p →
     let c := s.c a
     let e := (c.bits.extractLsb' 92 6).toNat
     let lm := (c.bits.extractLsb' 112 14).toNat
     let bm := (c.bits.extractLsb' 98 14).toNat
     let ad := (c.bits.extractLsb' 0 64).toNat
     let gives := fun (n : Nat) => Host.Outcome.next ((s.setS d (BitVec.ofNat 64 n)).past p true)
     exec (.cGaddr p d a) s = gives ad ∧
     exec (.cGperm p d a) s = gives (c.bits.extractLsb' 64 12).toNat ∧
     exec (.cGtype p d a) s = gives (c.bits.extractLsb' 76 16).toNat ∧
     exec (.cGtag p d a) s = gives (if c.tag then 1 else 0) ∧
     exec (.cGlen p d a) s = gives (if 50 < e ∨ lm = 16383 then 0 else (lm + 1) * 2 ^ e) ∧
     ((50 < e ∨ lm = 16383) → exec (.cGbase p d a) s = gives 0) ∧
     (e ≤ 50 → lm ≠ 16383 → ∃ b : Nat, b < 2 ^ 64 ∧ exec (.cGbase p d a) s = gives b ∧
       ∃ j : Int, (b : Int) = ((ad / 2 ^ (e + 14) : Nat) - (if ad / 2 ^ e % 2 ^ 14 < bm then 1 else 0)) * 2 ^ (e + 14) +
         bm * 2 ^ e + j * 2 ^ 64))

/-- R95, R96: on a capability that meets R96, the bounds that any address between its base and its top recovers are its
own, and a derived value that is still tagged meets R96 too. -/
def Obligations.BoundsSurviveAddressing : Prop :=
  ∀ (c : Cap) (n : Word), c.legal → c.tag = true → c.otype = 0 → c.base ≤ n.toNat → n.toNat ≤ c.top →
    (c.derive n).tag = true ∧ (c.derive n).base = c.base ∧ (c.derive n).top = c.top ∧ (c.derive n).addr = n.toNat ∧
      (c.derive n).perms = c.perms ∧ (c.derive n).legal

/-- R102: `c.setb` and `c.setbx`. The faults in their order leave cd as it was; a success holds the whole range, starts
where cd's address is and lies within cd's bounds; `c.setbx` gives exactly the range; up to 16,383 bytes never fail.
R103: `c.fit` gives the least exponent at which the length takes at most 16,383 steps, and the steps; a range of that
many steps from an address on that grid, inside cd's bounds, is one that `c.setbx` takes. -/
def Obligations.BoundsSetting : Prop :=
  (∀ (p : Pfx) (d : BitVec 4) (r : BitVec 5) (s : State), s.free p →
     let c := s.c d
     let lo := c.addr
     let hi := c.addr + (s.s r).toNat
     let fails := fun code => exec (.cSetb p d r) s = .next (s.raise code c.addrW) ∧
       exec (.cSetbx p d r) s = .next (s.raise code c.addrW)
     if c.tag = false then fails Code.capTag
     else if c.otype ≠ 0 then fails Code.capSeal
     else if lo < c.base ∨ c.top < hi then fails Code.capBound
     else c.top ≤ 16383 * 2 ^ 50 →
       (exec (.cSetb p d r) s = .next (s.raise Code.capRepr c.addrW) ∨ ∃ x : Cap,
         exec (.cSetb p d r) s = .next ((s.setC d x).past p true) ∧ x.tag = true ∧ x.otype = 0 ∧ x.addr = lo ∧
         x.perms = c.perms ∧ c.base ≤ x.base ∧ x.base ≤ lo ∧ hi ≤ x.top ∧ x.top ≤ c.top) ∧
       (exec (.cSetbx p d r) s = .next (s.raise Code.capRepr c.addrW) ∨ ∃ x : Cap,
         exec (.cSetbx p d r) s = .next ((s.setC d x).past p true) ∧ x.tag = true ∧ x.otype = 0 ∧ x.addr = lo ∧
         x.perms = c.perms ∧ x.base = lo ∧ x.top = hi) ∧
       (lo < hi → hi ≤ lo + 16383 → ∃ x : Cap, x.base = lo ∧ x.top = hi ∧ x.addr = lo ∧
         exec (.cSetb p d r) s = .next ((s.setC d x).past p true) ∧
         exec (.cSetbx p d r) s = .next ((s.setC d x).past p true))) ∧
  (∀ (p : Pfx) (d : BitVec 5) (a : BitVec 5) (s : State), s.free p →
     let len := max (min (s.s a).toNat (16383 * 2 ^ 50)) 1
     ∃ e n, e ≤ 50 ∧ 1 ≤ n ∧ n ≤ 16383 ∧ len ≤ n * 2 ^ e ∧ n * 2 ^ e < len + 2 ^ e ∧
       (∀ f, f < e → 16383 * 2 ^ f < len) ∧
       exec (.cFit p d a) s = .next ((s.setS d (BitVec.ofNat 64 (n * 256 + e))).past p true) ∧
       ∀ c : Cap, c.tag = true → c.otype = 0 → c.addr % 2 ^ e = 0 → c.base ≤ c.addr → c.addr + n * 2 ^ e ≤ c.top →
         c.top ≤ 16383 * 2 ^ 50 → ∃ x, c.setBounds (n * 2 ^ e) true = .ok x ∧ x.base = c.addr ∧ x.top = c.addr + n * 2 ^ e)

/-- R104, R105: sealing, unsealing and invoking: each check's fault in order, with cd as it was, and the result. `c.inv` reads
its operands once every outstanding result has returned (R51). -/
def Obligations.SealingAndInvoking : Prop :=
  ∀ (p : Pfx) (d a : BitVec 4) (s : State), s.free p →
    let x := s.c d
    let y := s.c a
    let sealTo := fun (o : Option (BitVec 16)) (t : Cap) => exec (.cSeal p d a) s = .next (match o with
      | some code => s.raise code y.addrW
      | none => (s.setC d t).past p true)
    let unsealTo := fun (o : Option (BitVec 16)) (t : Cap) => exec (.cUnseal p d a) s = .next (match o with
      | some code => s.raise code y.addrW
      | none => (s.setC d t).past p true)
    let u := s.drain.c d
    let v := s.drain.c a
    let invTo := fun (code : BitVec 16) => exec (.cInv p d a) s = .next (s.drain.raise code u.addrW)
    (if x.tag = false ∨ y.tag = false then sealTo (some Code.capTag) x
     else if x.otype ≠ 0 ∨ y.otype ≠ 0 then sealTo (some Code.capSeal) x
     else if y.perms.getLsbD 6 = false then sealTo (some Code.capPerm) x
     else if y.addr < y.base ∨ y.top < y.addr + 1 then sealTo (some Code.capBound) x
     else if y.addr < 0x100 ∨ 0xFFFF < y.addr then sealTo (some Code.capType) x
     else sealTo none (x.withOtype (BitVec.ofNat 16 y.addr))) ∧
    (if x.tag = false ∨ y.tag = false then unsealTo (some Code.capTag) x
     else if x.otype = 0 ∨ y.otype ≠ 0 then unsealTo (some Code.capSeal) x
     else if y.perms.getLsbD 7 = false then unsealTo (some Code.capPerm) x
     else if y.addr < y.base ∨ y.top < y.addr + 1 then unsealTo (some Code.capBound) x
     else if x.otype.toNat < 0x100 ∨ x.otype.toNat ≠ y.addr then unsealTo (some Code.capType) x
     else ∃ t : Cap, unsealTo none t ∧ t.tag = true ∧ t.otype = 0 ∧ t.addr = x.addr ∧ t.base = x.base ∧ t.top = x.top ∧
       (∀ j, j < 12 → t.perms.getLsbD j = (x.perms.getLsbD j && (j != 5 || y.perms.getLsbD 5)))) ∧
    (if u.tag = false ∨ v.tag = false then invTo Code.capTag
     else if u.otype = 0 ∨ v.otype = 0 then invTo Code.capSeal
     else if u.otype ≠ v.otype ∨ u.otype.toNat < 0x100 then invTo Code.capType
     else if u.perms.getLsbD 10 = false ∨ v.perms.getLsbD 10 = false ∨ u.perms.getLsbD 2 = false ∨
         v.perms.getLsbD 2 = true then invTo Code.capPerm
     else if u.addr < u.base ∨ u.top < u.addr + 2 then invTo Code.capBound
     else if u.addr % 2 = 1 then invTo Code.memAlign
     else if s.isChainStart u.addr = false then invTo Code.cslTarget
     else exec (.cInv p d a) s = .next ((s.drain.setReg { s.drain.reg.setC 1 (v.withOtype 0) with
       pcc := u.withOtype 0, loops := [] }).moved p))

/-- R101 to R104: nothing that a program derives from a capability that meets R96 authorises more than it: whatever
cd holds, the value each derivation leaves in it, sealing and unsealing among them, is untagged, or meets R96 with bounds and
permissions no wider. What is sealed has a type from 0x100 on, the authority's own address. -/
def Obligations.DerivationsNeverWiden : Prop :=
  ∀ (p : Pfx) (d a : BitVec 4) (r i : BitVec 5) (s : State), s.free p → (s.c d).legal →
    let kept := fun (o : Host.Outcome State Fault Refusal) => ∃ x : Cap,
      o = .next ((s.setC d x).past p true) ∧ (x.tag = true → (s.c d).tag = true ∧ x.legal ∧ x.noMoreThan (s.c d))
    kept (exec (.cAdd p d r) s) ∧ kept (exec (.cAddi p d i) s) ∧ kept (exec (.cSetaddr p d r) s) ∧
    kept (exec (.cSnap p d r) s) ∧ kept (exec (.cAndp p d r) s) ∧
    (kept (exec (.cSetb p d r) s) ∨ ∃ code, exec (.cSetb p d r) s = .next (s.raise code (s.c d).addrW)) ∧
    (kept (exec (.cSetbx p d r) s) ∨ ∃ code, exec (.cSetbx p d r) s = .next (s.raise code (s.c d).addrW)) ∧
    ((∃ x : Cap, exec (.cSeal p d a) s = .next ((s.setC d x).past p true) ∧ (s.c d).tag = true ∧ x.legal ∧ x.noMoreThan (s.c d) ∧
        0x100 ≤ x.otype.toNat ∧ x.otype.toNat = (s.c a).addr) ∨ ∃ code, exec (.cSeal p d a) s = .next (s.raise code (s.c a).addrW)) ∧
    (kept (exec (.cUnseal p d a) s) ∨ ∃ code, exec (.cUnseal p d a) s = .next (s.raise code (s.c a).addrW))


/-- R113, R114: painting and sweeps, at keeper privilege. A paint whose range lies in the global range, on pages of HBM, on
held host pages or in the code region, completes: it sets or clears the bits of exactly the granules found there (a held host page
has none, log 66), in the sorted list that holds the bitmap, and a granule that becomes painted is covered by no sweep yet. A sweep of a registered context opens under the epoch after the last, unless a die has eight or an open
sweep is 2^31 epochs old; a query tells whether a sweep is over. Below keeper privilege each raises KPR.PRIV. -/
def Obligations.PaintAndSweep : Prop :=
  ∀ (p : Pfx) (d : BitVec 4) (r e : BitVec 5) (s : State),
    (s.freeAt p .keeper →
      (let c := s.c d
       let lo := c.base - c.base % 16
       c.tag = true → c.otype = 0 → c.perms.getLsbD 1 = true → c.base < c.top → c.top ≤ 2 ^ 48 →
       (∀ v, lo ≤ v → v < c.top → codeBase ≤ v ∨ ∃ x pa level, s.walk (s.info s.ctxn) v = .leaf x pa level ∧
         (peHost x = false ∨ peHeld x = true)) →
       ∃ (gs : List Nat) (t : State), s.paintLook (s.info s.ctxn) c = .ok gs ∧ exec (.cPaint p d r) s = .next (t.past p true) ∧
         t = { s with painted := t.painted, covers := t.covers } ∧
         ((s.s r).getLsbD 0 = true → (∀ g, g ∈ t.painted ↔ g ∈ s.painted ∨ g ∈ gs) ∧
           (∀ g, g ∈ gs → g ∉ s.painted → Map.get? t.covers g = some 0)) ∧
         ((s.s r).getLsbD 0 = false → s.painted.Pairwise (· < ·) → ∀ g, g ∈ t.painted ↔ g ∈ s.painted ∧ g ∉ gs)) ∧
      (let ctx := (s.s r).toNat % 4096
       let next := if s.lastEpoch = 0xFFFFFFFF then 1 else s.lastEpoch + 1
       let none_ := exec (.cSweep p e r) s = .next ((s.setS e 0).past p true)
       (Map.get? s.contexts ctx = none → none_) ∧
       (∀ x, Map.get? s.contexts ctx = some x →
         ((∃ q, q ∈ x.info.parts ∧ 8 ≤ (s.sweeps.filter (fun w => w.dies.contains (q / 4))).length) ∨
           (∃ w, w ∈ s.sweeps ∧ 2 ^ 31 ≤ epochDist next w.epoch) → none_) ∧
         ((∀ q, q ∈ x.info.parts → (s.sweeps.filter (fun w => w.dies.contains (q / 4))).length < 8) →
           (∀ w, w ∈ s.sweeps → epochDist next w.epoch < 2 ^ 31) →
           ∃ t : State, exec (.cSweep p e r) s = .next ((t.setS e (BitVec.ofNat 64 next)).past p true) ∧
             t = { s with sweeps := t.sweeps, covers := t.covers, lastEpoch := next
                          epochWrap := s.epochWrap || next == 0xFFFFFFFF } ∧
             t.sweeps = s.sweeps ++ [{ epoch := next, ctx := ctx, dies := (x.info.parts.map (fun q => q / 4)).eraseDups
                                       firings := ((s.liveOf ctx).filter s.unsaved).map LiveFiring.id
                                       pushes := s.livePushes ctx }] ∧
             ∀ g, Map.get? t.covers g = (Map.get? s.covers g).map (fun q => if q = 0 then next else q)))) ∧
      (let n := (s.s r).toNat % 2 ^ 32
       let gives := fun (w : Word) => exec (.cSweepq p e r) s = .next ((s.setS e w).past p true)
       gives (if n = 0 ∨ (s.epochWrap = false ∧ s.lastEpoch < n) then 2
         else if epochDist s.lastEpoch n < 2 ^ 31 ∧ ∃ w, w ∈ s.sweeps ∧ w.epoch = n then 0 else 1) ∧
       (n ≠ 0 → n ≤ s.lastEpoch → s.lastEpoch < n + 2 ^ 31 → s.lastEpoch < 2 ^ 32 →
         gives (if ∃ w, w ∈ s.sweeps ∧ w.epoch = n then 0 else 1)))) ∧
    (s.free p → s.priv ≠ .keeper →
      exec (.cPaint p d r) s = .next (s.raise Code.kprPriv 0) ∧
      exec (.cSweep p e r) s = .next (s.raise Code.kprPriv 0) ∧
      exec (.cSweepq p e r) s = .next (s.raise Code.kprPriv 0))

/-! ## Pages 1 and 2: memory -/

/-- R2, R111, R365, R379: bytes written to a memory without memory keys read back, every other byte reads as before, the
granules touched lose their tags, and the canonical form is kept. -/
def Obligations.MemoryReadsBackWrites : Prop :=
  ∀ (s : State) (key a : Nat) (bs : List Byte), s.memWf → keyKind a ≠ 0 → keyKind a ≠ 4 →
    keyKind (a + bs.length) = keyKind a →
    let t := s.writeBytes key a bs
    t.memWf ∧
    (∀ reader j, j < bs.length → t.readByte reader (a + j) = bs.getD j 0) ∧
    (∀ reader c, c < a ∨ a + bs.length ≤ c → t.readByte reader c = s.readByte reader c) ∧
    (s.tags.Pairwise (· < ·) → ∀ j, j < bs.length → t.tagAt (a + j) = false) ∧
    (∀ c, c / 16 < a / 16 ∨ (a + bs.length - 1) / 16 < c / 16 → t.tagAt c = s.tagAt c)

/-- R118, R119, R120, R124: the checks of a scalar access before translation, in their order, in each local space, and the
memory that an access which passes them reaches. R107 and the check order of R96: the first check that an access fails
is the fault it raises. -/
def Obligations.AccessChecks : Prop :=
  (∀ (s : State) (c : Cap) (a n : Nat) (mask : BitVec 12) (use : Use) (scope : Scope), 0 < n → 2 ^ 48 ≤ a →
     use ≠ .wsq → use ≠ .update →
     let x := Access.at c a n mask n use scope
     let o := a - loc
     let wide := scope = .partition ∨ scope = .device ∨ scope = .system
     let stores := use = .store ∨ use = .storeWide ∨ use = .vstore ∨ use = .scatter ∨ use = .atomic ∨ use = .syncInit ∨
       use = .capStore
     let spot := fun (sp : Space) (off key : Nat) =>
       Look.ok { space := sp, off := off, pieces := [{ va := a, key := key, n := n, tag := sp != .wstore }] }
     match c.checkAccess a n mask with
     | some e => s.look x none = .bad e a
     | none =>
       if a % n ≠ 0 then s.look x none = .bad Code.memAlign a
       else if a < loc then s.look x none = .bad Code.memSpace a
       else if o < 0x40000 then
         s.look x none = (if 0x40000 < o + n then .bad Code.memSpace a else if wide then .bad Code.memScope a
           else spot (.scratch s.cur.tile) o (keyScratch s.ctxn s.cur.tile o))
       else if 0x100000 ≤ o ∧ o < 0x300000 then
         let t := clusterTile (clusterOf s.cur.tile) ((o - 0x100000) / 0x40000)
         let off := (o - 0x100000) % 0x40000
         s.look x none = (if 0x40000 < off + n then .bad Code.memSpace a
           else if t ≠ s.cur.tile ∧ s.tileExists t = false then .bad Code.memNotile a
           else if t ≠ s.cur.tile ∧ s.imageAt t s.ctxn = false then .bad Code.memAway a
           else if wide then .bad Code.memScope a
           else spot (.remote t) off (keyScratch s.ctxn t off))
       else if 0x400000 ≤ o ∧ o < 0x800000 then
         use ≠ .sync → use ≠ .syncInit → s.look x none = (if 0x800000 < o + n then .bad Code.memSpace a
           else spot .cmem (o - 0x400000) (keyCmem (clusterOf s.cur.tile) (o - 0x400000)))
       else if 0x10000000 ≤ o ∧ o < 0x20000000 then
         use ≠ .sync → use ≠ .syncInit → s.look x none = (if 0x20000000 < o + n then .bad Code.memSpace a
           else if stores then .bad Code.memWsro a
           else spot .wstore (o - 0x10000000) (keyWs (quadOf s.cur.tile) (o - 0x10000000)))
       else if 0x80000 ≤ o ∧ o < 0x90000 then
         (use = .store ∨ use = .storeWide ∨ use = .atomic ∨ use = .capStore) → s.look x none = .bad Code.memSpace a
       else if 0x90000 ≤ o ∧ o < 0x91000 then
         (use = .load ∨ use = .store ∨ use = .atomic ∨ use = .capLoad) → s.look x none = .bad Code.memSpace a
       else s.look x none = .bad Code.memSpace a) ∧
  (∀ (c : Cap) (a n : Nat) (mask : BitVec 12),
     c.checkAccess a n mask =
       (if c.tag = false then some Code.capTag
        else if c.otype ≠ 0 then some Code.capSeal
        else if c.perms &&& mask ≠ mask then some Code.capPerm
        else if a < c.base ∨ c.top < a + n then some Code.capBound
        else none))

/-- R107, R124: a scalar load or store whose checks fail raises that fault at its effective address, with no register
written and no byte moved. -/
def Obligations.FailedAccessesRaise : Prop :=
  ∀ (p : Pfx) (d : BitVec 5) (m : MemOp) (s : State) (k n : Nat), s.onElement p 32 d 32 0 k n →
    let fails := fun (i : Instr) (use : Use) (perm width : Nat) => ∀ code ta,
      s.look (Access.at (s.c m.cap) ((s.c m.cap).addrW + (if m.regOff then s.s p.x else BitVec.ofInt 64 p.immM) +
        BitVec.ofNat 64 (k * width)).toNat width (BitVec.ofNat 12 (2 ^ perm)) width use p.scope) none = .bad code ta →
      exec i s = .next (s.raiseElement p k n code (BitVec.ofNat 64 ta))
    fails (.ldB p d m) .load 0 1 ∧ fails (.ldBz p d m) .load 0 1 ∧ fails (.ldH p d m) .load 0 2 ∧
    fails (.ldHz p d m) .load 0 2 ∧ fails (.ldW p d m) .load 0 4 ∧ fails (.ldWz p d m) .load 0 4 ∧
    fails (.ldD p d m) .load 0 8 ∧ fails (.stB p d m) .store 1 1 ∧ fails (.stH p d m) .store 1 2 ∧
    fails (.stW p d m) .storeWide 1 4 ∧ fails (.stD p d m) .storeWide 1 8

/-- R126, R130: loads of any space: the bytes at the spot that the checks give, little-endian, extended as the form says,
become the outstanding result of the destination. That the value is taken at issue (log 17, a choice of the model) and when it
returns later (log 19) are the model's. -/
def Obligations.ScalarLoads : Prop :=
  ∀ (p : Pfx) (d : BitVec 5) (kd : BitVec 3) (m : MemOp) (s : State) (sp : Spot),
    let t := s.reach p sp.globals
    let u := t.noteReads (t.linesRead sp)
    let found := fun (k width : Nat) =>
      s.look (s.scalarAccess p m width k [permLD] .load) none = .ok sp ∧
        t.readsClean sp width
    let num := fun width => ofBytes (t.readSpot sp width)
    (∀ k n, s.onElement p 32 d 32 0 k n →
      let gives := fun (width : Nat) (w : Word) => Host.Outcome.next
        ((u.pend (.s (p.field1 k d) w) (sp.banks u.cur.tile width)).pastElement p true k n)
      (found k 1 → exec (.ldB p d m) s = gives 1 ((BitVec.ofNat 8 (num 1)).signExtend 64) ∧
        exec (.ldBz p d m) s = gives 1 (BitVec.ofNat 64 (num 1))) ∧
      (found k 2 → exec (.ldH p d m) s = gives 2 ((BitVec.ofNat 16 (num 2)).signExtend 64) ∧
        exec (.ldHz p d m) s = gives 2 (BitVec.ofNat 64 (num 2))) ∧
      (found k 4 → exec (.ldW p d m) s = gives 4 ((BitVec.ofNat 32 (num 4)).signExtend 64) ∧
        exec (.ldWz p d m) s = gives 4 (BitVec.ofNat 64 (num 4))) ∧
      (found k 8 → exec (.ldD p d m) s = gives 8 (BitVec.ofNat 64 (num 8)))) ∧
    (s.free p → found 0 8 →
      exec (.kLd p kd m) s = .next ((u.pend (.k kd (BitVec.ofNat 64 (num 8))) (sp.banks u.cur.tile 8)).past p true))

/-- R121, R126, R130, R188, R191, R192, R200: stores, releasing ones too where the release waits for nothing. In a local space the
bytes are in memory at once and nothing else of the machine changes; in the global range a speculative firing with room holds them
among its actions, and no memory changes; a pinned firing performs them at once, and the speculative firings that have read their
lines are aborted first. -/
def Obligations.ScalarStores : Prop :=
  ∀ (p : Pfx) (d : BitVec 5) (kd : BitVec 3) (m : MemOp) (s : State) (sp : Spot) (q : Piece),
    let t := s.reach p sp.globals
    t.releasesNow p (sp.space != .global) (sp.space == .global) → sp.pieces = [q] →
    let found := fun (k width : Nat) (use : Use) => s.look (s.scalarAccess p m width k [permST] use) none = .ok sp
    let written := fun (width : Nat) (w : Word) => t.writeBytes t.keyId q.key (toBytes width w.toNat)
    let stored := fun (width : Nat) (w : Word) => Action.store q.va [(q.key, q.n)] ((toBytes width w.toNat).take q.n) false
    let held := fun (f : Firing) (width : Nat) (w : Word) => (t.cleanseLines f.serial [stored width w]).setFir { f with
      actions := f.actions ++ [stored width w] }
    let isLocal := sp.space ≠ .global ∧ sp.space ≠ .window
    let buffers := fun (f : Firing) (width : Nat) (w : Word) => sp.space = .global ∧ t.fir = some f ∧ f.pinned = false ∧
      t.fits [stored width w] = true
    let direct := fun (f : Firing) => sp.space = .global ∧ t.fir = some f ∧ f.pinned = true ∧ t.partner t.cur.tile = none
    let wrote := fun (f : Firing) (width : Nat) (w : Word) =>
      let v := t.directWrite t.cur.tile t.ctxn { tile := t.cur.tile, serial := f.serial } (writeLines [stored width w])
      (v.perform t.cur.tile t.ctxn (stored width w)).cleanseRuns [(q.key, q.n)]
    (∀ k n, s.onElement p 32 d 32 0 k n →
      let w := t.s (p.field1 k d)
      let form := fun (i : Instr) (use : Use) (width : Nat) => found k width use →
        (isLocal → exec i s = .next ((written width w).pastElement p true k n)) ∧
        (∀ f, buffers f width w → exec i s = .next ((held f width w).pastElement p true k n)) ∧
        (∀ f, direct f → exec i s = .next ((wrote f width w).pastElement p true k n))
      form (.stB p d m) .store 1 ∧ form (.stH p d m) .store 2 ∧ form (.stW p d m) .storeWide 4 ∧
      form (.stD p d m) .storeWide 8) ∧
    (s.free p → found 0 8 .store →
      (isLocal → exec (.kSt p kd m) s = .next ((written 8 (t.k kd)).past p true)) ∧
      (∀ f, buffers f 8 (t.k kd) → exec (.kSt p kd m) s = .next ((held f 8 (t.k kd)).past p true)) ∧
      (∀ f, direct f → exec (.kSt p kd m) s = .next ((wrote f 8 (t.k kd)).past p true)))

/-- R109, R110, R111, R112, R121: capability loads and stores complete at every spot that the checks give. The outstanding
result has its tag exactly if memory has it and the authority has LDC; when it enters its register, whichever way it returns, the
tag stays exactly if the value is not revoked by the bitmap as it then stands: a value whose base lies in HBM by the granule
there, one whose base lies in a capsule's slot by that slot's anchor. That memory gives its value at issue is the model's choice
(log 17), as is the capsule's anchor (log 66). A store to a local space puts value and tag there
through the filter, and one to the global range by a speculative firing with room joins its actions with its tag. -/
def Obligations.CapabilityLoadsAndStores : Prop :=
  ∀ (p : Pfx) (d : BitVec 4) (m : MemOp) (s : State) (sp : Spot), s.free p →
    let c := s.c m.cap
    let y := s.c d
    let t := s.reach p sp.globals
    let u := t.noteReads (t.linesRead sp)
    let loads := s.look (Access.at c (s.effective p m 0) 16 (BitVec.ofNat 12 1) 16 .capLoad p.scope) none = .ok sp
    let stores := s.look { Access.at c (s.effective p m 0) 16 (BitVec.ofNat 12 (if y.tag then 2 ^ 1 + 2 ^ 4 else 2 ^ 1)) 16
      .capStore p.scope with cap := some y } none = .ok sp
    let stored := fun (q : Piece) => [Action.store q.va [(q.key, q.n)] ((toBytes 16 y.bits.toNat).take q.n) y.tag]
    (loads → t.readsClean sp 16 →
      let x : Cap := { tag := decide (t.tagSeen sp = true ∧ c.perms.getLsbD 3 = true)
                       bits := BitVec.ofNat 128 (ofBytes (t.readSpot sp 16)) }
      exec (.cLd p d m) s = .next ((u.pend (.c d x) (sp.banks u.cur.tile 16)).past p true)) ∧
    (∀ (w : State) (x y : Cap) (banks : List Nat) (stamp : Nat), d ≠ 0 →
      let q : Pending := { res := .c d x, banks := banks, stamp := stamp }
      let revoked := (x.base < codeBase ∧ ∃ e pa level, w.walk (w.info w.ctxn) x.base = .leaf e pa level ∧ peHost e = false ∧
          pa - pa % 16 ∈ w.painted) ∨
        (codeBase ≤ x.base ∧ x.base < 2 ^ 48 ∧ keyAnchor ((x.base - codeBase) / 2 ^ 32) ∈ w.painted)
      (y = (w.applyResult q).c d ∨ (w.reg.pending = [q] ∧ y = w.drain.c d)) →
      y.bits = x.bits ∧ (y.tag = true ↔ x.tag = true ∧ ¬ revoked)) ∧
    (stores → t.releasesNow p (sp.space != .global) (sp.space == .global) → ∀ q, sp.pieces = [q] →
      (sp.space ≠ .global →
        exec (.cSt p d m) s = .next ((if y.tag then t.writeLocalCap q.key y
          else t.writeBytes t.keyId q.key (toBytes 16 y.bits.toNat)).past p true)) ∧
      (∀ f, sp.space = .global → t.fir = some f → f.pinned = false → t.fits (stored q) = true →
        exec (.cSt p d m) s = .next (((t.cleanseLines f.serial (stored q)).setFir
          { f with actions := f.actions ++ stored q }).past p true)))

/-- R64, R127, R128: vector loads, contiguous, broadcast and strided: each active lane is its element decoded by the
format of the bank, or 32 raw bits outside scratchpad; the others follow the merge mode. Only the bytes of active lanes join the
read set and wait for weight-store banks. That the values are taken at issue is the model's choice (log 17). -/
def Obligations.VectorLoads : Prop :=
  ∀ (p : Pfx) (d : BitVec 5) (m : MemOp) (s : State) (sp : Spot) (k n : Nat), s.onElement p 32 d 32 0 k n →
    let form := fun (i : Instr) (q : Access × Nat × Bool) (delta : Nat → Nat) =>
      let t := s.reach p sp.globals
      let mask := t.k p.maskReg
      let active := (List.range 64).filter (fun j => mask.getLsbD j)
      let w := elemWidth q.2.1
      let u := if q.2.2 then t else t.noteReads (active.flatMap (fun j => t.linesRead (sp.part (delta j) 4)))
      let f := fun j => if q.2.2 then t.elemAt t.tctx.table sp.tile t.ctxn q.2.1 (sp.off + delta j)
        else BitVec.ofNat 32 (ofBytes (((t.readSpot sp q.1.n).drop (delta j)).take 4))
      let v := Vector.ofFn (fun (j : Fin 64) => if mask.getLsbD j then f j
        else if p.zeroing then 0 else VReg.lane (u.v (p.field1 k d)) j)
      (q.2.2 = true → usesT8 q.2.1 = true → s.tablePending = false) →
      s.look q.1 (some q.2.1) = .ok sp →
      t.poisonIn (t.lanesSeen sp q.1.a q.2.1 q.2.2 mask delta) = none →
      exec i s = .next ((u.pend (.v (p.field1 k d) (if p.zeroing then BitVec.allOnes 64 else mask) v)
        (if sp.space = .wstore then (active.flatMap (fun j => banksOf u.cur.tile (sp.off + delta j) w)).eraseDups else [])).pastElement
          p true k n)
    form (.vLd p d m) (s.vecAccess p m k false false) (fun j => j * elemWidth (s.vecAccess p m k false false).2.1) ∧
    form (.vLdb p d m) (s.vecAccess p m k true false) (fun _ => 0) ∧
    form (.vLds p d m) (s.strideAccess p m k false) (strideDelta (s.stride p))

/-- R64, R73, R74, R121, R127, R128: vector stores. In a scratchpad bank each active lane's element, rounded to the bank's
format, is written at its place (by blocks in T8B); in cluster memory the lane's 32 bits; in the global range a speculative
firing with room holds them among its actions. Nothing else of the machine changes, but that check words which the bytes replace
whole are poisoned no more (R379). -/
def Obligations.VectorStores : Prop :=
  ∀ (p : Pfx) (d : BitVec 5) (m : MemOp) (s : State) (sp : Spot) (k n : Nat), s.onElement p 32 d 32 0 k n →
    let t := s.reach p sp.globals
    t.releasesNow p (sp.space != .global) (sp.space == .global) →
    let mask := t.k p.maskReg
    let v := t.v (p.field1 k d)
    let active := (List.range 64).filter (fun j => mask.getLsbD j)
    let form := fun (i : Instr) (q : Access × Nat × Bool) (delta : Nat → Nat) (blocks : Bool) =>
      let fmt := q.2.1
      let gives := fun (u : State) => exec i s = .next (u.pastElement p true k n)
      s.look q.1 (some fmt) = .ok sp →
      (q.2.2 = true → fmt ≠ 4 → (fmt = 3 → s.tablePending = false) →
        gives ((active.foldl (fun u j => u.writeBytes 0 (keyScratch t.ctxn sp.tile (sp.off + delta j))
          (toBytes (elemWidth fmt) (roundToBank t.tctx.table fmt p.round (VReg.lane v j)))) t).cleanseRuns
            (active.map (fun j => (keyScratch t.ctxn sp.tile (sp.off + delta j), elemWidth fmt))))) ∧
      (q.2.2 = true → fmt = 4 → s.tablePending = false →
        t.poisonIn (t.blocksRead sp.tile sp.off q.1.a mask delta blocks) = none →
        gives (t.putElems t.tctx.table p.round sp.tile t.ctxn fmt sp.off mask v delta blocks)) ∧
      (∀ c, q.2.2 = false → sp.space = .cmem → sp.pieces = [c] →
        gives ((active.foldl (fun u j => u.writeBytes u.keyId (c.key + delta j) (toBytes 4 (VReg.lane v j).toNat)) t).cleanseRuns
          (active.map (fun j => (c.key + delta j, 4))))) ∧
      (∀ f, q.2.2 = false → sp.space = .global → t.fir = some f → f.pinned = false →
        let as := active.flatMap (fun j => pieceStore sp.pieces (delta j) (toBytes 4 (VReg.lane v j).toNat))
        t.fits as = true → gives ((t.cleanseLines f.serial as).setFir { f with actions := f.actions ++ as }))
    form (.vSt p d m) (s.vecAccess p m k false true) (fun j => j * elemWidth (s.vecAccess p m k false true).2.1) true ∧
    form (.vSts p d m) (s.strideAccess p m k true) (strideDelta (s.stride p)) false

/-- R108, R129: gathers and scatters. An active lane passes when its element lies within the capability and, where the
first address lies in scratchpad, in that address's bank; with lane-fault mode 00 any that fails raises CAP.LANE and FMASK
names the failing lanes; with mode 01 they read zero or store nothing, and the report register is to hold them. The lanes that
pass are performed at their spots in ascending order, and the instruction completes. That a gather takes its values at issue is the
model's choice (log 17). -/
def Obligations.GatherAndScatter : Prop :=
  ∀ (p : Pfx) (d : BitVec 5) (m : MemOp) (s : State) (k n : Nat), s.onElement p 31 d 32 0 k n →
    let c := s.c m.cap
    let a0 := s.effective p m 0
    let fmt := (s.vecFmt a0).1
    let scratch := (s.vecFmt a0).2
    let w := elemWidth fmt
    let dst := p.field1 k d
    let place := fun (j : Nat) => (BitVec.ofInt 64 (a0 + (VReg.lane (s.v (dst + 1)) j).toInt * w)).toNat
    let active := (List.range 64).filter (fun j => (s.k p.maskReg).getLsbD j)
    let passes := fun j => c.base ≤ place j ∧ place j + w ≤ c.top ∧
      (scratch = true → (spaceOf s.cur.tile (place j)).1.scratchTile = (spaceOf s.cur.tile a0).1.scratchTile ∧
        (spaceOf s.cur.tile (place j)).2 / 32768 = (spaceOf s.cur.tile a0).2 / 32768 ∧
        (spaceOf s.cur.tile (place j)).2 % 32768 + w ≤ 32768)
    let may := fun (perm : Nat) => c.tag = true ∧ c.otype = 0 ∧ c.perms.getLsbD perm = true
    let fails := fun (failing : Word) => ∀ j, j < 64 → (failing.getLsbD j = true ↔ j ∈ active ∧ ¬ passes j)
    let ready := fun (failing : Word) => (failing = 0 ∨ p.laneZero = true) ∧ (scratch = false → a0 % 4 = 0) ∧
      (scratch = true → usesT8 fmt = true → s.tablePending = false)
    let found := fun (use : Use) (failing : Word) (l : List (Nat × Spot)) =>
      s.lookLanes { via := c, a := a0, ta := a0, n := w, need := 0, align := 1, vec := true, stride := 0
                    use := use, scope := p.scope, cap := none } fmt
        ((active.filter (fun j => !failing.getLsbD j)).map (fun j => (j, place j))) = .ok l
    let report := fun (x : State) (failing : Word) => if p.laneZero then x.pend (.k p.report failing) else x
    (∀ failing : Word, fails failing → failing ≠ 0 → p.laneZero = false →
      let raises := fun (i : Instr) => ∃ ta, exec i s = .next
        ((s.setReg { s.reg with fmask := failing }).raiseElement p k n Code.capLane ta)
      (may 0 → raises (.vGth p d m)) ∧ (may 1 → raises (.vSct p d m))) ∧
    (∀ (failing : Word) (l : List (Nat × Spot)), fails failing → ready failing → may 0 → found .vload failing l →
      let t := s.reach p (l.flatMap (fun r => r.2.globals))
      t.poisonIn (t.seenLanes fmt scratch l) = none →
      let u := t.noteReads (l.flatMap (fun r => t.linesRead r.2))
      let value := fun (sp : Spot) => if scratch then t.elemAt t.tctx.table sp.tile t.ctxn fmt sp.off
        else BitVec.ofNat 32 (ofBytes (t.readSpot sp 4))
      let res : VReg := Vector.ofFn (fun (j : Fin 64) =>
        if (s.k p.maskReg).getLsbD j then (match Map.get? l j.val with | some sp => value sp | none => 0)
        else if p.zeroing then 0 else VReg.lane (s.v dst) j)
      exec (.vGth p d m) s = .next
        ((report (u.pend (.v dst (if p.zeroing then BitVec.allOnes 64 else s.k p.maskReg) res) (l.flatMap (fun r => r.2.banks s.cur.tile w)).eraseDups) failing).pastElement p true k n)) ∧
    (∀ (failing : Word) (l : List (Nat × Spot)), fails failing → ready failing → may 1 → found .scatter failing l →
      let t := s.reach p (l.flatMap (fun r => r.2.globals))
      t.releasesNow p (l.any (fun r => r.2.space != .global)) (l.any (fun r => r.2.space == .global)) →
      let bytes := fun j => toBytes 4 (VReg.lane (s.v dst) j).toNat
      let locals := fun (x : State) => (l.foldl (fun x r => if r.2.space = .global then x else match r.2.pieces with
        | q :: _ => x.writeBytes x.keyId q.key (bytes r.1)
        | [] => x) x).cleanseRuns
          ((l.filter (fun r => r.2.space != .global)).flatMap (fun r => r.2.pieces.map (fun q => (q.key, q.n))))
      let as := l.flatMap (fun r => if r.2.space = .global then storesOf r.2.pieces (bytes r.1) false else [])
      let gives := fun (x : State) => exec (.vSct p d m) s = .next ((report x failing).pastElement p true k n)
      (scratch = true → fmt ≠ 4 → gives ((l.foldl (fun x r => x.writeBytes 0 (keyScratch x.ctxn r.2.tile r.2.off)
        (toBytes w (roundToBank t.tctx.table fmt p.round (VReg.lane (s.v dst) r.1)))) t).cleanseRuns
          (l.map (fun r => (keyScratch t.ctxn r.2.tile r.2.off, w))))) ∧
      (scratch = true → fmt = 4 → t.poisonIn (l.flatMap (fun r =>
          t.blocksRead r.2.tile r.2.off r.2.va 1 (fun _ => 0) false)) = none →
        gives ((l.foldl (fun x r => x.putLane t.tctx.table p.round r.2.tile x.ctxn fmt r.2.off (VReg.lane (s.v dst) r.1)) t).cleanseRuns
          (l.flatMap (fun r => [(keyScratch t.ctxn r.2.tile (r.2.off - r.2.off % 4), 4),
            (keyScratch t.ctxn r.2.tile (scaleOff r.2.off), 1)])))) ∧
      (scratch = false → as = [] → gives (locals t)) ∧
      (∀ f, scratch = false → as ≠ [] → t.fir = some f → f.pinned = false → t.fits as = true →
        gives (locals ((t.cleanseLines f.serial as).setFir { f with actions := f.actions ++ as }))))

/-- R131, R133, R134: `ws.q` reports the refresh state of the bank its address lies in: in a window of 2,100 clk in each
67,200, bank by bank every 4,200; the clk until the state changes. `pf` changes nothing but the program counter. -/
def Obligations.RefreshQueryAndPrefetch : Prop :=
  ∀ (p : Pfx) (d : BitVec 5) (m : MemOp) (s : State) (k n off : Nat),
    (s.free p → exec (.pf p d m) s = .next (s.past p true)) ∧
    (s.onElement p 32 d 32 0 k n →
      let sp : Spot := { space := .wstore, off := off
                         pieces := [{ va := s.effective p m 0, key := keyWs (quadOf s.cur.tile) off, n := 1, tag := false }] }
      s.look (Access.at (s.c m.cap) (s.effective p m 0) 1 (BitVec.ofNat 12 1) 1 .wsq p.scope) none = .ok sp →
      let t := s.reach p []
      let bank := off / 2 ^ 24 % 16
      let now := t.refreshTime (dieOf t.cur.tile)
      let ref := 4200 * bank ≤ now ∧ now < 4200 * bank + 2100
      ∃ wait, 1 ≤ wait ∧ wait ≤ 67200 ∧ (ref → wait ≤ 2100 ∧ now + wait = 4200 * bank + 2100) ∧
        (¬ ref → wait ≤ 65100 ∧ (now + wait) % 67200 = 4200 * bank) ∧
        exec (.wsQ p d m) s = .next ((t.pend (.s (p.field1 k d)
          (BitVec.ofNat 64 ((if ref then 2 ^ 63 else 0) + bank * 2 ^ 32 + wait)))).pastElement p true k n))

/-! ## Pages 4 and 5 -/

/-- R138, R139, R144, R147: the lanes of the integer, bitwise and broadcast instructions. An inactive lane keeps its value,
or becomes zero, and its error mark with it; sources are read before any lane is written. R147, R148, R149: the forms with an
immediate, packing, and the moves of one lane. -/
def Obligations.VectorIntegerLanes : Prop :=
  (∀ (p : Pfx) (d a : BitVec 5) (s : State) (k n : Nat), s.onElement p 32 d 32 a k n →
     let x := fun j => VReg.lane (s.v (p.field1 k d)) j
     let y := fun j => VReg.lane (s.v (p.field2 k a)) j
     let written := if p.zeroing then BitVec.allOnes 64 else s.k p.maskReg
     let lanes := fun (i : Instr) (f : Nat → Lane) => exec i s = .next ((s.setLanes (p.field1 k d) written
       (Vector.ofFn (fun (j : Fin 64) => if (s.k p.maskReg).getLsbD j then f j else if p.zeroing then 0 else x j))).pastElement
         p true k n)
     lanes (.vMv p d a) y ∧
     lanes (.vIadd p d a) (fun j => BitVec.ofInt 32 ((x j).toInt + (y j).toInt)) ∧
     lanes (.vIsub p d a) (fun j => BitVec.ofInt 32 ((x j).toInt - (y j).toInt)) ∧
     lanes (.vImul p d a) (fun j => BitVec.ofInt 32 ((x j).toInt * (y j).toInt)) ∧
     lanes (.vImin p d a) (fun j => BitVec.ofInt 32 (min (x j).toInt (y j).toInt)) ∧
     lanes (.vImax p d a) (fun j => BitVec.ofInt 32 (max (x j).toInt (y j).toInt)) ∧
     lanes (.vIabs p d a) (fun j => BitVec.ofNat 32 (y j).toInt.natAbs) ∧
     lanes (.vAnd p d a) (fun j => x j &&& y j) ∧
     lanes (.vOr p d a) (fun j => x j ||| y j) ∧
     lanes (.vXor p d a) (fun j => x j ^^^ y j) ∧
     lanes (.vShl p d a) (fun j => BitVec.ofNat 32 ((x j).toNat * 2 ^ ((y j).toNat % 32))) ∧
     lanes (.vShr p d a) (fun j => BitVec.ofNat 32 ((x j).toNat / 2 ^ ((y j).toNat % 32))) ∧
     lanes (.vSra p d a) (fun j => BitVec.ofInt 32 ((x j).toInt / 2 ^ ((y j).toNat % 32))) ∧
     lanes (.vBcs p d a) (fun _ => (s.s (p.field2 k a)).setWidth 32) ∧
     lanes (.vPerm p d a) (fun j => y ((VReg.lane (s.v p.x) j).toNat % 64))) ∧
  (∀ (p : Pfx) (d a i : BitVec 5) (s : State) (k n : Nat),
     let x := fun j => VReg.lane (s.v (p.field1 k d)) j
     let y := fun j => VReg.lane (s.v (p.field2 k a)) j
     let written := if p.zeroing then BitVec.allOnes 64 else s.k p.maskReg
     let put := fun (i : Instr) (m : Word) (v : VReg) => exec i s = .next ((s.setLanes (p.field1 k d) m v).pastElement p true k n)
     let active := (List.range 64).filter (fun j => (s.k p.maskReg).getLsbD j)
     let lanes := fun (i : Instr) (f : Nat → Lane) => put i written
       (Vector.ofFn (fun (j : Fin 64) => if (s.k p.maskReg).getLsbD j then f j else if p.zeroing then 0 else x j))
     (s.onElement p 32 d 32 0 k n → p.immI i % 64 = p.immI i →
       lanes (.vBcl p d i) (fun _ => x (p.immI i).toNat) ∧
       lanes (.vRot p d i) (fun j => x ((j + (p.immI i).toNat) % 64))) ∧
     (s.onElement p 32 d 32 0 k n → lanes (.vLi p d i) (fun _ => BitVec.ofInt 32 (p.immI i))) ∧
     (s.onElement p 32 d 32 a k n →
       (∃ m : Word, (∀ j, j < 64 → m.getLsbD j = (p.zeroing || decide (j < active.length))) ∧ put (.vCmpr p d a) m (Vector.ofFn (fun (j : Fin 64) =>
         if h : j.val < active.length then y active[j.val] else if p.zeroing then 0 else x j))) ∧
       exec (.vExt p d a) s = .next ((s.setS (p.field1 k d)
         (BitVec.ofNat 64 (y ((s.s (p.field1 k d)).toNat % 64)).toNat)).pastElement p true k n) ∧
       let l := (s.s (p.field2 k a)).toNat / 2 ^ 32 % 64
       put (.vIns p d a) (BitVec.ofNat 64 (2 ^ l)) (Vector.ofFn (fun (j : Fin 64) =>
         if j.val = l then (s.s (p.field2 k a)).setWidth 32 else x j))))

/-- R71, R142, R143, R150, R151, R153, R155: the lanes of the F32 instructions and of the T8 conversions: each the named function of
its operands' bits in the mode of the modifier, under the mask and the merge mode. The T8 conversions hold while a table is
pending; what that comes to across the sets of a context is the model's reading (log 21). -/
def Obligations.VectorFloatLanes : Prop :=
  ∀ (p : Pfx) (d a : BitVec 5) (s : State) (k n : Nat), s.onElement p 32 d 32 a k n →
    let x := fun j => VReg.lane (s.v (p.field1 k d)) j
    let y := fun j => VReg.lane (s.v (p.field2 k a)) j
    let z := fun j => VReg.lane (s.v p.x) j
    let lanes := fun (i : Instr) (f : Nat → Lane) => exec i s = .next ((s.setLanes (p.field1 k d)
      (if p.zeroing then BitVec.allOnes 64 else s.k p.maskReg)
      (Vector.ofFn (fun (j : Fin 64) => if (s.k p.maskReg).getLsbD j then f j else if p.zeroing then 0 else x j))).pastElement
        p true k n)
    lanes (.vAdd p d a) (fun j => fadd p.round (x j) (y j)) ∧
    lanes (.vSub p d a) (fun j => fsub p.round (x j) (y j)) ∧
    lanes (.vMul p d a) (fun j => fmul p.round (x j) (y j)) ∧
    lanes (.vFma p d a) (fun j => ffma p.round false (x j) (y j) (z j)) ∧
    lanes (.vFms p d a) (fun j => ffma p.round true (x j) (y j) (z j)) ∧
    lanes (.vMin p d a) (fun j => fmin (x j) (y j)) ∧
    lanes (.vMax p d a) (fun j => fmax (x j) (y j)) ∧
    lanes (.vAbs p d a) (fun j => (y j).extractLsb' 0 31 |>.setWidth 32) ∧
    lanes (.vNeg p d a) (fun j => BitVec.ofBool (!(y j).msb) ++ (y j).extractLsb' 0 31) ∧
    lanes (.vCvtfi p d a) (fun j => BitVec.ofInt 32 (convertToInt (-2 ^ 31) (2 ^ 31 - 1) p.round (f32Num (y j)))) ∧
    lanes (.vCvtif p d a) (fun j => toF32 p.round (.fin (decide ((y j).toInt < 0)) (y j).toInt.natAbs 0)) ∧
    lanes (.vExp2 p d a) (fun j => fexp2 (y j)) ∧
    lanes (.vLog2 p d a) (fun j => flog2 (y j)) ∧
    lanes (.vRcp p d a) (fun j => frcp (y j)) ∧
    lanes (.vRsq p d a) (fun j => frsq (y j)) ∧
    lanes (.vSqrt p d a) (fun j => fsqrt p.round (y j)) ∧
    lanes (.vRnd p d a) (fun j => frnd p.round (y j)) ∧
    (s.tablePending = false →
      lanes (.vT8dec p d a) (fun j => BitVec.ofNat 32 ((s.tctx.table.getD ((y j).toNat % 256) 0).toNat * 2 ^ 13)) ∧
      lanes (.vT8enc p d a) (fun j => BitVec.ofNat 32 (encodeT8 s.tctx.table p.round (f32Num (y j))))) ∧
    (s.tablePending = true →
      exec (.vT8dec p d a) s = .next s.held ∧ exec (.vT8enc p d a) s = .next s.held)

/-- R141, R143: NaNs, infinities and zeros in F32 arithmetic: the first NaN operand comes through quieted; invalid
operations give the canonical NaN; a minimum or maximum of one NaN and one number is the number; −0 lies below +0. R151: the
elementary functions: an NaN comes through quieted, the special inputs have the results of its table, and on every other
input the result is the exact one rounded once to nearest-even; for `v.exp2` and `v.log2` what is rounded lies within a
relative 2^-200 of the exact result (how they are computed is the model's, log 65). -/
def Obligations.FloatSpecialValues : Prop :=
  ∀ (mode : Round) (a b c : Lane),
    let nan := fun (v : Lane) => v.toNat % 2 ^ 31 > 0x7F800000
    let quieted := fun (v : Lane) => v ||| 0x00400000
    let inf : Lane := 0x7F800000
    (nan a → fadd mode a b = quieted a ∧ fsub mode a b = quieted a ∧ fmul mode a b = quieted a ∧
      ffma mode false a b c = quieted a ∧ ffma mode true a b c = quieted a) ∧
    (¬ nan a → nan b → fadd mode a b = quieted b ∧ fsub mode a b = quieted b ∧ fmul mode a b = quieted b ∧
      ffma mode false a b c = quieted b ∧ ffma mode true a b c = quieted b) ∧
    (¬ nan a → ¬ nan b → nan c → ffma mode false a b c = quieted c ∧ ffma mode true a b c = quieted c) ∧
    (fadd mode inf (inf ||| 0x80000000) = 0x7FC00000 ∧ fsub mode inf inf = 0x7FC00000) ∧
    (fmul mode 0 inf = 0x7FC00000 ∧ fmul mode inf 0x80000000 = 0x7FC00000) ∧
    (¬ nan a → ¬ nan b → (fmul mode a b = 0x7FC00000 ∨ (fmul mode a b).msb = (a.msb != b.msb))) ∧
    (¬ nan a → a ≠ inf → a ≠ inf ||| 0x80000000 → a ≠ 0 → a ≠ 0x80000000 →
      fsub mode a a = (if mode = .rd then 0x80000000 else 0)) ∧
    (nan a → ¬ nan b → fmin a b = b ∧ fmax a b = b ∧ fmin b a = b ∧ fmax b a = b) ∧
    (nan a → nan b → fmin a b = quieted a ∧ fmax a b = quieted a) ∧
    fmin 0 0x80000000 = 0x80000000 ∧ fmin 0x80000000 0 = 0x80000000 ∧ fmax 0 0x80000000 = 0 ∧ fmax 0x80000000 0 = 0 ∧
    (nan a → fexp2 a = quieted a ∧ flog2 a = quieted a ∧ frcp a = quieted a ∧ frsq a = quieted a ∧ fsqrt mode a = quieted a) ∧
    (fexp2 inf = inf ∧ flog2 inf = inf ∧ frcp inf = 0 ∧ frsq inf = 0 ∧ fsqrt mode inf = inf) ∧
    (let low := inf ||| 0x80000000
     fexp2 low = 0 ∧ flog2 low = 0x7FC00000 ∧ frcp low = 0x80000000 ∧ frsq low = 0x7FC00000 ∧ fsqrt mode low = 0x7FC00000) ∧
    (∀ z : Lane, z = 0 ∨ z = 0x80000000 → fexp2 z = 0x3F800000 ∧ flog2 z = inf ||| 0x80000000 ∧ frcp z = inf ||| z ∧
      frsq z = inf ||| z ∧ fsqrt mode z = z) ∧
    (finite a → let x := realOf a
      (x < 0 → flog2 a = 0x7FC00000 ∧ frsq a = 0x7FC00000 ∧ fsqrt mode a = 0x7FC00000) ∧
      (x ≠ 0 → roundsTo f32 .rn (1 / x) (frcp a).toNat) ∧
      (0 < x → roundsTo f32 .rn (1 / √x) (frsq a).toNat ∧ roundsTo f32 mode √x (fsqrt mode a).toNat) ∧
      (∃ z : ℝ, |z - 2 ^ x| ≤ 2 ^ (-200 : ℤ) * 2 ^ x ∧ roundsTo f32 .rn z (fexp2 a).toNat) ∧
      (∀ n : ℤ, x = n → -149 ≤ n → n ≤ 127 → realOf (fexp2 a) = 2 ^ n) ∧
      (x = 1 → flog2 a = 0) ∧
      (0 < x → x ≠ 1 → ∃ z : ℝ, |z - Real.logb 2 x| ≤ 2 ^ (-200 : ℤ) * |Real.logb 2 x| ∧ roundsTo f32 .rn z (flog2 a).toNat) ∧
      (∀ n : ℤ, x = 2 ^ n → realOf (flog2 a) = n))

/-- R56, R60: a value that a format can hold is not changed by rounding to it, in any mode: every F32, BF16 and F16 encoding
that is no NaN comes back from its exact value. R60: of a magnitude strictly between two neighbours n and n + 1 steps
apart, which neighbour each mode takes. R60, R61, R142, R150, R240: RoundFloat gives the encoding that R60 picks for every exact
value; sums, differences, products and fused sums of finite operands are the exact result rounded once; rounding to an
integral value and conversion to an integer pick by steps of 1; and so do the elements that a matrix readout writes. -/
def Obligations.RoundingOfValues : Prop :=
  ((∀ (mode : Round) (b : Lane), ¬ 0x7F800000 < b.toNat % 2 ^ 31 → toF32 mode (f32Num b) = b) ∧
   (∀ (mode : Round) (n : Nat), n < 2 ^ 16 → ¬ 0x7F80 < n % 2 ^ 15 → roundFloat bf16 mode (f32Num (widenBf16 n)) = n) ∧
   (∀ (mode : Round) (n : Nat), n < 2 ^ 16 → ¬ 0x7C00 < n % 2 ^ 15 → roundFloat f16 mode (f32Num (widenF16 n)) = n)) ∧
  (∀ (neg : Bool) (m c : Nat), 0 < c → m % 2 ^ c ≠ 0 →
     let lo := m / 2 ^ c
     let r := m % 2 ^ c
     let steps := fun mode => roundSteps mode neg m 0 c
     steps .rz = lo ∧ steps .ru = (if neg then lo else lo + 1) ∧ steps .rd = (if neg then lo + 1 else lo) ∧
     (steps .ro % 2 = 1 ∧ lo ≤ steps .ro ∧ steps .ro ≤ lo + 1) ∧
     (2 * r < 2 ^ c → steps .rn = lo) ∧ (2 ^ c < 2 * r → steps .rn = lo + 1) ∧
     (2 * r = 2 ^ c → steps .rn % 2 = 0 ∧ lo ≤ steps .rn ∧ steps .rn ≤ lo + 1) ∧ steps .dflt = steps .rn) ∧
  (∀ (f : FloatFmt) (mode : Round) (neg : Bool) (m : Nat) (e : Int), f ∈ [f32, bf16, f16] → m ≠ 0 →
     roundsTo f mode ((if neg then -1 else 1) * m * (2 : ℝ) ^ e) (roundFloat f mode (.fin neg m e))) ∧
  (∀ (mode : Round) (a b c : Lane), finite a → finite b → finite c →
     let x := realOf a
     let y := realOf b
     let z := realOf c
     let zero : Lane := if mode = .rd then 0x80000000 else 0
     (x + y ≠ 0 → roundsTo f32 mode (x + y) (fadd mode a b).toNat) ∧ (x + y = 0 → a ≠ b → fadd mode a b = zero) ∧
     (x - y ≠ 0 → roundsTo f32 mode (x - y) (fsub mode a b).toNat) ∧ (x = y → x ≠ 0 → fsub mode a b = zero) ∧
     (x * y ≠ 0 → roundsTo f32 mode (x * y) (fmul mode a b).toNat) ∧
     (x * y = 0 → fmul mode a b = if a.msb = b.msb then 0 else 0x80000000) ∧
     (x + y * z ≠ 0 → roundsTo f32 mode (x + y * z) (ffma mode false a b c).toNat) ∧
     (x - y * z ≠ 0 → roundsTo f32 mode (x - y * z) (ffma mode true a b c).toNat) ∧
     (∃ n, picks mode a.msb |x| 1 n ∧ finite (frnd mode a) ∧ |realOf (frnd mode a)| = n ∧ (frnd mode a).msb = a.msb) ∧
     (∀ lo hi : Int, ∃ n, picks mode a.msb |x| 1 n ∧
       convertToInt lo hi mode (f32Num a) = max lo (min hi (if a.msb then -(n : Int) else n)))) ∧
  (∀ (m : Matrix) (t : List (BitVec 19)) (fmt : Nat) (mode : Round) (b : Lane), finite b →
     let v : ℝ := if m.empty then 0 else if m.aclsInt then (b.toInt : ℝ) else realOf b
     let bits := m.readElem t fmt mode b
     let range := if fmt = 6 then (-128, 127) else if fmt = 7 then (0, 255) else ((-2 ^ 31 : Int), (2 ^ 31 - 1 : Int))
     let width := if fmt = 5 then 32 else 8
     (v ≠ 0 → (fmt = 0 → roundsTo f32 mode v bits) ∧ (fmt = 1 → roundsTo bf16 mode v bits) ∧ (fmt = 2 → roundsTo f16 mode v bits)) ∧
     (m.empty = true → fmt < 3 ∨ fmt = 5 ∨ fmt = 6 ∨ fmt = 7 → bits = 0) ∧
     (fmt = 5 ∨ fmt = 6 ∨ fmt = 7 → m.empty = false →
       (m.aclsInt = true → bits = (BitVec.ofInt width (max range.1 (min range.2 b.toInt))).toNat) ∧
       (m.aclsInt = false → ∃ n, picks (if mode = .dflt then .rz else mode) b.msb |v| 1 n ∧
         bits = (BitVec.ofInt width (max range.1 (min range.2 (if b.msb then -(n : Int) else n)))).toNat)))

/-- R138, R145: a compare writes one bit a lane to the k register of X: the relation for an active lane, the old bit or zero
for an inactive one; k0 discards. -/
def Obligations.VectorCompares : Prop :=
  ∀ (p : Pfx) (d a : BitVec 5) (s : State) (k n : Nat), s.onElement p 32 d 32 a k n →
    let x := fun j => VReg.lane (s.v (p.field1 k d)) j
    let y := fun j => VReg.lane (s.v (p.field2 k a)) j
    let nan := fun (v : Lane) => v.toNat % 2 ^ 31 > 0x7F800000
    let num := fun (v : Lane) => if v.msb then -((v.toNat % 2 ^ 31 : Nat) : Int) else v.toNat
    let bits := fun (i : Instr) (r : Lane → Lane → Prop) => ∃ w : Word,
      (∀ j, j < 64 → ((s.k p.maskReg).getLsbD j = true → (w.getLsbD j = true ↔ r (x j) (y j))) ∧
        ((s.k p.maskReg).getLsbD j = false → w.getLsbD j = (!p.zeroing && (s.k p.cmpDest).getLsbD j))) ∧
      exec i s = .next ((s.setK p.cmpDest w).pastElement p true k n)
    bits (.vFeq p d a) (fun x y => ¬ nan x ∧ ¬ nan y ∧ num x = num y) ∧
    bits (.vFlt p d a) (fun x y => ¬ nan x ∧ ¬ nan y ∧ num x < num y) ∧
    bits (.vFle p d a) (fun x y => ¬ nan x ∧ ¬ nan y ∧ num x ≤ num y) ∧
    bits (.vFun p d a) (fun x y => nan x ∨ nan y) ∧
    bits (.vIeq p d a) (fun x y => x = y) ∧
    bits (.vIlt p d a) (fun x y => x.toInt < y.toInt) ∧
    bits (.vIle p d a) (fun x y => x.toInt ≤ y.toInt) ∧
    bits (.vIlo p d a) (fun x y => x.toNat < y.toNat)

/-- R146, R152: the mask instructions, the counts of a mask, and the reductions. -/
def Obligations.MasksAndReductions : Prop :=
  ∀ (p : Pfx) (kd ks : BitVec 3) (d a : BitVec 5) (s : State) (k n : Nat),
    (s.onElement p 8 (kd.zeroExtend 5) 8 (ks.zeroExtend 5) k n →
      let dst := (p.field1 k (kd.zeroExtend 5)).setWidth 3
      let x := s.k dst
      let y := s.k ((p.field2 k (ks.zeroExtend 5)).setWidth 3)
      let put := fun (i : Instr) (w : Word) => exec i s = .next ((s.setK dst w).pastElement p true k n)
      put (.kAnd p kd ks) (x &&& y) ∧ put (.kOr p kd ks) (x ||| y) ∧ put (.kXor p kd ks) (x ^^^ y) ∧
      put (.kAndn p kd ks) (x &&& ~~~y) ∧ put (.kNot p kd ks) (~~~y) ∧ put (.kMv p kd ks) y) ∧
    (s.onElement p 32 d 8 (ks.zeroExtend 5) k n →
      let y := s.k ((p.field2 k (ks.zeroExtend 5)).setWidth 3)
      let put := fun (i : Instr) (c : Nat) => exec i s = .next ((s.setS (p.field1 k d) (BitVec.ofNat 64 c)).pastElement p true k n)
      put (.kPop p d ks) ((List.range 64).countP (fun j => y.getLsbD j)) ∧
      (∃ c, c ≤ 64 ∧ (∀ j, j < c → y.getLsbD j = false) ∧ (c < 64 → y.getLsbD c = true) ∧ put (.kFirst p d ks) c)) ∧
    (s.onElement p 32 d 32 a k n →
      let y := fun j => VReg.lane (s.v (p.field2 k a)) j
      let active := (List.range 64).filter (fun j => (s.k p.maskReg).getLsbD j)
      let tree := fun (op : Lane → Lane → Lane) (empty : Lane) =>
        (foldTree op ((List.range 64).map (fun j => if (s.k p.maskReg).getLsbD j then some (y j) else none))).getD empty
      let put := fun (i : Instr) (w : Word) => exec i s = .next ((s.setS (p.field1 k d) w).pastElement p true k n)
      put (.vRsum p d a) (BitVec.ofNat 64 (tree (fadd p.round) 0).toNat) ∧
      put (.vRmax p d a) (BitVec.ofNat 64 (tree fmax 0xFF800000).toNat) ∧
      put (.vRmin p d a) (BitVec.ofNat 64 (tree fmin 0x7F800000).toNat) ∧
      put (.vIrsum p d a) (BitVec.ofInt 64 ((active.map (fun j => (y j).toInt)).sum)))

/-- R67 to R71, R154: loading a decode table: an image that meets R68, or a preset, becomes outstanding once no earlier
conversion of the context is under way, else the chain holds; an image that breaks R68 raises NUM.TABLE.
What a load waits for is the model's reading (log 21). -/
def Obligations.DecodeTableLoads : Prop :=
  ∀ (p : Pfx) (m : MemOp) (s : State) (k n : Nat),
    let loads := fun (i : Instr) (table : List (BitVec 19)) =>
      exec i s = .next (if s.tableBusy then s.held else (s.pend (.table table)).pastElement p true k n)
    (s.onElement p 3 1 32 0 k n → loads (.t8LdE4 p) (if p.field1 k 1 = 1 then tableE4 else tableE5)) ∧
    (s.onElement p 3 2 32 0 k n → loads (.t8LdE5 p) tableE5) ∧
    (s.onElement p 3 0 32 0 k n → (p.field1 k 0 = 1 → loads (.t8Ld p m) tableE4) ∧
      (p.field1 k 0 = 2 → loads (.t8Ld p m) tableE5)) ∧
    (∀ sp, s.onElement p 3 0 32 0 k n → p.field1 k 0 = 0 →
      s.look (Access.at (s.c m.cap) (s.effective p m (1024 * k)) 1024 (BitVec.ofNat 12 1) 4 .load p.scope) none = .ok sp →
      let t := s.reach p sp.globals
      let u := t.noteReads (t.linesRead sp)
      let image := (List.range 256).map (fun j => ofBytes (((t.readSpot sp 1024).drop (4 * j)).take 4))
      t.readsClean sp 1024 →
      (tableValid image = true → u.tableBusy = false →
        exec (.t8Ld p m) s = .next ((u.pend (.table (image.map (BitVec.ofNat 19)))).pastElement p true k n)) ∧
      (tableValid image = false →
        exec (.t8Ld p m) s = .next (u.raiseElement p k n Code.numTable (BitVec.ofNat 64 (s.effective p m (1024 * k))))))

/-! ## Page 3 -/

/-- R209, R210, R211: atomics on one word: the old value returns to sd, the new one is in memory at once: in a local space
for any firing, in the global range for a pinned one, whose write meets the read sets of others (R188). R211: floating
point atomic add of an F32 word: NaNs give the canonical NaN, any other sum is rounded to nearest-even.
That memory is one copy is the model's (log 19). -/
def Obligations.AtomicOperations : Prop :=
  (∀ (p : Pfx) (d : BitVec 5) (m : MemOp) (s : State) (sp : Spot) (q : Piece), s.free p →
     sp.pieces = [q] → keyKind q.key ≠ 1 → s.partner s.cur.tile = none →
     (sp.space = .global → ∃ f, s.fir = some f ∧ f.pinned = true) →
     let t := s.reach p sp.globals
     t.releasesNow p true (sp.space == .global) →
     let u := t.noteReads (t.linesRead sp)
     let x := s.s d
     let stored := fun (bs : List Byte) =>
       if sp.space = .global then
         ((u.directWrite u.cur.tile u.ctxn u.selfId (linesOf q.va (bs.take q.n).length)).storeGlobal u.ctxn [(q.key, q.n)] (bs.take q.n)
           false).cleanseRuns [(q.key, q.n)]
       else u.writeBytes u.keyId q.key bs
     (s.look (s.atomicAccess p m 8 8 .atomic) none = .ok sp → t.readsClean sp 8 →
       let old := BitVec.ofNat 64 (ofBytes (t.readSpot sp 8))
       let form := fun (i : Instr) (w : Word) =>
         exec i s = .next (((stored (toBytes 8 w.toNat)).pend (.s d old)).past p true)
       form (.amAdd p d m) (old + x) ∧ form (.amAnd p d m) (old &&& x) ∧ form (.amOr p d m) (old ||| x) ∧
       form (.amXor p d m) (old ^^^ x) ∧ form (.amMin p d m) (BitVec.ofInt 64 (min old.toInt x.toInt)) ∧
       form (.amMax p d m) (BitVec.ofInt 64 (max old.toInt x.toInt)) ∧ form (.amSwp p d m) x ∧
       (old = s.s p.y → form (.amCas p d m) x) ∧
       (old ≠ s.s p.y → exec (.amCas p d m) s = .next ((u.pend (.s d old)).past p true))) ∧
     (let fmt := (s.vecFmt (s.effective p m 0)).1
      let w := elemWidth fmt
      (fmt < 3 → s.look (s.atomicAccess p m w w .atomic) none = .ok sp → t.readsClean sp w →
       let old := ofBytes (t.readSpot sp w)
       exec (.amFadd p d m) s = .next (((stored (toBytes w (faddElem fmt old (x.setWidth 32)))).pend
         (.s d (BitVec.ofNat 64 (decodeElem [] fmt old 0).toNat))).past p true)))) ∧
  (∀ (old x : Lane), faddElem 0 old.toNat x =
     (if old.toNat % 2 ^ 31 > 0x7F800000 ∨ x.toNat % 2 ^ 31 > 0x7F800000 then 0x7FC00000 else (fadd .rn old x).toNat))

/-- R209, R212, R354: updates at supervisor privilege: an update is held by the tile, and joins one that is held there to its word
by its function, while those of other words stand; one to a frame of an open export is performed in memory at once; an update that
a check stops raises its fault. Its line's eviction merges a held update into memory by its function, and nothing else changes.
Below supervisor privilege an update raises KPR.PRIV. When held updates merge is the model's reading (log 37). -/
def Obligations.UpdateOnlyAtomics : Prop :=
  let by_ := fun (fn : Nat) (old x : Word) => match fn with
    | 0 => old + x
    | 1 => old ||| x
    | 2 => old &&& x
    | 3 => old ^^^ x
    | 4 => BitVec.ofInt 64 (min old.toInt x.toInt)
    | 5 => BitVec.ofInt 64 (max old.toInt x.toInt)
    | _ => (fadd .rn (old.setWidth 32) (x.setWidth 32)).setWidth 64
  let bytes := fun (s : State) (p : Pfx) (m : MemOp) (fn : Nat) =>
    let at_ := s.vecFmt (s.effective p m 0)
    if fn = 6 then (if at_.2 then elemWidth at_.1 else 4) else 8
  (∀ (p : Pfx) (d : BitVec 5) (m : MemOp) (s : State),
    let all := fun (r : Instr → Nat → Prop) => r (.amUpdAdd p d m) 0 ∧ r (.amUpdOr p d m) 1 ∧ r (.amUpdAnd p d m) 2 ∧
      r (.amUpdXor p d m) 3 ∧ r (.amUpdMin p d m) 4 ∧ r (.amUpdMax p d m) 5 ∧ r (.amUpdFadd p d m) 6
    (∀ sp q, s.freeAt p .supervisor → sp.pieces = [q] → keyKind q.key ≠ 1 →
      let t := s.reachHeld p sp.globals
      t.releasesNow p false true →
      all (fun i fn =>
        s.look (s.atomicAccess p m (bytes s p m fn) (bytes s p m fn) .update) none = .ok sp →
        let width := fun (f : Nat) => if f = 6 then 4 else 8
        let holds := fun us => exec i s = .next ((t.setTile t.cur.tile { t.tile t.cur.tile with updates := us }).past p true)
        (t.exported q.key = false → (∀ u, u ∈ (t.tile t.cur.tile).updates → u.1 + width u.2.1 ≤ q.key ∨ q.key + width fn ≤ u.1) →
          holds ((t.tile t.cur.tile).updates ++ [(q.key, fn, t.keyId, t.s d)])) ∧
        (∀ y, t.exported q.key = false → (t.tile t.cur.tile).updates = [(q.key, fn, t.keyId, y)] →
          holds [(q.key, fn, t.keyId, by_ fn y (t.s d))]) ∧
        (t.exported q.key = true → t.updaters = [] → fn < 6 →
          let old := BitVec.ofNat 64 (ofBytes (t.readBytes t.keyId q.key 8))
          exec i s = .next ((t.writeBytes t.keyId q.key (toBytes 8 (by_ fn old (t.s d)).toNat)).past p true)))) ∧
    (s.freeAt p .supervisor → all (fun i fn => ∀ code ta,
      s.look (s.atomicAccess p m (bytes s p m fn) (bytes s p m fn) .update) none = .bad code ta →
      exec i s = .next (s.raise code (BitVec.ofNat 64 ta)))) ∧
    (s.free p → s.priv = .user → all (fun i _ => exec i s = .next (s.raise Code.kprPriv 0)))) ∧
  (∀ (s : State) (n key fn kid : Nat) (x : Word), fn < 6 → (s.tile n).updates = [(key, fn, kid, x)] →
    let old := BitVec.ofNat 64 (ofBytes (s.readBytes kid key 8))
    exec (.updateMerge n (key / 64)) s =
      .next ((s.setTile n { s.tile n with updates := [] }).writeBytes kid key (toBytes 8 (by_ fn old x).toNat)))

/-- R214, R215, R216: sync words: `sw.init` sets the target and clears the count and leaves the generation; `sw.gen` returns count
and generation; `sw.wait` holds while the generation is the one it names. R217, R218, R219, R223: mailboxes: a put sets
value and presence and notes an overrun; a get of a present value takes it and clears presence and overrun, and holds
without one; a test changes no mailbox. -/
def Obligations.SyncWordsAndMailboxes : Prop :=
  (∀ (p : Pfx) (d : BitVec 5) (m : MemOp) (s : State) (sp : Spot) (q : Piece), s.free p → sp.pieces = [q] →
     let t := s.reach p sp.globals
     let u := t.noteReads (t.linesRead sp)
     let look := fun (perm : Nat) (use : Use) =>
       s.look (Access.at (s.c m.cap) (s.effective p m 0) 16 (BitVec.ofNat 12 (2 ^ perm)) 16 use .dflt) none = .ok sp
     (look 1 .syncInit → exec (.swInit p d m) s = .next (((t.writeBytes t.keyId q.key
       (toBytes 8 ((t.s d).toNat % 2 ^ 32))).writeBytes t.keyId (q.key + 12) (toBytes 4 0)).past p true)) ∧
     (look 0 .sync → t.readsClean sp 16 →
       let bs := t.readSpot sp 16
       let count := ofBytes ((bs.drop 4).take 4)
       let gen := ofBytes ((bs.drop 8).take 4)
       exec (.swGen p d m) s = .next ((u.pend (.s d (BitVec.ofNat 64 (count * 2 ^ 32 + gen)))).past p true) ∧
       exec (.swWait p d m) s = .next (if gen = (u.s d).toNat % 2 ^ 32 then u.held else u.past p true))) ∧
  (∀ (p : Pfx) (d a : BitVec 5) (s : State), s.free p → (∀ f, s.fir = some f → f.journalIn[f.journaled]? = none) →
     let dst := (s.s d).toNat
     let v := s.mergeOrdered p true
     let there := v.tctxOf dst s.ctxn
     let own := s.tctx.mailbox a
     (s.tileExists dst = false → exec (.mbPut p d a) s = .next (s.raise Code.memNotile 0)) ∧
     (s.tileExists dst = true → s.resident dst s.ctxn = false → exec (.mbPut p d a) s = .next (s.raise Code.memAway 0)) ∧
     (s.tileExists dst = true → s.resident dst s.ctxn = true → s.releasesNow p true false →
       exec (.mbPut p d a) s = .next (((v.setTctxOf dst s.ctxn (there.setMailbox p.x
         { value := s.s a, presence := true
           overrun := (there.mailbox p.x).overrun || (there.mailbox p.x).presence })).record (.put dst p.x.toNat)).past p true)) ∧
     (own.presence = false → exec (.mbGet p d a) s = .next s.held) ∧
     (own.presence = true →
       exec (.mbGet p d a) s = .next ((((v.setTctx (v.tctx.setMailbox a { own with presence := false, overrun := false })).record
         (.got a.toNat own.value)).pend (.s d own.value)).past p true)) ∧
     (∃ w : Word, (∀ j, (h : j < 32) → w.getLsbD j = s.tctx.mail[j].presence ∧ w.getLsbD (32 + j) = s.tctx.mail[j].overrun) ∧
       exec (.mbTest p d) s = .next ((s.setS d w).past p true)))

/-- R220 to R223: barriers of the context's block: configuring, arriving and waiting. The last arrival clears ARR and
advances the phase; arriving returns the phase, and is recorded for a rerun; BAR.OWN outside the block, BAR.MEMB without
membership. -/
def Obligations.BarrierInstructions : Prop :=
  ∀ (p : Pfx) (d i : BitVec 5) (s : State), s.free p →
    let b := (p.immI i).toNat
    match s.barrierNum b with
    | none => exec (.barCfg p d i) s = .next (s.raise Code.barOwn 0) ∧ exec (.barArv p d i) s = .next (s.raise Code.barOwn 0) ∧
        exec (.barWt p d i) s = .next (s.raise Code.barOwn 0)
    | some n => s.poisonIn [s.barrierSeen n] = none →
      let x := s.barrier n
      let j := clusterIdx s.cur.tile
      let arrived := x.arr ||| 2 ^ j
      let after : Barrier := if arrived = x.mask then { x with arr := 0, phase := (x.phase + 1) % 2 ^ 32 }
        else { x with arr := arrived }
      exec (.barCfg p d i) s = .next ((if x.mask = (s.s d).toNat % 256 then s
        else s.setBarrier n { x with mask := (s.s d).toNat % 256, arr := 0 }).past p true) ∧
      exec (.barWt p d i) s = .next (if x.phase = (s.s d).toNat % 2 ^ 32 then s.held else s.past p true) ∧
      (x.mask.testBit j = false → exec (.barArv p d i) s = .next (s.raise Code.barMemb 0)) ∧
      (x.mask.testBit j = true → (∀ f, s.fir = some f → f.journalIn[f.journaled]? = none) →
        exec (.barArv p d i) s = .next (if x.arr.testBit j then s.held
          else (((s.setBarrier n after).record (.arv b (BitVec.ofNat 64 x.phase))).setS d (BitVec.ofNat 64 x.phase)).past p true))


/-- R197, R200: the fence: with nothing to wait for it returns 0 in sd and changes no memory; at system scope it waits for
the firing's posted writes, and raises LINK.DOWN, with the status word in sd, when a port lost them. -/
def Obligations.Fence : Prop :=
  ∀ (p : Pfx) (d i : BitVec 5) (s : State), s.free p →
    let classes := (p.immI i).toNat
    let mine := s.posted.filter (fun q => q.ownedBy s.selfId)
    (releases p.order = false → p.scope = .tile ∨ p.scope = .cluster →
      exec (.fence p d i) s = .next ((s.setS d 0).past p true)) ∧
    (s.holdsTaskLines = false → (s.tile s.cur.tile).updates = [] → (releases p.order = true → classes.testBit 3 = true →
        s.ownCopies = false) →
      (p.scope ≠ .system → exec (.fence p d i) s = .next ((s.setS d 0).past p true)) ∧
      (p.scope = .system → mine = [] → exec (.fence p d i) s = .next ((s.setS d 0).past p true)) ∧
      (p.scope = .system → (∃ q, q ∈ mine ∧ q.lost = false) →
        exec (.fence p d i) s = .next s.held) ∧
      (p.scope = .system → mine ≠ [] → (∀ q, q ∈ mine → q.lost = true) →
        ∃ w : Word, w.msb = true ∧ exec (.fence p d i) s =
          .next (({ s with posted := s.posted.filter (fun q => !q.ownedBy s.selfId) }.setS d w).raise Code.linkDown 0)))


/-! ## Page 7 -/

/-- R167 to R169, R171 to R173: the outputs of a firing. Those of a speculative firing with room for them become its
actions, in issue order; those of a pinned one are performed at once, and the last clauses say what performing each
comes to. A destination that does not exist, no output left, a timestamp past 32 bits, a handler that is no single-port one, and
a counter that is another context's or of another kind raise their faults with nothing done.
A decrement that meets an idle counter is noted for Halo.
That counter numbers are the cluster unit's is the model's reading (log 39). -/
def Obligations.TaskOutputs : Prop :=
  (∀ (p : Pfx) (d a i : BitVec 5) (s : State) (f : Firing), s.free p → s.fir = some f →
    let n := s.cur.tile
    let nout := (f.image.ctrl.extractLsb' 32 8).toNat
    let tag := (s.s a).toNat % 4096
    let acts := fun (i : Instr) (x : Action) (after : State → State) =>
      (f.pinned = false → s.fits [x] = true →
        exec i s = .next ((after (s.setFir { f with actions := f.actions ++ [x] })).past p true)) ∧
      (f.pinned = true → s.partner n = none → exec i s = .next ((after (s.perform n s.ctxn x)).past p true))
    let raises := fun (i : Instr) code => exec i s = .next (s.raise code 0)
    let message := fun (dst tag : Nat) (urg : Bool) =>
      { ts := f.ts + f.off, src := n, knd := 1, urg := urg, tag := tag, wid := f.wid
        payload := [s.s 1, s.s 2, s.s 3, s.s 4, s.s 5, s.s 6], ctx := f.ctx, dst := dst, slot := f.slot : Msg }
    let counted := fun (t : State) => match t.fir with
      | some g => t.setFir { g with outputs := f.outputs + 1 }
      | none => t
    let sends := fun (i : Instr) (urg : Bool) =>
      let dst := (s.s d).toNat
      (s.tileExists dst = false → raises i Code.memNotile) ∧
      (s.tileExists dst = true → nout < f.outputs + 1 → raises i Code.tskOuts) ∧
      (s.tileExists dst = true → f.outputs + 1 ≤ nout → quadOf dst = quadOf n ∨ f.pinned = true →
        acts i (.send (message dst tag urg)) counted)
    sends (.send p d a) false ∧ sends (.sendU p d a) true ∧
    acts (.hEn p a) (.setEn tag true) id ∧ acts (.hDis p a) (.setEn tag false) id ∧
    acts (.hPend p a) (.pend tag (f.ts + f.off) f.wid f.slot) id ∧ acts (.hClrp p a) (.clearPend tag) id ∧
    (let off := f.off + (p.immI i).toNat
     (2 ^ 32 ≤ f.ts + off → raises (.tsAdd p d i) Code.tskTsovf) ∧
     (f.ts + off < 2 ^ 32 → exec (.tsAdd p d i) s =
       .next (((s.setFir { f with off := off }).setS d (BitVec.ofNat 64 (f.ts + off))).past p true))) ∧
    (let h := (s.tctx.entry tag).image
     let single := (h.ctrl.extractLsb' 16 2).toNat = 1 ∧ (h.ctrl.extractLsb' 12 3).toNat = 1 ∧ (h.port.extractLsb' 12 4).toNat = 0
     let u := s.setFir { f with outputs := f.outputs + 1 }
     (¬ single → raises (.fork p d a) Code.tskFork) ∧
     (single → nout < f.outputs + 1 → raises (.fork p d a) Code.tskOuts) ∧
     (single → f.outputs + 1 ≤ nout → 64 ≤ (s.tile n).deque.length → exec (.fork p d a) s = .next ((s.setS d 0).past p true)) ∧
     (single → f.outputs + 1 ≤ nout → (s.tile n).deque.length < 64 → exec (.fork p d a) s =
       .next (((u.setTile n { u.tile n with
         count := (u.tile n).count + 1
         deque := (u.tile n).deque ++ [{ msg := message n tag false, serial := (u.tile n).count * 64 + partIdx n
                                         parent := { tile := n, serial := f.serial } }] }).setS d 1).past p true))) ∧
    (let c := (s.s d).toNat % 256
     (s.ownsCounter c = false → raises (.jcInit p d a) Code.tskJcown) ∧
     (s.ownsCounter c = true → acts (.jcInit p d a)
       (.arm c (!(s.s d).getLsbD 8) (s.s a) s.payload f.wid (f.ts + f.off) f.slot) id)) ∧
    (let c := (s.s a).toNat % 256
     (s.ownsCounter c = false → raises (.join p a) Code.tskJcown) ∧
     (s.ownsCounter c = true → s.poisonIn [s.counterSeen c] = none → match s.counter n c with
       | .join _ _ _ _ _ _ _ _ => acts (.join p a) (.join c f.ts) id
       | _ => raises (.join p a) Code.tskJckind))) ∧
  (∀ (s : State) (n ctx tag ts c j k cnt : Nat) (en : Bool) (m : Msg) (pay : List Word) (wid : Word) (slot : Option Nat)
      (sv : Word),
    let e := s.entryOf n ctx tag
    s.perform n ctx (.send m) = { s with
      net := s.net ++ [{ m with ts := if quadOf m.src = quadOf m.dst then m.ts else max m.ts (s.part (quadOf m.dst)).floor }] } ∧
    s.perform n ctx (.setEn tag en) = (s.setEntryOf n ctx tag { e with en := en }).rankReady n ctx ∧
    s.perform n ctx (.clearPend tag) = (s.setEntryOf n ctx tag { e with pend := false }).rankReady n ctx ∧
    s.perform n ctx (.pend tag ts wid slot) = (s.setEntryOf n ctx tag { e with
      pend := true, pts := if e.pend then max e.pts ts else ts, pwid := wid, pslot := slot }).rankReady n ctx ∧
    let fresh := s.cleanse (fun w => w == keyUnit (clusterOf n) c)
    ((sv.extractLsb' 0 32).toNat ≠ 0 → s.perform n ctx (.arm c true sv pay wid ts slot) = fresh.setCounter n c
      (.join (sv.extractLsb' 0 32).toNat (sv.extractLsb' 32 12).toNat (sv.extractLsb' 44 3).toNat pay wid ts ctx slot)) ∧
    s.perform n ctx (.arm c false sv pay wid ts slot) = fresh.setCounter n c
      (.iter (sv.extractLsb' 0 32).toNat (max (sv.extractLsb' 32 16).toNat 1)
        (if sv.extractLsb' 48 8 = 0 then 8 else (sv.extractLsb' 48 8).toNat) 0 none) ∧
    (s.counter n c = .idle → s.perform n ctx (.join c ts) = s.setCluster (clusterOf n)
      { s.cluster (clusterOf n) with lost := (s.cluster (clusterOf n)).lost ++ [c] }) ∧
    (s.counter n c = .join cnt tag j pay wid k ctx slot → 1 < cnt →
      s.perform n ctx (.join c ts) = s.setCounter n c (.join (cnt - 1) tag j pay wid k ctx slot)) ∧
    (s.counter n c = .join 1 tag j pay wid k ctx slot → ∃ urg : Bool,
      let t := s.setCounter n c .idle
      s.perform n ctx (.join c ts) = t.send { ts := max k ts, src := n, knd := 3, urg := urg, tag := tag, wid := wid
                                              payload := pay, ctx := ctx, dst := clusterTile (clusterOf n) j, slot := slot }))

/-- R163, R166, R170, R174 to R176, R377, R379: what a firing takes and learns, and its end. A word of a message whose error is not
corrected matters to `in.pop` unless it is the one that it does not return; the errors of a set that is left owe their records (where
errors stand is the model's, log 86). -/
def Obligations.TaskInputsAndEnds : Prop :=
  ∀ (p : Pfx) (d a i : BitVec 5) (s : State) (f : Firing), s.free p → s.fir = some f →
    let n := s.cur.tile
    let x := s.tctx
    let gives := fun (w : Word) => Host.Outcome.next ((s.setS d w).past p true)
    (let tag := (s.s a).toNat % 4096
     let e := x.entry tag
     let len := x.heldFor tag + e.queue.length
     exec (.inCnt p d a) s = gives (if e.image.ctrl.extractLsb' 16 2 = 0 then 0 else BitVec.ofNat 64 len) ∧
     ∃ w : Word, w.getLsbD 63 = e.lock ∧ w.getLsbD 62 = e.en ∧ w.getLsbD 61 = e.pend ∧
       w.getLsbD 60 = e.image.ctrl.getLsbD 15 ∧ w.extractLsb' 58 2 = e.image.ctrl.extractLsb' 16 2 ∧
       w.extractLsb' 55 3 = e.image.ctrl.extractLsb' 12 3 ∧ w.extractLsb' 40 8 = e.image.ctrl.extractLsb' 24 8 ∧
       (w.extractLsb' 8 8).toNat = min 255 (x.unbound.countP (fun m => m.tag == tag)) ∧
       (len < 128 → (w.extractLsb' 0 7).toNat = len) ∧ exec (.hTag p d a) s = gives w) ∧
    (let port := (s.s a).toNat % 4
     let tag := (f.image.port.extractLsb' (16 * port) 12).toNat
     let e := x.entry tag
     let nport := (f.image.ctrl.extractLsb' 12 3).toNat
     (nport ≤ port → exec (.inPop p d a) s = .next (s.raise Code.tskPort 0)) ∧
     let back := f.owed.find? (fun q => (f.image.port.extractLsb' (16 * q.1) 12).toNat == tag)
     let pops := fun (m : Msg) (t : State) => (∀ w, w ∈ m.bad → w = 1) →
       exec (.inPop p d a) s = .next ((((t.rankReady n s.ctxn).setPayload m.payload).setS d (BitVec.ofNat 64 (m.ts % 2 ^ 32 * 2 ^ 32 +
         m.src % 2 ^ 12 * 2 ^ 20 + m.knd % 16 * 2 ^ 16 + (if m.urg then 2 ^ 14 else 0) + m.tag % 2 ^ 12))).past p true)
     (port < nport → back = none → e.queue = [] → exec (.inPop p d a) s = gives 0) ∧
     (∀ m rest, port < nport → back = none → e.queue = m :: rest →
       pops m ((s.setTctx (x.setEntry tag { e with queue := rest })).setFir { f with popped := f.popped ++ [(port, m)] })) ∧
     (∀ q, port < nport → back = some q →
       pops q.2 (s.setFir { f with owed := f.owed.erase q, popped := f.popped ++ [(port, q.2)] }))) ∧
    (let c := (s.s a).toNat % 256
     (s.ownsCounter c = false → exec (.chunk p d a) s = .next (s.raise Code.tskJcown 0)) ∧
     (∀ stop minc div next owner, s.ownsCounter c = true → s.poisonIn [s.counterSeen c] = none →
         s.counter n c = .iter stop minc div next owner →
       let r := stop - next
       let l := min r (max minc ((r + div - 1) / div))
       let w := BitVec.ofNat 64 (l * 2 ^ 32 + next % 2 ^ 32)
       let u := s.setCounter n c (.iter stop minc div (next + l) owner)
       (f.claims = [] → f.claimed < f.replay.length → exec (.chunk p d a) s = .next
         (((s.setFir { f with claimed := f.claimed + 1 }).pend (.s d (f.replay.getD f.claimed 0))).past p true)) ∧
       ((f.claims ≠ [] ∨ f.replay.length ≤ f.claimed) → f.claimed + f.claims.length < 16 → exec (.chunk p d a) s = .next
         (((u.setFir { f with claims := f.claims ++ [w] }).pend (.s d w)).past p true)) ∧
       ((f.claims ≠ [] ∨ f.replay.length ≤ f.claimed) → 16 ≤ f.claimed + f.claims.length → f.pinned = true →
         exec (.chunk p d a) s = .next ((u.pend (.s d w)).past p true)))) ∧
    (let ws := (s.part (quadOf n)).layouts
     let widths := match f.slot with | some _ => Map.get ws s.ctxn [] | none => []
     let m := (p.immI i).toNat
     exec (.widFld p d i) s = gives (if widths.length ≤ m then 0
       else BitVec.ofNat 64 (f.wid.toNat / 2 ^ (widths.drop (m + 1)).sum % 2 ^ widths.getD m 0))) ∧
    (s.cur.set ≠ .keeper →
      let k := s.cur.set
      (∃ t, exec (.endF p) s = .next t ∧ t = { s with tiles := t.tiles, launches := t.launches, clusters := t.clusters, events := t.events } ∧
        (t.tctxOf n s.ctxn).regs k = { RegSet.reset with owed := s.reg.owed ++ s.reg.bad } ∧
        (t.tctxOf n s.ctxn).ended = x.ended ++ (if f.pinned then [] else [{ f with owed := [] }])) ∧
      let prio := (f.image.ctrl.extractLsb' 24 8).toNat
      (x.prq = true ∨ (∃ q, s.choose n s.ctxn f.urgent = some q ∧ prio < q.prio) → x.savedCount f.urgent < 4 → ∃ t rank r, exec (.yield p) s = .next t ∧
        (t.tctxOf n s.ctxn).regs k = { RegSet.reset with owed := s.drain.reg.owed ++ s.drain.reg.bad } ∧
        (t.tctxOf n s.ctxn).saved = x.saved ++ [(rank, r)] ∧
        (s.painted = [] → r.fir = some f) ∧ r.pending = [] ∧ r.s = s.drain.reg.s ∧ r.v = s.drain.reg.v ∧ t.mem = s.mem) ∧
      ((x.prq = false ∧ ∀ q, s.choose n s.ctxn f.urgent = some q → q.prio ≤ prio) ∨ 4 ≤ x.savedCount f.urgent →
        exec (.yield p) s = .next (s.past p true)))

/-! ## Page 6 -/

/-- R227 to R233, R239 to R242: the matrix instructions. A first use of the unit brings the context's own state in, with the
other's saved and stopped; then a command whose operand passes the checks of R233 joins the queue, and a chain that finds the
queue full holds. R229, R237: the fields of a command as its words give them, the checks of one in their order, MTX.NBR among
them. R230: a store to the command window stages its bytes, and one that writes byte 63 of a slot submits that slot. Which space a
submitted command with WS set names is the model's reading (log 78). -/
def Obligations.MatrixInstructions : Prop :=
  (∀ (s : State) (n ctx : Nat), ctx < 4096 →
    let t := s.tile n
    let names := fun c => t.accown.getLsbD 15 = true ∧ t.accown.toNat % 4096 = c
    (names ctx → s.accFirst n ctx = s) ∧
    (¬ names ctx → (s.accFirst n ctx).mtxOf n ctx = { (s.tctxOf n ctx).matrix with stopped := false } ∧
      ((s.accFirst n ctx).tile n).accown.toNat = 0x8000 + ctx ∧
      ∀ o, names o → (s.accFirst n ctx).mtxOf n o = { t.matrix with stopped := true })) ∧
  (∀ (p : Pfx) (d : BitVec 5) (m : MemOp) (s : State), s.free p →
    let n := s.cur.tile
    let u := s.accFirst n s.ctxn
    let x := u.mtx
    let owner := u.fir.map (fun f => { tile := n, serial := f.serial : FiringId })
    let room := x.queue.length < 16
    let joins := fun (i : Instr) (c : MtxCmd) =>
      exec i s = .next (if room then (u.setMtx { x with queue := x.queue ++ [c] }).past p true else u.held)
    let broken := (u.group (quadOf n)).any (fun q => (u.part q).split || (List.range 64).any (fun j => !u.tileExists (partTile q j)))
    let plain := fun opc => { opc := opc, rnd := 0, ws := false, addr := 0, wfmt := 0, pitch := 0, step := 0, fmt := 0
                              owner := owner : MtxCmd }
    joins (.mSwap p) (plain 2) ∧ joins (.mZero p) (plain 6) ∧
    exec (.mDrain p) s = .next (if x.queue = [] then u.past p true else u.held) ∧
    (∃ w : Word, w.extractLsb' 0 5 = BitVec.ofNat 5 x.queue.length ∧ w.getLsbD 5 = (!x.queue.isEmpty && !x.stopped) ∧
      w.extractLsb' 8 32 = BitVec.ofNat 32 x.done ∧ w.getLsbD 40 = x.nbrCls ∧
      exec (.mQ p d) s = .next (((u.setMtx { x with nbrCls := false }).setS d w).past p true)) ∧
    (let a := u.effective p m 0
     let off := (spaceOf n a).2
     let sp := u.s d
     let pitch := (sp.extractLsb' 0 18).toNat
     let rnd := match p.round with | .dflt => 0 | .rn => 1 | .rz => 2 | .ru => 3 | .rd => 4 | .ro => 5
     let operand := fun (i : Instr) (opc : Nat) (mask : BitVec 12) (ws : Bool) (fmt bank : Nat) =>
       let len := spanLen opc fmt pitch ws
       let wfmt := (sp.extractLsb' 18 3).toNat
       let fails := fun code => exec i s = .next (u.raise code (BitVec.ofNat 64 a))
       match (u.c m.cap).checkAccess a len mask with
       | some e => fails e
       | none =>
         (off % 4 ≠ 0 ∨ pitch % 4 ≠ 0 ∨ bank < off % bank + len → fails Code.memAlign) ∧
         (off % 4 = 0 → pitch % 4 = 0 → off % bank + len ≤ bank → (rnd ≠ 0 ∧ opc ≠ 5 ∧ opc ≠ 7) ∨ (ws = false ∧ wfmt ≠ 0) →
           fails Code.mtxCmd) ∧
         (off % 4 = 0 → pitch % 4 = 0 → off % bank + len ≤ bank → rnd = 0 ∨ opc = 5 ∨ opc = 7 → ws = true ∨ wfmt = 0 →
           (x.predict.accepts opc fmt ws = false ∨ (ws = false ∧ fmt = 4 ∧ 0x6000 < off % 32768 + len) → fails Code.mtxFmt) ∧
           (x.predict.accepts opc fmt ws = true → ws = true ∨ fmt ≠ 4 ∨ off % 32768 + len ≤ 0x6000 →
             (opc = 4 → broken = true → fails Code.mtxNbr) ∧ ((opc = 4 → broken = false) → (usesT8 fmt = true → u.tablePending = false) →
             joins i { opc := opc, rnd := rnd, ws := ws, addr := off, wfmt := wfmt, pitch := pitch, step := 0, fmt := fmt
                       owner := owner })))
     ((spaceOf n a).1.scratchTile = some n →
       let fmt := u.bankFmt n u.ctxn off
       operand (.mLds p d m) 1 1 false fmt 32768 ∧ operand (.mStr p d m) 3 1 false fmt 32768 ∧
       operand (.mMrot p d m) 4 3 false fmt 32768 ∧ operand (.mRd p d m) 5 2 false fmt 32768 ∧
       operand (.mRdz p d m) 7 2 false fmt 32768) ∧
     ((spaceOf n a).1 = .wstore → operand (.mLds p d m) 1 1 true (sp.extractLsb' 18 3).toNat (2 ^ 24)) ∧
     (let cnt := sp.toNat
      let key := keyScratch u.ctxn n off
      let bs := Memory.readBytes u.mem key (64 * cnt)
      let cmds := (List.range cnt).map (fun j => CmdWords.ofBytes ((bs.drop (64 * j)).take 64))
      (u.c m.cap).checkAccess a (64 * cnt) 1 = none →
      (a % 64 ≠ 0 → exec (.mCmd p d m) s = .next (u.raise Code.memAlign (BitVec.ofNat 64 a))) ∧
      (a % 64 = 0 → (spaceOf n a).1.scratchTile = some n → off + 64 * cnt ≤ 2 ^ 18 →
        (16 < cnt → exec (.mCmd p d m) s = .next (u.raise Code.mtxCmd (BitVec.ofNat 64 a))) ∧
        (cnt ≤ 16 → u.poisonIn [{ va := a, key := key, n := 64 * cnt }] = none →
          (∀ e j, u.checkAll x.predict 0 cmds = .error (e, j) → exec (.mCmd p d m) s = .next (u.raise e (BitVec.ofNat 64 a))) ∧
          (cnt = 1 →
            let w := fun j => ofBytes ((bs.drop (8 * j)).take 8)
            let opc := w 0 % 256
            let rnd := w 0 / 256 % 8
            let addr := w 1 % 2 ^ 32
            let pitch := w 2 % 2 ^ 18
            let spans := opc ∈ [1, 3, 4, 5, 7]
            let fmt := u.bankFmt n u.ctxn addr
            let len := spanLen opc fmt pitch
            let fails := fun code => exec (.mCmd p d m) s = .next (u.raise code (BitVec.ofNat 64 a))
            w 0 / 2 ^ 11 % 2 = 0 →
            if spans ∧ (addr % 4 ≠ 0 ∨ pitch % 4 ≠ 0 ∨ 32768 < addr % 32768 + len) then fails Code.memAlign
            else if spans ∧ 2 ^ 18 < addr + len then fails Code.memSpace
            else if w 0 / 2 ^ 12 ≠ 0 ∨ opc = 0 ∨ 7 < opc ∨ 5 < rnd ∨ (rnd ≠ 0 ∧ opc ≠ 5 ∧ opc ≠ 7) ∨ w 1 / 2 ^ 32 ≠ 0 ∨
                w 2 / 2 ^ 18 ≠ 0 ∨ w 3 ≠ 0 ∨ (∃ b, b ∈ bs.drop 32 ∧ b ≠ 0) ∨ ((opc = 2 ∨ opc = 6) ∧ (w 1 ≠ 0 ∨ w 2 ≠ 0)) then
              fails Code.mtxCmd
            else if spans ∧ (x.predict.accepts opc fmt false = false ∨ (fmt = 4 ∧ 0x6000 < addr % 32768 + len)) then
              fails Code.mtxFmt
            else if opc = 4 ∧ broken = true then fails Code.mtxNbr
            else u.tablePending = false → joins (.mCmd p d m) { opc := opc, rnd := rnd, ws := false, addr := addr, wfmt := 0
                                                                pitch := pitch, step := 0, fmt := if spans then fmt else 0
                                                                owner := owner }) ∧
          (∀ cs, u.checkAll x.predict 0 cmds = .ok cs → cnt = 0 ∨ u.tablePending = false → exec (.mCmd p d m) s = .next
            (if x.queue.length + cnt ≤ 16 then (u.setMtx { x with queue := x.queue ++ cs }).past p true else u.held))))))) ∧
  (∀ (p : Pfx) (d : BitVec 5) (m : MemOp) (s : State) (sp : Spot) (k n : Nat), s.onElement p 32 d 32 0 k n → sp.space = .window →
    let t := s.reach p sp.globals
    t.releasesNow p true false →
    let u := t.accFirst t.cur.tile t.ctxn
    let form := fun (i : Instr) (width : Nat) =>
      let a := s.scalarAccess p m width k [permST] .storeWide
      let ws := (List.range width).map (fun j => (sp.off + j, (toBytes width (s.s (p.field1 k d)).toNat).getD j 0))
      let staged := u.mtx.staging
      let now := ws.foldl (fun l w => Memory.write l w.1 w.2) staged
      let slot := sp.off / 64
      let v := u.stagedFresh ws
      let q := u.mtx.queue
      s.look a none = .ok sp → sp.off + width ≤ 4096 → sp.off % width = 0 →
      (sp.off % 64 + width ≠ 64 → exec i s = .next ((v.setMtx { u.mtx with staging := now }).pastElement p true k n)) ∧
      (sp.off % 64 + width = 64 → u.poisonIn (stagedSeen u.cur.tile u.ctxn ws slot) = none →
        let cmd := CmdWords.ofBytes (Memory.readBytes now (64 * slot) 64)
        (∀ e j, u.checkAll u.mtx.predict 0 [cmd] = .error (e, j) → exec i s = .next (u.raiseElement p k n e (BitVec.ofNat 64 a.ta))) ∧
        (∀ c, u.checkAll u.mtx.predict 0 [cmd] = .ok [c] → u.tablePending = false → q.length < 16 → exec i s = .next
          ((v.setMtx { u.mtx with queue := q ++ [c]
                                  staging := Memory.writeBytes now (64 * slot) (List.replicate 64 0) }).pastElement p true k n)))
    form (.stW p d m) 4 ∧ form (.stD p d m) 8)

/-- R226, R228, R234 to R237, R240, R243, R379, R380: the units that the matrix sequencer performs, one of a command at a time: eight
rows of weights, the exchange of the planes, one row streamed, the two halves of a torus step, one row read out, the clearing. What
a unit reads must be free of uncorrected errors, an error goes with the plane that holds it, and words replaced whole have none left:
where the errors of the unit's arrays stand is the model's own choice (log 86). -/
def Obligations.MatrixUnitEvents : Prop :=
  ∀ (s : State) (n ctx : Nat) (c : MtxCmd) (cs : List MtxCmd), s.headCmd n = some (ctx, c) →
    (s.tile n).matrix.queue = c :: cs →
    let m := (s.tile n).matrix
    let table := (s.tctxOf n ctx).table
    let w := elemWidth c.fmt
    let rowAt := fun i => c.addr + i * pitchOf c.opc c.fmt c.pitch
    let elem := fun (k j : Nat) => if c.ws
      then decodeElem table c.fmt (ofBytes (s.readBytes (s.info ctx).keyId (keyWs (quadOf n) (rowAt k + j * w)) w)) 0
      else s.elemAt table n ctx c.fmt (rowAt k + j * w)
    let moves := fun (last : Nat) (x : Matrix) => if last ≤ c.step + 1 then { x with queue := cs, done := (x.done + 1) % 2 ^ 32 }
      else { x with queue := { c with step := c.step + 1 } :: cs }
    let leaves := fun (i : Instr) (t : State) (last : Nat) (x : Matrix) =>
      exec i s = .next (t.setTile n { t.tile n with matrix := moves last x })
    (c.opc = 2 → leaves (.swap n) (s.swapPoison n ctx) 1 { m with active := m.shadow, shadow := m.active }) ∧
    (c.opc = 6 → leaves (.zero n) (s.mtxFresh n ctx 2 0 1024) 1 { m with acc := [], empty := true }) ∧
    (∀ cls, c.opc = 1 → fmtClass c.fmt = some cls → s.unitWaits n c = false →
      s.poisonIn ((List.range 8).flatMap (fun r => rowSeen n ctx c (rowAt (8 * c.step + r)) 32)) = none →
      ∃ vals : List Lane, (∀ k j, k < cls.k → j < 32 → laneAt vals (32 * k + j) =
          if 8 * c.step ≤ k ∧ k < 8 * c.step + 8 then elem k j else laneAt m.shadow.vals (32 * k + j)) ∧
        leaves (.lds n) (s.mtxFresh n ctx 1 (256 * c.step) 256) (cls.k / 8) { m with shadow := { cls := cls, vals := vals } }) ∧
    (c.step < 32 → s.poisonIn (rowSeen n ctx c (rowAt c.step) m.active.cls.k ++ mtxSeen n ctx 0 0 (32 * m.active.cls.k) ++
        mtxSeen n ctx 2 (32 * c.step) 32) = none →
      ∃ acc : List Lane, (∀ r j, r < 32 → j < 32 → laneAt acc (32 * r + j) =
          let x := laneAt m.acc (32 * r + j)
          let y := fun k => elem c.step k
          let z := fun k => laneAt m.active.vals (32 * k + j)
          if r ≠ c.step then x
          else match m.active.cls with
            | .int => BitVec.ofInt 32 (x.toInt + ((List.range 64).map (fun k => (y k).toInt * (z k).toInt)).sum)
            | cls => fadd .rn x (treeSum (fadd .rn) 0 7 ((List.range cls.k).map (fun k => fmul .rn (y k) (z k))))) ∧
        let x : Matrix := { m with acc := acc, aclsInt := m.active.cls == .int, empty := false }
        (c.opc = 3 → leaves (.str n) s 32 x) ∧ (c.opc = 4 → leaves (.mrot n) s 34 x)) ∧
    (c.opc = 4 → c.step = 32 → s.poisonIn (mrotSeen n ctx c) = none →
      let west := ((s.tile n).torcfg.extractLsb' 24 12).toNat
      let north := ((s.tile n).torcfg.extractLsb' 36 12).toNat
      if s.mrotMaySend n ctx = true then
        let t0 := (s.landPoison n ctx north).mtxFresh west ctx 5 0 512
        let t1 := t0.setMtxOf west ctx { t0.mtxOf west ctx with
          arrA := [(m.mrnd, (List.range 32).flatMap (fun i => Memory.readBytes s.mem (keyScratch ctx n (rowAt i)) 64))] }
        let t2 := t1.setMtxOf north ctx { t1.mtxOf north ctx with arrP := [(m.mrnd, m.active)] }
        leaves (.mrot n) t2 34 (t2.tile n).matrix
      else exec (.mrot n) s = .next s) ∧
    (∀ bs q, c.opc = 4 → c.step = 33 → m.arrivals = some (bs, q) →
      s.poisonIn (mtxSeen n ctx 3 0 2048 ++ mtxSeen n ctx 5 0 512) = none →
      let t := (List.range 32).foldl (fun t i => t.putImage n ctx (rowAt i) ((bs.drop (64 * i)).take 64)) s
      leaves (.mrotArrival n) (t.mtxFresh n ctx 1 0 2048) 34 { m with
        shadow := if q.cls = m.active.cls then q else { cls := m.active.cls, vals := [] }
        nbrCls := m.nbrCls || decide (q.cls ≠ m.active.cls), mrnd := (m.mrnd + 1) % 2 ^ 32, arrA := [], arrP := [] }) ∧
    (s.poisonIn (mtxSeen n ctx 2 (32 * c.step) 32) = none →
     let mode := roundOfCode c.rnd
     let row := (List.range 32).map (fun j => laneAt m.acc (32 * c.step + j))
     let t := if c.fmt = 4 then (List.range 8).foldl (fun t b =>
         t.putBlock table mode n ctx (rowAt c.step + 4 * b) (((row.drop (4 * b)).take 4).map m.readNum)) s
       else s.putImage n ctx (rowAt c.step) (row.flatMap (fun x => toBytes w (m.readElem table c.fmt mode x)))
     (c.opc = 5 → leaves (.rd n) t 32 m) ∧
     (c.opc = 7 → ∃ acc : List Lane, (∀ r j, r < 32 → j < 32 → laneAt acc (32 * r + j) =
         if r = c.step then 0 else laneAt m.acc (32 * r + j)) ∧
       leaves (.rdz n) t 32 { m with acc := acc, empty := m.empty || c.step == 31 }))

/-! ## Page 8 -/

/-- R248 to R254, R257: `cp` and `cp.try` push a request that passes R249 into the lowest free slot of the FIFO and count it in
its token; with no slot free `cp` holds and `cp.try` says so in s[Y]; a request that breaks a check raises its fault. R369: a copy
of a channel to the host reserves its counters. `tk.q` reports a token, the FIFO and the idle tokens, and clears a stop; `cp.rsm`
sends a resume packet, at supervisor privilege. R246, R247: the fields of a request, its rows and spans, and whether it converts.
R249, R353, R369: the checks in their order, each with the fault that it raises; the first that is met is reported. That TADDR is
the lowest address of the span concerned, and what the other end of a window copy must be, are the model's readings (log 76). -/
def Obligations.CopyInstructions : Prop :=
  (∀ k : Copy,
    k.len = k.w2.toNat % 2 ^ 32 ∧ k.rows = max (k.w2.toNat / 2 ^ 32) 1 ∧ (k.conv = none → k.dlen = k.len) ∧
    (∀ f g, k.conv = some (f, g) → k.dlen = k.len / elemWidth f * elemWidth g) ∧
    (∀ i, i < k.rows → k.srcRow i = k.src.addr + (k.w2b.extractLsb' 0 32).toInt * i ∧
      k.dstRow i = k.dst.addr + (k.w2b.extractLsb' 32 32).toInt * i ∧
      k.srcSpan.1 ≤ k.srcRow i ∧ k.srcRow i + k.len ≤ k.srcSpan.1 + k.srcSpan.2 ∧
      k.dstSpan.1 ≤ k.dstRow i ∧ k.dstRow i + k.dlen ≤ k.dstSpan.1 + k.dstSpan.2) ∧
    (∃ i, i < k.rows ∧ k.srcRow i = k.srcSpan.1) ∧ (∃ i, i < k.rows ∧ k.srcRow i + k.len = k.srcSpan.1 + k.srcSpan.2) ∧
    (∃ i, i < k.rows ∧ k.dstRow i = k.dstSpan.1) ∧ (∃ i, i < k.rows ∧ k.dstRow i + k.dlen = k.dstSpan.1 + k.dstSpan.2)) ∧
  (∀ (s : State) (k : Copy),
    let n := s.cur.tile
    let lo := k.srcSpan.1.toNat
    let hi := k.dstSpan.1.toNat
    let g := k.swAddr
    let swe := k.w3.getLsbD 6
    let ends := fun (c other : Cap) (sp osp : Int × Nat) (mask : BitVec 12) (ta : Nat) =>
      [(!c.tag, Code.capTag, ta), (!isWindow c && c.sealed, Code.capSeal, ta), (c.perms &&& mask != mask, Code.capPerm, ta),
       (decide (sp.1 < c.base ∨ (c.top : Int) < sp.1 + sp.2), Code.capBound, ta),
       (isWindow c && (!(s.window c).getLsbD 63 || ((s.window c).extractLsb' 48 12).toNat != k.ctx || isWindow other ||
         !s.ownMemory k.ctx other osp || s.otherWorld k.ctx (s.window c)), Code.fabWin, ta),
       (isWindow c && (s.upPorts (s.window c)).isEmpty, Code.linkDown, ta)]
    let space := fun (c : Cap) (sp : Int × Nat) (ta : Nat) =>
      let q := spaceOf n ta
      (!isWindow c && sp.2 != 0 && (q.1 == .void || q.1 == .inbox || q.1 == .window || decide (spaceSize q.1 < q.2 + sp.2)),
        Code.memSpace, ta)
    let remote := fun (e : BitVec 16) =>
      [(!isWindow k.src && s.remoteFault n k.ctx (spaceOf n lo).1 == some e, e, lo),
       (!isWindow k.dst && s.remoteFault n k.ctx (spaceOf n hi).1 == some e, e, hi),
       (swe && s.remoteFault n k.ctx (spaceOf n g).1 == some e, e, g)]
    let row := fun (c : Cap) (str : Int) (i : Nat) => (((spaceOf n c.addr).2 : Int) + str * i).toNat
    let group := fun (f : Nat) => if f = 4 then 4 else elemWidth f
    let rows := fun (c : Cap) (f : Nat) (str : Int) (len ta : Nat) =>
      ((List.range k.rows).any (fun i => row c str i % group f != 0 || decide (0x8000 < row c str i % 0x8000 + len)), Code.memAlign, ta)
    let scales := fun (c : Cap) (f : Nat) (str : Int) (len ta : Nat) =>
      ((List.range k.rows).any (fun i => f == 4 && decide (0x6000 < row c str i % 0x8000 + len)), Code.memFmt, ta)
    let converts := match k.conv with
      | some (f, h) => [rows k.src f k.sstr k.len lo, rows k.dst h k.dstr k.dlen hi,
          scales k.src f k.sstr k.len lo, scales k.dst h k.dstr k.dlen hi]
      | none => []
    let channel := match s.copyChannel k with
      | some (c, toHost) =>
        let x := s.chan c
        let start := if toHost then k.dst.addr else k.src.addr
        let str := if toHost then k.dstr else k.sstr
        let ta := if toHost then hi else lo
        [(start % 4096 != 0 || k.len % 4096 != 0 || str % 4096 != 0, Code.memAlign, ta),
         (x.ctrl.getLsbD 62 || (x.ctrl.extractLsb' 48 12).toNat != k.ctx ||
           (toHost && decide (2 ^ 32 < x.dctr + k.rows * k.len / 4096)), Code.chanDead, ta)]
      | none => []
    let breach := k.w3.extractLsb' 26 38 != 0 || k.w3.getLsbD 7 || (!swe && k.w3.extractLsb' 8 18 != 0) ||
      decide (5 < (k.w3.extractLsb' 3 3).toNat) || k.w3b.extractLsb' 14 18 != 0 ||
      (!k.w3b.getLsbD 12 && (k.w3b.extractLsb' 0 12 != 0 || k.w3b.getLsbD 13 || k.w3b.extractLsb' 32 32 != 0)) ||
      (match k.conv with | some (f, _) => k.len % group f != 0 | none => false) || decide (0xFFFFFFFF < k.rows * k.dlen) ||
      (swe && (decide (k.dst.top < g + 16) || !scratchSpan n g 16 || !scratchSpan n hi k.dstSpan.2 ||
        decide (g < hi + k.dstSpan.2 ∧ hi < g + 16 ∧ k.dstSpan.2 ≠ 0)))
    g = k.dst.base + 16 * (k.w3.extractLsb' 8 18).toNat ∧
    s.pushFault k = ((ends k.src k.dst k.srcSpan k.dstSpan (BitVec.ofNat 12 (2 ^ 0 + 2 ^ 9)) lo ++
      ends k.dst k.src k.dstSpan k.srcSpan (BitVec.ofNat 12 (2 ^ 1 + 2 ^ 9)) hi ++ [(breach, Code.cpReq, 0)] ++
      [space k.src k.srcSpan lo, space k.dst k.dstSpan hi] ++ remote Code.memNotile ++ remote Code.memAway ++ converts ++
      channel).find? Prod.fst).map Prod.snd) ∧
  ∀ (p : Pfx) (d a : BitVec 4) (r q : BitVec 5) (s : State), s.free p →
    let n := s.cur.tile
    let t := s.tile n
    let k := s.request p d a
    let w3 := s.s (p.x + 2)
    (let x := spaceOf n k.src.addr
     let y := spaceOf n k.dst.addr
     let f := s.fmtAt k.ctx x.1 x.2
     let g := s.fmtAt k.ctx y.1 y.2
     let c : Copy := { k with conv := some (f, g) }
     k.conv = if isWindow k.src = false ∧ isWindow k.dst = false ∧ inScratch n c.srcSpan = true ∧ inScratch n c.dstSpan = true ∧
         x.1.scratchTile ≠ none ∧ y.1.scratchTile ≠ none ∧ f ≠ g
       then some (f, g) else none) ∧
    (k.src = s.c d ∧ k.dst = s.c a ∧ k.w2 = s.s p.x ∧ k.w2b = s.s (p.x + 1) ∧ k.w3 = w3 ∧ k.w3b = s.s (p.x + 3) ∧
      k.ctx = s.ctxn ∧ k.set = s.cur.set ∧ k.push = t.pushes ∧ k.started = false ∧ k.stop = none ∧
      (∀ f, s.fir = some f → k.ts = f.ts + f.off ∧ k.wid = f.wid ∧ k.slot = f.slot ∧
        k.pusher = some { tile := n, serial := f.serial } ∧ k.fate = if f.pinned then .settled else .speculative)) ∧
    ((∀ f, s.fir = some f → (f.pinned = true ∧ s.partner n = none) ∨ (f.pinned = false ∧ s.pushPins k = false)) →
      (∀ e ta, s.pushFault k = some (e, ta) → exec (.cp p d a) s = .next (s.raise e (BitVec.ofNat 64 ta)) ∧
        exec (.cpTry p d a) s = .next (s.raise e (BitVec.ofNat 64 ta))) ∧
      (s.pushFault k = none → (∀ o, o ∈ t.slots → o ≠ none) → exec (.cp p d a) s = .next s.held ∧
        exec (.cpTry p d a) s = .next ((s.setS p.y 1).past p true)) ∧
      (∀ j, s.pushFault k = none → (k.usesT8 = true → s.tablePending = false) → t.slots[j]? = some none →
        (∀ l, l < j → t.slots[l]? ≠ some none) →
        let dctr := match s.copyChannel k with | some (c, _) => (s.chan c).dctr | none => 0
        let cnt := match s.copyChannel k with | some (_, true) => k.rows * k.len / 4096 | _ => 0
        let s1 := match s.copyChannel k with
          | some (c, true) => s.setChan c { s.chan c with dctr := dctr + cnt }
          | _ => s
        let u := s1.setTile n { t with
          slots := t.slots.set j (some { k with
            home := j, chan := s.copyChannel k, agedTo := s.clk, ctrs := (List.range cnt).map (fun i => dctr + i)
            chanKey := match s.copyChannel k with | some (c, _) => (s.chan c).key | none => 0
            takesLast := decide (0 < cnt) && dctr + cnt == 2 ^ 32 })
          pushes := t.pushes + 1 }
        let tok := w3.extractLsb' 0 3
        let v := u.setReg (u.reg.setToken tok { u.reg.token tok with cnt := (u.reg.token tok).cnt + 1 })
        exec (.cp p d a) s = .next (v.past p true) ∧ exec (.cpTry p d a) s = .next ((v.setS p.y 0).past p true))) ∧
    (let i := (s.s q).extractLsb' 0 3
     let x := s.reg.token i
     let free := t.slots.countP (fun o => o.isNone)
     ∃ w : Word, w.extractLsb' 48 16 = x.stat ∧ w.extractLsb' 44 4 = BitVec.ofNat 4 x.cnt ∧ w.extractLsb' 40 4 = BitVec.ofNat 4 free ∧
       (∀ j : BitVec 3, w.getLsbD j.toNat = ((s.reg.token j).cnt == 0)) ∧ w.extractLsb' 8 32 = 0 ∧
       let u := s.setS r w
       exec (.tkQ p r q) s = .next ((if (s.s q).getLsbD 3 then u.setReg (u.reg.setToken i { u.reg.token i with stat := 0 })
         else u).past p true)) ∧
    (if s.priv = .user then exec (.cpRsm p r q) s = .next (s.raise Code.kprPriv 0)
     else exec (.cpRsm p r q) s = .next (({ s with net := s.net ++
       [{ ts := 0, src := n, knd := 6, urg := true, tag := 0xFFF, wid := 0
          payload := [s.s r, (s.s q) &&& 0xFFFF, 0, 0, 0, 0], ctx := 0, dst := (s.s r).toNat % 4096, slot := none }] } : State).past p true))

/-- R250 to R256, R258, R352, R357: the engines. A copy starts in push order while its cluster's engine has room; of its cluster's
requests with a unit to write the oldest has the next write slot, where no other would lose its one in 16 (log 61); a unit between
local memories moves its bytes, converted where the copy converts (R247, R251); an edge engine sends a unit to a window or asks
for one; a chunk of a channel goes out under the next reserved counter, and comes in where its tag verifies (R368, R369); a copy
that has moved all its rows completes, and one with a stop ends with its code: in both its token counts it down and its slot is
free; a posted write is done while its port is up (R351). That the offset which cuts chunks counts the bytes of all rows, and when
a chunk begins to wait, are the model's readings (logs 60, 61). -/
def Obligations.CopyEngines : Prop :=
  (∀ (s : State) (j : Nat) (q : Posted), s.posted[j]? = some q →
    execPostedDone j s = .next (if q.lost = false ∧ s.portState q.port = .up then { s with posted := s.posted.eraseIdx j } else s)) ∧
  ∀ (s : State) (n i : Nat) (k : Copy), (s.tile n).copyAt i = some k →
    let put := fun (t : State) (o : Option Copy) => t.setTile n { t.tile n with slots := (t.tile n).slots.set i o }
    let ages := fun (t : State) (c : Copy) => { c with since := t.clk, aged := 0, agedTo := t.clk, paid := false, engine := none }
    let u := s.passSlot n i
    let goes := s.mayWrite n k = true ∧ s.writesNext (clusterOf n) k = true
    let step := fun (len : Nat) => if k.dlen ≤ k.done + len
        then { k with passed := 0, row := k.row + 1, done := 0, written := k.written + len }
        else { k with passed := 0, done := k.done + len, written := k.written + len }
    (s.mayStartCopy n k = true →
      exec (.copyStart n i) s = .next (put s (some { ages s k with
        started := true, passed := 0
        stop := if isWindow k.dst = false ∧ (spaceOf n k.dst.addr).1 = .wstore ∧ s.mayLoadWeights n k = false
          then some Code.memWsro else k.stop }))) ∧
    (s.mayWrite n k = true → (∀ j, j ∈ s.writers (clusterOf n) → s.olderChunk j k = false ∧ crowded (s.writers (clusterOf n)) j = false) →
      s.writesNext (clusterOf n) k = true) ∧
    (∀ m j c, (s.tile m).copyAt j = some c → (u.tile m).copyAt j = some (
      if m ∉ clusterTiles (clusterOf n) then c else if m = n ∧ j = i then { c with passed := 0 }
      else if s.mayWrite m c = true then { c with passed := c.passed + 1 } else c)) ∧
    (goes → k.done < k.dlen → 1 ≤ k.unitLen ∧ k.unitLen ≤ 64) ∧
    (∀ src dst, goes → u.updaters = [] → k.conv = none → k.swe = false →
      (spaceOf n k.srcVa).1 ≠ .global → (spaceOf n k.dstVa).1 ≠ .global →
      u.enginePieces n k.ctx k.srcVa k.unitLen .rd = .ok [src] → u.enginePieces n k.ctx k.dstVa k.unitLen .wr = .ok [dst] →
      u.poisonIn (k.unitSeen [src]) = none → u.carried k [src] k.srcVa k.dstVa k.unitLen = [] →
      let key := (u.info k.ctx).keyId
      exec (.copyWriteUnit n i) s = .next (put (u.writeBytes key dst.key ((u.readBytes key src.key src.n).take dst.n))
        (some (step k.unitLen)))) ∧
    (∀ src dst x y, goes → u.updaters = [] → k.conv.isSome = true → k.swe = false →
      (spaceOf n k.srcVa).1.scratchTile = some x → (spaceOf n k.dstVa).1.scratchTile = some y →
      u.enginePieces n k.ctx k.srcVa (k.unitLen / k.wd * k.ws) .rd = .ok [src] →
      u.enginePieces n k.ctx k.dstVa k.unitLen .wr = .ok [dst] → u.poisonIn (k.unitSeen [src]) = none →
      let a := (spaceOf n k.srcVa).2
      let b := (spaceOf n k.dstVa).2
      let f := u.bankFmt x k.ctx a
      let g := u.bankFmt y k.ctx b
      let tab := (u.tctxOf n k.ctx).table
      let mode := roundOfCode (k.w3.extractLsb' 3 3).toNat
      let el := fun j => u.imageNat x k.ctx (a + j * k.ws) k.ws
      let sc := fun j => u.imageNat x k.ctx (scaleOff (a + j * k.ws)) 1
      elemWidth f = k.ws → elemWidth g = k.wd →
      (g ≠ 4 → exec (.copyWriteUnit n i) s = .next (put (u.putImage y k.ctx b ((List.range (k.unitLen / k.wd)).flatMap (fun j =>
        toBytes k.wd (convertElem tab f g mode (el j) (sc j))))) (some (step k.unitLen)))) ∧
      (g = 4 → k.unitLen = 4 → b % 4 = 0 → exec (.copyWriteUnit n i) s = .next (put
        (State.cleanseRuns (runs := elemRuns y k.ctx 4 [b, b + 1, b + 2, b + 3]) (u.putBlock tab mode y k.ctx b
          [anyNum tab f (el 0) (sc 0), anyNum tab f (el 1) (sc 1), anyNum tab f (el 2) (sc 2), anyNum tab f (el 3) (sc 3)]))
        (some (step k.unitLen))))) ∧
    (∀ port, s.mayChunk n k = true → isWindow k.src = true → k.chan = none → s.oldAttempt k (s.window k.src) = false →
      s.upPorts (s.window k.src) = [port] → (spaceOf n k.dstVa).1 ≠ .global →
      (∃ dst, s.enginePieces n k.ctx k.dstVa k.edgeLen .wr = .ok dst) →
      let w := s.window k.src
      let unit : FabricUnit := { src := selfPackage, pkg := (w.extractLsb' 38 10).toNat, export_ := (w.extractLsb' 26 12).toNat
                                 group := (w.extractLsb' 18 8).toNat, attempt := k.attempt, off := k.srcVa % 2 ^ 32, units := 1
                                 secure := (s.info k.ctx).secure, tile := n, push := k.push, dst := k.dstVa
                                 data := List.replicate k.edgeLen 0, poison := false }
      let t := if k.paid then s else s.spend k.ctx
      exec (.edgeChunk n i) s = .next (put { t with
          outbound := s.outbound ++ [.readRequest unit]
          fabric := s.fabric ++ [{ unit := unit, port := port, owner := k.pusher, lost := false }] }
        (some { k with paid := true, engine := some (k.engine.getD (s.edgeDie k)) }))) ∧
    (∀ ch toHost, s.mayChunk n k = true → k.chan = some (ch, toHost) →
      let c := s.chan ch
      let key := (s.info k.ctx).keyId
      let tva := fun va => chBase c.ctrl + chPages c.ctrl * 65536 + (va - chBase c.ctrl) / 4096 * 32
      (c.ctrl.getLsbD 62 = true ∨ c.key ≠ k.chanKey → exec (.edgeChunk n i) s = .next (put s (some { k with stop := some Code.chanDead }))) ∧
      (∀ src dst tg, c.ctrl.getLsbD 62 = false → c.key = k.chanKey → toHost = true → s.updaters = [] →
        (∀ id ls, k.pusher = some id → s.readers (quadOf n) (s.info k.ctx).asid id ls = []) →
        (spaceOf n k.srcVa).1 ≠ .global → (spaceOf n k.dstVa).1 = .global → s.enginePieces n k.ctx k.srcVa 4096 .rd = .ok [src] →
        s.enginePieces n k.ctx k.dstVa 4096 .wr = .ok [dst] → s.enginePieces n k.ctx (tva k.dstVa) 32 .wr = .ok [tg] →
        s.poisonIn (k.unitSeen [src]) = none → s.carried k [src] k.srcVa k.dstVa 4096 = [] →
        let ctr := k.ctrs.headD 0
        let x := s.sealChunk ch true ctr k.dstVa (s.readBytes key src.key src.n)
        ∃ t : State, exec (.edgeChunk n i) s = .next t ∧
          t.mem = ((s.writeBytes key dst.key (x.data.take dst.n)).writeBytes key tg.key ((toBytes 16 x.tag.toNat ++ toBytes 4 ctr ++ [1] ++
            toBytes 11 0).take tg.n)).mem ∧
          ∃ j, (t.tile n).copyAt i = some j ∧ j.row = (k.advance 4096).row ∧ j.done = (k.advance 4096).done ∧
            j.written = k.written + 4096 ∧ j.ctrs = k.ctrs.drop 1 ∧ j.stop = k.stop) ∧
      (∀ src dst tg, c.ctrl.getLsbD 62 = false → c.key = k.chanKey → toHost = false → s.updaters = [] →
        (spaceOf n k.srcVa).1 = .global → (spaceOf n k.dstVa).1 ≠ .global → s.enginePieces n k.ctx k.srcVa 4096 .rd = .ok [src] →
        s.enginePieces n k.ctx (tva k.srcVa) 32 .rd = .ok [tg] → s.enginePieces n k.ctx k.dstVa 4096 .wr = .ok [dst] →
        s.poisonIn (k.unitSeen [src, tg]) = none →
        let y := s.readBytes 0 tg.key tg.n
        let ctr := ofBytes ((y.drop 16).take 4)
        let opened := s.openChunk { chan := ch, toHost := (y.getD 20 0).getLsbD 0, ctr := ctr, addr := k.srcVa
                                    tag := BitVec.ofNat 128 (ofBytes (y.take 16)), data := s.readBytes 0 src.key src.n }
        (opened = none → exec (.edgeChunk n i) s = .next (put (s.setDead ch) (some { k with stop := some Code.chanDead }))) ∧
        (∀ plain, opened = some plain → k.swe = false → ∃ t : State, exec (.edgeChunk n i) s = .next t ∧
          t.mem = (s.writeBytes key dst.key (plain.take dst.n)).mem ∧ (t.chan ch).hctr = max c.hctr ctr ∧
          ((t.chan ch).ctrl.getLsbD 62 = true ↔ ctr = 0xFFFFFFFF) ∧
          ∃ j, (t.tile n).copyAt i = some j ∧ j.row = (k.advance 4096).row ∧ j.done = (k.advance 4096).done ∧
            j.written = k.written + 4096))) ∧
    (∀ src port, s.mayChunk n k = true → isWindow k.dst = true → isWindow k.src = false → k.chan = none → k.rows ≤ k.row + 1 →
      k.done + k.edgeLen = k.dlen → 0 < k.edgeLen → s.updaters = [] → (spaceOf n k.srcVa).1 ≠ .global →
      s.enginePieces n k.ctx k.srcVa k.edgeLen .rd = .ok [src] → s.poisonIn (k.unitSeen [src]) = none →
      let w := s.window k.dst
      s.attemptOf k.ctx (winGroup w) ≤ k.attempt → s.upPorts w = [port] →
      let unit : FabricUnit := { src := selfPackage, pkg := (w.extractLsb' 38 10).toNat, export_ := (w.extractLsb' 26 12).toNat
                                 group := (w.extractLsb' 18 8).toNat, attempt := k.attempt, off := k.dstVa % 2 ^ 32, units := 1
                                 secure := (s.info k.ctx).secure, tile := n, push := k.push, dst := 0
                                 data := s.readBytes (s.info k.ctx).keyId src.key src.n, poison := false }
      ∃ t : State, exec (.edgeChunk n i) s = .next t ∧ t.mem = s.mem ∧ t.outbound = s.outbound ++ [.write unit] ∧
        t.posted = s.posted ++ [{ unit := unit, port := port, owner := k.pusher, lost := false }] ∧
        t.contexts = (if k.paid then s else s.spend k.ctx).contexts ∧
        (t.tile n).slots = (s.tile n).slots.set i (some (
          let j := { k with row := k.row + 1, done := 0, written := k.written + k.edgeLen }
          if (k.offset + k.edgeLen) % 4096 = 0 then ages s j
          else { j with paid := true, engine := some (k.engine.getD (s.edgeDie k)) }))) ∧
    (∀ id f code, k.started = true → k.fault = none → k.detached = false → k.takesLast = false → k.pusher = some id →
      (s.tctxOf n k.ctx).normal.fir = some f → f.serial = id.serial → (s.tctxOf n k.ctx).urgent.fir = none →
      (s.tctxOf n k.ctx).saved = [] → k.w3b.getLsbD 12 = true → k.fate = .settled →
      let tok := k.w3.extractLsb' 0 3
      let x := (s.tctxOf n k.ctx).normal
      let ends := fun (op : Instr) => ∃ t, exec op s = .next t ∧ t.mem = s.mem ∧ (t.tile n).slots = (s.tile n).slots.set i none ∧
        (t.tctxOf n k.ctx).normal = x.setToken tok { cnt := (x.token tok).cnt - 1
                                                     stat := if (x.token tok).stat = 0 then code else (x.token tok).stat } ∧
        t.net = s.net ++ [{ ts := k.ts, src := n, knd := 4, urg := k.w3b.getLsbD 13, tag := (k.w3b.extractLsb' 0 12).toNat
                            wid := k.wid, payload := [BitVec.ofNat 64 (code.toNat + tok.toNat * 2 ^ 16), BitVec.ofNat 64 k.written,
                              (k.w3b.extractLsb' 32 32).zeroExtend 64, 0, 0, 0]
                            ctx := k.ctx, dst := n, slot := k.slot }]
      (code = 0 → k.stop = none → k.rows ≤ k.row → s.peerBusy n k = false → ends (.copyComplete n i)) ∧
      (k.stop = some code → ends (.copyStop n i code.toNat)))

/-- R289 to R298: the solve instructions in tile scope. `slv.begin` opens a region; `slv.end` outside one does nothing, and in one
decides: on a pass the images become the carried tiles and the region closes, on a failure control returns to its start, and a
NaN raises SLV.NAN. The ceiling raises SLV.CEIL. A failure writes the newest pair into the ring, keeps the image and the residual,
drops the oldest pairs and writes the new iterate. R295, R296: Decide, SolveMix and UpdateElem, element by element: a norm within
THR is a pass and no other is, and the pairs dropped are the fewest that leave good pivots. R297: a cluster's round reaches the
records that are still in it. -/
def Obligations.SolveInstructions : Prop :=
  (∀ (p : Pfx) (d a : BitVec 4) (r q : BitVec 5) (s : State), s.free p →
    let v := s.tctx.solve
    let d0 := s.s p.x
    let d1 := s.s (p.x + 1)
    let wide := d1.getLsbD 5
    (wide = false ∨ s.speculative = false →
      (∀ e ta, s.beginFault (s.c d) (s.c a) d0 d1 = some (e, ta) →
        exec (.slvBegin p d a) s = .next (s.raise e (BitVec.ofNat 64 ta))) ∧
      (s.beginFault (s.c d) (s.c a) d0 d1 = none → exec (.slvBegin p d a) s = .next ((s.setSolve { v with
        desc0 := d0, desc1 := d1, tileCap := s.c d, histCap := s.c a
        start := portable s.reg.pcc.addr + p.chainBytes true, slvk := 0, fill := 0, head := 0, prev := false, contrib := false
        held := false, result := none, drops := 0, shape := false, active := true, scope := wide, rel := d1.getLsbD 4
        ntm1 := (d1.extractLsb' 0 2).toNat, depth := min (d1.extractLsb' 8 4).toNat 8
        cepoch := if wide then v.cepoch + 1 else v.cepoch, cseq := if wide then 0 else v.cseq }).past p true))) ∧
    exec (.slvHclr p) s = .next ((s.setSolve { v with fill := 0, head := 0, prev := false }).past p true) ∧
    (let sel := (s.s q).toNat % 16
     ∃ w : Word, exec (.slvQ p r q) s = .next ((s.setS r w).past p true) ∧
       (sel = 0 → w.extractLsb' 32 32 = v.cepoch ∧ w.getLsbD 31 = v.active ∧ w.getLsbD 30 = v.scope ∧ w.getLsbD 29 = v.rel ∧
         w.getLsbD 28 = v.contrib ∧ w.getLsbD 27 = v.shape ∧ w.getLsbD 26 = v.prev ∧ w.extractLsb' 24 2 = BitVec.ofNat 2 v.ntm1 ∧
         w.extractLsb' 20 4 = BitVec.ofNat 4 v.depth ∧ w.extractLsb' 16 4 = BitVec.ofNat 4 v.fill ∧
         w.extractLsb' 12 4 = BitVec.ofNat 4 v.head ∧ w.extractLsb' 8 4 = BitVec.ofNat 4 v.drops ∧ w.getLsbD 0 = v.held) ∧
       (sel = 1 → w = v.nrm.zeroExtend 64) ∧ (sel = 2 → w = v.ngm.zeroExtend 64) ∧ (sel = 3 → w = v.thr.zeroExtend 64) ∧
       (4 ≤ sel → sel < 12 → w = (v.gammas.getD (sel - 4) 0).zeroExtend 64) ∧ (12 ≤ sel → w = 0)) ∧
    (let u := s.drain
     let y := u.tctx.solve
     let b := u.invocation y
     let x := decideRound false (b.part y) [b.part y]
     (y.active = false → exec (.slvEnd p) s = .next (u.past p true)) ∧
     (y.active = true → y.tileCap.tag = true → y.histCap.tag = true →
       (y.itceil.toNat ≤ y.slvk.toNat → exec (.slvEnd p) s = .next (u.raise Code.slvCeil 0)) ∧
       (y.slvk.toNat < y.itceil.toNat → y.scope = false → u.poisonIn (u.solveSeen y) = none →
         let z : Solve := { y with nrm := x.nr, ngm := x.ng, thr := x.thr.getD y.thr, shape := if x.verdict = 3 then x.shape else y.shape }
         (x.verdict = 1 → exec (.slvEnd p) s = .next (((u.writeArea y.xs b.g).setSolve { z with active := false }).past p true)) ∧
         (x.verdict = 2 → ∃ t : State, exec (.slvEnd p) s = .next ((t.setReg (t.reg.toOffset y.start)).moved p) ∧
           t.tctx.solve.slvk = y.slvk + 1 ∧ t.tctx.solve.prev = true ∧ t.tctx.solve.fill = b.pairs.length - x.drops ∧
           t.tctx.solve.active = true ∧ t.tctx.solve.nrm = x.nr ∧ t.tctx.solve.ngm = x.ng ∧ t.tctx.solve.thr = x.thr.getD y.thr ∧
           t.tctx.solve.drops = x.drops ∧ t.tctx.solve.gammas = x.gammas ++ List.replicate (8 - x.gammas.length) 0 ∧
           (y.depth ≠ 0 → t.tctx.solve.head =
             ((if y.prev = true ∧ y.depth ≤ y.fill then (y.head + 1) % y.depth else y.head) + x.drops) % y.depth) ∧
           (let at_ := if y.fill < y.depth then (y.head + y.fill) % y.depth else y.head
            let s1 := if y.prev = false ∨ y.depth = 0 then u else
              (u.writeArea (y.slots (2 + 2 * at_)) (subArea b.g (u.readArea (y.slots 0)))).writeArea (y.slots (3 + 2 * at_))
                (subArea b.r (u.readArea (y.slots 1)))
            t.mem = (((s1.writeArea (y.slots 0) b.g).writeArea (y.slots 1) b.r).writeArea y.xs
              (b.update y.damp x.drops x.gammas)).mem)) ∧
         (x.verdict = 3 → exec (.slvEnd p) s = .next ((u.setSolve z).raise Code.slvNan 0)))))) ∧
  (∀ (lead : RoundPart), let x := decideRound false lead [lead]
    let ng := if lead.rel then fsqrt .rn lead.ng else 0
    x.nr = fsqrt .rn lead.nr ∧ x.ng = ng ∧ (x.verdict = 1 ∨ x.verdict = 2 ∨ x.verdict = 3) ∧
    (x.verdict = 3 ↔ notFinite (fsqrt .rn lead.nr) = true ∨ notFinite ng = true) ∧
    (x.verdict = 1 → ∃ thr, x.thr = some thr ∧ thr = (if lead.rel then fmul .rn lead.tol ng else lead.tol) ∧ fle x.nr thr = true)) ∧
  (∀ (cl : Bool) (lead : RoundPart) (ps : List RoundPart),
    let x := decideRound cl lead ps
    let comb := fun (g : RoundPart → Lane) => if cl then (ps.map g).foldl (fadd .rn) 0 else (ps.map g).headD 0
    let thr := if lead.rel then fmul .rn lead.tol x.ng else lead.tol
    let unequal := ∃ q, q ∈ ps ∧ ¬ (q.nt = lead.nt ∧ q.rel = lead.rel ∧ q.fill = lead.fill)
    let nan := notFinite x.nr = true ∨ notFinite x.ng = true ∨ unequal
    x.nr = fsqrt .rn (comb (fun q => q.nr)) ∧ x.ng = (if lead.rel then fsqrt .rn (comb (fun q => q.ng)) else 0) ∧
    (x.verdict = 3 ↔ nan) ∧ (nan → (x.shape = true ↔ unequal) ∧ x.thr = none) ∧
    (¬ nan → x.thr = some thr ∧ (x.verdict = 1 ↔ fle x.nr thr = true) ∧ (x.verdict = 2 ↔ fle x.nr thr = false)) ∧
    (x.verdict = 2 → (x.drops, x.gammas) = solveMix
      ((List.range lead.fill).map (fun i => (List.range lead.fill).map (fun j =>
        let y := comb (fun q => q.hs.getD (triangle lead.fill i j) 0)
        if i = j then fadd .rn y lead.lambda else y)))
      ((List.range lead.fill).map (fun i => comb (fun q => q.cs.getD i 0))))) ∧
  (∀ (h : List (List Lane)) (c : List Lane), c.length = h.length → (∀ r, r ∈ h → r.length = h.length) →
    let m := solveMix h c
    let part := fun d => (h.drop d).map (fun r => r.drop d)
    m.1 ≤ h.length ∧ (∀ d, d < m.1 → factor (part d) [] = none) ∧ (m.1 = h.length → m.2 = []) ∧
    (m.1 < h.length → ∃ rows w, factor (part m.1) [] = some rows ∧ w = forwardSolve rows (c.drop m.1) ∧ m.2 = backSolve rows w)) ∧
  (∀ (h rows : List (List Lane)), (∀ r, r ∈ h → h.length ≤ r.length) →
    let less := fun (a : Lane) (l : List (Lane × Lane)) => l.foldl (fun a q => ffma .rn true a q.1 q.2) a
    let hs := fun i j => (h.getD i []).getD j 0
    let el := fun i j => (rows.getD i []).getD j 0
    (factor h [] = some rows → rows.length = h.length ∧ ∀ i, i < h.length → (rows.getD i []).length = i + 1 ∧
      (∀ j, j < i → el i j = fdiv .rn (less (hs i j) ((List.range j).map (fun k => (el i k, el j k)))) (el j j)) ∧
      (let y := less (hs i i) ((List.range i).map (fun k => (el i k, el i k)))
       flt 0 y = true ∧ y ≠ 0x7F800000 ∧ el i i = fsqrt .rn y)) ∧
    (factor h [] = none → ∃ (i : Nat) (top : List (List Lane)) (row : List Lane), i < h.length ∧ factor (h.take i) [] = some top ∧ row.length = i ∧
      (∀ j, j < i → row.getD j 0 = fdiv .rn (less (hs i j) ((List.range j).map (fun k => (row.getD k 0, (top.getD j []).getD k 0))))
        ((top.getD j []).getD j 0)) ∧
      (let y := less (hs i i) (row.map (fun v => (v, v)))
       flt 0 y = false ∨ y = 0x7F800000)) ∧
    (∀ c : List Lane, (∀ i, i < rows.length → (rows.getD i []).length = i + 1) →
      let w := forwardSolve rows c
      let g := backSolve rows w
      w.length = rows.length ∧ g.length = rows.length ∧ ∀ i, i < rows.length →
        w.getD i 0 = fdiv .rn (less (c.getD i 0) ((List.range i).map (fun k => (el i k, w.getD k 0)))) (el i i) ∧
        g.getD i 0 = fdiv .rn (less (w.getD i 0) ((List.range (rows.length - 1 - i)).map (fun k => (el (i + 1 + k) i, g.getD (i + 1 + k) 0))))
          (el i i))) ∧
  (∀ (q : Invocation) (damp : Lane) (d nt i e : Nat) (gs : List Lane),
    (∀ z : Area, (z = q.g ∨ z = q.r ∨ ∃ y, y ∈ q.pairs ∧ (z = y.1 ∨ z = y.2)) → z.length = nt ∧ ∀ l, l ∈ z → l.length = 1024) →
    i < nt → e < 1024 →
    let el := fun (z : Area) => (z.getD i []).getD e 0
    let used := (q.pairs.drop d).zip gs
    let y := used.foldl (fun y x => ffma .rn true y (el x.1.1) x.2) (el q.g)
    el (q.update damp d gs) = if damp = 0 ∨ damp = 0x80000000 then y
      else ffma .rn true y damp (used.foldl (fun w x => ffma .rn true w (el x.1.2) x.2) (el q.r))) ∧
  (∀ (s : State) (k ctx : Nat) (r : SolveRound) (lead : RoundPart),
    (s.cluster k).rounds = [r] → r.ctx = ctx → 8 ≤ r.parts.length → (∀ q, q ∈ r.parts → q.2 = lead) →
    let x := decideRound true lead (r.parts.map (fun q => q.2))
    ∃ t, exec (.clusterRound k ctx) s = .next t ∧ t.mem = s.mem ∧ (t.cluster k).rounds = [] ∧
      ∀ j y z, r.parts = List.map (fun i => (i, lead)) (List.range 8) → j < 8 → z = (s.tctxOf (clusterTile k j) ctx).solve →
        y = (t.tctxOf (clusterTile k j) ctx).solve →
        (z.inRound r = true → y.held = true ∧ y.nrm = x.nr ∧ y.ngm = x.ng ∧ y.result = some (x.verdict, x.drops, x.gammas)) ∧
        (z.inRound r = false → y = z))

/-! ## Page 9 -/

/-- R270 to R273, R66, R242: reading and writing system registers. Every `rsr` completes, and so does every `wsr` that its
privilege allows, but a write of a bank format waits while a queued matrix command reaches that bank. Each register's value,
the fields a write takes, the registers that only the keeper writes and those that no write changes. -/
def Obligations.SystemRegisters : Prop :=
  ∀ (p : Pfx) (d i : BitVec 5) (s : State), s.free p →
    let num := (p.immI i).toNat
    let n := s.cur.tile
    let t := s.tile n
    let x := s.tctx
    let v := x.solve
    let w := s.s d
    let reads := fun (k : Nat) (y : Word) => num = k → exec (.rsr p d i) s = .next ((s.setS d y).past p true)
    let writes := fun (k : Nat) (u : State) => num = k → exec (.wsr p d i) s = .next (u.past p true)
    let keeps := fun (k : Nat) (u : State) => num = k → exec (.wsr p d i) s =
      .next (if s.priv = .keeper then u.past p true else s.raise Code.kprPriv 0)
    let keeperOnly := num = 5 ∨ num = 11 ∨ num = 12 ∨ num = 15 ∨ num = 27 ∨ num = 28
    (∃ y : Word, exec (.rsr p d i) s = .next ((s.setS d y).past p true)) ∧
    ((keeperOnly → s.priv = .keeper) → s.fmtBusy num = false → ∃ u : State, exec (.wsr p d i) s = .next (u.past p true)) ∧
    (s.fmtBusy num = true → exec (.wsr p d i) s = .next s.held) ∧
    (∃ y : Word, y.getLsbD 15 = (s.cur.set == .urgent) ∧ (y.extractLsb' 13 2).toNat = privLevel s.priv ∧
      y.getLsbD 12 = (s.info s.ctxn).secure ∧ y.extractLsb' 0 12 = BitVec.ofNat 12 s.ctxn ∧ reads 0 y) ∧
    reads 1 (BitVec.ofNat 64 n) ∧
    (∀ f, s.fir = some f → reads 2 (BitVec.ofNat 64 f.ts) ∧ reads 3 f.wid) ∧
    reads 4 (BitVec.ofNat 64 t.horizon) ∧ reads 5 (t.accown.zeroExtend 64) ∧ reads 6 (v.tol.zeroExtend 64) ∧
    reads 7 (v.itceil.zeroExtend 64) ∧ reads 8 (v.slvk.zeroExtend 64) ∧ reads 9 (v.damp.zeroExtend 64) ∧
    reads 10 (v.lambda.zeroExtend 64) ∧ reads 11 ((s.reg.rcnt.done ++ s.reg.rcnt.remain).zeroExtend 64) ∧
    reads 12 (s.reg.fcode.zeroExtend 64) ∧ reads 13 s.reg.fmask ∧ reads 14 (BitVec.ofNat 64 s.clk) ∧ reads 15 t.torcfg ∧
    (∀ k, (h : k < 8) → reads (16 + k) ((x.bankfmt[k]).zeroExtend 64)) ∧
    reads 24 (BitVec.ofNat 64 (s.reg.epcc.addr % 2 ^ 28)) ∧
    reads 25 (BitVec.ofNat 64 ((if x.dbg then 4 else 0) + (if x.prq then 2 else 0) + (if s.reg.inTrap then 1 else 0))) ∧
    reads 26 s.reg.taddr ∧
    (t.loaded = some s.ctxn → reads 27 (BitVec.ofNat 64 (x.kbudget - (s.clk - x.kstamp)))) ∧
    reads 28 (BitVec.ofNat 64 x.kgrace) ∧
    keeps 5 (s.setTile n { t with accown := w.extractLsb' 0 16 &&& 0x8FFF }) ∧
    writes 6 (s.setSolve { v with tol := w.extractLsb' 0 32 }) ∧
    writes 7 (s.setSolve { v with itceil := w.extractLsb' 0 32 }) ∧
    writes 9 (s.setSolve { v with damp := w.extractLsb' 0 32 }) ∧
    writes 10 (s.setSolve { v with lambda := w.extractLsb' 0 32 }) ∧
    keeps 11 (s.setReg { s.reg with rcnt := { done := w.extractLsb' 16 16, remain := w.extractLsb' 0 16 } }) ∧
    keeps 12 (s.setReg { s.reg with fcode := w.extractLsb' 0 16 }) ∧
    keeps 15 (s.setTile n { t with torcfg := w &&& 0x0000FFFFFF0C00FF }) ∧
    (∀ k, (h : k < 8) → s.fmtBusy (16 + k) = false → writes (16 + k) (s.setTctx { x with bankfmt := x.bankfmt.set k (w.extractLsb' 0 8 &&& 7) })) ∧
    keeps 27 (s.setTctx { x with kbudget := (w.extractLsb' 0 32).toNat, kstamp := s.clk }) ∧
    keeps 28 (s.setTctx { x with kgrace := (w.extractLsb' 0 20).toNat }) ∧
    (num < 5 ∨ num = 8 ∨ num = 13 ∨ num = 14 ∨ (24 ≤ num ∧ num ≤ 26) → exec (.wsr p d i) s = .next (s.past p true))

/-- R276, R277: the keeper calls: each first waits for the outstanding results and wakes Halo; what each returns in s8 and s9, and what it
changes; an unassigned call raises KPR.CALL. -/
def Obligations.KeeperCalls : Prop :=
  ∀ (p : Pfx) (i : BitVec 5) (s : State), s.free p → s.partner s.cur.tile = none →
    let u := s.drain.wake s.cur.tile
    let n := u.cur.tile
    let x := u.tctx
    let gives := fun (op : Instr) (t : State) => exec op s = .next (t.past p true)
    let asked := if x.prq then u else u.setTctx { x with prq := true, prqAt := u.clk }
    gives (.kcallSliceEnd p i) (asked.setS 8 0) ∧
    ((u.tile n).loaded = some u.ctxn →
      gives (.kcallBudget p i) ((u.setS 8 (BitVec.ofNat 64 (x.kbudget - (u.clk - x.kstamp)))).setS 9 (BitVec.ofNat 64 x.kgrace))) ∧
    gives (.kcallStops p i) (((u.setTctx { x with stops := x.stops.drop 1, stopsLost := false }).setS 8
      (BitVec.ofNat 64 ((if x.stopsLost then 2 ^ 63 else 0) + x.stops.length))).setS 9
        (match x.stops with | r :: _ => BitVec.ofNat 64 (r.tok % 8 * 2 ^ 16 + r.code.toNat) | [] => 0)) ∧
    gives (.kcallUnbound p i) (u.setS 8 (BitVec.ofNat 64 x.unbound.length)) ∧
    (let c := u.c 8
     let data := (u.info u.ctxn).data
     let fails := fun code => exec (.kcallRevoke p i) s = .next (u.raise code (BitVec.ofNat 64 c.base))
     (c.tag = false → fails Code.capTag) ∧ (c.tag = true → c.otype ≠ 0 → fails Code.capSeal) ∧
     (c.tag = true → c.otype = 0 → c.perms.getLsbD 1 = false → fails Code.capPerm) ∧
     (c.tag = true → c.otype = 0 → c.perms.getLsbD 1 = true → c.base ≤ c.top → c.base < data.base ∨ data.top < c.top →
       fails Code.capBound) ∧
     (∀ gs y, c.tag = true → c.otype = 0 → c.perms.getLsbD 1 = true → data.base ≤ c.base → c.top ≤ data.top → c.base ≤ c.top →
       c.top ≤ 2 ^ 48 → u.paintLook (u.info u.ctxn) c = .ok gs → Map.get? u.contexts u.ctxn = some y → u.sweeps = [] →
       let epoch := if u.lastEpoch = 0xFFFFFFFF then 1 else u.lastEpoch + 1
       ∃ t : State, gives (.kcallRevoke p i) (t.setS 8 (BitVec.ofNat 64 epoch)) ∧ t.lastEpoch = epoch ∧ t.mem = u.mem ∧ t.tiles = u.tiles ∧
         (∀ g, g ∈ t.painted ↔ g ∈ u.painted ∨ g ∈ gs) ∧
         ∃ w : Sweep, t.sweeps = [w] ∧ w.epoch = epoch ∧ w.ctx = u.ctxn)) ∧
    (let e := (u.s 9).toNat % 2 ^ 32
     let answers := fun (w : Word) => gives (.kcallSweepQuery p i) (u.setS 8 w)
     (e = 0 ∨ (u.epochWrap = false ∧ u.lastEpoch < e) → answers 2) ∧
     (e ≠ 0 → e ≤ u.lastEpoch → u.lastEpoch < e + 2 ^ 31 → u.lastEpoch < 2 ^ 32 →
       answers (if ∃ w, w ∈ u.sweeps ∧ w.epoch = e then 0 else 1))) ∧
    exec (.kcallOther p i) s = .next (u.raise Code.kprCall 0)

/-- R281, R284 to R287: what Halo does with a tile: saving and loading a context, saving and loading acc, pairing, idling. Below
keeper privilege each raises KPR.PRIV.
How long `pair.on` waits inside its 400 clk, and its answer 2 where this tile is itself in another pair, are the model's choices
(log 63). So is that a load takes the tile's own copy of the context and not the bytes of its save area (log 75), and how the error
marks of acc are kept, which mtxSeen and mtxFresh read and clear (log 86). -/
def Obligations.KeeperInstructions : Prop :=
  ∀ (p : Pfx) (d a : BitVec 5) (ca : BitVec 4) (s : State),
    let n := s.cur.tile
    let t := s.tile n
    let c := s.c ca
    let q := (s.s a).toNat
    (s.free p → s.priv ≠ .keeper → ∀ i, i = .ctxSv p ca ∨ i = .ctxLd p ca a ∨ i = .accSv p ca ∨ i = .accLd p ca ∨ i = .idle p ∨
      i = .pairOn p d a ∨ i = .pairOff p d → exec i s = .next (s.raise Code.kprPriv 0)) ∧
    (s.freeAt p .keeper →
      let gives := fun (i : Instr) (u : State) => exec i s = .next (u.past p true)
      gives (.idle p) (s.setTile n { t with idle := true }) ∧
      gives (.pairOff p d) (match t.pair with
        | none => s.setS d 1
        | some m =>
          let u := s.setTile n { t with pair := none, mirror := [] }
          (u.setTile m { u.tile m with pair := none, mirror := [] }).setS d 0) ∧
      (let answers := fun (w : Word) => gives (.pairOn p d a) ((s.setTile n { t with pairWait := none }).setS d w)
       let answered := t.pair = some q ∧ ∃ at_, t.pairWait = some (q, at_)
       (adjacent n q = false → answers 1) ∧ (adjacent n q = true → answered → answers 0) ∧
       (adjacent n q = true → ¬ answered → t.pair ≠ none ∨ s.tileExists q = false ∨ (s.tile q).pair ≠ none → answers 2) ∧
       (∀ at_, adjacent n q = true → t.pair = none → s.tileExists q = true → (s.tile q).pair = none → (s.tile q).pairWait = none →
         t.pairWait = some (q, at_) → at_ + 400 < s.clk → answers 2)) ∧
      (adjacent n q = true → n ≠ q → s.tileExists q = true → (s.tile q).pair = none → t.pair = none → t.pairWait = none →
        (∀ at_, (s.tile q).pairWait = some (n, at_) → s.clk ≤ at_ + 400 → ∃ u : State, gives (.pairOn p d a) (u.setS d 0) ∧
          (u.tile n).pair = some q ∧ (u.tile q).pair = some n ∧ (u.tile n).fprint = 0 ∧ (u.tile q).fprint = 0 ∧ u.mem = s.mem) ∧
        ((s.tile q).pairWait = none → exec (.pairOn p d a) s =
          .next (s.setTile n { t with pair := none, pairWait := some (q, s.clk) }).held)) ∧
      (s.cur.set = .keeper →
        (∀ x, t.loaded = some x → c.checkAccess c.addr 0x74000 2 = none → c.addr = (s.tctxOf n x).saveAddr → s.painted = [] →
          s.chunkOpen n x = false →
          ∃ u v : State, gives (.ctxSv p ca) u ∧ u = v.writeSaveArea n x ∧ v.mem = s.mem ∧ (u.tile n).loaded = none ∧ (u.tile n).accown = t.accown ∧
            (∀ o, o ∈ (u.tile n).slots → ∀ k, o = some k → k.ctx ≠ x) ∧ (u.tile n).slots.length = t.slots.length ∧
            (u.tctxOf n x).saved = (s.tctxOf n x).saved ∧ (u.tctxOf n x).prq = false ∧
            (u.tctxOf n x).normal.fir = (s.tctxOf n x).normal.fir ∧ (u.tctxOf n x).normal.pending = [] ∧
            (u.tctxOf n x).kbudget = (s.tctxOf n x).kbudget - (s.clk - (s.tctxOf n x).kstamp)) ∧
        (let x := q % 4096
         c.checkAccess c.addr 0x74000 1 = none → s.resident n x = true → c.addr = (s.tctxOf n x).saveAddr → s.painted = [] →
           (s.tctxOf n x).normal.pageWait = none → (s.tctxOf n x).urgent.pageWait = none → (s.tctxOf n x).copies = [] →
           ∃ u : State, gives (.ctxLd p ca a) u ∧ u.mem = s.mem ∧ (u.tile n).loaded = some x ∧ (u.tile n).lastLoad = x ∧
             (u.tile n).slots = t.slots ∧ (u.tctxOf n x).normal = (s.tctxOf n x).normal ∧
             (u.tctxOf n x).urgent = (s.tctxOf n x).urgent ∧ (u.tctxOf n x).kstamp = s.clk)) ∧
      (∀ x, s.areaOwner n c.addr = some x → t.matrix.queue = [] ∨ t.matrix.stopped = true →
        let y := s.tctxOf n x
        (c.checkAccess c.addr 0x74000 2 = none → s.poisonIn (mtxSeen n x 2 0 1024) = none →
          gives (.accSv p ca) ((s.setTctxOf n x { y with matrix := { y.matrix with
            acc := t.matrix.acc, aclsInt := t.matrix.aclsInt, empty := t.matrix.empty } }).writeAccArea n x t.matrix)) ∧
        (c.checkAccess c.addr 0x74000 1 = none → gives (.accLd p ca) ((s.mtxFresh n x 2 0 1024).setTile n { t with
          matrix := { t.matrix with acc := y.matrix.acc, aclsInt := y.matrix.aclsInt, empty := y.matrix.empty } }))))

/-- R312 to R321: the capsule instructions. `csl.inst` in a pinned firing reads an object and answers a capsule capability for it or
an untagged report; `csl.bind` empties the bindings that it meets and writes the handlers of a capsule into the context's table on
every tile of the context, sets TVEC where the block says so, and writes the placement slots with their tags; `csl.rbld` makes a
void body whole: the chain that asks first starts the rebuild and completes with it (log 73), and another waits; a rebuild whose
chain waits no more ends by itself; `csl.q` reads what a selector names. Each first checks the capsule capability.
Room for a body is a free value (log 9), and so is the capsule number (log 25); the spaces an object is read from (log 30), TADDR of
some faults (log 29) and that a binding is one act with no lock held past it (log 69) are the model's. -/
def Obligations.CapsuleInstructions : Prop :=
  (∀ (s : State) (n : Nat) (k : Capsule) (u : Unit_), Map.get? s.capsules n = some k → k.rebuild = some u →
    execRebuildEnd n s = .next (if (s.regOf u.tile u.set).waiting = true ∧ (s.regOf u.tile u.set).asked = some n then s else
      { s with capsules := Map.set s.capsules n { k with void := false, rebuild := none, gen := generation, meas := s.instMeas } })) ∧
  (∀ (base i : Nat) (h : HandlerDecl), i < 4 → i < ctrlNport h.ctrl → ctrlNport h.ctrl ≤ 4 →
    portTag (boundPorts base h) i = (base + portTag h.port i) % 4096 ∧ portCnt (boundPorts base h) i = portCnt h.port i) ∧
  ∀ (p : Pfx) (d a : BitVec 4) (r : BitVec 5) (s : State), s.free p →
    (∀ f sp head, s.fir = some f → f.pinned = true →
      let c := s.c a
      c.checkAccess c.addr 64 1 = none → c.addr % 16 = 0 → holdsObjects s.cur.tile (spaceOf s.cur.tile c.addr).1 = true →
      s.checkSpace (objectAccess c c.addr 64) none = .ok sp →
      let t := s.reach p sp.globals
      t.readsClean sp 64 → head = t.readSpot sp 64 →
      (∀ e, checkHeader (headerOf head) (c.top - c.addr) = .error e →
        e.cap.tag = false ∧ exec (.cslInst p d a) s = .next ((t.pend (.c d e.cap)).past p true)) ∧
      (∀ sp2 y, checkHeader (headerOf head) (c.top - c.addr) = .ok y →
        let rest := (headerOf head).total - 64
        t.checkSpace (objectAccess c (c.addr + 64) rest) none = .ok sp2 →
        let u := t.reach p sp2.globals
        let o := objectOf (head ++ u.readSpot sp2 rest)
        u.readsClean sp2 rest →
        (∀ e, verifyObject o = .error e → exec (.cslInst p d a) s = .next ((u.pend (.c d e.cap)).past p true)) ∧
        (∀ bs, verifyObject o = .ok bs → freeNumber u.capsules (u.fresh % 4096) = none ∨ Config.bodyRoom u.tick = false →
          ∃ x : Cap, x.tag = false ∧ exec (.cslInst p d a) s = .next ((u.pend (.c d x)).past p true)) ∧
        (∀ bs n, verifyObject o = .ok bs → freeNumber u.capsules (u.fresh % 4096) = some n → Config.bodyRoom u.tick = true →
          ∃ k : Capsule, ∃ x : Cap, k.ctx = u.ctxn ∧ k.sections = bs.map (fun b => { code := b.code }) ∧ k.void = false ∧ k.meas = u.instMeas ∧
            x.otype = 1 ∧ capsuleNumber x = n ∧
            exec (.cslInst p d a) s = .next ((({ u with capsules := Map.set u.capsules n k } : State).pend (.c d x)).past p true)))) ∧
    (let fails := fun (x : Cap) (i : Instr) => (x.tag = false → exec i s = .next (s.raise Code.capTag 0)) ∧
       (x.tag = true → x.otype = 0 → exec i s = .next (s.raise Code.capSeal 0)) ∧
       (x.tag = true → x.otype ≠ 0 → x.otype ≠ 1 → exec i s = .next (s.raise Code.capType 0))
     fails (s.c a) (.cslRbld p r a) ∧ fails (s.c a) (.cslQ p r a) ∧
     (∀ f, s.fir = some f → f.pinned = true → fails (s.c d) (.cslBind p d a))) ∧
    (let x := s.c a
     let n := capsuleNumber x
     x.tag = true → x.otype = 1 →
     (Map.get? s.capsules n = none → exec (.cslRbld p r a) s = .next ((s.setS r 1).past p true) ∧
       exec (.cslQ p r a) s = .next ((s.pend (.s r 0)).past p true)) ∧
     ∀ k, Map.get? s.capsules n = some k →
       let rebuilt : State := { s with
         capsules := Map.set s.capsules n { k with void := false, rebuild := none, gen := generation, meas := s.instMeas } }
       (k.rebuild = some s.cur → s.reg.asked = some n →
         exec (.cslRbld p r a) s = .next (((rebuilt.setReg { s.reg with asked := none }).setS r 0).past p true)) ∧
       (∀ u, k.rebuild = some u → ¬ (u = s.cur ∧ s.reg.asked = some n) → exec (.cslRbld p r a) s = .next s.held) ∧
       (k.rebuild = none → k.void = false → exec (.cslRbld p r a) s = .next ((s.setS r 1).past p true)) ∧
       (k.rebuild = none → k.void = true → exec (.cslRbld p r a) s = .next (if Config.bodyRoom s.tick
         then State.held { s.setReg { s.reg with asked := some n } with capsules := Map.set s.capsules n { k with rebuild := some s.cur } }
         else (s.setS r 0x0601).past p true)) ∧
       (let sel := (s.s r).toNat % 16
        let binds := s.binds.filter (fun b => b.ctx == s.ctxn && b.capsule == n)
        ∃ w : Word, exec (.cslQ p r a) s = .next ((s.pend (.s r w)).past p true) ∧
          (sel = 0 → w.getLsbD 63 = k.void ∧ w.getLsbD 62 = k.rebuild.isSome ∧ w.getLsbD 61 = !binds.isEmpty ∧ w.getLsbD 60 = k.trap.isSome ∧
            w.extractLsb' 48 8 = BitVec.ofNat 8 k.gen ∧ w.extractLsb' 32 8 = BitVec.ofNat 8 k.handlers.length ∧
            w.extractLsb' 24 8 = BitVec.ofNat 8 k.gots.length ∧ w.extractLsb' 20 4 = BitVec.ofNat 4 k.params.length ∧
            w.extractLsb' 0 12 = BitVec.ofNat 12 n) ∧
          (sel = 1 → w = k.meas.extractLsb' 0 64) ∧ (sel = 2 → w = s.instMeas.extractLsb' 0 64) ∧
          (sel = 3 → w = BitVec.ofNat 64 k.image.length) ∧ (sel = 4 → w = BitVec.ofNat 64 k.place) ∧
          (sel = 5 → w = (digestOf k.image).extractLsb' 0 64) ∧
          (sel = 6 → binds = [] → w = BitVec.allOnes 64) ∧ (sel = 6 → ∀ b, binds.getLast? = some b → w = BitVec.ofNat 64 b.tagbase) ∧
          (7 ≤ sel → w = 0))) ∧
    (∀ f k sp q, s.fir = some f → f.pinned = true →
      let x := s.c d
      let n := capsuleNumber x
      let c := s.c a
      let len := 16 * (1 + k.params.length)
      x.tag = true → x.otype = 1 → Map.get? s.capsules n = some k → k.ctx = s.ctxn → c.checkAccess c.addr len 9 = none →
      c.addr % 16 = 0 → (spaceOf s.cur.tile c.addr).1.scratchTile = some s.cur.tile →
      s.checkSpace (objectAccess c c.addr len) none = .ok sp → sp.pieces = [q] →
      let t := s.reach p sp.globals
      t.readsClean sp len →
      let bs := t.readSpot sp len
      let params := (List.range k.params.length).map (fun i => t.granule (q.key + 16 * (i + 1)) ((bs.drop (16 * (i + 1))).take 16))
      (∀ e i, firstSlot 0 (params.zip k.params) = some (e, i) →
        exec (.cslBind p d a) s = .next (t.raise e (BitVec.ofNat 64 (c.addr + 16 * (i + 1))))) ∧
      (firstSlot 0 (params.zip k.params) = none →
        let base := ofBytes (bs.take 4) % 4096
        let u := t.bind k n t.ctxn base ((ofBytes (bs.take 4)).testBit 16) params
        let tags := k.handlers.map (fun h => (base + h.tag) % 4096)
        let meets := fun (b : Binding) => b.ctx = t.ctxn ∧ ∃ g, g ∈ b.tags ∧ g ∈ tags
        let made : Binding := { ctx := t.ctxn, capsule := n, tagbase := base, tags := tags, params := params }
        exec (.cslBind p d a) s = .next (u.past p true) ∧ (∀ b, b ∈ u.binds ↔ b = made ∨ (b ∈ t.binds ∧ ¬ meets b)) ∧
        (∀ z, Map.get? t.contexts t.ctxn = some z →
          (∃ y, Map.get? u.contexts t.ctxn = some y ∧ y.tvec = if (ofBytes (bs.take 4)).testBit 16 = false then z.tvec else
            match k.trap with | some (sect, off) => k.codeCap n sect off 2 | none => Cap.null) ∧
          (∀ m h, m ∈ t.homesOf t.ctxn → h ∈ k.handlers → tags.Nodup →
            let e := (u.tctxOf m t.ctxn).entry ((base + h.tag) % 4096)
            e.image = { cap := k.codeCap n h.sect h.off 2, port := boundPorts base h, ctrl := h.ctrl } ∧
              e.lock = false ∧ e.en = h.ctrl.getLsbD 0) ∧
          (∀ m b g, m ∈ t.homesOf t.ctxn → b ∈ t.binds → meets b → g ∈ b.tags → g ∉ tags →
            ((u.tctxOf m t.ctxn).entry g).image = EntryImage.empty)) ∧
        (∀ m j v, m ∈ t.homesOf t.ctxn → m < 4096 → t.ctxn < 4096 → t.memWf → t.tags.Pairwise (· < ·) → k.place % 16 = 0 →
          k.place + 16 * (k.gots.length + k.params.length) ≤ 2 ^ 18 →
          (k.gots.map (t.gotValue k n m t.ctxn) ++ params.map (fun r => r.withOtype 0))[j]? = some v →
          let key := keyScratch t.ctxn m (k.place + 16 * j)
          let y := t.filterCap t.ctxn v
          u.readBytes (t.info t.ctxn).keyId key 16 = toBytes 16 y.bits.toNat ∧ u.tagAt key = y.tag)))

/-! ## Events of tiles, memory and time -/

/-- R50, R71, R115, R133, R279, R329, R338, R339, R357: what comes about by itself as time passes: results return, refresh windows
open and close, sweeps end, budgets and graces run out, slices turn, leases and epochs pass, frames leave quarantine. R112: a
capability that returns passes the filter as the bitmap then stands. R329, R339: a lease that ends writes back what is held under
it, and an epoch is over when no lease of its walks stands.
When a result returns (log 17), that a table which returns overtakes the older ones of its context (log 21), what Halo gives a slice
(log 22), that the overruns are counted for a context and a tile (log 23), when Squall filters (log 31) and when a refill period
begins (log 60) are the model's. -/
def Obligations.ReturnsAndTimers : Prop :=
  (∀ (s : State) (n : Nat) (k : SetId) (q : Pending) (rest : List Pending), (s.regOf n k).pending = q :: rest →
    let r := s.regOf n k
    ((∀ b, b ∈ q.banks → ¬ (4200 * (b % 16) ≤ s.refreshTime (b / 64) ∧ s.refreshTime (b / 64) < 4200 * (b % 16) + 2100)) →
      q.res.isTable = false →
      let c := ({ s with cur := { tile := n, set := k } } : State).ctxn
      let res := match q.res with | .c i x => Result.c i (s.filterCap c x) | y => y
      ∃ t, exec (.outstandingResultReturn n k) s = .next t ∧ t.mem = s.mem ∧ t.cur = s.cur ∧
        t.regOf n k = { r.apply res with pending := rest, parked := r.parked && !rest.isEmpty }) ∧
    (∀ tab c, q.res = .table tab → q.banks = [] → k ≠ .keeper → (s.tile n).loaded = some c →
      let left := rest.filter (fun o => !(o.res.isTable && decide (o.stamp < q.stamp)))
      ∃ t, exec (.t8TableEffect n k) s = .next t ∧ t.mem = s.mem ∧ t.cur = s.cur ∧ (t.tctxOf n c).table = tab ∧
        t.regOf n k = { r with pending := left, parked := r.parked && !left.isEmpty })) ∧
  (∀ (s : State) (bank : Nat), s.refreshing.Pairwise (· < ·) →
    let now := s.refreshTime (bank / 64)
    let opened := 4200 * (bank % 16) ≤ now ∧ now < 4200 * (bank % 16) + 2100
    ∃ l m : List Nat, exec (.refreshStart bank) s = .next { s with refreshing := l } ∧
      exec (.refreshEnd bank) s = .next { s with refreshing := m } ∧
      (∀ b, b ∈ l ↔ b ∈ s.refreshing ∨ (b = bank ∧ opened)) ∧ (∀ b, b ∈ m ↔ b ∈ s.refreshing ∧ (b = bank → opened))) ∧
  (∀ (s : State) (w : Sweep), s.sweeps.find? (fun v => v.epoch == w.epoch) = some w → s.sweepDone w = true →
    (Map.get? s.contexts w.ctx).isSome = true →
    let areas := (s.homesOf w.ctx).map (fun n => ((s.tctxOf n w.ctx).saveAddr, 0x74000, true))
    ∃ t, exec (.sweepComplete w.epoch) s = .next t ∧ t.mem = s.mem ∧ t.sweeps = s.sweeps.filter (fun v => v.epoch != w.epoch) ∧
      ∀ g, g ∈ t.tags ↔ g ∈ s.tags ∧
        (inSweep (s.info w.ctx) (s.hbmPages (s.info w.ctx) ++ areas) g = true → s.granuleKept w.ctx g = true)) ∧
  (∀ (s : State) (n c : Nat), (s.tile n).loaded = some c →
    let x := s.tctxOf n c
    (x.prq = false → x.kbudget ≤ s.clk - x.kstamp → exec (.budgetExpiry n) s =
      .next ((s.setTctxOf n c { x with prq := true, prqAt := s.clk }).wake n)) ∧
    (∀ o, let u := s.setTctxOf n c { x with overruns := x.overruns + 1 }
      x.prq = true → x.running = true → x.prqAt + x.kgrace ≤ s.clk → s.mayLeave n = true → u.nextContext n = some o →
      ∃ t, exec (.graceExpiry n) s = .next t ∧ (t.tctxOf n c).overruns = x.overruns + 1 ∧ (t.tile n).loaded = some o ∧
        (t.tctxOf n o).prq = false) ∧
    (∀ o, s.sliceOver n = true → s.mayLeave n = true → s.nextContext n = some o → ∃ t, exec (.sliceEnd n) s = .next t ∧ (t.tile n).loaded = some o ∧
      (t.tctxOf n o).prq = false ∧ (t.tctxOf n o).kstamp = s.clk)) ∧
  (∀ (s : State) (i : Nat) (l : Lease), s.leases[i]? = some l → l.ends ≤ s.clk →
    let lo := peFrame l.entry * 65536
    let held := fun (u : Nat × Nat × Nat × Word) => lo ≤ u.1 ∧ u.1 < lo + (if l.block then 2 ^ 29 else 65536)
    (s.updaters = [] → exec (.leaseExpiry i) s = .next { s with leases := s.leases.eraseIdx i }) ∧
    ∃ t : State, exec (.leaseExpiry i) s = .next t ∧ t.leases = s.leases.eraseIdx i ∧
      ∀ n u, u ∈ (t.tile n).updates ↔ u ∈ (s.tile n).updates ∧ ¬ held u) ∧
  (∀ s : State, (s.qnow < s.clk / 2048 → exec .qnowAdvance s = .next { s with qnow := s.qnow + 1 }) ∧
    (s.qdone + 1 < s.qnow → (∀ l, l ∈ s.leases → s.qdone + 1 < (l.ends - 8400) / 2048) →
      exec .qdoneAdvance s = .next { s with qdone := s.qdone + 1 }) ∧
    (∀ l, l ∈ s.leases → (l.ends - 8400) / 2048 ≤ s.qdone + 1 → exec .qdoneAdvance s = .next s)) ∧
  (∀ (s : State) (c : Nat) (x : Context), Map.get? s.contexts c = some x → x.period < s.clk / 21000 →
    exec (.budgetRefill c) s = .next { s with contexts := Map.set s.contexts c { x with
      left := (x.edgebud.extractLsb' 0 24).toNat, period := s.clk / 21000 } }) ∧
  (∀ (s : State) (p i : Nat) (q : QItem),
    (s.mayQueue p q = true → exec (.quarantineEnqueue p q) s =
      .next (s.setPart p { s.part p with quar := (s.part p).quar ++ [{ q with free := s.qnow }] })) ∧
    (s.mayQueue p q = true → (s.part p).quar.length < 1024 ∧
      (∀ m, q.capsule = some m → ∃ k, Map.get? s.capsules m = some k ∧ k.released = true) ∧
      (q.capsule = none → q.narrowed + 8400 ≤ s.clk ∧
        (∀ r, r ∈ s.narrowed → q.frame < r.1 + r.2.1 → r.1 < q.frame + q.count → 0 < r.2.1 → r.2.2 + 8400 ≤ s.clk))) ∧
    ((s.part p).quar[i]? = some q → s.sweepState q.sweep = 1 → q.free ≤ s.qdone →
      ∃ t, exec (.quarantineRelease p i) s = .next t ∧ t.mem = s.mem ∧ (t.part p).quar = (s.part p).quar.eraseIdx i ∧
        (q.capsule = none → t.capsules = s.capsules ∧ ∀ g, g ∈ t.painted ↔ g ∈ s.painted ∧
          ¬ (q.frame * 65536 ≤ g ∧ g < q.frame * 65536 + q.count * 65536)) ∧
        (∀ m, q.capsule = some m → t.capsules = Map.drop s.capsules m ∧ ∀ g, g ∈ t.painted ↔ g ∈ s.painted ∧ g ≠ keyAnchor m)))

/-- R158 to R164, R171, R331: messages reach their queues in order or wait, or are held for a context that is not resident; an entry
is locked and then rewritten, tile by tile; and ready entries, deque tasks and owed reruns become firings with the registers
of R27. When an owed rerun became ready is the model's reading (log 38); that a rewrite locks the entry on every tile at once and is
then written tile by tile, with EN and PEND the image's (log 69), and that a rerun has the contents its aborted firing had, whatever
its entry has become (log 97), are the model's choices. -/
def Obligations.MessagesMakeFirings : Prop :=
  (∀ (s : State) (i : Nat) (m : Msg), s.net[i]? = some m →
    (∀ q, q ∈ s.net.take i → q.knd ≠ 6 → ¬ (q.src = m.src ∧ q.dst = m.dst ∧ q.urg = m.urg)) →
    let n := m.dst
    let c := m.ctx
    let t := s.tile n
    let x := s.tctxOf n c
    let e := x.entry m.tag
    let v : State := { s with net := s.net.eraseIdx i }
    let u := if s.resident n c then v.wake n else v
    let bound := (e.image.ctrl.extractLsb' 16 2).toNat ≠ 0 ∧ e.image.ctrl.getLsbD 15 = m.urg
    let behind := ∃ q, q ∈ t.ingress ∧ q.ctx = c ∧ q.urg = m.urg ∧ q.dst = n
    let arrives := fun (op : Instr) =>
      (behind → exec op s = .next (u.setTile n { u.tile n with ingress := t.ingress ++ [m] })) ∧
      (¬ behind → s.resident n c = false → exec op s = .next (u.setTile n { u.tile n with away := t.away ++ [m] })) ∧
      (s.resident n c = true → t.ingress = [] → x.unbound = [] → e.lock = false → x.hasRoom n c = true →
        (bound → x.heldFor m.tag + e.queue.length < (e.image.ctrl.extractLsb' 18 6).toNat + 1 → exec op s =
          .next ((u.setTctxOf n c (x.setEntry m.tag { e with queue := e.queue ++ [m] })).rankReady n c)) ∧
        (¬ bound → exec op s = .next (u.setTctxOf n c { x with unbound := [m] })))
    (m.knd ≠ 6 → arrives (.messageArrival i)) ∧ (m.knd = 4 → arrives (.completionMessage i))) ∧
  (∀ (s : State) (n c : Nat) (m : Msg), m.dst = n → m.ctx = c → s.resident n c = true →
    let t := s.tile n
    let x := s.tctxOf n c
    let e := x.entry m.tag
    (e.image.ctrl.extractLsb' 16 2).toNat ≠ 0 → e.image.ctrl.getLsbD 15 = m.urg → e.lock = false →
    x.heldFor m.tag + e.queue.length < (e.image.ctrl.extractLsb' 18 6).toNat + 1 →
    (t.ingress = [m] → x.unbound = [] → x.hasRoom n c = true → exec (.queueAdmit n 0) s =
      .next (((s.setTile n { t with ingress := [] }).setTctxOf n c (x.setEntry m.tag { e with queue := e.queue ++ [m] })).rankReady n c)) ∧
    (x.unbound = [m] → exec (.unboundDelivery n c m.tag) s =
      .next ((s.setTctxOf n c { x.setEntry m.tag { e with queue := e.queue ++ [m] } with unbound := [] }).rankReady n c))) ∧
  ((∀ (s : State) (c tag : Nat) (im : EntryImage) (x : Context), tag < 4096 → Map.get? s.contexts c = some x →
    (x.refuses tag im = true → exec (.entryRewrite c tag im) s = .next s) ∧
    (x.refuses tag im = false → ∃ t, exec (.entryRewrite c tag im) s = .next t ∧ t.mem = s.mem ∧
      Map.get? t.contexts c = some { x with table := Map.set x.table tag im } ∧
      ∀ n, s.resident n c = true → (t.entryOf n c tag).lock = true ∧ (t.entryOf n c tag).next = some im ∧
        (t.entryOf n c tag).image = (s.entryOf n c tag).image)) ∧
   (∀ (s : State) (n c tag : Nat) (im : EntryImage), (s.entryOf n c tag).next = some im →
    ∃ t, execRewriteOn n c tag s = .next t ∧ t.mem = s.mem ∧ (t.entryOf n c tag).image = im ∧ (t.entryOf n c tag).lock = false ∧
      (t.entryOf n c tag).en = im.ctrl.getLsbD 0 ∧ (t.entryOf n c tag).pend = im.ctrl.getLsbD 1)) ∧
  (∀ (s : State) (n c : Nat), s.mayStart n = some c → s.setFree n c false = true → s.painted = [] → s.choose n c true = none →
    let x := s.tctxOf n c
    let t0 := s.tile n
    let entered := fun (t : State) (image : EntryImage) (pay : List Word) =>
      let r := (t.tctxOf n c).normal
      t.mem = s.mem ∧ r.pcc = image.cap.withOtype 0 ∧ r.c[1] = (s.info c).data ∧ r.c[4] = Cap.null ∧
        (∀ i : Fin 6, r.s[i.val + 1] = pay.getD i.val 0) ∧ r.s[7] = 0 ∧ r.loops = [] ∧ r.pending = [] ∧ r.inTrap = false
    (∀ q tag m rest, s.choose n c false = some q → q.cand = .entry tag → q.tag = tag → s.taskAhead n c false q = false →
      let e := x.entry tag
      e.queue = m :: rest → e.pend = false → e.image.ctrl.extractLsb' 12 3 = 1 → e.image.port.extractLsb' 0 16 = BitVec.ofNat 16 tag →
      tag < 4096 → ctrlClass e.image.ctrl = false →
      ∃ t f, exec (.makeFiring n c tag) s = .next t ∧ entered t e.image m.payload ∧ (t.tctxOf n c).normal.fir = some f ∧
        f.ts = m.ts ∧ f.wid = m.wid ∧ f.slot = m.slot ∧ f.tag = tag ∧ f.serial = t0.count * 64 + partIdx n ∧
        f.origin.consumed = [(0, m)] ∧ f.actions = [] ∧ (t.tile n).count = t0.count + 1 ∧ (t.entryOf n c tag).queue = rest) ∧
    (∀ q r, x.reruns = [r] → s.choose n c false = some q → q.cand = .rerun r → q.tag = r.tag → s.taskAhead n c false q = false →
      r.firing.urgent = false → r.firing.ctx = c →
      ∃ t f, exec (.rerun n r.firing.serial) s = .next t ∧ entered t r.firing.image r.firing.entryPayload ∧
        (t.tctxOf n c).normal.fir = some f ∧ f = { r.firing with popped := [], owed := r.firing.popped, pinned := s.isPager n c } ∧ (t.tctxOf n c).reruns = []) ∧
    (∀ (k : Task) v,
      let e := x.entry k.msg.tag
      let single := e.image.ctrl.extractLsb' 16 2 = 1 ∧ e.image.ctrl.extractLsb' 12 3 = 1 ∧ e.image.port.extractLsb' 12 4 = 0
      let taken := fun (op : Instr) => ∃ t f, exec op s = .next t ∧ entered t e.image k.msg.payload ∧ (t.tctxOf n c).normal.fir = some f ∧
        f.ts = k.msg.ts ∧ f.wid = k.msg.wid ∧ f.serial = k.serial ∧ f.parent = some k.parent ∧ f.origin.task = some k.msg
      single → k.msg.ctx = c → ctrlClass e.image.ctrl = false →
      (t0.deque.getLast? = some k → s.mayTake n k = true → taken (.taskTake n)) ∧
      (∀ l, s.victim n = some v → v ≠ n → (s.tile v).deque = k :: l → taken (.taskSteal n)))) ∧
  (∀ (s : State) (i n count va : Nat) (m : Msg) (w : PageWait), s.net[i]? = some m → m.knd = 6 → m.dst = n → n < 4096 → count < 2 ^ 32 →
    m.payload.getD 0 0 = BitVec.ofNat 64 (n + 2 ^ 15 + count * 2 ^ 16) → (m.payload.getD 1 0).toNat % 2 ^ 16 = 0 →
    (s.tile n).loaded.isSome = true → (s.regOf n .normal).pageWait = some w → w = { count := count, va := va, reply := none } →
    ∃ t, exec (.resumePacket i) s = .next t ∧ t.mem = s.mem ∧ t.net = s.net.eraseIdx i ∧
      t.regOf n .normal = { s.regOf n .normal with pageWait := none })

/-- R163, R171, R174, R185 to R189, R192, R267, R381, R388: a commit performs the firing's actions, aborts the later firings that have
read what it writes, and raises the floor, but poison in its lines or an earlier reader aborts it, and a terminal code given at its
commit ends it; an abort undoes it, with its messages held at the heads of their queues for the rerun that is owed; pinning commits
early; a terminal fault ends a firing; the horizon spreads. R187, R192: the bytes and the tag of a store, at a commit or at once,
read back at the place that its address then translates to, and no other byte of memory changes.
What contributes to a horizon (log 40) and when tiles see it (log 41) are the model's reading; that a commit is aborted where a page
of its stores translates no longer is its choice (log 82). -/
def Obligations.CommitsAndAborts : Prop :=
  (∀ (s : State) (n ctx : Nat) (as : List Action), s.memWf → s.updaters = [] →
    let kid := (s.info ctx).keyId
    let lands := fun (u : State) (key : Nat) (bs : List Byte) (tag : Bool) =>
      keyKind key ≠ 6 → keyKind (key + bs.length) = keyKind key →
        (∀ j, j < bs.length → u.readByte kid (key + j) = bs.getD j 0) ∧
        (s.tags.Pairwise (· < ·) → key % 16 = 0 → bs.length = 16 →
          (u.tagAt key = true ↔ tag = true ∧ keepsTags key = true ∧ (s.filterCap ctx (Cap.ofBytes true (ofBytes bs))).tag = true))
    let u := s.performAll n ctx as
    u.memWf ∧
    (∀ a, (∀ va keys bs tag r, Action.store va keys bs tag ∈ as → r ∈ (s.storeKeys ctx va bs.length).getD keys →
      a < r.1 ∨ r.1 + r.2 ≤ a) → u.readByte kid a = s.readByte kid a) ∧
    (∀ pre post va keys key bs tag, as = pre ++ Action.store va keys bs tag :: post → (∀ a, a ∈ post → actionStep a ≠ 1) →
      (s.painted = [] ∨ ∀ a, a ∈ pre → actionStep a ≠ 1) →
      (s.storeKeys ctx va bs.length).getD keys = [(key, bs.length)] → lands u key bs tag) ∧
    (∀ va key bs tag, lands (s.perform n ctx (.store va [(key, bs.length)] bs tag)) key bs tag)) ∧
  (∀ (s : State) (l : LiveFiring), s.liveAt l.tile l.f.serial = some l →
    let n := l.tile
    let p := quadOf n
    let x := s.tctxOf n l.ctx
    (s.mayCommit l = true → s.partner n = none → l.f.term = none →
      let hit := s.readers p (s.info l.ctx).asid l.id (writeLines l.f.actions)
      (s.taskPoison l = none → (∀ g, g ∈ hit → g.f.earlier l.f = false) → s.storesReach l.ctx l.f.actions = true →
        let v := s.abortReaders p hit
        let u := v.performAll n l.ctx l.f.actions
        (hit = [] → v = s) ∧ v.mem = s.mem ∧
        ∃ t, exec (.commit n l.f.serial) s = .next t ∧ t.mem = u.mem ∧ t.tags = u.tags ∧
          (t.part p).floor = max (u.part p).floor l.f.ts ∧
          (t.tctxOf n l.ctx).ended = (u.tctxOf n l.ctx).ended.filter (fun f => f.serial != l.f.serial) ∧
          ((s.live p).Pairwise (fun a b => a.id.same b.id = false) → ∀ g k, g ∈ hit → k ≠ .keeper →
            ((s.tctxOf g.tile g.ctx).regs k).fir = some g.f → ((t.tctxOf g.tile g.ctx).regs k).fir = none)) ∧
      (∀ key, s.taskPoison l = some key → exec (.commit n l.f.serial) s = .next (s.rerunFor l (addrOf key) key)) ∧
      (s.taskPoison l = none → (∃ g, g ∈ hit ∧ g.f.earlier l.f = true) ∨ s.storesReach l.ctx l.f.actions = false →
        exec (.commit n l.f.serial) s = .next (s.abort l false))) ∧
    (∀ code, s.mayCommit l = true → l.f.term = some code → exec (.commit n l.f.serial) s = .next (s.terminateFiring l code)) ∧
    (l.f.pinned = false → exec (.abort n l.f.serial) s = .next (s.abort l false) ∧
      ∀ m, (s.abort l false).mem = s.mem ∧
        (l.f.origin = { consumed := [(0, m)], pend := none, task := none } → l.f.popped = [] → l.f.owed = [] →
        x.reruns = [] → (∀ g, g ∈ x.live 0 0 → g.f.owed = []) →
        (∀ g, g ∈ s.live p → isChild l.id g.f = false) →
        let tag := (l.f.image.port.extractLsb' 0 12).toNat
        let t := s.abort l false
        (t.entryOf n l.ctx tag).queue = (x.entry tag).queue ∧ (t.tctxOf n l.ctx).returned = [(tag, m)] ∧
        (∀ k : SetId, (x.regs k).fir = some l.f → k ≠ .keeper → (t.tctxOf n l.ctx).regs k = { RegSet.reset with owed := (x.regs k).owed ++ (x.regs k).bad }) ∧
        ∃ r, (t.tctxOf n l.ctx).reruns = [r] ∧ r.tag = l.f.tag ∧ r.firing.serial = l.f.serial ∧ r.firing.ts = l.f.ts ∧
          r.firing.wid = l.f.wid ∧ r.firing.actions = [] ∧ r.firing.origin = l.f.origin ∧ r.firing.off = 0))) ∧
  (∀ (s : State) (n c : Nat) (k : SetId) (f : Firing), k ≠ .keeper → (s.tile n).loaded = some c → (s.regOf n k).fir = some f →
    let p := quadOf n
    let id : FiringId := { tile := n, serial := f.serial }
    (f.pinned = false → s.mayPin n f = true → s.partner n = none →
      s.taskPoison { tile := n, ctx := c, place := .set k, f := f } = none →
      s.readers p (s.info c).asid id (writeLines f.actions) = [] → s.storesReach c f.actions = true →
      ∃ t, exec (.pin n k) s = .next t ∧ t.cur = s.cur ∧
        (t.regOf n k) = { s.regOf n k with fir := some { f with pinned := true, actions := [], reads := [] } } ∧
        t.mem = (({ s with cur := { tile := n, set := k } } : State).performAll n c f.actions).mem) ∧
    (f.pinned = true → exec (.pin n k) s = .next s) ∧
    (∀ code, f.term = some code → f.pinned = true ∨ s.mayPin n f = true → (∀ g, g ∈ s.live p → isChild id g.f = false) →
      ∃ t, exec (.terminate n k) s = .next t ∧ t.mem = s.mem ∧
        (t.tctxOf n c).regs k = { RegSet.reset with owed := (s.regOf n k).owed ++ (s.regOf n k).bad } ∧
        ∀ j q, f.slot = some j → Map.get? s.launches j = some q → ∃ q' : Launch, Map.get? t.launches j = some q' ∧
          q'.term = (match q.term with | some e => some e | none => some code))) ∧
  (∀ (s : State) (p : Nat), ∃ t, exec (.horizonUpdate p) s = .next t ∧ t.mem = s.mem ∧
    (∀ n x, Map.get? s.tiles n = some x → (t.tile n).horizon = if quadOf n = p then s.horizon p else x.horizon) ∧
    (t.part p).floor = (if s.contributors p = [] then 0 else (s.part p).floor))

/-! ## Events of queues, links, partitions and services -/

/-- R177 to R180, R317, R335, R336, R341 to R348, R352, R356: doorbells, registers, the records of a queue and the launches they
start: what each changes, its completion record, and the status that refuses it.
R8: a write from a privilege below a field's leaves the field and posts a record of class 0x0A. R346: a dependent launch or a sync
uses the acknowledgement that it waited for, and a launch record renews its SEQ. R357: a new WEIGHT keeps the ages gained.
The partition mask of records other than a launch's (log 33), the status of an empty range (log 34), URG and SRC of
a dispatch message (logs 35, 45), what holds a record or a completion back (logs 44, 46), where the fault of a denied write stands
and with which syndrome (log 83), and the HDM registers and the handing over of a window's capability (log 84) are the model's
reading. -/
def Obligations.QueuesAndLaunches : Prop :=
  (∀ (s : State) (n typ status seq parts : Nat) (code : BitVec 16), s.comps = [] → s.memWf → parts < 2 ^ 40 → seq < 2 ^ 32 →
    typ < 256 → status < 256 →
    let q := s.queue n
    let t := s.finishRecord n typ status seq code parts
    if (q.ctail + 1) % 2 ^ q.logsz = q.chead then t.mem = s.mem ∧ t.queues = s.queues ∧ t.comps.length = 1
    else t.comps = [] ∧ (t.queue n).ctail = (q.ctail + 1) % 2 ^ q.logsz ∧ t.msix = s.msix ++ [n] ∧
      t.doneLaunch = (if typ = 1 then s.doneLaunch.erase (n, seq) ++ [(n, seq)] else s.doneLaunch) ∧
      Memory.readBytes t.mem (keyHost (q.cbase.toNat / 4096 * 4096 + 32 * q.ctail)) 32 =
        toBytes 8 (typ + status * 2 ^ 8 + seq * 2 ^ 32) ++ toBytes 8 code.toNat ++ toBytes 8 parts ++ toBytes 8 0) ∧
  (∀ (s : State) (n v : Nat), v < 65536 → s.comps = [] →
    let q := s.queue n
    (s.status.ready = false ∨ 32768 ≤ n → exec (.tailWrite n v) s = .next s ∧ exec (.cheadWrite n v) s = .next s) ∧
    (s.status.ready = true → n < 32768 → 2 ^ q.logsz ≤ v → exec (.tailWrite n v) s = .next (s.setQueue n { q with err := true }) ∧
      exec (.cheadWrite n v) s = .next (s.setQueue n { q with err := true })) ∧
    (s.status.ready = true → n < 32768 → v < 2 ^ q.logsz → exec (.tailWrite n v) s = .next (s.setQueue n { q with tail := v }) ∧
      exec (.cheadWrite n v) s = .next (s.setQueue n { q with chead := v }))) ∧
  (∀ s : State, ∃ y, 1 ≤ y ∧ y ≤ 6 ∧ s.denied = if (s.etail + 1) % 256 = s.ehead then { s with ovf := true } else { s with
    ering := Map.set s.ering s.etail { cls := 0x0A, unit := 0x0E, part := 0, who := 0, syn := y, addr := 0, frame := 0, pc := 0 }
    etail := (s.etail + 1) % 256 }) ∧
  (∀ (s : State) (n : Nat) (w : Word) (l : Priv), s.status.ready = true →
    let q := s.queue n
    let gives := fun (r : DevReg) (t : State) => exec (.registerWrite r w l) s = .next t
    (32768 ≤ n → gives (.qbase n) s ∧ gives (.cbase n) s ∧ gives (.qctl n) s) ∧
    (n < 32768 → gives (.qbase n) (if q.en then s else s.setQueue n { q with qbase := w &&& ~~~0xFFF }) ∧
      gives (.cbase n) (if q.en then s else s.setQueue n { q with cbase := w &&& ~~~0xFFF }) ∧
      (l ≠ .keeper → gives (.qctl n) (s.setQueue n { q with err := q.err && !w.getLsbD 62 }).denied) ∧
      (l = .keeper → gives (.qctl n) (s.setQueue n { q with
        err := q.err && !w.getLsbD 62, en := w.getLsbD 63, ctx := (w.extractLsb' 32 12).toNat
        logsz := if q.en then q.logsz else (w.extractLsb' 16 4).toNat }))) ∧
    (l ≠ .keeper → gives (.chan n) (if n < 4096 then s.denied else s) ∧ gives (.edgebud n) s.denied ∧
      ∀ base len, gives (.hdm n base len) (if n < 2 then s.denied else s)) ∧
    (∀ x, l = .keeper → Map.get? s.contexts n = some x → ∃ t : State, gives (.edgebud n) t ∧ t.mem = s.mem ∧
      Map.get? t.contexts n = some { x with edgebud := w &&& 0xFF00000000FFFFFF } ∧
      ∀ m i k, (s.tile m).copyAt i = some k → ∃ k', (t.tile m).copyAt i = some k' ∧ t.age k' = s.age k) ∧
    (∀ base len, l = .keeper →
      let dev := w.toNat / 4096 * 4096
      let takes := n < 2 ∧ base % 65536 = 0 ∧ len % 65536 = 0 ∧ dev % 65536 = 0 ∧ base + len ≤ 2 ^ 64 ∧
        ∀ j, j < len / 65536 → s.hostMay (dev + 65536 * j) = true
      (¬ takes → gives (.hdm n base len) s) ∧
      (takes → ∃ t, gives (.hdm n base len) t ∧ t.mem = s.mem ∧
        t.hdm.toList[n]? = some { base := base, len := len, dev := dev, key := w.toNat % 4096 } ∧
        ∀ j, j ≠ n → t.hdm.toList[j]? = s.hdm.toList[j]?)) ∧
    (l = .user ∨ 4096 ≤ n → let u := if n < 4096 then s.denied else s
      (∀ o, gives (.win n o) u) ∧ gives (.exp n) u) ∧
    (l ≠ .user → n < 4096 → let u : State := { s with wins := Map.set s.wins n (w &&& ~~~0x7000000000000000) }
      let c := (w.extractLsb' 48 12).toNat
      gives (.exp n) { s with exps := Map.set s.exps n (w &&& ~~~0x1000000000000000) } ∧
      gives (.win n none) u ∧ (∀ h, w.getLsbD 63 = false → gives (.win n (some h)) u) ∧
      (∀ h : WinHand, w.getLsbD 63 = true → h.off + h.len ≤ 2 ^ 32 → h.gran < 16384 → s.resident h.tile c = true →
        let perms := [permENG] ++ (if h.rd then [permLD] else []) ++ (if h.wr then [permST] else [])
        gives (.win n (some h)) (u.writeCap (s.info c).keyId (keyScratch c h.tile (16 * h.gran))
          ((Cap.root (winBase + n * 2 ^ 32 + h.off) h.len (need perms)).withOtype 3)))) ∧
    gives .errctl { s with ovf := s.ovf && !w.getLsbD 63, ehead := (w.extractLsb' 8 8).toNat } ∧ (∀ o, gives (.readOnly o) s)) ∧
  (∀ (s : State) (n : Nat) (r : List Byte), s.ringRecord n = some r →
    let q := s.queue n
    let u := s.setQueue n { q with head := (q.head + 1) % 2 ^ q.logsz }
    let typ := recType r
    let gives := fun (op : Instr) (t : State) => exec op s = .next t
    let refused := fun (status : Nat) => u.finishRecord n typ status (recSeq r) 0 0
    let home := u.queuePart n
    (typ = 0 ∨ 6 < typ → gives (.reservedRecord n) (refused 3)) ∧
    (typ = 2 → (badRange r = true → gives (.acquireRecord n) (refused 3)) ∧
      (badRange r = false → u.allHost (u.queueInfo n) (rangeOf r).1 (rangeOf r).2 = false → gives (.acquireRecord n) (refused 2)) ∧
      (badRange r = false → u.allHost (u.queueInfo n) (rangeOf r).1 (rangeOf r).2 = true → gives (.acquireRecord n)
        ((u.holdRange (u.queueInfo n) (rangeOf r).1 (rangeOf r).2 true).finishRecord n 2 0 (recSeq r) 0 home))) ∧
    (typ = 3 → s.dueRelease n = none → badRange r = false → u.allHost (u.queueInfo n) (rangeOf r).1 (rangeOf r).2 = true →
      let v := u.holdRange (u.queueInfo n) (rangeOf r).1 (rangeOf r).2 false
      gives (.releaseRecord n) { v with waits := v.waits ++ [.relRange n (recSeq r) (u.clk + 8400)] }) ∧
    (∀ x, typ = 4 → badRecord r [(9, 0xF7)] = false → Map.get? s.contexts q.ctx = some x →
      let g := fieldAt r 8 1
      let a := Map.get x.attempts g 0 + 1
      (2 ^ 32 ≤ a → gives (.collectiveAbort n) (refused 7)) ∧
      (a < 2 ^ 32 →
        let v : State := { u with contexts := Map.set u.contexts q.ctx { x with attempts := Map.set x.attempts g a } }
        gives (.collectiveAbort n) (({ v with outbound := v.outbound ++ v.abortTokens q.ctx g a } : State).finishRecord n 4 0
          (recSeq r) 0 home))) ∧
    (typ = 5 → s.dueCapsule n = none → badRecord r [(0xA, 0xF6)] = false → fieldAt r 8 2 < 4096 →
      ((∃ k, Map.get? s.capsules (fieldAt r 8 2) = some k ∧ k.ctx = q.ctx ∧ k.released = false) →
        gives (.capsuleRelease n) { u with waits := u.waits ++ [.capRel n (recSeq r) (fieldAt r 8 2)] }) ∧
      ((∀ k, Map.get? s.capsules (fieldAt r 8 2) = some k → k.ctx ≠ q.ctx ∨ k.released = true) →
        gives (.capsuleRelease n) (refused 5))) ∧
    (typ = 6 → s.dueSync n = none → badRecord r [(8, 0x80), (0x90, 0x70)] = false →
      let d := fieldAt r 0x88 8
      (d = 0 → gives (.hostSync n) (u.finishRecord n 6 0 (recSeq r) 0 0)) ∧
      (d.testBit 63 = true → d / 2 ^ 58 % 2 ^ 5 = 0 → d.testBit 47 = false → (depOf r).1 = selfPackage →
        gives (.hostSync n) { u with waits := u.waits ++ [.sync n (recSeq r) (depOf r)] }) ∧
      (d.testBit 63 = true → d / 2 ^ 58 % 2 ^ 5 = 0 → d.testBit 47 = false → (depOf r).1 ≠ selfPackage →
        gives (.hostSync n) { u with
          waits := u.waits ++ [.sync n (recSeq r) (depOf r)]
          outbound := u.outbound ++ [.flushRequest selfPackage (depOf r).1 (depOf r).2.1 (depOf r).2.2] })) ∧
    (typ = 1 →
      let l := u.launchOf n q.ctx r
      let v : State := { u with doneLaunch := u.doneLaunch.erase (n, recSeq r) }
      (u.launchStatus q.ctx r ≠ 0 → gives (.launchRecord n) (v.finishRecord n typ (u.launchStatus q.ctx r) (recSeq r) 0 0)) ∧
      (u.launchStatus q.ctx r = 0 → s.launchBlocked l = true →
        gives (.launchRecord n) (v.setQueue n { v.queue n with held := some l })) ∧
      (u.launchStatus q.ctx r = 0 → s.launchBlocked l = false →
        ∃ t : State, gives (.launchRecord n) t ∧ t.mem = s.mem ∧ t.doneLaunch = v.doneLaunch ∧ Map.get? t.launches s.newSlot = some l ∧
          (t.queue n).head = (q.head + 1) % 2 ^ q.logsz))) ∧
  (∀ (s : State) (n : Nat) (l : Launch), (s.queue n).held = some l →
    (s.launchBlocked l = true → ∃ t, exec (.launchRecord n) s = .next t ∧ t.mem = s.mem ∧ t.launches = s.launches ∧
      t.queue n = s.queue n) ∧
    (s.launchBlocked l = false → ∃ t : State, exec (.launchRecord n) s = .next t ∧ t.mem = s.mem ∧
      Map.get? t.launches s.newSlot = some l ∧ t.queue n = { s.queue n with held := none })) ∧
  (∀ (s : State) (n seq m : Nat) (w : Waiting), s.waits = [w] → s.comps = [] →
    let q := s.queue n
    let u : State := { s with waits := [] }
    (∀ ends, w = .relRange n seq ends → ends ≤ s.clk →
      exec (.releaseRecord n) s = .next (u.finishRecord n 3 0 seq 0 (u.queuePart n))) ∧
    (∀ d, w = .sync n seq d → s.syncDone d = true → exec (.hostSync n) s =
      .next (({ u with flushAcks := if d.1 = selfPackage then u.flushAcks else u.flushAcks.erase d } : State).finishRecord n 6 0 seq 0 0)) ∧
    (w = .capRel n seq m → s.capsuleBusy m = false → (∀ k, Map.get? s.capsules m = some k → k.ctx ≠ q.ctx ∨ k.released = true) →
      exec (.capsuleRelease n) s = .next (u.finishRecord n 5 5 seq 0 0)) ∧
    (∀ k x, w = .capRel n seq m → s.capsuleBusy m = false → s.binds = [] → s.sweeps = [] → Map.get? s.contexts q.ctx = some x →
      Map.get? s.capsules m = some k → k.ctx = q.ctx → k.released = false → ∃ t v : State, exec (.capsuleRelease n) s = .next t ∧
        t = v.finishRecord n 5 0 seq 0 (partMask (s.info q.ctx).parts) ∧ keyAnchor m ∈ v.painted ∧ v.mem = s.mem ∧
        Map.get? v.capsules m = some { k with released := true } ∧ v.sweeps.length = 1)) ∧
  (∀ (s : State) (slot : Nat) (l : Launch), Map.get? s.launches slot = some l →
    (∀ wid n, s.maySend slot l = true → l.pull = false → l.streams = [] → l.late = [] → l.begun = false → l.next < product l.outer →
      product l.inner = 1 → s.target l l.next 0 = (wid, some n) → s.weightsAllow slot l (quadOf n) = true →
      ∃ t l', exec (.dispatchMessage slot) s = .next t ∧ t.mem = s.mem ∧ Map.get? t.launches slot = some l' ∧ l'.begun = true ∧
        l'.next = l.next + 1 ∧ (∀ p, p ∈ l.parts → Map.get? (t.part p).layouts l.ctx = some l.widths) ∧
        t.flushAcks = (match l.dep with
          | some d => if d.1 = selfPackage then s.flushAcks else s.flushAcks.erase d
          | none => s.flushAcks) ∧
        ∃ m : Msg, t.net = s.net ++ [m] ∧ m.dst = n ∧ m.tag = l.tag ∧ m.wid = BitVec.ofNat 64 wid ∧ m.payload = l.words ∧ m.slot = some slot) ∧
    (∀ wid n, s.maySend slot l = true → l.pull = false → l.streams = [] → l.late = [] → l.begun = true → l.next < product l.outer →
      product l.inner = 1 → s.target l l.next 0 = (wid, some n) →
      let p := quadOf n
      (s.weightsAllow slot l p = true → exec (.dispatchMessage slot) s = .next { s with
        net := s.net ++ [{ ts := max l.ts (s.part p).floor, src := partTile p (s.part p).pager0
                           knd := 2, urg := l.urg, tag := l.tag, wid := BitVec.ofNat 64 wid, payload := l.words, ctx := l.ctx
                           dst := n, slot := some slot }]
        launches := Map.set s.launches slot { l with
          next := l.next + 1, begunIn := if p ∈ l.begunIn then l.begunIn else l.begunIn ++ [p]
          sentAll := decide (product l.outer ≤ l.next + 1) } }) ∧
      (s.weightsAllow slot l p = false → exec (.dispatchMessage slot) s = .next { s with
        launches := Map.set s.launches slot { l with next := l.next + 1, late := [l.next], sentAll := false } })) ∧
    (l.sentAll = true → l.complete = false → s.slotWork slot = false →
      let u : State := { s with launches := Map.set s.launches slot { l with complete := true } }
      exec (.launchCompletion slot) s = .next (u.finishRecord l.queue 1 (if l.term.isSome then 1 else 0) l.seq (l.term.getD 0)
        (partMask l.parts))) ∧
    (s.flushDue l = true → ∃ t, exec (.releaseFlush slot) s = .next t ∧ t.mem = s.mem ∧
      Map.get? t.launches slot = some { l with flushed := true } ∧
      t.outbound = s.outbound ++ (s.flushAsked l.queue l.seq).map (fun q => .flushAck selfPackage q.1 q.2.1 q.2.2))) ∧
  (∀ (s : State) (src n seq : Nat),
    (s.flushDone n seq = false → exec (.flushRequest src n seq) s = .next { s with flushReqs := s.flushReqs ++ [(src, n, seq)] }) ∧
    (s.flushDone n seq = true → s.flushReqs = [] → exec (.flushRequest src n seq) s =
      .next { s with outbound := s.outbound ++ [.flushAck selfPackage src n seq] }) ∧
    exec (.flushAcknowledgement src n seq) s = .next { s with flushAcks := s.flushAcks ++ [(src, n, seq)] })

/-- R334, R341, R342, R350 to R355, R363, R389, R392: the host's accesses, what arrives over the links, and the ports.
R363, R365: a host access to device memory goes by the key of its decoder, and reveals and changes nothing of memory that is not the
host's to reach. R351: the units on a port that goes down are lost, and their copies stop with LINK.DOWN, their bytes unwritten.
That a host access meets no read set and goes by its decoder's key (log 47), that only an accepted unit raises an attempt number
(log 48), that a window's world is checked at the ingress too (log 77), that a BAR is written by aligned doublewords (log 84), that
the offset which cuts chunks counts the bytes of all rows and when a chunk begins to wait (logs 60, 61), and that a record which
meets a full ring sets OVF (log 42) are the model's reading. -/
def Obligations.LinksAndFabric : Prop :=
  (∀ (s : State) (a n : Nat) (bs : List Byte), a % 65536 + n ≤ 65536 → bs.length = n → 0 < n → a + n ≤ 2 ^ 64 →
    let host := fun (op : HostOp) => exec (.hostMemAccess (.memory a) op) s
    let place := match s.hdm.toList.find? (fun d => decide (d.base ≤ a) && decide (a < d.base + d.len)) with
      | some d => (d.dev + (a - d.base), d.key)
      | none => (keyHost a, 0)
    let served := keyKind place.1 ≠ 0 ∨ s.hostMay place.1 = true
    host (.read n) = .next { s with hostReads := s.hostReads ++
      [(.memory a, s.readBytes (if served then place.2 else hiddenKey) place.1 n)] } ∧
    host (.write bs) = .next (if served then s.writeBytes place.2 place.1 bs else s) ∧
    (s.hostMay place.1 = true ↔ place.1 / quadBytes < 40 ∧ (s.part (place.1 / quadBytes)).world = false ∧
      place.1 % quadBytes < s.usable (place.1 / quadBytes))) ∧
  (∀ (s : State) (n : Nat) (v : Word), n < 32768 →
    let q := s.queue n
    exec (.hostMemAccess (.bar0 (64 * n + 0x18)) (.read 8)) s =
      .next { s with hostReads := s.hostReads ++ [(.bar0 (64 * n + 0x18), toBytes 8 (q.head % 65536))] } ∧
    exec (.hostMemAccess (.bar0 (64 * n + 0x10)) (.write (toBytes 8 v.toNat))) s = exec (.tailWrite n v.toNat) s ∧
    exec (.hostMemAccess (.bar0 (64 * n + 0x18)) (.write (toBytes 8 v.toNat))) s = .next s ∧
    exec (.hostMemAccess (.bar0 (64 * n + 0x8)) (.write (toBytes 8 v.toNat))) s = exec (.registerWrite (.qctl n) v .user) s ∧
    exec (.hostMemAccess (.bar2 0) (.read 8)) s = .next { s with hostReads := s.hostReads ++ [(.bar2 0, toBytes 8
      (bit s.status.ready * 2 ^ 63 + bit s.status.fail * 2 ^ 62 + s.status.fstage % 256 * 2 ^ 8 + s.status.stage % 256))] } ∧
    exec (.hostMemAccess (.bar2 0x3000) (.write (toBytes 8 v.toNat))) s = exec (.registerWrite .errctl v .user) s) ∧
  (∀ (s : State) (u : FabricUnit),
    let e := Map.get s.exps u.export_ 0
    let c := (e.extractLsb' 48 12).toNat
    let back : State := { s with outbound := s.outbound ++ [.dropNotice { u with src := selfPackage, pkg := u.src }] }
    (e.getLsbD 63 = false ∨ ((e.extractLsb' 0 16).toNat + 1) * 65536 < u.off + u.data.length ∨ u.attempt < s.attemptOf c u.group ∨
        u.secure ≠ (s.info c).secure →
      exec (.fabricWrite u) s = .next back ∧ exec (.fabricReadRequest u) s = .next back) ∧
    (e.getLsbD 62 = false → exec (.fabricWrite u) s = .next back) ∧
    (e.getLsbD 61 = false → exec (.fabricReadRequest u) s = .next back) ∧
    (∀ q, s.updaters = [] → u.attempt = s.attemptOf c u.group → u.poison = false →
      (s.exportPieces u true = some [q] → exec (.fabricWrite u) s = .next (s.writeBytes (s.info c).keyId q.key (u.data.take q.n))) ∧
      (s.exportPieces u false = some [q] → exec (.fabricReadRequest u) s = .next { s with
        outbound := s.outbound ++ [.readResponse { u with
          src := selfPackage, pkg := u.src, data := s.readBytes (s.info c).keyId q.key q.n
          poison := (s.poisoned q.key q.n).isSome }] })) ∧
    (∀ x, Map.get? s.contexts c = some x →
      exec (.abortToken c u.group u.attempt) s = .next (if s.attemptOf c u.group < u.attempt then { s with
        contexts := Map.set s.contexts c { x with attempts := Map.set x.attempts u.group u.attempt } } else s)) ∧
    (∀ k q, (s.tile u.tile).slots = [some k] → k.push = u.push → k.running = true → k.moved = false → k.dstVa = u.dst →
      s.fabric = [q] → q.isUnit u = true →
      let n := u.data.length
      let w : State := { s with fabric := [] }
      let k1 := if k.dlen ≤ k.done + n then { k with row := k.row + 1, done := 0 } else { k with done := k.done + n }
      let later := fun (c : Copy) => if (k1.row * k1.dlen + k1.done) % 4096 = 0
        then { c with since := s.clk, aged := 0, agedTo := s.clk, paid := false, engine := none } else c
      (∀ dst, s.updaters = [] → (k.pusher = none ∨ (spaceOf u.tile u.dst).1 ≠ .global) → k.swe = false →
        u.attempt = s.attemptOf k.ctx u.group → u.poison = false → s.enginePieces u.tile k.ctx u.dst n .wr = .ok [dst] →
        ∃ t, exec (.fabricReadResponse u) s = .next t ∧ t.fabric = [] ∧
          t.mem = (w.writeBytes (s.info k.ctx).keyId dst.key (u.data.take dst.n)).mem ∧
          (t.tile u.tile).slots = [some (later { k1 with written := k.written + n })]) ∧
      (u.attempt < s.attemptOf k.ctx u.group → exec (.fabricReadResponse u) s = .next w) ∧
      (s.attemptOf k.ctx u.group ≤ u.attempt → u.poison = true → exec (.fabricReadResponse u) s =
        .next (w.setTile u.tile { s.tile u.tile with slots := [some { k with stop := some Code.dataUnc }] })) ∧
      (s.posted = [] → exec (.dropNotice u) s =
        .next (w.setTile u.tile { s.tile u.tile with slots := [some (later k1)] }))) ∧
    (s.fabric = [] → exec (.fabricReadResponse u) s = .next s) ∧
    (∀ k q, (s.tile u.tile).slots = [some k] → (s.tile u.tile).ctxs = [] → k.push = u.push → s.posted = [q] → q.isUnit u = true →
      q.lost = false → exec (.dropNotice u) s = .next
        (({ s with posted := [] } : State).setTile u.tile { s.tile u.tile with
          slots := [some { k with written := k.written - u.data.length }] }))) ∧
  (∀ (s : State) (p : Nat), p < 18 →
    let gives := fun (x : PortState) => { s with ports := Map.set s.ports p x : State }
    (Map.get? s.ports p = some .up ∨ Map.get? s.ports p = some .down → exec (.linkRetrain p) s = .next (gives (.retraining s.clk))) ∧
    (Map.get? s.ports p = none → exec (.linkRetrain p) s = .next s ∧ exec (.linkReturn p) s = .next s) ∧
    (∀ since, Map.get? s.ports p = some (.retraining since) →
      exec (.linkRetrain p) s = .next s ∧
      exec (.linkReturn p) s = .next (if s.clk ≤ since + 252000 then gives .up else s) ∧
      (s.clk ≤ since + 252000 → exec (.portDown p) s = .next s) ∧
      (since + 252000 < s.clk → (∀ q, q ∈ s.posted ++ s.fabric → q.port ≠ p) →
        ∃ t, exec (.portDown p) s = .next t ∧ t.mem = s.mem ∧ t.portState p = .down ∧ t.posted = s.posted ∧ t.fabric = s.fabric ∧
          t.tiles = s.tiles) ∧
      (∀ q k, since + 252000 < s.clk → s.posted = [q] → s.fabric = [] → q.lost = false → q.port = p →
        (s.tile q.unit.tile).slots = [some k] → (s.tile q.unit.tile).ctxs = [] → k.push = q.unit.push →
        ∃ t, exec (.portDown p) s = .next t ∧ t.mem = s.mem ∧ t.portState p = .down ∧ (t.tile q.unit.tile).slots =
          [some { k with stop := some (k.stop.getD Code.linkDown), written := k.written - q.unit.data.length }]))) ∧
  (∀ (s : State) (p : Nat),
    ((s.etail + 1) % 256 ≠ s.ehead → exec (.flitRetry p) s = .next { s with
      ering := Map.set s.ering s.etail { cls := 0x15, unit := if p < 18 then 0x0D else if p = 18 then 0x0E else 0x10
                                         part := 0, who := 0, syn := 6, addr := 0, frame := 0, pc := 0 }
      etail := (s.etail + 1) % 256 }) ∧
    ((s.etail + 1) % 256 = s.ehead → exec (.flitRetry p) s = .next { s with ovf := true }))

/-- R25, R238, R239, R276, R280, R325, R360 to R364: partitions, fused tori, memory keys, contexts and where they are resident.
What a write of PART ends (log 50), that the scrub clears the tiles' own state (log 53), what a release and a fusion wait for (logs 51, 52), what Halo may
assign (log 54), the lost key and the chunk that brings one (log 55) and the layout of HBM (log 7) are the model's reading. -/
def Obligations.PartitionsAndContexts : Prop :=
  (∀ (s : State) (p : Nat) (v : Word), p < 40 →
    let x := s.part p
    let st := (v.extractLsb' 62 2).toNat
    let p0 := (v.extractLsb' 24 6).toNat
    let p1 := (v.extractLsb' 16 6).toNat
    let ok := x.absent = false ∧ p0 ≠ p1 ∧ s.tileExists (partTile p p0) = true ∧ s.tileExists (partTile p p1) = true
    let put := fun (y : Partition) (t : PartState) => { y with
      st := t, world := v.getLsbD 61, shape := (v.extractLsb' 56 2).toNat, fbase := (v.extractLsb' 50 6).toNat
      tenant := (v.extractLsb' 32 16).toNat, pager0 := p0, pager1 := p1 }
    let gives := fun (y : Partition) => exec (.partWrite p v) s = .next (s.setPart p y)
    let zeroed := fun (t : State) => ∀ a, a < 40 * quadBytes → a / quadBytes = p → Memory.read t.mem a = 0
    (ok → x.st = .free → st = 1 → gives (put x .scrubbing)) ∧
    (ok → (x.st = .free ∧ st = 0) ∨ (x.st = .scrubbing ∧ st = 1) ∨ (x.st = .assigned ∧ st = 2) ∨ (x.st = .releasing ∧ st = 3) →
      gives (put x x.st)) ∧
    (ok → x.st = .assigned → st = 3 → s.torus p = 0 → gives (put x .releasing)) ∧
    (ok → x.st = .assigned → st = 3 → s.torus p ≠ 0 → ∃ t, exec (.partWrite p v) s = .next t ∧ t.mem = s.mem ∧ t.tiles = s.tiles ∧
      t.part p = put (t.part p) .releasing ∧ ∀ q, q ∈ s.group p → (t.part q).split = true) ∧
    (ok → x.st = .scrubbing → (st = 2 ∧ x.toFree = false) ∨ (st = 0 ∧ x.toFree = true) → ∃ t, exec (.partWrite p v) s = .next t ∧
      zeroed t ∧ (t.part p).st = (if st = 0 then .free else .assigned) ∧ (t.part p).toFree = false ∧ (st = 0 → (t.part p).tenant = 0)) ∧
    (ok → x.st = .releasing → st = 1 → s.releaseDue p = false → gives (put x .releasing)) ∧
    (ok → x.st = .releasing → st = 1 → s.releaseDue p = true →
      ∃ t, exec (.partWrite p v) s = .next t ∧ (t.part p).st = .scrubbing ∧ (t.part p).toFree = true) ∧
    (¬ ok ∨ (x.st = .free ∧ 2 ≤ st) ∨ (x.st = .assigned ∧ st < 2) ∨ (x.st = .releasing ∧ st % 2 = 0) ∨
        (x.st = .scrubbing ∧ (st = 3 ∨ (st = 2 ∧ x.toFree = true) ∨ (st = 0 ∧ x.toFree = false))) →
      exec (.partWrite p v) s = .next s)) ∧
  (∀ (s : State) (p : Nat), p < 40 → (s.part p).st = .scrubbing →
    ∃ t, exec (.scrub p) s = .next t ∧ (t.part p).st = (if (s.part p).toFree then .free else .assigned) ∧
      (s.memWf → t.memWf ∧ ∀ a, a < 40 * quadBytes → Memory.read t.mem a = if a / quadBytes = p then 0 else Memory.read s.mem a) ∧
      (∀ g, g ∈ t.tags → g < 40 * quadBytes → g / quadBytes ≠ p) ∧
      (∀ n, s.tileExists n = true → quadOf n = p → (t.tile n).accown = 0 ∧ (t.tile n).matrix = Matrix.reset ∧
        (t.tile n).updates = [] ∧ (t.tile n).horizon = 0 ∧ (t.tile n).torcfg = ownTorcfg n)) ∧
  (∀ (s : State) (p : Nat), (s.releaseDue p = true ↔ (s.part p).st = .releasing ∧ s.torus p = 0 ∧ s.live p = []) ∧
    (s.releaseDue p = false → exec (.partitionRelease p) s = .next s)) ∧
  (∀ (s : State) (p : Nat), s.releaseDue p = true → (∀ q, q ∈ s.contexts → p ∉ q.2.info.parts) →
    exec (.partitionRelease p) s = .next (s.setPart p { s.part p with st := .scrubbing, toFree := true })) ∧
  (∀ (s : State) (shape base : Nat),
    let ms := fusedMembers shape base
    let rows := 8 * ms.length
    let cols := 8 * (ms.headD []).length
    (s.mayFuse ms.flatten = false ∨ s.mrotQueued ms.flatten = true → exec (.fusion shape base) s = .next s) ∧
    (s.mayFuse ms.flatten = true → s.mrotQueued ms.flatten = false → ∃ t, exec (.fusion shape base) s = .next t ∧ t.mem = s.mem ∧
      (∀ q, q ∈ ms.flatten → (t.part q).shape = shape ∧ (t.part q).fbase = base) ∧
      (∀ r c, r < rows → c < cols →
        let w := (t.tile (fusedTile ms r c)).torcfg
        (w.extractLsb' 0 4).toNat = c ∧ (w.extractLsb' 4 4).toNat = r ∧ (w.extractLsb' 18 2).toNat = shape ∧
        (w.extractLsb' 36 12).toNat = fusedTile ms ((r + rows - 1) % rows) c ∧
        (w.extractLsb' 24 12).toNat = fusedTile ms r ((c + cols - 1) % cols)))) ∧
  (∀ (s : State) (p : Nat), let ps := s.group p
    (s.torus p = 0 → exec (.split p) s = .next s) ∧
    (s.torus p ≠ 0 → s.mrotQueued ps = true → ∃ t, exec (.split p) s = .next t ∧ t.tiles = s.tiles ∧ t.mem = s.mem ∧
      ∀ q, q ∈ ps → t.part q = { s.part q with split := true }) ∧
    (s.torus p ≠ 0 → s.mrotQueued ps = false → ∃ t, exec (.split p) s = .next t ∧ t.mem = s.mem ∧ ∀ q, q ∈ ps →
      (t.part q).shape = 0 ∧ (t.part q).fbase = q ∧ (t.part q).split = false ∧
      ∀ i, i < 64 → (t.tile (partTile q i)).torcfg = ownTorcfg (partTile q i))) ∧
  (∀ (s : State) (k : Nat) (v : Word) (m : Option Chunk),
    let now := v &&& 0xC000FFFF00000000
    let tenant := (v.extractLsb' 32 16).toNat
    let old := Map.get s.keys k 0
    let kept := v.getLsbD 63 = true ∧ (Map.get? s.keyMat k).isSome = true ∧ (old.extractLsb' 32 16).toNat = tenant ∧
      old.getLsbD 62 = v.getLsbD 62
    let lost := fun (t u : State) (gone : Prop) => ∀ line j, Map.get? u.lineKeys line = some j →
      (j = k → gone → Map.get? t.lineKeys line = some 4096) ∧ (j ≠ k ∨ ¬ gone → Map.get? t.lineKeys line = some j)
    (4096 ≤ k ∨ (∃ q, q ∈ s.contexts ∧ q.2.info.keyId = k) → exec (.keyWrite k { value := v, material := m }) s = .next s) ∧
    (k < 4096 → (∀ q, q ∈ s.contexts → q.2.info.keyId ≠ k) →
      (m = none → ∃ t, exec (.keyWrite k { value := v, material := m }) s = .next t ∧ t.mem = s.mem ∧ lost t s (¬ kept) ∧
        (kept → t.keyMat = s.keyMat ∧ Map.get? t.keys k = some now) ∧
        (¬ kept → Map.get? t.keys k = some (now &&& 0x7FFFFFFFFFFFFFFF))) ∧
      (∀ c, m = some c → (s.chanTenant c.chan ≠ some tenant ∨ v.getLsbD 63 = false →
          exec (.keyWrite k { value := v, material := m }) s = .next s) ∧
        (s.chanTenant c.chan = some tenant → v.getLsbD 63 = true →
          (∀ u, s.acceptChunk c = (u, none) → exec (.keyWrite k { value := v, material := m }) s = .next u) ∧
          ∀ u plain, s.acceptChunk c = (u, some plain) →
            let key := ofBytes (plain.take 64)
            ∃ t, exec (.keyWrite k { value := v, material := m }) s = .next t ∧ t.mem = u.mem ∧ Map.get? t.keys k = some now ∧
              Map.get? t.keyMat k = some key ∧ lost t u (Map.get? u.keyMat k ≠ some key))))) ∧
  (∀ (s : State) (c : Nat) (i : RegInfo),
    (s.mayRegister c i = false → exec (.contextRegistration c i) s = .next s) ∧
    (s.mayRegister c i = true → ∃ t x, exec (.contextRegistration c i) s = .next t ∧ Map.get? t.contexts c = some x ∧
      x.info = i ∧ x.tvec = Cap.null ∧ x.table = [] ∧ t.tiles = s.tiles ∧
      (s.memWf → ∀ n off, n < 4096 → off < 2 ^ 18 → Memory.read t.mem (keyScratch c n off) = 0))) ∧
  (∀ (s : State) (n c : Nat) (r : ResInfo),
    (s.mayReside n c r = false → exec (.makeResident n c r) s = .next s) ∧
    (∀ x, s.mayReside n c r = true → Map.get? s.contexts c = some x → x.table = [] →
      (∀ m, m ∈ (s.tile n).away → m.ctx ≠ c) → (∀ b, b ∈ s.binds → b.ctx ≠ c) →
      ∃ t, exec (.makeResident n c r) s = .next t ∧ t.resident n c = true ∧
        (s.memWf → ∀ a, a / 64 < r.saveAddr / 64 ∨ (r.saveAddr + saveAreaSize + 63) / 64 ≤ a / 64 →
          Memory.read t.mem a = Memory.read s.mem a) ∧
        t.tctxOf n c = { TileCtx.reset with share := r.share, saveAddr := r.saveAddr } ∧
        Map.get? (t.cluster (clusterOf n)).shares c = some
          { ctrLo := r.ctrLo, ctrLen := r.ctrLen, barLo := r.barLo, barLen := r.barLen, cmemOff := r.cmemOff, cmemLen := r.cmemLen }))

/-- R40, R80, R289, R318, R322, R366, R368, R370 to R375, R378, R379, R384, R392, R393: partition services, Contrail, errors of memory
words, cold reset and bring-up.
That a record finds no room in a full ring (log 42), what a read of a channel's free values gives (log 4), a chunk that fails
(log 43), installer firmware that waits for quiet (log 56), the layout of a checkpoint and what a restore does without a page (log 57),
when Contrail may change a firing (log 58), what survives a cold reset (log 59), what the device sends and takes of itself (log 72), the
codes of a refused patch (log 74), where an error stands (log 86), which firmware steps 1 and 6 verify (log 9) and the free values of
bring-up (log 10) are the model's. -/
def Obligations.ServicesAndDebug : Prop :=
  (∀ (s : State) (c : Chunk), let x := s.chan c.chan
    let plain := chunkCipher x.key (c.chan * 2 ^ 84 + c.ctr % 2 ^ 32) c.data
    let good := c.toHost = false ∧ c.data.length = 4096 ∧ Config.gcmTag x.key (c.chan * 2 ^ 84 + c.ctr % 2 ^ 32) c.addr plain = c.tag
    (s.channelLive c.chan = false → s.acceptChunk c = (s, none)) ∧
    (s.channelLive c.chan = true → good → c.ctr < 2 ^ 32 - 1 →
      s.acceptChunk c = ({ s with chans := Map.set s.chans c.chan { x with hctr := max x.hctr c.ctr } }, some plain)) ∧
    (s.channelLive c.chan = true → ¬ good → s.acceptChunk c =
      ({ s with chans := Map.set s.chans c.chan { x with ctrl := x.ctrl ||| 0x4000000000000000 } }, none))) ∧
  (∀ (s : State) (ch : Nat) (c : Chunk),
    (s.chanTenant ch = none ∨ c.chan ≠ ch → exec (.reportRequest ch c) s = .next s) ∧
    (s.chanTenant ch ≠ none → c.chan = ch →
      (∀ u, s.acceptChunk c = (u, none) → exec (.reportRequest ch c) s = .next u) ∧
      ∀ u plain, s.acceptChunk c = (u, some plain) → ∃ body sig : List Byte, body.length = 0x180 ∧
        (body.drop 0x128).take 32 = plain.take 32 ∧ (body.drop 0x28).take 32 = toBytes 32 (u.mr[0]).toNat ∧
        (∀ tenant, u.chanTenant ch = some tenant → (body.drop 0x150).take 2 = toBytes 2 tenant) ∧ sig.length = 7856 ∧
        exec (.reportRequest ch c) s =
          .next (({ u with reports := u.reports ++ [(ch, body ++ sig)] } : State).sendBytes ch (body ++ sig)))) ∧
  (∀ (s : State) (ch : Nat) (bs : List Byte), s.channelLive ch = true → (s.chan ch).dctr < 2 ^ 32 - 1 → bs ≠ [] → bs.length ≤ 4096 →
    let x := s.chan ch
    ∃ c : Chunk, c.chan = ch ∧ c.toHost = true ∧ c.ctr = x.dctr ∧
      c.data = chunkCipher x.key (ch * 2 ^ 84 + 2 ^ 32 + x.dctr) (bs ++ List.replicate (4096 - bs.length) 0) ∧
      s.sendBytes ch bs = { s with chanOut := s.chanOut ++ [c], chans := Map.set s.chans ch { x with dctr := x.dctr + 1 } }) ∧
  (∀ (s : State) (p : Nat) (image : List Byte) (version : Nat),
    let install := exec (.firmwareInstall p { image := image, version := version }) s
    (Config.firmwareSigned image version = false ∨ version < s.rollback ∨ s.live p ≠ [] → install = .next s) ∧
    (Config.firmwareSigned image version = true → s.rollback ≤ version → s.live p = [] →
      ∃ t, install = .next t ∧ t.mem = s.mem ∧ t.rollback = version ∧
        t.instMeas = digestOf image ∧ t.mr[2] = digestOf (toBytes 32 (s.mr[2]).toNat ++ toBytes 32 (digestOf image).toNat) ∧
        (∀ i : Fin 8, i ≠ 2 → t.mr[i] = s.mr[i]) ∧
        ∀ n k, Map.get? s.capsules n = some k → ∃ k', Map.get? t.capsules n = some k' ∧
          k'.void = (k.void || k.meas != digestOf image) ∧ k'.image = k.image)) ∧
  (∀ (s : State) (p ch : Nat) (cs : List Chunk),
    let asked := exec (.checkpoint p { chan := ch, request := cs }) s
    let goes := fun (u : State) (rs : List Nat) => (((u.checkpointOut p rs).foldl (fun t bs => t.sendBytes ch bs) u).setPart p
      { u.part p with checkpt := none })
    (s.asksFor p ch = false ∨ (∃ c, c ∈ cs ∧ c.chan ≠ ch) → asked = .next s) ∧
    (s.asksFor p ch = true → (∀ c, c ∈ cs → c.chan = ch) →
      (∀ u, s.acceptChunks cs = (u, none) → asked = .next u) ∧
      ∀ u plain, s.acceptChunks cs = (u, some plain) →
        let count := fieldAt plain 0 8
        let replicas := (List.range count).map (fun i => fieldAt plain (8 + 32 * i) 32)
        (65536 < count → asked = .next u) ∧
        (count ≤ 65536 → u.tenantLive (u.part p).tenant p = true →
          asked = .next (u.setPart p { u.part p with checkpt := some (ch, replicas) })) ∧
        (count ≤ 65536 → u.tenantLive (u.part p).tenant p = false → asked = .next (goes u replicas))) ∧
    ∀ rs, (s.part p).checkpt = some (ch, rs) →
      (s.asksFor p ch = true → s.tenantLive (s.part p).tenant p = false → execCheckpointGo p s = .next (goes s rs)) ∧
      (s.asksFor p ch = false ∨ s.tenantLive (s.part p).tenant p = true → execCheckpointGo p s = .next s)) ∧
  (∀ (s : State) (p ch : Nat) (cs index : List Chunk) (areas : List (List Chunk)),
    let asked := exec (.restore p { chan := ch, index := index, blocks := [cs], capsules := [], areas := areas }) s
    let ready := s.asksFor p ch = true ∧ ∀ r, r < 40 → s.tenantLive (s.part p).tenant r = false
    (¬ ready ∨ (∃ c, c ∈ index ∧ c.chan ≠ ch) → asked = .next s) ∧
    (ready → (∀ c, c ∈ index → c.chan = ch) →
      (∀ u, s.acceptChunks index = (u, none) → asked = .next u) ∧
      ∀ u plain, s.acceptChunks index = (u, some plain) → fieldAt plain 0 8 = 1 →
        let w := fieldAt plain 8 8
        asked = .next (u.putBlocks p { chan := ch, map := [], blocks := [], areas := areas } [(w / 2 ^ 48, w % 2 ^ 48, cs)]))) ∧
  (∀ (s : State) (p : Nat) (r : Restore),
    let ends := fun (u : State) => ({ u with restores := Map.drop u.restores p } : State)
    (Map.get? s.restores p = some r →
      (s.asksFor p r.chan = false → execRestoreGo p s = .next (ends s)) ∧
      (s.asksFor p r.chan = true → (∃ q, q < 40 ∧ s.tenantLive (s.part p).tenant q = true) → execRestoreGo p s = .next s) ∧
      (s.asksFor p r.chan = true → s.restoreDue p r = true → execRestoreGo p s = .next (s.putBlocks p r r.blocks))) ∧
    (r.areas = [] → s.putBlocks p r [] = ends s) ∧
    ∀ asid va cs more, let here := (s.contextsIn p).find? (fun q => q.2.info.asid == asid)
      let out := s.putBlocks p r ((asid, va, cs) :: more)
      (here = none → out = ends s) ∧
      ∀ q, here = some q →
        ((∀ e pa blk, s.walk q.2.info va = .leaf e pa blk → peHost e = true) →
          out = { s with restores := Map.set s.restores p { r with blocks := (asid, va, cs) :: more } }) ∧
        ∀ e pa blk, s.walk q.2.info va = .leaf e pa blk → peHost e = false →
          ((∃ c, c ∈ cs ∧ c.chan ≠ r.chan) → out = ends s) ∧
          ((∀ c, c ∈ cs → c.chan = r.chan) →
            (∀ u, s.acceptChunks cs = (u, none) → out = ends u) ∧
            ∀ u d, s.acceptChunks cs = (u, some d) → 66048 ≤ d.length → (d.drop 65536).take 512 = List.replicate 512 0 →
              out = (u.writeBytes q.2.info.keyId (pa - pa % 65536) (d.take 65536)).putBlocks p r more)) ∧
  (∀ (s : State) (c a n sect off : Nat) (k : Capsule) (halves : List Half),
    (codeBase ≤ a → n = (a - codeBase) / 2 ^ 32 % 4096 → Map.get? s.capsules n = some k → k.ctx = c → k.breaks = [] →
      let start := isStart (k.chains (a / 2 ^ 28 % 16)) (a % 2 ^ 28)
      exec (.contrailBreakpoint c a) s = .next (if start = true then { s with
        capsules := Map.set s.capsules n { k with breaks := [(a / 2 ^ 28 % 16, a % 2 ^ 28)] } } else s)) ∧
    (Map.get? s.capsules n = some k →
      let refused := fun (code : Nat) => exec (.contrailPatch n sect off halves) s = .next { s with refused := s.refused ++ [(n, code)] }
      (s.heldFor k = false → exec (.contrailPatch n sect off halves) s = .next s) ∧
      (s.heldFor k = true → s.capsuleRuns n = true → ∃ code, code < 2 ^ 16 ∧ refused code) ∧
      (s.heldFor k = true → s.capsuleRuns n = false →
        (∀ code, s.patched n k sect off halves = .error code → refused code) ∧
        ∀ o, s.patched n k sect off halves = .ok o → ∃ k' : Capsule, k'.void = !Config.bodyRoom s.tick ∧ k'.image = o.data ∧
          k'.ctx = k.ctx ∧ k'.handlers = k.handlers ∧ exec (.contrailPatch n sect off halves) s =
            .next { s with capsules := Map.set s.capsules n k' }))) ∧
  (∀ (s : State) (n c : Nat) (k : SetId) (i : BitVec 5) (j : BitVec 4) (w : Word) (v : BitVec 128) (auth : Chunk),
    s.resident n c = true →
    let x := s.tctxOf n c
    let r := x.regs k
    (chCtx (s.chan auth.chan).ctrl ≠ c → exec (.contrailAccess n c k (.hold auth)) s = .next s) ∧
    (∀ u, chCtx (s.chan auth.chan).ctrl = c → s.acceptChunk auth = (u, none) →
      exec (.contrailAccess n c k (.hold auth)) s = .next u) ∧
    (∀ u plain, chCtx (s.chan auth.chan).ctrl = c → s.acceptChunk auth = (u, some plain) →
      exec (.contrailAccess n c k (.hold auth)) s = .next (u.setTctxOf n c { u.tctxOf n c with dbg := true })) ∧
    exec (.contrailAccess n c k .release) s = .next (s.setTctxOf n c { x with dbg := false }) ∧
    exec (.contrailAccess n c k .read) s = .next s ∧
    (x.dbg = false ∨ s.inHand n c k = false → exec (.contrailAccess n c k (.setS i w)) s = .next s ∧
      exec (.contrailAccess n c k (.setC j v)) s = .next s) ∧
    (x.dbg = true → k ≠ .keeper → r.fir.isSome = true → (r.debugStop = true ∨ (s.tile n).loaded ≠ some c) →
      exec (.contrailAccess n c k (.setS i w)) s = .next (s.setTctxOf n c (x.setRegs k (r.setS i w))) ∧
      exec (.contrailAccess n c k (.setC j v)) s = .next (s.setTctxOf n c (x.setRegs k (r.setC j { tag := false, bits := v }))) ∧
      ∀ off, ∃ t, exec (.contrailAccess n c k (.setPc off)) s = .next t ∧ t.mem = s.mem ∧ t.tctxOf n c =
        (if isStart (s.chainsAt r.pcc.addr) off = true ∧ off ≠ portable r.pcc.addr then x.setRegs k { r with
          pcc := r.pcc.withAddr (BitVec.ofNat 64 (sectionBase r.pcc.addr + off)), rcnt := { done := 0, remain := 0 }
          brkPassed := false, moved := true } else x)) ∧
    (∀ q : Solve, x.dbg = true → (s.tile n).loaded ≠ some c → exec (.contrailAccess n c k (.setSolve q)) s =
      .next (s.setTctxOf n c { x with solve := { q with
        tileCap := q.tileCap.withTag false, histCap := q.histCap.withTag false } })) ∧
    (∀ serial prio y f, x.dbg = true → x.saved = [(prio, y)] → y.fir = some f → f.serial = serial →
      ∃ t, exec (.contrailAccess n c k (.saved serial (.setS i w))) s = .next t ∧ t.mem = s.mem ∧
        t.tctxOf n c = { x with saved := [(prio, y.setS i w)] }) ∧
    ((s.tile n).loaded = some c → k ≠ .keeper → r.debugStop = true → r.brkPassed = false → exec (.contrailRelease n k) s =
      .next (s.setTctxOf n c (x.setRegs k { r with debugStop := false, brkPassed := true })))) ∧
  (∀ (s : State) (a : Nat), a < 40 * quadBytes → s.wordCtx a = none → s.wiped = [] → s.checks = [] →
    (s.etail + 1) % 256 ≠ s.ehead →
    let word := a - a % 64
    let e := fun (cls syn : Nat) => ({ cls := cls, unit := 0x09, part := a / quadBytes, who := 0, syn := syn, addr := a,
                                       frame := a / 65536, pc := 0 } : ErrRec)
    let rec_ := fun (cls syn : Nat) (t : State) =>
      ({ t with ering := Map.set s.ering s.etail (e cls syn), etail := (s.etail + 1) % 256 } : State)
    exec (.patrolRead a .corrected) s = .next (rec_ 0x10 2 s) ∧
    exec (.patrolRead a .found) s = .next (rec_ 0x11 3 { s with poison := Keys.insert s.poison word }) ∧
    exec (.patrolRead a .latent) s = .next { s with poison := Keys.insert s.poison word } ∧
    (s.poison = [] → exec (.machineCheck a) s = .next s) ∧
    (s.poison = [word] → s.firingsAt a = [] → exec (.machineCheck a) s = .next (rec_ 0x11 3 s))) ∧
  (∀ (s : State) (c n off : Nat), c < 4096 → n < 4096 → off < 2 ^ 18 → s.checks = [] →
    let key := keyScratch c n off
    let w := s.recordAt 0x11 (uncorrected key) key
    s.poison = [key - off % 16] →
      (s.firingsAt key = [] → exec (.machineCheck key) s = .next w) ∧
      ∀ l m, s.firingsAt key = [l] → m ∈ (s.tctxOf l.tile l.ctx).live l.tile l.ctx → m.f.serial = l.f.serial →
        exec (.machineCheck key) s = .next (w.terminateFiring l Code.dataUnc)) ∧
  (∀ s : State, ∃ t, exec .coldReset s = .next t ∧ t.contexts = [] ∧ t.capsules = [] ∧ t.tiles = [] ∧ t.launches = [] ∧ t.queues = [] ∧
    t.tags = [] ∧ t.poison = [] ∧ t.rollback = s.rollback ∧ t.status = { ready := false, fail := false, fstage := 0, stage := 1 } ∧
    (s.memWf → t.memWf ∧ ∀ a, Memory.read t.mem a = if a / 2 ^ 64 = 1 then Memory.read s.mem a else 0)) ∧
  (∀ s : State, let k := s.status.stage
    let takes := fun (r v : Nat) (image : List Byte) => Config.firmwareSigned image v = true ∧ r ≤ v
    let boot := takes s.rollback Config.bootVersion Config.bootImage
    let inst := takes s.rollback Config.installerVersion Config.installerImage
    let passes := Config.bringUpFails s.tick ≠ k ∧ (k = 1 → boot ∧ takes Config.bootVersion Config.haloVersion Config.haloImage) ∧
      (k = 6 → inst ∧ takes Config.installerVersion Config.servicesVersion Config.servicesImage)
    let extended := fun (t : State) (i : Fin 8) (d : BitVec 256) =>
      t.mr[i] = digestOf (toBytes 32 (s.mr[i]).toNat ++ toBytes 32 d.toNat)
    (s.status.ready = true ∨ s.status.fail = true → execBringUp s = .next s) ∧
    (s.status.ready = false → s.status.fail = false → 1 ≤ k → k ≤ 7 → ∃ t, execBringUp s = .next t ∧
      (¬ passes → t.status = { ready := false, fail := true, fstage := k, stage := k }) ∧
      (passes → k < 7 → t.status = { ready := false, fail := false, fstage := 0, stage := k + 1 }) ∧
      (passes → k = 7 → t.status = { ready := true, fail := false, fstage := 0, stage := 8 }) ∧
      (k = 1 → t.ephemeral = Config.freeNat s.tick ∧ t.mem = s.mem ∧ (¬ boot → t.rollback = s.rollback) ∧
        (boot → t.rollback = Config.bootVersion ∨ t.rollback = Config.haloVersion) ∧
        (passes → t.rollback = Config.haloVersion ∧ extended t 0 (digestOf Config.bootImage) ∧ extended t 1 (digestOf Config.haloImage))) ∧
      (k = 5 → t.tags = [] ∧ t.painted = [] ∧
        (s.memWf → t.memWf ∧ ∀ a, Memory.read t.mem a = if a / 2 ^ 64 = 1 then Memory.read s.mem a else 0)) ∧
      (k = 6 → passes → t.rollback = Config.servicesVersion ∧ t.instMeas = digestOf Config.installerImage ∧
        extended t 2 (digestOf Config.installerImage) ∧ extended t 3 (digestOf Config.servicesImage))))

/-! ## Every chain -/

/-- R10, R36, R44, R50, R90, R256, R275: what comes before a chain's own effect, and what its settle bit does after it: the
token wait, CP.STOP, the count and the range check of a repeat prefix, and the privilege check.
That a waiting chain is tested again is the model's (log 20). -/
def Obligations.WaitsAndRepeats : Prop :=
  (∀ (s : State) (m : BitVec 8),
    (s.reg.tokensIdle m = true ↔ ∀ j : BitVec 3, m.getLsbD j.toNat = true → (s.reg.token j).cnt = 0) ∧
    (s.reg.tokensStopped m = true ↔ ∃ j : BitVec 3, m.getLsbD j.toNat = true ∧ (s.reg.token j).stat ≠ 0)) ∧
  (∀ (p : Pfx) (d a : BitVec 5) (c e : BitVec 4) (h k : BitVec 3) (m : MemOp) (off : BitVec 10) (s : State) (x : Instr),
    x ∈ ([.add p d a, .mul p d a, .cmpi p d a, .clz p d, .loop p d a, .b p off, .beq p off, .call p c e, .jmp p c,
          .cMv p c e, .cSetb p c a, .cInv p c e, .cLd p c m, .cPaint p c a, .ldW p d m, .stD p d m, .vLd p d m, .vSct p d m,
          .kSt p h m, .wsQ p d m, .amAdd p d m, .amUpdOr p d m, .swWait p d m, .barArv p d a, .mbPut p d a, .fence p d a,
          .vAdd p d a, .vMul p d a, .vFeq p d a, .kAnd p h k, .vRsum p d a, .vPerm p d a, .t8Ld p m, .kPop p d h,
          .mLds p d m, .mSwap p, .mDrain p, .mQ p d, .endF p, .send p d a, .fork p d a, .yield p, .hEn p a, .inPop p d a,
          .cp p c e, .cpTry p c e, .slvBegin p c e, .slvEnd p, .rsr p d a, .wsr p d a, .kcallSliceEnd p a, .kcallOther p a,
          .tret p, .tretSkip p, .cslInst p c e, .cslBind p c e, .pairOn p d a, .brk p a, .ctxSv p c, .accLd p c,
          .idle p] : List Instr) →
      (s.reg.tokensIdle p.tokens = false → exec x s = .next s.held) ∧
      (s.reg.tokensIdle p.tokens = true → s.reg.tokensStopped p.tokens = true →
        exec x s = .next (s.raise Code.cpStop 0))) ∧
  (∀ (p : Pfx) (q : RepPfx) (d a : BitVec 5) (paged : Bool) (s : State) (x : Instr), p.rep = some q → s.free p →
    (paged = false ∧ x ∈ ([.mv p d a, .add p d a, .mul p d a, .div p d a, .shl p d a, .cmp p d a] : List Instr)) ∨
    (paged = true ∧ x ∈ ([.vMv p d a, .vAdd p d a, .vFma p d a, .vIadd p d a, .vRcp p d a, .vRsum p d a] : List Instr)) →
    let n := if s.reg.rcnt.remain = 0 then s.reg.repCount q.count else s.reg.rcnt.done.toNat + s.reg.rcnt.remain.toNat
    (n = 0 → exec x s = .next (s.past p paged)) ∧
    (65535 < n ∨ (q.step1 = true ∧ 32 < d.toNat + n) ∨ (q.step2 = true ∧ 32 < a.toNat + n) →
      exec x s = .next (s.raise Code.repRange 0))) ∧
  (∀ (s : State) (p : Pfx) (paged : Bool), (s.past p paged).reg.parked = (p.settle && !s.reg.pending.isEmpty) ∧
    (s.reg.parked = true → s.canIssue s.cur = false)) ∧
  (∀ (p : Pfx) (d a : BitVec 5) (c : BitVec 4) (m : MemOp) (s : State) (x : Instr), s.free p →
    (s.priv ≠ .keeper → x ∈ ([.cPaint p c a, .cSweep p d a, .cSweepq p d a, .ctxSv p c, .ctxLd p c a, .accSv p c,
      .accLd p c, .pairOn p d a, .pairOff p d, .idle p] : List Instr) → exec x s = .next (s.raise Code.kprPriv 0)) ∧
    (s.priv = .user → x ∈ ([.amUpdAdd p d m, .amUpdOr p d m, .amUpdAnd p d m, .amUpdXor p d m, .amUpdMin p d m,
      .amUpdMax p d m, .amUpdFadd p d m, .cpRsm p d a] : List Instr) → exec x s = .next (s.raise Code.kprPriv 0)))

/-- R112, R264 to R267, R278, R287: what a fault saves and where it goes, what makes it terminal, the two returns, and `brk`.
That `brk` of Halo's own traps (log 24), that the table issued last stays where two sets load one (log 21), and that a terminal fault of
Halo's own state, which is no firing, makes its program counter null (log 24), are the model's choices. -/
def Obligations.TrapEntryAndReturn : Prop :=
  (∀ (s : State) (i : BitVec 5) (j : BitVec 4) (h : BitVec 3) (w m : Word) (x : Cap) (v : VReg) (l : List (BitVec 19)) (bs : List Nat)
      (n : Nat), let returns := fun (r : Result) => s.applyResult { res := r, banks := bs, stamp := n }
    returns (.s i w) = s.setS i w ∧ returns (.c j x) = s.setC j (s.filterCap s.ctxn x) ∧ returns (.v i m v) = s.setLanes i m v ∧
    returns (.k h w) = s.setK h w ∧
    returns (.table l) = s.setTctx { s.tctx with
      table := l, normal := s.tctx.normal.passTables n, urgent := s.tctx.urgent.passTables n }) ∧
  (∀ s : State, s.applyAll [] = s ∧ (∀ q qs, s.applyAll (q :: qs) = (s.applyResult q).applyAll qs) ∧
    let t := s.applyAll s.reg.pending
    s.drain = t.setReg { t.reg with pending := [], parked := false }) ∧
  (∀ (s : State) (code : BitVec 16) (ta : Word),
    let t := (s.setReg { s.reg with fcode := code, taddr := ta }).drain
    (t.reg.inTrap = false → t.tvec.tag = true → s.raise code ta = t.setReg { t.reg with
      epcc := t.reg.pcc, savedLoops := t.reg.loops, loops := [], inTrap := true, waiting := false
      pcc := t.tvec.withOtype 0 }) ∧
    (∀ f, t.reg.fir = some f → t.reg.inTrap = true ∨ t.tvec.tag = false →
      s.raise code ta = t.setReg { t.reg with fir := some { f with term := some code }, waiting := false }) ∧
    (t.reg.fir = none → t.reg.inTrap = true ∨ t.tvec.tag = false →
      s.raise code ta = t.setReg { t.reg with pcc := Cap.null, waiting := false }) ∧
    (s.raise code ta).reg.pending = [] ∧ (s.raise code ta).reg.fcode = code ∧ (s.raise code ta).reg.taddr = ta ∧
    (s.raise code ta).mem = s.mem) ∧
  (∀ (s : State) (p : Pfx), s.free p →
    (s.reg.inTrap = false → exec (.tret p) s = .next (s.raise Code.kprState 0) ∧
      exec (.tretSkip p) s = .next (s.raise Code.kprState 0)) ∧
    (s.reg.inTrap = true →
      let t := s.drain
      let r := { t.reg with loops := t.reg.savedLoops, inTrap := false, pcc := t.reg.epcc, waiting := false }
      exec (.tret p) s = .next (t.setReg r) ∧
      ∀ n sec i rest, s.sectionAt s.reg.epcc.addr = some (n, sec) →
        decode (sec.code.drop (portable s.reg.epcc.addr / 2)) = .ok (i, rest) →
        let len := 2 * (sec.code.length - portable s.reg.epcc.addr / 2 - rest.length)
        exec (.tretSkip p) s = .next (t.setReg (RegSet.fallThrough { r with rcnt := { done := 0, remain := 0 } } len)))) ∧
  (∀ (s : State) (p : Pfx) (i : BitVec 5), s.free p →
    (s.tctx.dbg = false ∨ s.cur.set = .keeper → exec (.brk p i) s = .next (s.raise Code.kprBrk (BitVec.ofNat 64 (p.immI i).toNat))) ∧
    (s.tctx.dbg = true → s.cur.set ≠ .keeper → ∃ t, exec (.brk p i) s = .next t ∧ t.mem = s.mem ∧ t.reg.pcc = s.reg.pcc ∧ t.reg.s = s.reg.s ∧
      t.reg.taddr = BitVec.ofNat 64 (p.immI i).toNat ∧ (t.tile s.cur.tile).idle = false ∧
      t.reg.c = s.reg.c ∧ t.canIssue t.cur = false ∧
      exec (.contrailRelease s.cur.tile s.cur.set) t = .next (t.setReg { t.reg.fallThrough (t.chainLen t.reg.pcc.addr) with
          debugStop := false, brkPassed := false, rcnt := { done := 0, remain := 0 } })))

/-- R23, R138: s0, c0 and k0 have fixed values and discard writes; every other register holds what was last written to it,
and a write of one changes no other. -/
def Obligations.HardWiredRegisters : Prop :=
  (∀ (s : State) (w : Word) (x : Cap), s.s 0 = 0 ∧ s.c 0 = Cap.null ∧ s.k 0 = BitVec.allOnes 64 ∧
    (s.setS 0 w).reg = s.reg ∧ (s.setC 0 x).reg = s.reg ∧ (s.setK 0 w).reg = s.reg) ∧
  (∀ (s : State) (i j : BitVec 5) (w : Word), i ≠ 0 → (s.setS i w).s i = w ∧ (j ≠ i → (s.setS i w).s j = s.s j)) ∧
  (∀ (s : State) (i j : BitVec 4) (x : Cap), i ≠ 0 → (s.setC i x).c i = x ∧ (j ≠ i → (s.setC i x).c j = s.c j)) ∧
  (∀ (s : State) (i j : BitVec 3) (w : Word), i ≠ 0 → (s.setK i w).k i = w ∧ (j ≠ i → (s.setK i w).k j = s.k j)) ∧
  (∀ (s : State) (i j : BitVec 5) (x : VReg), (s.setV i x).v i = x ∧ (j ≠ i → (s.setV i x).v j = s.v j)) ∧
  (∀ (s : State) (p : Pfx) (a : BitVec 5) (e : BitVec 4), s.free p → p.rep = none →
    (∃ t, exec (.add p 0 a) s = .next t ∧ t.reg = (s.past p false).reg) ∧
    (∃ t, exec (.cMv p 0 e) s = .next t ∧ t.reg = (s.past p true).reg) ∧
    (∃ t, exec (.kAnd p 0 0) s = .next t ∧ t.reg = (s.past p true).reg))

/-! ## The whole machine -/

/-- R24, R172, R220, R226, R238, R279, R280, R289, R342, R360, R393: what cold reset and the registration of a context leave,
and that the first step from reset begins bring-up, in whose seventh step and after it Halo runs on every tile. Registers that the manual gives no reset
value are not named here.
The model's own choices (log 12) are not named. -/
def Obligations.ResetState : Prop :=
  (State.reset.memWf ∧ State.reset.mem = [] ∧ State.reset.tags = [] ∧ State.reset.contexts = [] ∧ State.reset.capsules = [] ∧
    State.reset.clk = 0 ∧ State.reset.status = { ready := false, fail := false, fstage := 0, stage := 0 }) ∧
  (∃ t, step State.reset = .next t ∧ t.mem = [] ∧ t.status = { ready := false, fail := false, fstage := 0, stage := 1 }) ∧
  (∀ (s : State) (n : Nat), s.haloRuns n = true ↔ s.tileExists n = true ∧ 7 ≤ s.status.stage) ∧
  (∀ n, let t := State.reset.tile n
    t.loaded = none ∧ t.accown = 0 ∧ t.horizon = 0 ∧ t.matrix.empty = true ∧ t.matrix.acc = [] ∧ t.matrix.queue = [] ∧
    t.torcfg = ownTorcfg n) ∧
  (∀ p i, p < 40 → i < 64 → let w := ownTorcfg (partTile p i)
    (w.extractLsb' 0 4).toNat = i % 8 ∧ (w.extractLsb' 4 4).toNat = i / 8 ∧ w.extractLsb' 18 2 = 0 ∧
    (w.extractLsb' 24 12).toNat = partTile p (i / 8 * 8 + (i % 8 + 7) % 8) ∧
    (w.extractLsb' 36 12).toNat = partTile p ((i / 8 + 7) % 8 * 8 + i % 8)) ∧
  (∀ p, let q := State.reset.part p
    q.st = .free ∧ q.world = false ∧ q.shape = 0 ∧ q.fbase = p ∧ q.tenant = 0 ∧ q.floor = 0 ∧ q.quar = []) ∧
  (∀ n, (State.reset.cluster n).counters = [] ∧ (State.reset.cluster n).barriers = []) ∧
  (∀ k : SetId, let r := TileCtx.reset.regs k
    (∀ i, r.getS i = 0) ∧ (∀ i, r.getC i = Cap.null) ∧ (∀ i, r.getV i = Vector.replicate 64 0) ∧
    (∀ i, i ≠ 0 → r.getK i = 0) ∧ r.loops = [] ∧ r.rcnt = { done := 0, remain := 0 } ∧ r.fcode = 0 ∧ r.fmask = 0 ∧
    r.pcc = Cap.null ∧ r.epcc = Cap.null ∧ r.inTrap = false ∧ ∀ i, r.token i = { cnt := 0, stat := 0 }) ∧
  (let v := TileCtx.reset.solve
   v.tol = 0 ∧ v.itceil = 0 ∧ v.slvk = 0 ∧ v.damp = 0 ∧ v.lambda = 0 ∧ v.active = false ∧
   TileCtx.reset.bankfmt = Vector.replicate 8 0 ∧ TileCtx.reset.table = tableE4)

/-- R28, R36, R39, R91, R107, R265, R319, R322, R380, R393: a step performs what the outside has brought, else the chain at the program
counter of the set whose turn it is; and the faults of the fetch, in their order. TIME moves on first. Before READY and after FAIL the
device takes nothing from outside but a cold reset and the host's accesses to its memory.
That chains and events take turns is the model's (log 1), and how errors of registers and lanes are told (log 86); what a chain or an
event does at its turn is not. -/
def Obligations.StepRunsDecodedInstruction : Prop :=
  (∀ (s : State) (i : Instr) (rest : List Instr), s.agenda = i :: rest →
    (s.status.ready = true ∨ i = .coldReset ∨ (∃ a acc, i = .hostMemAccess a acc) →
      step s = exec i { s.advance with agenda := rest }) ∧
    (s.status.ready = false → i ≠ .coldReset → (∀ a acc, i ≠ .hostMemAccess a acc) →
      step s = .next { s.advance with agenda := rest })) ∧
  (∀ s : State, s.clk < s.advance.clk ∧ s.advance.reg = s.reg ∧ s.advance.mem = s.mem) ∧
  (∀ (s : State) (i : Instr), s.badOperand i ≠ none → ∃ j k, j ∈ s.reg.bad ∧ s.badOperand i = some (k, j) ∧
    s.reg.tokensIdle (prefixesOf i).1.tokens = true ∧ s.reg.tokensStopped (prefixesOf i).1.tokens = false) ∧
  (∀ (s : State) (i : Instr) (k j : Nat) (f : Firing), s.cur.set ≠ .keeper → s.isPager s.cur.tile s.ctxn = false → s.fir = some f →
    f.pinned = true → s.badChain i k j = (s.setReg { s.reg with rcnt := if (prefixesOf i).1.rep = none then s.reg.rcnt else
      { done := BitVec.ofNat 16 k, remain := BitVec.ofNat 16 (s.reg.elements (prefixesOf i).1 - k) } }).raise Code.dataUnc
        (BitVec.ofNat 64 noAddr)) ∧
  (∀ s : State, let t := s.advance
    s.agenda = [] → s.turn = true → t.canIssue s.cur = true → s.partner s.cur.tile = none →
    let r := s.reg
    let a := r.pcc.addr
    let fails := fun code => step s = .next { t.raise code r.pcc.addrW with turn := false }
    (r.pcc.tag = false → fails Code.capTag) ∧
    (r.pcc.tag = true → r.pcc.otype ≠ 0 → fails Code.capSeal) ∧
    (r.pcc.tag = true → r.pcc.otype = 0 → r.pcc.perms.getLsbD 2 = false → fails Code.capPerm) ∧
    (r.pcc.tag = true → r.pcc.otype = 0 → r.pcc.perms.getLsbD 2 = true →
      (a < r.pcc.base ∨ r.pcc.top < a + 2 ∨ s.sectionAt a = none → fails Code.capBound) ∧
      ∀ n sec k, r.pcc.base ≤ a → a + 2 ≤ r.pcc.top → s.sectionAt a = some (n, sec) → Map.get? s.capsules n = some k →
        (2 * sec.code.length ≤ portable a → fails Code.capBound) ∧
        (portable a < 2 * sec.code.length → k.void = true → fails Code.cslVoid) ∧
        (portable a < 2 * sec.code.length → k.void = false →
          let hs := sec.code.drop (portable a / 2)
          let stops := s.tctx.dbg = true ∧ r.brkPassed = false ∧ r.begun hs = false ∧ (a / 2 ^ 28 % 16, portable a) ∈ k.breaks
          (stops → ∃ u, step s = .next u ∧ u.mem = s.mem ∧ u.reg = { r with debugStop := true, waiting := false } ∧
            (u.tile s.cur.tile).idle = false) ∧
          (¬ stops → ∀ i rest, decode hs = .ok (i, rest) →
            (t.badOperand i = none →
              step s = exec i { t.setReg { r with brkPassed := false, moved := false } with turn := false }) ∧
            ∀ k j, t.badOperand i = some (k, j) → step s = .next { t.badChain i k j with turn := false }))))

/-- R34, R35, R53, R91: words of each page, written out from the manual's encodings, and what they decode to. -/
def Obligations.DecodedWords : Prop :=
  decode [0x6D04, 0x0501] = .ok (.add { Pfx.plain with
    rep := some { step1 := false, step2 := true, count := .imm 4 } } 8 1, []) ∧
  decode [0x7C07, 0x0000] = .ok (.endF Pfx.plain, []) ∧
  decode [0x8401] = .ok (.add { Pfx.plain with settle := true } 0 1, []) ∧
  decode [0x7C01, 0x0043] = .ok (.cMv Pfx.plain 2 3, []) ∧
  decode [0x7C0A, 0x0000] = .error .rsvPage ∧ decode [0x7C01] = .error .seqTrunc ∧ decode [0x7C01, 0x6800] = .error .rsvMajor

/-- R34, R35, R39, R43 to R49, R53, R54: decode and encode agree: every well-formed instruction is read back from its own words
with every operand and prefix, whatever follows it; and what is decoded is well-formed and takes what is not left. -/
def Obligations.DecodeEncodeRoundTrip : Prop :=
  (∀ (i : Instr) (rest : List Half), i.wf = true → decode (encode i ++ rest) = .ok (i, rest)) ∧
  (∀ (hs rest : List Half) (i : Instr), decode hs = .ok (i, rest) →
    i.wf = true ∧ ∃ ws, hs = ws ++ rest ∧ ws.length = (encode i).length)

/-- R2, R111: an invariant of every step: the memory keeps its one canonical form, whatever chain or event the step
performs. -/
def Obligations.StepKeepsMemoryForm : Prop :=
  ∀ s t : State, s.memWf → step s = .next t → t.memWf
end

