-- ==== Sys2Proof/Laws/Maps.lean ====
section
/-! SUPPORT. Laws/Maps.lean: a sparse map after a change; a memory list after a write: what it reads, and that it
stays in its one canonical form. -/

namespace Sys2Proof.Machine

/-! ## Sparse maps -/

@[simp] theorem Map.get?_nil {α : Type} (n : Nat) : Map.get? ([] : Map α) n = none := rfl

@[simp] theorem Map.get?_set_same {α : Type} (m : Map α) (n : Nat) (y : α) : Map.get? (Map.set m n y) n = some y := by
  induction m with
  | nil => simp [Map.set, Map.get?]
  | cons e m ih =>
    obtain ⟨k, x⟩ := e
    by_cases h1 : n < k
    · simp [Map.set, Map.get?, h1]
    · by_cases h2 : n = k
      · simp [Map.set, Map.get?, h2]
      · simp [Map.set, Map.get?, h1, h2, ih]

theorem Map.get?_set_other {α : Type} (m : Map α) (n j : Nat) (y : α) (h : j ≠ n) :
    Map.get? (Map.set m n y) j = Map.get? m j := by
  induction m with
  | nil => simp [Map.set, Map.get?, h]
  | cons e m ih =>
    obtain ⟨k, x⟩ := e
    by_cases h1 : n < k
    · simp [Map.set, Map.get?, h1, h]
    · by_cases h2 : n = k
      · subst h2; simp [Map.set, Map.get?, h]
      · simp only [Map.set, h1, h2, if_false, Map.get?, ih]

@[simp] theorem Map.get_set_same {α : Type} (m : Map α) (n : Nat) (y d : α) : Map.get (Map.set m n y) n d = y := by
  simp [Map.get]

theorem Map.get_set_other {α : Type} (m : Map α) (n j : Nat) (y d : α) (h : j ≠ n) :
    Map.get (Map.set m n y) j d = Map.get m j d := by
  simp [Map.get, Map.get?_set_other m n j y h]

/-- Only the last contents that a key was given stay. -/
@[simp] theorem Map.set_set {α : Type} (m : Map α) (n : Nat) (x y : α) :
    Map.set (Map.set m n x) n y = Map.set m n y := by
  induction m with
  | nil => simp [Map.set]
  | cons e m ih =>
    obtain ⟨k, z⟩ := e
    by_cases h1 : n < k
    · simp [Map.set, h1]
    · by_cases h2 : n = k
      · simp [Map.set, h2]
      · simp [Map.set, h1, h2, ih]

/-! ## The memory list -/

@[simp] theorem Memory.read_nil (a : Nat) : Memory.read [] a = unlisted := rfl

/-- A byte below every listed address is not listed. -/
theorem Memory.read_of_above (m : List (Nat × Byte)) (a : Nat) (h : Memory.above a m = true) (w : Memory.wf m = true) :
    Memory.read m a = unlisted := by
  induction m with
  | nil => rfl
  | cons e m ih =>
    obtain ⟨k, b⟩ := e
    simp only [Memory.above, decide_eq_true_eq] at h
    simp only [Memory.wf, Bool.and_eq_true] at w
    have hk : Memory.above a m = true := by
      cases m with
      | nil => rfl
      | cons e' m' =>
        obtain ⟨k', b'⟩ := e'
        have := w.1.1
        simp only [Memory.above, decide_eq_true_eq] at this ⊢
        omega
    have hne : a ≠ k := by omega
    simp [Memory.read, hne, ih hk w.2]

@[simp] theorem Memory.read_write_same (m : List (Nat × Byte)) (a : Nat) (v : Byte) (w : Memory.wf m = true) :
    Memory.read (Memory.write m a v) a = v := by
  induction m with
  | nil =>
    by_cases hv : v = unlisted
    · simp [Memory.write, hv]
    · simp [Memory.write, hv, Memory.read]
  | cons e m ih =>
    obtain ⟨k, b⟩ := e
    have wm : Memory.wf m = true := by
      simp only [Memory.wf, Bool.and_eq_true] at w; exact w.2
    have wk : Memory.above k m = true := by
      simp only [Memory.wf, Bool.and_eq_true] at w; exact w.1.1
    by_cases h1 : a < k
    · by_cases hv : v = unlisted
      · have : Memory.above a ((k, b) :: m) = true := by simp [Memory.above, h1]
        simp [Memory.write, h1, hv, Memory.read_of_above _ _ this w]
      · simp [Memory.write, h1, hv, Memory.read]
    · by_cases h2 : a = k
      · by_cases hv : v = unlisted
        · simp [Memory.write, h2, hv, Memory.read_of_above _ _ wk wm]
        · simp [Memory.write, h2, hv, Memory.read]
      · simp [Memory.write, h1, h2, Memory.read, ih wm]

theorem Memory.read_write_other (m : List (Nat × Byte)) (a c : Nat) (v : Byte) (h : c ≠ a) (w : Memory.wf m = true) :
    Memory.read (Memory.write m a v) c = Memory.read m c := by
  induction m with
  | nil =>
    by_cases hv : v = unlisted
    · simp [Memory.write, hv]
    · simp [Memory.write, hv, Memory.read, h]
  | cons e m ih =>
    obtain ⟨k, b⟩ := e
    have wm : Memory.wf m = true := by
      simp only [Memory.wf, Bool.and_eq_true] at w; exact w.2
    by_cases h1 : a < k
    · by_cases hv : v = unlisted
      · simp [Memory.write, h1, hv]
      · simp [Memory.write, h1, hv, Memory.read, h]
    · by_cases h2 : a = k
      · subst h2
        by_cases hv : v = unlisted
        · simp [Memory.write, hv, Memory.read, h]
        · simp [Memory.write, hv, Memory.read, h]
      · simp [Memory.write, h1, h2, Memory.read, ih wm]

/-- Everything below a written list stays below it, if it is below the written byte too. -/
theorem Memory.above_write (m : List (Nat × Byte)) (k a : Nat) (v : Byte) (h : Memory.above k m = true) (hk : k < a)
    (w : Memory.wf m = true) : Memory.above k (Memory.write m a v) = true := by
  cases m with
  | nil =>
    by_cases hv : v = unlisted
    · simp [Memory.write, hv, Memory.above]
    · simp [Memory.write, hv, Memory.above, hk]
  | cons e m =>
    obtain ⟨j, b⟩ := e
    simp only [Memory.above, decide_eq_true_eq] at h
    by_cases h1 : a < j
    · by_cases hv : v = unlisted
      · simp [Memory.write, h1, hv, Memory.above, h]
      · simp [Memory.write, h1, hv, Memory.above, hk]
    · by_cases h2 : a = j
      · by_cases hv : v = unlisted
        · subst h2
          simp only [Memory.write, hv, Nat.lt_irrefl, if_true, if_false]
          cases m with
          | nil => rfl
          | cons e' m' =>
            obtain ⟨k', b'⟩ := e'
            simp only [Memory.wf, Memory.above, Bool.and_eq_true, decide_eq_true_eq] at w ⊢
            omega
        · simp [Memory.write, h2, hv, Memory.above]; omega
      · simp [Memory.write, h1, h2, Memory.above, h]

/-- A write keeps the canonical form. -/
theorem Memory.wf_write (m : List (Nat × Byte)) (a : Nat) (v : Byte) (w : Memory.wf m = true) :
    Memory.wf (Memory.write m a v) = true := by
  induction m with
  | nil =>
    by_cases hv : v = unlisted
    · simp [Memory.write, hv, Memory.wf]
    · simp [Memory.write, hv, Memory.wf, Memory.above]
  | cons e m ih =>
    obtain ⟨k, b⟩ := e
    have w' := w
    simp only [Memory.wf, Bool.and_eq_true] at w'
    by_cases h1 : a < k
    · by_cases hv : v = unlisted
      · simp [Memory.write, h1, hv, w]
      · simp only [Memory.write, h1, hv, if_true, if_false, Memory.wf, Bool.and_eq_true]
        refine ⟨⟨?_, ?_⟩, ⟨w'.1, w'.2⟩⟩
        · simp [Memory.above, h1]
        · simp [hv]
    · by_cases h2 : a = k
      · by_cases hv : v = unlisted
        · simp [Memory.write, h2, hv, w'.2]
        · simp only [Memory.write, h2, hv, if_true, if_false, Nat.lt_irrefl, Memory.wf, Bool.and_eq_true]
          exact ⟨⟨w'.1.1, by simp [hv]⟩, w'.2⟩
      · simp only [Memory.write, h1, h2, if_false, Memory.wf, Bool.and_eq_true]
        exact ⟨⟨Memory.above_write m k a v w'.1.1 (by omega) w'.2, w'.1.2⟩, ih w'.2⟩

theorem Memory.wf_writeBytes (bs : List Byte) (m : List (Nat × Byte)) (a : Nat) (w : Memory.wf m = true) :
    Memory.wf (Memory.writeBytes m a bs) = true := by
  induction bs generalizing m a with
  | nil => exact w
  | cons b bs ih => exact ih (Memory.write m a b) (a + 1) (Memory.wf_write m a b w)

/-- A byte outside the written span reads as before. -/
theorem Memory.read_writeBytes_other (bs : List Byte) (m : List (Nat × Byte)) (a c : Nat) (w : Memory.wf m = true)
    (h : c < a ∨ a + bs.length ≤ c) : Memory.read (Memory.writeBytes m a bs) c = Memory.read m c := by
  induction bs generalizing m a with
  | nil => rfl
  | cons b bs ih =>
    have hl : (b :: bs).length = bs.length + 1 := rfl
    rw [Memory.writeBytes, ih (Memory.write m a b) (a + 1) (Memory.wf_write m a b w) (by omega),
      Memory.read_write_other m a c b (by omega) w]

/-- The written span reads as what was written. -/
theorem Memory.read_writeBytes_inside (bs : List Byte) (m : List (Nat × Byte)) (a i : Nat) (w : Memory.wf m = true)
    (h : i < bs.length) : Memory.read (Memory.writeBytes m a bs) (a + i) = bs[i] := by
  induction bs generalizing m a i with
  | nil => exact absurd h (Nat.not_lt_zero i)
  | cons b bs ih =>
    cases i with
    | zero =>
      simp only [Memory.writeBytes, Nat.add_zero, List.getElem_cons_zero]
      rw [Memory.read_writeBytes_other bs _ _ _ (Memory.wf_write m a b w) (by omega), Memory.read_write_same m a b w]
    | succ i =>
      have hi : i < bs.length := by simpa using h
      have := ih (Memory.write m a b) (a + 1) i (Memory.wf_write m a b w) hi
      simpa [Memory.writeBytes, Nat.add_assoc, Nat.add_comm 1 i] using this

/-- Leaving entries out keeps the canonical form. -/
theorem Memory.above_filter (f : Nat × Byte → Bool) (m : List (Nat × Byte)) (k : Nat) (h : Memory.above k m = true)
    (w : Memory.wf m = true) : Memory.above k (m.filter f) = true := by
  induction m with
  | nil => rfl
  | cons e m ih =>
    obtain ⟨j, b⟩ := e
    simp only [Memory.above, decide_eq_true_eq] at h
    simp only [Memory.wf, Bool.and_eq_true] at w
    by_cases hf : f (j, b) = true
    · simp [hf, Memory.above, h]
    · have hj : Memory.above k m = true := by
        cases m with
        | nil => rfl
        | cons e' m' =>
          obtain ⟨k', b'⟩ := e'
          have := w.1.1
          simp only [Memory.above, decide_eq_true_eq] at this ⊢
          omega
      simp [hf, ih hj w.2]

theorem Memory.wf_filter (f : Nat × Byte → Bool) (m : List (Nat × Byte)) (w : Memory.wf m = true) :
    Memory.wf (m.filter f) = true := by
  induction m with
  | nil => rfl
  | cons e m ih =>
    obtain ⟨k, b⟩ := e
    simp only [Memory.wf, Bool.and_eq_true] at w
    by_cases hf : f (k, b) = true
    · simp only [List.filter_cons, hf, if_true, Memory.wf, Bool.and_eq_true]
      exact ⟨⟨Memory.above_filter f m k w.1.1 w.2, w.1.2⟩, ih w.2⟩
    · simp only [List.filter_cons, hf]
      exact ih w.2

end Sys2Proof.Machine
end

