-- ==== Sys2Proof/Laws/State.lean ====
section
/-! SUPPORT. Laws/State.lean: what each named update of the state leaves in each field, so that no proof unfolds a record
update: one lemma per field per update, true by rfl, and the same for the register accessors built on them. -/

namespace Sys2Proof.Machine

/-! ## State.setMem -/

@[simp] theorem State.setMem_mem (s : State) (m : List Host.Cell) : (s.setMem m).mem = m := rfl
@[simp] theorem State.setMem_tags (s : State) (m : List Host.Cell) : (s.setMem m).tags = s.tags := rfl
@[simp] theorem State.setMem_poison (s : State) (m : List Host.Cell) : (s.setMem m).poison = s.poison := rfl
@[simp] theorem State.setMem_wiped (s : State) (m : List Host.Cell) : (s.setMem m).wiped = s.wiped := rfl
@[simp] theorem State.setMem_checks (s : State) (m : List Host.Cell) : (s.setMem m).checks = s.checks := rfl
@[simp] theorem State.setMem_painted (s : State) (m : List Host.Cell) : (s.setMem m).painted = s.painted := rfl
@[simp] theorem State.setMem_covers (s : State) (m : List Host.Cell) : (s.setMem m).covers = s.covers := rfl
@[simp] theorem State.setMem_narrowed (s : State) (m : List Host.Cell) : (s.setMem m).narrowed = s.narrowed := rfl
@[simp] theorem State.setMem_lineKeys (s : State) (m : List Host.Cell) : (s.setMem m).lineKeys = s.lineKeys := rfl
@[simp] theorem State.setMem_tiles (s : State) (m : List Host.Cell) : (s.setMem m).tiles = s.tiles := rfl
@[simp] theorem State.setMem_clusters (s : State) (m : List Host.Cell) : (s.setMem m).clusters = s.clusters := rfl
@[simp] theorem State.setMem_parts (s : State) (m : List Host.Cell) : (s.setMem m).parts = s.parts := rfl
@[simp] theorem State.setMem_contexts (s : State) (m : List Host.Cell) : (s.setMem m).contexts = s.contexts := rfl
@[simp] theorem State.setMem_capsules (s : State) (m : List Host.Cell) : (s.setMem m).capsules = s.capsules := rfl
@[simp] theorem State.setMem_binds (s : State) (m : List Host.Cell) : (s.setMem m).binds = s.binds := rfl
@[simp] theorem State.setMem_queues (s : State) (m : List Host.Cell) : (s.setMem m).queues = s.queues := rfl
@[simp] theorem State.setMem_hdm (s : State) (m : List Host.Cell) : (s.setMem m).hdm = s.hdm := rfl
@[simp] theorem State.setMem_hostReads (s : State) (m : List Host.Cell) : (s.setMem m).hostReads = s.hostReads := rfl
@[simp] theorem State.setMem_launches (s : State) (m : List Host.Cell) : (s.setMem m).launches = s.launches := rfl
@[simp] theorem State.setMem_doneLaunch (s : State) (m : List Host.Cell) : (s.setMem m).doneLaunch = s.doneLaunch := rfl
@[simp] theorem State.setMem_comps (s : State) (m : List Host.Cell) : (s.setMem m).comps = s.comps := rfl
@[simp] theorem State.setMem_waits (s : State) (m : List Host.Cell) : (s.setMem m).waits = s.waits := rfl
@[simp] theorem State.setMem_net (s : State) (m : List Host.Cell) : (s.setMem m).net = s.net := rfl
@[simp] theorem State.setMem_sweeps (s : State) (m : List Host.Cell) : (s.setMem m).sweeps = s.sweeps := rfl
@[simp] theorem State.setMem_lastEpoch (s : State) (m : List Host.Cell) : (s.setMem m).lastEpoch = s.lastEpoch := rfl
@[simp] theorem State.setMem_epochWrap (s : State) (m : List Host.Cell) : (s.setMem m).epochWrap = s.epochWrap := rfl
@[simp] theorem State.setMem_qnow (s : State) (m : List Host.Cell) : (s.setMem m).qnow = s.qnow := rfl
@[simp] theorem State.setMem_qdone (s : State) (m : List Host.Cell) : (s.setMem m).qdone = s.qdone := rfl
@[simp] theorem State.setMem_leases (s : State) (m : List Host.Cell) : (s.setMem m).leases = s.leases := rfl
@[simp] theorem State.setMem_refreshing (s : State) (m : List Host.Cell) : (s.setMem m).refreshing = s.refreshing := rfl
@[simp] theorem State.setMem_wins (s : State) (m : List Host.Cell) : (s.setMem m).wins = s.wins := rfl
@[simp] theorem State.setMem_exps (s : State) (m : List Host.Cell) : (s.setMem m).exps = s.exps := rfl
@[simp] theorem State.setMem_chans (s : State) (m : List Host.Cell) : (s.setMem m).chans = s.chans := rfl
@[simp] theorem State.setMem_keys (s : State) (m : List Host.Cell) : (s.setMem m).keys = s.keys := rfl
@[simp] theorem State.setMem_ephemeral (s : State) (m : List Host.Cell) : (s.setMem m).ephemeral = s.ephemeral := rfl
@[simp] theorem State.setMem_ports (s : State) (m : List Host.Cell) : (s.setMem m).ports = s.ports := rfl
@[simp] theorem State.setMem_posted (s : State) (m : List Host.Cell) : (s.setMem m).posted = s.posted := rfl
@[simp] theorem State.setMem_fabric (s : State) (m : List Host.Cell) : (s.setMem m).fabric = s.fabric := rfl
@[simp] theorem State.setMem_outbound (s : State) (m : List Host.Cell) : (s.setMem m).outbound = s.outbound := rfl
@[simp] theorem State.setMem_flushAcks (s : State) (m : List Host.Cell) : (s.setMem m).flushAcks = s.flushAcks := rfl
@[simp] theorem State.setMem_flushReqs (s : State) (m : List Host.Cell) : (s.setMem m).flushReqs = s.flushReqs := rfl
@[simp] theorem State.setMem_keyMat (s : State) (m : List Host.Cell) : (s.setMem m).keyMat = s.keyMat := rfl
@[simp] theorem State.setMem_reports (s : State) (m : List Host.Cell) : (s.setMem m).reports = s.reports := rfl
@[simp] theorem State.setMem_chanOut (s : State) (m : List Host.Cell) : (s.setMem m).chanOut = s.chanOut := rfl
@[simp] theorem State.setMem_fullRecs (s : State) (m : List Host.Cell) : (s.setMem m).fullRecs = s.fullRecs := rfl
@[simp] theorem State.setMem_events (s : State) (m : List Host.Cell) : (s.setMem m).events = s.events := rfl
@[simp] theorem State.setMem_refused (s : State) (m : List Host.Cell) : (s.setMem m).refused = s.refused := rfl
@[simp] theorem State.setMem_restores (s : State) (m : List Host.Cell) : (s.setMem m).restores = s.restores := rfl
@[simp] theorem State.setMem_mr (s : State) (m : List Host.Cell) : (s.setMem m).mr = s.mr := rfl
@[simp] theorem State.setMem_instMeas (s : State) (m : List Host.Cell) : (s.setMem m).instMeas = s.instMeas := rfl
@[simp] theorem State.setMem_rollback (s : State) (m : List Host.Cell) : (s.setMem m).rollback = s.rollback := rfl
@[simp] theorem State.setMem_fuses (s : State) (m : List Host.Cell) : (s.setMem m).fuses = s.fuses := rfl
@[simp] theorem State.setMem_absent (s : State) (m : List Host.Cell) : (s.setMem m).absent = s.absent := rfl
@[simp] theorem State.setMem_status (s : State) (m : List Host.Cell) : (s.setMem m).status = s.status := rfl
@[simp] theorem State.setMem_caps (s : State) (m : List Host.Cell) : (s.setMem m).caps = s.caps := rfl
@[simp] theorem State.setMem_ovf (s : State) (m : List Host.Cell) : (s.setMem m).ovf = s.ovf := rfl
@[simp] theorem State.setMem_ehead (s : State) (m : List Host.Cell) : (s.setMem m).ehead = s.ehead := rfl
@[simp] theorem State.setMem_etail (s : State) (m : List Host.Cell) : (s.setMem m).etail = s.etail := rfl
@[simp] theorem State.setMem_ering (s : State) (m : List Host.Cell) : (s.setMem m).ering = s.ering := rfl
@[simp] theorem State.setMem_phases (s : State) (m : List Host.Cell) : (s.setMem m).phases = s.phases := rfl
@[simp] theorem State.setMem_msix (s : State) (m : List Host.Cell) : (s.setMem m).msix = s.msix := rfl
@[simp] theorem State.setMem_clk (s : State) (m : List Host.Cell) : (s.setMem m).clk = s.clk := rfl
@[simp] theorem State.setMem_tick (s : State) (m : List Host.Cell) : (s.setMem m).tick = s.tick := rfl
@[simp] theorem State.setMem_agenda (s : State) (m : List Host.Cell) : (s.setMem m).agenda = s.agenda := rfl
@[simp] theorem State.setMem_cur (s : State) (m : List Host.Cell) : (s.setMem m).cur = s.cur := rfl
@[simp] theorem State.setMem_turn (s : State) (m : List Host.Cell) : (s.setMem m).turn = s.turn := rfl

/-! ## State.setTile -/

@[simp] theorem State.setTile_mem (s : State) (n : Nat) (t : Tile) : (s.setTile n t).mem = s.mem := rfl
@[simp] theorem State.setTile_tags (s : State) (n : Nat) (t : Tile) : (s.setTile n t).tags = s.tags := rfl
@[simp] theorem State.setTile_poison (s : State) (n : Nat) (t : Tile) : (s.setTile n t).poison = s.poison := rfl
@[simp] theorem State.setTile_wiped (s : State) (n : Nat) (t : Tile) : (s.setTile n t).wiped = s.wiped := rfl
@[simp] theorem State.setTile_checks (s : State) (n : Nat) (t : Tile) : (s.setTile n t).checks = s.checks := rfl
@[simp] theorem State.setTile_painted (s : State) (n : Nat) (t : Tile) : (s.setTile n t).painted = s.painted := rfl
@[simp] theorem State.setTile_covers (s : State) (n : Nat) (t : Tile) : (s.setTile n t).covers = s.covers := rfl
@[simp] theorem State.setTile_narrowed (s : State) (n : Nat) (t : Tile) : (s.setTile n t).narrowed = s.narrowed := rfl
@[simp] theorem State.setTile_lineKeys (s : State) (n : Nat) (t : Tile) : (s.setTile n t).lineKeys = s.lineKeys := rfl
@[simp] theorem State.setTile_tiles (s : State) (n : Nat) (t : Tile) : (s.setTile n t).tiles = Map.set s.tiles n t := rfl
@[simp] theorem State.setTile_clusters (s : State) (n : Nat) (t : Tile) : (s.setTile n t).clusters = s.clusters := rfl
@[simp] theorem State.setTile_parts (s : State) (n : Nat) (t : Tile) : (s.setTile n t).parts = s.parts := rfl
@[simp] theorem State.setTile_contexts (s : State) (n : Nat) (t : Tile) : (s.setTile n t).contexts = s.contexts := rfl
@[simp] theorem State.setTile_capsules (s : State) (n : Nat) (t : Tile) : (s.setTile n t).capsules = s.capsules := rfl
@[simp] theorem State.setTile_binds (s : State) (n : Nat) (t : Tile) : (s.setTile n t).binds = s.binds := rfl
@[simp] theorem State.setTile_queues (s : State) (n : Nat) (t : Tile) : (s.setTile n t).queues = s.queues := rfl
@[simp] theorem State.setTile_hdm (s : State) (n : Nat) (t : Tile) : (s.setTile n t).hdm = s.hdm := rfl
@[simp] theorem State.setTile_hostReads (s : State) (n : Nat) (t : Tile) : (s.setTile n t).hostReads = s.hostReads := rfl
@[simp] theorem State.setTile_launches (s : State) (n : Nat) (t : Tile) : (s.setTile n t).launches = s.launches := rfl
@[simp] theorem State.setTile_doneLaunch (s : State) (n : Nat) (t : Tile) : (s.setTile n t).doneLaunch = s.doneLaunch := rfl
@[simp] theorem State.setTile_comps (s : State) (n : Nat) (t : Tile) : (s.setTile n t).comps = s.comps := rfl
@[simp] theorem State.setTile_waits (s : State) (n : Nat) (t : Tile) : (s.setTile n t).waits = s.waits := rfl
@[simp] theorem State.setTile_net (s : State) (n : Nat) (t : Tile) : (s.setTile n t).net = s.net := rfl
@[simp] theorem State.setTile_sweeps (s : State) (n : Nat) (t : Tile) : (s.setTile n t).sweeps = s.sweeps := rfl
@[simp] theorem State.setTile_lastEpoch (s : State) (n : Nat) (t : Tile) : (s.setTile n t).lastEpoch = s.lastEpoch := rfl
@[simp] theorem State.setTile_epochWrap (s : State) (n : Nat) (t : Tile) : (s.setTile n t).epochWrap = s.epochWrap := rfl
@[simp] theorem State.setTile_qnow (s : State) (n : Nat) (t : Tile) : (s.setTile n t).qnow = s.qnow := rfl
@[simp] theorem State.setTile_qdone (s : State) (n : Nat) (t : Tile) : (s.setTile n t).qdone = s.qdone := rfl
@[simp] theorem State.setTile_leases (s : State) (n : Nat) (t : Tile) : (s.setTile n t).leases = s.leases := rfl
@[simp] theorem State.setTile_refreshing (s : State) (n : Nat) (t : Tile) : (s.setTile n t).refreshing = s.refreshing := rfl
@[simp] theorem State.setTile_wins (s : State) (n : Nat) (t : Tile) : (s.setTile n t).wins = s.wins := rfl
@[simp] theorem State.setTile_exps (s : State) (n : Nat) (t : Tile) : (s.setTile n t).exps = s.exps := rfl
@[simp] theorem State.setTile_chans (s : State) (n : Nat) (t : Tile) : (s.setTile n t).chans = s.chans := rfl
@[simp] theorem State.setTile_keys (s : State) (n : Nat) (t : Tile) : (s.setTile n t).keys = s.keys := rfl
@[simp] theorem State.setTile_ephemeral (s : State) (n : Nat) (t : Tile) : (s.setTile n t).ephemeral = s.ephemeral := rfl
@[simp] theorem State.setTile_ports (s : State) (n : Nat) (t : Tile) : (s.setTile n t).ports = s.ports := rfl
@[simp] theorem State.setTile_posted (s : State) (n : Nat) (t : Tile) : (s.setTile n t).posted = s.posted := rfl
@[simp] theorem State.setTile_fabric (s : State) (n : Nat) (t : Tile) : (s.setTile n t).fabric = s.fabric := rfl
@[simp] theorem State.setTile_outbound (s : State) (n : Nat) (t : Tile) : (s.setTile n t).outbound = s.outbound := rfl
@[simp] theorem State.setTile_flushAcks (s : State) (n : Nat) (t : Tile) : (s.setTile n t).flushAcks = s.flushAcks := rfl
@[simp] theorem State.setTile_flushReqs (s : State) (n : Nat) (t : Tile) : (s.setTile n t).flushReqs = s.flushReqs := rfl
@[simp] theorem State.setTile_keyMat (s : State) (n : Nat) (t : Tile) : (s.setTile n t).keyMat = s.keyMat := rfl
@[simp] theorem State.setTile_reports (s : State) (n : Nat) (t : Tile) : (s.setTile n t).reports = s.reports := rfl
@[simp] theorem State.setTile_chanOut (s : State) (n : Nat) (t : Tile) : (s.setTile n t).chanOut = s.chanOut := rfl
@[simp] theorem State.setTile_fullRecs (s : State) (n : Nat) (t : Tile) : (s.setTile n t).fullRecs = s.fullRecs := rfl
@[simp] theorem State.setTile_events (s : State) (n : Nat) (t : Tile) : (s.setTile n t).events = s.events := rfl
@[simp] theorem State.setTile_refused (s : State) (n : Nat) (t : Tile) : (s.setTile n t).refused = s.refused := rfl
@[simp] theorem State.setTile_restores (s : State) (n : Nat) (t : Tile) : (s.setTile n t).restores = s.restores := rfl
@[simp] theorem State.setTile_mr (s : State) (n : Nat) (t : Tile) : (s.setTile n t).mr = s.mr := rfl
@[simp] theorem State.setTile_instMeas (s : State) (n : Nat) (t : Tile) : (s.setTile n t).instMeas = s.instMeas := rfl
@[simp] theorem State.setTile_rollback (s : State) (n : Nat) (t : Tile) : (s.setTile n t).rollback = s.rollback := rfl
@[simp] theorem State.setTile_fuses (s : State) (n : Nat) (t : Tile) : (s.setTile n t).fuses = s.fuses := rfl
@[simp] theorem State.setTile_absent (s : State) (n : Nat) (t : Tile) : (s.setTile n t).absent = s.absent := rfl
@[simp] theorem State.setTile_status (s : State) (n : Nat) (t : Tile) : (s.setTile n t).status = s.status := rfl
@[simp] theorem State.setTile_caps (s : State) (n : Nat) (t : Tile) : (s.setTile n t).caps = s.caps := rfl
@[simp] theorem State.setTile_ovf (s : State) (n : Nat) (t : Tile) : (s.setTile n t).ovf = s.ovf := rfl
@[simp] theorem State.setTile_ehead (s : State) (n : Nat) (t : Tile) : (s.setTile n t).ehead = s.ehead := rfl
@[simp] theorem State.setTile_etail (s : State) (n : Nat) (t : Tile) : (s.setTile n t).etail = s.etail := rfl
@[simp] theorem State.setTile_ering (s : State) (n : Nat) (t : Tile) : (s.setTile n t).ering = s.ering := rfl
@[simp] theorem State.setTile_phases (s : State) (n : Nat) (t : Tile) : (s.setTile n t).phases = s.phases := rfl
@[simp] theorem State.setTile_msix (s : State) (n : Nat) (t : Tile) : (s.setTile n t).msix = s.msix := rfl
@[simp] theorem State.setTile_clk (s : State) (n : Nat) (t : Tile) : (s.setTile n t).clk = s.clk := rfl
@[simp] theorem State.setTile_tick (s : State) (n : Nat) (t : Tile) : (s.setTile n t).tick = s.tick := rfl
@[simp] theorem State.setTile_agenda (s : State) (n : Nat) (t : Tile) : (s.setTile n t).agenda = s.agenda := rfl
@[simp] theorem State.setTile_cur (s : State) (n : Nat) (t : Tile) : (s.setTile n t).cur = s.cur := rfl
@[simp] theorem State.setTile_turn (s : State) (n : Nat) (t : Tile) : (s.setTile n t).turn = s.turn := rfl

/-! ## State.setCluster -/

@[simp] theorem State.setCluster_mem (s : State) (n : Nat) (x : Cluster) : (s.setCluster n x).mem = s.mem := rfl
@[simp] theorem State.setCluster_tags (s : State) (n : Nat) (x : Cluster) : (s.setCluster n x).tags = s.tags := rfl
@[simp] theorem State.setCluster_poison (s : State) (n : Nat) (x : Cluster) : (s.setCluster n x).poison = s.poison := rfl
@[simp] theorem State.setCluster_wiped (s : State) (n : Nat) (x : Cluster) : (s.setCluster n x).wiped = s.wiped := rfl
@[simp] theorem State.setCluster_checks (s : State) (n : Nat) (x : Cluster) : (s.setCluster n x).checks = s.checks := rfl
@[simp] theorem State.setCluster_painted (s : State) (n : Nat) (x : Cluster) : (s.setCluster n x).painted = s.painted := rfl
@[simp] theorem State.setCluster_covers (s : State) (n : Nat) (x : Cluster) : (s.setCluster n x).covers = s.covers := rfl
@[simp] theorem State.setCluster_narrowed (s : State) (n : Nat) (x : Cluster) : (s.setCluster n x).narrowed = s.narrowed := rfl
@[simp] theorem State.setCluster_lineKeys (s : State) (n : Nat) (x : Cluster) : (s.setCluster n x).lineKeys = s.lineKeys := rfl
@[simp] theorem State.setCluster_tiles (s : State) (n : Nat) (x : Cluster) : (s.setCluster n x).tiles = s.tiles := rfl
@[simp] theorem State.setCluster_clusters (s : State) (n : Nat) (x : Cluster) : (s.setCluster n x).clusters = Map.set s.clusters n x := rfl
@[simp] theorem State.setCluster_parts (s : State) (n : Nat) (x : Cluster) : (s.setCluster n x).parts = s.parts := rfl
@[simp] theorem State.setCluster_contexts (s : State) (n : Nat) (x : Cluster) : (s.setCluster n x).contexts = s.contexts := rfl
@[simp] theorem State.setCluster_capsules (s : State) (n : Nat) (x : Cluster) : (s.setCluster n x).capsules = s.capsules := rfl
@[simp] theorem State.setCluster_binds (s : State) (n : Nat) (x : Cluster) : (s.setCluster n x).binds = s.binds := rfl
@[simp] theorem State.setCluster_queues (s : State) (n : Nat) (x : Cluster) : (s.setCluster n x).queues = s.queues := rfl
@[simp] theorem State.setCluster_hdm (s : State) (n : Nat) (x : Cluster) : (s.setCluster n x).hdm = s.hdm := rfl
@[simp] theorem State.setCluster_hostReads (s : State) (n : Nat) (x : Cluster) : (s.setCluster n x).hostReads = s.hostReads := rfl
@[simp] theorem State.setCluster_launches (s : State) (n : Nat) (x : Cluster) : (s.setCluster n x).launches = s.launches := rfl
@[simp] theorem State.setCluster_doneLaunch (s : State) (n : Nat) (x : Cluster) : (s.setCluster n x).doneLaunch = s.doneLaunch := rfl
@[simp] theorem State.setCluster_comps (s : State) (n : Nat) (x : Cluster) : (s.setCluster n x).comps = s.comps := rfl
@[simp] theorem State.setCluster_waits (s : State) (n : Nat) (x : Cluster) : (s.setCluster n x).waits = s.waits := rfl
@[simp] theorem State.setCluster_net (s : State) (n : Nat) (x : Cluster) : (s.setCluster n x).net = s.net := rfl
@[simp] theorem State.setCluster_sweeps (s : State) (n : Nat) (x : Cluster) : (s.setCluster n x).sweeps = s.sweeps := rfl
@[simp] theorem State.setCluster_lastEpoch (s : State) (n : Nat) (x : Cluster) : (s.setCluster n x).lastEpoch = s.lastEpoch := rfl
@[simp] theorem State.setCluster_epochWrap (s : State) (n : Nat) (x : Cluster) : (s.setCluster n x).epochWrap = s.epochWrap := rfl
@[simp] theorem State.setCluster_qnow (s : State) (n : Nat) (x : Cluster) : (s.setCluster n x).qnow = s.qnow := rfl
@[simp] theorem State.setCluster_qdone (s : State) (n : Nat) (x : Cluster) : (s.setCluster n x).qdone = s.qdone := rfl
@[simp] theorem State.setCluster_leases (s : State) (n : Nat) (x : Cluster) : (s.setCluster n x).leases = s.leases := rfl
@[simp] theorem State.setCluster_refreshing (s : State) (n : Nat) (x : Cluster) : (s.setCluster n x).refreshing = s.refreshing := rfl
@[simp] theorem State.setCluster_wins (s : State) (n : Nat) (x : Cluster) : (s.setCluster n x).wins = s.wins := rfl
@[simp] theorem State.setCluster_exps (s : State) (n : Nat) (x : Cluster) : (s.setCluster n x).exps = s.exps := rfl
@[simp] theorem State.setCluster_chans (s : State) (n : Nat) (x : Cluster) : (s.setCluster n x).chans = s.chans := rfl
@[simp] theorem State.setCluster_keys (s : State) (n : Nat) (x : Cluster) : (s.setCluster n x).keys = s.keys := rfl
@[simp] theorem State.setCluster_ephemeral (s : State) (n : Nat) (x : Cluster) : (s.setCluster n x).ephemeral = s.ephemeral := rfl
@[simp] theorem State.setCluster_ports (s : State) (n : Nat) (x : Cluster) : (s.setCluster n x).ports = s.ports := rfl
@[simp] theorem State.setCluster_posted (s : State) (n : Nat) (x : Cluster) : (s.setCluster n x).posted = s.posted := rfl
@[simp] theorem State.setCluster_fabric (s : State) (n : Nat) (x : Cluster) : (s.setCluster n x).fabric = s.fabric := rfl
@[simp] theorem State.setCluster_outbound (s : State) (n : Nat) (x : Cluster) : (s.setCluster n x).outbound = s.outbound := rfl
@[simp] theorem State.setCluster_flushAcks (s : State) (n : Nat) (x : Cluster) : (s.setCluster n x).flushAcks = s.flushAcks := rfl
@[simp] theorem State.setCluster_flushReqs (s : State) (n : Nat) (x : Cluster) : (s.setCluster n x).flushReqs = s.flushReqs := rfl
@[simp] theorem State.setCluster_keyMat (s : State) (n : Nat) (x : Cluster) : (s.setCluster n x).keyMat = s.keyMat := rfl
@[simp] theorem State.setCluster_reports (s : State) (n : Nat) (x : Cluster) : (s.setCluster n x).reports = s.reports := rfl
@[simp] theorem State.setCluster_chanOut (s : State) (n : Nat) (x : Cluster) : (s.setCluster n x).chanOut = s.chanOut := rfl
@[simp] theorem State.setCluster_fullRecs (s : State) (n : Nat) (x : Cluster) : (s.setCluster n x).fullRecs = s.fullRecs := rfl
@[simp] theorem State.setCluster_events (s : State) (n : Nat) (x : Cluster) : (s.setCluster n x).events = s.events := rfl
@[simp] theorem State.setCluster_refused (s : State) (n : Nat) (x : Cluster) : (s.setCluster n x).refused = s.refused := rfl
@[simp] theorem State.setCluster_restores (s : State) (n : Nat) (x : Cluster) : (s.setCluster n x).restores = s.restores := rfl
@[simp] theorem State.setCluster_mr (s : State) (n : Nat) (x : Cluster) : (s.setCluster n x).mr = s.mr := rfl
@[simp] theorem State.setCluster_instMeas (s : State) (n : Nat) (x : Cluster) : (s.setCluster n x).instMeas = s.instMeas := rfl
@[simp] theorem State.setCluster_rollback (s : State) (n : Nat) (x : Cluster) : (s.setCluster n x).rollback = s.rollback := rfl
@[simp] theorem State.setCluster_fuses (s : State) (n : Nat) (x : Cluster) : (s.setCluster n x).fuses = s.fuses := rfl
@[simp] theorem State.setCluster_absent (s : State) (n : Nat) (x : Cluster) : (s.setCluster n x).absent = s.absent := rfl
@[simp] theorem State.setCluster_status (s : State) (n : Nat) (x : Cluster) : (s.setCluster n x).status = s.status := rfl
@[simp] theorem State.setCluster_caps (s : State) (n : Nat) (x : Cluster) : (s.setCluster n x).caps = s.caps := rfl
@[simp] theorem State.setCluster_ovf (s : State) (n : Nat) (x : Cluster) : (s.setCluster n x).ovf = s.ovf := rfl
@[simp] theorem State.setCluster_ehead (s : State) (n : Nat) (x : Cluster) : (s.setCluster n x).ehead = s.ehead := rfl
@[simp] theorem State.setCluster_etail (s : State) (n : Nat) (x : Cluster) : (s.setCluster n x).etail = s.etail := rfl
@[simp] theorem State.setCluster_ering (s : State) (n : Nat) (x : Cluster) : (s.setCluster n x).ering = s.ering := rfl
@[simp] theorem State.setCluster_phases (s : State) (n : Nat) (x : Cluster) : (s.setCluster n x).phases = s.phases := rfl
@[simp] theorem State.setCluster_msix (s : State) (n : Nat) (x : Cluster) : (s.setCluster n x).msix = s.msix := rfl
@[simp] theorem State.setCluster_clk (s : State) (n : Nat) (x : Cluster) : (s.setCluster n x).clk = s.clk := rfl
@[simp] theorem State.setCluster_tick (s : State) (n : Nat) (x : Cluster) : (s.setCluster n x).tick = s.tick := rfl
@[simp] theorem State.setCluster_agenda (s : State) (n : Nat) (x : Cluster) : (s.setCluster n x).agenda = s.agenda := rfl
@[simp] theorem State.setCluster_cur (s : State) (n : Nat) (x : Cluster) : (s.setCluster n x).cur = s.cur := rfl
@[simp] theorem State.setCluster_turn (s : State) (n : Nat) (x : Cluster) : (s.setCluster n x).turn = s.turn := rfl

/-! ## State.setPart -/

@[simp] theorem State.setPart_mem (s : State) (n : Nat) (x : Partition) : (s.setPart n x).mem = s.mem := rfl
@[simp] theorem State.setPart_tags (s : State) (n : Nat) (x : Partition) : (s.setPart n x).tags = s.tags := rfl
@[simp] theorem State.setPart_poison (s : State) (n : Nat) (x : Partition) : (s.setPart n x).poison = s.poison := rfl
@[simp] theorem State.setPart_wiped (s : State) (n : Nat) (x : Partition) : (s.setPart n x).wiped = s.wiped := rfl
@[simp] theorem State.setPart_checks (s : State) (n : Nat) (x : Partition) : (s.setPart n x).checks = s.checks := rfl
@[simp] theorem State.setPart_painted (s : State) (n : Nat) (x : Partition) : (s.setPart n x).painted = s.painted := rfl
@[simp] theorem State.setPart_covers (s : State) (n : Nat) (x : Partition) : (s.setPart n x).covers = s.covers := rfl
@[simp] theorem State.setPart_narrowed (s : State) (n : Nat) (x : Partition) : (s.setPart n x).narrowed = s.narrowed := rfl
@[simp] theorem State.setPart_lineKeys (s : State) (n : Nat) (x : Partition) : (s.setPart n x).lineKeys = s.lineKeys := rfl
@[simp] theorem State.setPart_tiles (s : State) (n : Nat) (x : Partition) : (s.setPart n x).tiles = s.tiles := rfl
@[simp] theorem State.setPart_clusters (s : State) (n : Nat) (x : Partition) : (s.setPart n x).clusters = s.clusters := rfl
@[simp] theorem State.setPart_parts (s : State) (n : Nat) (x : Partition) : (s.setPart n x).parts = Map.set s.parts n x := rfl
@[simp] theorem State.setPart_contexts (s : State) (n : Nat) (x : Partition) : (s.setPart n x).contexts = s.contexts := rfl
@[simp] theorem State.setPart_capsules (s : State) (n : Nat) (x : Partition) : (s.setPart n x).capsules = s.capsules := rfl
@[simp] theorem State.setPart_binds (s : State) (n : Nat) (x : Partition) : (s.setPart n x).binds = s.binds := rfl
@[simp] theorem State.setPart_queues (s : State) (n : Nat) (x : Partition) : (s.setPart n x).queues = s.queues := rfl
@[simp] theorem State.setPart_hdm (s : State) (n : Nat) (x : Partition) : (s.setPart n x).hdm = s.hdm := rfl
@[simp] theorem State.setPart_hostReads (s : State) (n : Nat) (x : Partition) : (s.setPart n x).hostReads = s.hostReads := rfl
@[simp] theorem State.setPart_launches (s : State) (n : Nat) (x : Partition) : (s.setPart n x).launches = s.launches := rfl
@[simp] theorem State.setPart_doneLaunch (s : State) (n : Nat) (x : Partition) : (s.setPart n x).doneLaunch = s.doneLaunch := rfl
@[simp] theorem State.setPart_comps (s : State) (n : Nat) (x : Partition) : (s.setPart n x).comps = s.comps := rfl
@[simp] theorem State.setPart_waits (s : State) (n : Nat) (x : Partition) : (s.setPart n x).waits = s.waits := rfl
@[simp] theorem State.setPart_net (s : State) (n : Nat) (x : Partition) : (s.setPart n x).net = s.net := rfl
@[simp] theorem State.setPart_sweeps (s : State) (n : Nat) (x : Partition) : (s.setPart n x).sweeps = s.sweeps := rfl
@[simp] theorem State.setPart_lastEpoch (s : State) (n : Nat) (x : Partition) : (s.setPart n x).lastEpoch = s.lastEpoch := rfl
@[simp] theorem State.setPart_epochWrap (s : State) (n : Nat) (x : Partition) : (s.setPart n x).epochWrap = s.epochWrap := rfl
@[simp] theorem State.setPart_qnow (s : State) (n : Nat) (x : Partition) : (s.setPart n x).qnow = s.qnow := rfl
@[simp] theorem State.setPart_qdone (s : State) (n : Nat) (x : Partition) : (s.setPart n x).qdone = s.qdone := rfl
@[simp] theorem State.setPart_leases (s : State) (n : Nat) (x : Partition) : (s.setPart n x).leases = s.leases := rfl
@[simp] theorem State.setPart_refreshing (s : State) (n : Nat) (x : Partition) : (s.setPart n x).refreshing = s.refreshing := rfl
@[simp] theorem State.setPart_wins (s : State) (n : Nat) (x : Partition) : (s.setPart n x).wins = s.wins := rfl
@[simp] theorem State.setPart_exps (s : State) (n : Nat) (x : Partition) : (s.setPart n x).exps = s.exps := rfl
@[simp] theorem State.setPart_chans (s : State) (n : Nat) (x : Partition) : (s.setPart n x).chans = s.chans := rfl
@[simp] theorem State.setPart_keys (s : State) (n : Nat) (x : Partition) : (s.setPart n x).keys = s.keys := rfl
@[simp] theorem State.setPart_ephemeral (s : State) (n : Nat) (x : Partition) : (s.setPart n x).ephemeral = s.ephemeral := rfl
@[simp] theorem State.setPart_ports (s : State) (n : Nat) (x : Partition) : (s.setPart n x).ports = s.ports := rfl
@[simp] theorem State.setPart_posted (s : State) (n : Nat) (x : Partition) : (s.setPart n x).posted = s.posted := rfl
@[simp] theorem State.setPart_fabric (s : State) (n : Nat) (x : Partition) : (s.setPart n x).fabric = s.fabric := rfl
@[simp] theorem State.setPart_outbound (s : State) (n : Nat) (x : Partition) : (s.setPart n x).outbound = s.outbound := rfl
@[simp] theorem State.setPart_flushAcks (s : State) (n : Nat) (x : Partition) : (s.setPart n x).flushAcks = s.flushAcks := rfl
@[simp] theorem State.setPart_flushReqs (s : State) (n : Nat) (x : Partition) : (s.setPart n x).flushReqs = s.flushReqs := rfl
@[simp] theorem State.setPart_keyMat (s : State) (n : Nat) (x : Partition) : (s.setPart n x).keyMat = s.keyMat := rfl
@[simp] theorem State.setPart_reports (s : State) (n : Nat) (x : Partition) : (s.setPart n x).reports = s.reports := rfl
@[simp] theorem State.setPart_chanOut (s : State) (n : Nat) (x : Partition) : (s.setPart n x).chanOut = s.chanOut := rfl
@[simp] theorem State.setPart_fullRecs (s : State) (n : Nat) (x : Partition) : (s.setPart n x).fullRecs = s.fullRecs := rfl
@[simp] theorem State.setPart_events (s : State) (n : Nat) (x : Partition) : (s.setPart n x).events = s.events := rfl
@[simp] theorem State.setPart_refused (s : State) (n : Nat) (x : Partition) : (s.setPart n x).refused = s.refused := rfl
@[simp] theorem State.setPart_restores (s : State) (n : Nat) (x : Partition) : (s.setPart n x).restores = s.restores := rfl
@[simp] theorem State.setPart_mr (s : State) (n : Nat) (x : Partition) : (s.setPart n x).mr = s.mr := rfl
@[simp] theorem State.setPart_instMeas (s : State) (n : Nat) (x : Partition) : (s.setPart n x).instMeas = s.instMeas := rfl
@[simp] theorem State.setPart_rollback (s : State) (n : Nat) (x : Partition) : (s.setPart n x).rollback = s.rollback := rfl
@[simp] theorem State.setPart_fuses (s : State) (n : Nat) (x : Partition) : (s.setPart n x).fuses = s.fuses := rfl
@[simp] theorem State.setPart_absent (s : State) (n : Nat) (x : Partition) : (s.setPart n x).absent = s.absent := rfl
@[simp] theorem State.setPart_status (s : State) (n : Nat) (x : Partition) : (s.setPart n x).status = s.status := rfl
@[simp] theorem State.setPart_caps (s : State) (n : Nat) (x : Partition) : (s.setPart n x).caps = s.caps := rfl
@[simp] theorem State.setPart_ovf (s : State) (n : Nat) (x : Partition) : (s.setPart n x).ovf = s.ovf := rfl
@[simp] theorem State.setPart_ehead (s : State) (n : Nat) (x : Partition) : (s.setPart n x).ehead = s.ehead := rfl
@[simp] theorem State.setPart_etail (s : State) (n : Nat) (x : Partition) : (s.setPart n x).etail = s.etail := rfl
@[simp] theorem State.setPart_ering (s : State) (n : Nat) (x : Partition) : (s.setPart n x).ering = s.ering := rfl
@[simp] theorem State.setPart_phases (s : State) (n : Nat) (x : Partition) : (s.setPart n x).phases = s.phases := rfl
@[simp] theorem State.setPart_msix (s : State) (n : Nat) (x : Partition) : (s.setPart n x).msix = s.msix := rfl
@[simp] theorem State.setPart_clk (s : State) (n : Nat) (x : Partition) : (s.setPart n x).clk = s.clk := rfl
@[simp] theorem State.setPart_tick (s : State) (n : Nat) (x : Partition) : (s.setPart n x).tick = s.tick := rfl
@[simp] theorem State.setPart_agenda (s : State) (n : Nat) (x : Partition) : (s.setPart n x).agenda = s.agenda := rfl
@[simp] theorem State.setPart_cur (s : State) (n : Nat) (x : Partition) : (s.setPart n x).cur = s.cur := rfl
@[simp] theorem State.setPart_turn (s : State) (n : Nat) (x : Partition) : (s.setPart n x).turn = s.turn := rfl

/-! ## State.setQueue -/

@[simp] theorem State.setQueue_mem (s : State) (n : Nat) (x : Queue) : (s.setQueue n x).mem = s.mem := rfl
@[simp] theorem State.setQueue_tags (s : State) (n : Nat) (x : Queue) : (s.setQueue n x).tags = s.tags := rfl
@[simp] theorem State.setQueue_poison (s : State) (n : Nat) (x : Queue) : (s.setQueue n x).poison = s.poison := rfl
@[simp] theorem State.setQueue_wiped (s : State) (n : Nat) (x : Queue) : (s.setQueue n x).wiped = s.wiped := rfl
@[simp] theorem State.setQueue_checks (s : State) (n : Nat) (x : Queue) : (s.setQueue n x).checks = s.checks := rfl
@[simp] theorem State.setQueue_painted (s : State) (n : Nat) (x : Queue) : (s.setQueue n x).painted = s.painted := rfl
@[simp] theorem State.setQueue_covers (s : State) (n : Nat) (x : Queue) : (s.setQueue n x).covers = s.covers := rfl
@[simp] theorem State.setQueue_narrowed (s : State) (n : Nat) (x : Queue) : (s.setQueue n x).narrowed = s.narrowed := rfl
@[simp] theorem State.setQueue_lineKeys (s : State) (n : Nat) (x : Queue) : (s.setQueue n x).lineKeys = s.lineKeys := rfl
@[simp] theorem State.setQueue_tiles (s : State) (n : Nat) (x : Queue) : (s.setQueue n x).tiles = s.tiles := rfl
@[simp] theorem State.setQueue_clusters (s : State) (n : Nat) (x : Queue) : (s.setQueue n x).clusters = s.clusters := rfl
@[simp] theorem State.setQueue_parts (s : State) (n : Nat) (x : Queue) : (s.setQueue n x).parts = s.parts := rfl
@[simp] theorem State.setQueue_contexts (s : State) (n : Nat) (x : Queue) : (s.setQueue n x).contexts = s.contexts := rfl
@[simp] theorem State.setQueue_capsules (s : State) (n : Nat) (x : Queue) : (s.setQueue n x).capsules = s.capsules := rfl
@[simp] theorem State.setQueue_binds (s : State) (n : Nat) (x : Queue) : (s.setQueue n x).binds = s.binds := rfl
@[simp] theorem State.setQueue_queues (s : State) (n : Nat) (x : Queue) : (s.setQueue n x).queues = Map.set s.queues n x := rfl
@[simp] theorem State.setQueue_hdm (s : State) (n : Nat) (x : Queue) : (s.setQueue n x).hdm = s.hdm := rfl
@[simp] theorem State.setQueue_hostReads (s : State) (n : Nat) (x : Queue) : (s.setQueue n x).hostReads = s.hostReads := rfl
@[simp] theorem State.setQueue_launches (s : State) (n : Nat) (x : Queue) : (s.setQueue n x).launches = s.launches := rfl
@[simp] theorem State.setQueue_doneLaunch (s : State) (n : Nat) (x : Queue) : (s.setQueue n x).doneLaunch = s.doneLaunch := rfl
@[simp] theorem State.setQueue_comps (s : State) (n : Nat) (x : Queue) : (s.setQueue n x).comps = s.comps := rfl
@[simp] theorem State.setQueue_waits (s : State) (n : Nat) (x : Queue) : (s.setQueue n x).waits = s.waits := rfl
@[simp] theorem State.setQueue_net (s : State) (n : Nat) (x : Queue) : (s.setQueue n x).net = s.net := rfl
@[simp] theorem State.setQueue_sweeps (s : State) (n : Nat) (x : Queue) : (s.setQueue n x).sweeps = s.sweeps := rfl
@[simp] theorem State.setQueue_lastEpoch (s : State) (n : Nat) (x : Queue) : (s.setQueue n x).lastEpoch = s.lastEpoch := rfl
@[simp] theorem State.setQueue_epochWrap (s : State) (n : Nat) (x : Queue) : (s.setQueue n x).epochWrap = s.epochWrap := rfl
@[simp] theorem State.setQueue_qnow (s : State) (n : Nat) (x : Queue) : (s.setQueue n x).qnow = s.qnow := rfl
@[simp] theorem State.setQueue_qdone (s : State) (n : Nat) (x : Queue) : (s.setQueue n x).qdone = s.qdone := rfl
@[simp] theorem State.setQueue_leases (s : State) (n : Nat) (x : Queue) : (s.setQueue n x).leases = s.leases := rfl
@[simp] theorem State.setQueue_refreshing (s : State) (n : Nat) (x : Queue) : (s.setQueue n x).refreshing = s.refreshing := rfl
@[simp] theorem State.setQueue_wins (s : State) (n : Nat) (x : Queue) : (s.setQueue n x).wins = s.wins := rfl
@[simp] theorem State.setQueue_exps (s : State) (n : Nat) (x : Queue) : (s.setQueue n x).exps = s.exps := rfl
@[simp] theorem State.setQueue_chans (s : State) (n : Nat) (x : Queue) : (s.setQueue n x).chans = s.chans := rfl
@[simp] theorem State.setQueue_keys (s : State) (n : Nat) (x : Queue) : (s.setQueue n x).keys = s.keys := rfl
@[simp] theorem State.setQueue_ephemeral (s : State) (n : Nat) (x : Queue) : (s.setQueue n x).ephemeral = s.ephemeral := rfl
@[simp] theorem State.setQueue_ports (s : State) (n : Nat) (x : Queue) : (s.setQueue n x).ports = s.ports := rfl
@[simp] theorem State.setQueue_posted (s : State) (n : Nat) (x : Queue) : (s.setQueue n x).posted = s.posted := rfl
@[simp] theorem State.setQueue_fabric (s : State) (n : Nat) (x : Queue) : (s.setQueue n x).fabric = s.fabric := rfl
@[simp] theorem State.setQueue_outbound (s : State) (n : Nat) (x : Queue) : (s.setQueue n x).outbound = s.outbound := rfl
@[simp] theorem State.setQueue_flushAcks (s : State) (n : Nat) (x : Queue) : (s.setQueue n x).flushAcks = s.flushAcks := rfl
@[simp] theorem State.setQueue_flushReqs (s : State) (n : Nat) (x : Queue) : (s.setQueue n x).flushReqs = s.flushReqs := rfl
@[simp] theorem State.setQueue_keyMat (s : State) (n : Nat) (x : Queue) : (s.setQueue n x).keyMat = s.keyMat := rfl
@[simp] theorem State.setQueue_reports (s : State) (n : Nat) (x : Queue) : (s.setQueue n x).reports = s.reports := rfl
@[simp] theorem State.setQueue_chanOut (s : State) (n : Nat) (x : Queue) : (s.setQueue n x).chanOut = s.chanOut := rfl
@[simp] theorem State.setQueue_fullRecs (s : State) (n : Nat) (x : Queue) : (s.setQueue n x).fullRecs = s.fullRecs := rfl
@[simp] theorem State.setQueue_events (s : State) (n : Nat) (x : Queue) : (s.setQueue n x).events = s.events := rfl
@[simp] theorem State.setQueue_refused (s : State) (n : Nat) (x : Queue) : (s.setQueue n x).refused = s.refused := rfl
@[simp] theorem State.setQueue_restores (s : State) (n : Nat) (x : Queue) : (s.setQueue n x).restores = s.restores := rfl
@[simp] theorem State.setQueue_mr (s : State) (n : Nat) (x : Queue) : (s.setQueue n x).mr = s.mr := rfl
@[simp] theorem State.setQueue_instMeas (s : State) (n : Nat) (x : Queue) : (s.setQueue n x).instMeas = s.instMeas := rfl
@[simp] theorem State.setQueue_rollback (s : State) (n : Nat) (x : Queue) : (s.setQueue n x).rollback = s.rollback := rfl
@[simp] theorem State.setQueue_fuses (s : State) (n : Nat) (x : Queue) : (s.setQueue n x).fuses = s.fuses := rfl
@[simp] theorem State.setQueue_absent (s : State) (n : Nat) (x : Queue) : (s.setQueue n x).absent = s.absent := rfl
@[simp] theorem State.setQueue_status (s : State) (n : Nat) (x : Queue) : (s.setQueue n x).status = s.status := rfl
@[simp] theorem State.setQueue_caps (s : State) (n : Nat) (x : Queue) : (s.setQueue n x).caps = s.caps := rfl
@[simp] theorem State.setQueue_ovf (s : State) (n : Nat) (x : Queue) : (s.setQueue n x).ovf = s.ovf := rfl
@[simp] theorem State.setQueue_ehead (s : State) (n : Nat) (x : Queue) : (s.setQueue n x).ehead = s.ehead := rfl
@[simp] theorem State.setQueue_etail (s : State) (n : Nat) (x : Queue) : (s.setQueue n x).etail = s.etail := rfl
@[simp] theorem State.setQueue_ering (s : State) (n : Nat) (x : Queue) : (s.setQueue n x).ering = s.ering := rfl
@[simp] theorem State.setQueue_phases (s : State) (n : Nat) (x : Queue) : (s.setQueue n x).phases = s.phases := rfl
@[simp] theorem State.setQueue_msix (s : State) (n : Nat) (x : Queue) : (s.setQueue n x).msix = s.msix := rfl
@[simp] theorem State.setQueue_clk (s : State) (n : Nat) (x : Queue) : (s.setQueue n x).clk = s.clk := rfl
@[simp] theorem State.setQueue_tick (s : State) (n : Nat) (x : Queue) : (s.setQueue n x).tick = s.tick := rfl
@[simp] theorem State.setQueue_agenda (s : State) (n : Nat) (x : Queue) : (s.setQueue n x).agenda = s.agenda := rfl
@[simp] theorem State.setQueue_cur (s : State) (n : Nat) (x : Queue) : (s.setQueue n x).cur = s.cur := rfl
@[simp] theorem State.setQueue_turn (s : State) (n : Nat) (x : Queue) : (s.setQueue n x).turn = s.turn := rfl

/-! ## State.bump -/

@[simp] theorem State.bump_mem (s : State) : (s.bump).mem = s.mem := rfl
@[simp] theorem State.bump_tags (s : State) : (s.bump).tags = s.tags := rfl
@[simp] theorem State.bump_poison (s : State) : (s.bump).poison = s.poison := rfl
@[simp] theorem State.bump_wiped (s : State) : (s.bump).wiped = s.wiped := rfl
@[simp] theorem State.bump_checks (s : State) : (s.bump).checks = s.checks := rfl
@[simp] theorem State.bump_painted (s : State) : (s.bump).painted = s.painted := rfl
@[simp] theorem State.bump_covers (s : State) : (s.bump).covers = s.covers := rfl
@[simp] theorem State.bump_narrowed (s : State) : (s.bump).narrowed = s.narrowed := rfl
@[simp] theorem State.bump_lineKeys (s : State) : (s.bump).lineKeys = s.lineKeys := rfl
@[simp] theorem State.bump_tiles (s : State) : (s.bump).tiles = s.tiles := rfl
@[simp] theorem State.bump_clusters (s : State) : (s.bump).clusters = s.clusters := rfl
@[simp] theorem State.bump_parts (s : State) : (s.bump).parts = s.parts := rfl
@[simp] theorem State.bump_contexts (s : State) : (s.bump).contexts = s.contexts := rfl
@[simp] theorem State.bump_capsules (s : State) : (s.bump).capsules = s.capsules := rfl
@[simp] theorem State.bump_binds (s : State) : (s.bump).binds = s.binds := rfl
@[simp] theorem State.bump_queues (s : State) : (s.bump).queues = s.queues := rfl
@[simp] theorem State.bump_hdm (s : State) : (s.bump).hdm = s.hdm := rfl
@[simp] theorem State.bump_hostReads (s : State) : (s.bump).hostReads = s.hostReads := rfl
@[simp] theorem State.bump_launches (s : State) : (s.bump).launches = s.launches := rfl
@[simp] theorem State.bump_doneLaunch (s : State) : (s.bump).doneLaunch = s.doneLaunch := rfl
@[simp] theorem State.bump_comps (s : State) : (s.bump).comps = s.comps := rfl
@[simp] theorem State.bump_waits (s : State) : (s.bump).waits = s.waits := rfl
@[simp] theorem State.bump_net (s : State) : (s.bump).net = s.net := rfl
@[simp] theorem State.bump_sweeps (s : State) : (s.bump).sweeps = s.sweeps := rfl
@[simp] theorem State.bump_lastEpoch (s : State) : (s.bump).lastEpoch = s.lastEpoch := rfl
@[simp] theorem State.bump_epochWrap (s : State) : (s.bump).epochWrap = s.epochWrap := rfl
@[simp] theorem State.bump_qnow (s : State) : (s.bump).qnow = s.qnow := rfl
@[simp] theorem State.bump_qdone (s : State) : (s.bump).qdone = s.qdone := rfl
@[simp] theorem State.bump_leases (s : State) : (s.bump).leases = s.leases := rfl
@[simp] theorem State.bump_refreshing (s : State) : (s.bump).refreshing = s.refreshing := rfl
@[simp] theorem State.bump_wins (s : State) : (s.bump).wins = s.wins := rfl
@[simp] theorem State.bump_exps (s : State) : (s.bump).exps = s.exps := rfl
@[simp] theorem State.bump_chans (s : State) : (s.bump).chans = s.chans := rfl
@[simp] theorem State.bump_keys (s : State) : (s.bump).keys = s.keys := rfl
@[simp] theorem State.bump_ephemeral (s : State) : (s.bump).ephemeral = s.ephemeral := rfl
@[simp] theorem State.bump_ports (s : State) : (s.bump).ports = s.ports := rfl
@[simp] theorem State.bump_posted (s : State) : (s.bump).posted = s.posted := rfl
@[simp] theorem State.bump_fabric (s : State) : (s.bump).fabric = s.fabric := rfl
@[simp] theorem State.bump_outbound (s : State) : (s.bump).outbound = s.outbound := rfl
@[simp] theorem State.bump_flushAcks (s : State) : (s.bump).flushAcks = s.flushAcks := rfl
@[simp] theorem State.bump_flushReqs (s : State) : (s.bump).flushReqs = s.flushReqs := rfl
@[simp] theorem State.bump_keyMat (s : State) : (s.bump).keyMat = s.keyMat := rfl
@[simp] theorem State.bump_reports (s : State) : (s.bump).reports = s.reports := rfl
@[simp] theorem State.bump_chanOut (s : State) : (s.bump).chanOut = s.chanOut := rfl
@[simp] theorem State.bump_fullRecs (s : State) : (s.bump).fullRecs = s.fullRecs := rfl
@[simp] theorem State.bump_events (s : State) : (s.bump).events = s.events := rfl
@[simp] theorem State.bump_refused (s : State) : (s.bump).refused = s.refused := rfl
@[simp] theorem State.bump_restores (s : State) : (s.bump).restores = s.restores := rfl
@[simp] theorem State.bump_mr (s : State) : (s.bump).mr = s.mr := rfl
@[simp] theorem State.bump_instMeas (s : State) : (s.bump).instMeas = s.instMeas := rfl
@[simp] theorem State.bump_rollback (s : State) : (s.bump).rollback = s.rollback := rfl
@[simp] theorem State.bump_fuses (s : State) : (s.bump).fuses = s.fuses := rfl
@[simp] theorem State.bump_absent (s : State) : (s.bump).absent = s.absent := rfl
@[simp] theorem State.bump_status (s : State) : (s.bump).status = s.status := rfl
@[simp] theorem State.bump_caps (s : State) : (s.bump).caps = s.caps := rfl
@[simp] theorem State.bump_ovf (s : State) : (s.bump).ovf = s.ovf := rfl
@[simp] theorem State.bump_ehead (s : State) : (s.bump).ehead = s.ehead := rfl
@[simp] theorem State.bump_etail (s : State) : (s.bump).etail = s.etail := rfl
@[simp] theorem State.bump_ering (s : State) : (s.bump).ering = s.ering := rfl
@[simp] theorem State.bump_phases (s : State) : (s.bump).phases = s.phases := rfl
@[simp] theorem State.bump_msix (s : State) : (s.bump).msix = s.msix := rfl
@[simp] theorem State.bump_clk (s : State) : (s.bump).clk = s.clk := rfl
@[simp] theorem State.bump_tick (s : State) : (s.bump).tick = s.tick + 1 := rfl
@[simp] theorem State.bump_agenda (s : State) : (s.bump).agenda = s.agenda := rfl
@[simp] theorem State.bump_cur (s : State) : (s.bump).cur = s.cur := rfl
@[simp] theorem State.bump_turn (s : State) : (s.bump).turn = s.turn := rfl

/-! ## TileCtx.setRegs and Tile.setTctx -/

@[simp] theorem TileCtx.setRegs_share (x : TileCtx) (k : SetId) (r : RegSet) : (x.setRegs k r).share = x.share := by
  cases k <;> rfl
@[simp] theorem TileCtx.setRegs_saveAddr (x : TileCtx) (k : SetId) (r : RegSet) : (x.setRegs k r).saveAddr = x.saveAddr := by
  cases k <;> rfl
@[simp] theorem TileCtx.setRegs_entries (x : TileCtx) (k : SetId) (r : RegSet) : (x.setRegs k r).entries = x.entries := by
  cases k <;> rfl
@[simp] theorem TileCtx.setRegs_unbound (x : TileCtx) (k : SetId) (r : RegSet) : (x.setRegs k r).unbound = x.unbound := by
  cases k <;> rfl
@[simp] theorem TileCtx.setRegs_mail (x : TileCtx) (k : SetId) (r : RegSet) : (x.setRegs k r).mail = x.mail := by
  cases k <;> rfl
@[simp] theorem TileCtx.setRegs_bankfmt (x : TileCtx) (k : SetId) (r : RegSet) : (x.setRegs k r).bankfmt = x.bankfmt := by
  cases k <;> rfl
@[simp] theorem TileCtx.setRegs_table (x : TileCtx) (k : SetId) (r : RegSet) : (x.setRegs k r).table = x.table := by
  cases k <;> rfl
@[simp] theorem TileCtx.setRegs_solve (x : TileCtx) (k : SetId) (r : RegSet) : (x.setRegs k r).solve = x.solve := by
  cases k <;> rfl
@[simp] theorem TileCtx.setRegs_kbudget (x : TileCtx) (k : SetId) (r : RegSet) : (x.setRegs k r).kbudget = x.kbudget := by
  cases k <;> rfl
@[simp] theorem TileCtx.setRegs_kstamp (x : TileCtx) (k : SetId) (r : RegSet) : (x.setRegs k r).kstamp = x.kstamp := by
  cases k <;> rfl
@[simp] theorem TileCtx.setRegs_kgrace (x : TileCtx) (k : SetId) (r : RegSet) : (x.setRegs k r).kgrace = x.kgrace := by
  cases k <;> rfl
@[simp] theorem TileCtx.setRegs_prq (x : TileCtx) (k : SetId) (r : RegSet) : (x.setRegs k r).prq = x.prq := by
  cases k <;> rfl
@[simp] theorem TileCtx.setRegs_prqAt (x : TileCtx) (k : SetId) (r : RegSet) : (x.setRegs k r).prqAt = x.prqAt := by
  cases k <;> rfl
@[simp] theorem TileCtx.setRegs_dbg (x : TileCtx) (k : SetId) (r : RegSet) : (x.setRegs k r).dbg = x.dbg := by
  cases k <;> rfl
@[simp] theorem TileCtx.setRegs_matrix (x : TileCtx) (k : SetId) (r : RegSet) : (x.setRegs k r).matrix = x.matrix := by
  cases k <;> rfl
@[simp] theorem TileCtx.setRegs_saved (x : TileCtx) (k : SetId) (r : RegSet) : (x.setRegs k r).saved = x.saved := by
  cases k <;> rfl
@[simp] theorem TileCtx.setRegs_ended (x : TileCtx) (k : SetId) (r : RegSet) : (x.setRegs k r).ended = x.ended := by
  cases k <;> rfl
@[simp] theorem TileCtx.setRegs_reruns (x : TileCtx) (k : SetId) (r : RegSet) : (x.setRegs k r).reruns = x.reruns := by
  cases k <;> rfl
@[simp] theorem TileCtx.setRegs_copies (x : TileCtx) (k : SetId) (r : RegSet) : (x.setRegs k r).copies = x.copies := by
  cases k <;> rfl
@[simp] theorem TileCtx.setRegs_compMsgs (x : TileCtx) (k : SetId) (r : RegSet) : (x.setRegs k r).compMsgs = x.compMsgs := by
  cases k <;> rfl
@[simp] theorem TileCtx.setRegs_stops (x : TileCtx) (k : SetId) (r : RegSet) : (x.setRegs k r).stops = x.stops := by
  cases k <;> rfl
@[simp] theorem TileCtx.setRegs_stopsLost (x : TileCtx) (k : SetId) (r : RegSet) : (x.setRegs k r).stopsLost = x.stopsLost := by
  cases k <;> rfl
@[simp] theorem TileCtx.setRegs_overruns (x : TileCtx) (k : SetId) (r : RegSet) : (x.setRegs k r).overruns = x.overruns := by
  cases k <;> rfl
@[simp] theorem TileCtx.regs_setRegs (x : TileCtx) (k : SetId) (r : RegSet) : (x.setRegs k r).regs k = r := by
  cases k <;> rfl
@[simp] theorem TileCtx.setRegs_setRegs (x : TileCtx) (k : SetId) (r q : RegSet) :
    (x.setRegs k r).setRegs k q = x.setRegs k q := by
  cases k <;> rfl
@[simp] theorem Tile.setTctx_loaded (t : Tile) (c : Nat) (x : TileCtx) : (t.setTctx c x).loaded = t.loaded := rfl
@[simp] theorem Tile.setTctx_lastLoad (t : Tile) (c : Nat) (x : TileCtx) : (t.setTctx c x).lastLoad = t.lastLoad := rfl
@[simp] theorem Tile.setTctx_ctxs (t : Tile) (c : Nat) (x : TileCtx) : (t.setTctx c x).ctxs = Map.set t.ctxs c x := rfl
@[simp] theorem Tile.setTctx_keeper (t : Tile) (c : Nat) (x : TileCtx) : (t.setTctx c x).keeper = t.keeper := rfl
@[simp] theorem Tile.setTctx_accown (t : Tile) (c : Nat) (x : TileCtx) : (t.setTctx c x).accown = t.accown := rfl
@[simp] theorem Tile.setTctx_matrix (t : Tile) (c : Nat) (x : TileCtx) : (t.setTctx c x).matrix = t.matrix := rfl
@[simp] theorem Tile.setTctx_torcfg (t : Tile) (c : Nat) (x : TileCtx) : (t.setTctx c x).torcfg = t.torcfg := rfl
@[simp] theorem Tile.setTctx_horizon (t : Tile) (c : Nat) (x : TileCtx) : (t.setTctx c x).horizon = t.horizon := rfl
@[simp] theorem Tile.setTctx_count (t : Tile) (c : Nat) (x : TileCtx) : (t.setTctx c x).count = t.count := rfl
@[simp] theorem Tile.setTctx_pushes (t : Tile) (c : Nat) (x : TileCtx) : (t.setTctx c x).pushes = t.pushes := rfl
@[simp] theorem Tile.setTctx_faultsN (t : Tile) (c : Nat) (x : TileCtx) : (t.setTctx c x).faultsN = t.faultsN := rfl
@[simp] theorem Tile.setTctx_faultsU (t : Tile) (c : Nat) (x : TileCtx) : (t.setTctx c x).faultsU = t.faultsU := rfl
@[simp] theorem Tile.setTctx_slots (t : Tile) (c : Nat) (x : TileCtx) : (t.setTctx c x).slots = t.slots := rfl
@[simp] theorem Tile.setTctx_deque (t : Tile) (c : Nat) (x : TileCtx) : (t.setTctx c x).deque = t.deque := rfl
@[simp] theorem Tile.setTctx_ingress (t : Tile) (c : Nat) (x : TileCtx) : (t.setTctx c x).ingress = t.ingress := rfl
@[simp] theorem Tile.setTctx_away (t : Tile) (c : Nat) (x : TileCtx) : (t.setTctx c x).away = t.away := rfl
@[simp] theorem Tile.setTctx_updates (t : Tile) (c : Nat) (x : TileCtx) : (t.setTctx c x).updates = t.updates := rfl
@[simp] theorem Tile.setTctx_pair (t : Tile) (c : Nat) (x : TileCtx) : (t.setTctx c x).pair = t.pair := rfl
@[simp] theorem Tile.setTctx_pairWait (t : Tile) (c : Nat) (x : TileCtx) : (t.setTctx c x).pairWait = t.pairWait := rfl
@[simp] theorem Tile.setTctx_fprint (t : Tile) (c : Nat) (x : TileCtx) : (t.setTctx c x).fprint = t.fprint := rfl
@[simp] theorem Tile.setTctx_mirror (t : Tile) (c : Nat) (x : TileCtx) : (t.setTctx c x).mirror = t.mirror := rfl
@[simp] theorem Tile.setTctx_idle (t : Tile) (c : Nat) (x : TileCtx) : (t.setTctx c x).idle = t.idle := rfl
@[simp] theorem Tile.setTctx_readyCtr (t : Tile) (c : Nat) (x : TileCtx) : (t.setTctx c x).readyCtr = t.readyCtr := rfl
@[simp] theorem Tile.tctx_setTctx (t : Tile) (c : Nat) (x : TileCtx) : (t.setTctx c x).tctx c = x := by
  simp [Tile.tctx, Tile.setTctx]
@[simp] theorem Tile.setTctx_setTctx (t : Tile) (c : Nat) (x y : TileCtx) :
    (t.setTctx c x).setTctx c y = t.setTctx c y := by
  simp [Tile.setTctx]

/-! ## Units -/

@[simp] theorem State.tile_setTile (s : State) (n : Nat) (x : Tile) : (s.setTile n x).tile n = x := by
  simp [State.tile, State.setTile]
@[simp] theorem State.setTile_setTile (s : State) (n : Nat) (x y : Tile) : (s.setTile n x).setTile n y = s.setTile n y := by
  simp [State.setTile]
theorem State.tile_setTile_other (s : State) (n j : Nat) (x : Tile) (h : j ≠ n) : (s.setTile n x).tile j = s.tile j := by
  simp [State.tile, State.setTile, Map.get_set_other _ _ _ _ _ h]
@[simp] theorem State.cluster_setCluster (s : State) (n : Nat) (x : Cluster) : (s.setCluster n x).cluster n = x := by
  simp [State.cluster, State.setCluster]
@[simp] theorem State.setCluster_setCluster (s : State) (n : Nat) (x y : Cluster) : (s.setCluster n x).setCluster n y = s.setCluster n y := by
  simp [State.setCluster]
theorem State.cluster_setCluster_other (s : State) (n j : Nat) (x : Cluster) (h : j ≠ n) : (s.setCluster n x).cluster j = s.cluster j := by
  simp [State.cluster, State.setCluster, Map.get_set_other _ _ _ _ _ h]
@[simp] theorem State.part_setPart (s : State) (n : Nat) (x : Partition) : (s.setPart n x).part n = x := by
  simp [State.part, State.setPart]
@[simp] theorem State.setPart_setPart (s : State) (n : Nat) (x y : Partition) : (s.setPart n x).setPart n y = s.setPart n y := by
  simp [State.setPart]
theorem State.part_setPart_other (s : State) (n j : Nat) (x : Partition) (h : j ≠ n) : (s.setPart n x).part j = s.part j := by
  simp [State.part, State.setPart, Map.get_set_other _ _ _ _ _ h]
@[simp] theorem State.queue_setQueue (s : State) (n : Nat) (x : Queue) : (s.setQueue n x).queue n = x := by
  simp [State.queue, State.setQueue]
@[simp] theorem State.setQueue_setQueue (s : State) (n : Nat) (x y : Queue) : (s.setQueue n x).setQueue n y = s.setQueue n y := by
  simp [State.setQueue]
theorem State.queue_setQueue_other (s : State) (n j : Nat) (x : Queue) (h : j ≠ n) : (s.setQueue n x).queue j = s.queue j := by
  simp [State.queue, State.setQueue, Map.get_set_other _ _ _ _ _ h]

/-! ## State.setTctxOf -/

@[simp] theorem State.setTctxOf_mem (s : State) (n c : Nat) (x : TileCtx) : (s.setTctxOf n c x).mem = s.mem := rfl
@[simp] theorem State.setTctxOf_tags (s : State) (n c : Nat) (x : TileCtx) : (s.setTctxOf n c x).tags = s.tags := rfl
@[simp] theorem State.setTctxOf_poison (s : State) (n c : Nat) (x : TileCtx) : (s.setTctxOf n c x).poison = s.poison := rfl
@[simp] theorem State.setTctxOf_wiped (s : State) (n c : Nat) (x : TileCtx) : (s.setTctxOf n c x).wiped = s.wiped := rfl
@[simp] theorem State.setTctxOf_checks (s : State) (n c : Nat) (x : TileCtx) : (s.setTctxOf n c x).checks = s.checks := rfl
@[simp] theorem State.setTctxOf_painted (s : State) (n c : Nat) (x : TileCtx) : (s.setTctxOf n c x).painted = s.painted := rfl
@[simp] theorem State.setTctxOf_covers (s : State) (n c : Nat) (x : TileCtx) : (s.setTctxOf n c x).covers = s.covers := rfl
@[simp] theorem State.setTctxOf_narrowed (s : State) (n c : Nat) (x : TileCtx) : (s.setTctxOf n c x).narrowed = s.narrowed := rfl
@[simp] theorem State.setTctxOf_lineKeys (s : State) (n c : Nat) (x : TileCtx) : (s.setTctxOf n c x).lineKeys = s.lineKeys := rfl
@[simp] theorem State.setTctxOf_clusters (s : State) (n c : Nat) (x : TileCtx) : (s.setTctxOf n c x).clusters = s.clusters := rfl
@[simp] theorem State.setTctxOf_parts (s : State) (n c : Nat) (x : TileCtx) : (s.setTctxOf n c x).parts = s.parts := rfl
@[simp] theorem State.setTctxOf_contexts (s : State) (n c : Nat) (x : TileCtx) : (s.setTctxOf n c x).contexts = s.contexts := rfl
@[simp] theorem State.setTctxOf_capsules (s : State) (n c : Nat) (x : TileCtx) : (s.setTctxOf n c x).capsules = s.capsules := rfl
@[simp] theorem State.setTctxOf_binds (s : State) (n c : Nat) (x : TileCtx) : (s.setTctxOf n c x).binds = s.binds := rfl
@[simp] theorem State.setTctxOf_queues (s : State) (n c : Nat) (x : TileCtx) : (s.setTctxOf n c x).queues = s.queues := rfl
@[simp] theorem State.setTctxOf_hdm (s : State) (n c : Nat) (x : TileCtx) : (s.setTctxOf n c x).hdm = s.hdm := rfl
@[simp] theorem State.setTctxOf_hostReads (s : State) (n c : Nat) (x : TileCtx) : (s.setTctxOf n c x).hostReads = s.hostReads := rfl
@[simp] theorem State.setTctxOf_launches (s : State) (n c : Nat) (x : TileCtx) : (s.setTctxOf n c x).launches = s.launches := rfl
@[simp] theorem State.setTctxOf_doneLaunch (s : State) (n c : Nat) (x : TileCtx) : (s.setTctxOf n c x).doneLaunch = s.doneLaunch := rfl
@[simp] theorem State.setTctxOf_comps (s : State) (n c : Nat) (x : TileCtx) : (s.setTctxOf n c x).comps = s.comps := rfl
@[simp] theorem State.setTctxOf_waits (s : State) (n c : Nat) (x : TileCtx) : (s.setTctxOf n c x).waits = s.waits := rfl
@[simp] theorem State.setTctxOf_net (s : State) (n c : Nat) (x : TileCtx) : (s.setTctxOf n c x).net = s.net := rfl
@[simp] theorem State.setTctxOf_sweeps (s : State) (n c : Nat) (x : TileCtx) : (s.setTctxOf n c x).sweeps = s.sweeps := rfl
@[simp] theorem State.setTctxOf_lastEpoch (s : State) (n c : Nat) (x : TileCtx) : (s.setTctxOf n c x).lastEpoch = s.lastEpoch := rfl
@[simp] theorem State.setTctxOf_epochWrap (s : State) (n c : Nat) (x : TileCtx) : (s.setTctxOf n c x).epochWrap = s.epochWrap := rfl
@[simp] theorem State.setTctxOf_qnow (s : State) (n c : Nat) (x : TileCtx) : (s.setTctxOf n c x).qnow = s.qnow := rfl
@[simp] theorem State.setTctxOf_qdone (s : State) (n c : Nat) (x : TileCtx) : (s.setTctxOf n c x).qdone = s.qdone := rfl
@[simp] theorem State.setTctxOf_leases (s : State) (n c : Nat) (x : TileCtx) : (s.setTctxOf n c x).leases = s.leases := rfl
@[simp] theorem State.setTctxOf_refreshing (s : State) (n c : Nat) (x : TileCtx) : (s.setTctxOf n c x).refreshing = s.refreshing := rfl
@[simp] theorem State.setTctxOf_wins (s : State) (n c : Nat) (x : TileCtx) : (s.setTctxOf n c x).wins = s.wins := rfl
@[simp] theorem State.setTctxOf_exps (s : State) (n c : Nat) (x : TileCtx) : (s.setTctxOf n c x).exps = s.exps := rfl
@[simp] theorem State.setTctxOf_chans (s : State) (n c : Nat) (x : TileCtx) : (s.setTctxOf n c x).chans = s.chans := rfl
@[simp] theorem State.setTctxOf_keys (s : State) (n c : Nat) (x : TileCtx) : (s.setTctxOf n c x).keys = s.keys := rfl
@[simp] theorem State.setTctxOf_ephemeral (s : State) (n c : Nat) (x : TileCtx) : (s.setTctxOf n c x).ephemeral = s.ephemeral := rfl
@[simp] theorem State.setTctxOf_ports (s : State) (n c : Nat) (x : TileCtx) : (s.setTctxOf n c x).ports = s.ports := rfl
@[simp] theorem State.setTctxOf_posted (s : State) (n c : Nat) (x : TileCtx) : (s.setTctxOf n c x).posted = s.posted := rfl
@[simp] theorem State.setTctxOf_fabric (s : State) (n c : Nat) (x : TileCtx) : (s.setTctxOf n c x).fabric = s.fabric := rfl
@[simp] theorem State.setTctxOf_outbound (s : State) (n c : Nat) (x : TileCtx) : (s.setTctxOf n c x).outbound = s.outbound := rfl
@[simp] theorem State.setTctxOf_flushAcks (s : State) (n c : Nat) (x : TileCtx) : (s.setTctxOf n c x).flushAcks = s.flushAcks := rfl
@[simp] theorem State.setTctxOf_flushReqs (s : State) (n c : Nat) (x : TileCtx) : (s.setTctxOf n c x).flushReqs = s.flushReqs := rfl
@[simp] theorem State.setTctxOf_keyMat (s : State) (n c : Nat) (x : TileCtx) : (s.setTctxOf n c x).keyMat = s.keyMat := rfl
@[simp] theorem State.setTctxOf_reports (s : State) (n c : Nat) (x : TileCtx) : (s.setTctxOf n c x).reports = s.reports := rfl
@[simp] theorem State.setTctxOf_chanOut (s : State) (n c : Nat) (x : TileCtx) : (s.setTctxOf n c x).chanOut = s.chanOut := rfl
@[simp] theorem State.setTctxOf_fullRecs (s : State) (n c : Nat) (x : TileCtx) : (s.setTctxOf n c x).fullRecs = s.fullRecs := rfl
@[simp] theorem State.setTctxOf_events (s : State) (n c : Nat) (x : TileCtx) : (s.setTctxOf n c x).events = s.events := rfl
@[simp] theorem State.setTctxOf_refused (s : State) (n c : Nat) (x : TileCtx) : (s.setTctxOf n c x).refused = s.refused := rfl
@[simp] theorem State.setTctxOf_restores (s : State) (n c : Nat) (x : TileCtx) : (s.setTctxOf n c x).restores = s.restores := rfl
@[simp] theorem State.setTctxOf_mr (s : State) (n c : Nat) (x : TileCtx) : (s.setTctxOf n c x).mr = s.mr := rfl
@[simp] theorem State.setTctxOf_instMeas (s : State) (n c : Nat) (x : TileCtx) : (s.setTctxOf n c x).instMeas = s.instMeas := rfl
@[simp] theorem State.setTctxOf_rollback (s : State) (n c : Nat) (x : TileCtx) : (s.setTctxOf n c x).rollback = s.rollback := rfl
@[simp] theorem State.setTctxOf_fuses (s : State) (n c : Nat) (x : TileCtx) : (s.setTctxOf n c x).fuses = s.fuses := rfl
@[simp] theorem State.setTctxOf_absent (s : State) (n c : Nat) (x : TileCtx) : (s.setTctxOf n c x).absent = s.absent := rfl
@[simp] theorem State.setTctxOf_status (s : State) (n c : Nat) (x : TileCtx) : (s.setTctxOf n c x).status = s.status := rfl
@[simp] theorem State.setTctxOf_caps (s : State) (n c : Nat) (x : TileCtx) : (s.setTctxOf n c x).caps = s.caps := rfl
@[simp] theorem State.setTctxOf_ovf (s : State) (n c : Nat) (x : TileCtx) : (s.setTctxOf n c x).ovf = s.ovf := rfl
@[simp] theorem State.setTctxOf_ehead (s : State) (n c : Nat) (x : TileCtx) : (s.setTctxOf n c x).ehead = s.ehead := rfl
@[simp] theorem State.setTctxOf_etail (s : State) (n c : Nat) (x : TileCtx) : (s.setTctxOf n c x).etail = s.etail := rfl
@[simp] theorem State.setTctxOf_ering (s : State) (n c : Nat) (x : TileCtx) : (s.setTctxOf n c x).ering = s.ering := rfl
@[simp] theorem State.setTctxOf_phases (s : State) (n c : Nat) (x : TileCtx) : (s.setTctxOf n c x).phases = s.phases := rfl
@[simp] theorem State.setTctxOf_msix (s : State) (n c : Nat) (x : TileCtx) : (s.setTctxOf n c x).msix = s.msix := rfl
@[simp] theorem State.setTctxOf_clk (s : State) (n c : Nat) (x : TileCtx) : (s.setTctxOf n c x).clk = s.clk := rfl
@[simp] theorem State.setTctxOf_tick (s : State) (n c : Nat) (x : TileCtx) : (s.setTctxOf n c x).tick = s.tick := rfl
@[simp] theorem State.setTctxOf_agenda (s : State) (n c : Nat) (x : TileCtx) : (s.setTctxOf n c x).agenda = s.agenda := rfl
@[simp] theorem State.setTctxOf_cur (s : State) (n c : Nat) (x : TileCtx) : (s.setTctxOf n c x).cur = s.cur := rfl
@[simp] theorem State.setTctxOf_turn (s : State) (n c : Nat) (x : TileCtx) : (s.setTctxOf n c x).turn = s.turn := rfl

/-! ## State.setTctx -/

@[simp] theorem State.setTctx_mem (s : State) (x : TileCtx) : (s.setTctx x).mem = s.mem := rfl
@[simp] theorem State.setTctx_tags (s : State) (x : TileCtx) : (s.setTctx x).tags = s.tags := rfl
@[simp] theorem State.setTctx_poison (s : State) (x : TileCtx) : (s.setTctx x).poison = s.poison := rfl
@[simp] theorem State.setTctx_wiped (s : State) (x : TileCtx) : (s.setTctx x).wiped = s.wiped := rfl
@[simp] theorem State.setTctx_checks (s : State) (x : TileCtx) : (s.setTctx x).checks = s.checks := rfl
@[simp] theorem State.setTctx_painted (s : State) (x : TileCtx) : (s.setTctx x).painted = s.painted := rfl
@[simp] theorem State.setTctx_covers (s : State) (x : TileCtx) : (s.setTctx x).covers = s.covers := rfl
@[simp] theorem State.setTctx_narrowed (s : State) (x : TileCtx) : (s.setTctx x).narrowed = s.narrowed := rfl
@[simp] theorem State.setTctx_lineKeys (s : State) (x : TileCtx) : (s.setTctx x).lineKeys = s.lineKeys := rfl
@[simp] theorem State.setTctx_clusters (s : State) (x : TileCtx) : (s.setTctx x).clusters = s.clusters := rfl
@[simp] theorem State.setTctx_parts (s : State) (x : TileCtx) : (s.setTctx x).parts = s.parts := rfl
@[simp] theorem State.setTctx_contexts (s : State) (x : TileCtx) : (s.setTctx x).contexts = s.contexts := rfl
@[simp] theorem State.setTctx_capsules (s : State) (x : TileCtx) : (s.setTctx x).capsules = s.capsules := rfl
@[simp] theorem State.setTctx_binds (s : State) (x : TileCtx) : (s.setTctx x).binds = s.binds := rfl
@[simp] theorem State.setTctx_queues (s : State) (x : TileCtx) : (s.setTctx x).queues = s.queues := rfl
@[simp] theorem State.setTctx_hdm (s : State) (x : TileCtx) : (s.setTctx x).hdm = s.hdm := rfl
@[simp] theorem State.setTctx_hostReads (s : State) (x : TileCtx) : (s.setTctx x).hostReads = s.hostReads := rfl
@[simp] theorem State.setTctx_launches (s : State) (x : TileCtx) : (s.setTctx x).launches = s.launches := rfl
@[simp] theorem State.setTctx_doneLaunch (s : State) (x : TileCtx) : (s.setTctx x).doneLaunch = s.doneLaunch := rfl
@[simp] theorem State.setTctx_comps (s : State) (x : TileCtx) : (s.setTctx x).comps = s.comps := rfl
@[simp] theorem State.setTctx_waits (s : State) (x : TileCtx) : (s.setTctx x).waits = s.waits := rfl
@[simp] theorem State.setTctx_net (s : State) (x : TileCtx) : (s.setTctx x).net = s.net := rfl
@[simp] theorem State.setTctx_sweeps (s : State) (x : TileCtx) : (s.setTctx x).sweeps = s.sweeps := rfl
@[simp] theorem State.setTctx_lastEpoch (s : State) (x : TileCtx) : (s.setTctx x).lastEpoch = s.lastEpoch := rfl
@[simp] theorem State.setTctx_epochWrap (s : State) (x : TileCtx) : (s.setTctx x).epochWrap = s.epochWrap := rfl
@[simp] theorem State.setTctx_qnow (s : State) (x : TileCtx) : (s.setTctx x).qnow = s.qnow := rfl
@[simp] theorem State.setTctx_qdone (s : State) (x : TileCtx) : (s.setTctx x).qdone = s.qdone := rfl
@[simp] theorem State.setTctx_leases (s : State) (x : TileCtx) : (s.setTctx x).leases = s.leases := rfl
@[simp] theorem State.setTctx_refreshing (s : State) (x : TileCtx) : (s.setTctx x).refreshing = s.refreshing := rfl
@[simp] theorem State.setTctx_wins (s : State) (x : TileCtx) : (s.setTctx x).wins = s.wins := rfl
@[simp] theorem State.setTctx_exps (s : State) (x : TileCtx) : (s.setTctx x).exps = s.exps := rfl
@[simp] theorem State.setTctx_chans (s : State) (x : TileCtx) : (s.setTctx x).chans = s.chans := rfl
@[simp] theorem State.setTctx_keys (s : State) (x : TileCtx) : (s.setTctx x).keys = s.keys := rfl
@[simp] theorem State.setTctx_ephemeral (s : State) (x : TileCtx) : (s.setTctx x).ephemeral = s.ephemeral := rfl
@[simp] theorem State.setTctx_ports (s : State) (x : TileCtx) : (s.setTctx x).ports = s.ports := rfl
@[simp] theorem State.setTctx_posted (s : State) (x : TileCtx) : (s.setTctx x).posted = s.posted := rfl
@[simp] theorem State.setTctx_fabric (s : State) (x : TileCtx) : (s.setTctx x).fabric = s.fabric := rfl
@[simp] theorem State.setTctx_outbound (s : State) (x : TileCtx) : (s.setTctx x).outbound = s.outbound := rfl
@[simp] theorem State.setTctx_flushAcks (s : State) (x : TileCtx) : (s.setTctx x).flushAcks = s.flushAcks := rfl
@[simp] theorem State.setTctx_flushReqs (s : State) (x : TileCtx) : (s.setTctx x).flushReqs = s.flushReqs := rfl
@[simp] theorem State.setTctx_keyMat (s : State) (x : TileCtx) : (s.setTctx x).keyMat = s.keyMat := rfl
@[simp] theorem State.setTctx_reports (s : State) (x : TileCtx) : (s.setTctx x).reports = s.reports := rfl
@[simp] theorem State.setTctx_chanOut (s : State) (x : TileCtx) : (s.setTctx x).chanOut = s.chanOut := rfl
@[simp] theorem State.setTctx_fullRecs (s : State) (x : TileCtx) : (s.setTctx x).fullRecs = s.fullRecs := rfl
@[simp] theorem State.setTctx_events (s : State) (x : TileCtx) : (s.setTctx x).events = s.events := rfl
@[simp] theorem State.setTctx_refused (s : State) (x : TileCtx) : (s.setTctx x).refused = s.refused := rfl
@[simp] theorem State.setTctx_restores (s : State) (x : TileCtx) : (s.setTctx x).restores = s.restores := rfl
@[simp] theorem State.setTctx_mr (s : State) (x : TileCtx) : (s.setTctx x).mr = s.mr := rfl
@[simp] theorem State.setTctx_instMeas (s : State) (x : TileCtx) : (s.setTctx x).instMeas = s.instMeas := rfl
@[simp] theorem State.setTctx_rollback (s : State) (x : TileCtx) : (s.setTctx x).rollback = s.rollback := rfl
@[simp] theorem State.setTctx_fuses (s : State) (x : TileCtx) : (s.setTctx x).fuses = s.fuses := rfl
@[simp] theorem State.setTctx_absent (s : State) (x : TileCtx) : (s.setTctx x).absent = s.absent := rfl
@[simp] theorem State.setTctx_status (s : State) (x : TileCtx) : (s.setTctx x).status = s.status := rfl
@[simp] theorem State.setTctx_caps (s : State) (x : TileCtx) : (s.setTctx x).caps = s.caps := rfl
@[simp] theorem State.setTctx_ovf (s : State) (x : TileCtx) : (s.setTctx x).ovf = s.ovf := rfl
@[simp] theorem State.setTctx_ehead (s : State) (x : TileCtx) : (s.setTctx x).ehead = s.ehead := rfl
@[simp] theorem State.setTctx_etail (s : State) (x : TileCtx) : (s.setTctx x).etail = s.etail := rfl
@[simp] theorem State.setTctx_ering (s : State) (x : TileCtx) : (s.setTctx x).ering = s.ering := rfl
@[simp] theorem State.setTctx_phases (s : State) (x : TileCtx) : (s.setTctx x).phases = s.phases := rfl
@[simp] theorem State.setTctx_msix (s : State) (x : TileCtx) : (s.setTctx x).msix = s.msix := rfl
@[simp] theorem State.setTctx_clk (s : State) (x : TileCtx) : (s.setTctx x).clk = s.clk := rfl
@[simp] theorem State.setTctx_tick (s : State) (x : TileCtx) : (s.setTctx x).tick = s.tick := rfl
@[simp] theorem State.setTctx_agenda (s : State) (x : TileCtx) : (s.setTctx x).agenda = s.agenda := rfl
@[simp] theorem State.setTctx_cur (s : State) (x : TileCtx) : (s.setTctx x).cur = s.cur := rfl
@[simp] theorem State.setTctx_turn (s : State) (x : TileCtx) : (s.setTctx x).turn = s.turn := rfl
@[simp] theorem State.tctxOf_setTctxOf (s : State) (n c : Nat) (x : TileCtx) : (s.setTctxOf n c x).tctxOf n c = x := by
  simp [State.tctxOf, State.setTctxOf]
@[simp] theorem State.setTctxOf_setTctxOf (s : State) (n c : Nat) (x y : TileCtx) :
    (s.setTctxOf n c x).setTctxOf n c y = s.setTctxOf n c y := by
  simp [State.setTctxOf]
@[simp] theorem State.ctxn_setTctx (s : State) (x : TileCtx) : (s.setTctx x).ctxn = s.ctxn := by
  simp [State.ctxn, State.setTctx, State.setTctxOf]
@[simp] theorem State.tctx_setTctx (s : State) (x : TileCtx) : (s.setTctx x).tctx = x := by
  simp [State.tctx]; simp [State.setTctx]
@[simp] theorem State.setTctx_setTctx (s : State) (x y : TileCtx) : (s.setTctx x).setTctx y = s.setTctx y := by
  rw [State.setTctx, State.ctxn_setTctx]; simp [State.setTctx]

/-! ## State.setReg -/

@[simp] theorem State.setReg_mem (s : State) (r : RegSet) : (s.setReg r).mem = s.mem := by
  unfold State.setReg; split <;> rfl
@[simp] theorem State.setReg_tags (s : State) (r : RegSet) : (s.setReg r).tags = s.tags := by
  unfold State.setReg; split <;> rfl
@[simp] theorem State.setReg_poison (s : State) (r : RegSet) : (s.setReg r).poison = s.poison := by
  unfold State.setReg; split <;> rfl
@[simp] theorem State.setReg_wiped (s : State) (r : RegSet) : (s.setReg r).wiped = s.wiped := by
  unfold State.setReg; split <;> rfl
@[simp] theorem State.setReg_checks (s : State) (r : RegSet) : (s.setReg r).checks = s.checks := by
  unfold State.setReg; split <;> rfl
@[simp] theorem State.setReg_painted (s : State) (r : RegSet) : (s.setReg r).painted = s.painted := by
  unfold State.setReg; split <;> rfl
@[simp] theorem State.setReg_covers (s : State) (r : RegSet) : (s.setReg r).covers = s.covers := by
  unfold State.setReg; split <;> rfl
@[simp] theorem State.setReg_narrowed (s : State) (r : RegSet) : (s.setReg r).narrowed = s.narrowed := by
  unfold State.setReg; split <;> rfl
@[simp] theorem State.setReg_lineKeys (s : State) (r : RegSet) : (s.setReg r).lineKeys = s.lineKeys := by
  unfold State.setReg; split <;> rfl
@[simp] theorem State.setReg_clusters (s : State) (r : RegSet) : (s.setReg r).clusters = s.clusters := by
  unfold State.setReg; split <;> rfl
@[simp] theorem State.setReg_parts (s : State) (r : RegSet) : (s.setReg r).parts = s.parts := by
  unfold State.setReg; split <;> rfl
@[simp] theorem State.setReg_contexts (s : State) (r : RegSet) : (s.setReg r).contexts = s.contexts := by
  unfold State.setReg; split <;> rfl
@[simp] theorem State.setReg_capsules (s : State) (r : RegSet) : (s.setReg r).capsules = s.capsules := by
  unfold State.setReg; split <;> rfl
@[simp] theorem State.setReg_binds (s : State) (r : RegSet) : (s.setReg r).binds = s.binds := by
  unfold State.setReg; split <;> rfl
@[simp] theorem State.setReg_queues (s : State) (r : RegSet) : (s.setReg r).queues = s.queues := by
  unfold State.setReg; split <;> rfl
@[simp] theorem State.setReg_hdm (s : State) (r : RegSet) : (s.setReg r).hdm = s.hdm := by
  unfold State.setReg; split <;> rfl
@[simp] theorem State.setReg_hostReads (s : State) (r : RegSet) : (s.setReg r).hostReads = s.hostReads := by
  unfold State.setReg; split <;> rfl
@[simp] theorem State.setReg_launches (s : State) (r : RegSet) : (s.setReg r).launches = s.launches := by
  unfold State.setReg; split <;> rfl
@[simp] theorem State.setReg_doneLaunch (s : State) (r : RegSet) : (s.setReg r).doneLaunch = s.doneLaunch := by
  unfold State.setReg; split <;> rfl
@[simp] theorem State.setReg_comps (s : State) (r : RegSet) : (s.setReg r).comps = s.comps := by
  unfold State.setReg; split <;> rfl
@[simp] theorem State.setReg_waits (s : State) (r : RegSet) : (s.setReg r).waits = s.waits := by
  unfold State.setReg; split <;> rfl
@[simp] theorem State.setReg_net (s : State) (r : RegSet) : (s.setReg r).net = s.net := by
  unfold State.setReg; split <;> rfl
@[simp] theorem State.setReg_sweeps (s : State) (r : RegSet) : (s.setReg r).sweeps = s.sweeps := by
  unfold State.setReg; split <;> rfl
@[simp] theorem State.setReg_lastEpoch (s : State) (r : RegSet) : (s.setReg r).lastEpoch = s.lastEpoch := by
  unfold State.setReg; split <;> rfl
@[simp] theorem State.setReg_epochWrap (s : State) (r : RegSet) : (s.setReg r).epochWrap = s.epochWrap := by
  unfold State.setReg; split <;> rfl
@[simp] theorem State.setReg_qnow (s : State) (r : RegSet) : (s.setReg r).qnow = s.qnow := by
  unfold State.setReg; split <;> rfl
@[simp] theorem State.setReg_qdone (s : State) (r : RegSet) : (s.setReg r).qdone = s.qdone := by
  unfold State.setReg; split <;> rfl
@[simp] theorem State.setReg_leases (s : State) (r : RegSet) : (s.setReg r).leases = s.leases := by
  unfold State.setReg; split <;> rfl
@[simp] theorem State.setReg_refreshing (s : State) (r : RegSet) : (s.setReg r).refreshing = s.refreshing := by
  unfold State.setReg; split <;> rfl
@[simp] theorem State.setReg_wins (s : State) (r : RegSet) : (s.setReg r).wins = s.wins := by
  unfold State.setReg; split <;> rfl
@[simp] theorem State.setReg_exps (s : State) (r : RegSet) : (s.setReg r).exps = s.exps := by
  unfold State.setReg; split <;> rfl
@[simp] theorem State.setReg_chans (s : State) (r : RegSet) : (s.setReg r).chans = s.chans := by
  unfold State.setReg; split <;> rfl
@[simp] theorem State.setReg_keys (s : State) (r : RegSet) : (s.setReg r).keys = s.keys := by
  unfold State.setReg; split <;> rfl
@[simp] theorem State.setReg_ephemeral (s : State) (r : RegSet) : (s.setReg r).ephemeral = s.ephemeral := by
  unfold State.setReg; split <;> rfl
@[simp] theorem State.setReg_ports (s : State) (r : RegSet) : (s.setReg r).ports = s.ports := by
  unfold State.setReg; split <;> rfl
@[simp] theorem State.setReg_posted (s : State) (r : RegSet) : (s.setReg r).posted = s.posted := by
  unfold State.setReg; split <;> rfl
@[simp] theorem State.setReg_fabric (s : State) (r : RegSet) : (s.setReg r).fabric = s.fabric := by
  unfold State.setReg; split <;> rfl
@[simp] theorem State.setReg_outbound (s : State) (r : RegSet) : (s.setReg r).outbound = s.outbound := by
  unfold State.setReg; split <;> rfl
@[simp] theorem State.setReg_flushAcks (s : State) (r : RegSet) : (s.setReg r).flushAcks = s.flushAcks := by
  unfold State.setReg; split <;> rfl
@[simp] theorem State.setReg_flushReqs (s : State) (r : RegSet) : (s.setReg r).flushReqs = s.flushReqs := by
  unfold State.setReg; split <;> rfl
@[simp] theorem State.setReg_keyMat (s : State) (r : RegSet) : (s.setReg r).keyMat = s.keyMat := by
  unfold State.setReg; split <;> rfl
@[simp] theorem State.setReg_reports (s : State) (r : RegSet) : (s.setReg r).reports = s.reports := by
  unfold State.setReg; split <;> rfl
@[simp] theorem State.setReg_chanOut (s : State) (r : RegSet) : (s.setReg r).chanOut = s.chanOut := by
  unfold State.setReg; split <;> rfl
@[simp] theorem State.setReg_fullRecs (s : State) (r : RegSet) : (s.setReg r).fullRecs = s.fullRecs := by
  unfold State.setReg; split <;> rfl
@[simp] theorem State.setReg_events (s : State) (r : RegSet) : (s.setReg r).events = s.events := by
  unfold State.setReg; split <;> rfl
@[simp] theorem State.setReg_refused (s : State) (r : RegSet) : (s.setReg r).refused = s.refused := by
  unfold State.setReg; split <;> rfl
@[simp] theorem State.setReg_restores (s : State) (r : RegSet) : (s.setReg r).restores = s.restores := by
  unfold State.setReg; split <;> rfl
@[simp] theorem State.setReg_mr (s : State) (r : RegSet) : (s.setReg r).mr = s.mr := by
  unfold State.setReg; split <;> rfl
@[simp] theorem State.setReg_instMeas (s : State) (r : RegSet) : (s.setReg r).instMeas = s.instMeas := by
  unfold State.setReg; split <;> rfl
@[simp] theorem State.setReg_rollback (s : State) (r : RegSet) : (s.setReg r).rollback = s.rollback := by
  unfold State.setReg; split <;> rfl
@[simp] theorem State.setReg_fuses (s : State) (r : RegSet) : (s.setReg r).fuses = s.fuses := by
  unfold State.setReg; split <;> rfl
@[simp] theorem State.setReg_absent (s : State) (r : RegSet) : (s.setReg r).absent = s.absent := by
  unfold State.setReg; split <;> rfl
@[simp] theorem State.setReg_status (s : State) (r : RegSet) : (s.setReg r).status = s.status := by
  unfold State.setReg; split <;> rfl
@[simp] theorem State.setReg_caps (s : State) (r : RegSet) : (s.setReg r).caps = s.caps := by
  unfold State.setReg; split <;> rfl
@[simp] theorem State.setReg_ovf (s : State) (r : RegSet) : (s.setReg r).ovf = s.ovf := by
  unfold State.setReg; split <;> rfl
@[simp] theorem State.setReg_ehead (s : State) (r : RegSet) : (s.setReg r).ehead = s.ehead := by
  unfold State.setReg; split <;> rfl
@[simp] theorem State.setReg_etail (s : State) (r : RegSet) : (s.setReg r).etail = s.etail := by
  unfold State.setReg; split <;> rfl
@[simp] theorem State.setReg_ering (s : State) (r : RegSet) : (s.setReg r).ering = s.ering := by
  unfold State.setReg; split <;> rfl
@[simp] theorem State.setReg_phases (s : State) (r : RegSet) : (s.setReg r).phases = s.phases := by
  unfold State.setReg; split <;> rfl
@[simp] theorem State.setReg_msix (s : State) (r : RegSet) : (s.setReg r).msix = s.msix := by
  unfold State.setReg; split <;> rfl
@[simp] theorem State.setReg_clk (s : State) (r : RegSet) : (s.setReg r).clk = s.clk := by
  unfold State.setReg; split <;> rfl
@[simp] theorem State.setReg_tick (s : State) (r : RegSet) : (s.setReg r).tick = s.tick := by
  unfold State.setReg; split <;> rfl
@[simp] theorem State.setReg_agenda (s : State) (r : RegSet) : (s.setReg r).agenda = s.agenda := by
  unfold State.setReg; split <;> rfl
@[simp] theorem State.setReg_cur (s : State) (r : RegSet) : (s.setReg r).cur = s.cur := by
  unfold State.setReg; split <;> rfl
@[simp] theorem State.setReg_turn (s : State) (r : RegSet) : (s.setReg r).turn = s.turn := by
  unfold State.setReg; split <;> rfl
@[simp] theorem State.ctxn_setReg (s : State) (r : RegSet) : (s.setReg r).ctxn = s.ctxn := by
  unfold State.setReg; split
  · simp [State.ctxn]
  · simp
@[simp] theorem State.context?_setReg (s : State) (r : RegSet) : (s.setReg r).context? = s.context? := by
  simp [State.context?]
@[simp] theorem State.priv_setReg (s : State) (r : RegSet) : (s.setReg r).priv = s.priv := by
  simp [State.priv]
@[simp] theorem State.tvec_setReg (s : State) (r : RegSet) : (s.setReg r).tvec = s.tvec := by
  simp [State.tvec]

/-- The set that issues holds what was put into it. -/
@[simp] theorem State.reg_setReg (s : State) (r : RegSet) : (s.setReg r).reg = r := by
  unfold State.reg
  rw [State.setReg_cur]
  cases h : s.cur.set <;> simp [State.setReg, h]

theorem State.setReg_keeper (s : State) (r : RegSet) (h : s.cur.set = .keeper) :
    s.setReg r = s.setTile s.cur.tile { s.tile s.cur.tile with keeper := r } := by
  simp [State.setReg, h]
theorem State.setReg_live (s : State) (r : RegSet) (h : s.cur.set ≠ .keeper) :
    s.setReg r = s.setTctx (s.tctx.setRegs s.cur.set r) := by
  cases k : s.cur.set <;> simp_all [State.setReg]

/-- Only the last contents that the issuing set was given stay. -/
@[simp] theorem State.setReg_setReg (s : State) (r q : RegSet) : (s.setReg r).setReg q = s.setReg q := by
  by_cases h : s.cur.set = .keeper
  · rw [State.setReg_keeper (s.setReg r) q (by simp [h]), State.setReg_keeper s q h, State.setReg_cur,
      State.setReg_keeper s r h]
    simp
  · rw [State.setReg_live (s.setReg r) q (by simp [h]), State.setReg_live s q h, State.setReg_cur,
      State.setReg_live s r h]
    simp

/-! ## The register files -/

@[simp] theorem RegSet.setS_c (r : RegSet) (i : BitVec 5) (w : Word) : (r.setS i w).c = r.c := by
  unfold RegSet.setS; split <;> rfl
@[simp] theorem RegSet.setS_v (r : RegSet) (i : BitVec 5) (w : Word) : (r.setS i w).v = r.v := by
  unfold RegSet.setS; split <;> rfl
@[simp] theorem RegSet.setS_k (r : RegSet) (i : BitVec 5) (w : Word) : (r.setS i w).k = r.k := by
  unfold RegSet.setS; split <;> rfl
@[simp] theorem RegSet.setS_flags (r : RegSet) (i : BitVec 5) (w : Word) : (r.setS i w).flags = r.flags := by
  unfold RegSet.setS; split <;> rfl
@[simp] theorem RegSet.setS_loops (r : RegSet) (i : BitVec 5) (w : Word) : (r.setS i w).loops = r.loops := by
  unfold RegSet.setS; split <;> rfl
@[simp] theorem RegSet.setS_rcnt (r : RegSet) (i : BitVec 5) (w : Word) : (r.setS i w).rcnt = r.rcnt := by
  unfold RegSet.setS; split <;> rfl
@[simp] theorem RegSet.setS_pcc (r : RegSet) (i : BitVec 5) (w : Word) : (r.setS i w).pcc = r.pcc := by
  unfold RegSet.setS; split <;> rfl
@[simp] theorem RegSet.setS_epcc (r : RegSet) (i : BitVec 5) (w : Word) : (r.setS i w).epcc = r.epcc := by
  unfold RegSet.setS; split <;> rfl
@[simp] theorem RegSet.setS_savedLoops (r : RegSet) (i : BitVec 5) (w : Word) : (r.setS i w).savedLoops = r.savedLoops := by
  unfold RegSet.setS; split <;> rfl
@[simp] theorem RegSet.setS_inTrap (r : RegSet) (i : BitVec 5) (w : Word) : (r.setS i w).inTrap = r.inTrap := by
  unfold RegSet.setS; split <;> rfl
@[simp] theorem RegSet.setS_taddr (r : RegSet) (i : BitVec 5) (w : Word) : (r.setS i w).taddr = r.taddr := by
  unfold RegSet.setS; split <;> rfl
@[simp] theorem RegSet.setS_fcode (r : RegSet) (i : BitVec 5) (w : Word) : (r.setS i w).fcode = r.fcode := by
  unfold RegSet.setS; split <;> rfl
@[simp] theorem RegSet.setS_fmask (r : RegSet) (i : BitVec 5) (w : Word) : (r.setS i w).fmask = r.fmask := by
  unfold RegSet.setS; split <;> rfl
@[simp] theorem RegSet.setS_tokens (r : RegSet) (i : BitVec 5) (w : Word) : (r.setS i w).tokens = r.tokens := by
  unfold RegSet.setS; split <;> rfl
@[simp] theorem RegSet.setS_pending (r : RegSet) (i : BitVec 5) (w : Word) : (r.setS i w).pending = r.pending := by
  unfold RegSet.setS; split <;> rfl
@[simp] theorem RegSet.setS_parked (r : RegSet) (i : BitVec 5) (w : Word) : (r.setS i w).parked = r.parked := by
  unfold RegSet.setS; split <;> rfl
@[simp] theorem RegSet.setS_waiting (r : RegSet) (i : BitVec 5) (w : Word) : (r.setS i w).waiting = r.waiting := by
  unfold RegSet.setS; split <;> rfl
@[simp] theorem RegSet.setS_pageWait (r : RegSet) (i : BitVec 5) (w : Word) : (r.setS i w).pageWait = r.pageWait := by
  unfold RegSet.setS; split <;> rfl
@[simp] theorem RegSet.setS_debugStop (r : RegSet) (i : BitVec 5) (w : Word) : (r.setS i w).debugStop = r.debugStop := by
  unfold RegSet.setS; split <;> rfl
@[simp] theorem RegSet.setS_brkPassed (r : RegSet) (i : BitVec 5) (w : Word) : (r.setS i w).brkPassed = r.brkPassed := by
  unfold RegSet.setS; split <;> rfl
@[simp] theorem RegSet.setS_moved (r : RegSet) (i : BitVec 5) (w : Word) : (r.setS i w).moved = r.moved := by
  unfold RegSet.setS; split <;> rfl
@[simp] theorem RegSet.setS_asked (r : RegSet) (i : BitVec 5) (w : Word) : (r.setS i w).asked = r.asked := by
  unfold RegSet.setS; split <;> rfl
@[simp] theorem RegSet.setS_fir (r : RegSet) (i : BitVec 5) (w : Word) : (r.setS i w).fir = r.fir := by
  unfold RegSet.setS; split <;> rfl
@[simp] theorem RegSet.setC_s (r : RegSet) (i : BitVec 4) (x : Cap) : (r.setC i x).s = r.s := by
  unfold RegSet.setC; split <;> rfl
@[simp] theorem RegSet.setC_v (r : RegSet) (i : BitVec 4) (x : Cap) : (r.setC i x).v = r.v := by
  unfold RegSet.setC; split <;> rfl
@[simp] theorem RegSet.setC_k (r : RegSet) (i : BitVec 4) (x : Cap) : (r.setC i x).k = r.k := by
  unfold RegSet.setC; split <;> rfl
@[simp] theorem RegSet.setC_flags (r : RegSet) (i : BitVec 4) (x : Cap) : (r.setC i x).flags = r.flags := by
  unfold RegSet.setC; split <;> rfl
@[simp] theorem RegSet.setC_loops (r : RegSet) (i : BitVec 4) (x : Cap) : (r.setC i x).loops = r.loops := by
  unfold RegSet.setC; split <;> rfl
@[simp] theorem RegSet.setC_rcnt (r : RegSet) (i : BitVec 4) (x : Cap) : (r.setC i x).rcnt = r.rcnt := by
  unfold RegSet.setC; split <;> rfl
@[simp] theorem RegSet.setC_pcc (r : RegSet) (i : BitVec 4) (x : Cap) : (r.setC i x).pcc = r.pcc := by
  unfold RegSet.setC; split <;> rfl
@[simp] theorem RegSet.setC_epcc (r : RegSet) (i : BitVec 4) (x : Cap) : (r.setC i x).epcc = r.epcc := by
  unfold RegSet.setC; split <;> rfl
@[simp] theorem RegSet.setC_savedLoops (r : RegSet) (i : BitVec 4) (x : Cap) : (r.setC i x).savedLoops = r.savedLoops := by
  unfold RegSet.setC; split <;> rfl
@[simp] theorem RegSet.setC_inTrap (r : RegSet) (i : BitVec 4) (x : Cap) : (r.setC i x).inTrap = r.inTrap := by
  unfold RegSet.setC; split <;> rfl
@[simp] theorem RegSet.setC_taddr (r : RegSet) (i : BitVec 4) (x : Cap) : (r.setC i x).taddr = r.taddr := by
  unfold RegSet.setC; split <;> rfl
@[simp] theorem RegSet.setC_fcode (r : RegSet) (i : BitVec 4) (x : Cap) : (r.setC i x).fcode = r.fcode := by
  unfold RegSet.setC; split <;> rfl
@[simp] theorem RegSet.setC_fmask (r : RegSet) (i : BitVec 4) (x : Cap) : (r.setC i x).fmask = r.fmask := by
  unfold RegSet.setC; split <;> rfl
@[simp] theorem RegSet.setC_tokens (r : RegSet) (i : BitVec 4) (x : Cap) : (r.setC i x).tokens = r.tokens := by
  unfold RegSet.setC; split <;> rfl
@[simp] theorem RegSet.setC_pending (r : RegSet) (i : BitVec 4) (x : Cap) : (r.setC i x).pending = r.pending := by
  unfold RegSet.setC; split <;> rfl
@[simp] theorem RegSet.setC_parked (r : RegSet) (i : BitVec 4) (x : Cap) : (r.setC i x).parked = r.parked := by
  unfold RegSet.setC; split <;> rfl
@[simp] theorem RegSet.setC_waiting (r : RegSet) (i : BitVec 4) (x : Cap) : (r.setC i x).waiting = r.waiting := by
  unfold RegSet.setC; split <;> rfl
@[simp] theorem RegSet.setC_pageWait (r : RegSet) (i : BitVec 4) (x : Cap) : (r.setC i x).pageWait = r.pageWait := by
  unfold RegSet.setC; split <;> rfl
@[simp] theorem RegSet.setC_debugStop (r : RegSet) (i : BitVec 4) (x : Cap) : (r.setC i x).debugStop = r.debugStop := by
  unfold RegSet.setC; split <;> rfl
@[simp] theorem RegSet.setC_brkPassed (r : RegSet) (i : BitVec 4) (x : Cap) : (r.setC i x).brkPassed = r.brkPassed := by
  unfold RegSet.setC; split <;> rfl
@[simp] theorem RegSet.setC_moved (r : RegSet) (i : BitVec 4) (x : Cap) : (r.setC i x).moved = r.moved := by
  unfold RegSet.setC; split <;> rfl
@[simp] theorem RegSet.setC_asked (r : RegSet) (i : BitVec 4) (x : Cap) : (r.setC i x).asked = r.asked := by
  unfold RegSet.setC; split <;> rfl
@[simp] theorem RegSet.setC_fir (r : RegSet) (i : BitVec 4) (x : Cap) : (r.setC i x).fir = r.fir := by
  unfold RegSet.setC; split <;> rfl
@[simp] theorem RegSet.setK_s (r : RegSet) (i : BitVec 3) (w : Word) : (r.setK i w).s = r.s := by
  unfold RegSet.setK; split <;> rfl
@[simp] theorem RegSet.setK_c (r : RegSet) (i : BitVec 3) (w : Word) : (r.setK i w).c = r.c := by
  unfold RegSet.setK; split <;> rfl
@[simp] theorem RegSet.setK_v (r : RegSet) (i : BitVec 3) (w : Word) : (r.setK i w).v = r.v := by
  unfold RegSet.setK; split <;> rfl
@[simp] theorem RegSet.setK_flags (r : RegSet) (i : BitVec 3) (w : Word) : (r.setK i w).flags = r.flags := by
  unfold RegSet.setK; split <;> rfl
@[simp] theorem RegSet.setK_loops (r : RegSet) (i : BitVec 3) (w : Word) : (r.setK i w).loops = r.loops := by
  unfold RegSet.setK; split <;> rfl
@[simp] theorem RegSet.setK_rcnt (r : RegSet) (i : BitVec 3) (w : Word) : (r.setK i w).rcnt = r.rcnt := by
  unfold RegSet.setK; split <;> rfl
@[simp] theorem RegSet.setK_pcc (r : RegSet) (i : BitVec 3) (w : Word) : (r.setK i w).pcc = r.pcc := by
  unfold RegSet.setK; split <;> rfl
@[simp] theorem RegSet.setK_epcc (r : RegSet) (i : BitVec 3) (w : Word) : (r.setK i w).epcc = r.epcc := by
  unfold RegSet.setK; split <;> rfl
@[simp] theorem RegSet.setK_savedLoops (r : RegSet) (i : BitVec 3) (w : Word) : (r.setK i w).savedLoops = r.savedLoops := by
  unfold RegSet.setK; split <;> rfl
@[simp] theorem RegSet.setK_inTrap (r : RegSet) (i : BitVec 3) (w : Word) : (r.setK i w).inTrap = r.inTrap := by
  unfold RegSet.setK; split <;> rfl
@[simp] theorem RegSet.setK_taddr (r : RegSet) (i : BitVec 3) (w : Word) : (r.setK i w).taddr = r.taddr := by
  unfold RegSet.setK; split <;> rfl
@[simp] theorem RegSet.setK_fcode (r : RegSet) (i : BitVec 3) (w : Word) : (r.setK i w).fcode = r.fcode := by
  unfold RegSet.setK; split <;> rfl
@[simp] theorem RegSet.setK_fmask (r : RegSet) (i : BitVec 3) (w : Word) : (r.setK i w).fmask = r.fmask := by
  unfold RegSet.setK; split <;> rfl
@[simp] theorem RegSet.setK_tokens (r : RegSet) (i : BitVec 3) (w : Word) : (r.setK i w).tokens = r.tokens := by
  unfold RegSet.setK; split <;> rfl
@[simp] theorem RegSet.setK_pending (r : RegSet) (i : BitVec 3) (w : Word) : (r.setK i w).pending = r.pending := by
  unfold RegSet.setK; split <;> rfl
@[simp] theorem RegSet.setK_parked (r : RegSet) (i : BitVec 3) (w : Word) : (r.setK i w).parked = r.parked := by
  unfold RegSet.setK; split <;> rfl
@[simp] theorem RegSet.setK_waiting (r : RegSet) (i : BitVec 3) (w : Word) : (r.setK i w).waiting = r.waiting := by
  unfold RegSet.setK; split <;> rfl
@[simp] theorem RegSet.setK_pageWait (r : RegSet) (i : BitVec 3) (w : Word) : (r.setK i w).pageWait = r.pageWait := by
  unfold RegSet.setK; split <;> rfl
@[simp] theorem RegSet.setK_debugStop (r : RegSet) (i : BitVec 3) (w : Word) : (r.setK i w).debugStop = r.debugStop := by
  unfold RegSet.setK; split <;> rfl
@[simp] theorem RegSet.setK_brkPassed (r : RegSet) (i : BitVec 3) (w : Word) : (r.setK i w).brkPassed = r.brkPassed := by
  unfold RegSet.setK; split <;> rfl
@[simp] theorem RegSet.setK_moved (r : RegSet) (i : BitVec 3) (w : Word) : (r.setK i w).moved = r.moved := by
  unfold RegSet.setK; split <;> rfl
@[simp] theorem RegSet.setK_asked (r : RegSet) (i : BitVec 3) (w : Word) : (r.setK i w).asked = r.asked := by
  unfold RegSet.setK; split <;> rfl
@[simp] theorem RegSet.setK_fir (r : RegSet) (i : BitVec 3) (w : Word) : (r.setK i w).fir = r.fir := by
  unfold RegSet.setK; split <;> rfl
@[simp] theorem RegSet.setLanes_s (r : RegSet) (i : BitVec 5) (m : Word) (x : VReg) : (r.setLanes i m x).s = r.s := rfl
@[simp] theorem RegSet.setV_s (r : RegSet) (i : BitVec 5) (x : VReg) : (r.setV i x).s = r.s := rfl
@[simp] theorem RegSet.setLanes_c (r : RegSet) (i : BitVec 5) (m : Word) (x : VReg) : (r.setLanes i m x).c = r.c := rfl
@[simp] theorem RegSet.setV_c (r : RegSet) (i : BitVec 5) (x : VReg) : (r.setV i x).c = r.c := rfl
@[simp] theorem RegSet.setLanes_k (r : RegSet) (i : BitVec 5) (m : Word) (x : VReg) : (r.setLanes i m x).k = r.k := rfl
@[simp] theorem RegSet.setV_k (r : RegSet) (i : BitVec 5) (x : VReg) : (r.setV i x).k = r.k := rfl
@[simp] theorem RegSet.setLanes_flags (r : RegSet) (i : BitVec 5) (m : Word) (x : VReg) : (r.setLanes i m x).flags = r.flags := rfl
@[simp] theorem RegSet.setV_flags (r : RegSet) (i : BitVec 5) (x : VReg) : (r.setV i x).flags = r.flags := rfl
@[simp] theorem RegSet.setLanes_loops (r : RegSet) (i : BitVec 5) (m : Word) (x : VReg) : (r.setLanes i m x).loops = r.loops := rfl
@[simp] theorem RegSet.setV_loops (r : RegSet) (i : BitVec 5) (x : VReg) : (r.setV i x).loops = r.loops := rfl
@[simp] theorem RegSet.setLanes_rcnt (r : RegSet) (i : BitVec 5) (m : Word) (x : VReg) : (r.setLanes i m x).rcnt = r.rcnt := rfl
@[simp] theorem RegSet.setV_rcnt (r : RegSet) (i : BitVec 5) (x : VReg) : (r.setV i x).rcnt = r.rcnt := rfl
@[simp] theorem RegSet.setLanes_pcc (r : RegSet) (i : BitVec 5) (m : Word) (x : VReg) : (r.setLanes i m x).pcc = r.pcc := rfl
@[simp] theorem RegSet.setV_pcc (r : RegSet) (i : BitVec 5) (x : VReg) : (r.setV i x).pcc = r.pcc := rfl
@[simp] theorem RegSet.setLanes_epcc (r : RegSet) (i : BitVec 5) (m : Word) (x : VReg) : (r.setLanes i m x).epcc = r.epcc := rfl
@[simp] theorem RegSet.setV_epcc (r : RegSet) (i : BitVec 5) (x : VReg) : (r.setV i x).epcc = r.epcc := rfl
@[simp] theorem RegSet.setLanes_savedLoops (r : RegSet) (i : BitVec 5) (m : Word) (x : VReg) : (r.setLanes i m x).savedLoops = r.savedLoops := rfl
@[simp] theorem RegSet.setV_savedLoops (r : RegSet) (i : BitVec 5) (x : VReg) : (r.setV i x).savedLoops = r.savedLoops := rfl
@[simp] theorem RegSet.setLanes_inTrap (r : RegSet) (i : BitVec 5) (m : Word) (x : VReg) : (r.setLanes i m x).inTrap = r.inTrap := rfl
@[simp] theorem RegSet.setV_inTrap (r : RegSet) (i : BitVec 5) (x : VReg) : (r.setV i x).inTrap = r.inTrap := rfl
@[simp] theorem RegSet.setLanes_taddr (r : RegSet) (i : BitVec 5) (m : Word) (x : VReg) : (r.setLanes i m x).taddr = r.taddr := rfl
@[simp] theorem RegSet.setV_taddr (r : RegSet) (i : BitVec 5) (x : VReg) : (r.setV i x).taddr = r.taddr := rfl
@[simp] theorem RegSet.setLanes_fcode (r : RegSet) (i : BitVec 5) (m : Word) (x : VReg) : (r.setLanes i m x).fcode = r.fcode := rfl
@[simp] theorem RegSet.setV_fcode (r : RegSet) (i : BitVec 5) (x : VReg) : (r.setV i x).fcode = r.fcode := rfl
@[simp] theorem RegSet.setLanes_fmask (r : RegSet) (i : BitVec 5) (m : Word) (x : VReg) : (r.setLanes i m x).fmask = r.fmask := rfl
@[simp] theorem RegSet.setV_fmask (r : RegSet) (i : BitVec 5) (x : VReg) : (r.setV i x).fmask = r.fmask := rfl
@[simp] theorem RegSet.setLanes_tokens (r : RegSet) (i : BitVec 5) (m : Word) (x : VReg) : (r.setLanes i m x).tokens = r.tokens := rfl
@[simp] theorem RegSet.setV_tokens (r : RegSet) (i : BitVec 5) (x : VReg) : (r.setV i x).tokens = r.tokens := rfl
@[simp] theorem RegSet.setLanes_pending (r : RegSet) (i : BitVec 5) (m : Word) (x : VReg) : (r.setLanes i m x).pending = r.pending := rfl
@[simp] theorem RegSet.setV_pending (r : RegSet) (i : BitVec 5) (x : VReg) : (r.setV i x).pending = r.pending := rfl
@[simp] theorem RegSet.setLanes_parked (r : RegSet) (i : BitVec 5) (m : Word) (x : VReg) : (r.setLanes i m x).parked = r.parked := rfl
@[simp] theorem RegSet.setV_parked (r : RegSet) (i : BitVec 5) (x : VReg) : (r.setV i x).parked = r.parked := rfl
@[simp] theorem RegSet.setLanes_waiting (r : RegSet) (i : BitVec 5) (m : Word) (x : VReg) : (r.setLanes i m x).waiting = r.waiting := rfl
@[simp] theorem RegSet.setV_waiting (r : RegSet) (i : BitVec 5) (x : VReg) : (r.setV i x).waiting = r.waiting := rfl
@[simp] theorem RegSet.setLanes_pageWait (r : RegSet) (i : BitVec 5) (m : Word) (x : VReg) : (r.setLanes i m x).pageWait = r.pageWait := rfl
@[simp] theorem RegSet.setV_pageWait (r : RegSet) (i : BitVec 5) (x : VReg) : (r.setV i x).pageWait = r.pageWait := rfl
@[simp] theorem RegSet.setLanes_debugStop (r : RegSet) (i : BitVec 5) (m : Word) (x : VReg) : (r.setLanes i m x).debugStop = r.debugStop := rfl
@[simp] theorem RegSet.setV_debugStop (r : RegSet) (i : BitVec 5) (x : VReg) : (r.setV i x).debugStop = r.debugStop := rfl
@[simp] theorem RegSet.setLanes_brkPassed (r : RegSet) (i : BitVec 5) (m : Word) (x : VReg) : (r.setLanes i m x).brkPassed = r.brkPassed := rfl
@[simp] theorem RegSet.setV_brkPassed (r : RegSet) (i : BitVec 5) (x : VReg) : (r.setV i x).brkPassed = r.brkPassed := rfl
@[simp] theorem RegSet.setLanes_moved (r : RegSet) (i : BitVec 5) (m : Word) (x : VReg) : (r.setLanes i m x).moved = r.moved := rfl
@[simp] theorem RegSet.setV_moved (r : RegSet) (i : BitVec 5) (x : VReg) : (r.setV i x).moved = r.moved := rfl
@[simp] theorem RegSet.setLanes_asked (r : RegSet) (i : BitVec 5) (m : Word) (x : VReg) : (r.setLanes i m x).asked = r.asked := rfl
@[simp] theorem RegSet.setV_asked (r : RegSet) (i : BitVec 5) (x : VReg) : (r.setV i x).asked = r.asked := rfl
@[simp] theorem RegSet.setLanes_fir (r : RegSet) (i : BitVec 5) (m : Word) (x : VReg) : (r.setLanes i m x).fir = r.fir := rfl
@[simp] theorem RegSet.setV_fir (r : RegSet) (i : BitVec 5) (x : VReg) : (r.setV i x).fir = r.fir := rfl
@[simp] theorem RegSet.setToken_s (r : RegSet) (i : BitVec 3) (t : Token) : (r.setToken i t).s = r.s := rfl
@[simp] theorem RegSet.setToken_c (r : RegSet) (i : BitVec 3) (t : Token) : (r.setToken i t).c = r.c := rfl
@[simp] theorem RegSet.setToken_v (r : RegSet) (i : BitVec 3) (t : Token) : (r.setToken i t).v = r.v := rfl
@[simp] theorem RegSet.setToken_k (r : RegSet) (i : BitVec 3) (t : Token) : (r.setToken i t).k = r.k := rfl
@[simp] theorem RegSet.setToken_flags (r : RegSet) (i : BitVec 3) (t : Token) : (r.setToken i t).flags = r.flags := rfl
@[simp] theorem RegSet.setToken_loops (r : RegSet) (i : BitVec 3) (t : Token) : (r.setToken i t).loops = r.loops := rfl
@[simp] theorem RegSet.setToken_rcnt (r : RegSet) (i : BitVec 3) (t : Token) : (r.setToken i t).rcnt = r.rcnt := rfl
@[simp] theorem RegSet.setToken_pcc (r : RegSet) (i : BitVec 3) (t : Token) : (r.setToken i t).pcc = r.pcc := rfl
@[simp] theorem RegSet.setToken_epcc (r : RegSet) (i : BitVec 3) (t : Token) : (r.setToken i t).epcc = r.epcc := rfl
@[simp] theorem RegSet.setToken_savedLoops (r : RegSet) (i : BitVec 3) (t : Token) : (r.setToken i t).savedLoops = r.savedLoops := rfl
@[simp] theorem RegSet.setToken_inTrap (r : RegSet) (i : BitVec 3) (t : Token) : (r.setToken i t).inTrap = r.inTrap := rfl
@[simp] theorem RegSet.setToken_taddr (r : RegSet) (i : BitVec 3) (t : Token) : (r.setToken i t).taddr = r.taddr := rfl
@[simp] theorem RegSet.setToken_fcode (r : RegSet) (i : BitVec 3) (t : Token) : (r.setToken i t).fcode = r.fcode := rfl
@[simp] theorem RegSet.setToken_fmask (r : RegSet) (i : BitVec 3) (t : Token) : (r.setToken i t).fmask = r.fmask := rfl
@[simp] theorem RegSet.setToken_pending (r : RegSet) (i : BitVec 3) (t : Token) : (r.setToken i t).pending = r.pending := rfl
@[simp] theorem RegSet.setToken_parked (r : RegSet) (i : BitVec 3) (t : Token) : (r.setToken i t).parked = r.parked := rfl
@[simp] theorem RegSet.setToken_waiting (r : RegSet) (i : BitVec 3) (t : Token) : (r.setToken i t).waiting = r.waiting := rfl
@[simp] theorem RegSet.setToken_pageWait (r : RegSet) (i : BitVec 3) (t : Token) : (r.setToken i t).pageWait = r.pageWait := rfl
@[simp] theorem RegSet.setToken_debugStop (r : RegSet) (i : BitVec 3) (t : Token) : (r.setToken i t).debugStop = r.debugStop := rfl
@[simp] theorem RegSet.setToken_brkPassed (r : RegSet) (i : BitVec 3) (t : Token) : (r.setToken i t).brkPassed = r.brkPassed := rfl
@[simp] theorem RegSet.setToken_moved (r : RegSet) (i : BitVec 3) (t : Token) : (r.setToken i t).moved = r.moved := rfl
@[simp] theorem RegSet.setToken_asked (r : RegSet) (i : BitVec 3) (t : Token) : (r.setToken i t).asked = r.asked := rfl
@[simp] theorem RegSet.setToken_fir (r : RegSet) (i : BitVec 3) (t : Token) : (r.setToken i t).fir = r.fir := rfl
@[simp] theorem RegSet.setToken_bad (r : RegSet) (i : BitVec 3) (t : Token) : (r.setToken i t).bad = r.bad := rfl
@[simp] theorem RegSet.setToken_owed (r : RegSet) (i : BitVec 3) (t : Token) : (r.setToken i t).owed = r.owed := rfl
@[simp] theorem RegSet.setS_bad (r : RegSet) (i : BitVec 5) (w : Word) :
    (r.setS i w).bad = if i = 0 then r.bad else r.bad.filter (fun j => !(j == i.toNat)) := by
  unfold RegSet.setS; split <;> rfl
@[simp] theorem RegSet.setS_owed (r : RegSet) (i : BitVec 5) (w : Word) :
    (r.setS i w).owed = if i = 0 then r.owed else r.owed ++ r.bad.filter (fun j => j == i.toNat) := by
  unfold RegSet.setS; split <;> rfl
@[simp] theorem RegSet.setC_bad (r : RegSet) (i : BitVec 4) (x : Cap) :
    (r.setC i x).bad = if i = 0 then r.bad else r.bad.filter (fun j => !(j == 32 + i.toNat)) := by
  unfold RegSet.setC; split <;> rfl
@[simp] theorem RegSet.setC_owed (r : RegSet) (i : BitVec 4) (x : Cap) :
    (r.setC i x).owed = if i = 0 then r.owed else r.owed ++ r.bad.filter (fun j => j == 32 + i.toNat) := by
  unfold RegSet.setC; split <;> rfl
@[simp] theorem RegSet.setK_bad (r : RegSet) (i : BitVec 3) (w : Word) :
    (r.setK i w).bad = if i = 0 then r.bad else r.bad.filter (fun j => !(j == 80 + i.toNat)) := by
  unfold RegSet.setK; split <;> rfl
@[simp] theorem RegSet.setK_owed (r : RegSet) (i : BitVec 3) (w : Word) :
    (r.setK i w).owed = if i = 0 then r.owed else r.owed ++ r.bad.filter (fun j => j == 80 + i.toNat) := by
  unfold RegSet.setK; split <;> rfl
@[simp] theorem RegSet.setV_bad (r : RegSet) (i : BitVec 5) (x : VReg) :
    (r.setV i x).bad = r.bad.filter (fun j => !(decide (laneMark i.toNat 0 ≤ j) && decide (j < laneMark i.toNat 64))) := rfl
@[simp] theorem RegSet.setLanes_bad (r : RegSet) (i : BitVec 5) (m : Word) (x : VReg) :
    (r.setLanes i m x).bad = r.bad.filter (fun j =>
      !(decide (laneMark i.toNat 0 ≤ j) && decide (j < laneMark i.toNat 64) && m.getLsbD (j - laneMark i.toNat 0))) := rfl
@[simp] theorem RegSet.getV_setLanes_same (r : RegSet) (i : BitVec 5) (m : Word) (x : VReg) : (r.setLanes i m x).getV i = x := by
  simp [RegSet.getV, RegSet.setLanes, RegSet.mend]

/-- Register 0 of the file is hard-wired (R23). -/
@[simp] theorem RegSet.getS_zero (r : RegSet) : r.getS 0#5 = 0 := by simp [RegSet.getS]
@[simp] theorem RegSet.setS_zero (r : RegSet) (x : Word) : r.setS 0#5 x = r := by simp [RegSet.setS]
theorem RegSet.getS_setS_same (r : RegSet) (i : BitVec 5) (x : Word) (h : i ≠ 0#5) : (r.setS i x).getS i = x := by
  simp [RegSet.getS, RegSet.setS, RegSet.mend, h]
theorem RegSet.getS_setS_other (r : RegSet) (i j : BitVec 5) (x : Word) (h : j ≠ i) :
    (r.setS i x).getS j = r.getS j := by
  by_cases hi : i = 0#5
  · simp [hi]
  · have hn : ¬ i.toNat = j.toNat := fun e => h (BitVec.eq_of_toNat_eq e.symm)
    by_cases hj : j = 0#5
    · simp [hj]
    · simp [RegSet.getS, RegSet.setS, RegSet.mend, hi, hj, hn]

/-- Register 0 of the file is hard-wired (R23). -/
@[simp] theorem RegSet.getC_zero (r : RegSet) : r.getC 0#4 = Cap.null := by simp [RegSet.getC]
@[simp] theorem RegSet.setC_zero (r : RegSet) (x : Cap) : r.setC 0#4 x = r := by simp [RegSet.setC]
theorem RegSet.getC_setC_same (r : RegSet) (i : BitVec 4) (x : Cap) (h : i ≠ 0#4) : (r.setC i x).getC i = x := by
  simp [RegSet.getC, RegSet.setC, RegSet.mend, h]
theorem RegSet.getC_setC_other (r : RegSet) (i j : BitVec 4) (x : Cap) (h : j ≠ i) :
    (r.setC i x).getC j = r.getC j := by
  by_cases hi : i = 0#4
  · simp [hi]
  · have hn : ¬ i.toNat = j.toNat := fun e => h (BitVec.eq_of_toNat_eq e.symm)
    by_cases hj : j = 0#4
    · simp [hj]
    · simp [RegSet.getC, RegSet.setC, RegSet.mend, hi, hj, hn]

/-- Register 0 of the file is hard-wired (R23). -/
@[simp] theorem RegSet.getK_zero (r : RegSet) : r.getK 0#3 = BitVec.allOnes 64 := by simp [RegSet.getK]
@[simp] theorem RegSet.setK_zero (r : RegSet) (x : Word) : r.setK 0#3 x = r := by simp [RegSet.setK]
theorem RegSet.getK_setK_same (r : RegSet) (i : BitVec 3) (x : Word) (h : i ≠ 0#3) : (r.setK i x).getK i = x := by
  simp [RegSet.getK, RegSet.setK, RegSet.mend, h]
theorem RegSet.getK_setK_other (r : RegSet) (i j : BitVec 3) (x : Word) (h : j ≠ i) :
    (r.setK i x).getK j = r.getK j := by
  by_cases hi : i = 0#3
  · simp [hi]
  · have hn : ¬ i.toNat = j.toNat := fun e => h (BitVec.eq_of_toNat_eq e.symm)
    by_cases hj : j = 0#3
    · simp [hj]
    · simp [RegSet.getK, RegSet.setK, RegSet.mend, hi, hj, hn]

@[simp] theorem RegSet.getV_setV_same (r : RegSet) (i : BitVec 5) (x : VReg) : (r.setV i x).getV i = x := by
  simp [RegSet.getV, RegSet.setV, RegSet.mend]
theorem RegSet.getV_setV_other (r : RegSet) (i j : BitVec 5) (x : VReg) (h : j ≠ i) : (r.setV i x).getV j = r.getV j := by
  have hn : ¬ i.toNat = j.toNat := fun e => h (BitVec.eq_of_toNat_eq e.symm)
  simp [RegSet.getV, RegSet.setV, RegSet.mend, hn]

@[simp] theorem RegSet.getC_setS (r : RegSet) (i : BitVec 5) (x : Word) (j : BitVec 4) :
    (r.setS i x).getC j = r.getC j := by
  simp [RegSet.getC]
@[simp] theorem RegSet.getV_setS (r : RegSet) (i : BitVec 5) (x : Word) (j : BitVec 5) :
    (r.setS i x).getV j = r.getV j := by
  simp [RegSet.getV]
@[simp] theorem RegSet.getK_setS (r : RegSet) (i : BitVec 5) (x : Word) (j : BitVec 3) :
    (r.setS i x).getK j = r.getK j := by
  simp [RegSet.getK]
@[simp] theorem RegSet.getS_setC (r : RegSet) (i : BitVec 4) (x : Cap) (j : BitVec 5) :
    (r.setC i x).getS j = r.getS j := by
  simp [RegSet.getS]
@[simp] theorem RegSet.getV_setC (r : RegSet) (i : BitVec 4) (x : Cap) (j : BitVec 5) :
    (r.setC i x).getV j = r.getV j := by
  simp [RegSet.getV]
@[simp] theorem RegSet.getK_setC (r : RegSet) (i : BitVec 4) (x : Cap) (j : BitVec 3) :
    (r.setC i x).getK j = r.getK j := by
  simp [RegSet.getK]
@[simp] theorem RegSet.getS_setV (r : RegSet) (i : BitVec 5) (x : VReg) (j : BitVec 5) :
    (r.setV i x).getS j = r.getS j := by
  simp [RegSet.getS]
@[simp] theorem RegSet.getC_setV (r : RegSet) (i : BitVec 5) (x : VReg) (j : BitVec 4) :
    (r.setV i x).getC j = r.getC j := by
  simp [RegSet.getC]
@[simp] theorem RegSet.getK_setV (r : RegSet) (i : BitVec 5) (x : VReg) (j : BitVec 3) :
    (r.setV i x).getK j = r.getK j := by
  simp [RegSet.getK]
@[simp] theorem RegSet.getS_setK (r : RegSet) (i : BitVec 3) (x : Word) (j : BitVec 5) :
    (r.setK i x).getS j = r.getS j := by
  simp [RegSet.getS]
@[simp] theorem RegSet.getC_setK (r : RegSet) (i : BitVec 3) (x : Word) (j : BitVec 4) :
    (r.setK i x).getC j = r.getC j := by
  simp [RegSet.getC]
@[simp] theorem RegSet.getV_setK (r : RegSet) (i : BitVec 3) (x : Word) (j : BitVec 5) :
    (r.setK i x).getV j = r.getV j := by
  simp [RegSet.getV]

end Sys2Proof.Machine
end

