-- ==== Sys2Proof/Laws/Chains.lean ====
section
/-! SUPPORT. Laws/Chains.lean: what performing a chain can do, said once for chains with and without a repeat prefix:
the meanings of the instructions are read through these and not through run and runRep. -/

namespace Sys2Proof.Machine

/-! ## How a performance ends -/

@[simp] theorem Res.finish_done (p : Pfx) (paged : Bool) (s : State) : Res.finish p paged (.done s) = s.past p paged := by
  simp [Res.finish, State.settle, State.past]

@[simp] theorem Res.finish_goto (p : Pfx) (paged : Bool) (s : State) : Res.finish p paged (.goto s) = s.moved p := by
  simp [Res.finish, State.settle, State.moved]

@[simp] theorem Res.finish_gone (p : Pfx) (paged : Bool) (s : State) : Res.finish p paged (.gone s) = s := rfl

@[simp] theorem Res.finish_hold (p : Pfx) (paged : Bool) (s : State) : Res.finish p paged (.hold s) = s.held := rfl

@[simp] theorem Res.finish_trap (p : Pfx) (paged : Bool) (s : State) (code : BitVec 16) (ta : Word) :
    Res.finish p paged (.trap s code ta) = s.raise code ta := rfl

/-! ## Chains without a repeat prefix -/

/-- A free chain does what its body does. -/
theorem run_free (p : Pfx) (paged : Bool) (s : State) (body : State → Res) (h : s.free p) :
    run p paged s body = .next ((body s).finish p paged) := by
  simp [run, afterTokens, h.1, h.2]

/-- A chain whose tokens are busy holds (R36). -/
theorem run_holds (p : Pfx) (paged : Bool) (s : State) (body : State → Res) (h : s.reg.tokensIdle p.tokens = false) :
    run p paged s body = .next s.held := by
  simp [run, afterTokens, h]

/-- A chain whose tokens are idle and one of them stopped raises CP.STOP (R256). -/
theorem run_stopped (p : Pfx) (paged : Bool) (s : State) (body : State → Res)
    (h : s.reg.tokensIdle p.tokens = true) (h' : s.reg.tokensStopped p.tokens = true) :
    run p paged s body = .next (s.raise Code.cpStop 0) := by
  simp [run, afterTokens, h, h']

/-- A chain at a privilege it may run at does what its body does (R275). -/
theorem atPriv_enough (l : Priv) (s : State) (body : State → Res) (h : privLevel l ≤ privLevel s.priv) :
    atPriv l s body = body s := by
  simp [atPriv, Nat.not_lt.mpr h]

/-- A chain below the privilege it needs raises KPR.PRIV (R275). -/
theorem atPriv_below (l : Priv) (s : State) (body : State → Res) (h : privLevel s.priv < privLevel l) :
    atPriv l s body = .trap s Code.kprPriv 0 := by
  simp [atPriv, h]

theorem run_freeAt (p : Pfx) (paged : Bool) (l : Priv) (s : State) (body : State → Res) (h : s.freeAt p l) :
    run p paged s (fun s => atPriv l s body) = .next ((body s).finish p paged) := by
  rw [run_free p paged s _ h.1, atPriv_enough l s body h.2]

/-! ## Chains with one -/

/-- The element whose turn it is does what the body does at its fields. -/
theorem runRep_element (p : Pfx) (paged : Bool) (size1 : Nat) (f1 : BitVec 5) (size2 : Nat) (f2 : BitVec 5) (s : State)
    (body : Nat → BitVec 5 → BitVec 5 → State → Res) (k n : Nat) (h : s.onElement p size1 f1 size2 f2 k n) :
    runRep p paged size1 f1 size2 f2 s body =
      .next (match p.rep with
        | none => (body k (p.field1 k f1) (p.field2 k f2) s).finish p paged
        | some _ => (body k (p.field1 k f1) (p.field2 k f2) s).finishElement p paged k n) := by
  obtain ⟨hf, hi, h1, h2⟩ := h
  unfold runRep
  cases hr : p.rep with
  | none =>
    rw [hr] at hi
    simp only [Pfx.field1, Pfx.field2, hr]
    rw [hi.1]
    exact run_free p paged s _ hf
  | some q =>
    rw [hr] at hi
    obtain ⟨hkn, hpos, hle⟩ := hi
    have hk : k = (if s.reg.rcnt.remain != 0 then s.reg.rcnt.done.toNat else 0) := by
      by_cases e : s.reg.rcnt.remain = 0 <;> simp_all
    have hn : n = (if s.reg.rcnt.remain != 0 then s.reg.rcnt.done.toNat + s.reg.rcnt.remain.toNat
        else s.reg.repCount q.count) := by
      by_cases e : s.reg.rcnt.remain = 0 <;> simp_all
    have p1 : passesFile q.step1 size1 f1 n = false := by
      have := h1 q hr
      cases hs : q.step1 <;> simp_all [passesFile]
    have p2 : passesFile q.step2 size2 f2 n = false := by
      have := h2 q hr
      cases hs : q.step2 <;> simp_all [passesFile]
    have hn0 : ¬ n = 0 := by omega
    have hlt : ¬ 65535 < n := by omega
    simp only [hf.1, hf.2]
    rw [← hk, ← hn]
    simp [hn0, hlt, p1, p2, Pfx.field1, Pfx.field2, hr, stepField]

/-- An element that ends well leaves its state with the repeat moved on. -/
theorem runRep_done (p : Pfx) (paged : Bool) (size1 : Nat) (f1 : BitVec 5) (size2 : Nat) (f2 : BitVec 5) (s : State)
    (body : Nat → BitVec 5 → BitVec 5 → State → Res) (k n : Nat) (h : s.onElement p size1 f1 size2 f2 k n) (t : State)
    (hb : body k (p.field1 k f1) (p.field2 k f2) s = .done t) :
    runRep p paged size1 f1 size2 f2 s body = .next (t.pastElement p paged k n) := by
  rw [runRep_element p paged size1 f1 size2 f2 s body k n h, hb]
  cases hr : p.rep with
  | none => simp [State.pastElement, hr]
  | some q => simp [State.pastElement, hr, Res.finishElement]

/-- An element that faults leaves the elements before it done (R91). -/
theorem runRep_trap (p : Pfx) (paged : Bool) (size1 : Nat) (f1 : BitVec 5) (size2 : Nat) (f2 : BitVec 5) (s : State)
    (body : Nat → BitVec 5 → BitVec 5 → State → Res) (k n : Nat) (h : s.onElement p size1 f1 size2 f2 k n) (t : State)
    (code : BitVec 16) (ta : Word) (hb : body k (p.field1 k f1) (p.field2 k f2) s = .trap t code ta) :
    runRep p paged size1 f1 size2 f2 s body =
      .next (t.raiseElement p k n code ta) := by
  rw [runRep_element p paged size1 f1 size2 f2 s body k n h, hb]
  unfold State.raiseElement
  cases hr : p.rep with
  | none => rfl
  | some q => rfl

/-- A free chain whose repeat takes a field past its file, or whose count is above 65,535, raises REP.RANGE (R90). -/
theorem runRep_range (p : Pfx) (paged : Bool) (size1 : Nat) (f1 : BitVec 5) (size2 : Nat) (f2 : BitVec 5) (s : State)
    (body : Nat → BitVec 5 → BitVec 5 → State → Res) (q : RepPfx) (hr : p.rep = some q) (hf : s.free p)
    (h0 : s.reg.rcnt.remain = 0) (hn : s.reg.repCount q.count ≠ 0)
    (h : 65535 < s.reg.repCount q.count ∨ passesFile q.step1 size1 f1 (s.reg.repCount q.count) = true ∨
      passesFile q.step2 size2 f2 (s.reg.repCount q.count) = true) :
    runRep p paged size1 f1 size2 f2 s body = .next (s.raise Code.repRange 0) := by
  unfold runRep
  rw [hr]
  simp only [hf.1, hf.2, h0]
  rcases h with h | h | h <;> simp [h, hn]

/-- A free chain whose repeat counts 0 performs nothing (R90). -/
theorem runRep_empty (p : Pfx) (paged : Bool) (size1 : Nat) (f1 : BitVec 5) (size2 : Nat) (f2 : BitVec 5) (s : State)
    (body : Nat → BitVec 5 → BitVec 5 → State → Res) (q : RepPfx) (hr : p.rep = some q) (hf : s.free p)
    (h0 : s.reg.rcnt.remain = 0) (hn : s.reg.repCount q.count = 0) :
    runRep p paged size1 f1 size2 f2 s body = .next (s.past p paged) := by
  unfold runRep
  rw [hr]
  simp [hf.1, hf.2, h0, hn]

end Sys2Proof.Machine
end

