-- ==== Sys2Proof/Laws/Scalar.lean ====
section
/-! SUPPORT. Laws/Scalar.lean: what the shared shapes of page 0 do when it is their element's turn, and the shifts as
arithmetic on numbers. -/

namespace Sys2Proof.Machine

/-! ## Shapes -/

theorem alu_done (p : Pfx) (d a : BitVec 5) (s : State) (f : Word → Word → Word) (k n : Nat)
    (h : s.onElement p 32 d 32 a k n) :
    alu p d a s f =
      .next ((s.setS (p.field1 k d) (f (s.s (p.field1 k d)) (s.s (p.field2 k a)))).pastElement p false k n) :=
  runRep_done p false 32 d 32 a s _ k n h _ rfl

theorem mulDiv_done (p : Pfx) (d a : BitVec 5) (s : State) (f : Word → Word → Word) (k n : Nat)
    (h : s.onElement p 32 d 32 a k n) :
    mulDiv p d a s f =
      .next ((s.pend (.s (p.field1 k d) (f (s.s (p.field1 k d)) (s.s (p.field2 k a))))).pastElement p false k n) :=
  runRep_done p false 32 d 32 a s _ k n h _ rfl

theorem unary_done (p : Pfx) (d : BitVec 5) (s : State) (f : Word → Word) (k n : Nat)
    (h : s.onElement p 32 d 32 0 k n) :
    unary p d s f = .next ((s.setS (p.field1 k d) (f (s.s (p.field1 k d)))).pastElement p false k n) :=
  runRep_done p false 32 d 32 0 s _ k n h _ rfl

/-! ## Shifts -/

theorem shiftLeft_eq_ofNat (x : Word) (m : Nat) : x <<< m = BitVec.ofNat 64 (x.toNat * 2 ^ m) := by
  apply BitVec.eq_of_toNat_eq
  simp [Nat.shiftLeft_eq]

theorem shiftRight_eq_ofNat (x : Word) (m : Nat) : x >>> m = BitVec.ofNat 64 (x.toNat / 2 ^ m) := by
  apply BitVec.eq_of_toNat_eq
  simp only [BitVec.toNat_ushiftRight, Nat.shiftRight_eq_div_pow, BitVec.toNat_ofNat]
  rw [Nat.mod_eq_of_lt]
  exact Nat.lt_of_le_of_lt (Nat.div_le_self _ _) x.isLt

theorem sshiftRight_eq_ofInt (x : Word) (m : Nat) : x.sshiftRight m = BitVec.ofInt 64 (x.toInt / 2 ^ m) := by
  simp [BitVec.sshiftRight, Int.shiftRight_eq_div_pow]

/-! ## Bit counts -/

/-- What leadingZeros counts: that many clear bits from bit n − 1 down, and then a set one. -/
theorem leadingZeros_spec (w : Word) (n : Nat) :
    leadingZeros w n ≤ n ∧ (∀ j, j < leadingZeros w n → w.getLsbD (n - 1 - j) = false) ∧
      (leadingZeros w n < n → w.getLsbD (n - 1 - leadingZeros w n) = true) := by
  induction n with
  | zero => simp [leadingZeros]
  | succ n ih =>
    obtain ⟨h1, h2, h3⟩ := ih
    by_cases hb : w.getLsbD n = true
    · simp [leadingZeros, hb]
    · have hb' : w.getLsbD n = false := by simpa using hb
      have e : leadingZeros w (n + 1) = 1 + leadingZeros w n := by simp [leadingZeros, hb']
      rw [e]
      refine ⟨by omega, ?_, ?_⟩
      · intro j hj
        cases j with
        | zero => simpa using hb'
        | succ j =>
          have := h2 j (by omega)
          rwa [show n + 1 - 1 - (j + 1) = n - 1 - j by omega]
      · intro hl
        have := h3 (by omega)
        rwa [show n + 1 - 1 - (1 + leadingZeros w n) = n - 1 - leadingZeros w n by omega]

/-- What trailingZeros counts: that many clear bits from bit i up, and then a set one. -/
theorem trailingZeros_spec (w : Word) (i n : Nat) :
    trailingZeros w i n ≤ n ∧ (∀ j, j < trailingZeros w i n → w.getLsbD (i + j) = false) ∧
      (trailingZeros w i n < n → w.getLsbD (i + trailingZeros w i n) = true) := by
  induction n generalizing i with
  | zero => simp [trailingZeros]
  | succ n ih =>
    obtain ⟨h1, h2, h3⟩ := ih (i + 1)
    by_cases hb : w.getLsbD i = true
    · simp [trailingZeros, hb]
    · have hb' : w.getLsbD i = false := by simpa using hb
      have e : trailingZeros w i (n + 1) = 1 + trailingZeros w (i + 1) n := by simp [trailingZeros, hb']
      rw [e]
      refine ⟨by omega, ?_, ?_⟩
      · intro j hj
        cases j with
        | zero => simpa using hb'
        | succ j =>
          have := h2 j (by omega)
          rwa [show i + (j + 1) = i + 1 + j by omega]
      · intro hl
        have := h3 (by omega)
        rwa [show i + (1 + trailingZeros w (i + 1) n) = i + 1 + trailingZeros w (i + 1) n by omega]

/-- Reversal below n bits: bit 63 − i of the result is bit i, for i below n. -/
theorem reverseBits_lt (w : Word) (n : Nat) (h : n ≤ 64) : reverseBits w n % 2 ^ (64 - n) = 0 ∧ reverseBits w n < 2 ^ 64 := by
  induction n with
  | zero => simp [reverseBits]
  | succ n ih =>
    obtain ⟨h1, h2⟩ := ih (by omega)
    have e : 2 ^ (64 - n) = 2 * 2 ^ (63 - n) := by
      rw [show 64 - n = (63 - n) + 1 by omega, Nat.pow_succ, Nat.mul_comm]
    have hd : 2 ^ (64 - n) ∣ reverseBits w n := Nat.dvd_of_mod_eq_zero h1
    obtain ⟨q, hq⟩ := hd
    have hp : 2 ^ 64 = 2 ^ (64 - n) * 2 ^ n := by rw [← Nat.pow_add]; congr 1; omega
    have hpos : 0 < 2 ^ (63 - n) := Nat.pow_pos (by omega)
    have hql : q < 2 ^ n := by
      rw [hq, hp] at h2
      exact Nat.lt_of_mul_lt_mul_left h2
    have hb : bit (w.getLsbD n) ≤ 1 := by unfold bit; split <;> omega
    have e2 : reverseBits w (n + 1) = 2 ^ (63 - n) * (bit (w.getLsbD n) + 2 * q) := by
      rw [reverseBits, hq, e]; grind
    refine ⟨?_, ?_⟩
    · rw [e2, show 64 - (n + 1) = 63 - n by omega]
      exact Nat.mul_mod_right _ _
    · rw [e2, hp, e]
      have : bit (w.getLsbD n) + 2 * q < 2 * 2 ^ n := by omega
      calc 2 ^ (63 - n) * (bit (w.getLsbD n) + 2 * q) < 2 ^ (63 - n) * (2 * 2 ^ n) := by
            exact Nat.mul_lt_mul_of_pos_left this hpos
        _ = 2 * 2 ^ (63 - n) * 2 ^ n := by grind

/-- Bit i of the reversal of the low n bits is bit 63 − i, where that is below n. -/
theorem reverseBits_testBit (w : Word) (n i : Nat) (h : n ≤ 64) (hi : i < 64) :
    (reverseBits w n).testBit i = (decide (64 - n ≤ i) && w.getLsbD (63 - i)) := by
  induction n with
  | zero =>
    have : ¬ 64 ≤ i := by omega
    simp [reverseBits, this]
  | succ n ih =>
    have ih := ih (by omega)
    obtain ⟨h1, -⟩ := reverseBits_lt w n (by omega)
    obtain ⟨q, hq⟩ := Nat.dvd_of_mod_eq_zero h1
    have e : 2 ^ (64 - n) = 2 * 2 ^ (63 - n) := by
      rw [show 64 - n = (63 - n) + 1 by omega, Nat.pow_succ, Nat.mul_comm]
    have e2 : reverseBits w (n + 1) = 2 ^ (63 - n) * (2 * q + bit (w.getLsbD n)) := by
      rw [reverseBits, hq, e]; grind
    rw [hq, Nat.testBit_two_pow_mul] at ih
    rw [e2, Nat.testBit_two_pow_mul, show 64 - (n + 1) = 63 - n by omega]
    rcases Nat.lt_trichotomy i (63 - n) with hl | he | hg
    · have : ¬ 63 - n ≤ i := by omega
      simp [this]
    · have hw : 63 - i = n := by omega
      rw [hw, he]
      cases hb : w.getLsbD n <;> simp [bit, Nat.testBit_zero]
    · have hs : i - (63 - n) = (i - (64 - n)) + 1 := by omega
      have hb : bit (w.getLsbD n) < 2 := by unfold bit; split <;> omega
      have hd : (2 * q + bit (w.getLsbD n)) / 2 = q := by omega
      have l1 : 63 - n ≤ i := by omega
      have l2 : 64 - n ≤ i := by omega
      rw [hs, Nat.testBit_succ, hd]
      simpa [l1, l2] using ih

end Sys2Proof.Machine
end

