-- ==== Sys2Proof/Tests/Slice0.lean ====
section
/-! SUPPORT. Tests/Slice0.lean: tests of one step or one function each, with results from the manual, the smoke tests of
WellFormed, and a state for every statement that has hypotheses. -/

namespace Sys2Proof.Tests

open Sys2Proof Sys2Proof.Machine

/-! ## Decoding: words written out from R34, R35, R45 to R47 and R53 -/

/-- Every chain decodes to its instruction, with nothing left. -/
def reads (l : List (List Half × Instr)) : Bool := l.all (fun q => match decode q.1 with
  | .ok (i, []) => i == q.2
  | _ => false)

def xr (x y : BitVec 5) : Pfx := { Pfx.plain with xr := some { x := x, y := y } }

set_option maxRecDepth 100000
set_option Elab.async false

theorem test_decode_page0_a : reads [
  ([0x00A3], .mv Pfx.plain 5 3),
  ([0x04A3], .add Pfx.plain 5 3),
  ([0x08A3], .sub Pfx.plain 5 3),
  ([0x0CA3], .mul Pfx.plain 5 3),
  ([0x10A3], .mulh Pfx.plain 5 3),
  ([0x14A3], .div Pfx.plain 5 3),
  ([0x18A3], .rem Pfx.plain 5 3),
  ([0x1CA3], .and Pfx.plain 5 3),
  ([0x28A3], .or Pfx.plain 5 3),
  ([0x2CA3], .xor Pfx.plain 5 3),
  ([0x30A3], .shl Pfx.plain 5 3),
  ([0x34A3], .shr Pfx.plain 5 3),
  ([0x38A3], .sra Pfx.plain 5 3),
  ([0x40A3], .cmp Pfx.plain 5 3),
  ([0x20A7], .addi Pfx.plain 5 7),
  ([0x24A7], .li Pfx.plain 5 7),
  ([0x44A7], .cmpi Pfx.plain 5 7),
  ([0x3CA7], .shli Pfx.plain 5 7),
  ([0x7802, 0x3CA7], .shri { Pfx.plain with imm := [2] } 5 7),
  ([0x7804, 0x3CA7], .srai { Pfx.plain with imm := [4] } 5 7),
  ([0x7806, 0x3CA7], .rori { Pfx.plain with imm := [6] } 5 7),
  ([0x48A0], .clz Pfx.plain 5),
  ([0x48A1], .ctz Pfx.plain 5),
  ([0x48A2], .popc Pfx.plain 5)] = true := by decide

theorem test_decode_page0_b : reads [
  ([0x48A3], .brev Pfx.plain 5),
  ([0x48A4], .not Pfx.plain 5),
  ([0x48A5], .neg Pfx.plain 5),
  ([0x48A6], .abs Pfx.plain 5),
  ([0x48A7], .sextB Pfx.plain 5),
  ([0x48A8], .sextH Pfx.plain 5),
  ([0x48A9], .sextW Pfx.plain 5),
  ([0x48AA], .zextB Pfx.plain 5),
  ([0x48AB], .zextH Pfx.plain 5),
  ([0x48AC], .zextW Pfx.plain 5),
  ([0x4CA7], .setc Pfx.plain 5 .gt),
  ([0x50A7], .loop Pfx.plain 5 7),
  ([0x54A7], .b Pfx.plain 0x0A7),
  ([0x58A7], .beq Pfx.plain 0x0A7),
  ([0x5CA7], .bne Pfx.plain 0x0A7),
  ([0x60A7], .blt Pfx.plain 0x0A7),
  ([0x64A7], .bge Pfx.plain 0x0A7),
  ([0x68A3], .call Pfx.plain 5 3),
  ([0x6803], .jmp Pfx.plain 3)] = true := by decide

theorem test_decode_page1 : reads [
  ([0x7C01, 0x00A3], .cMv Pfx.plain 5 3),
  ([0x7C01, 0x04A3], .cAdd Pfx.plain 5 3),
  ([0x7C01, 0x08A7], .cAddi Pfx.plain 5 7),
  ([0x7C01, 0x0CA3], .cSetaddr Pfx.plain 5 3),
  ([0x7C01, 0x10A3], .cSetb Pfx.plain 5 3),
  ([0x7C01, 0x14A3], .cSetbx Pfx.plain 5 3),
  ([0x7C01, 0x18A3], .cAndp Pfx.plain 5 3),
  ([0x7C01, 0x1CA3], .cSeal Pfx.plain 5 3),
  ([0x7C01, 0x20A3], .cUnseal Pfx.plain 5 3),
  ([0x7C01, 0x24A3], .cInv Pfx.plain 5 3),
  ([0x7C01, 0x28A3], .cGaddr Pfx.plain 5 3),
  ([0x7C01, 0x2CA3], .cGbase Pfx.plain 5 3),
  ([0x7C01, 0x30A3], .cGlen Pfx.plain 5 3),
  ([0x7C01, 0x34A3], .cGperm Pfx.plain 5 3),
  ([0x7C01, 0x38A3], .cGtype Pfx.plain 5 3),
  ([0x7C01, 0x3CA3], .cGtag Pfx.plain 5 3),
  ([0x7C01, 0x40A3], .cClrtag Pfx.plain 5 3),
  ([0x7C01, 0x44A4], .cLd Pfx.plain 5 ⟨2, false⟩),
  ([0x7C01, 0x48A4], .cSt Pfx.plain 5 ⟨2, false⟩),
  ([0x7C01, 0x4CA3], .cFit Pfx.plain 5 3),
  ([0x7C01, 0x50A3], .cSnap Pfx.plain 5 3),
  ([0x7C01, 0x54A3], .cPaint Pfx.plain 5 3),
  ([0x7C01, 0x58A3], .cSweep Pfx.plain 5 3),
  ([0x7C01, 0x5CA3], .cSweepq Pfx.plain 5 3)] = true := by decide

theorem test_decode_page2 : reads [
  ([0x7C02, 0x00A4], .ldW Pfx.plain 5 ⟨2, false⟩),
  ([0x7C02, 0x04A4], .stW Pfx.plain 5 ⟨2, false⟩),
  ([0x7C02, 0x08A4], .ldD Pfx.plain 5 ⟨2, false⟩),
  ([0x7C02, 0x0CA4], .stD Pfx.plain 5 ⟨2, false⟩),
  ([0x7C02, 0x10A4], .ldB Pfx.plain 5 ⟨2, false⟩),
  ([0x7C02, 0x14A4], .stB Pfx.plain 5 ⟨2, false⟩),
  ([0x7C02, 0x18A4], .ldH Pfx.plain 5 ⟨2, false⟩),
  ([0x7C02, 0x1CA4], .stH Pfx.plain 5 ⟨2, false⟩),
  ([0x7C02, 0x20A4], .vLd Pfx.plain 5 ⟨2, false⟩),
  ([0x7C02, 0x24A4], .vSt Pfx.plain 5 ⟨2, false⟩),
  ([0x7C02, 0x28A4], .ldWz Pfx.plain 5 ⟨2, false⟩),
  ([0x7C02, 0x2CA4], .ldBz Pfx.plain 5 ⟨2, false⟩),
  ([0x7C02, 0x30A4], .ldHz Pfx.plain 5 ⟨2, false⟩),
  ([0x7520, 0x7C02, 0x34A5], .vGth (xr 9 0) 5 ⟨2, true⟩),
  ([0x7520, 0x7C02, 0x38A5], .vSct (xr 9 0) 5 ⟨2, true⟩),
  ([0x7C02, 0x3CA4], .vLdb Pfx.plain 5 ⟨2, false⟩),
  ([0x7520, 0x7C02, 0x40A5], .vLds (xr 9 0) 5 ⟨2, true⟩),
  ([0x7520, 0x7C02, 0x44A5], .vSts (xr 9 0) 5 ⟨2, true⟩),
  ([0x7C02, 0x48A4], .wsQ Pfx.plain 5 ⟨2, false⟩),
  ([0x7C02, 0x4C04], .pf Pfx.plain 0 ⟨2, false⟩),
  ([0x7C02, 0x50A4], .kLd Pfx.plain 5 ⟨2, false⟩),
  ([0x7C02, 0x54A4], .kSt Pfx.plain 5 ⟨2, false⟩)] = true := by decide

theorem test_decode_page3_a : reads [
  ([0x7C03, 0x00A4], .amAdd Pfx.plain 5 ⟨2, false⟩),
  ([0x7C03, 0x04A4], .amAnd Pfx.plain 5 ⟨2, false⟩),
  ([0x7C03, 0x08A4], .amOr Pfx.plain 5 ⟨2, false⟩),
  ([0x7C03, 0x0CA4], .amXor Pfx.plain 5 ⟨2, false⟩),
  ([0x7C03, 0x10A4], .amMin Pfx.plain 5 ⟨2, false⟩),
  ([0x7C03, 0x14A4], .amMax Pfx.plain 5 ⟨2, false⟩),
  ([0x7C03, 0x18A4], .amSwp Pfx.plain 5 ⟨2, false⟩),
  ([0x7407, 0x7C03, 0x1CA4], .amCas (xr 0 7) 5 ⟨2, false⟩),
  ([0x7C03, 0x20A4], .amFadd Pfx.plain 5 ⟨2, false⟩),
  ([0x7400, 0x7C03, 0x24A4], .amUpdAdd (xr 0 0) 5 ⟨2, false⟩),
  ([0x7401, 0x7C03, 0x24A4], .amUpdOr (xr 0 1) 5 ⟨2, false⟩),
  ([0x7402, 0x7C03, 0x24A4], .amUpdAnd (xr 0 2) 5 ⟨2, false⟩),
  ([0x7403, 0x7C03, 0x24A4], .amUpdXor (xr 0 3) 5 ⟨2, false⟩),
  ([0x7404, 0x7C03, 0x24A4], .amUpdMin (xr 0 4) 5 ⟨2, false⟩),
  ([0x7405, 0x7C03, 0x24A4], .amUpdMax (xr 0 5) 5 ⟨2, false⟩),
  ([0x7406, 0x7C03, 0x24A4], .amUpdFadd (xr 0 6) 5 ⟨2, false⟩),
  ([0x7C03, 0x28A4], .swInit Pfx.plain 5 ⟨2, false⟩),
  ([0x7C03, 0x2CA4], .swWait Pfx.plain 5 ⟨2, false⟩),
  ([0x7C03, 0x30A4], .swGen Pfx.plain 5 ⟨2, false⟩),
  ([0x7C03, 0x34A7], .barArv Pfx.plain 5 7),
  ([0x7C03, 0x38A7], .barWt Pfx.plain 5 7),
  ([0x7C03, 0x3CA7], .barCfg Pfx.plain 5 7),
  ([0x7520, 0x7C03, 0x40A3], .mbPut (xr 9 0) 5 3),
  ([0x7C03, 0x44A3], .mbGet Pfx.plain 5 3)] = true := by decide

theorem test_decode_page3_b : reads [
  ([0x7C03, 0x48A0], .mbTest Pfx.plain 5),
  ([0x71D8, 0x7C03, 0x4CAF], .fence { Pfx.plain with ord := some { order := .ar, scope := .partition } } 5 15)] = true := by decide

theorem test_decode_page4_a : reads [
  ([0x7C04, 0x00A3], .vMv Pfx.plain 5 3),
  ([0x7C04, 0x04A3], .vAdd Pfx.plain 5 3),
  ([0x7C04, 0x08A3], .vSub Pfx.plain 5 3),
  ([0x7C04, 0x0CA3], .vMul Pfx.plain 5 3),
  ([0x7520, 0x7C04, 0x10A3], .vFma (xr 9 0) 5 3),
  ([0x7520, 0x7C04, 0x14A3], .vFms (xr 9 0) 5 3),
  ([0x7C04, 0x18A3], .vMin Pfx.plain 5 3),
  ([0x7C04, 0x1CA3], .vMax Pfx.plain 5 3),
  ([0x7C04, 0x20A3], .vAbs Pfx.plain 5 3),
  ([0x7C04, 0x24A3], .vNeg Pfx.plain 5 3),
  ([0x7C04, 0x28A3], .vIadd Pfx.plain 5 3),
  ([0x7C04, 0x2CA3], .vIsub Pfx.plain 5 3),
  ([0x7C04, 0x30A3], .vImul Pfx.plain 5 3),
  ([0x7C04, 0x34A3], .vImin Pfx.plain 5 3),
  ([0x7C04, 0x38A3], .vImax Pfx.plain 5 3),
  ([0x7C04, 0x3CA3], .vAnd Pfx.plain 5 3),
  ([0x7C04, 0x40A3], .vOr Pfx.plain 5 3),
  ([0x7C04, 0x44A3], .vXor Pfx.plain 5 3),
  ([0x7C04, 0x48A3], .vShl Pfx.plain 5 3),
  ([0x7C04, 0x4CA3], .vShr Pfx.plain 5 3),
  ([0x7C04, 0x50A3], .vSra Pfx.plain 5 3),
  ([0x7460, 0x7C04, 0x54A3], .vFeq (xr 3 0) 5 3),
  ([0x7560, 0x7C04, 0x54A3], .vFlt (xr 11 0) 5 3),
  ([0x7660, 0x7C04, 0x54A3], .vFle (xr 19 0) 5 3)] = true := by decide

theorem test_decode_page4_b : reads [
  ([0x7760, 0x7C04, 0x54A3], .vFun (xr 27 0) 5 3),
  ([0x7460, 0x7C04, 0x58A3], .vIeq (xr 3 0) 5 3),
  ([0x7560, 0x7C04, 0x58A3], .vIlt (xr 11 0) 5 3),
  ([0x7660, 0x7C04, 0x58A3], .vIle (xr 19 0) 5 3),
  ([0x7760, 0x7C04, 0x58A3], .vIlo (xr 27 0) 5 3),
  ([0x7C04, 0x5CA3], .vIabs Pfx.plain 5 3),
  ([0x7C04, 0x60A3], .vBcs Pfx.plain 5 3),
  ([0x7C04, 0x64A7], .vLi Pfx.plain 5 7),
  ([0x7400, 0x7C04, 0x68A3], .kAnd (xr 0 0) 5 3),
  ([0x7420, 0x7C04, 0x68A3], .kOr (xr 1 0) 5 3),
  ([0x7440, 0x7C04, 0x68A3], .kXor (xr 2 0) 5 3),
  ([0x7460, 0x7C04, 0x68A3], .kAndn (xr 3 0) 5 3),
  ([0x7480, 0x7C04, 0x68A3], .kNot (xr 4 0) 5 3),
  ([0x74A0, 0x7C04, 0x68A3], .kMv (xr 5 0) 5 3)] = true := by decide

theorem test_decode_page5_a : reads [
  ([0x7C05, 0x00A3], .vCvtfi Pfx.plain 5 3),
  ([0x7C05, 0x04A3], .vCvtif Pfx.plain 5 3),
  ([0x7C05, 0x08A3], .vExp2 Pfx.plain 5 3),
  ([0x7C05, 0x0CA3], .vLog2 Pfx.plain 5 3),
  ([0x7C05, 0x10A3], .vRcp Pfx.plain 5 3),
  ([0x7C05, 0x14A3], .vRsq Pfx.plain 5 3),
  ([0x7C05, 0x18A3], .vSqrt Pfx.plain 5 3),
  ([0x7520, 0x7C05, 0x1CA3], .vPerm (xr 9 0) 5 3),
  ([0x7C05, 0x20A7], .vBcl Pfx.plain 5 7),
  ([0x7C05, 0x24A7], .vRot Pfx.plain 5 7),
  ([0x7C05, 0x28A3], .vRsum Pfx.plain 5 3),
  ([0x7C05, 0x2CA3], .vRmax Pfx.plain 5 3),
  ([0x7C05, 0x30A3], .vRmin Pfx.plain 5 3),
  ([0x7C05, 0x34A3], .vIrsum Pfx.plain 5 3),
  ([0x7C05, 0x38A3], .vT8dec Pfx.plain 5 3),
  ([0x7C05, 0x3CA3], .vT8enc Pfx.plain 5 3),
  ([0x7C05, 0x4004], .t8Ld Pfx.plain ⟨2, false⟩),
  ([0x7C05, 0x4020], .t8LdE4 Pfx.plain),
  ([0x7C05, 0x4040], .t8LdE5 Pfx.plain),
  ([0x7C05, 0x44A3], .vExt Pfx.plain 5 3),
  ([0x7C05, 0x48A3], .vIns Pfx.plain 5 3),
  ([0x7C05, 0x4CA3], .kPop Pfx.plain 5 3),
  ([0x7C05, 0x50A3], .kFirst Pfx.plain 5 3),
  ([0x7C05, 0x54A3], .vRnd Pfx.plain 5 3)] = true := by decide

theorem test_decode_page5_b : reads [
  ([0x7C05, 0x58A3], .vCmpr Pfx.plain 5 3)] = true := by decide

theorem test_decode_page6 : reads [
  ([0x7C06, 0x00A4], .mLds Pfx.plain 5 ⟨2, false⟩),
  ([0x7C06, 0x08A4], .mStr Pfx.plain 5 ⟨2, false⟩),
  ([0x7C06, 0x0CA4], .mMrot Pfx.plain 5 ⟨2, false⟩),
  ([0x7C06, 0x10A4], .mRd Pfx.plain 5 ⟨2, false⟩),
  ([0x7C06, 0x18A4], .mCmd Pfx.plain 5 ⟨2, false⟩),
  ([0x7C06, 0x20A4], .mRdz Pfx.plain 5 ⟨2, false⟩),
  ([0x7C06, 0x0400], .mSwap Pfx.plain),
  ([0x7C06, 0x1400], .mZero Pfx.plain),
  ([0x7C06, 0x1C00], .mDrain Pfx.plain),
  ([0x7C06, 0x24A0], .mQ Pfx.plain 5)] = true := by decide

theorem test_decode_page7 : reads [
  ([0x7C07, 0x0000], .endF Pfx.plain),
  ([0x7C07, 0x04A3], .send Pfx.plain 5 3),
  ([0x7C07, 0x08A3], .sendU Pfx.plain 5 3),
  ([0x7C07, 0x0CA3], .fork Pfx.plain 5 3),
  ([0x7C07, 0x1003], .join Pfx.plain 3),
  ([0x7C07, 0x14A3], .jcInit Pfx.plain 5 3),
  ([0x7C07, 0x18A3], .chunk Pfx.plain 5 3),
  ([0x7C07, 0x1C00], .yield Pfx.plain),
  ([0x7C07, 0x2003], .hEn Pfx.plain 3),
  ([0x7C07, 0x2403], .hDis Pfx.plain 3),
  ([0x7C07, 0x2803], .hPend Pfx.plain 3),
  ([0x7C07, 0x2C03], .hClrp Pfx.plain 3),
  ([0x7C07, 0x30A3], .inPop Pfx.plain 5 3),
  ([0x7C07, 0x34A3], .inCnt Pfx.plain 5 3),
  ([0x7C07, 0x38A3], .widFld Pfx.plain 5 3),
  ([0x7C07, 0x3CA7], .tsAdd Pfx.plain 5 7),
  ([0x7C07, 0x40A3], .hTag Pfx.plain 5 3)] = true := by decide

theorem test_decode_page8 : reads [
  ([0x7520, 0x7C08, 0x00A3], .cp (xr 9 0) 5 3),
  ([0x7526, 0x7C08, 0x04A3], .cpTry (xr 9 6) 5 3),
  ([0x7C08, 0x08A3], .tkQ Pfx.plain 5 3),
  ([0x7520, 0x7C08, 0x0CA3], .slvBegin (xr 9 0) 5 3),
  ([0x7C08, 0x1000], .slvEnd Pfx.plain),
  ([0x7C08, 0x1400], .slvHclr Pfx.plain),
  ([0x7C08, 0x18A3], .slvQ Pfx.plain 5 3),
  ([0x7C08, 0x1CA3], .cpRsm Pfx.plain 5 3)] = true := by decide

theorem test_decode_page9 : reads [
  ([0x7C09, 0x00A6], .rsr Pfx.plain 5 6),
  ([0x7C09, 0x04A6], .wsr Pfx.plain 5 6),
  ([0x7C09, 0x0800], .kcallSliceEnd Pfx.plain 0),
  ([0x7C09, 0x0801], .kcallBudget Pfx.plain 1),
  ([0x7C09, 0x0802], .kcallStops Pfx.plain 2),
  ([0x7C09, 0x0803], .kcallUnbound Pfx.plain 3),
  ([0x7C09, 0x0804], .kcallRevoke Pfx.plain 4),
  ([0x7C09, 0x0805], .kcallSweepQuery Pfx.plain 5),
  ([0x7C09, 0x0809], .kcallOther Pfx.plain 9),
  ([0x7C09, 0x0C00], .tret Pfx.plain),
  ([0x7C09, 0x0C01], .tretSkip Pfx.plain),
  ([0x7C09, 0x10A3], .cslInst Pfx.plain 5 3),
  ([0x7C09, 0x14A3], .cslRbld Pfx.plain 5 3),
  ([0x7C09, 0x18A3], .cslBind Pfx.plain 5 3),
  ([0x7C09, 0x1CA3], .cslQ Pfx.plain 5 3),
  ([0x7C09, 0x20A3], .pairOn Pfx.plain 5 3),
  ([0x7C09, 0x24A0], .pairOff Pfx.plain 5),
  ([0x7C09, 0x2807], .brk Pfx.plain 7),
  ([0x7C09, 0x2C03], .ctxSv Pfx.plain 3),
  ([0x7C09, 0x30A3], .ctxLd Pfx.plain 5 3),
  ([0x7C09, 0x3403], .accSv Pfx.plain 3),
  ([0x7C09, 0x3803], .accLd Pfx.plain 3),
  ([0x7C09, 0x3C00], .idle Pfx.plain)] = true := by decide

/-! ## A state for every statement with hypotheses -/

/-- A normal firing at its first chain, on tile 0, at user privilege. -/
def st : State := State.reset.place [0]

/-- Halo's own state on tile 0. -/
def stK : State := { st with cur := { tile := 0, set := .keeper } }

def P : Pfx := Pfx.plain

/-- A repeat of a static count that steps the first field, or both. -/
def rep1 (n : BitVec 7) : Pfx := { P with rep := some { step1 := true, step2 := false, count := .imm n } }
def rep2 (n : BitVec 7) : Pfx := { P with rep := some { step1 := true, step2 := true, count := .imm n } }

def withS (s : State) (l : List (BitVec 5 × Word)) : State := l.foldl (fun s q => s.setS q.1 q.2) s
def withC (s : State) (l : List (BitVec 4 × Cap)) : State := l.foldl (fun s q => s.setC q.1 q.2) s

/-- The spot of a look that passes. -/
def spotOf : Look → Spot
  | .ok sp => sp
  | _ => { space := .global, off := 0, pieces := [] }

theorem el_plain (s : State) (h : s.free P) (a b : BitVec 5) (m n : Nat) : s.onElement P m a n b 0 1 :=
  ⟨h, ⟨rfl, rfl⟩, nofun, nofun⟩

theorem free_st : st.free P := by decide +kernel
theorem free_stK : stK.freeAt P .keeper := by decide +kernel

/-- The only element of a plain chain; the first element of a repeat that ends at the last register of its file; the second,
by RCNT. -/
theorem witness_onElement : st.onElement P 32 31 32 0 0 1 ∧ st.onElement (rep2 2) 32 30 32 30 0 2 ∧
    (st.setReg { st.reg with rcnt := { done := 1, remain := 1 } }).onElement (rep1 2) 32 30 32 0 1 2 :=
  ⟨el_plain st free_st _ _ _ _,
   ⟨by decide +kernel, by change (if _ then _ else _) ∧ _; decide +kernel, by rintro q ⟨⟩ -; decide, by rintro q ⟨⟩ -; decide⟩,
   ⟨by decide +kernel, by change (if _ then _ else _) ∧ _; decide +kernel, by rintro q ⟨⟩ -; decide, by rintro q ⟨⟩ -; decide⟩⟩

/-- Divisors 0 and −1, with the least dividend, and one that divides with a remainder. -/
theorem witness_ScalarTwoRegister :
    (st.onElement P 32 1 32 2 0 1 ∧ st.s 2 = 0) ∧
    (let s := withS st [(1, 0x8000000000000000), (2, -1)]
     s.onElement P 32 1 32 2 0 1 ∧ (s.s 1).toInt = -2 ^ 63 ∧ (s.s 2).toInt = -1) ∧
    (let s := withS st [(1, -7), (2, 2)]
     s.onElement P 32 1 32 2 0 1 ∧ s.s 2 ≠ 0 ∧ ¬ ((s.s 1).toInt = -2 ^ 63 ∧ (s.s 2).toInt = -1)) :=
  ⟨⟨el_plain _ free_st _ _ _ _, by decide +kernel⟩, ⟨el_plain _ (by decide +kernel) _ _ _ _, by decide +kernel⟩,
   ⟨el_plain _ (by decide +kernel) _ _ _ _, by decide +kernel⟩⟩

theorem witness_ScalarInPlace : st.onElement P 32 31 32 0 0 1 := el_plain _ free_st _ _ _ _

theorem witness_CompareConditions : st.onElement P 32 1 32 2 0 1 ∧ st.s (P.field1 0 1) = st.s (P.field2 0 2) :=
  ⟨el_plain _ free_st _ _ _ _, by decide +kernel⟩

theorem witness_Branches : st.free P := free_st

/-- A capability that fails each check of R87, and one that passes them. -/
theorem witness_CallsAndJumps :
    let pcc := st.reg.pcc
    let good := withC st [(5, pcc)]
    let jump := fun x => (withC st [(5, x)]).c 5
    st.free P ∧ (st.c 5).tag = false ∧ (jump (pcc.withOtype 2)).otype ≠ 0 ∧
    (let x := jump (pcc.withPerms 1)
     x.tag = true ∧ x.otype = 0 ∧ x.perms.getLsbD 2 = false) ∧
    (let x := jump (pcc.withAddr (BitVec.ofNat 64 (codeBase + 1)))
     x.perms.getLsbD 2 = true ∧ x.top < x.addr + 2) ∧
    (let s := withC (st.place [0, 0]) [(5, (st.place [0, 0]).reg.pcc.withAddr (BitVec.ofNat 64 (codeBase + 1)))]
     (s.c 5).base ≤ (s.c 5).addr ∧ (s.c 5).addr + 2 ≤ (s.c 5).top ∧ (s.c 5).addr % 2 = 1) ∧
    (let s := withC (st.place [0x7801, 0x2521])
       [(5, (st.place [0x7801, 0x2521]).reg.pcc.withAddr (BitVec.ofNat 64 (codeBase + 2)))]
     (s.c 5).addr % 2 = 0 ∧ (s.c 5).addr + 2 ≤ (s.c 5).top ∧ s.isChainStart (s.c 5).addr = false) ∧
    (good.c 5).tag = true ∧ (good.c 5).otype = 0 ∧ good.isChainStart (good.c 5).addr = true := by decide +kernel

theorem witness_LoopInstructions : st.free P ∧ (st.s 1 = 0) ∧ (withS st [(1, 3)]).free P ∧
    (withS st [(1, 3)]).s 1 ≠ 0 := by decide +kernel

theorem witness_CapabilityDerivations : st.free P ∧
    (let c := Cap.root 0x1000 0x20 0x7FF
     c.bits.extractLsb' 92 6 ≤ 50 ∧ c.bits.extractLsb' 112 14 ≠ 16383) ∧
    (Cap.null.bits.extractLsb' 92 6).toNat ≤ 50 ∧ 50 < ((Cap.make true 0 0 51 0 0 0).bits.extractLsb' 92 6).toNat := by
  decide +kernel

/-- A capability at the top of its bounds, and one that starts at address 0. -/
theorem legal_root : (Cap.root 0x1000 0x20 0x7FF).legal ∧ ((Cap.root 0x1000 0x20 0x7FF).withAddr 0x1020).legal ∧
    (Cap.root 0 16383 0x7FF).legal :=
  ⟨⟨by decide +kernel, by decide +kernel, by decide +kernel, by decide +kernel, by decide +kernel, by decide +kernel,
    by decide +kernel⟩,
   ⟨by decide +kernel, by decide +kernel, by decide +kernel, by decide +kernel, by decide +kernel, by decide +kernel,
    by decide +kernel⟩,
   ⟨by decide +kernel, by decide +kernel, by decide +kernel, by decide +kernel, by decide +kernel, by decide +kernel,
    by decide +kernel⟩⟩

theorem witness_BoundsSurviveAddressing : ∃ (c : Cap) (n : Word), c.legal ∧ c.tag = true ∧ c.otype = 0 ∧ c.base ≤ n.toNat ∧
    n.toNat = c.top := ⟨Cap.root 0x1000 0x20 0x7FF, 0x1020, legal_root.1, by decide +kernel⟩

/-- Lengths at the edges of R102: 0, 16,383 bytes, one past the bounds; and capabilities that fail its checks. -/
theorem witness_BoundsSetting :
    let c := Cap.root 0x1000 0x3FFF 0x7FF
    let s := fun (x : Cap) (w : Word) => withS (withC st [(5, x)]) [(1, w)]
    let ok := fun (x : Cap) (w : Word) => (s x w).free P ∧ ((s x w).c 5).tag = true ∧ ((s x w).c 5).otype = 0 ∧
      ((s x w).c 5).base ≤ ((s x w).c 5).addr
    (s c 0).free P ∧ (st.c 5).tag = false ∧ ((s (c.withOtype 2) 0).c 5).otype ≠ 0 ∧
    (ok c 0x4000 ∧ c.top < c.addr + ((s c 0x4000).s 1).toNat) ∧
    (ok c 0x3FFF ∧ c.addr + ((s c 0x3FFF).s 1).toNat = c.top ∧ c.top ≤ 16383 * 2 ^ 50 ∧
      c.addr + ((s c 0x3FFF).s 1).toNat = c.addr + 16383) ∧
    (ok c 0 ∧ c.addr % 2 ^ 0 = 0 ∧ c.addr + 0x3FFF * 2 ^ 0 ≤ c.top) := by decide +kernel

/-- Authorities for each outcome of R104 and R105. -/
theorem witness_SealingAndInvoking :
    let data := Cap.root 0x1000 0x20 0x7FF
    let au := Cap.root 0x100 0x100 0x7FF
    let low := Cap.root 0x10 0x100 0x7FF
    let code := st.reg.pcc
    let inv := code.withPerms (code.perms ||| 0x400)
    let sealedData := (data.withPerms 0x403).withOtype 0x100
    (data.tag = true ∧ data.otype = 0 ∧ au.tag = true ∧ au.otype = 0) ∧ Cap.null.tag = false ∧
    (data.withOtype 0x100).otype ≠ 0 ∧
    ((au.withPerms 1).perms.getLsbD 6 = false ∧ (au.withPerms 1).perms.getLsbD 7 = false) ∧
    (au.perms.getLsbD 6 = true ∧ (au.withAddr 0x200).base ≤ (au.withAddr 0x200).addr ∧ (au.withAddr 0x200).top < (au.withAddr 0x200).addr + 1) ∧
    (low.base ≤ low.addr ∧ low.addr + 1 ≤ low.top ∧ low.addr < 0x100) ∧
    (au.perms.getLsbD 6 = true ∧ au.perms.getLsbD 7 = true ∧ au.base ≤ au.addr ∧ au.addr + 1 ≤ au.top ∧ au.addr = 0x100) ∧
    ((data.withOtype 0x101).otype.toNat ≠ au.addr ∧ (data.withOtype 0x100).otype.toNat = au.addr) ∧
    (inv.withOtype 0x100).otype = sealedData.otype ∧ (inv.withOtype 0x101).otype ≠ sealedData.otype ∧
    ((code.withOtype 0x100).perms.getLsbD 10 = false ∧ (inv.withOtype 0x100).perms.getLsbD 10 = true ∧
      (inv.withOtype 0x100).perms.getLsbD 2 = true ∧ sealedData.perms.getLsbD 10 = true ∧ sealedData.perms.getLsbD 2 = false) ∧
    (inv.base ≤ inv.addr ∧ inv.addr + 2 ≤ inv.top ∧ inv.addr % 2 = 0 ∧ st.isChainStart inv.addr = true) := by decide +kernel

theorem witness_DerivationsNeverWiden : (withC st [(5, Cap.root 0 16383 0x7FF)]).free P ∧
    ((withC st [(5, Cap.root 0 16383 0x7FF)]).c 5).legal := ⟨by decide +kernel, by
  have h : (withC st [(5, Cap.root 0 16383 0x7FF)]).c 5 = Cap.root 0 16383 0x7FF := by decide +kernel
  rw [h]; exact legal_root.2.2⟩

/-- Page 1 of context 0 mapped at frame 4 of partition 0's HBM, readable, writable, for capabilities (R326, R327); table
frames 1, 2 and 3. -/
def mapped (s : State) : State :=
  let put := fun (m : List (Nat × Byte)) (q : Nat × Nat) => Memory.writeBytes m q.1 (toBytes 8 q.2)
  let info : RegInfo := { RegInfo.none with root := 1, parts := [0], data := Cap.root 0x10000 0x10000 0x7FF }
  { s with
    mem := [(0x10000, 2 ^ 63 + 2 * 2 ^ 16), (0x20000, 2 ^ 63 + 3 * 2 ^ 16),
            (0x30008, 2 ^ 63 + 2 ^ 59 + 2 ^ 57 + 2 ^ 56 + 4 * 2 ^ 16)].foldl put s.mem
    parts := Map.set s.parts 0 { Partition.reset 0 with st := .assigned }
    contexts := Map.set s.contexts 0 { (Map.get s.contexts 0 { info := info, tvec := Cap.null, table := [], edgebud := 0
                                                               left := 0, period := 0, attempts := [] }) with info := info } }

/-- c2 is the whole scratchpad, or the mapped page. -/
def sx : State := withC st [(2, Cap.root loc 0x40000 0x7FF)]
def gx : State := withC (mapped st) [(2, Cap.root 0x10000 0x10000 0x7FF)]

/-- The firing pinned. -/
def pinned (s : State) : State := match s.fir with
  | some f => s.setFir { f with pinned := true }
  | none => s

/-- c2 at an address of a local space, with its bounds. -/
def at_ (a n : Nat) : State := withC st [(2, Cap.root a n 0x7FF)]

def M0 : MemOp := ⟨2, false⟩

/-- The mapped page is painted; a sweep of context 0 opens; a query of epoch 0, of one never given and of one that is over. -/
theorem witness_PaintAndSweep :
    let s := withC (mapped stK) [(5, Cap.root 0x10000 0x20 0x7FF)]
    let c := s.c 5
    let painted := [0x40000, 0x40010]
    let onHbm := fun (v : Nat) => match s.walk (s.info s.ctxn) v with
      | .leaf x _ _ => !peHost x
      | _ => false
    s.freeAt P .keeper ∧
    (c.tag = true ∧ c.otype = 0 ∧ c.perms.getLsbD 1 = true ∧ c.base < c.top ∧ c.top ≤ 2 ^ 48 ∧
      (List.range 0x20).all (fun i => onHbm (0x10000 + i)) = true ∧ (s.paintLook (s.info s.ctxn) c).toOption = some painted) ∧
    ((withS s [(1, 1)]).s 1).getLsbD 0 = true ∧
    ((s.s 1).getLsbD 0 = false ∧ ({ s with painted := [0x40000] } : State).painted.Pairwise (· < ·)) ∧
    ((Map.get? s.contexts ((s.s 1).toNat % 4096)).isSome ∧ s.sweeps = []) ∧
    (let w : Sweep := { epoch := 1, ctx := 0, dies := [0], firings := [], pushes := [] }
     let full := { s with sweeps := List.replicate 8 w }
     let old := { s with sweeps := [w], lastEpoch := 2 ^ 31 }
     (8 ≤ (full.sweeps.filter (fun w => w.dies.contains (0 / 4))).length ∧ 0 ∈ (s.info 0).parts ∧ full.freeAt P .keeper) ∧
       2 ^ 31 ≤ epochDist (2 ^ 31 + 1) 1 ∧ old.sweeps = [w] ∧ Map.get? (withS s [(1, 5)]).contexts 5 = none) ∧
    ((s.s 1).toNat % 2 ^ 32 = 0) ∧ (let t := withS s [(1, 7)]; t.epochWrap = false ∧ t.lastEpoch < (t.s 1).toNat) ∧
    (let t := { withS s [(1, 7)] with lastEpoch := 9 }; (t.s 1).toNat ≠ 0 ∧ (t.s 1).toNat ≤ t.lastEpoch ∧
      t.lastEpoch < (t.s 1).toNat + 2 ^ 31 ∧ t.freeAt P .keeper) ∧
    (st.free P ∧ st.priv ≠ .keeper) := by decide +kernel

theorem witness_MemoryReadsBackWrites : State.reset.memWf ∧ keyKind (keyScratch 0 0 0) ≠ 0 ∧ keyKind (keyScratch 0 0 0) ≠ 4 ∧
    keyKind (keyScratch 0 0 0 + [1, 2].length) = keyKind (keyScratch 0 0 0) ∧
    State.reset.tags.Pairwise (· < ·) := by decide +kernel

/-- Each range of R118 at its first and last byte, and the ones between. -/
theorem witness_AccessChecks :
    2 ^ 48 ≤ loc ∧ (Cap.root loc 0x40000 0x7FF).checkAccess loc 8 1 = none ∧ loc % 8 = 0 ∧
    (Cap.root loc 0x40000 0x7FF).checkAccess (loc + 0x3FFFF) 1 1 = none ∧
    (Cap.root loc 0x40000 0x7FF).checkAccess (loc + 0x3FFFF) 2 1 = some Code.capBound ∧
    (Cap.root (2 ^ 48) 8 0x7FF).checkAccess (2 ^ 48) 8 1 = none ∧ 2 ^ 48 < loc ∧
    (Cap.root (loc + 0x100000) 0x200000 0x7FF).checkAccess (loc + 0x100000) 8 1 = none ∧
    (Cap.root (loc + 0x100000) 0x200000 0x7FF).checkAccess (loc + 0x2FFFF8) 8 1 = none ∧
    (Cap.root (loc + 0x400000) 0x400000 0x7FF).checkAccess (loc + 0x7FFFF8) 8 1 = none ∧
    (Cap.root (loc + 0x10000000) 0x10000000 0x7FF).checkAccess (loc + 0x1FFFFFF8) 8 1 = none ∧
    (Cap.root (loc + 0x80000) 0x11000 0x7FF).checkAccess (loc + 0x8FFF8) 8 2 = none ∧
    (Cap.root (loc + 0x80000) 0x11000 0x7FF).checkAccess (loc + 0x90FF8) 8 1 = none ∧
    (Cap.root (loc + 0x40000) 0x10 0x7FF).checkAccess (loc + 0x40000) 8 1 = none ∧
    st.tileExists 1 = true ∧ st.imageAt 1 st.ctxn = false ∧ ({ st with absent := [1] } : State).tileExists 1 = false := by
  decide +kernel

/-- An access without authority, one without the permission, one past the bounds and one misaligned. -/
theorem witness_FailedAccessesRaise :
    st.onElement P 32 1 32 0 0 1 ∧
    (let look := fun (s : State) (a : Nat) => s.look (Access.at (s.c 2) a 8 1 8 .load .dflt) none
     look st 0 = .bad Code.capTag 0 ∧ look (withC st [(2, Cap.root loc 8 2)]) loc = .bad Code.capPerm loc ∧
     look sx (loc + 0x40000) = .bad Code.capBound (loc + 0x40000) ∧ look sx (loc + 4) = .bad Code.memAlign (loc + 4)) :=
  ⟨el_plain _ free_st _ _ _ _, by decide +kernel⟩

/-- Loads of 1, 2, 4 and 8 bytes of scratchpad, and of 8 of the mapped page. -/
theorem witness_ScalarLoads : (sx.onElement P 32 1 32 0 0 1 ∧ gx.onElement P 32 1 32 0 0 1) ∧
    (let ok := fun (s : State) (n : Nat) =>
      let sp := spotOf (s.look (s.scalarAccess P M0 n 0 [permLD] .load) none)
      let t := s.reach P sp.globals
      s.look (s.scalarAccess P M0 n 0 [permLD] .load) none = .ok sp ∧ t.readsClean sp n
     ok sx 1 ∧ ok sx 2 ∧ ok sx 4 ∧ ok sx 8 ∧ ok gx 8) :=
  ⟨⟨el_plain _ (by decide +kernel) _ _ _ _, el_plain _ (by decide +kernel) _ _ _ _⟩, by decide +kernel⟩

/-- A chain with an order. -/
def ordered (o : Order) : Pfx := { P with ord := some { order := o, scope := .dflt } }

/-- Stores of each width to scratchpad, to the mapped page by a speculative firing with room, and by a pinned one. -/
theorem witness_ScalarStores : (sx.onElement P 32 1 32 0 0 1 ∧ gx.onElement P 32 1 32 0 0 1) ∧
    (sx.releasesNow P true false ∧ sx.releasesNow (ordered .rel) true false ∧ releases (ordered .rel).order = true) ∧
    (let ok := fun (n : Nat) (u : Use) =>
      let sp := spotOf (sx.look (sx.scalarAccess P M0 n 0 [permST] u) none)
      sx.look (sx.scalarAccess P M0 n 0 [permST] u) none = .ok sp ∧ sp.pieces.length = 1 ∧ sp.space ≠ .global ∧
        sp.space ≠ .window
     ok 1 .store ∧ ok 2 .store ∧ ok 4 .storeWide ∧ ok 8 .storeWide ∧ ok 8 .store) ∧
    (let ok := fun (n : Nat) (u : Use) =>
      let sp := spotOf (gx.look (gx.scalarAccess P M0 n 0 [permST] u) none)
      gx.look (gx.scalarAccess P M0 n 0 [permST] u) none = .ok sp ∧ sp.space = .global ∧
        sp.pieces = [{ va := 0x10000, key := 0x40000, n := n, tag := true }] ∧
        (gx.reach P sp.globals).fir = gx.fir ∧ (gx.fir.map Firing.pinned) = some false ∧
        (gx.reach P sp.globals).fits [.store 0x10000 [(0x40000, n)] (toBytes n 0) false] = true
     ok 1 .store ∧ ok 2 .store ∧ ok 4 .storeWide ∧ ok 8 .storeWide ∧ ok 8 .store) ∧
    ((pinned gx).onElement P 32 1 32 0 0 1 ∧
     (let s := pinned gx
      let sp := spotOf (s.look (s.scalarAccess P M0 8 0 [permST] .store) none)
      let t := s.reach P sp.globals
      s.look (s.scalarAccess P M0 8 0 [permST] .store) none = .ok sp ∧ sp.space = .global ∧ sp.pieces.length = 1 ∧
        t.releasesNow P false true ∧ t.fir.map Firing.pinned = some true ∧ t.partner t.cur.tile = none)) :=
  ⟨⟨el_plain _ (by decide +kernel) _ _ _ _, el_plain _ (by decide +kernel) _ _ _ _⟩, by decide +kernel, by decide +kernel, by decide +kernel,
   el_plain _ (by decide +kernel) _ _ _ _, by decide +kernel⟩

/-- Scratchpad and the mapped page for `c.ld`; scratchpad for `c.st`, of a tagged and an untagged value. -/
theorem witness_CapabilityLoadsAndStores : sx.free P ∧ gx.free P ∧ releases P.order = false ∧
    (let ok := fun (s : State) =>
      let x := Access.at (s.c 2) (s.effective P M0 0) 16 (BitVec.ofNat 12 1) 16 .capLoad P.scope
      let sp := spotOf (s.look x none)
      let t := s.reach P sp.globals
      s.look x none = .ok sp ∧ t.readsClean sp 16
     ok sx ∧ ok gx) ∧
    (let ok := fun (y : Cap) =>
      let s := withC sx [(5, y)]
      let x := { Access.at (s.c 2) (s.effective P M0 0) 16 (BitVec.ofNat 12 (if (s.c 5).tag then 2 ^ 1 + 2 ^ 4 else 2 ^ 1)) 16
        .capStore P.scope with cap := some (s.c 5) }
      let sp := spotOf (s.look x none)
      s.free P ∧ s.look x none = .ok sp ∧ sp.pieces.length = 1 ∧ sp.space ≠ .global
     ok Cap.null ∧ ok (Cap.root 0x10000 0x20 0x7FF)) ∧
    (let q : Pending := { res := .c 5 (Cap.root 0x10000 0x20 0x7FF), banks := [], stamp := 0 }
     let u := { gx with painted := [0x40000] }
     let v := u.setReg { u.reg with pending := [q] }
     let y := Cap.root codeBase 0x20 0x7FF
     (gx.applyResult q).c 5 = Cap.root 0x10000 0x20 0x7FF ∧ ((u.applyResult q).c 5).tag = false ∧ v.reg.pending = [q] ∧ (v.drain.c 5).tag = false ∧
       (match u.walk (u.info u.ctxn) 0x10000 with | .leaf e pa _ => !peHost e && pa == 0x40000 | _ => false) = true ∧
       y.tag = true ∧ y.base = codeBase ∧ (({ gx with painted := [keyAnchor 0] }.applyResult { q with res := .c 5 y }).c 5).tag = false) ∧
    (let s := { sx with tags := [keyScratch 0 0 0] }
     let x := Access.at (s.c 2) (s.effective P M0 0) 16 (BitVec.ofNat 12 1) 16 .capLoad P.scope
     (s.reach P []).tagSeen (spotOf (s.look x none)) = true ∧ (s.c 2).perms.getLsbD 3 = true ∧ s.painted = []) := by
  decide +kernel

/-- `c.st` to the mapped page by a speculative firing with room. -/
theorem witness_CapabilityLoadsAndStores_global :
    (let ok := fun (y : Cap) =>
      let s := withC gx [(5, y)]
      let x := { Access.at (s.c 2) (s.effective P M0 0) 16 (BitVec.ofNat 12 (if (s.c 5).tag then 2 ^ 1 + 2 ^ 4 else 2 ^ 1)) 16
        .capStore P.scope with cap := some (s.c 5) }
      let sp := spotOf (s.look x none)
      let t := s.reach P sp.globals
      s.free P ∧ s.look x none = .ok sp ∧ sp.space = .global ∧ sp.pieces.map (fun q => (q.va, q.key, q.n)) = [(0x10000, 0x40000, 16)] ∧
        t.releasesNow P false true ∧ t.fir.map Firing.pinned = some false ∧
        t.fits [.store 0x10000 [(0x40000, 16)] (toBytes 16 (s.c 5).bits.toNat) (s.c 5).tag] = true
     ok Cap.null ∧ ok (Cap.root 0x10000 0x20 0x7FF)) := by decide +kernel

/-- The mode-1 operand of a strided access: offset s8 and stride s9. -/
def PX : Pfx := { P with xr := some { x := 8, y := 0 } }
def M1 : MemOp := ⟨2, true⟩
def strided (s : State) (w : Word) : State := withS s [(9, w)]

/-- Scratchpad and the mapped page, contiguous, broadcast and strided (up and down, and of stride 0). -/
theorem witness_VectorLoads :
    (sx.onElement P 32 1 32 0 0 1 ∧ gx.onElement P 32 1 32 0 0 1 ∧ sx.tablePending = false) ∧
    (let ok := fun (s : State) (q : Access × Nat × Bool) (delta : Nat → Nat) =>
      let sp := spotOf (s.look q.1 (some q.2.1))
      let t := s.reach P sp.globals
      s.look q.1 (some q.2.1) = .ok sp ∧ t.poisonIn (t.lanesSeen sp q.1.a q.2.1 q.2.2 (t.k 0) delta) = none
     let row := fun (q : Access × Nat × Bool) j => j * elemWidth q.2.1
     ok sx (sx.vecAccess P M0 0 false false) (row (sx.vecAccess P M0 0 false false)) ∧
     ok gx (gx.vecAccess P M0 0 false false) (row (gx.vecAccess P M0 0 false false)) ∧
     ok sx (sx.vecAccess P M0 0 true false) (fun _ => 0) ∧ ok gx (gx.vecAccess P M0 0 true false) (fun _ => 0) ∧
     ok (strided sx 8) ((strided sx 8).strideAccess PX M1 0 false) (strideDelta ((strided sx 8).stride PX)) ∧
     ok (strided gx 0) ((strided gx 0).strideAccess PX M1 0 false) (strideDelta ((strided gx 0).stride PX)) ∧
     (let s := strided (withS sx [(8, 0x1000)]) (-4)
      s.free PX ∧ ok s (s.strideAccess PX M1 0 false) (strideDelta (s.stride PX)))) :=
  ⟨⟨el_plain _ (by decide +kernel) _ _ _ _, el_plain _ (by decide +kernel) _ _ _ _, by decide +kernel⟩, by decide +kernel⟩

/-- Scratchpad as F32 and as T8B, cluster memory, and the mapped page. -/
theorem witness_VectorStores :
    (sx.onElement P 32 1 32 0 0 1 ∧ gx.onElement P 32 1 32 0 0 1) ∧ releases P.order = false ∧
    (let q := sx.vecAccess P M0 0 false true
     sx.look q.1 (some q.2.1) = .ok (spotOf (sx.look q.1 (some q.2.1))) ∧ q.2.2 = true ∧ q.2.1 = 0) ∧
    (let s := sx.setTctx { sx.tctx with bankfmt := Vector.replicate 8 4 }
     let q := s.vecAccess P M0 0 false true
     let sp := spotOf (s.look q.1 (some q.2.1))
     let t := s.reach P sp.globals
     s.look q.1 (some q.2.1) = .ok sp ∧ q.2.2 = true ∧ q.2.1 = 4 ∧ s.tablePending = false ∧
       t.poisonIn (t.blocksRead sp.tile sp.off q.1.a (t.k 0) (fun j => j * elemWidth q.2.1) true) = none) ∧
    (let s := at_ (loc + 0x400000) 0x100
     let q := s.vecAccess P M0 0 false true
     let sp := spotOf (s.look q.1 (some q.2.1))
     s.look q.1 (some q.2.1) = .ok sp ∧ q.2.2 = false ∧ sp.space = .cmem ∧ sp.pieces.length = 1) ∧
    (let q := gx.vecAccess P M0 0 false true
     let sp := spotOf (gx.look q.1 (some q.2.1))
     let t := gx.reach P sp.globals
     gx.look q.1 (some q.2.1) = .ok sp ∧ q.2.2 = false ∧ sp.space = .global ∧ t.fir = gx.fir ∧
       gx.fir.map Firing.pinned = some false ∧
       t.fits ((List.range 64).flatMap (fun j => pieceStore sp.pieces (j * 4) (toBytes 4 0))) = true) ∧
    (let s := strided sx (-8)
     let s := withS s [(8, 0x1000)]
     let q := s.strideAccess PX M1 0 true
     s.free PX ∧ s.look q.1 (some q.2.1) = .ok (spotOf (s.look q.1 (some q.2.1))) ∧ q.2.2 = true) :=
  ⟨⟨el_plain _ (by decide +kernel) _ _ _ _, el_plain _ (by decide +kernel) _ _ _ _⟩, by decide +kernel, by decide +kernel,
   by decide +kernel, by decide +kernel, by decide +kernel, by decide +kernel⟩

/-- Lanes that all pass, in scratchpad, in cluster memory and in the mapped page; and lanes that all fail, in both modes. -/
theorem witness_GatherAndScatter : sx.onElement P 31 0 32 0 0 1 ∧ gx.onElement P 31 0 32 0 0 1 ∧ releases P.order = false ∧
    (let ok := fun (s : State) (scratch : Bool) (use : Use) =>
      let c := s.c 2
      let a0 := s.effective P M0 0
      let x : Access := { via := c, a := a0, ta := a0, n := 4, need := 0, align := 1, vec := true, stride := 0
                          use := use, scope := P.scope, cap := none }
      let l := (s.lookLanes x 0 ((List.range 64).map (fun j => (j, a0)))).toOption.getD []
      let t := s.reach P (l.flatMap (fun r => r.2.globals))
      c.tag = true ∧ c.otype = 0 ∧ c.perms.getLsbD 0 = true ∧ c.perms.getLsbD 1 = true ∧ (s.vecFmt a0) = (0, scratch) ∧
        a0 % 4 = 0 ∧ l.length = 64 ∧ c.base ≤ a0 ∧ a0 + 4 ≤ c.top ∧ t.poisonIn (t.seenLanes 0 scratch l) = none
     ok sx true .vload ∧ ok sx true .scatter ∧ ok gx false .vload ∧ ok gx false .scatter ∧
     ok (at_ (loc + 0x400000) 0x100) false .scatter) ∧
    (let s := sx.setTctx { sx.tctx with bankfmt := Vector.replicate 8 4 }
     let a0 := s.effective P M0 0
     let x : Access := { via := s.c 2, a := a0, ta := a0, n := elemWidth 4, need := 0, align := 1, vec := true, stride := 0
                         use := .scatter, scope := P.scope, cap := none }
     let l := (s.lookLanes x 4 ((List.range 64).map (fun j => (j, a0)))).toOption.getD []
     let t := s.reach P (l.flatMap (fun r => r.2.globals))
     (s.vecFmt a0) = (4, true) ∧ s.tablePending = false ∧ l.length = 64 ∧
       t.poisonIn (l.flatMap (fun r => t.blocksRead r.2.tile r.2.off r.2.va 1 (fun _ => 0) false)) = none) ∧
    (let c := at_ (loc + 0x400000) 0x100
     let a0 := c.effective P M0 0
     let x : Access := { via := c.c 2, a := a0, ta := a0, n := 4, need := 0, align := 1, vec := true, stride := 0
                         use := .scatter, scope := P.scope, cap := none }
     ∀ r, r ∈ (c.lookLanes x 0 ((List.range 64).map (fun j => (j, a0)))).toOption.getD [] → r.2.space = .cmem) ∧
    (let a0 := gx.effective P M0 0
     let x : Access := { via := gx.c 2, a := a0, ta := a0, n := 4, need := 0, align := 1, vec := true, stride := 0
                         use := .scatter, scope := P.scope, cap := none }
     let l := (gx.lookLanes x 0 ((List.range 64).map (fun j => (j, a0)))).toOption.getD []
     let t := gx.reach P (l.flatMap (fun r => r.2.globals))
     (∀ r, r ∈ l → r.2.space = .global ∧ r.2.pieces ≠ []) ∧ t.fir = gx.fir ∧ gx.fir.map Firing.pinned = some false ∧
       t.fits (l.flatMap (fun r => storesOf r.2.pieces (toBytes 4 0) false)) = true) ∧
    (let s := at_ loc 2
     let a0 := s.effective P M0 0
     (s.c 2).tag = true ∧ (s.c 2).top < a0 + 4 ∧ P.laneZero = false ∧
       ({ P with num := some { round := .dflt, zero := true, report := 1 } } : Pfx).laneZero = true) :=
  ⟨el_plain _ (by decide +kernel) _ _ _ _, el_plain _ (by decide +kernel) _ _ _ _, by decide +kernel, by decide +kernel,
   by decide +kernel, by decide +kernel, by decide +kernel, by decide +kernel⟩

/-- A bank in refresh, and one that is not. -/
theorem witness_RefreshQueryAndPrefetch :
    let s := at_ (loc + 0x10000000) 0x100
    let x := Access.at (s.c 2) (s.effective P M0 0) 1 (BitVec.ofNat 12 1) 1 .wsq P.scope
    let sp : Spot := { space := .wstore, off := 0
                       pieces := [{ va := loc + 0x10000000, key := keyWs 0 0, n := 1, tag := false }] }
    s.free P ∧ s.look x none = .ok sp ∧
      (let t := { s with phases := Map.set s.phases 0 0 }
       t.refreshTime (dieOf t.cur.tile) < 2100) := by decide +kernel

theorem witness_VectorIntegerLanes : st.onElement P 32 31 32 0 0 1 ∧ P.immI 15 % 64 = P.immI 15 ∧ P.immI 0 % 64 = P.immI 0 :=
  ⟨el_plain _ free_st _ _ _ _, by decide⟩

/-- With the table at rest, and with a conversion outstanding. -/
theorem witness_VectorFloatLanes : st.onElement P 32 1 32 2 0 1 ∧ st.tablePending = false ∧
    (st.pend (.table tableE5)).onElement P 32 1 32 2 0 1 ∧ (st.pend (.table tableE5)).tablePending = true :=
  ⟨el_plain _ free_st _ _ _ _, by decide +kernel, el_plain _ (by decide +kernel) _ _ _ _, by decide +kernel⟩

/-- The least NaN above the infinities, and numbers next to it. -/
theorem witness_FloatSpecialValues : (0x7F800001 : Lane).toNat % 2 ^ 31 > 0x7F800000 ∧ ¬ (0x7F800000 : Lane).toNat % 2 ^ 31 > 0x7F800000 ∧
    ¬ (0x3F800000 : Lane).toNat % 2 ^ 31 > 0x7F800000 ∧ (0x3F800000 : Lane) ≠ 0x7F800000 ∧
    (0x3F800000 : Lane) ≠ 0x7F800000 ||| 0x80000000 ∧ (0x3F800000 : Lane) ≠ 0 ∧ (0x3F800000 : Lane) ≠ 0x80000000 := by decide

theorem real_one : realOf 0x3F800000 = 1 := by
  change ((f32.value 1065353216 : ℚ) : ℝ) = 1
  norm_num [FloatFmt.value, f32, FloatFmt.signBit]
theorem real_minus : realOf 0xBF800000 = -1 := by
  change ((f32.value 3212836864 : ℚ) : ℝ) = -1
  norm_num [FloatFmt.value, f32, FloatFmt.signBit]
theorem real_two : realOf 0x40000000 = 2 := by
  change ((f32.value 1073741824 : ℚ) : ℝ) = 2
  norm_num [FloatFmt.value, f32, FloatFmt.signBit]
theorem real_zero : realOf 0 = 0 := by
  change ((f32.value 0 : ℚ) : ℝ) = 0
  norm_num [FloatFmt.value, f32, FloatFmt.signBit]

/-- 1 and −1, a power of two, and a whole number at the edge of those that an exponential takes. -/
theorem witness_FloatSpecialValues_finite :
    (finite 0xBF800000 ∧ realOf 0xBF800000 < 0) ∧ (finite 0x3F800000 ∧ realOf 0x3F800000 ≠ 0 ∧ realOf 0x3F800000 = 1) ∧
    (finite 0x40000000 ∧ 0 < realOf 0x40000000 ∧ realOf 0x40000000 ≠ 1 ∧ realOf 0x40000000 = ((2 : ℤ) : ℝ) ∧
      realOf 0x40000000 = 2 ^ (1 : ℤ)) := by
  rw [real_minus, real_one, real_two]
  refine ⟨⟨by decide, ?_⟩, ⟨by decide, ?_⟩, by decide, ?_⟩ <;> norm_num

/-- Infinities, and magnitudes below, at and above the half way. -/
theorem witness_RoundingOfValues : ¬ 0x7F800000 < (0xFF800000 : Lane).toNat % 2 ^ 31 ∧ ¬ 0x7F80 < 0xFF80 % 2 ^ 15 ∧
    ¬ 0x7C00 < 0xFC00 % 2 ^ 15 ∧ 5 % 2 ^ 2 ≠ 0 ∧ 2 * (5 % 2 ^ 2) < 2 ^ 2 ∧ 2 ^ 2 < 2 * (7 % 2 ^ 2) ∧ 2 * (6 % 2 ^ 2) = 2 ^ 2 := by
  decide

/-- Sums, differences, products and fused products that are zero and that are not. -/
theorem witness_RoundingOfValues_exact :
    f32 ∈ [f32, bf16, f16] ∧ (finite 0x3F800000 ∧ finite 0xBF800000 ∧ finite 0x40000000 ∧ finite 0) ∧
    realOf 0x3F800000 + realOf 0x40000000 ≠ 0 ∧ (realOf 0x3F800000 + realOf 0xBF800000 = 0 ∧ (0x3F800000 : Lane) ≠ 0xBF800000) ∧
    realOf 0x3F800000 - realOf 0x40000000 ≠ 0 ∧ (realOf 0x3F800000 = realOf 0x3F800000 ∧ realOf 0x3F800000 ≠ 0) ∧
    realOf 0x3F800000 * realOf 0x40000000 ≠ 0 ∧ realOf 0x3F800000 * realOf 0 = 0 ∧
    realOf 0x3F800000 + realOf 0x40000000 * realOf 0x40000000 ≠ 0 ∧
    realOf 0x3F800000 - realOf 0x40000000 * realOf 0x40000000 ≠ 0 := by
  rw [real_minus, real_one, real_two, real_zero]
  have : (0x3F800000 : Lane) ≠ 0xBF800000 := by decide
  refine ⟨by decide, ⟨by decide, by decide, by decide, by decide⟩, ?_, ⟨?_, this⟩, ?_⟩ <;> norm_num

/-- An accumulator of F32 values, of integers, and an empty one. -/
theorem witness_RoundingOfValues_matrix :
    (let m := { Matrix.reset with empty := false }
     m.empty = false ∧ m.aclsInt = false ∧ realOf 0x3F800000 ≠ 0) ∧
    (let m := { Matrix.reset with empty := false, aclsInt := true }
     m.empty = false ∧ m.aclsInt = true ∧ ((1 : Lane).toInt : ℝ) ≠ 0) ∧ Matrix.reset.empty = true := by
  rw [real_one]
  refine ⟨⟨rfl, by decide, by norm_num⟩, ⟨rfl, rfl, ?_⟩, by decide⟩
  have : ((1 : Lane).toInt) = 1 := by decide
  rw [this]; norm_num

theorem witness_VectorCompares : st.onElement { P with xr := some { x := 1, y := 0 } } 32 1 32 2 0 1 :=
  ⟨by decide +kernel, ⟨rfl, rfl⟩, nofun, nofun⟩

theorem witness_MasksAndReductions : st.onElement P 8 ((1 : BitVec 3).zeroExtend 5) 8 ((0 : BitVec 3).zeroExtend 5) 0 1 ∧
    st.onElement P 32 1 8 ((7 : BitVec 3).zeroExtend 5) 0 1 ∧ st.onElement P 32 1 32 2 0 1 :=
  ⟨el_plain _ free_st _ _ _ _, el_plain _ free_st _ _ _ _, el_plain _ free_st _ _ _ _⟩

/-- A matrix command of an operand format. -/
def cmdAt : MtxCmd := { opc := 3, rnd := 0, ws := false, addr := 0, wfmt := 0, pitch := 0, step := 0, fmt := 0, owner := none }

/-- Presets 1 and 2, also by a repeat that steps the preset. -/
theorem witness_DecodeTableLoads : st.onElement P 3 1 32 0 0 1 ∧ st.onElement P 3 2 32 0 0 1 ∧
    (let s := st.setReg { st.reg with rcnt := { done := 2, remain := 1 } }
     s.onElement (rep1 3) 3 0 32 0 2 3 ∧ (rep1 3).field1 2 0 = 2 ∧ (rep1 3).field1 1 0 = 1) ∧
    (sx.onElement P 3 0 32 0 0 1 ∧ P.field1 0 0 = 0) ∧ (st.setMtx { st.mtx with queue := [{ cmdAt with fmt := 3 }] }).tableBusy = true ∧ st.tableBusy = false :=
  ⟨el_plain _ free_st _ _ _ _, el_plain _ free_st _ _ _ _,
   ⟨⟨by decide +kernel, by change (if _ then _ else _) ∧ _; decide +kernel, by rintro q ⟨⟩ -; decide, by rintro q ⟨⟩ -; decide⟩,
    by decide, by decide⟩, ⟨el_plain _ (by decide +kernel) _ _ _ _, by decide⟩, by decide +kernel, by decide +kernel⟩

/-- Scratchpad with an image of zeros of both signs, which R68 takes, or of zeros of one sign, which it refuses. -/
def imaged (l : List (Nat × Byte)) : State := { sx with mem := l }
def signs : List (Nat × Byte) := (List.range 128).map (fun j => (36893488147419103746 + 4 * j, 4))

theorem witness_DecodeTableLoads_look :
    let ok := fun (s : State) =>
      let x := Access.at (s.c 2) (s.effective P M0 (1024 * 0)) 1024 (BitVec.ofNat 12 1) 4 .load P.scope
      let sp := spotOf (s.look x none)
      let t := s.reach P sp.globals
      s.look x none = .ok sp ∧ t.readsClean sp 1024 ∧ (t.noteReads (t.linesRead sp)).tableBusy = false
    ok (imaged signs) ∧ ok (imaged []) := by decide +kernel

/-- The words of that image. -/
def signWords : List Nat := List.replicate 128 0 ++ List.replicate 128 (2 ^ 18)

theorem witness_DecodeTableLoads_bytes : keyScratch 0 0 0 = 36893488147419103232 ∧ (imaged signs).readBytes 0 36893488147419103232 1024 = signWords.flatMap (toBytes 4) := by
  decide +kernel

theorem witness_DecodeTableLoads_image : tableValid signWords = true ∧
    tableValid (signWords.set 255 0) = false ∧ tableValid (signWords.set 3 (2 ^ 19)) = false ∧
    tableValid (signWords.set 3 1) = false := by decide +kernel

/-- An atomic on scratchpad, one on the mapped page by a pinned firing, and the old values that `am.cas` compares. -/
theorem witness_AtomicOperations :
    (let ok := fun (s : State) (n align : Nat) =>
      let sp := spotOf (s.look (s.atomicAccess P M0 n align .atomic) none)
      let t := s.reach P sp.globals
      s.free P ∧ releases P.order = false ∧ s.look (s.atomicAccess P M0 n align .atomic) none = .ok sp ∧ sp.pieces.length = 1 ∧
        (sp.pieces.map (fun q => keyKind q.key)) ≠ [1] ∧ s.partner s.cur.tile = none ∧ t.readsClean sp n
     ok sx 8 8 ∧ ok sx 4 4 ∧ ok (pinned gx) 8 8 ∧ ok (pinned gx) 4 4) ∧
    (spotOf (sx.look (sx.atomicAccess P M0 8 8 .atomic) none)).space ≠ .global ∧
    (spotOf (gx.look (gx.atomicAccess P M0 8 8 .atomic) none)).space = .global ∧ (pinned gx).fir.map Firing.pinned = some true ∧
    (sx.vecFmt (sx.effective P M0 0)).1 < 3 ∧ (sx.s P.y = 0 ∧ (0 : Word) = BitVec.ofNat 64 (ofBytes (sx.readBytes 0 (keyScratch 0 0 0) 8))) ∧
    (let p : Pfx := { P with xr := some { x := 0, y := 7 } }
     let s := withS sx [(7, 5)]
     s.free p ∧ BitVec.ofNat 64 (ofBytes (s.readBytes 0 (keyScratch 0 0 0) 8)) ≠ s.s p.y) ∧
    ((0x7F800001 : Lane).toNat % 2 ^ 31 > 0x7F800000) := by decide +kernel

/-- Context 0 at supervisor privilege. -/
def sup (s : State) : State := match Map.get? s.contexts 0 with
  | some x => { s with contexts := Map.set s.contexts 0 { x with info := { x.info with priv := .supervisor } } }
  | none => s

theorem witness_UpdateOnlyAtomics :
    (let s := sup gx
     let ok := fun (n : Nat) =>
      let sp := spotOf (s.look (s.atomicAccess P M0 n n .update) none)
      s.freeAt P .supervisor ∧ s.look (s.atomicAccess P M0 n n .update) none = .ok sp ∧ sp.pieces.length = 1 ∧
        sp.pieces.map (fun q => keyKind q.key) = [0] ∧ ((s.reachHeld P sp.globals).tile s.cur.tile).updates = []
     ok 8 ∧ ok 4) ∧
    (let s0 := sup gx
     let s := s0.setTile 0 { s0.tile 0 with updates := [(0x40000, 0, s0.keyId, 7)] }
     let sp := spotOf (s.look (s.atomicAccess P M0 8 8 .update) none)
     let t := s.reachHeld P sp.globals
     s.freeAt P .supervisor ∧ sp.pieces.map (fun q => q.key) = [0x40000] ∧ t.releasesNow P false true ∧
       (t.tile t.cur.tile).updates = [(0x40000, 0, t.keyId, 7)]) ∧
    (st.free P ∧ st.priv = .user) ∧
    (let s := st.setTile 0 { st.tile 0 with updates := [(0x40000, 5, 0, 7)] }
     5 < 6 ∧ (s.tile 0).updates = [(0x40000, 5, 0, 7)]) := by decide +kernel

/-- A frame of an open export; an address that is not of the bank's width in an F32's place. -/
theorem witness_UpdateOnlyAtomics_exported :
    (let s := { sup gx with exps := [(1, BitVec.ofNat 64 (2 ^ 63 + 1 * 2 ^ 16))] }
     let sp := spotOf (s.look (s.atomicAccess P M0 8 8 .update) none)
     let t := s.reachHeld P sp.globals
     s.freeAt P .supervisor ∧ sp.pieces.map (fun q => q.key) = [0x40000] ∧ t.releasesNow P false true ∧ t.exported 0x40000 = true ∧
       t.updaters = [] ∧ (sup gx).exported 0x40000 = false) ∧
    (let s := sup (sx.setTctx { sx.tctx with bankfmt := Vector.replicate 8 1 })
     s.freeAt P .supervisor ∧ (s.vecFmt (s.effective P M0 0)) = (1, true) ∧
       (match s.look (s.atomicAccess P M0 2 2 .update) none with | .bad _ _ => true | _ => false) = true) := by decide +kernel

/-- A sync word in scratchpad; mailboxes of this tile, of one that does not exist, and of one without the context. -/
theorem witness_SyncWordsAndMailboxes :
    (let x := fun (perm : Nat) (use : Use) => Access.at (sx.c 2) (sx.effective P M0 0) 16 (BitVec.ofNat 12 (2 ^ perm)) 16 use .dflt
     let sp := spotOf (sx.look (x 0 .sync) none)
     let t := sx.reach P sp.globals
     sx.free P ∧ sx.look (x 1 .syncInit) none = .ok sp ∧ sx.look (x 0 .sync) none = .ok sp ∧ sp.pieces.length = 1 ∧
       t.readsClean sp 16) ∧
    (st.free P ∧ st.fir.map (fun f => f.journalIn[f.journaled]?) = some none) ∧
    (withS st [(1, 0xA00)]).tileExists ((withS st [(1, 0xA00)]).s 1).toNat = false ∧
    ((withS st [(1, 1)]).tileExists 1 = true ∧ (withS st [(1, 1)]).resident 1 st.ctxn = false) ∧
    (st.tileExists (st.s 1).toNat = true ∧ st.resident (st.s 1).toNat st.ctxn = true ∧ P.order = .relaxed) ∧
    (st.tctx.mailbox 3).presence = false ∧
    (let s := st.setTctx (st.tctx.setMailbox 3 { value := 9, presence := true, overrun := false })
     s.free P ∧ (s.tctx.mailbox 3).presence = true ∧ s.fir.map (fun f => f.journalIn[f.journaled]?) = some none) := by
  decide +kernel

/-- Context 0 with counters 0 to 7 and barriers 0 to 3 of cluster 0. -/
def clu : State := st.setCluster 0 { st.cluster 0 with
  shares := [(0, { ctrLo := 0, ctrLen := 8, barLo := 0, barLen := 4, cmemOff := 0, cmemLen := 0 })] }

/-- The last barrier of the block and the first outside it; a member that has not arrived and one that has. -/
theorem witness_BarrierInstructions : clu.free P ∧ clu.barrierNum (P.immI 3).toNat = some 3 ∧ clu.barrierNum (P.immI 4).toNat = none ∧
    (clu.barrier 3).mask.testBit (clusterIdx clu.cur.tile) = false ∧ clu.poisonIn [clu.barrierSeen 3] = none ∧
    (let s := clu.setBarrier 3 { mask := 1, arr := 0, phase := 0 }
     s.free P ∧ (s.barrier 3).mask.testBit (clusterIdx s.cur.tile) = true ∧ (s.barrier 3).arr.testBit 0 = false ∧
       s.fir.map (fun f => f.journalIn[f.journaled]?) = some none) ∧
    (let s := clu.setBarrier 3 { mask := 3, arr := 1, phase := 0 }
     (s.barrier 3).mask.testBit (clusterIdx s.cur.tile) = true ∧ (s.barrier 3).arr.testBit 0 = true) := by decide +kernel

def fenceP (o : Order) (sc : Scope) : Pfx := { P with ord := some { order := o, scope := sc } }

/-- A write posted by the firing to port 0, on its way or lost. -/
def unit0 : FabricUnit :=
  { src := 0, pkg := 1, export_ := 0, group := 0, attempt := 0, off := 0, units := 1, secure := false, tile := 0, push := 0, dst := 0
    data := [], poison := false }
def post0 : Posted := { unit := unit0, port := 0, owner := some st.selfId, lost := false }
def postedAt (x : PortState) (lost : Bool) : State := { st with posted := [{ post0 with lost := lost }], ports := [(0, x)] }

theorem witness_Fence :
    (st.free (fenceP .acq .tile) ∧ releases (fenceP .acq .tile).order = false ∧ (fenceP .acq .cluster).scope = .cluster) ∧
    (st.holdsTaskLines = false ∧ (st.tile st.cur.tile).updates = [] ∧ st.ownCopies = false ∧ releases (fenceP .rel .device).order = true ∧
      (fenceP .rel .device).scope ≠ .system) ∧
    ((fenceP .ar .system).scope = .system ∧ st.posted.filter (fun q => q.ownedBy st.selfId) = []) ∧
    (let s := postedAt .up false
     let mine := s.posted.filter (fun q => q.ownedBy s.selfId)
     s.free (fenceP .ar .system) ∧ s.holdsTaskLines = false ∧ (s.tile s.cur.tile).updates = [] ∧ s.ownCopies = false ∧
       ∃ q, q ∈ mine ∧ q.lost = false) ∧
    (let s := postedAt .down true
     let mine := s.posted.filter (fun q => q.ownedBy s.selfId)
     s.free (fenceP .ar .system) ∧ s.holdsTaskLines = false ∧ (s.tile s.cur.tile).updates = [] ∧ s.ownCopies = false ∧ mine ≠ [] ∧
       ∀ q, q ∈ mine → q.lost = true) := by
  refine ⟨by decide +kernel, by decide +kernel, by decide +kernel, ?_, by decide +kernel⟩
  exact ⟨by decide +kernel, by decide +kernel, by decide +kernel, by decide +kernel, post0,
    by decide +kernel, by decide +kernel⟩

/-- The firing of a state. -/
def firOf (s : State) : Firing := s.fir.getD Firing.placed

def firing (s : State) (g : Firing → Firing) : State := s.setFir (g (firOf s))

/-- A control word of one output, and a single-port handler entry of tag 0. -/
def oneOut (f : Firing) : Firing := { f with image := { f.image with ctrl := 2 ^ 32 } }

def singleEntry : EntryImage := { cap := st.reg.pcc, port := 0, ctrl := 2 ^ 16 + 2 ^ 12 }

def entryOn (s : State) : State := s.setTctx (s.tctx.setEntry 0 { s.tctx.entry 0 with image := singleEntry })

/-- Destinations 0 and one that does not exist; outputs left and none left; room and none; each kind of counter. -/
theorem witness_TaskOutputs :
    (let s := firing clu oneOut
     s.free P ∧ s.fir = some (firOf s) ∧ (firOf s).pinned = false ∧ s.fits [.setEn 0 true] = true ∧
     s.fits [.pend 0 0 0 none] = true ∧ s.fits [.clearPend 0] = true ∧ s.fits [.arm 0 true 0 s.payload 0 0 none] = true ∧
     s.fits [.join 0 0] = true ∧
     (s.tileExists (s.s 1).toNat = true ∧ (firOf s).outputs + 1 ≤ ((firOf s).image.ctrl.extractLsb' 32 8).toNat ∧
       quadOf (s.s 1).toNat = quadOf s.cur.tile) ∧
     (withS s [(1, 0xA00)]).tileExists ((withS s [(1, 0xA00)]).s 1).toNat = false ∧
     s.fits [.send { ts := 0, src := 0, knd := 1, urg := false, tag := 0, wid := 0, payload := [0, 0, 0, 0, 0, 0], ctx := 0, dst := 0
                     slot := none }] = true ∧
     (let h := (s.tctx.entry 0).image
      ¬ (h.ctrl.extractLsb' 16 2).toNat = 1)) ∧
    (let s := clu
     ((firOf s).image.ctrl.extractLsb' 32 8).toNat < (firOf s).outputs + 1 ∧ s.tileExists (s.s 1).toNat = true) ∧
    (let s := pinned (firing clu oneOut)
     s.free P ∧ (firOf s).pinned = true ∧ s.partner s.cur.tile = none) ∧
    (let s := firing clu (fun f => { f with ts := 2 ^ 32 - 1 })
     2 ^ 32 ≤ (firOf s).ts + ((firOf s).off + (P.immI 1).toNat) ∧ (firOf s).ts + ((firOf s).off + (P.immI 0).toNat) < 2 ^ 32) ∧
    (let s := entryOn (firing clu oneOut)
     let h := (s.tctx.entry ((s.s 1).toNat % 4096)).image
     s.free P ∧ (h.ctrl.extractLsb' 16 2).toNat = 1 ∧ (h.ctrl.extractLsb' 12 3).toNat = 1 ∧ (h.port.extractLsb' 12 4).toNat = 0 ∧
       (firOf s).outputs + 1 ≤ ((firOf s).image.ctrl.extractLsb' 32 8).toNat ∧ (s.tile s.cur.tile).deque.length < 64) ∧
    (let s := entryOn clu
     ((firOf s).image.ctrl.extractLsb' 32 8).toNat < (firOf s).outputs + 1) ∧
    (let task : Task := { msg := { ts := 0, src := 0, knd := 1, urg := false, tag := 0, wid := 0, payload := [], ctx := 0, dst := 0, slot := none }
                          serial := 0, parent := { tile := 0, serial := 0 } }
     let s := entryOn (firing clu oneOut)
     let u := s.setTile 0 { s.tile 0 with deque := List.replicate 64 task }
     u.free P ∧ 64 ≤ (u.tile u.cur.tile).deque.length) ∧
    (clu.poisonIn [clu.counterSeen 7] = none ∧ clu.ownsCounter 7 = true ∧ clu.ownsCounter 8 = false ∧ st.ownsCounter 0 = false) ∧
    (clu.counter 0 0 = .idle ∧
      (clu.setCounter 0 0 (.join 1 0 0 [] 0 0 0 none)).counter 0 0 = .join 1 0 0 [] 0 0 0 none ∧
      (clu.setCounter 0 0 (.join 2 0 0 [] 0 0 0 none)).counter 0 0 = .join 2 0 0 [] 0 0 0 none ∧ 1 < 2) ∧
    ((2 : Word).extractLsb' 0 32).toNat ≠ 0 := by decide +kernel

/-- Ports within and outside the handler's, empty and not; claims replayed, buffered and direct; a `yield` with a slot free, one
with nothing to give way to, and one with every slot taken. -/
theorem witness_TaskInputsAndEnds :
    let m : Msg := { ts := 0, src := 0, knd := 1, urg := false, tag := 0, wid := 0, payload := [1, 2, 3, 4, 5, 6], ctx := 0, dst := 0
                     slot := none }
    let s := firing clu (fun f => { f with image := singleEntry })
    let nport := ((firOf s).image.ctrl.extractLsb' 12 3).toNat
    (s.free P ∧ s.fir = some (firOf s) ∧ s.cur.set ≠ .keeper) ∧
    (nport ≤ ((withS s [(1, 1)]).s 1).toNat % 4 ∧ (s.s 1).toNat % 4 < nport ∧ (s.tctx.entry 0).queue = [] ∧
      (s.tctx.entry 0).queue.length < 128) ∧
    (let u := s.setTctx (s.tctx.setEntry 0 { s.tctx.entry 0 with queue := [m] })
     u.free P ∧ (u.tctx.entry 0).queue = m :: [] ∧ (firOf u).owed = [] ∧ m.bad = [] ∧ (u.s 1).toNat % 4 < nport ∧
       (firOf u).image.port.extractLsb' 0 12 = 0) ∧
    (let u := firing s (fun f => { f with owed := [(0, m)] })
     u.free P ∧ (u.s 1).toNat % 4 < nport ∧
       (firOf u).owed.find? (fun q => ((firOf u).image.port.extractLsb' (16 * q.1) 12).toNat == 0) = some (0, m)) ∧
    (s.ownsCounter ((withS s [(1, 8)]).s 1).toNat = false ∧ s.ownsCounter 0 = true) ∧
    (let u := s.setCounter 0 0 (.iter 10 1 8 0 none)
     u.free P ∧ u.counter 0 0 = .iter 10 1 8 0 none ∧
     ((firOf (firing u (fun f => { f with replay := [1] }))).claims = [] ∧
       (firOf (firing u (fun f => { f with replay := [1] }))).claimed < (firOf (firing u (fun f => { f with replay := [1] }))).replay.length) ∧
     ((firOf u).replay.length ≤ (firOf u).claimed ∧ (firOf u).claimed + (firOf u).claims.length < 16) ∧
     (let v := firing u (fun f => { f with pinned := true, claims := List.replicate 16 0 })
      v.free P ∧ (firOf v).claims ≠ [] ∧ 16 ≤ (firOf v).claimed + (firOf v).claims.length ∧ (firOf v).pinned = true)) ∧
    (let u := s.setTctx { s.tctx with prq := true }
     u.free P ∧ u.tctx.prq = true ∧ u.tctx.savedCount (firOf u).urgent < 4) ∧
    (let e := { s.tctx.entry 5 with image := { singleEntry with ctrl := singleEntry.ctrl + 2 ^ 24 }, en := true, pend := true }
     let u := s.setTctx (s.tctx.setEntry 5 e)
     u.free P ∧ u.tctx.prq = false ∧ (u.choose 0 u.ctxn (firOf u).urgent).map (fun q => q.prio) = some 1 ∧
       ((firOf u).image.ctrl.extractLsb' 24 8).toNat < 1 ∧ u.tctx.savedCount (firOf u).urgent < 4) ∧
    (s.tctx.prq = false ∧ s.choose s.cur.tile s.ctxn (firOf s).urgent = none) ∧
    (let u := s.setTctx { s.tctx with saved := List.replicate 4 (0, s.reg) }
     u.free P ∧ 4 ≤ u.tctx.savedCount (firOf u).urgent) := by decide +kernel

/-- A context that ACCOWN names and one that it does not; the queue with and without room; operands that pass R233, in each
space, and operands that break its checks. -/
theorem witness_MatrixInstructions :
    let u := fun (s : State) => s.accFirst s.cur.tile s.ctxn
    let x := fun (s : State) => (u s).mtx
    (¬ ((st.tile 0).accown.getLsbD 15 = true) ∧ ((u st).tile 0).accown.getLsbD 15 = true ∧ ((u st).tile 0).accown.toNat % 4096 = 0) ∧
    st.free P ∧ (x st).queue.length < 16 ∧ (x st).queue = [] ∧
    (let s := (u st).setMtx { (u st).mtx with queue := List.replicate 16 cmdAt }
     s.free P ∧ ¬ (x s).queue.length < 16 ∧ (x s).queue ≠ []) ∧
    (let m := fun (fmt : BitVec 8) => sx.setTctx { sx.tctx with bankfmt := Vector.replicate 8 fmt }
     let ok := fun (s : State) (a opc : Nat) (mask : BitVec 12) (ws : Bool) (fmt bank : Nat) =>
       let off := (spaceOf 0 a).2
       s.free P ∧ (u s).effective P M0 0 = a ∧ ((u s).c 2).checkAccess a (spanLen opc fmt 0) mask = none ∧ off % 4 = 0 ∧
         off % bank + spanLen opc fmt 0 ≤ bank ∧ (x s).predict.accepts opc fmt ws = true ∧ (u s).torusBroken 0 = false ∧
         (u s).tablePending = false
     (spaceOf 0 loc).1.scratchTile = some 0 ∧ (u (m 1)).bankFmt 0 0 0 = 1 ∧
     ok (m 1) loc 1 1 false 1 32768 ∧ ok (m 1) loc 3 1 false 1 32768 ∧ ok (m 1) loc 4 3 false 1 32768 ∧
     (x sx).predict.accepts 1 0 false = false) ∧
    (let s := at_ (loc + 0x10000000) 0x10000
     (spaceOf 0 (loc + 0x10000000)).1 = .wstore ∧ s.free P ∧ (u s).effective P M0 0 = loc + 0x10000000 ∧
       ((u s).c 2).checkAccess (loc + 0x10000000) (spanLen 1 1 0) 1 = none ∧ (x s).predict.accepts 1 1 true = true ∧
       (0x40000 : Word).extractLsb' 18 3 = 1) ∧
    ((st.c 2).checkAccess 0 (spanLen 3 1 0) 1 = some Code.capTag ∧ (u st).effective P M0 0 = 0) ∧
    ((loc + 2) % 4 ≠ 0 ∧ (2 : Nat) % 4 ≠ 0 ∧ 32768 < 32764 + spanLen 3 1 0) := by decide +kernel

/-- Readable acc in both kinds, so that the reading commands pass too. -/
theorem witness_MatrixInstructions_read :
    let u := fun (s : State) => s.accFirst s.cur.tile s.ctxn
    let s0 := u (sx.setTctx { sx.tctx with bankfmt := Vector.replicate 8 1 })
    let s := s0.setMtx { s0.mtx with empty := false }
    s.free P ∧ (u s).effective P M0 0 = loc ∧ ((u s).c 2).checkAccess loc (spanLen 5 1 0) 2 = none ∧
      (u s).mtx.predict.accepts 5 1 false = true ∧ (u s).mtx.predict.accepts 7 1 false = true ∧ spanLen 5 1 0 ≤ 32768 := by
  decide +kernel

/-- A command list of none, of one command of zeros, which R229 refuses, of one `swap`, and of 17. -/
theorem witness_MatrixInstructions_list :
    let u := fun (s : State) => s.accFirst s.cur.tile s.ctxn
    let bs := fun (s : State) (n : Nat) => Memory.readBytes (u s).mem (keyScratch (u s).ctxn 0 0) (64 * n)
    let s1 := withS sx [(5, 1)]
    let s2 := { s1 with mem := [(keyScratch 0 0 0, 2)] }
    (sx.free P ∧ (u sx).effective P M0 0 = loc ∧ ((u sx).c 2).checkAccess loc (64 * 17) 1 = none ∧ loc % 64 = 0 ∧
      (spaceOf 0 loc).1.scratchTile = some 0 ∧ (u sx).poisonIn [{ va := loc, key := keyScratch 0 0 0, n := 64 }] = none) ∧
    ((u s1).checkAll (u s1).mtx.predict 0 [CmdWords.ofBytes (bs s1 1)]).toOption = none ∧
    (((u s2).checkAll (u s2).mtx.predict 0 [CmdWords.ofBytes (bs s2 1)]).toOption.map List.length = some 1 ∧
      (u s2).tablePending = false) ∧ 16 < ((withS sx [(5, 17)]).s 5).toNat ∧ (loc + 32) % 64 ≠ 0 := by decide +kernel

/-- A command of three words in scratchpad, and what each check of R229 and R233 says of it. -/
def commandOf (w0 w1 w2 : Nat) : State :=
  let put := fun (l : List (Nat × Byte)) (j w : Nat) => Memory.writeBytes l (keyScratch 0 0 (8 * j)) (toBytes 8 w)
  let s := (withS sx [(5, 1)]).setTctx { sx.tctx with bankfmt := Vector.replicate 8 1 }
  { s with mem := put (put (put s.mem 0 w0) 1 w1) 2 w2 }

theorem witness_MatrixInstructions_checks :
    let u := fun (s : State) => s.accFirst s.cur.tile s.ctxn
    let bs := fun (s : State) => Memory.readBytes (u s).mem (keyScratch (u s).ctxn 0 0) 64
    let word := fun (s : State) j => ofBytes (((bs s).drop (8 * j)).take 8)
    let ok := fun (s : State) => s.free P ∧ (u s).effective P M0 0 = loc ∧ ((u s).c 2).checkAccess loc 64 1 = none ∧
      (u s).poisonIn [{ va := loc, key := keyScratch 0 0 0, n := 64 }] = none ∧ word s 0 / 2 ^ 11 % 2 = 0
    let broken := fun (s : State) => (u s).torusBroken 0
    (let s := commandOf 3 2 0; ok s ∧ word s 1 % 4 = 2) ∧
    (let s := commandOf 3 (2 ^ 18) 64; ok s ∧ word s 1 % 32768 + spanLen 3 1 64 ≤ 32768 ∧ 2 ^ 18 < word s 1 + spanLen 3 1 64) ∧
    (let s := commandOf 2 1 0; ok s ∧ word s 0 % 256 = 2 ∧ word s 1 ≠ 0) ∧
    (let s := commandOf 1 0x1000 64
     let f := s.setTctx { s.tctx with bankfmt := Vector.replicate 8 0 }
     ok f ∧ (u f).bankFmt 0 0 0x1000 = 0 ∧ (u f).mtx.predict.accepts 1 0 false = false ∧ ok s ∧ (u s).bankFmt 0 0 0x1000 = 1 ∧
       (u s).mtx.predict.accepts 1 1 false = true ∧ (u s).tablePending = false ∧ broken s = false) ∧
    (let s := commandOf 4 0x1000 64
     let b := s.setPart 0 { s.part 0 with split := true }
     ok b ∧ broken b = true ∧ (u b).mtx.predict.accepts 4 1 false = true) := by decide +kernel

/-- The staging slots of the matrix unit: a store that completes none, and one that completes a `swap` and one that breaks R229. -/
theorem witness_MatrixInstructions_window :
    let s := fun (off : Nat) => at_ (loc + 0x90000 + off) 8
    let u := fun (s : State) => s.accFirst s.cur.tile s.ctxn
    let look := fun (s : State) => s.look (s.scalarAccess P M0 8 0 [permST] .storeWide) none
    let done := fun (q : State) => ((u q).poisonIn (stagedSeen 0 0 ((List.range 8).map (fun j => (56 + j, 0))) 0) = none ∧
      (u q).tablePending = false ∧ (u q).mtx.queue.length < 16)
    (spotOf (look (s 0))).space = .window ∧ look (s 0) = .ok (spotOf (look (s 0))) ∧ (spotOf (look (s 0))).off = 0 ∧
    (spotOf (look (s 56))).space = .window ∧ (spotOf (look (s 56))).off = 56 ∧ (s 56).free P ∧
    (let q := (u (s 56)).setMtx { (u (s 56)).mtx with staging := [(0, 2)] }
     q.free P ∧ done q ∧ ((u q).checkAll (u q).mtx.predict 0
       [CmdWords.ofBytes (Memory.readBytes (u q).mtx.staging 0 64)]).toOption.map List.length = some 1) ∧
    ((u (s 56)).checkAll (u (s 56)).mtx.predict 0 [CmdWords.ofBytes (List.replicate 64 0)]).toOption = none ∧ done (s 56) ∧
    (s 56).releasesNow P true false := by decide +kernel

/-- A tile whose unit holds one command. -/
def unitWith (c : MtxCmd) : State :=
  let u := sx.accFirst 0 0
  u.setMtx { u.mtx with queue := [c] }

/-- The last unit of each command's rows, and the steps of MROT. -/
theorem witness_MatrixUnitEvents :
    let ok := fun (c : MtxCmd) => (unitWith c).headCmd 0 = some (0, c) ∧ ((unitWith c).tile 0).matrix.queue = [c]
    ok { cmdAt with opc := 2 } ∧ ok { cmdAt with opc := 6 } ∧
    (let c := { cmdAt with opc := 1, fmt := 1, step := 3 }
     ok c ∧ fmtClass c.fmt = some .f16 ∧ (unitWith c).unitWaits 0 c = false ∧
       (unitWith c).poisonIn ((List.range 8).flatMap (fun r => rowSeen 0 0 c (c.addr + (8 * c.step + r) * pitchOf c.opc c.fmt c.pitch) 32)) =
         none) ∧
    (let c := { cmdAt with opc := 3, fmt := 1, step := 31 }
     ok c ∧ c.step < 32 ∧
       (unitWith c).poisonIn (rowSeen 0 0 c (c.addr + c.step * pitchOf c.opc c.fmt c.pitch) ((unitWith c).tile 0).matrix.active.cls.k ++
         mtxSeen 0 0 0 0 (32 * ((unitWith c).tile 0).matrix.active.cls.k) ++ mtxSeen 0 0 2 (32 * c.step) 32) = none) ∧
    (let c := { cmdAt with opc := 4, fmt := 1, step := 32 }
     let w := ((unitWith c).setTctxOf (torWest (ownTorcfg 0)) 0 TileCtx.reset).setTctxOf (torNorth (ownTorcfg 0)) 0 TileCtx.reset
     ok c ∧ (unitWith c).poisonIn (mrotSeen 0 0 c) = none ∧ (unitWith c).mrotMaySend 0 0 = false ∧ w.headCmd 0 = some (0, c) ∧
       (w.tile 0).matrix.queue = [c] ∧ w.poisonIn (mrotSeen 0 0 c) = none ∧ w.mrotMaySend 0 0 = true) ∧
    (let c := { cmdAt with opc := 4, fmt := 1, step := 33 }
     let s := (unitWith c).setMtx { (unitWith c).mtx with arrA := [(0, [])], arrP := [(0, Matrix.reset.active)] }
     s.headCmd 0 = some (0, c) ∧ (s.tile 0).matrix.queue = [c] ∧ (s.tile 0).matrix.arrivals = some ([], Matrix.reset.active) ∧
       s.poisonIn (mtxSeen 0 0 3 0 2048 ++ mtxSeen 0 0 5 0 512) = none) ∧
    ok { cmdAt with opc := 5, fmt := 1, step := 31 } ∧ (unitWith { cmdAt with opc := 5, fmt := 1, step := 31 }).poisonIn (mtxSeen 0 0 2 992 32) = none ∧ ok { cmdAt with opc := 7, fmt := 4, step := 31 } := by decide +kernel

/-- c5 and c6 for the copy engine: two ranges of scratchpad, or the mapped page. -/
def cx : State := withS (withC st [(5, Cap.root loc 0x100 0x7FF), (6, Cap.root (loc + 0x1000) 0x100 0x7FF)]) [(8, 64)]
def PC : Pfx := { P with xr := some { x := 8, y := 7 } }

def fullFifo (s : State) : State :=
  s.setTile 0 { s.tile 0 with slots := List.replicate 8 (some { cx.request PC 5 6 with started := true }) }

/-- A push that passes R249, with a slot free and with none; one without authority; each privilege for `cp.rsm`. -/
theorem witness_CopyInstructions : cx.free PC ∧
    (let k := cx.request PC 5 6
     (cx.fir.map Firing.pinned = some false ∧ cx.pushPins k = false) ∧ cx.pushFault k = none ∧ cx.copyChannel k = none ∧ k.usesT8 = false ∧
       (cx.tile 0).slots[0]? = some none ∧
     (let s := fullFifo cx
      s.free PC ∧ s.pushPins (s.request PC 5 6) = false ∧ s.pushFault (s.request PC 5 6) = none ∧
        ∀ o, o ∈ (s.tile s.cur.tile).slots → o ≠ none) ∧
     ((pinned cx).fir.map Firing.pinned = some true ∧ (pinned cx).partner 0 = none)) ∧
    ((st.pushFault (st.request PC 5 6)).map Prod.fst = some Code.capTag ∧ st.pushPins (st.request PC 5 6) = true) ∧
    (st.free PC ∧ (pinned st).fir.map Firing.pinned = some true ∧ ((pinned st).pushFault ((pinned st).request PC 5 6)).isSome) ∧
    st.priv = .user ∧ (sup st).priv ≠ .user := by decide +kernel

/-- The copy of cx in slot 0 of tile 0's FIFO. -/
def copying (f : Copy → Copy) : State :=
  cx.setTile 0 { cx.tile 0 with slots := (cx.tile 0).slots.set 0 (some (f (cx.request PC 5 6))) }

def copyOf (s : State) : Copy := ((s.tile 0).copyAt 0).getD (cx.request PC 5 6)

/-- A copy about to start, one about to move its only unit, one that has moved it and one that has stopped. -/
theorem witness_CopyEngines :
    (let s := copying (fun k => k)
     (s.tile 0).copyAt 0 = some (copyOf s) ∧ s.mayStartCopy 0 (copyOf s) = true) ∧
    (let s := copying (fun k => { k with started := true, fate := .settled, pusher := none })
     let k := copyOf s
     (s.tile 0).copyAt 0 = some k ∧ s.mayWrite 0 k = true ∧ s.writesNext (clusterOf 0) k = true ∧ s.updaters = [] ∧ k.conv = none ∧ k.swe = false ∧
       (∀ j, j ∈ s.writers (clusterOf 0) → s.olderChunk j k = false ∧ crowded (s.writers (clusterOf 0)) j = false) ∧
       (spaceOf 0 k.srcVa).1 ≠ .global ∧ (spaceOf 0 k.dstVa).1 ≠ .global ∧
       (let u := s.passSlot 0 0
        u.updaters = [] ∧ (u.enginePieces 0 k.ctx k.srcVa k.unitLen .rd).toOption = some [{ va := loc, key := keyScratch 0 0 0, n := 64, tag := true }] ∧
         (u.enginePieces 0 k.ctx k.dstVa k.unitLen .wr).toOption =
           some [{ va := loc + 0x1000, key := keyScratch 0 0 0x1000, n := 64, tag := true }]) ∧
       s.poisonIn (k.unitSeen [{ va := loc, key := keyScratch 0 0 0, n := 64, tag := true }]) = none ∧ k.done < k.dlen ∧
       s.carried k [{ va := loc, key := keyScratch 0 0 0, n := 64, tag := true }] k.srcVa k.dstVa k.unitLen = []) ∧
    (let ends := fun (s : State) =>
      let k := copyOf s
      (s.tile 0).copyAt 0 = some k ∧ k.started = true ∧ k.fault = none ∧ k.detached = false ∧ k.takesLast = false ∧
        k.pusher = some { tile := 0, serial := (firOf s).serial } ∧ (s.tctxOf 0 k.ctx).normal.fir = some (firOf s) ∧
        (s.tctxOf 0 k.ctx).urgent.fir = none ∧ (s.tctxOf 0 k.ctx).saved = [] ∧ k.w3b.getLsbD 12 = true ∧ k.fate = .settled
     (let s := copying (fun k => { k with started := true, fate := .settled, row := 1, w3b := 2 ^ 12 })
      ends s ∧ (copyOf s).stop = none ∧ (copyOf s).rows ≤ (copyOf s).row ∧ s.peerBusy 0 (copyOf s) = false) ∧
     (let s := copying (fun k => { k with started := true, fate := .settled, stop := some Code.dataUnc, w3b := 2 ^ 12 })
      ends s ∧ (copyOf s).stop = some Code.dataUnc)) := by decide +kernel

/-- A copy that converts F32 to a format, with one unit of it to write. -/
def converting (f : Nat) (len : Nat) : State :=
  let s := copying (fun k => { k with
    started := true, fate := .settled, pusher := none, conv := some (0, f), w2 := BitVec.ofNat 64 len
    dst := Cap.root (loc + 0x8000) 0x100 0x7FF })
  s.setTctx { s.tctx with bankfmt := Vector.ofFn (fun i : Fin 8 => if i.val = 1 then BitVec.ofNat 8 f else 0) }

/-- To F16, and to one block of T8B. -/
theorem witness_CopyEngines_converting :
    (let ok := fun (f len : Nat) =>
      let s := converting f len
      let k := copyOf s
      let u := s.passSlot 0 0
      let src : Piece := { va := loc, key := keyScratch 0 0 0, n := len, tag := true }
      (s.tile 0).copyAt 0 = some k ∧ s.mayWrite 0 k = true ∧ s.writesNext (clusterOf 0) k = true ∧ u.updaters = [] ∧ k.conv.isSome = true ∧
        k.swe = false ∧ (spaceOf 0 k.srcVa).1.scratchTile = some 0 ∧ (spaceOf 0 k.dstVa).1.scratchTile = some 0 ∧
        (u.enginePieces 0 k.ctx k.srcVa (k.unitLen / k.wd * k.ws) .rd).toOption = some [src] ∧
        ((u.enginePieces 0 k.ctx k.dstVa k.unitLen .wr).toOption.map List.length) = some 1 ∧ u.poisonIn (k.unitSeen [src]) = none ∧
        elemWidth (u.bankFmt 0 k.ctx (spaceOf 0 k.srcVa).2) = k.ws ∧ elemWidth (u.bankFmt 0 k.ctx (spaceOf 0 k.dstVa).2) = k.wd ∧
        u.bankFmt 0 k.ctx (spaceOf 0 k.dstVa).2 = f ∧ (spaceOf 0 k.dstVa).2 % 4 = 0
     ok 2 64 ∧ ok 4 16) ∧ (copyOf (converting 4 16)).unitLen = 4 := by decide +kernel

/-- A copy from a window that asks for its first unit; a posted access that is done. -/
theorem witness_CopyEngines_request :
    (let s := { copying (fun k => { k with started := true, fate := .settled, pusher := none
                                           src := (Cap.root (0xE000 * 2 ^ 32) 0x10000 0x7FF).withOtype 3 })
                with wins := [(0, 0x8000000000000001)], ports := [(0, .up)] }
     let k := copyOf s
     (s.tile 0).copyAt 0 = some k ∧ s.mayChunk 0 k = true ∧ isWindow k.src = true ∧ k.chan = none ∧ s.oldAttempt k (s.window k.src) = false ∧
       s.upPorts (s.window k.src) = [0] ∧ (spaceOf 0 k.dstVa).1 ≠ .global ∧ (s.enginePieces 0 k.ctx k.dstVa k.edgeLen .wr).toOption.isSome) ∧
    (let s := postedAt .up false
     s.posted[0]? = some post0 ∧ post0.lost = false ∧ s.portState post0.port = .up) := by decide +kernel

/-- A chunk of channel 0 to or from the host, over pages 1 and 2 of the context; the tag area begins with a word. -/
def chunking (toHost : Bool) (key : Nat) (word : List Byte) : State :=
  let s := copying (fun k => { k with
    started := true, fate := .settled, pusher := none, w2 := 4096, chan := some (0, toHost), chanKey := 3
    src := if toHost then Cap.root loc 0x1000 0x7FF else Cap.root 0x10000 0x10000 0x7FF
    dst := if toHost then Cap.root 0x10000 0x10000 0x7FF else Cap.root (loc + 0x1000) 0x1000 0x7FF })
  let m := mapped s
  { m with
    mem := Memory.writeBytes (Memory.writeBytes m.mem 0x30010 (toBytes 8 (2 ^ 63 + 2 ^ 59 + 2 ^ 57 + 2 ^ 56 + 5 * 2 ^ 16))) 0x50000 word
    lineKeys := [(0x1400, 0)]
    chans := [(0, { ctrl := BitVec.ofNat 64 (2 ^ 63 + 2 ^ 16), dctr := 0, hctr := 0, key := key })] }

/-- A chunk to the host, one from it whose tag byte says that the device sealed it, and one under a key that has been replaced. -/
theorem witness_CopyEngines_channel :
    (let s := chunking true 3 []
     let k := copyOf s
     let src : Piece := { va := loc, key := keyScratch 0 0 0, n := 4096, tag := true }
     (s.tile 0).copyAt 0 = some k ∧ s.mayChunk 0 k = true ∧ k.chan = some (0, true) ∧ (s.chan 0).ctrl.getLsbD 62 = false ∧ (s.chan 0).key = k.chanKey ∧
       s.updaters = [] ∧ k.pusher = none ∧ (spaceOf 0 k.srcVa).1 ≠ .global ∧ (spaceOf 0 k.dstVa).1 = .global ∧
       (s.enginePieces 0 k.ctx k.srcVa 4096 .rd).toOption = some [src] ∧
       (s.enginePieces 0 k.ctx k.dstVa 4096 .wr).toOption = some [{ va := 0x10000, key := 0x40000, n := 4096, tag := true }] ∧
       (s.enginePieces 0 k.ctx 0x20000 32 .wr).toOption = some [{ va := 0x20000, key := 0x50000, n := 32, tag := true }] ∧
       s.poisonIn (k.unitSeen [src]) = none ∧ s.carried k [src] k.srcVa k.dstVa 4096 = []) ∧
    (let s := chunking false 3 (List.replicate 20 0 ++ [1])
     let k := copyOf s
     let src : Piece := { va := 0x10000, key := 0x40000, n := 4096, tag := true }
     let tg : Piece := { va := 0x20000, key := 0x50000, n := 32, tag := true }
     (s.tile 0).copyAt 0 = some k ∧ s.mayChunk 0 k = true ∧ k.chan = some (0, false) ∧ (s.chan 0).ctrl.getLsbD 62 = false ∧ (s.chan 0).key = k.chanKey ∧
       k.swe = false ∧ s.updaters = [] ∧ (spaceOf 0 k.srcVa).1 = .global ∧ (spaceOf 0 k.dstVa).1 ≠ .global ∧
       (s.enginePieces 0 k.ctx k.srcVa 4096 .rd).toOption = some [src] ∧ (s.enginePieces 0 k.ctx 0x20000 32 .rd).toOption = some [tg] ∧
       ((s.enginePieces 0 k.ctx k.dstVa 4096 .wr).toOption.map List.length) = some 1 ∧ s.poisonIn (k.unitSeen [src, tg]) = none ∧
       ((s.readBytes 0 0x50000 32).getD 20 0).getLsbD 0 = true) ∧
    (let s := chunking true 4 []
     s.mayChunk 0 (copyOf s) = true ∧ (s.chan 0).key ≠ (copyOf s).chanKey) := by decide +kernel

theorem bytes_back (n x : Nat) : ofBytes (toBytes n x) = x % 256 ^ n := by
  induction n generalizing x with
  | zero => simp [toBytes, ofBytes, Nat.mod_one]
  | succ n ih => simp [toBytes, ofBytes, ih, Nat.pow_succ', Nat.mod_mul]

theorem toBytes_length (n x : Nat) : (toBytes n x).length = n := by
  induction n generalizing x with
  | zero => rfl
  | succ n ih => simp [toBytes, ih]

theorem readBytes_length (s : State) (key a n : Nat) : (s.readBytes key a n).length = n := by
  induction n generalizing a with
  | zero => rfl
  | succ n ih => simp [State.readBytes, ih]

/-- The tag area with a tag of the guest's. -/
def sealedBy (t : BitVec 128) : State :=
  let s := chunking false 3 []
  { s with mem := s.mem ++ (List.range 16).map (fun i => (0x50000 + i, (toBytes 16 t.toNat).getD i 0)) }

theorem sealed_word (t : BitVec 128) : (sealedBy t).readBytes 0 0x50000 32 = toBytes 16 t.toNat ++ List.replicate 16 0 := rfl

theorem read_append (m l : List (Nat × Byte)) (a : Nat) (h : ∀ q, q ∈ l → a ≠ q.1) : Memory.read (m ++ l) a = Memory.read m a := by
  induction m with
  | nil =>
    induction l with
    | nil => rfl
    | cons q l ih =>
      have := h q (by simp)
      simp only [List.nil_append, Memory.read, this, if_false] at ih ⊢
      exact ih (fun r hr => h r (by simp [hr]))
  | cons q m ih => simp only [List.cons_append, Memory.read, ih]

theorem sealed_data (t u : BitVec 128) (a n : Nat) (h : a + n ≤ 0x50000) :
    (sealedBy t).readBytes 0 a n = (sealedBy u).readBytes 0 a n := by
  have one : ∀ v, a < 0x50000 → Memory.read (sealedBy v).mem a = Memory.read (chunking false 3 []).mem a := fun v ha =>
    read_append _ _ _ (fun q hq => by
      obtain ⟨i, -, rfl⟩ := List.mem_map.mp hq
      simp only; omega)
  induction n generalizing a with
  | zero => rfl
  | succ n ih =>
    have ha : a < 0x50000 := by omega
    simp only [State.readBytes]
    rw [ih (a + 1) (by omega) (fun v hv => read_append _ _ _ (fun q hq => by
      obtain ⟨i, -, rfl⟩ := List.mem_map.mp hq
      simp only; omega))]
    congr 1
    simp only [State.readByte, one t ha, one u ha]
    rfl

/-- A chunk of the guest's, whose tag verifies. -/
theorem witness_CopyEngines_guest : ∃ t plain,
    let s := sealedBy t
    let y := s.readBytes 0 0x50000 32
    s.openChunk { chan := 0, toHost := (y.getD 20 0).getLsbD 0, ctr := ofBytes ((y.drop 16).take 4), addr := 0x10000
                  tag := BitVec.ofNat 128 (ofBytes (y.take 16)), data := s.readBytes 0 0x40000 4096 } = some plain := by
  let data := (sealedBy 0).readBytes 0 0x40000 4096
  let plain := chunkCipher 3 (chunkIv 0 false 0) data
  refine ⟨Config.gcmTag 3 (chunkIv 0 false 0) 0x10000 plain, plain, ?_⟩
  generalize ht : Config.gcmTag 3 (chunkIv 0 false 0) 0x10000 plain = t
  have key : ((sealedBy t).chan 0).key = 3 := rfl
  have back : BitVec.ofNat 128 (ofBytes (toBytes 16 t.toNat)) = t := by
    rw [bytes_back]; apply BitVec.eq_of_toNat_eq; simp; omega
  have len := readBytes_length (sealedBy 0) 0 0x40000 4096
  dsimp only
  rw [sealed_word, sealed_data t 0 _ _ (by decide)]
  have h20 : ((toBytes 16 t.toNat ++ List.replicate 16 0).getD 20 0).getLsbD 0 = false := by simp [toBytes]
  have h16 : ofBytes (((toBytes 16 t.toNat ++ List.replicate 16 0).drop 16).take 4) = 0 := rfl
  have h0 : (toBytes 16 t.toNat ++ List.replicate 16 0).take 16 = toBytes 16 t.toNat := rfl
  rw [h20, h16, h0, back]
  simp only [State.openChunk, key]
  simp [plain, data] at ht ⊢
  exact ⟨len, ht⟩
/-- A window copy about to send its only unit through port 0. -/
theorem witness_CopyEngines_window :
    let win : Word := 0x8000000000000001
    let s0 := { copying (fun k => { k with started := true, fate := .settled, pusher := none
                                           dst := (Cap.root (0xE000 * 2 ^ 32) 0x10000 0x7FF).withOtype 3 })
                with wins := [(0, win)], ports := [(0, .up)] }
    let k := copyOf s0
    (s0.tile 0).copyAt 0 = some k ∧ s0.mayChunk 0 k = true ∧ isWindow k.dst = true ∧ isWindow k.src = false ∧ k.chan = none ∧
      k.rows ≤ k.row + 1 ∧ k.done + k.edgeLen = k.dlen ∧ 0 < k.edgeLen ∧ s0.updaters = [] ∧ (spaceOf 0 k.srcVa).1 ≠ .global ∧
      (s0.enginePieces 0 k.ctx k.srcVa k.edgeLen .rd).toOption = some [{ va := loc, key := keyScratch 0 0 0, n := 64, tag := true }] ∧
      s0.poisonIn (k.unitSeen [{ va := loc, key := keyScratch 0 0 0, n := 64, tag := true }]) = none ∧
      s0.attemptOf k.ctx (winGroup (s0.window k.dst)) ≤ k.attempt ∧ s0.upPorts (s0.window k.dst) = [0] := by decide +kernel

/-- A region that passes R293 and one that does not; an open region under its ceiling and one at it. -/
def PS : Pfx := { P with xr := some { x := 8, y := 0 } }
def regionCaps : State :=
  withS (withC st [(5, Cap.root loc 0x40000 0x7FF), (6, Cap.root (loc + 0x10000) 0x4000 0x7FF)]) [(8, 2 ^ 32)]
def region (f : Solve → Solve) : State :=
  let v := { regionCaps.tctx.solve with active := true, desc0 := 2 ^ 32, desc1 := 0, tileCap := regionCaps.c 5, histCap := regionCaps.c 6, itceil := 2 }
  regionCaps.setSolve (f v)

theorem witness_SolveInstructions :
    (regionCaps.free PS ∧ (regionCaps.s 9).getLsbD 5 = false ∧
      regionCaps.beginFault (regionCaps.c 5) (regionCaps.c 6) (regionCaps.s 8) (regionCaps.s 9) = none) ∧
    ((st.beginFault (st.c 5) (st.c 6) (st.s 8) (st.s 9)).isSome ∧ (pinned st).speculative = false) ∧
    (st.drain.tctx.solve.active = false) ∧
    (let s := region (fun v => { v with slvk := 2 })
     let y := s.drain.tctx.solve
     s.free P ∧ y.active = true ∧ y.tileCap.tag = true ∧ y.histCap.tag = true ∧ y.itceil.toNat ≤ y.slvk.toNat) ∧
    (let s := region (fun v => { v with slvk := 1 })
     let y := s.drain.tctx.solve
     s.free P ∧ y.active = true ∧ y.tileCap.tag = true ∧ y.histCap.tag = true ∧ y.slvk.toNat < y.itceil.toNat ∧ y.scope = false ∧
       s.drain.poisonIn (s.drain.solveSeen y) = none) ∧
    ((0 : Word).toNat % 16 = 0 ∧ (1 : Word).toNat % 16 = 1 ∧ (11 : Word).toNat % 16 < 12 ∧ 12 ≤ (15 : Word).toNat % 16) := by
  decide +kernel

/-- A round that passes at its threshold, one that fails, and one of a NaN. -/
theorem witness_SolveInstructions_verdicts :
    let part : RoundPart := { nt := 1, rel := false, fill := 0, nr := 0x40800000, ng := 0, hs := [], cs := [], lambda := 0, tol := 0x40000000 }
    (decideRound false part [part]).verdict = 1 ∧
    (decideRound false { part with tol := 0x3FFFFFFF } [{ part with tol := 0x3FFFFFFF }]).verdict = 2 ∧
    (decideRound false { part with nr := 0x7FC00000 } [{ part with nr := 0x7FC00000 }]).verdict = 3 ∧
    (let r : SolveRound := { ctx := 0, epoch := 0, seq := 0, parts := (List.range 8).map (fun i => (i, part)) }
     let s := st.setCluster 0 { st.cluster 0 with rounds := [r] }
     (s.cluster 0).rounds = [r] ∧ r.ctx = 0 ∧ 8 ≤ r.parts.length ∧ (∀ q, q ∈ r.parts → q.2 = part) ∧
       r.parts = (List.range 8).map (fun i => (i, part)) ∧ clusterTile 0 0 = 0 ∧ (s.tctxOf (clusterTile 0 0) 0).solve.inRound r = false ∧
       (let w := s.setSolve { s.tctx.solve with active := true, contrib := true }
        (w.cluster 0).rounds = [r] ∧ (w.tctxOf (clusterTile 0 0) 0).solve.inRound r = true)) := by decide +kernel

/-- The first and last registers of each kind; a bank that no queued command reaches, and one that a command does. -/
theorem witness_SystemRegisters : st.free P ∧ st.fir = some (firOf st) ∧ (st.tile st.cur.tile).loaded = some st.ctxn ∧
    stK.priv = .keeper ∧ stK.free P ∧ st.priv ≠ .keeper ∧ (P.immI 0).toNat = 0 ∧ (P.immI 8).toNat = 8 ∧ (P.immI 15).toNat = 15 ∧
    (let p : Pfx := { P with imm := [0] }
     st.fmtBusy 16 = false ∧ (unitWith cmdAt).fmtBusy 16 = true ∧ (unitWith cmdAt).free p ∧ st.free p ∧ (p.immI 16).toNat = 16 ∧ (p.immI 23).toNat = 23 ∧ (p.immI 28).toNat = 28 ∧ (p.immI 24).toNat = 24) := by
  decide +kernel

/-- A capability to revoke and each that R277 refuses; epochs of every answer. -/
theorem witness_KeeperCalls : st.free P ∧ st.partner st.cur.tile = none ∧
    (let u := st.drain.wake 0
     (u.tile 0).loaded = some u.ctxn ∧ (u.c 8).tag = false) ∧
    (let c := fun (x : Cap) => ((withC (mapped st) [(8, x)]).drain.wake 0).c 8
     let good := Cap.root 0x10000 0x20 0x7FF
     (c (good.withOtype 2)).otype ≠ 0 ∧ ((c (good.withPerms 1)).otype = 0 ∧ (c (good.withPerms 1)).perms.getLsbD 1 = false) ∧
     (let x := c (Cap.root 0x20000 0x20 0x7FF)
      x.tag = true ∧ x.otype = 0 ∧ x.perms.getLsbD 1 = true ∧ x.base ≤ x.top ∧ ((mapped st).info 0).data.top < x.top) ∧
     (let s := withC (mapped st) [(8, good)]
      let u := s.drain.wake 0
      let x := u.c 8
      s.free P ∧ s.partner s.cur.tile = none ∧ x.tag = true ∧ x.otype = 0 ∧ x.perms.getLsbD 1 = true ∧ (u.info u.ctxn).data.base ≤ x.base ∧
        x.top ≤ (u.info u.ctxn).data.top ∧ x.base ≤ x.top ∧ x.top ≤ 2 ^ 48 ∧
        (u.paintLook (u.info u.ctxn) x).toOption = some [0x40000, 0x40010] ∧
        (Map.get? u.contexts u.ctxn).isSome ∧ u.sweeps = [])) ∧
    ((st.drain.wake 0).s 9).toNat % 2 ^ 32 = 0 ∧
    (let s := { withS st [(9, 3)] with lastEpoch := 3 }
     let u := s.drain.wake 0
     s.free P ∧ s.partner s.cur.tile = none ∧ (u.s 9).toNat % 2 ^ 32 = 3 ∧ u.lastEpoch = 3) ∧
    (let s := withS st [(9, 3)]
     let u := s.drain.wake 0
     s.free P ∧ s.partner s.cur.tile = none ∧ u.epochWrap = false ∧ u.lastEpoch < (u.s 9).toNat % 2 ^ 32) := by decide +kernel

/-- A neighbour that has not asked, one that has, a pair formed with and without the question, and a question that is over. -/
theorem witness_KeeperInstructions_pair :
    (let s := withS stK [(3, 1)]
     s.freeAt P .keeper ∧ adjacent 0 (s.s 3).toNat = true ∧ s.tileExists 1 = true ∧ (s.tile 1).pair = none ∧ (s.tile 0).pair = none ∧
       (s.tile 0).pairWait = none ∧ (s.tile 1).pairWait = none ∧
       (let u := s.setTile 1 { s.tile 1 with pairWait := some (0, 0) }
        u.freeAt P .keeper ∧ (u.tile 1).pairWait = some (0, 0) ∧ u.clk ≤ 0 + 400)) ∧
    adjacent 0 (stK.s 3).toNat = false ∧
    (let s := withS (stK.setTile 0 { stK.tile 0 with pair := some 1 }) [(3, 1)]
     s.freeAt P .keeper ∧ adjacent 0 (s.s 3).toNat = true ∧ (s.tile 0).pair ≠ none ∧ (s.tile 0).pairWait = none ∧
       (let u := s.setTile 0 { s.tile 0 with pairWait := some (1, 0) }
        u.freeAt P .keeper ∧ (u.tile 0).pair = some (u.s 3).toNat ∧ (u.tile 0).pairWait = some ((u.s 3).toNat, 0))) ∧
    (let s := withS { (stK.setTile 0 { stK.tile 0 with pairWait := some (1, 0) }) with clk := 401 } [(3, 1)]
     s.freeAt P .keeper ∧ adjacent 0 (s.s 3).toNat = true ∧ (s.tile 0).pair = none ∧ s.tileExists 1 = true ∧ (s.tile 1).pair = none ∧
       (s.tile 1).pairWait = none ∧ (s.tile 0).pairWait = some ((s.s 3).toNat, 0) ∧ 0 + 400 < s.clk) := by decide +kernel

/-- A firing below keeper privilege; Halo's own state with a context to save, one to load, an acc area and a neighbour. -/
theorem witness_KeeperInstructions :
    (st.free P ∧ st.priv ≠ .keeper) ∧ stK.freeAt P .keeper ∧
    (let s := withC stK [(5, Cap.root 0 0x74000 0x7FF)]
     let c := s.c 5
     s.freeAt P .keeper ∧ s.cur.set = .keeper ∧ (s.tile 0).loaded = some 0 ∧ c.checkAccess c.addr 0x74000 2 = none ∧
       c.checkAccess c.addr 0x74000 1 = none ∧ c.addr = (s.tctxOf 0 0).saveAddr ∧ s.painted = [] ∧
       s.chunkOpen 0 0 = false ∧ s.poisonIn (mtxSeen 0 0 2 0 1024) = none ∧ s.resident 0 ((s.s 3).toNat % 4096) = true ∧
       (s.tctxOf 0 0).normal.pageWait = none ∧ (s.tctxOf 0 0).urgent.pageWait = none ∧ (s.tctxOf 0 0).copies = [] ∧
       s.areaOwner 0 c.addr = some 0 ∧ (s.tile 0).matrix.queue = []) := by decide +kernel

/-- An object of one section that holds `end`, in scratchpad at c5; a header of zeros; a section of a reserved page. -/
def objectCells (lo hi : Byte) : List (Nat × Byte) :=
  [(0, 0x45), (1, 0x42), (2, 0x48), (3, 0x4F), (4, 1), (6, 1), (12, 96), (64, 80), (68, 4), (80, lo), (81, hi)].map
    (fun q => (keyScratch 0 0 0 + q.1, q.2))
def objectAt (cells : List (Nat × Byte)) : State := pinned { withC st [(5, Cap.root loc 0x1000 0x7FF)] with mem := cells }

/-- The object passes the checks of `csl.inst`, which then depends on the free room for bodies (log 9). -/
theorem witness_CapsuleInstructions_install :
    let ok := fun (s : State) =>
      let c := s.c 5
      c.top - c.addr = 0x1000 ∧
      let sp := spotOf (s.checkSpace (objectAccess c c.addr 64) none)
      let t := s.reach P sp.globals
      s.free P ∧ s.fir.map Firing.pinned = some true ∧ c.checkAccess c.addr 64 1 = none ∧ c.addr % 16 = 0 ∧
        holdsObjects s.cur.tile (spaceOf s.cur.tile c.addr).1 = true ∧ s.checkSpace (objectAccess c c.addr 64) none = .ok sp ∧
        t.readsClean sp 64
    let head := fun (s : State) => s.readBytes 0 (keyScratch 0 0 0) 64
    let rest := fun (s : State) => s.readBytes 0 (keyScratch 0 0 0 + 64) 32
    let s := objectAt (objectCells 0x07 0x7C)
    let bad := objectAt (objectCells 0x0C 0x7C)
    ok s ∧ ok bad ∧ ok (objectAt []) ∧ (checkHeader (headerOf (head (objectAt []))) 0x1000).toOption = none ∧
    (checkHeader (headerOf (head s)) 0x1000).toOption = some () ∧ (headerOf (head s)).total - 64 = 32 ∧
    (let x := objectAccess (s.c 5) ((s.c 5).addr + 64) 32
     let sp := spotOf (s.checkSpace x none)
     s.checkSpace x none = .ok sp ∧ (s.reach P sp.globals).readsClean sp 32) ∧
    (verifyObject (objectOf (head bad ++ rest bad))).toOption = none ∧
    (verifyObject (objectOf (head s ++ rest s))).toOption = some [{ off := 80, code := [0x7C07, 0x0000] }] ∧
    freeNumber s.capsules 1 = some 1 := by decide +kernel

/-- The placed capsule, changed, with its capability at c5. -/
def capsuleAt (g : Capsule → Capsule) : State :=
  withC { st with capsules := st.capsules.map (fun q => (q.1, g q.2)) } [(5, capsuleCap 0)]
def capsuleNow (s : State) : Option (Bool × Option Unit_) :=
  (Map.get? s.capsules (capsuleNumber (s.c 5))).map (fun k => (k.void, k.rebuild))

/-- The capsule whole and void, with no rebuild, with this set's and with another set's; and a number that names none. -/
theorem witness_CapsuleInstructions_rebuild :
    let void := capsuleAt (fun k => { k with void := true })
    let ask := fun (s : State) => s.setReg { s.reg with asked := some 0 }
    let mine := ask (capsuleAt (fun k => { k with void := true, rebuild := some st.cur }))
    let u : Unit_ := { st.cur with tile := 7 }
    let other := capsuleAt (fun k => { k with void := true, rebuild := some u })
    capsuleNow (capsuleAt id) = some (false, none) ∧ capsuleNow void = some (true, none) ∧
    capsuleNow mine = some (true, some mine.cur) ∧ capsuleNow other = some (true, some u) ∧ u ≠ other.cur ∧ void.free P ∧
    mine.free P ∧ other.free P ∧ mine.reg.asked = some (capsuleNumber (mine.c 5)) ∧ other.reg.asked = none ∧
    (let w := st.cur
     (mine.regOf w.tile w.set).waiting = false ∧ (let v := mine.setReg { mine.reg with waiting := true }
       capsuleNow v = some (true, some w) ∧ (v.regOf w.tile w.set).waiting = true ∧ (v.regOf w.tile w.set).asked = some 0)) ∧
    (mine.c 5).tag = true ∧ (mine.c 5).otype = 1 ∧ (other.c 5).tag = true ∧
    capsuleNow { mine with capsules := [] } = none := by decide +kernel

/-- Values that are no capsule capability; the placed capsule; parameters that fail and that pass, of a capsule with none and of
one with one. -/
theorem witness_CapsuleInstructions :
    let x := capsuleCap 0
    let k := (Map.get? st.capsules 0)
    (st.c 5).tag = false ∧ (Cap.root 0 16 0x7FF).otype = 0 ∧ ((Cap.root 0 16 0x7FF).withOtype 2).otype ≠ 1 ∧
    (let s := withC st [(5, x)]
     s.free P ∧ (s.c 5).tag = true ∧ (s.c 5).otype = 1 ∧ (Map.get? s.capsules (capsuleNumber (s.c 5))).map Capsule.void = some false) ∧
    (let s := pinned (withC st [(5, x), (6, Cap.root loc 0x1000 0x7FF)])
     let c := s.c 6
     let sp := spotOf (s.checkSpace (objectAccess c c.addr 16) none)
     let t := s.reach P sp.globals
     s.free P ∧ s.fir.map Firing.pinned = some true ∧ (s.c 5).tag = true ∧ (s.c 5).otype = 1 ∧
       (Map.get? s.capsules (capsuleNumber (s.c 5))).map Capsule.ctx = some s.ctxn ∧ c.checkAccess c.addr 16 9 = none ∧ c.addr % 16 = 0 ∧
       (spaceOf s.cur.tile c.addr).1.scratchTile = some s.cur.tile ∧ s.checkSpace (objectAccess c c.addr 16) none = .ok sp ∧
       sp.pieces.length = 1 ∧ k.map (fun k => k.params.length) = some 0 ∧
       t.readsClean sp 16) ∧
    (let s := pinned (withC st [(5, x), (6, Cap.root loc 0x1000 0x7FF)])
     let c := s.c 6
     let sp := spotOf (s.checkSpace (objectAccess c c.addr 32) none)
     let t := s.reach P sp.globals
     c.checkAccess c.addr 32 9 = none ∧ s.checkSpace (objectAccess c c.addr 32) none = .ok sp ∧ sp.pieces.length = 1 ∧
       t.readsClean sp 32 ∧ firstSlot 0 [(t.granule 0 (List.replicate 16 0), (0x100, 0))] = some (Code.capTag, 0)) ∧
    firstSlot 0 [] = none ∧ firstSlot 0 [(Cap.null, (0x100, 0))] = some (Code.capTag, 0) := by decide +kernel

/-- A capsule with a handler of one port, a GOT entry and a trap handler, and two bindings of the context: one that meets its tags
and one that does not. -/
def oneHandler : HandlerDecl := { tag := 1, sect := 0, off := 0, ctrl := 0x1001, port := 0x2005 }
def boundAt (binds : List Binding) : State :=
  { capsuleAt (fun k => { k with handlers := [oneHandler], gots := [{ kind := 0, sect := 0, off := 0 }], trap := some (0, 0) }) with
    binds := binds }

theorem witness_CapsuleInstructions_bind :
    let b := fun (n : Nat) => ({ ctx := 0, capsule := 0, tagbase := 0x100, tags := [n, 0x200], params := [] } : Binding)
    let s := boundAt [b 0x101, b 0x102]
    let tags := [oneHandler].map (fun h => (0x100 + h.tag) % 4096)
    (Map.get? s.capsules 0).map (fun k => (k.handlers.length, k.gots.length, k.trap, k.params.length)) = some (1, 1, some (0, 0), 0) ∧
    (Map.get? s.capsules 0).map (fun k => decide (k.place % 16 = 0 ∧ k.place + 16 * (k.gots.length + k.params.length) ≤ 2 ^ 18)) = some true ∧
    tags.Nodup ∧ s.memWf ∧ s.ctxn < 4096 ∧ s.tags.Pairwise (· < ·) ∧ 0 ∈ s.homesOf s.ctxn ∧ (Map.get? s.contexts s.ctxn).isSome ∧
    b 0x101 ∈ s.binds ∧ b 0x102 ∈ s.binds ∧ 0x101 ∈ tags ∧ 0x102 ∉ tags ∧ 0x200 ∉ tags ∧
    0 < ctrlNport oneHandler.ctrl ∧ ctrlNport oneHandler.ctrl ≤ 4 := by decide +kernel

/-- Tiles of zeros pass at tolerance 0 and fail at −1; a NaN among the images ends the region. -/
def verdictOf (s : State) : Nat :=
  let u := s.drain
  let y := u.tctx.solve
  let lead := (u.invocation y).part y
  (decideRound false lead [lead]).verdict

/-- A matrix that has a factor, with its solution; one that has none, whose system is dropped; parts that differ; the areas of an update. -/
theorem witness_SolveInstructions_mix :
    (let h : List (List Lane) := [[0x40800000]]
     let c : List Lane := [0x40000000]
     c.length = h.length ∧ (∀ r, r ∈ h → r.length = h.length) ∧ (solveMix h c).1 < h.length ∧ factor h [] = some [[0x40000000]] ∧
       (∀ i, i < 1 → (([[0x40000000]] : List (List Lane)).getD i []).length = i + 1)) ∧
    (let h : List (List Lane) := [[0]]
     (∀ r, r ∈ h → h.length ≤ r.length) ∧ factor h [] = none ∧ (solveMix h [0]).1 = 1) ∧
    (let part : RoundPart := { nt := 1, rel := false, fill := 0, nr := 0x40800000, ng := 0, hs := [], cs := [], lambda := 0, tol := 0 }
     ¬ ({ part with fill := 1 }.nt = part.nt ∧ { part with fill := 1 }.rel = part.rel ∧ { part with fill := 1 }.fill = part.fill)) ∧
    (let a : Area := [List.replicate 1024 0]
     let q : Invocation := { g := a, r := a, pairs := [(a, a)], newest := none }
     ∀ z, z ∈ [q.g, q.r, a] → z.length = 1 ∧ ∀ l, l ∈ z → l.length = 1024) := by decide +kernel

theorem witness_SolveInstructions_pass : verdictOf (region (fun v => v)) = 1 := by decide +kernel
theorem witness_SolveInstructions_fail : verdictOf (region (fun v => { v with tol := 0xBF800000 })) = 2 := by decide +kernel
theorem witness_SolveInstructions_nan : verdictOf { region (fun v => v) with
    mem := [(keyScratch 0 0 4098, 0xC0), (keyScratch 0 0 4099, 0x7F)] } = 3 := by decide +kernel

/-- A plain message for tag 0 of context 0 on tile 0, in class normal. -/
def msg0 : Msg :=
  { ts := 0, src := 1, knd := 1, urg := false, tag := 0, wid := 0, payload := [1, 2, 3, 4, 5, 6], ctx := 0, dst := 0, slot := none }

/-- The set of a tile with no firing on it. -/
def vacant (s : State) : State := s.setReg { s.reg with fir := none }

/-- Results of each kind; windows open and shut; a sweep that nothing holds; a budget and a grace that have run out; leases, epochs
and refills that are due; quarantine entries that may enter and leave. -/
theorem witness_ReturnsAndTimers :
    (let q : Pending := { res := .s 1 7, banks := [3], stamp := 0 }
     let s := ({ st with phases := [(0, 0)] } : State).setReg { st.reg with pending := [q] }
     (s.regOf 0 .normal).pending = q :: [] ∧ (∀ b, b ∈ q.banks → ¬ (4200 * (b % 16) ≤ s.refreshTime (b / 64) ∧ s.refreshTime (b / 64) < 4200 * (b % 16) + 2100)) ∧ q.res.isTable = false) ∧
    (let q : Pending := { res := .table tableE5, banks := [], stamp := 0 }
     let s := st.setReg { st.reg with pending := [q] }
     (s.regOf 0 .normal).pending = q :: [] ∧ q.banks = [] ∧ SetId.normal ≠ .keeper ∧ (s.tile 0).loaded = some 0) ∧
    (st.refreshing.Pairwise (· < ·) ∧
      (let s := { st with phases := [(0, 0)] }
       s.refreshTime 0 < 2100) ∧
      (let s := { st with phases := [(0, 0)], clk := 2100 }
       ¬ s.refreshTime 0 < 2100)) ∧
    (let w : Sweep := { epoch := 1, ctx := 0, dies := [0], firings := [], pushes := [] }
     let s := { mapped st with sweeps := [w] }
     s.sweeps.find? (fun v => v.epoch == w.epoch) = some w ∧ s.sweepDone w = true ∧
       (Map.get? s.contexts w.ctx).isSome = true) ∧
    ((st.tile 0).loaded = some 0 ∧ (st.tctxOf 0 0).prq = false ∧ (st.tctxOf 0 0).kbudget ≤ st.clk - (st.tctxOf 0 0).kstamp) ∧
    (let s := st.setTctx { st.tctx with prq := true, prqAt := 0, kgrace := 0 }
     let x := s.tctxOf 0 0
     (s.tile 0).loaded = some 0 ∧ x.prq = true ∧ x.running = true ∧ x.prqAt + x.kgrace ≤ s.clk ∧ s.mayLeave 0 = true ∧
       (s.setTctxOf 0 0 { x with overruns := x.overruns + 1 }).nextContext 0 = some 0) ∧
    (let s0 := vacant st
     let y := { TileCtx.reset with normal := st.reg }
     let s := s0.setTile 0 { s0.tile 0 with ctxs := Map.set (s0.tile 0).ctxs 1 y }
     (s.tile 0).loaded = some 0 ∧ s.sliceOver 0 = true ∧ s.mayLeave 0 = true ∧ s.nextContext 0 = some 1) ∧
    (let l : Lease := { asid := 0, page := 1, entry := 0, block := false, ends := 5 }
     ({ st with leases := [l], clk := 5 } : State).leases[0]? = some l ∧ l.ends ≤ ({ st with clk := 5 } : State).clk ∧ st.updaters = [] ∧
       (let s := st.setTile 3 { st.tile 3 with updates := [(8, 4, 6, 1), (65536, 4, 6, 1)] }
        s.updaters = [3] ∧ (8, 4, 6, 1) ∈ (s.tile 3).updates ∧ 8 < peFrame l.entry * 65536 + 65536 ∧
          ¬ 65536 < peFrame l.entry * 65536 + 65536)) ∧
    (({ st with clk := 2048 } : State).qnow < 2048 / 2048 ∧
      (let s := { st with qnow := 2 }
       s.qdone + 1 < s.qnow ∧ ∀ l, l ∈ s.leases → s.qdone + 1 < (l.ends - 8400) / 2048) ∧
      (let l : Lease := { asid := 0, page := 1, entry := 0, block := false, ends := 8400 }
       l ∈ ({ st with qnow := 2, leases := [l] } : State).leases ∧ (l.ends - 8400) / 2048 ≤ st.qdone + 1)) ∧
    (let s := { st with clk := 21000 }
     (Map.get? s.contexts 0).map Context.period = some 0 ∧ 0 < s.clk / 21000) := by decide +kernel

/-- A released capsule whose painted anchor the sweep covers enters; frames and a capsule leave. -/
theorem witness_ReturnsAndTimers_quarantine :
    let q : QItem := { frame := 9, count := 1, capsule := none, narrowed := 0, free := 0, sweep := 1 }
    let k : QItem := { frame := 0, count := 0, capsule := some 0, narrowed := 0, free := 0, sweep := 1 }
    let s := { capsuleAt (fun k => { k with released := true }) with
      lastEpoch := 1, painted := [keyAnchor 0], covers := [(keyAnchor 0, 1)] }
    s.mayQueue 0 k = true ∧ s.sweepState 1 = 1 ∧
    (let t := s.setPart 0 { s.part 0 with quar := [q, k] }
     (t.part 0).quar[0]? = some q ∧ (t.part 0).quar[1]? = some k ∧ q.free ≤ t.qdone ∧ k.free ≤ t.qdone) := by decide +kernel

theorem get_pairs (n : Nat) : ∀ l : List Nat, n ∈ l → Map.get? (l.map (fun g => (g, 1))) n = some 1
  | [], h => nomatch h
  | k :: l, h => by
    by_cases e : n = k
    · simp [Map.get?, e]
    · rw [List.map_cons, Map.get?, if_neg e]
      exact get_pairs n l (by simpa [e] using h)

/-- The granules of frame 9, painted and swept, with the frame unmapped long enough. -/
def frameGrains : List Nat := (List.range 4096).map (fun i => 9 * 65536 + 16 * i)
def swept9 : State := { st with clk := 16800, lastEpoch := 1, painted := frameGrains, covers := frameGrains.map (fun g => (g, 1)) }

theorem witness_ReturnsAndTimers_frame : ∃ q : QItem, swept9.mayQueue 0 q = true ∧ q.capsule = none ∧
    ({ swept9 with narrowed := [(9, 1, 8400)] } : State).mayQueue 0 q = true ∧ q.frame < 9 + 1 ∧ 9 < q.frame + q.count := by
  let q : QItem := { frame := 9, count := 1, capsule := none, narrowed := 0, free := 0, sweep := 1 }
  have hg : ∀ g, g ∈ frameGrains → itemHolds q g = true := by
    intro g h
    obtain ⟨i, hi, rfl⟩ := List.mem_map.1 h
    have := List.mem_range.1 hi
    simp [itemHolds, itemRange, q]; omega
  have hf : frameGrains.filter (itemHolds q) = frameGrains := List.filter_eq_self.2 hg
  have hl : frameGrains.length = 4096 := by simp [frameGrains]
  have hc : ∀ s : State, s.painted = frameGrains → s.covers = frameGrains.map (fun g => (g, 1)) → s.lastEpoch = 1 →
      s.itemCovered q = true := by
    intro s hp hv he
    simp only [State.itemCovered, hp, hf, Bool.and_eq_true, List.all_eq_true]
    refine ⟨by simp [hl, q], fun g h => ?_⟩
    simp [State.coveredBy, hv, get_pairs g _ h, he, q]
  refine ⟨q, ?_, rfl, ?_, by decide, by decide⟩
  · rw [State.mayQueue, hc _ rfl rfl rfl]; decide +kernel
  · rw [State.mayQueue, hc _ rfl rfl rfl]; decide +kernel

/-- An entry of one port and one place, empty, in the table of context 0. -/
def bound (s : State) : State :=
  let s1 := vacant s
  let e := { s1.tctx.entry 0 with image := { singleEntry with cap := st.reg.pcc.withOtype 2, ctrl := 2 ^ 16 + 2 ^ 12 + 1 }, en := true }
  s1.setTctx (s1.tctx.setEntry 0 e)

/-- An entry of two places with a message, ready. -/
def ready (s : State) : State :=
  let s1 := bound s
  (s1.setTctx (s1.tctx.setEntry 0 { s1.tctx.entry 0 with queue := [msg0] })).rankReady 0 0

/-- A message in flight to a tile where its context is and where it is not, bound and unbound; one at an ingress; one unbound. -/
theorem witness_MessagesMakeFirings :
    (let s := { bound st with net := [msg0] }
     let e := (s.tctxOf 0 0).entry 0
     s.net[0]? = some msg0 ∧ s.net.take 0 = [] ∧ s.resident 0 0 = true ∧ (s.tile 0).ingress = [] ∧ (s.tctxOf 0 0).unbound = [] ∧ e.lock = false ∧
       (s.tctxOf 0 0).hasRoom 0 0 = true ∧ (e.image.ctrl.extractLsb' 16 2).toNat ≠ 0 ∧ e.image.ctrl.getLsbD 15 = msg0.urg ∧
       (s.tctxOf 0 0).heldFor msg0.tag + e.queue.length < (e.image.ctrl.extractLsb' 18 6).toNat + 1 ∧ msg0.knd ≠ 6 ∧ ({ msg0 with knd := 4 } : Msg).knd = 4) ∧
    (st.resident 1 0 = false ∧ ((((st.tctxOf 0 0).entry 0).image.ctrl.extractLsb' 16 2).toNat = 0)) ∧
    (let b := bound st
     let s := b.setTile 0 { b.tile 0 with ingress := [msg0] }
     s.resident 0 0 = true ∧ (s.tile 0).ingress = [msg0] ∧ (s.tctxOf 0 0).unbound = [] ∧ (s.tctxOf 0 0).hasRoom 0 0 = true ∧
       ∃ q, q ∈ ({ s with net := [msg0] }.tile 0).ingress ∧ q.ctx = 0 ∧ q.urg = msg0.urg ∧ q.dst = 0) ∧
    (let b := bound st
     let s := b.setTctx { b.tctx with unbound := [msg0] }
     (s.tctxOf 0 0).unbound = [msg0] ∧ s.resident 0 0 = true) ∧
    (let x := (Map.get? st.contexts 0)
     (x.map (fun x => x.refuses 0 singleEntry)) = some true ∧
     (x.map (fun x => x.refuses 0 { singleEntry with cap := st.reg.pcc.withOtype 2 })) = some false ∧
       (let s := st.setEntryOf 0 0 0 { st.entryOf 0 0 0 with next := some singleEntry, lock := true }
        (s.entryOf 0 0 0).next = some singleEntry)) := by
  refine ⟨by decide +kernel, by decide +kernel, ⟨by decide +kernel, by decide +kernel, by decide +kernel, by decide +kernel, msg0,
    by decide +kernel, by decide +kernel, by decide +kernel, by decide +kernel⟩, by decide +kernel, by decide +kernel⟩

def task0 : Task := { msg := msg0, serial := 5, parent := { tile := 0, serial := 4 } }

def rerun0 : Rerun := { tag := 0, rank := 0, firing := { Firing.placed with image := (bound st).tctx.entry 0 |>.image } }

/-- A ready entry; a rerun; a task of the own deque and one of a neighbour's. -/
theorem witness_MessagesMakeFirings_start :
    (let s := ready st
     let e := (s.tctxOf 0 0).entry 0
     s.mayStart 0 = some 0 ∧ s.setFree 0 0 false = true ∧ s.painted = [] ∧ s.choose 0 0 true = none ∧
       ((s.choose 0 0 false).map (fun q => (q.cand, q.tag))) = some (.entry 0, 0) ∧
       (s.choose 0 0 false).map (s.taskAhead 0 0 false) = some false ∧ e.queue = msg0 :: [] ∧ e.pend = false ∧
       e.image.ctrl.extractLsb' 12 3 = 1 ∧ e.image.port.extractLsb' 0 16 = BitVec.ofNat 16 0 ∧ ctrlClass e.image.ctrl = false) ∧
    (let b := bound st
     let s := b.setTctx { b.tctx with reruns := [rerun0] }
     s.mayStart 0 = some 0 ∧ s.setFree 0 0 false = true ∧ s.painted = [] ∧ s.choose 0 0 true = none ∧ (s.tctxOf 0 0).reruns = [rerun0] ∧
       ((s.choose 0 0 false).map (fun q => (q.cand, q.tag))) = some (.rerun rerun0, 0) ∧
       (s.choose 0 0 false).map (s.taskAhead 0 0 false) = some false ∧ rerun0.firing.urgent = false ∧ rerun0.firing.ctx = 0) ∧
    (let b := bound st
     let s := b.setTile 0 { b.tile 0 with deque := [task0] }
     let e := (s.tctxOf 0 0).entry 0
     s.mayStart 0 = some 0 ∧ s.setFree 0 0 false = true ∧ s.choose 0 0 true = none ∧ (s.tile 0).deque.getLast? = some task0 ∧ s.mayTake 0 task0 = true ∧
       e.image.ctrl.extractLsb' 16 2 = 1 ∧ e.image.ctrl.extractLsb' 12 3 = 1 ∧ e.image.port.extractLsb' 12 4 = 0 ∧ task0.msg.ctx = 0 ∧
       ctrlClass e.image.ctrl = false) ∧
    (let b := bound st
     let y := { TileCtx.reset with saveAddr := 0 }
     let s := b.setTile 1 { b.tile 1 with ctxs := [(0, y)], loaded := some 0, deque := [task0] }
     s.mayStart 0 = some 0 ∧ s.setFree 0 0 false = true ∧ s.choose 0 0 true = none ∧ s.victim 0 = some 1 ∧ (s.tile 1).deque = task0 :: []) := by
  decide +kernel

theorem witness_MessagesMakeFirings_resume :
    let m : Msg := { msg0 with knd := 6, payload := [BitVec.ofNat 64 (0 + 2 ^ 15 + 3 * 2 ^ 16), 0, 0, 0, 0, 0] }
    let w : PageWait := { count := 3, va := 0x10000, reply := none }
    let s := { st.setReg { st.reg with pageWait := some w } with net := [m] }
    s.net[0]? = some m ∧ m.knd = 6 ∧ m.dst = 0 ∧ m.payload.getD 0 0 = BitVec.ofNat 64 (0 + 2 ^ 15 + 3 * 2 ^ 16) ∧
      (m.payload.getD 1 0).toNat % 2 ^ 16 = 0 ∧ (s.tile 0).loaded.isSome = true ∧ (s.regOf 0 .normal).pageWait = some w := by decide +kernel

/-- An ended firing that may commit, with no reader and with one; running firings, speculative, pinned and with a terminal fault. -/
theorem witness_CommitsAndAborts :
    let f := { firOf st with origin := { consumed := [(0, msg0)], pend := none, task := none } }
    let s := (vacant st).setTctx { (vacant st).tctx with ended := [f] }
    let l : LiveFiring := { tile := 0, ctx := 0, place := .ended, f := f }
    (s.liveAt 0 f.serial = some l ∧ s.mayCommit l = true ∧ s.partner 0 = none ∧ s.taskPoison l = none ∧ s.readers 0 0 l.id (writeLines f.actions) = [] ∧
      ({ s with poison := [keyTask 0 f.serial 0] } : State).taskPoison l = some (keyTask 0 f.serial 0) ∧
      ({ s with poison := [keyTask 0 f.serial 0] } : State).mayCommit l = true ∧
      f.pinned = false ∧ f.popped = [] ∧ f.owed = [] ∧ (s.tctxOf 0 0).reruns = [] ∧ (∀ g, g ∈ (s.tctxOf 0 0).live 0 0 → g.f.owed = []) ∧ (∀ g, g ∈ s.live 0 → isChild l.id g.f = false)) ∧
    (let w := { f with serial := 64, actions := [.store 0x10000 [(0x40000, 1)] [1] false] }
     let r := { f with reads := linesOf 0x10000 1 }
     let u := (vacant st).setTctx { (vacant st).tctx with ended := [w, r] }
     let l : LiveFiring := { tile := 0, ctx := 0, place := .ended, f := w }
     let g : LiveFiring := { tile := 0, ctx := 0, place := .ended, f := r }
     u.liveAt 0 64 = some l ∧ u.mayCommit l = true ∧ u.partner 0 = none ∧ u.taskPoison l = none ∧ g ∈ u.readers 0 0 l.id (writeLines w.actions) ∧
       g.f.earlier l.f = true) ∧
    ((st.tile 0).loaded = some 0 ∧ (st.regOf 0 .normal).fir = some (firOf st) ∧ (firOf st).pinned = false ∧ st.mayPin 0 (firOf st) = true ∧
      st.partner 0 = none ∧ st.taskPoison { tile := 0, ctx := 0, place := .set .normal, f := firOf st } = none ∧ st.readers 0 (st.info 0).asid { tile := 0, serial := (firOf st).serial } (writeLines (firOf st).actions) = []) ∧
    (firOf (pinned st)).pinned = true ∧
    (let u := firing st (fun f => { f with term := some Code.slvNan })
     (u.regOf 0 .normal).fir = some (firOf u) ∧ (firOf u).term = some Code.slvNan ∧ u.mayPin 0 (firOf u) = true ∧
       ∀ g, g ∈ u.live 0 → isChild { tile := 0, serial := (firOf u).serial } g.f = false) := by decide +kernel

/-- A store of a mapped granule and one of another page, performed alone and after another; a commit that aborts a later reader on
another tile's set, and an ended firing with a terminal fault. -/
theorem witness_CommitsAndAborts_stores :
    let s := mapped (vacant st)
    let g := Action.store 0x10010 [(0x40010, 16)] (List.replicate 16 0) true
    let as := [Action.store 0x10000 [(0x40000, 4)] [1, 2, 3, 4] false, g]
    s.memWf ∧ s.updaters = [] ∧ s.painted = [] ∧ s.tags.Pairwise (· < ·) ∧
    s.storeKeys 0 0x10010 16 = some [(0x40010, 16)] ∧ (s.storeKeys 0 0x10010 16).getD [(0x40010, 16)] = [(0x40010, 16)] ∧
    as = [Action.store 0x10000 [(0x40000, 4)] [1, 2, 3, 4] false] ++ g :: [] ∧ keyKind 0x40010 ≠ 6 ∧
    keyKind (0x40010 + 16) = keyKind 0x40010 ∧ (0x40010 : Nat) % 16 = 0 ∧ s.storesReach 0 as = true ∧
    (∀ a, a ∈ [0x3FFFF, 0x40020] → ∀ r, r ∈ [(0x40000, 4), (0x40010, 16)] → a < r.1 ∨ r.1 + r.2 ≤ a) := by decide +kernel

/-- An ended firing that writes and one, later, that has read. -/
def writerAndReader (term : Option (BitVec 16)) : State :=
  let f := { firOf st with origin := { consumed := [(0, msg0)], pend := none, task := none } }
  let w := { f with term := term, actions := [.store 0x10010 [(0x40010, 1)] [1] false] }
  let r := { f with serial := 64, ts := 5, reads := linesOf 0x10000 1, slot := none, origin := { consumed := [], pend := none, task := none } }
  let s := mapped (st.setReg { st.reg with fir := some r })
  s.setTctx { s.tctx with ended := [w] }

theorem witness_CommitsAndAborts_reader :
    let s := writerAndReader none
    (s.liveAt 0 0).map (fun l => (s.mayCommit l, l.f.term, s.taskPoison l, s.storesReach l.ctx l.f.actions)) = some (true, none, none, true) ∧
    s.partner 0 = none ∧ (s.live 0).Pairwise (fun a b => a.id.same b.id = false) ∧
    (s.liveAt 0 0).map (fun l => (s.readers 0 0 l.id (writeLines l.f.actions)).map (fun g => (g.f.serial, g.f.earlier l.f))) = some [(64, false)] ∧
    ((s.tctxOf 0 0).regs .normal).fir.map Firing.serial = some 64 ∧
    (let u := writerAndReader (some Code.slvNan)
     (u.liveAt 0 0).map (fun l => (u.mayCommit l, l.f.term)) = some (true, some Code.slvNan)) := by decide +kernel

/-! ### Queues, links, partitions, services -/

/-- A record of a type, with sequence number 5 and further bytes, at the head of queue 0 of context 0; the bytes of each field are
given lowest first. -/
def ring (typ : Nat) (fields : List (Nat × List Byte)) (s : State) : State :=
  let fs := (0, [BitVec.ofNat 8 typ]) :: (4, [5]) :: fields
  { s with
    mem := fs.foldl (fun m f => Memory.writeBytes m (keyHost (0x10000 + f.1)) f.2) s.mem
    queues := [(0, { Queue.reset with qbase := 0x10000, cbase := 0x20000, en := true, logsz := 4, tail := 1 })] }

def recordOf (s : State) : List Byte := (s.ringRecord 0).getD []

/-- Page 1 of context 0 in host memory instead. -/
def hosted : State :=
  let s := mapped st
  { s with mem := Memory.writeBytes s.mem 0x30008 (toBytes 8 (2 ^ 63 + 2 ^ 61 + 2 ^ 57 + 2 ^ 56 + 4 * 2 ^ 16)) }

/-- Capsule 0 bound at tag 0, and a launch of one work identifier of 4 bits whose 1 field is parallel. -/
def launching : State :=
  ring 1 [(0x10, [1]), (0x18, [1]), (0x20, [4])] { mapped st with binds := [{ ctx := 0, capsule := 0, tagbase := 0, tags := [0], params := [] }] }

def launch0 : Launch := launching.launchOf 0 0 (recordOf launching)

/-- Room in a completion ring and none; a queue's indices in range and out of it, before READY and after. -/
theorem witness_QueuesAndLaunches_rings :
    (st.comps = [] ∧ st.memWf ∧
      (let s := ring 0 [] st
       (s.queue 0).ctail + 1 ≠ (s.queue 0).chead ∧ ((s.queue 0).ctail + 1) % 2 ^ (s.queue 0).logsz ≠ (s.queue 0).chead) ∧
      (let q := { Queue.reset with logsz := 4, chead := 1 }
       (q.ctail + 1) % 2 ^ q.logsz = q.chead)) ∧
    (State.reset.status.ready = false ∧ State.reset.comps = []) ∧
    (let s := ring 0 [] st
     s.status.ready = true ∧ s.comps = [] ∧ 2 ^ (s.queue 0).logsz ≤ 16 ∧ 15 < 2 ^ (s.queue 0).logsz) := by decide +kernel

/-- Register writes above and below a field's privilege; HDM values and a window's capability that are accepted, at their bounds. -/
theorem witness_QueuesAndLaunches_registers :
    st.status.ready = true ∧ Priv.user ≠ .keeper ∧
    (let top := 24192 * 2 ^ 20 - 65536
     let dev := fun (n : Nat) => (BitVec.ofNat 64 (n + 5)).toNat / 4096 * 4096
     (2 ^ 64 - 131072) % 65536 = 0 ∧ 2 ^ 64 - 131072 + 131072 ≤ 2 ^ 64 ∧ dev (top - 65536) = top - 65536 ∧ (top - 65536) % 65536 = 0 ∧
       (∀ j, j < 131072 / 65536 → st.hostMay (dev (top - 65536) + 65536 * j) = true) ∧ st.hostMay (dev top + 65536 * 1) = false) ∧
    ((Map.get? st.contexts 0).isSome = true ∧
      (let s := st.setTile 0 { st.tile 0 with slots := [some (copyOf st)] }
       ((s.tile 0).copyAt 0).isSome = true ∧ (st.tile 0).copyAt 0 = none)) ∧
    ((st.etail + 1) % 256 ≠ st.ehead ∧ (let s := { st with etail := 255 }
      (s.etail + 1) % 256 = s.ehead)) ∧
    (let w : Word := BitVec.ofNat 64 (2 ^ 63 + 2 ^ 62)
     let h : WinHand := { tile := 0, gran := 16383, off := 2 ^ 32 - 4096, len := 4096, rd := true, wr := false }
     w.getLsbD 63 = true ∧ h.off + h.len ≤ 2 ^ 32 ∧ h.gran < 16384 ∧ st.resident h.tile (w.extractLsb' 48 12).toNat = true) ∧
    (0 : Word).getLsbD 63 = false := by decide +kernel

/-- Records of every type, accepted and refused. -/
theorem witness_QueuesAndLaunches_records :
    (recType (recordOf (ring 0 [] st)) = 0 ∧ 6 < recType (recordOf (ring 7 [] st))) ∧
    (let s := ring 2 [(8, [0, 0, 1]), (16, [1])] hosted
     let u := s.setQueue 0 { s.queue 0 with head := 1 }
     s.ringRecord 0 = some (recordOf s) ∧ recType (recordOf s) = 2 ∧ badRange (recordOf s) = false ∧
       u.allHost (u.queueInfo 0) (rangeOf (recordOf s)).1 (rangeOf (recordOf s)).2 = true) ∧
    (let s := ring 2 [(8, [0, 0, 1]), (16, [1])] (mapped st)
     let u := s.setQueue 0 { s.queue 0 with head := 1 }
     badRange (recordOf s) = false ∧ u.allHost (u.queueInfo 0) (rangeOf (recordOf s)).1 (rangeOf (recordOf s)).2 = false) ∧
    badRange (recordOf (ring 2 [(8, [1])] st)) = true ∧
    (let s := ring 3 [(8, [0, 0, 1]), (16, [1])] hosted
     let u := s.setQueue 0 { s.queue 0 with head := 1 }
     recType (recordOf s) = 3 ∧ s.dueRelease 0 = none ∧ badRange (recordOf s) = false ∧
       u.allHost (u.queueInfo 0) (rangeOf (recordOf s)).1 (rangeOf (recordOf s)).2 = true) ∧
    (let s := ring 4 [(8, [3])] st
     recType (recordOf s) = 4 ∧ badRecord (recordOf s) [(9, 0xF7)] = false ∧
       (Map.get? s.contexts (s.queue 0).ctx).map (fun x => Map.get x.attempts 3 0 + 1) = some 1) ∧
    2 ^ 32 ≤ Map.get ([(3, 2 ^ 32 - 1)] : Map Nat) 3 0 + 1 ∧
    (let s := ring 5 [] st
     recType (recordOf s) = 5 ∧ s.dueCapsule 0 = none ∧ badRecord (recordOf s) [(0xA, 0xF6)] = false ∧ fieldAt (recordOf s) 8 2 = 0 ∧
       (Map.get? s.capsules 0).map (fun k => (k.ctx == (s.queue 0).ctx, k.released)) = some (true, false) ∧
       (let u := { s with capsules := Map.mapKV (fun _ k => { k with released := true }) s.capsules }
        (Map.get? u.capsules 0).map Capsule.released = some true)) ∧
    (let s := ring 5 [(8, [0xFF, 0x0F])] st
     recType (recordOf s) = 5 ∧ fieldAt (recordOf s) 8 2 = 4095 ∧ badRecord (recordOf s) [(0xA, 0xF6)] = false ∧
       Map.get? s.capsules 4095 = none) ∧
    (let s := ring 6 [] st
     recType (recordOf s) = 6 ∧ s.dueSync 0 = none ∧ badRecord (recordOf s) [(8, 0x80), (0x90, 0x70)] = false ∧
       fieldAt (recordOf s) 0x88 8 = 0) ∧
    (let s := ring 6 [(0x8F, [0x80])] st
     let d := fieldAt (recordOf s) 0x88 8
     recType (recordOf s) = 6 ∧ badRecord (recordOf s) [(8, 0x80), (0x90, 0x70)] = false ∧ d.testBit 63 = true ∧
       d / 2 ^ 58 % 2 ^ 5 = 0 ∧ d.testBit 47 = false) := by decide +kernel

/-- A host sync can name a launch of this package, whichever number the package has (log 4). -/
theorem witness_QueuesAndLaunches_sync : ∃ r : List Byte, depOf r = (selfPackage, 0, 0) := by
  refine ⟨List.replicate 0x88 0 ++ toBytes 8 (selfPackage * 2 ^ 48), ?_⟩
  have h : selfPackage < 1024 := Nat.mod_lt _ (by decide)
  generalize selfPackage = n at h
  have key : ∀ m : Fin 1024, depOf (List.replicate 0x88 0 ++ toBytes 8 (m.val * 2 ^ 48)) = (m.val, 0, 0) := by decide +kernel
  exact key ⟨n, h⟩

/-- A launch record that starts, one that is refused, one that waits for its layout; and what waits to complete. -/
theorem witness_QueuesAndLaunches_launch :
    (let s := launching
     let r := recordOf s
     let u := s.setQueue 0 { s.queue 0 with head := 1 }
     s.ringRecord 0 = some r ∧ recType r = 1 ∧ u.launchStatus 0 r = 0 ∧ s.launchBlocked (u.launchOf 0 0 r) = false) ∧
    (let s := ring 1 [] st
     let u := s.setQueue 0 { s.queue 0 with head := 1 }
     s.ringRecord 0 = some (recordOf s) ∧ recType (recordOf s) = 1 ∧ u.launchStatus 0 (recordOf s) ≠ 0) ∧
    (let s := { launching with launches := [(0, { launch0 with widths := [5] })] }
     let u := s.setQueue 0 { s.queue 0 with head := 1 }
     let h := s.setQueue 0 { s.queue 0 with held := some launch0 }
     u.launchStatus 0 (recordOf s) = 0 ∧ s.launchBlocked (u.launchOf 0 0 (recordOf s)) = true ∧ (h.queue 0).held = some launch0 ∧
       h.launchBlocked launch0 = true ∧ ({ h with launches := [] } : State).launchBlocked launch0 = false) ∧
    (let s := { st with waits := [.relRange 0 5 0] }
     s.waits = [.relRange 0 5 0] ∧ s.comps = [] ∧ 0 ≤ s.clk) ∧
    (let s := { vacant st with waits := [.capRel 0 5 0] }
     s.comps = [] ∧ s.capsuleBusy 0 = false ∧ s.binds = [] ∧ s.sweeps = [] ∧ (Map.get? s.contexts (s.queue 0).ctx).isSome ∧
       (Map.get? s.capsules 0).map (fun k => (k.ctx == (s.queue 0).ctx, k.released)) = some (true, false) ∧
       (let u := { s with capsules := Map.mapKV (fun _ k => { k with ctx := 1 }) s.capsules }
        u.capsuleBusy 0 = false ∧ (Map.get? u.capsules 0).map (fun k => k.ctx != (u.queue 0).ctx) = some true)) := by decide +kernel

/-- A launch of another package that it has acknowledged. -/
theorem witness_QueuesAndLaunches_syncOther : ∃ d : Nat × Nat × Nat, d.1 ≠ selfPackage ∧
    (let s := { st with waits := [.sync 0 5 d], flushAcks := [d] }
     s.waits = [.sync 0 5 d] ∧ s.comps = [] ∧ s.syncDone d = true) := by
  refine ⟨(selfPackage + 1, 0, 5), by simp, rfl, by decide +kernel, ?_⟩
  simp [State.syncDone]

theorem witness_QueuesAndLaunches_syncDone :
    let d := (selfPackage, 0, 5)
    let s := { st with waits := [.sync 0 5 d], doneLaunch := [(0, 5)] }
    s.waits = [.sync 0 5 d] ∧ s.comps = [] ∧ s.syncDone d = true := by
  have h : ({ st with waits := [.sync 0 5 (selfPackage, 0, 5)], doneLaunch := [(0, 5)] } : State).flushDone 0 5 = true := rfl
  exact ⟨rfl, by decide +kernel, by simp [State.syncDone, h]⟩

/-- A launch with its first message to send; one whose work is over; one that a peer wants flushed. -/
theorem witness_QueuesAndLaunches_dispatch :
    (let l := launch0
     let s := { mapped st with launches := [(0, l)] }
     s.maySend 0 l = true ∧ l.pull = false ∧ l.streams = [] ∧ l.late = [] ∧ l.begun = false ∧ l.dep = none ∧ l.next < product l.outer ∧
       product l.inner = 1 ∧ s.target l l.next 0 = (0, some 0) ∧ s.weightsAllow 0 l (quadOf 0) = true) ∧
    (let l := { launch0 with begun := true }
     let s := { mapped st with launches := [(0, l)] }
     s.maySend 0 l = true ∧ l.pull = false ∧ l.streams = [] ∧ l.late = [] ∧ l.begun = true ∧ l.next < product l.outer ∧
       product l.inner = 1 ∧ s.target l l.next 0 = (0, some 0) ∧ s.weightsAllow 0 l (quadOf 0) = true) ∧
    (let l := { launch0 with begun := true, next := 1 }
     let s := { mapped st with launches := [(0, { launch0 with wload := true }), (1, l)] }
     s.maySend 1 l = true ∧ l.next < product l.outer ∧ s.target l l.next 0 = (1, some 0) ∧ s.weightsAllow 1 l (quadOf 0) = false) ∧
    (let l := { launch0 with sentAll := true }
     let s := { mapped st with launches := [(0, l)] }
     l.complete = false ∧ s.slotWork 0 = false) ∧
    (let s := { mapped st with launches := [(0, launch0)], doneLaunch := [(0, 5)], flushReqs := [(3, 0, 5)] }
     s.flushDue launch0 = true ∧ s.flushDone 0 5 = false) ∧
    (let s := { st with doneLaunch := [(0, 5)] }
     s.flushDone 0 5 = true ∧ s.flushReqs = []) := by decide +kernel

/-- Export 1 of context 0: its mapped page, for reading and writing; a unit that fits it, and refusals. -/
def exported (n : Nat) : State := { mapped st with exps := [(1, BitVec.ofNat 64 (n * 2 ^ 61 + 1 * 2 ^ 16))] }

def unit1 : FabricUnit :=
  { src := 3, pkg := 0, export_ := 1, group := 0, attempt := 0, off := 0, units := 1, secure := false, tile := 0, push := 7, dst := 0x10040, data := List.replicate 64 1
    poison := false }

theorem witness_LinksAndFabric :
    ((2 ^ 64 - 4) % 65536 + ([1, 2, 3, 4] : List Byte).length ≤ 65536 ∧ 2 ^ 64 - 4 + 4 ≤ 2 ^ 64) ∧ (32767 : Nat) < 32768 ∧
    (let find := fun (s : State) (a : Nat) => s.hdm.toList.find? (fun d => decide (d.base ≤ a) && decide (a < d.base + d.len))
     let d := { base := 2 ^ 64 - 65536, len := 65536, dev := 0, key := 3 : HdmDecoder }
     let s := { st with hdm := #v[d, { base := 0, len := 0, dev := 0, key := 0 }] }
     find st (2 ^ 64 - 4) = none ∧ keyKind (keyHost (2 ^ 64 - 4)) ≠ 0 ∧ find s (2 ^ 64 - 4) = some d ∧ keyKind 65532 = 0 ∧
       s.hostMay 65532 = true ∧ (s.setPart 0 { s.part 0 with world := true }).hostMay 65532 = false) ∧
    (Map.get (exported 0).exps 1 0).getLsbD 63 = false ∧
    ((Map.get (exported 7).exps 1 0).getLsbD 63 = true ∧
      ((((Map.get (exported 7).exps 1 0).extractLsb' 0 16).toNat + 1) * 65536 < 65536 - 63 + 64)) ∧
    ((Map.get (exported 5).exps 1 0).getLsbD 62 = false ∧ (Map.get (exported 6).exps 1 0).getLsbD 61 = false) ∧
    (let s := exported 7
     let q := { va := 0x10000, key := 0x40000, n := 64, tag := true : Piece }
     s.updaters = [] ∧ unit1.attempt = s.attemptOf 0 0 ∧ s.exportPieces unit1 true = some [q] ∧ s.exportPieces unit1 false = some [q] ∧
       s.poison = [] ∧ (Map.get? s.contexts 0).isSome ∧ ({ unit1 with attempt := 1 }).attempt > s.attemptOf 0 0 ∧
       ({ unit1 with secure := true }).secure ≠ (s.info 0).secure ∧
       ¬ unit1.attempt < ({ s with contexts := Map.mapKV (fun _ x => { x with attempts := [] }) s.contexts } : State).attemptOf 0 0 ∧
       unit1.attempt < ({ s with contexts := Map.mapKV (fun _ x => { x with attempts := [(0, 1)] }) s.contexts } : State).attemptOf 0 0) := by decide +kernel

/-- A copy on tile 1, which holds no context, waits for a unit; and it has a unit posted. -/
def waiting1 (s : State) : State :=
  let k := { copyOf st with push := 7, written := 64, pusher := none }
  s.setTile 1 { s.tile 1 with slots := [some k] }

def unit2 : FabricUnit := { unit1 with tile := 1 }

theorem witness_LinksAndFabric_returns :
    (let q : Posted := { unit := unit2, port := 0, owner := none, lost := false }
     let s := { waiting1 (mapped st) with fabric := [q], posted := [q] }
     ((s.tile 1).slots.map (fun o => o.map (fun k => (k.push, k.swe, k.pusher)))) = [some (7, false, none)] ∧ (s.tile 1).ctxs = [] ∧
       s.updaters = [] ∧ q.isUnit unit2 = true ∧ q.lost = false ∧
       (∀ k, (s.tile 1).slots = [some k] → unit2.attempt = s.attemptOf k.ctx 0 ∧
         (s.enginePieces 1 k.ctx unit2.dst 64 .wr).toOption = some [{ va := 0x10040, key := 0x40040, n := 64, tag := true }])) := by
  refine ⟨by decide +kernel, by decide +kernel, by decide +kernel, by decide +kernel, by decide +kernel, ?_⟩
  rintro k h
  have e : k = { copyOf st with push := 7, written := 64, pusher := none } := by
    have := congrArg (fun l => l.head?.join) h
    exact (Option.some.inj this).symm
  subst e
  decide +kernel

/-- A copy on tile 1 that waits for a response into its scratchpad, and the response: of its attempt, or an earlier one. -/
def wanting : Copy := { copyOf st with push := 7, pusher := none, started := true, fate := .settled }
def answer1 : FabricUnit := { unit1 with tile := 1, dst := loc + 0x1000 }

theorem witness_LinksAndFabric_response :
    let k := wanting
    let q : Posted := { unit := answer1, port := 0, owner := none, lost := false }
    let b := mapped st
    let s := { b.setTile 1 { b.tile 1 with slots := [some k] } with fabric := [q] }
    let c := { s with contexts := Map.mapKV (fun _ x => { x with attempts := [(0, 1)] }) s.contexts }
    (s.tile 1).slots = [some k] ∧ k.push = 7 ∧ k.running = true ∧ k.moved = false ∧ k.dstVa = answer1.dst ∧ s.fabric = [q] ∧
    q.isUnit answer1 = true ∧ s.updaters = [] ∧ k.pusher = none ∧ k.swe = false ∧ answer1.attempt = s.attemptOf k.ctx 0 ∧
    answer1.poison = false ∧ answer1.attempt < c.attemptOf k.ctx 0 ∧ ({ answer1 with poison := true }).poison = true ∧ s.posted = [] ∧
    (s.enginePieces 1 k.ctx answer1.dst 64 .wr).toOption =
      some [{ va := loc + 0x1000, key := keyScratch 0 1 0x1000, n := 64, tag := true }] ∧ k.dlen = 64 := by decide +kernel

theorem witness_LinksAndFabric_ports :
    (let s := { st with ports := [(0, .up), (1, .retraining 0), (17, .down)] }
     Map.get? s.ports 0 = some .up ∧ Map.get? s.ports 17 = some .down ∧ Map.get? s.ports 2 = none ∧ Map.get? s.ports 1 = some (.retraining 0) ∧
       s.clk ≤ 0 + 252000 ∧
       (s.etail + 1) % 256 ≠ s.ehead) ∧
    (let s := { st with ports := [(1, .retraining 0)], clk := 252001, ehead := 1 }
     Map.get? s.ports 1 = some (.retraining 0) ∧ 0 + 252000 < s.clk ∧ (∀ q, q ∈ s.posted ++ s.fabric → q.port ≠ 1) ∧
       (s.etail + 1) % 256 = s.ehead ∧
       (let q : Posted := { unit := unit2, port := 1, owner := none, lost := false }
        let u := { waiting1 s with posted := [q] }
        Map.get? u.ports 1 = some (.retraining 0) ∧ 0 + 252000 < u.clk ∧ u.posted = [q] ∧ u.fabric = [] ∧ q.port = 1 ∧
          ((u.tile q.unit.tile).slots.map (fun o => o.map Copy.push)) = [some q.unit.push] ∧ (u.tile q.unit.tile).ctxs = [])) := by decide +kernel


/-- A partition in each state. -/
def inState (x : PartState) : State := { st with parts := [(0, { Partition.reset 0 with st := x, pager1 := 1 })] }

/-- PART values that take effect and that do not; a partition to scrub and one to release. -/
theorem witness_PartitionsAndContexts :
    (let p := fun (s : State) => (s.part 0).absent = false ∧ (0 : Nat) ≠ 1 ∧ s.tileExists (partTile 0 0) = true ∧ s.tileExists (partTile 0 1) = true
     [PartState.free, .assigned, .scrubbing, .releasing].all (fun x => decide (p (inState x)) && ((inState x).part 0).st == x &&
       ((inState x).part 0).shape == 0) = true) ∧
    (let s := inState .scrubbing
     (s.part 0).toFree = false ∧ ((s.setPart 0 { s.part 0 with toFree := true }).part 0).toFree = true ∧ (inState .assigned).torus 0 = 0 ∧
       (inState .releasing).releaseDue 0 = false ∧ (vacant (inState .releasing)).releaseDue 0 = true ∧ (st.tileExists 7 = true ∧ quadOf 7 = 0)) ∧
    ((inState .scrubbing).part 0).st = .scrubbing ∧ ({ (inState .assigned).part 0 with shape := 1 }).shape ≠ 0 ∧
    (let s := { vacant (inState .releasing) with contexts := [] }
     s.releaseDue 0 = true ∧ (∀ q, q ∈ s.contexts → 0 ∉ q.2.info.parts)) ∧
    ((∀ q, q ∈ st.contexts → q.2.info.keyId ≠ 1) ∧ (∃ q, q ∈ st.contexts ∧ q.2.info.keyId = 0)) := by
  refine ⟨by decide +kernel, by decide +kernel, by decide +kernel, by decide +kernel, by decide +kernel, by decide +kernel, (0, ⟨RegInfo.none, Cap.null, [], BitVec.ofNat 64 (2 ^ 56), 0, 0, []⟩), by decide +kernel,
    by decide +kernel⟩

/-- Two partitions of one tenant that may fuse, and the torus that they make. -/
def twoParts : State :=
  { st with parts := [(0, { Partition.reset 0 with st := .assigned, pager1 := 1 }), (1, { Partition.reset 1 with st := .assigned, pager1 := 1 })] }
def fused : State := match execFusion 1 0 twoParts with
  | .next t => t
  | _ => twoParts

/-- Partitions that may fuse, and a fused group, with an MROT queued and without. -/
theorem witness_PartitionsAndContexts_fusion :
    let s := twoParts
    let f := fused
    let cmd : MtxCmd := { opc := opMrot, rnd := 0, ws := false, addr := 0, wfmt := 0, pitch := 0, step := 0, fmt := 0, owner := none }
    let g := fun (s : State) => s.setTile 0 { s.tile 0 with matrix := { Matrix.reset with queue := [cmd] } }
    s.mayFuse (fusedMembers 1 0).flatten = true ∧ s.mrotQueued (fusedMembers 1 0).flatten = false ∧
    st.mayFuse (fusedMembers 1 0).flatten = false ∧ (g s).mrotQueued (fusedMembers 1 0).flatten = true ∧
    f.torus 0 ≠ 0 ∧ f.group 0 = [0, 1] ∧ f.mrotQueued (f.group 0) = false ∧ (g f).torus 0 ≠ 0 ∧ (g f).mrotQueued ((g f).group 0) = true ∧
    s.torus 0 = 0 ∧ (f.part 0).st = .assigned ∧ (f.part 0).absent = false ∧ f.tileExists 0 = true ∧ f.tileExists 1 = true := by decide +kernel

theorem witness_PartitionsAndContexts_registration :
    let s := mapped st
    let i := { RegInfo.none with root := 1, parts := [0], asid := 1, keyId := 1 }
    let r : ResInfo := { share := 16, ctrLo := 0, ctrLen := 8, barLo := 0, barLen := 4, cmemOff := 0, cmemLen := 0, saveAddr := 24192 * 2 ^ 20 }
    s.mayRegister 1 i = true ∧ s.mayRegister 0 i = false ∧ s.mayReside 1 0 r = true ∧ s.mayReside 0 0 r = false ∧
    (Map.get? s.contexts 0).map Context.table = some [] ∧ (s.tile 1).away = [] ∧ s.binds = [] := by decide +kernel

/-- Channel 0 of context 0, live. -/
def channelled : State := { mapped st with chans := [(0, { ctrl := BitVec.ofNat 64 (2 ^ 63), dctr := 0, hctr := 0, key := 3 })] }

/-- Encryption twice is the plaintext (R367). -/
theorem cipher_twice (key iv : Nat) (bs : List Byte) : chunkCipher key iv (chunkCipher key iv bs) = bs := by
  apply List.ext_getElem <;> simp [chunkCipher, indexed, BitVec.xor_assoc]

theorem cipher_length (key iv : Nat) (bs : List Byte) : (chunkCipher key iv bs).length = bs.length := by simp [chunkCipher, indexed]

/-- A chunk that channel 0's guest sealed. -/
def sealedChunk (plain : List Byte) : Chunk :=
  { chan := 0, toHost := false, ctr := 0, addr := 0, tag := Config.gcmTag 3 (chunkIv 0 false 0) 0 plain
    data := chunkCipher 3 (chunkIv 0 false 0) plain }

def zeroChunk : Chunk := sealedChunk (List.replicate 4096 0)

/-- It is accepted, and so are several. -/
theorem sealed_accepted (plain : List Byte) (h : plain.length = 4096) :
    channelled.acceptChunk (sealedChunk plain) = (channelled, some plain) := by
  have live : channelled.channelLive 0 = true := by decide +kernel
  have key : (channelled.chan 0).key = 3 := by decide +kernel
  have ctr : channelled.acceptCtr 0 0 = channelled := rfl
  have opened : channelled.openChunk (sealedChunk plain) = some plain := by
    simp only [State.openChunk, sealedChunk, key, cipher_twice, cipher_length, h]
    simp
  simp only [State.acceptChunk, opened]
  simp [sealedChunk, live, ctr]

theorem zeroChunk_accepted : channelled.acceptChunk zeroChunk = (channelled, some (List.replicate 4096 0)) :=
  sealed_accepted _ List.length_replicate

/-- Bytes of a request whose count is n, below 2²⁴. -/
def counting (n : Nat) : List Byte :=
  [BitVec.ofNat 8 n, BitVec.ofNat 8 (n / 256), BitVec.ofNat 8 (n / 65536)] ++ List.replicate 4093 0

theorem counting_accepted (n : Nat) : channelled.acceptChunks [sealedChunk (counting n)] = (channelled, some (counting n)) := by
  simp only [State.acceptChunks, sealed_accepted (counting n) (by simp [counting]), List.append_nil]

theorem zeroChunks_accepted (n : Nat) :
    channelled.acceptChunks (List.replicate n zeroChunk) = (channelled, some (List.replicate (n * 4096) 0)) := by
  induction n with
  | zero => rfl
  | succ n ih =>
    have step : ∀ c cs a b, channelled.acceptChunk c = (channelled, some a) → channelled.acceptChunks cs = (channelled, some b) →
        channelled.acceptChunks (c :: cs) = (channelled, some (a ++ b)) := fun c cs a b h k => by
      simp [State.acceptChunks, h, k]
    rw [List.replicate_succ, step _ _ _ _ zeroChunk_accepted ih, List.replicate_append_replicate, Nat.add_comm, ← Nat.succ_mul]

/-- A chunk with a wrong tag is not, and DEAD is set. -/
theorem zeroChunk_refused : channelled.acceptChunk { zeroChunk with tag := ~~~ zeroChunk.tag } = (channelled.setDead 0, none) := by
  have live : channelled.channelLive 0 = true := by decide +kernel
  have key : (channelled.chan 0).key = 3 := by decide +kernel
  have ne : ∀ x : BitVec 128, (x == ~~~ x) = false := fun x => by
    rw [beq_eq_false_iff_ne]; intro h
    have := congrArg (fun y => y.getLsbD 0) h
    simp at this
  have opened : channelled.openChunk { zeroChunk with tag := ~~~ zeroChunk.tag } = none := by
    simp [State.openChunk, zeroChunk, sealedChunk, key, cipher_twice, ne]
  simp only [State.acceptChunk, opened]
  simp [zeroChunk, sealedChunk, live]

/-- A key slot that no context uses, with a key of tenant 0, which a line stands under. -/
def keyed : State := { channelled with keys := [(1, BitVec.ofNat 64 (2 ^ 63))], keyMat := [(1, 5)], lineKeys := [(64, 1), (128, 2)] }

theorem witness_PartitionsAndContexts_kept :
    let now := fun (n : Nat) => (BitVec.ofNat 64 n : Word)
    let kept := fun (v : Word) => v.getLsbD 63 = true ∧ (Map.get? keyed.keyMat 1).isSome = true ∧
      ((Map.get keyed.keys 1 0).extractLsb' 32 16).toNat = (v.extractLsb' 32 16).toNat ∧ (Map.get keyed.keys 1 0).getLsbD 62 = v.getLsbD 62
    kept (now (2 ^ 63)) ∧ ¬ kept (now (2 ^ 63 + 2 ^ 32)) ∧ ¬ kept 0 ∧ (∀ q, q ∈ keyed.contexts → q.2.info.keyId ≠ 1) ∧
    Map.get? keyed.lineKeys 64 = some 1 ∧ Map.get? keyed.lineKeys 128 = some 2 ∧ Map.get? keyed.keyMat 1 ≠ some (ofBytes (List.replicate 64 0)) ∧
    Map.get? { keyed with keyMat := [(1, 0)] }.keyMat 1 = some (ofBytes (List.replicate 64 0)) := by decide +kernel

/-- A key slot that no context uses, of the channel's tenant, and material in a chunk that is accepted and in one that is not. -/
theorem witness_PartitionsAndContexts_keys :
    let v : Word := BitVec.ofNat 64 (2 ^ 63)
    (∀ q, q ∈ channelled.contexts → q.2.info.keyId ≠ 1) ∧ (∃ q, q ∈ channelled.contexts ∧ q.2.info.keyId = 0) ∧
    channelled.chanTenant zeroChunk.chan = some (v.extractLsb' 32 16).toNat ∧
    channelled.chanTenant zeroChunk.chan ≠ some ((BitVec.ofNat 64 (2 ^ 63 + 2 ^ 32) : Word).extractLsb' 32 16).toNat ∧ v.getLsbD 63 = true ∧
    channelled.acceptChunk zeroChunk = (channelled, some (List.replicate 4096 0)) ∧
    channelled.acceptChunk { zeroChunk with tag := ~~~ zeroChunk.tag } = (channelled.setDead 0, none) := by
  refine ⟨by decide +kernel, ?_, by decide +kernel, by decide +kernel, by decide +kernel, zeroChunk_accepted, zeroChunk_refused⟩
  exact ⟨(channelled.contexts.headD (0, ⟨RegInfo.none, Cap.null, [], 0, 0, 0, []⟩)), by decide +kernel, by decide +kernel⟩

/-- Channelled, with no firing, and with context 0's page in HBM or in host memory. -/
def restoring : State := vacant channelled
def leafHost (s : State) (va : Nat) : Option Bool := match s.walk (s.info 0) va with
  | .leaf e _ _ => some (peHost e)
  | _ => none

/-- A live channel and one that is not; a partition whose tenant runs and whose does not; a request that is refused; a block whose page
is in HBM and one whose is in host memory; chunks that are accepted and refused. -/
theorem witness_ServicesAndDebug :
    (channelled.channelLive 0 = true ∧ st.channelLive 0 = false ∧ (channelled.chan 0).dctr < 2 ^ 32 - 1) ∧
    (State.reset.rollback ≤ 0 ∧ ({ st with rollback := 1 }).rollback > 0 ∧ st.live 0 ≠ [] ∧ (vacant st).live 0 = []) ∧
    (channelled.asksFor 0 0 = true ∧ st.asksFor 0 0 = false ∧ channelled.tenantLive (channelled.part 0).tenant 0 = true) ∧
    (restoring.asksFor 0 0 = true ∧ restoring.tenantLive (restoring.part 0).tenant 0 = false ∧
      ((restoring.contextsIn 0).find? (fun q => q.2.info.asid == 0)).isSome ∧
      (∀ r, r < 40 → restoring.tenantLive (restoring.part 0).tenant r = false) ∧ leafHost restoring 0x10000 = some false ∧
      leafHost { restoring with mem := hosted.mem } 0x10000 = some true ∧ leafHost restoring 0x50000 = none) := by decide +kernel

theorem witness_ServicesAndDebug_chunks :
    let cs := List.replicate 17 zeroChunk
    let d := List.replicate (17 * 4096) (0 : Byte)
    (∀ c, c ∈ cs → c.chan = 0) ∧ channelled.acceptChunks cs = (channelled, some d) ∧ 66048 ≤ d.length ∧
    (d.drop 65536).take 512 = List.replicate 512 0 ∧
    channelled.acceptChunks [{ zeroChunk with tag := ~~~ zeroChunk.tag }] = (channelled.setDead 0, none) := by
  refine ⟨fun c h => by rw [List.eq_of_mem_replicate h]; rfl, zeroChunks_accepted 17, ?_, ?_, ?_⟩
  · rw [List.length_replicate]; decide
  · rw [List.drop_replicate, List.take_replicate]; rfl
  · simp only [State.acceptChunks, zeroChunk_refused]

/-- Chunks that are good, or fail by direction, by length or by tag; a channel whose context is not registered. -/
theorem witness_ServicesAndDebug_accept :
    (∀ plain : List Byte, plain.length = 4096 → let c := sealedChunk plain
      let x := channelled.chan c.chan
      let p := chunkCipher x.key (c.chan * 2 ^ 84 + c.ctr % 2 ^ 32) c.data
      c.toHost = false ∧ c.data.length = 4096 ∧ Config.gcmTag x.key (c.chan * 2 ^ 84 + c.ctr % 2 ^ 32) c.addr p = c.tag ∧ c.ctr < 2 ^ 32 - 1) ∧
    ({ zeroChunk with toHost := true }.toHost ≠ false ∧ { zeroChunk with data := [] }.data.length ≠ 4096) ∧
    (channelled.chanTenant 0 = some 0 ∧ ({ channelled with contexts := [] } : State).chanTenant 0 = none ∧ zeroChunk.chan ≠ 1) := by
  refine ⟨fun plain h => ⟨rfl, ?_, ?_, ?_⟩, ⟨by simp, by simp⟩, by decide +kernel, by decide +kernel, by decide⟩
  · simp [sealedChunk, cipher_length, h]
  · have key : (channelled.chan 0).key = 3 := by decide +kernel
    have iv : chunkIv 0 false 0 = 0 * 2 ^ 84 + 0 % 2 ^ 32 := by decide +kernel
    simp only [sealedChunk, key, ← iv, cipher_twice]
  · simp [sealedChunk]

/-- Requests of no digest and of too many; a manifest of one block; a checkpoint that waits. -/
theorem witness_ServicesAndDebug_requests :
    channelled.acceptChunks [sealedChunk (counting 0)] = (channelled, some (counting 0)) ∧ fieldAt (counting 0) 0 8 ≤ 65536 ∧
    channelled.acceptChunks [sealedChunk (counting 65537)] = (channelled, some (counting 65537)) ∧ 65536 < fieldAt (counting 65537) 0 8 ∧
    channelled.acceptChunks [sealedChunk (counting 1)] = (channelled, some (counting 1)) ∧ fieldAt (counting 1) 0 8 = 1 ∧
    channelled.tenantLive (channelled.part 0).tenant 0 = true ∧ restoring.tenantLive (restoring.part 0).tenant 0 = false ∧
    ((restoring.setPart 0 { restoring.part 0 with checkpt := some (0, []) }).part 0).checkpt = some (0, []) ∧
    (restoring.setPart 0 { restoring.part 0 with checkpt := some (0, []) }).asksFor 0 0 = true :=
  ⟨counting_accepted 0, by decide +kernel, counting_accepted 65537, by decide +kernel, counting_accepted 1, by decide +kernel,
    by decide +kernel, by decide +kernel, by decide +kernel, by decide +kernel⟩

/-- A restore whose next page is mapped, one whose channel asks for nothing, one that the tenant's firing holds up. -/
theorem witness_ServicesAndDebug_restoreGo :
    let r : Restore := { chan := 0, map := [], blocks := [(0, 0x10000, [])], areas := [] }
    let s := { restoring with restores := [(0, r)] }
    Map.get? s.restores 0 = some r ∧ s.asksFor 0 r.chan = true ∧ s.restoreDue 0 r = true ∧ s.asksFor 0 1 = false ∧
    (let u := { channelled with restores := [(0, r)] }
     Map.get? u.restores 0 = some r ∧ u.asksFor 0 r.chan = true ∧ u.tenantLive (u.part 0).tenant 0 = true) ∧
    (s.contextsIn 0).find? (fun q => q.2.info.asid == 1) = none ∧
    ((s.contextsIn 0).find? (fun q => q.2.info.asid == 0)).map (fun q => q.2.info) = some (s.info 0) := by decide +kernel

/-- A bring-up step that passes, whichever step the free value names (log 9). -/
theorem witness_ServicesAndDebug_bringUp : ∃ k, 1 ≤ k ∧ k < 7 ∧ k ≠ 1 ∧ k ≠ 6 ∧ Config.bringUpFails State.reset.tick ≠ k ∧
    State.reset.status.ready = false ∧ State.reset.status.fail = false := by
  by_cases h : Config.bringUpFails State.reset.tick = 2
  · exact ⟨3, by decide, by decide, by decide, by decide, by rw [h]; decide, by decide, by decide⟩
  · exact ⟨2, by decide, by decide, by decide, by decide, h, by decide, by decide⟩

/-- An HBM word that no context owns, sound and poisoned; a poisoned scratchpad word of a context with a firing and of one without. -/
theorem witness_ServicesAndDebug_errors :
    (let s := { State.reset with poison := [0] }
     State.reset.wordCtx 63 = none ∧ State.reset.wiped = [] ∧ State.reset.checks = [] ∧ State.reset.poison = [] ∧ 63 < 40 * quadBytes ∧
       (s.etail + 1) % 256 ≠ s.ehead ∧ s.poison = [63 - 63 % 64] ∧ s.firingsAt 63 = [] ∧ s.wordCtx 63 = none) ∧
    (let key := keyScratch 0 0 5
     let s := { st with poison := [key - 5 % 16] }
     s.checks = [] ∧ s.poison = [key - 5 % 16] ∧ (s.firingsAt key).length = 1 ∧ (vacant s).firingsAt key = [] ∧
       (s.firingsAt key).all (fun l => (s.tctxOf l.tile l.ctx).live l.tile l.ctx |>.any (fun m => m.f.serial == l.f.serial)) = true) := by
  decide +kernel

/-- A capsule that does not run, whose retained form is an object of one section; a patch that is accepted and one that is not. -/
theorem witness_ServicesAndDebug_patch :
    let o := objectAt (objectCells 0x07 0x7C)
    let image := o.readBytes 0 (keyScratch 0 0 0) 96
    let k := { (Map.get? st.capsules 0).getD ⟨0, [], [], [], [], none, 0, [], 0, 0, false, none, false, []⟩ with
      image := image, sections := [{ code := [0x7C07, 0x0000] }] }
    let s := { (vacant st).setTctx { (vacant st).tctx with dbg := true } with capsules := [(1, k)] }
    Map.get? s.capsules 1 = some k ∧ s.heldFor k = true ∧ ({ vacant st with capsules := [(1, k)] } : State).heldFor k = false ∧
    s.capsuleRuns 1 = false ∧ st.capsuleRuns 0 = true ∧ (s.patched 1 k 0 0 [0x7C07, 0x0000]).toOption.isSome = true ∧
    (s.patched 1 k 0 0 [0x7C0C, 0x0000]).toOption = none ∧
    (let a := codeBase + 2 ^ 32
     codeBase ≤ a ∧ (a - codeBase) / 2 ^ 32 % 4096 = 1 ∧ k.ctx = 0 ∧ k.breaks = [] ∧ isStart (k.chains (a / 2 ^ 28 % 16)) (a % 2 ^ 28) = true ∧
       isStart (k.chains 0) 2 = false) := by decide +kernel

/-- The guest's consent to a hold comes on a channel of the context, which accepts it, refuses it or is another context's. -/
theorem witness_ServicesAndDebug_hold : channelled.resident 0 0 = true ∧
    chCtx (channelled.chan zeroChunk.chan).ctrl = 0 ∧ chCtx (Channel.mk (BitVec.ofNat 64 (2 ^ 63 + 2 ^ 48)) 0 0 0).ctrl ≠ 0 ∧
    channelled.acceptChunk zeroChunk = (channelled, some (List.replicate 4096 0)) ∧
    channelled.acceptChunk { zeroChunk with tag := ~~~ zeroChunk.tag } = (channelled.setDead 0, none) :=
  ⟨by decide +kernel, by decide +kernel, by decide +kernel, zeroChunk_accepted, zeroChunk_refused⟩

/-- A firing under Contrail, running, stopped and let go. -/
theorem witness_ServicesAndDebug_contrail :
    st.resident 0 0 = true ∧ (st.tile 0).loaded = some 0 ∧ (st.tctxOf 0 0).dbg = false ∧
    ((st.setTctx { st.tctx with dbg := true }).inHand 0 0 .normal = false) ∧
    (let s := (st.setTctx { st.tctx with dbg := true }).setReg { st.reg with debugStop := true }
     s.resident 0 0 = true ∧ (s.tctxOf 0 0).dbg = true ∧ (s.regOf 0 .normal).debugStop = true ∧ (s.regOf 0 .normal).fir.isSome = true ∧
       (s.regOf 0 .normal).brkPassed = false) := by decide +kernel

/-- A held context that is not loaded, with a saved firing. -/
theorem witness_ServicesAndDebug_saved :
    let x := { TileCtx.reset with dbg := true, saved := [(3, st.reg)] }
    let s := st.setTctxOf 0 1 x
    s.resident 0 1 = true ∧ (s.tctxOf 0 1).dbg = true ∧ (s.tile 0).loaded ≠ some 1 ∧ (s.tctxOf 0 1).saved = [(3, st.reg)] ∧
      st.reg.fir.map Firing.serial = some 0 := by decide +kernel

/-! ### Every chain, traps, the whole machine -/

/-- Tokens busy and stopped; counts of a repeat prefix at and past their ends; privileges below what is asked. -/
theorem witness_WaitsAndRepeats :
    (let p : Pfx := { P with wait := some 1 }
     let s := fun t => st.setReg { st.reg with tokens := st.reg.tokens.set 0 t }
     (s { cnt := 1, stat := 0 }).reg.tokensIdle p.tokens = false ∧
     ((s { cnt := 0, stat := 5 }).reg.tokensIdle p.tokens = true ∧ (s { cnt := 0, stat := 5 }).reg.tokensStopped p.tokens = true)) ∧
    (let q : RepPfx := { step1 := true, step2 := true, count := .reg 5 }
     let p : Pfx := { P with rep := some q }
     p.rep = some q ∧ st.free p ∧ st.reg.rcnt.remain = 0 ∧ st.reg.repCount q.count = 0 ∧
       (let s := withS st [(5, 65536)]
        s.free p ∧ 65535 < s.reg.repCount q.count) ∧
       (let s := withS st [(5, 2)]
        s.free p ∧ s.reg.repCount q.count = 2 ∧ 32 < (31 : BitVec 5).toNat + 2 ∧ ¬ 32 < (30 : BitVec 5).toNat + 2)) ∧
    (st.free P ∧ st.priv = .user ∧ st.priv ≠ .keeper) := by decide +kernel

/-- A firing with a trap vector and without, in a trap and not, with results outstanding; `brk` under Contrail. -/
theorem witness_TrapEntryAndReturn :
    (st.reg.pending = [] ∧ (st.setReg { st.reg with pending := [{ res := .s 1 7, banks := [], stamp := 0 }] }).reg.pending =
      { res := .s 1 7, banks := [], stamp := 0 } :: []) ∧
    (let t := (st.setReg { st.reg with fcode := Code.kprState, taddr := 0 }).drain
     t.reg.fir = some (firOf t) ∧ t.tvec.tag = false) ∧
    (let v := st.reg.pcc.withOtype 2
     let s := { st with contexts := Map.mapKV (fun _ x => { x with tvec := v }) st.contexts }
     let t := (s.setReg { s.reg with fcode := Code.kprState, taddr := 0 }).drain
     t.reg.inTrap = false ∧ t.tvec.tag = true) ∧
    (let t := (stK.setReg { stK.reg with fcode := Code.kprState, taddr := 0, inTrap := true }).drain
     t.reg.fir = none ∧ t.reg.inTrap = true) ∧
    (st.free P ∧ st.reg.inTrap = false) ∧
    (let s := st.setReg { st.reg with inTrap := true, epcc := st.reg.pcc }
     s.free P ∧ s.reg.inTrap = true ∧ (s.sectionAt s.reg.epcc.addr).map (fun q => decode (q.2.code.drop (portable s.reg.epcc.addr / 2)) |>.toOption)
       = some (some (.mv P 0 0, []))) ∧
    (st.tctx.dbg = false ∧ stK.cur.set = .keeper) ∧
    (let s := st.setTctx { st.tctx with dbg := true }
     s.free P ∧ s.tctx.dbg = true ∧ s.cur.set ≠ .keeper) := by decide +kernel

theorem witness_HardWiredRegisters : st.free P ∧ P.rep = none := by decide +kernel

/-- The firing at a program counter; it may issue. -/
def standing (x : Cap) : State := st.setReg { st.reg with pcc := x }
def issues (s : State) : Bool := s.agenda.isEmpty && s.turn && s.advance.canIssue s.cur && (s.partner s.cur.tile).isNone

/-- An event of the outside; a fetch that fails each check of the program counter. -/
theorem witness_StepRunsDecodedInstruction :
    (({ st with agenda := [.flitRetry 0] }).agenda = .flitRetry 0 :: [] ∧ st.status.ready = true ∧
      ({ State.reset with agenda := [.flitRetry 0] }).agenda = .flitRetry 0 :: [] ∧ State.reset.status.ready = false ∧
      Instr.flitRetry 0 ≠ .coldReset) ∧
    (let pcc := st.reg.pcc
     (issues (standing Cap.null) = true ∧ (standing Cap.null).reg.pcc.tag = false) ∧
     (let s := standing (pcc.withOtype 2)
      issues s = true ∧ s.reg.pcc.tag = true ∧ s.reg.pcc.otype ≠ 0) ∧
     (let s := standing (pcc.withPerms 1)
      issues s = true ∧ s.reg.pcc.otype = 0 ∧ s.reg.pcc.perms.getLsbD 2 = false) ∧
     (let s := standing (pcc.withAddr (BitVec.ofNat 64 (codeBase + 2)))
      issues s = true ∧ s.reg.pcc.perms.getLsbD 2 = true ∧ s.reg.pcc.top < s.reg.pcc.addr + 2)) := by decide +kernel

/-- A fetch past its section's end; one that decodes, in a whole body and in a void one; one that a breakpoint stops. -/
theorem witness_StepRunsDecodedInstruction_fetch :
    (let s := standing ((Cap.root codeBase 16 0x7FF).withAddr (BitVec.ofNat 64 (codeBase + 4)))
     issues s = true ∧ s.reg.pcc.base ≤ s.reg.pcc.addr ∧ s.reg.pcc.addr + 2 ≤ s.reg.pcc.top ∧
       (s.sectionAt s.reg.pcc.addr).map (fun q => decide (2 * q.2.code.length ≤ portable s.reg.pcc.addr)) = some true) ∧
    (issues st = true ∧ st.sectionAt st.reg.pcc.addr = some (0, { code := [0] }) ∧
      portable st.reg.pcc.addr = 0 ∧ reads [([0], .mv P 0 0)] = true ∧ (Map.get? st.capsules 0).map Capsule.void = some false) ∧
    (let s := { st with capsules := Map.mapKV (fun _ k => { k with void := true }) st.capsules }
     issues s = true ∧ (s.sectionAt s.reg.pcc.addr).map (fun q => decide (portable s.reg.pcc.addr < 2 * q.2.code.length)) = some true ∧ (Map.get? s.capsules 0).map Capsule.void = some true) ∧
    (let s := { st.setTctx { st.tctx with dbg := true } with
       capsules := Map.mapKV (fun _ k => { k with breaks := [(0, 0)] }) st.capsules }
     issues s = true ∧ s.tctx.dbg = true ∧ s.reg.brkPassed = false ∧ s.reg.begun [0] = false ∧ s.reg.pcc.addr / 2 ^ 28 % 16 = 0 ∧
       portable s.reg.pcc.addr = 0) := by decide +kernel

/-- An operand register with an error that the chain reads, and one that it does not read. -/
theorem witness_StepRunsDecodedInstruction_badRegister :
    (let s := st.setReg { st.reg with bad := [1] }
     issues s = true ∧ s.advance.badOperand (.mv P 0 1) = some (0, 1) ∧ s.advance.badOperand (.mv P 0 0) = none ∧
       (let u := pinned s
        u.cur.set ≠ .keeper ∧ u.isPager u.cur.tile u.ctxn = false ∧ u.fir = some (firOf u) ∧ (firOf u).pinned = true)) := by
  decide +kernel

theorem witness_DecodeEncodeRoundTrip :
    (Instr.add { P with settle := true, rep := some { step1 := true, step2 := true, count := .imm 32 } } 0 0).wf = true ∧
    (Instr.cmpi { P with imm := [0x3FF, 0x3FF] } 31 30).wf = true ∧
    decode [0x8401, 0x0000] = .ok (.add { P with settle := true } 0 1, [0x0000]) := ⟨by decide +kernel, by decide +kernel, rfl⟩

theorem witness_StepKeepsMemoryForm : st.memWf ∧ (match step st with
    | .next _ => true
    | _ => false) = true := by decide +kernel

/-! ## WellFormed: an ill-formed term for each check -/

/-- No term of a list is well-formed. -/
def refusesAll (l : List Instr) : Bool := l.all (fun i => !i.wf)

def PR (step1 step2 : Bool) (n : BitVec 7) : Pfx := { P with rep := some { step1 := step1, step2 := step2, count := .imm n } }
def PO (o : Order) : Pfx := { P with ord := some { order := o, scope := .dflt } }
def PN (r : Round) (z : Bool) (k : BitVec 3) : Pfx := { P with num := some { round := r, zero := z, report := k } }

/-- R39, R43 and R45: five prefixes, three immediates, modifiers that say nothing or disagree, a wait for no token. -/
theorem test_wf_prefixes : refusesAll
    [.ldW { P with rep := some { step1 := true, step2 := false, count := .imm 1 }, wait := some 1, imm := [0, 0] } 5 ⟨2, false⟩,
     .li { P with imm := [0, 0, 0] } 5 0, .vAdd (PN .dflt false 0) 1 1, .vGth (PN .rz true 0) 1 ⟨2, false⟩,
     .vGth (PN .dflt false 1) 1 ⟨2, false⟩, .ldW (PO .relaxed) 5 ⟨2, false⟩, .add { P with wait := some 0 } 1 2] = true := by decide +kernel

/-- R46: the extra-register prefix absent, not taken, or with a field out of its range. -/
theorem test_wf_extraRegister : refusesAll
    [.cp P 1 2, .cp (xr 0 0) 1 2, .cp (xr 29 0) 1 2, .kAnd P 1 2, .kAnd (xr 1 0) 1 2, .kAnd (xr 0 1) 1 2, .vFlt (xr 8 0) 4 5, .vFlt (xr 1 0) 4 5,
     .vAdd (xr 1 0) 1 2, .vAdd (xr 0 16) 1 2, .vRsum (xr 0 8) 1 2, .add (xr 0 0) 1 2, .ldW P 5 ⟨2, true⟩, .ldW (xr 0 0) 5 ⟨2, false⟩,
     .ldW (xr 4 1) 5 ⟨2, true⟩, .vLd (xr 1 0) 5 ⟨2, false⟩, .amUpdAdd P 5 ⟨2, false⟩] = true := by decide +kernel

/-- R44: a repeat prefix not taken, STEP2 with no second register, a static count that steps past a file, and past v30 for a
gather. -/
theorem test_wf_repeat : refusesAll
    [.b (PR true false 2) 0, .li (PR false true 2) 5 0, .add (PR true true 3) 30 1, .add (PR false true 3) 1 30, .vGth (PR true false 2) 30 ⟨2, false⟩,
     .kAnd { PR true false 2 with xr := some { x := 0, y := 0 } } 7 1] = true := by decide +kernel

/-- R49: orders that a load, a store and `fence` refuse, and modifiers that an instruction does not take. -/
theorem test_wf_modifiers : refusesAll
    [.ldW (PO .rel) 5 ⟨2, false⟩, .ldW (PO .ar) 5 ⟨2, false⟩, .stW (PO .acq) 5 ⟨2, false⟩, .stW (PO .ar) 5 ⟨2, false⟩, .fence P 0 2,
     .add (PO .acq) 1 2, .vIadd (PN .rz false 0) 1 2, .vAdd (PN .dflt true 1) 1 2, .vSt (PN .dflt true 1) 1 ⟨2, false⟩] = true := by
  decide +kernel

/-- R47 and the limits of immediates: an immediate prefix on formats that take none, and values out of range. -/
theorem test_wf_immediates : refusesAll
    [.add { P with imm := [1] } 1 2, .ldW { xr 4 0 with imm := [1] } 5 ⟨2, true⟩, .shli P 5 (-1), .shri P 5 1, .srai P 5 1, .rori P 5 1,
     .loop P 5 0, .barArv P 5 16, .widFld P 5 6, .call P 0 1] = true := by decide +kernel

/-- An event has no words. -/
theorem test_wf_events : refusesAll [.coldReset, .tailWrite 0 1, .dispatchMessage 0] = true := by decide +kernel

/-! ## What the decoder rejects (R42 to R49, R55) -/

def rejects (l : List (List Half × Reject)) : Bool := l.all (fun q => match decode q.1 with
  | .error e => e == q.2
  | .ok _ => false)

/-- The table of R55. -/
theorem test_reject_R55 : rejects
    [([0x6E03], .seqTrunc), ([0xFC02, 0x00A4], .pfxBits), ([0x7480, 0x6E03, 0x04C5], .pfxOrder), ([0x7C0C, 0x0000], .rsvPage),
     ([0x7C03, 0x5000], .rsvMajor), ([0x7C07, 0x0021], .rsvField), ([0x7198, 0x7480, 0x7C02, 0x80A3], .modRelld),
     ([0x6F03, 0x07C1], .repStatic)] = true := by decide +kernel

/-- R39, R42, R43, R45 and R48: five prefixes, a kind twice, a page of 0, page bits 9:8, and modifiers without meaning. -/
theorem test_reject_prefixes : rejects
    [([0x7800, 0x7800, 0x7101, 0x7480, 0x7C02, 0x0001], .pfxLong), ([0x7480, 0x7480, 0x0001], .pfxDup), ([0x7C00, 0x0001], .pfxBits),
     ([0x7D02, 0x0001], .pfxBits), ([0x7300, 0x0001], .modKind), ([0x7000, 0x7C04, 0x0421], .modKind), ([0x70C0, 0x7C04, 0x0421], .modKind),
     ([0x7100, 0x7C02, 0x0000], .modKind), ([0x7141, 0x7C02, 0x0000], .modKind), ([0x7200, 0x0001], .modKind)] = true := by decide +kernel

/-- R46, R47 and R49: prefixes that are missing or not taken. -/
theorem test_reject_missing : rejects
    [([0x7480, 0x0401], .pfxNouse), ([0x7800, 0x0401], .pfxNouse), ([0x7C02, 0x0001], .pfxMissing), ([0x7C08, 0x0001], .pfxMissing),
     ([0x7C03, 0x4C02], .pfxMissing), ([0x7140, 0x0401], .modPlace), ([0x7140, 0x7C02, 0x0400], .modAcqst), ([0x6C02, 0x5400], .repTarget)] =
    true := by decide +kernel

/-- The chains that the manual decodes in R35 to R49, R101, R123, R139 and R196. -/
theorem test_decode_examples : reads
    [([0x7158, 0x7480, 0x7C02, 0x80A3], .ldW { xr 4 0 with settle := true, ord := some { order := .acq, scope := .partition } } 5 ⟨1, true⟩),
     ([0x7BFF, 0x5418], .b { P with imm := [0x3FF] } 0x18), ([0x7802, 0x7C01, 0x08A0], .cAddi { P with imm := [2] } 5 0),
     ([0x6E04, 0x7C02, 0x0904], .ldD (PR true false 4) 8 ⟨2, false⟩), ([0x7040, 0x7C04, 0x0422], .vAdd (PN .rz false 0) 1 2),
     ([0x7540, 0x7C04, 0x5485], .vFlt (xr 10 0) 4 5), ([0x7190, 0x7C03, 0x4C03], .fence { P with ord := some { order := .rel, scope := .cluster } } 0 3)] =
    true := by decide +kernel

/-- The numbering of the table of operations: bit 0 is bit 0 of the first halfword. -/
theorem test_decodeTableWord : decodeTableWord 16 0x0501 = some (.add P 8 1) ∧ decodeTableWord 32 0x04217C04 = some (.vAdd P 1 1) ∧
    decodeTableWord 32 0x68007C01 = none := by decide +kernel

theorem test_withFetchWord : (State.reset.withFetchWord 16 0x0501).sectionAt (State.reset.withFetchWord 16 0x0501).reg.pcc.addr =
    some (0, { code := [0x0501, 0, 0, 0, 0] }) := by decide +kernel

/-! ## One step, with results from the manual's examples -/

/-- What a step answers, if it goes on. -/
def after (s : State) : State := match step s with
  | .next t => t
  | _ => s

/-- Fragment 1 of the tutorial: an immediate of 15 bits, and a product that returns to its register. -/
theorem test_li : (after (State.reset.place [0x781F, 0x24C8])).s 6 = 1000 := by decide +kernel
theorem test_mul : (let t := after (withS (State.reset.place [0x8CA6]) [(5, 3), (6, 1000)])
  (t.reg.pending.map (fun q => q.res), t.reg.parked) = ([.s 5 3000], true)) := by decide +kernel

/-- Fragment 2: a store to scratchpad. -/
theorem test_stW : (let s := withS (withC (State.reset.place [0x7844, 0x7C02, 0x04A4]) [(2, Cap.root loc 0x40000 0x7FF)]) [(5, 42)]
  Memory.readBytes (after s).mem (keyScratch 0 0 0x44) 4) = [0x2A, 0, 0, 0] := by decide +kernel

/-- Fragment 3: a loop of five halfwords, entered with a count of 8; the inner loop of R80's example falls back at its end. -/
theorem test_loop : (let t := after (withS (State.reset.place [0x5065, 0, 0, 0, 0, 0, 0]) [(3, 8)])
  (t.reg.loops, t.reg.pcc.addr)) = ([{ sect := codeBase, start := 2, stop := 12, count := 8 }], codeBase + 2) := by decide +kernel
theorem test_loopEnd : (let s := State.reset.place [0x2462, 0x2483, 0x24C0, 0x5062, 0x5081, 0x20C1, 0x0000]
  let t := after (s.setReg { s.reg with pcc := s.reg.pcc.withAddr (BitVec.ofNat 64 (codeBase + 10))
                                        loops := [{ sect := codeBase, start := 10, stop := 12, count := 3 }, { sect := codeBase, start := 8, stop := 12, count := 2 }] })
  (t.s 6, t.reg.loops, t.reg.pcc.addr)) =
    (1, [{ sect := codeBase, start := 10, stop := 12, count := 2 }, { sect := codeBase, start := 8, stop := 12, count := 2 }], codeBase + 10) := by decide +kernel

/-- Fragment 4: lanes of BF16, and their sum with themselves. -/
theorem test_vAdd : (let v : VReg := (Vector.replicate 64 0).set 0 0x3F800000 |>.set 1 0xC0200000 |>.set 2 0x3EC00000 |>.set 3 0x42C00000
  let t := after ((State.reset.place [0x7C04, 0x0421]).setV 1 v)
  (List.range 4).map (fun i => (t.v 1).toList.getD i 0)) = [0x40000000, 0xC0A00000, 0x3F400000, 0x43400000] := by decide +kernel

/-- Fragment 5: a message leaves with the payload in s1 to s6. -/
def sending : State := firing (withS (mapped (State.reset.place [0x7C07, 0x0449])) [(1, 42), (2, 1), (9, 0x21)]) oneOut
def sends (f : Firing) : List (Nat × Nat × Nat × List Word) := f.actions.map (fun a => match a with
  | .send m => (m.dst, m.tag, m.knd, m.payload)
  | _ => (0, 0, 0, []))
theorem test_send : (after sending).fir.map sends = some [(1, 0x21, 1, [42, 1, 0, 0, 0, 0])] := by decide +kernel

/-- R91's example: the first element, and the chain resumed at RCNT. -/
theorem test_repeat : (let s := withS (State.reset.place [0x6D04, 0x0501]) [(1, 10), (2, 20), (3, 30), (4, 40)]
  ((after s).s 8, (after s).reg.rcnt)) = (10, { done := 1, remain := 3 }) := by decide +kernel
theorem test_repeat_resumed : (let s := withS (State.reset.place [0x6D04, 0x0501]) [(1, 10), (2, 20), (3, 30), (4, 40), (8, 60)]
  let t := after (s.setReg { s.reg with rcnt := { done := 3, remain := 1 } })
  (t.s 8, t.reg.rcnt, t.reg.pcc.addr)) = (100, { done := 0, remain := 0 }, codeBase + 4) := by decide +kernel

/-- R103's example: 100,000 bytes at 0x0000_0010_0000_1234. -/
theorem test_cSetb : (let c := (Cap.root 0x1000000000 0x100000 0x7FF).withAddr 0x1000001234
  let t := after (withS (withC (State.reset.place [0x7C01, 0x10A1]) [(5, c)]) [(1, 100000)])
  ((t.c 5).tag, (t.c 5).base, (t.c 5).top, (t.c 5).expo, (t.c 5).lm)) = (true, 0x1000001230, 0x10000198D8, 3, 12500) := by decide +kernel

/-- R60's worked narrowings. -/
theorem test_narrow :
    roundFloat bf16 .rn (f32Num 0x3F808000) = 0x3F80 ∧ roundFloat bf16 .ro (f32Num 0x3F808000) = 0x3F81 ∧
    roundFloat bf16 .rn (f32Num 0x3F818000) = 0x3F82 ∧ roundFloat f16 .rn (f32Num 0x477FF000) = 0x7C00 ∧
    roundFloat f16 .rz (f32Num 0x477FF000) = 0x7BFF ∧ roundFloat f16 .rn (f32Num 0x33000000) = 0 ∧
    roundFloat f16 .ru (f32Num 0x33000000) = 1 ∧ roundFloat f16 .rn (f32Num 0xB3000000) = 0x8000 ∧
    roundFloat bf16 .rz (f32Num 0x7F800001) = 0x7FC0 ∧ roundFloat bf16 .rn (f32Num 0xFFA00000) = 0xFFE0 := by decide +kernel

/-- R70's worked encodings. -/
theorem test_encodeT8 :
    encodeT8 tableE4 .rn (.fin false 17 (-4)) = 0x38 ∧ encodeT8 tableE4 .ro (.fin false 17 (-4)) = 0x39 ∧
    encodeT8 tableE4 .ru (.fin true 17 (-4)) = 0xB8 ∧ encodeT8 tableE4 .rd (.fin true 17 (-4)) = 0xB9 ∧
    encodeT8 tableE4 .rn (.fin false 460 0) = 0x7E ∧ encodeT8 tableE4 .rn (.fin false 1 (-11)) = 0 ∧
    encodeT8 tableE5 .rn (.fin false 60000 0) = 0x7B ∧ encodeT8 tableE5 .rn (.fin false 62000 0) = 0x7C ∧
    encodeT8 tableE5 .rz (.fin false 62000 0) = 0x7B ∧ encodeT8 tableE5 .rn (f32Num 0xFFC00000) = 0xFD := by decide +kernel

/-- R73's example: a block of four with its scale, and R75's conversions to I8. -/
theorem test_encodeT8B : encodeT8B tableE4 .rn [.fin false 3 0, .fin true 1 (-1), .fin false 1000 0, f32Num 0x3A83126F] =
    ([0x3C, 0xA8, 0x7E, 0x00], 0x80) := by decide +kernel
theorem test_convertToInt : convertToInt (-128) 127 .rz (f32Num (widenF16 0xC0E0)) = -2 ∧
    convertToInt (-128) 127 .rz (f32Num (widenF16 0x5BD0)) = 127 ∧ convertToInt (-128) 127 .rz (f32Num (widenF16 0x7E00)) = 0 := by
  decide +kernel

/-- R15's example: tile 0x06B5. -/
theorem test_tileNumbers : quadOf 0x06B5 = 26 ∧ clusterOf 0x06B5 = 213 ∧ clusterIdx 0x06B5 = 5 := by decide +kernel

/-- R178's example: the tile of work identifier 0x0A5. -/
theorem test_chooseTile : chooseTile [(3, 1), (4, 2), (5, 5)] 0x0A5 (ascending ((List.range 64).map (partTile 26))) = some 0x0686 := by
  decide +kernel

end Sys2Proof.Tests
end

section
/-! PROOFS. What the operations of the state leave in memory: most leave it as it is (R10), and those that write it keep its one
canonical form (R2, R111). -/

namespace Sys2Proof.Machine

/-! ## Branches, folds and results -/

@[simp] theorem State.mem_ite (c : Prop) [Decidable c] (a b : State) :
    (if c then a else b).mem = if c then a.mem else b.mem := apply_ite State.mem c a b

/-- Two ways that both keep the form keep it. -/
@[simp] theorem Memory.wf_ite (c : Prop) [Decidable c] (a b : List Host.Cell) :
    Memory.wf (if c then a else b) = true ↔ (c → Memory.wf a = true) ∧ (¬ c → Memory.wf b = true) := by
  split <;> simp_all

/-- Steps that each leave memory leave it together. -/
@[simp] theorem State.foldl_mem {α : Type} (f : State → α → State) (l : List α) (s : State)
    (h : ∀ t a, (f t a).mem = t.mem) : (l.foldl f s).mem = s.mem := by
  induction l generalizing s with
  | nil => rfl
  | cons a l ih => rw [List.foldl_cons, ih, h]

/-- Steps that each keep the form keep it together. -/
theorem State.foldl_memWf {α : Type} (f : State → α → State) (l : List α) (s : State)
    (hf : ∀ t a, t.memWf → (f t a).memWf) (h : s.memWf) : (l.foldl f s).memWf := by
  induction l generalizing s with
  | nil => exact h
  | cons a l ih => exact ih _ (hf s a h)

/-- The state that a performance ends in. -/
def Res.state : Res → State
  | .done s | .goto s | .gone s | .hold s | .trap s _ _ => s

@[simp] theorem Res.state_done (s : State) : (Res.done s).state = s := rfl
@[simp] theorem Res.state_goto (s : State) : (Res.goto s).state = s := rfl
@[simp] theorem Res.state_gone (s : State) : (Res.gone s).state = s := rfl
@[simp] theorem Res.state_hold (s : State) : (Res.hold s).state = s := rfl
@[simp] theorem Res.state_trap (s : State) (code : BitVec 16) (ta : Word) : (Res.trap s code ta).state = s := rfl

@[simp] theorem Res.state_ite (c : Prop) [Decidable c] (a b : Res) :
    (if c then a else b).state = if c then a.state else b.state := apply_ite Res.state c a b

/-! ## Machine/Units.lean -/

@[simp] theorem State.setFir_mem (s : State) (f : Firing) : (s.setFir f).mem = s.mem := by
  simp [State.setFir]

@[simp] theorem State.wake_mem (s : State) (n : Nat) : (s.wake n).mem = s.mem := by
  simp [State.wake]

@[simp] theorem State.setS_mem (s : State) (i : BitVec 5) (w : Word) : (s.setS i w).mem = s.mem := by
  simp [State.setS]

@[simp] theorem State.setC_mem (s : State) (i : BitVec 4) (x : Cap) : (s.setC i x).mem = s.mem := by
  simp [State.setC]

@[simp] theorem State.setLanes_mem (s : State) (i : BitVec 5) (m : Word) (x : VReg) : (s.setLanes i m x).mem = s.mem := by
  simp [State.setLanes]

@[simp] theorem State.setK_mem (s : State) (i : BitVec 3) (w : Word) : (s.setK i w).mem = s.mem := by
  simp [State.setK]

/-! ## Machine/Space.lean -/

@[simp] theorem State.rekeyLine_memWf (s : State) (key line : Nat) (h : s.memWf) : (s.rekeyLine key line).memWf := by
  simp [State.rekeyLine, Memory.wf_writeBytes, h, State.memWf]

@[simp] theorem State.rekey_memWf (s : State) (key a n : Nat) (h : s.memWf) : (s.rekey key a n).memWf := by
  unfold State.rekey
  split
  · exact State.foldl_memWf _ _ s (fun t l ht => t.rekeyLine_memWf key (l / 64) ht) h
  · exact h

@[simp] theorem State.cleanse_mem (s : State) (p : Nat → Bool) : (s.cleanse p).mem = s.mem := by
  simp [State.cleanse]

@[simp] theorem State.cleanseRuns_mem (s : State) (runs : List (Nat × Nat)) : (s.cleanseRuns runs).mem = s.mem := by
  simp [State.cleanseRuns]

@[simp] theorem State.putBytes_memWf (s : State) (a : Nat) (bs : List Byte) (h : s.memWf) : (s.putBytes a bs).memWf :=
  Memory.wf_writeBytes bs s.mem a h

@[simp] theorem State.writeBytes_memWf (s : State) (key a : Nat) (bs : List Byte) (h : s.memWf) :
    (s.writeBytes key a bs).memWf := by
  unfold State.writeBytes
  split
  · exact h
  · exact State.putBytes_memWf _ a bs (s.rekey_memWf key a bs.length h)

@[simp] theorem State.writeCap_memWf (s : State) (key a : Nat) (x : Cap) (h : s.memWf) : (s.writeCap key a x).memWf := by
  simp [State.writeCap, State.writeBytes_memWf, h, State.memWf]

@[simp] theorem State.clearKeys_memWf (s : State) (lo n : Nat) (h : s.memWf) : (s.clearKeys lo n).memWf :=
  Memory.wf_filter _ s.mem h

/-! ## Machine/Updates.lean -/

@[simp] theorem State.mergeOne_memWf (s : State) (u : Nat × Nat × Nat × Word) (h : s.memWf) : (s.mergeOne u).memWf :=
  s.writeBytes_memWf u.2.2.1 u.1 _ h

@[simp] theorem State.mergeTile_memWf (s : State) (n : Nat) (line : Option Nat) (h : s.memWf) :
    (s.mergeTile n line).memWf := by
  unfold State.mergeTile
  simp only []
  split
  · exact h
  · exact State.foldl_memWf _ _ _ State.mergeOne_memWf h

@[simp] theorem State.mergeRanges_memWf (s : State) (rs : List (Nat × Nat)) (h : s.memWf) : (s.mergeRanges rs).memWf := by
  unfold State.mergeRanges
  simp only []
  split
  · exact h
  · exact State.foldl_memWf _ _ s (fun t _ ht => State.foldl_memWf _ _ t (fun u n hu => u.mergeTile_memWf n _ hu) ht) h

@[simp] theorem State.mergeSome_memWf (s : State) (n : Nat) (p : Nat × Nat × Nat × Word → Bool) (h : s.memWf) :
    (s.mergeSome n p).memWf :=
  State.foldl_memWf _ _ _ State.mergeOne_memWf h

@[simp] theorem State.holdUpdate_memWf (s : State) (n key fn kid : Nat) (x : Word) (h : s.memWf) :
    (s.holdUpdate n key fn kid x).memWf := by
  unfold State.holdUpdate
  generalize (s.tile n).updates.find? _ = same
  cases same <;> simp [State.mergeSome_memWf, h, State.memWf]

/-! ## Machine/Translate.lean -/

@[simp] theorem State.addLease_mem (s : State) (asid va e : Nat) (block : Bool) :
    (s.addLease asid va e block).mem = s.mem := by
  unfold State.addLease
  split <;> simp

@[simp] theorem State.leaseAll_mem (s : State) (info : RegInfo) (ps : List Piece) : (s.leaseAll info ps).mem = s.mem := by
  refine State.foldl_mem _ ps s (fun t p => ?_)
  split <;> simp

/-! ## Machine/Ops.lean -/

@[simp] theorem State.applyResult_mem (s : State) (q : Pending) : (s.applyResult q).mem = s.mem := by
  unfold State.applyResult
  split <;> simp

@[simp] theorem State.applyAll_mem (s : State) (qs : List Pending) : (s.applyAll qs).mem = s.mem := by
  induction qs generalizing s with
  | nil => rfl
  | cons q qs ih => simp [State.applyAll, ih]

@[simp] theorem State.drain_mem (s : State) : (s.drain).mem = s.mem := by
  simp [State.drain]

@[simp] theorem State.pend_mem (s : State) (x : Result) (banks : optParam (List Nat) []) : (s.pend x banks).mem = s.mem := by
  simp [State.pend]

@[simp] theorem State.terminal_mem (s : State) (code : BitVec 16) : (s.terminal code).mem = s.mem := by
  unfold State.terminal
  split <;> simp

@[simp] theorem State.raise_mem (s : State) (code : BitVec 16) (ta : Word) : (s.raise code ta).mem = s.mem := by
  simp [State.raise]

@[simp] theorem State.trapReturn_mem (s : State) : (s.trapReturn).mem = s.mem := by
  simp [State.trapReturn]

@[simp] theorem State.trapSkip_mem (s : State) (len : Nat) : (s.trapSkip len).mem = s.mem := by
  simp [State.trapSkip]

@[simp] theorem State.settle_mem (s : State) (p : Pfx) : (s.settle p).mem = s.mem := by
  simp [State.settle]

@[simp] theorem State.past_mem (s : State) (p : Pfx) (paged : Bool) : (s.past p paged).mem = s.mem := by
  simp [State.past]

@[simp] theorem State.moved_mem (s : State) (p : Pfx) : (s.moved p).mem = s.mem := by
  simp [State.moved]

@[simp] theorem State.held_mem (s : State) : s.held.mem = s.mem := by
  simp [State.held]

@[simp] theorem Res.finish_mem (p : Pfx) (paged : Bool) (r : Res) : (r.finish p paged).mem = r.state.mem := by
  cases r <;> simp [Res.finish]

@[simp] theorem afterTokens_mem (p : Pfx) (s : State) (body : State → Res) (hb : (body s).state.mem = s.mem) :
    (afterTokens p s body).state.mem = s.mem := by
  simp [afterTokens, hb]

theorem afterTokens_memWf (p : Pfx) (s : State) (body : State → Res) (hb : (body s).state.memWf) (h : s.memWf) :
    (afterTokens p s body).state.memWf := by
  simp [afterTokens, hb, h, State.memWf]

/-- What an outcome goes on to is in canonical form. -/
def NextMemWf : Host.Outcome State Fault Refusal → Prop
  | .next t => t.memWf
  | _ => True

@[simp] theorem nextMemWf_next (t : State) : NextMemWf (.next t) ↔ t.memWf := Iff.rfl

theorem run_memWf {p : Pfx} {paged : Bool} {s : State} {body : State → Res} (hb : s.memWf → (body s).state.memWf)
    (h : s.memWf) : NextMemWf (run p paged s body) := by
  simpa [run, State.memWf] using afterTokens_memWf p s body (hb h) h

@[simp] theorem Res.finishElement_mem (p : Pfx) (paged : Bool) (k n : Nat) (r : Res) :
    (r.finishElement p paged k n).mem = r.state.mem := by
  cases r <;> simp [Res.finishElement]

theorem runRep_memWf {p : Pfx} {paged : Bool} {size1 : Nat} {f1 : BitVec 5} {size2 : Nat} {f2 : BitVec 5} {s : State}
    {body : Nat → BitVec 5 → BitVec 5 → State → Res} (hb : ∀ k i j, s.memWf → (body k i j s).state.memWf) (h : s.memWf) :
    NextMemWf (runRep p paged size1 f1 size2 f2 s body) := by
  unfold runRep
  cases p.rep with
  | none => exact run_memWf (hb 0 f1 f2) h
  | some q => simp only []; (repeat' split) <;> simp [h, hb, State.memWf]

theorem atPriv_memWf {l : Priv} {s : State} {body : State → Res} (hb : s.memWf → (body s).state.memWf) (h : s.memWf) :
    (atPriv l s body).state.memWf := by
  simp [atPriv, hb, h, State.memWf]

/-! ## Machine/Scalar.lean -/

theorem alu_memWf {p : Pfx} {d a : BitVec 5} {s : State} {f : Word → Word → Word} (h : s.memWf) :
    NextMemWf (alu p d a s f) :=
  runRep_memWf (fun _ _ _ h => by simpa [State.memWf] using h) h

theorem mulDiv_memWf {p : Pfx} {d a : BitVec 5} {s : State} {f : Word → Word → Word} (h : s.memWf) :
    NextMemWf (mulDiv p d a s f) :=
  runRep_memWf (fun _ _ _ h => by simpa [State.memWf] using h) h

theorem unary_memWf {p : Pfx} {d : BitVec 5} {s : State} {f : Word → Word} (h : s.memWf) : NextMemWf (unary p d s f) :=
  runRep_memWf (fun _ _ _ h => by simpa [State.memWf] using h) h

@[simp] theorem State.compare_mem (s : State) (a b : Word) : (s.compare a b).mem = s.mem := by
  simp [State.compare]

@[simp] theorem branch_mem (p : Pfx) (off : BitVec 10) (s : State) (taken : Bool) :
    (branch p off s taken).state.mem = s.mem := by
  simp [branch]

@[simp] theorem transfer_mem (p : Pfx) (d a : BitVec 4) (s : State) : (transfer p d a s).state.mem = s.mem := by
  simp only [transfer]
  split <;> simp

/-! ## Machine/Records.lean -/

@[simp] theorem State.setChan_mem (s : State) (n : Nat) (x : Channel) : (s.setChan n x).mem = s.mem := by
  simp [State.setChan]

@[simp] theorem State.setDead_mem (s : State) (ch : Nat) : (s.setDead ch).mem = s.mem := by
  simp [State.setDead]

@[simp] theorem State.acceptCtr_mem (s : State) (ch ctr : Nat) : (s.acceptCtr ch ctr).mem = s.mem := by
  simp [State.acceptCtr]

@[simp] theorem State.acceptChunk_mem (s : State) (c : Chunk) : (s.acceptChunk c).1.mem = s.mem := by
  unfold State.acceptChunk
  (repeat' split) <;> simp

@[simp] theorem State.acceptChunks_mem (s : State) (cs : List Chunk) : (s.acceptChunks cs).1.mem = s.mem := by
  induction cs generalizing s with
  | nil => rfl
  | cons c cs ih =>
    have hc := State.acceptChunk_mem s c
    simp only [State.acceptChunks]
    split
    next s1 e => simpa [e] using hc
    next s1 a e =>
      have hs := ih s1
      split <;> simp_all

@[simp] theorem State.sendChunk_mem (s : State) (ch : Nat) (plain : List Byte) : (s.sendChunk ch plain).mem = s.mem := by
  simp [State.sendChunk]

@[simp] theorem State.sendBytes_mem (s : State) (ch : Nat) (bs : List Byte) : (s.sendBytes ch bs).mem = s.mem := by
  simp [State.sendBytes]

@[simp] theorem State.ringPost_mem (s : State) (r : ErrRec) : (s.ringPost r).mem = s.mem := by
  simp [State.ringPost]

@[simp] theorem State.sendKept_mem (s : State) (ch : Nat) : (s.sendKept ch).mem = s.mem := by
  simp [State.sendKept]

@[simp] theorem State.fullRecord_mem (s : State) (ctx : Nat) (r : ErrRec) : (s.fullRecord ctx r).mem = s.mem := by
  unfold State.fullRecord
  split <;> simp

@[simp] theorem State.postError_mem (s : State) (ctx : Option Nat) (r : ErrRec) : (s.postError ctx r).mem = s.mem := by
  unfold State.postError
  split <;> simp

/-! ## Machine/Commit.lean -/

@[simp] theorem State.raiseFloor_mem (s : State) (p ts : Nat) : (s.raiseFloor p ts).mem = s.mem := by
  simp [State.raiseFloor]

@[simp] theorem State.send_mem (s : State) (m : Msg) : (s.send m).mem = s.mem := by
  simp [State.send]

@[simp] theorem State.joinContinuation_mem (s : State) (n tag j : Nat) (payload : List Word) (wid : Word) (ts ctx : Nat) (slot : Option Nat) :
    (s.joinContinuation n tag j payload wid ts ctx slot).mem = s.mem := by
  simp [State.joinContinuation]

@[simp] theorem State.setCounter_mem (s : State) (n i : Nat) (x : Counter) : (s.setCounter n i x).mem = s.mem := by
  simp [State.setCounter]

@[simp] theorem State.armCounter_mem (s : State) (n ctx i : Nat) (join : Bool) (sv : Word) (payload : List Word) (wid : Word) (ts : Nat) (slot : Option Nat) :
    (s.armCounter n ctx i join sv payload wid ts slot).mem = s.mem := by
  simp [State.armCounter]

@[simp] theorem State.joinCounter_mem (s : State) (n i ts : Nat) : (s.joinCounter n i ts).mem = s.mem := by
  unfold State.joinCounter
  split <;> simp

@[simp] theorem State.setEntryOf_mem (s : State) (n c tag : Nat) (e : Entry) : (s.setEntryOf n c tag e).mem = s.mem := by
  simp [State.setEntryOf]

@[simp] theorem State.rankReady_mem (s : State) (n c : Nat) : (s.rankReady n c).mem = s.mem := by
  simp [State.rankReady]

@[simp] theorem State.setEn_mem (s : State) (n c tag : Nat) (en : Bool) : (s.setEn n c tag en).mem = s.mem := by
  simp [State.setEn]

@[simp] theorem State.setPend_mem (s : State) (n c tag ts : Nat) (wid : Word) (slot : Option Nat) :
    (s.setPend n c tag ts wid slot).mem = s.mem := by
  simp [State.setPend]

@[simp] theorem State.clearPend_mem (s : State) (n c tag : Nat) : (s.clearPend n c tag).mem = s.mem := by
  simp [State.clearPend]

@[simp] theorem State.writePieces_memWf (s : State) (key : Nat) (ps : List (Nat × Nat)) (bs : List Byte) (h : s.memWf) :
    (s.writePieces key ps bs).memWf := by
  induction ps generalizing s bs with
  | nil => exact h
  | cons q ps ih => exact ih _ _ (s.writeBytes_memWf key q.1 _ h)

@[simp] theorem State.noteNarrowing_mem (s : State) (keys : List (Nat × Nat)) : (s.noteNarrowing keys).mem = s.mem := by
  simp [State.noteNarrowing]

@[simp] theorem State.storeGlobal_memWf (s : State) (ctx : Nat) (keys : List (Nat × Nat)) (bs : List Byte) (tag : Bool) (h : s.memWf) :
    (s.storeGlobal ctx keys bs tag).memWf := by
  have hm := s.mergeRanges_memWf keys h
  have hw (t : State) (ht : t.memWf) : (t.writePieces (s.info ctx).keyId keys bs).memWf := t.writePieces_memWf _ keys bs ht
  have h1 := hw (if (s.info ctx).priv = .supervisor then (s.mergeRanges keys).noteNarrowing keys else s.mergeRanges keys)
    (by simp [hm, State.memWf])
  unfold State.storeGlobal
  simp only []
  split
  · split <;> exact h1
  · exact h1

@[simp] theorem State.perform_memWf (s : State) (n ctx : Nat) (a : Action) (h : s.memWf) : (s.perform n ctx a).memWf := by
  cases a with
  | store va keys bs tag => exact s.storeGlobal_memWf ctx keys bs tag h
  | _ => simpa [State.perform, State.memWf] using h

@[simp] theorem State.performEach_memWf (s : State) (n ctx : Nat) (as : List Action) (h : s.memWf) :
    (s.performEach n ctx as).memWf :=
  State.foldl_memWf _ as s (fun t a ht => t.perform_memWf n ctx a ht) h

@[simp] theorem State.performAll_memWf (s : State) (n ctx : Nat) (as : List Action) (h : s.memWf) :
    (s.performAll n ctx as).memWf := by
  unfold State.performAll
  refine State.performEach_memWf _ n ctx _ (State.performEach_memWf _ n ctx _ ?_)
  simpa [State.memWf] using s.performEach_memWf n ctx _ h

@[simp] theorem State.settleCopies_mem (s : State) (n ctx : Nat) (id : FiringId) (fate : PushFate) (detach : Bool) :
    (s.settleCopies n ctx id fate detach).mem = s.mem := by
  simp [State.settleCopies]

@[simp] theorem State.note_mem (s : State) (n c : Nat) (f : Firing) (k : FireEvent) : (s.note n c f k).mem = s.mem := by
  simp [State.note]

@[simp] theorem State.dropLines_mem (s : State) (l : LiveFiring) : (s.dropLines l).mem = s.mem := by
  simp [State.dropLines]

@[simp] theorem State.leaveSweeps_mem (s : State) (ids : List FiringId) : (s.leaveSweeps ids).mem = s.mem := by
  simp [State.leaveSweeps]

@[simp] theorem State.abortOne_mem (s : State) (l : LiveFiring) (rerun recover : Bool) :
    (s.abortOne l rerun recover).mem = s.mem := by
  simp [State.abortOne]

@[simp] theorem State.dropTasks_mem (s : State) (id : FiringId) : (s.dropTasks id).mem = s.mem := by
  simp [State.dropTasks]

@[simp] theorem State.dropReruns_mem (s : State) (p : Nat) (id : FiringId) : (s.dropReruns p id).mem = s.mem := by
  simp [State.dropReruns]

@[simp] theorem State.abortForks_mem (n : Nat) (s : State) (x : FiringId) : (State.abortForks n s x).mem = s.mem := by
  induction n generalizing s x with
  | zero => rfl
  | succ n ih => simp [State.abortForks, ih]

@[simp] theorem State.abort_mem (s : State) (l : LiveFiring) (recover : Bool) : (s.abort l recover).mem = s.mem := by
  simp [State.abort]

@[simp] theorem State.abortReaders_mem (s : State) (p : Nat) (ls : List LiveFiring) : (s.abortReaders p ls).mem = s.mem := by
  refine State.foldl_mem _ ls s (fun t l => ?_)
  split <;> simp

@[simp] theorem State.directWrite_mem (s : State) (n ctx : Nat) (w : FiringId) (lines : List Nat) :
    (s.directWrite n ctx w lines).mem = s.mem := by
  simp [State.directWrite]

@[simp] theorem State.rerunFor_mem (s : State) (l : LiveFiring) (va key : Nat) : (s.rerunFor l va key).mem = s.mem := by
  simp [State.rerunFor]

@[simp] theorem State.commitBuffer_memWf (s : State) (l : LiveFiring) (h : s.memWf) : (s.commitBuffer l).1.memWf := by
  unfold State.commitBuffer
  simp only []
  split
  · simpa [State.memWf] using h
  · split
    · simpa [State.memWf] using h
    · simpa [State.memWf] using State.performAll_memWf _ l.tile l.ctx l.f.actions (by simpa [State.memWf] using h)

@[simp] theorem State.dissolve_mem (s : State) (n : Nat) : (s.dissolve n).mem = s.mem := by
  unfold State.dissolve
  split <;> simp

@[simp] theorem State.restartPrints_mem (s : State) (n q : Nat) : (s.restartPrints n q).mem = s.mem := by
  simp [State.restartPrints]

@[simp] theorem State.onFiring_mem (s : State) (l : LiveFiring) (g : Firing → Firing) : (s.onFiring l g).mem = s.mem := by
  simp [State.onFiring]

@[simp] theorem State.comparePair_mem (s : State) (l : LiveFiring) : (s.comparePair l).1.mem = s.mem := by
  simp only [State.comparePair]
  (repeat' split) <;> simp

theorem afterCompare_memWf {c : Bool} {s : State} {body : State → Res} (hb : ∀ t, t.memWf → (body t).state.memWf)
    (h : s.memWf) : (afterCompare c s body).state.memWf := by
  unfold afterCompare
  split
  next f _ =>
    have hc := State.comparePair_mem s (s.self f)
    split
    · split <;> simp_all [State.memWf]
    · exact hb s h
  · exact hb s h

/-- Pinning keeps the form, whichever way it ends (R192). -/
theorem State.tryPin_memWf (s : State) (h : s.memWf) :
    (∀ t, s.tryPin = .pinned t → t.memWf) ∧ (∀ t, s.tryPin = .aborted t → t.memWf) := by
  unfold State.tryPin
  split
  · simp [h, State.memWf]
  next f _ =>
    have hc := State.comparePair_mem s (s.self f)
    split
    · simp [h, State.memWf]
    · split
      · simp
      · split
        next s0 e => simp_all [State.memWf]
        next s0 e =>
          have hb := s0.commitBuffer_memWf (s0.self f) (by simp_all [State.memWf])
          split <;> simp_all [State.memWf]

theorem afterPin_memWf {s : State} {body : State → Res} (hb : ∀ t, t.memWf → (body t).state.memWf) (h : s.memWf) :
    (afterPin s body).state.memWf := by
  obtain ⟨hp, ha⟩ := s.tryPin_memWf h
  unfold afterPin
  split
  next t e => exact hb t (hp t e)
  next => exact h
  next t e => exact ha t e

theorem pinIf_memWf {c : Bool} {s : State} {body : State → Res} (hb : ∀ t, t.memWf → (body t).state.memWf) (h : s.memWf) :
    (pinIf c s body).state.memWf := by
  unfold pinIf
  split
  · exact afterPin_memWf hb h
  · exact hb s h

@[simp] theorem State.cleanseLines_mem (s : State) (serial : Nat) (as : List Action) :
    (s.cleanseLines serial as).mem = s.mem := by
  simp [State.cleanseLines]

theorem act_memWf {s : State} {as : List Action} {k : State → Res} (hk : ∀ t, t.memWf → (k t).state.memWf) (h : s.memWf) :
    (act s as k).state.memWf := by
  have direct (n ctx : Nat) (t : State) (ht : t.memWf) : (k ((t.performEach n ctx as).cleanseRuns (storeRuns as))).state.memWf :=
    hk _ (by simpa [State.memWf] using t.performEach_memWf n ctx as ht)
  unfold act
  simp only []
  split
  · split
    · exact hk _ (by simpa [State.memWf] using h)
    · exact hk s h
  · refine afterPin_memWf (fun t ht => ?_) h
    split
    · exact afterCompare_memWf (fun u hu => direct _ _ _ (by simpa [State.memWf] using hu)) ht
    · exact direct _ _ t ht

@[simp] theorem State.noteReads_mem (s : State) (lines : List Nat) : (s.noteReads lines).mem = s.mem := by
  unfold State.noteReads
  split <;> simp

/-! ## Machine/Errors.lean -/

@[simp] theorem State.raiseCheck_mem (s : State) (key : Nat) : (s.raiseCheck key).mem = s.mem := by
  simp [State.raiseCheck]

@[simp] theorem State.badRead_mem (s : State) (va key : Nat) : (s.badRead va key).state.mem = s.mem := by
  unfold State.badRead
  (repeat' split) <;> simp

theorem consume_memWf {rs : List Seen} {s : State} {body : State → Res} (hb : ∀ t, t.memWf → (body t).state.memWf)
    (h : s.memWf) : (consume rs s body).state.memWf := by
  unfold consume
  split
  · exact hb s h
  · simpa [State.memWf] using h

/-! ## Machine/Access.lean -/

@[simp] theorem State.pageFault_mem (s : State) (cause level va : Nat) (write tag : Bool) :
    (s.pageFault cause level va write tag).mem = s.mem := by
  simp [State.pageFault]

@[simp] theorem State.mergeOrdered_memWf (s : State) (p : Pfx) (global : Bool) (h : s.memWf) :
    (s.mergeOrdered p global).memWf := by
  simp [State.mergeOrdered, State.mergeTile_memWf, h, State.memWf]

@[simp] theorem State.reach_memWf (s : State) (p : Pfx) (ps : List Piece) (h : s.memWf) : (s.reach p ps).memWf :=
  State.mergeOrdered_memWf _ p _ (State.mergeRanges_memWf _ _ (by simpa [State.memWf] using h))

@[simp] theorem State.reachHeld_memWf (s : State) (p : Pfx) (ps : List Piece) (h : s.memWf) : (s.reachHeld p ps).memWf :=
  State.mergeOrdered_memWf _ p _ (by simpa [State.memWf] using h)

theorem atLook_memWf {l : Look} {write tag : Bool} {s : State} {enter : List Piece → State} {body : Spot → State → Res}
    (he : ∀ ps, (enter ps).memWf) (hb : ∀ sp t, t.memWf → (body sp t).state.memWf) (h : s.memWf) :
    (atLook l write tag s enter body).state.memWf := by
  cases l with
  | bad e ta => exact h
  | page c lv va => simpa [atLook, State.memWf] using h
  | ok sp => exact hb sp _ (he _)

theorem atSpot_memWf {p : Pfx} {l : Look} {write tag : Bool} {s : State} {body : Spot → State → Res}
    (hb : ∀ sp t, t.memWf → (body sp t).state.memWf) (h : s.memWf) : (atSpot p l write tag s body).state.memWf :=
  atLook_memWf (fun ps => s.reach_memWf p ps h) hb h

/-! ## Machine/Access.lean -/

theorem readAt_memWf {sp : Spot} {n : Nat} {s : State} {body : List Byte → State → Res}
    (hb : ∀ bs t, t.memWf → (body bs t).state.memWf) (h : s.memWf) : (readAt sp n s body).state.memWf :=
  consume_memWf (fun t ht => hb _ _ (by simpa [State.memWf] using ht)) h

@[simp] theorem State.writeLocalCap_memWf (s : State) (key : Nat) (x : Cap) (h : s.memWf) :
    (s.writeLocalCap key x).memWf := by
  simp [State.writeLocalCap, State.memWf, h]

theorem writeAt_memWf {sp : Spot} {bs : List Byte} {tag : Bool} {s : State} {body : State → Res}
    (hb : ∀ t, t.memWf → (body t).state.memWf) (h : s.memWf) : (writeAt sp bs tag s body).state.memWf := by
  unfold writeAt
  split
  · exact act_memWf hb h
  · split
    · split
      · exact hb _ (s.writeLocalCap_memWf _ _ h)
      · exact hb _ (s.writeBytes_memWf _ _ _ h)
    · exact hb s h

theorem State.waitPosted_mem (s t : State) (st : Word) (h : s.waitPosted = .over t st) : t.mem = s.mem := by
  simp only [State.waitPosted] at h
  by_cases hn : (s.posted.filter (fun q => q.ownedBy s.selfId)).isEmpty = true
  · rw [if_pos hn] at h
    cases h
    rfl
  · rw [if_neg hn] at h
    split at h
    · cases h
      rfl
    · cases h

theorem afterPosted_memWf {s : State} {body : State → Res} (hb : ∀ t, t.memWf → (body t).state.memWf) (h : s.memWf) :
    (afterPosted s body).state.memWf := by
  unfold afterPosted
  split
  next => exact h
  next s1 st e =>
    have h1 : s1.memWf := by simpa [State.memWf, s.waitPosted_mem s1 st e] using h
    split
    · exact hb s1 h1
    · exact h1

theorem afterRelease_memWf {p : Pfx} {pins global : Bool} {s : State} {body : State → Res}
    (hb : ∀ t, t.memWf → (body t).state.memWf) (h : s.memWf) : (afterRelease p pins global s body).state.memWf := by
  unfold afterRelease
  split
  · exact hb s h
  · refine pinIf_memWf (fun t ht => ?_) h
    split
    · exact afterPosted_memWf hb ht
    · exact hb t ht

/-! ## Machine/Area.lean -/

@[simp] theorem State.storeImage_memWf (s : State) (base : Nat) (im : Image) (h : s.memWf) :
    (s.storeImage base im).memWf := by
  refine State.foldl_memWf _ _ s (fun t d ht => ?_) h
  have hw := t.writeBytes_memWf deviceKey (base + d.off) d.bytes ht
  simp only []
  split <;> exact hw

@[simp] theorem State.writeSaveArea_memWf (s : State) (n c : Nat) (h : s.memWf) : (s.writeSaveArea n c).memWf :=
  State.storeImage_memWf _ _ _ (State.clearKeys_memWf _ _ _ (s.clearKeys_memWf _ _ h))

@[simp] theorem State.writeAccArea_memWf (s : State) (n c : Nat) (m : Matrix) (h : s.memWf) : (s.writeAccArea n c m).memWf :=
  State.storeImage_memWf _ _ _ (State.clearKeys_memWf _ _ _ (s.clearKeys_memWf _ _ h))

/-! ## Machine/MatrixQ.lean -/

@[simp] theorem State.setMtxOf_mem (s : State) (n ctx : Nat) (m : Matrix) : (s.setMtxOf n ctx m).mem = s.mem := by
  simp [State.setMtxOf]

@[simp] theorem State.accFirst_memWf (s : State) (n ctx : Nat) (h : s.memWf) : (s.accFirst n ctx).memWf := by
  simp [State.accFirst, State.memWf, h]

theorem firstUse_memWf {s : State} {body : State → Res} (hb : ∀ t, t.memWf → (body t).state.memWf) (h : s.memWf) :
    (firstUse s body).state.memWf :=
  hb _ (s.accFirst_memWf _ _ h)

@[simp] theorem State.setMtx_mem (s : State) (m : Matrix) : (s.setMtx m).mem = s.mem := by
  simp [State.setMtx]

theorem afterTable_memWf {uses : Bool} {s : State} {body : State → Res} (hb : ∀ t, t.memWf → (body t).state.memWf)
    (h : s.memWf) : (afterTable uses s body).state.memWf := by
  unfold afterTable
  split
  · exact h
  · exact hb s h

theorem submit_memWf {cs : List MtxCmd} {s : State} {body : State → Res} (hb : ∀ t, t.memWf → (body t).state.memWf)
    (h : s.memWf) : (submit cs s body).state.memWf := by
  unfold submit
  simp only []
  split
  · exact h
  · exact hb _ (by simpa [State.memWf] using h)

@[simp] theorem State.mtxFresh_mem (s : State) (n c i e cnt : Nat) : (s.mtxFresh n c i e cnt).mem = s.mem := by
  simp [State.mtxFresh]

@[simp] theorem State.stagedFresh_mem (s : State) (ws : List (Nat × Byte)) : (s.stagedFresh ws).mem = s.mem := by
  simp [State.stagedFresh]

theorem windowStore_memWf {ta : Nat} {ws : List (Nat × Byte)} {s : State} {body : State → Res}
    (hb : ∀ t, t.memWf → (body t).state.memWf) (h : s.memWf) : (windowStore ta ws s body).state.memWf := by
  refine firstUse_memWf (fun t ht => consume_memWf (fun u hu => ?_) ht) h
  simp only []
  split
  · exact hu
  · exact afterTable_memWf (fun v hv => submit_memWf (fun w hw => hb _ (by simpa [State.memWf] using hw)) hv) hu

/-! ## Machine/Mem.lean -/

theorem putBytes_memWf {ta : Nat} {sp : Spot} {bs : List Byte} {s : State} {body : State → Res}
    (hb : ∀ t, t.memWf → (body t).state.memWf) (h : s.memWf) : (putBytes ta sp bs s body).state.memWf := by
  unfold putBytes
  split
  · exact windowStore_memWf hb h
  · exact writeAt_memWf hb h

@[simp] theorem State.putImage_memWf (s : State) (tile ctx off : Nat) (bs : List Byte) (h : s.memWf) :
    (s.putImage tile ctx off bs).memWf := by
  simp [State.putImage, State.memWf, h]

@[simp] theorem State.putBlock_memWf (s : State) (t : List (BitVec 19)) (mode : Round) (tile ctx off : Nat) (xs : List Num) (h : s.memWf) :
    (s.putBlock t mode tile ctx off xs).memWf := by
  simp [State.putBlock, State.memWf, h]

@[simp] theorem State.putLane_memWf (s : State) (t : List (BitVec 19)) (mode : Round) (tile ctx fmt off : Nat) (b : Lane) (h : s.memWf) :
    (s.putLane t mode tile ctx fmt off b).memWf := by
  simp [State.putLane, State.memWf, h]

theorem readLanes_memWf {sp : Spot} {va fmt : Nat} {scratch : Bool} {n : Nat} {m : Word} {delta : Nat → Nat} {s : State}
    {body : (Nat → Lane) → State → Res} (hb : ∀ f t, t.memWf → (body f t).state.memWf) (h : s.memWf) :
    (readLanes sp va fmt scratch n m delta s body).state.memWf := by
  refine consume_memWf (fun t ht => ?_) h
  split
  · exact hb _ t ht
  · exact hb _ _ (by simpa [State.memWf] using ht)

theorem vectorLoad_memWf {p : Pfx} {d : BitVec 5} {x : Access} {fmt : Nat} {scratch : Bool} {delta : Nat → Nat} {s : State}
    (h : s.memWf) : (vectorLoad p d x fmt scratch delta s).state.memWf :=
  afterTable_memWf (fun _ ht => atSpot_memWf (fun _ _ hu => readLanes_memWf
    (fun _ _ hv => by simpa [State.memWf] using hv) hu) ht) h

theorem putRaw_memWf {ta : Nat} {sp : Spot} {runs : List (Nat × List Byte)} {s : State} {body : State → Res}
    (hb : ∀ t, t.memWf → (body t).state.memWf) (h : s.memWf) : (putRaw ta sp runs s body).state.memWf := by
  unfold putRaw
  split
  · exact windowStore_memWf hb h
  · exact act_memWf hb h
  · split
    next q _ _ =>
      have hw := State.foldl_memWf (fun s r => s.writeBytes s.keyId (q.key + r.1) r.2) runs s
        (fun t r ht => t.writeBytes_memWf _ _ _ ht) h
      exact hb _ (by simpa [State.memWf] using hw)
    · exact hb s h

@[simp] theorem State.putElems_memWf (s : State) (t : List (BitVec 19)) (mode : Round) (tile ctx fmt off : Nat) (m : Word)
    (v : VReg) (delta : Nat → Nat) (blocks : Bool) (h : s.memWf) :
    (s.putElems t mode tile ctx fmt off m v delta blocks).memWf := by
  unfold State.putElems
  simp only [State.memWf, State.cleanseRuns_mem]
  split
  · exact State.foldl_memWf _ _ s (fun u j hu => u.putBlock_memWf _ _ _ _ _ _ hu) h
  · exact State.foldl_memWf _ _ s (fun u i hu => u.putLane_memWf _ _ _ _ _ _ _ hu) h

theorem vectorStore_memWf {p : Pfx} {d : BitVec 5} {x : Access} {fmt : Nat} {scratch : Bool} {delta : Nat → Nat} {blocks : Bool}
    {s : State} (h : s.memWf) : (vectorStore p d x fmt scratch delta blocks s).state.memWf := by
  refine afterTable_memWf (fun t ht => atSpot_memWf (fun sp u hu => afterRelease_memWf (fun v hv => ?_) hu) ht) h
  simp only []
  split
  · exact consume_memWf (fun w hw => w.putElems_memWf _ _ _ _ _ _ _ _ _ _ hw) hv
  · exact putRaw_memWf (fun _ hw => hw) hv

theorem withLanes_memWf {p : Pfx} {m : MemOp} {ix : VReg} {store : Bool} {s : State}
    {body : Nat → Bool → List (Nat × Spot) → Word → State → Res} (hb : ∀ f b l w t, t.memWf → (body f b l w t).state.memWf)
    (h : s.memWf) : (withLanes p m ix store s body).state.memWf := by
  unfold withLanes
  simp only []
  split
  · exact h
  · split
    · simpa [State.memWf] using h
    · split
      · exact h
      · refine afterTable_memWf (fun t ht => ?_) h
        split
        · exact ht
        · simpa [State.memWf] using ht
        · exact ht
        · exact hb _ _ _ _ _ (t.reach_memWf p _ ht)

@[simp] theorem State.reportLanes_mem (s : State) (p : Pfx) (failed : Word) : (s.reportLanes p failed).mem = s.mem := by
  simp [State.reportLanes]

theorem putScatter_memWf {v : VReg} {l : List (Nat × Spot)} {s : State} {body : State → Res}
    (hb : ∀ t, t.memWf → (body t).state.memWf) (h : s.memWf) : (putScatter v l s body).state.memWf := by
  unfold putScatter
  extract_lets stores locals finish
  have hf (t : State) (ht : t.memWf) : (finish t).state.memWf := by
    refine hb _ ?_
    simp only [State.memWf, State.cleanseRuns_mem]
    refine State.foldl_memWf _ _ t (fun u r hu => ?_) ht
    split
    · exact u.writeBytes_memWf _ _ _ hu
    · exact hu
  split
  · exact hf s h
  · exact act_memWf hf h

/-! ## Machine/Caps.lean -/

@[simp] theorem State.paint_mem (s : State) (gs : List Nat) (on : Bool) : (s.paint gs on).mem = s.mem := by
  simp [State.paint]

@[simp] theorem State.openSweep_mem (s : State) (ctx : Nat) : (s.openSweep ctx).1.mem = s.mem := by
  simp only [State.openSweep]
  (repeat' split) <;> simp

/-! ## Machine/Vector.lean -/

@[simp] theorem State.masked_mem (s : State) (p : Pfx) (d : BitVec 5) (f : Nat → Lane) : (s.masked p d f).mem = s.mem := by
  simp [State.masked]

@[simp] theorem loadTable_mem (t : List (BitVec 19)) (s : State) : (loadTable t s).state.mem = s.mem := by
  simp [loadTable]

theorem tableElement_memWf {p : Pfx} {m : MemOp} {k : Nat} {sel : BitVec 5} {s : State} (h : s.memWf) :
    (tableElement p m k sel s).state.memWf := by
  unfold tableElement
  split
  · simpa [State.memWf] using h
  · split
    · simpa [State.memWf] using h
    · refine atSpot_memWf (fun sp t ht => readAt_memWf (fun bs u hu => ?_) ht) h
      simp only []
      split
      · simpa [State.memWf] using hu
      · exact hu

/-! ## Machine/Sync.lean -/

theorem atomically_memWf {p : Pfx} {x : Access} {space : Option (BitVec 16)} {s : State} {body : Spot → State → Res}
    (hb : ∀ sp t, t.memWf → (body sp t).state.memWf) (h : s.memWf) : (atomically p x space s body).state.memWf := by
  unfold atomically
  simp only []
  split
  · exact h
  · refine pinIf_memWf (fun t ht => afterCompare_memWf (fun u hu => atSpot_memWf (fun sp v hv => ?_) hu) ht) h
    split
    · exact hv
    · exact afterRelease_memWf (fun w hw => hb sp w hw) hv

@[simp] theorem State.putUpdate_memWf (s : State) (key fn : Nat) (x : Word) (h : s.memWf) :
    (s.putUpdate key fn x).memWf := by
  simp [State.putUpdate, State.memWf, h]

theorem journalled_memWf {key : Journal} {s : State} {replay : Word → State → Res} {body : State → Res}
    (hr : ∀ w t, t.memWf → (replay w t).state.memWf) (hb : ∀ t, t.memWf → (body t).state.memWf) (h : s.memWf) :
    (journalled key s replay body).state.memWf := by
  unfold journalled
  split
  · exact hb s h
  · split
    · split
      · exact hr _ _ (by simpa [State.memWf] using h)
      · exact hb _ (by simpa [State.memWf] using h)
    · exact hb s h

@[simp] theorem State.record_mem (s : State) (j : Journal) : (s.record j).mem = s.mem := by
  unfold State.record
  split <;> simp

@[simp] theorem State.setBarrier_mem (s : State) (i : Nat) (x : Barrier) : (s.setBarrier i x).mem = s.mem := by
  simp [State.setBarrier]

theorem fenceBody_memWf {p : Pfx} {d : BitVec 5} {classes : Nat} {s : State} (h : s.memWf) :
    (fenceBody p d classes s).state.memWf := by
  refine pinIf_memWf (fun t ht => ?_) h
  split
  · exact ht
  · extract_lets u
    have hu : u.memWf := by simp [u, State.memWf, ht]
    split
    · split
      · exact hu
      next v st e =>
        have hv : v.mem = u.mem := u.waitPosted_mem v st e
        simp only []
        split <;> simpa [State.memWf, hv] using hu
    · simpa [State.memWf] using hu

/-! ## Machine/Matrix.lean -/

@[simp] theorem State.readoutRow_memWf (s : State) (n ctx : Nat) (m : Matrix) (c : MtxCmd) (i : Nat) (h : s.memWf) :
    (s.readoutRow n ctx m c i).memWf := by
  unfold State.readoutRow
  simp only []
  split
  · exact State.foldl_memWf _ _ s (fun u b hu => u.putBlock_memWf _ _ _ _ _ _ hu) h
  · exact s.putImage_memWf _ _ _ _ h

@[simp] theorem State.raiseOn_mem (s : State) (l : LiveFiring) (va : Nat) : (s.raiseOn l va).mem = s.mem := by
  unfold State.raiseOn
  split <;> simp

@[simp] theorem State.engineBad_mem (s : State) (n ctx : Nat) (o : Option FiringId) (va key : Nat) :
    (s.engineBad n ctx o va key).mem = s.mem := by
  unfold State.engineBad
  split <;> simp

@[simp] theorem State.onMatrix_mem (s : State) (n : Nat) (f : Matrix → Matrix) : (s.onMatrix n f).mem = s.mem := by
  simp [State.onMatrix]

@[simp] theorem State.engineReads_mem (s : State) (n ctx : Nat) (c : MtxCmd) (rs : List Seen) (body : State → State)
    (hb : (body s).mem = s.mem) : (s.engineReads n ctx c rs body).mem = s.mem := by
  unfold State.engineReads
  split <;> simp [hb]

theorem State.engineReads_memWf (s : State) (n ctx : Nat) (c : MtxCmd) (rs : List Seen) (body : State → State)
    (hb : (body s).memWf) (h : s.memWf) : (s.engineReads n ctx c rs body).memWf := by
  unfold State.engineReads
  split
  · exact hb
  · simpa [State.memWf] using h

@[simp] theorem State.swapPoison_mem (s : State) (n c : Nat) : (s.swapPoison n c).mem = s.mem := by
  simp [State.swapPoison]

@[simp] theorem State.streamUnit_mem (s : State) (n ctx : Nat) (c : MtxCmd) (last : Nat) :
    (s.streamUnit n ctx c last).mem = s.mem := by
  simp [State.streamUnit]

@[simp] theorem State.landPoison_mem (s : State) (n ctx north : Nat) : (s.landPoison n ctx north).mem = s.mem := by
  simp [State.landPoison]

/-! ## Machine/Firings.lean -/

@[simp] theorem State.deliverUnbound_mem (s : State) (n c tag : Nat) : (s.deliverUnbound n c tag).mem = s.mem := by
  simp [State.deliverUnbound]

theorem State.takeIn_mem (s t : State) (m : Msg) (h : s.takeIn m = some t) : t.mem = s.mem := by
  unfold State.takeIn at h
  simp only [] at h
  split at h
  · cases h
    rfl
  · split at h
    · cases h
    · split at h
      · split at h
        · cases h
          simp
        · cases h
      · split at h
        · cases h
        · cases h
          simp

@[simp] theorem State.rewriteOn_mem (s : State) (n c tag : Nat) (im : EntryImage) :
    (s.rewriteOn n c tag im).mem = s.mem := by
  simp [State.rewriteOn]

@[simp] theorem State.writeEntry_mem (s : State) (c tag : Nat) (im : EntryImage) : (s.writeEntry c tag im).mem = s.mem := by
  unfold State.writeEntry
  split <;> simp

@[simp] theorem State.lockEntry_mem (s : State) (n c tag : Nat) (im : EntryImage) :
    (s.lockEntry n c tag im).mem = s.mem := by
  simp [State.lockEntry]

@[simp] theorem State.rewriteEntry_mem (s : State) (c tag : Nat) (im : EntryImage) :
    (s.rewriteEntry c tag im).mem = s.mem := by
  unfold State.rewriteEntry
  split <;> simp

@[simp] theorem State.enter_mem (s : State) (n : Nat) (f : Firing) : (s.enter n f).mem = s.mem := by
  simp [State.enter]

@[simp] theorem State.newSerial_mem (s : State) (n : Nat) : (s.newSerial n).2.mem = s.mem := by
  simp [State.newSerial]

@[simp] theorem State.makeFrom_mem (s : State) (n c tag : Nat) : (s.makeFrom n c tag).mem = s.mem := by
  simp [State.makeFrom]

@[simp] theorem State.makeRerun_mem (s : State) (n c : Nat) (r : Rerun) : (s.makeRerun n c r).mem = s.mem := by
  simp [State.makeRerun]

@[simp] theorem State.takeUp_mem (s : State) (n c tag : Nat) (urgent rerun : Bool) :
    (s.takeUp n c tag urgent rerun).mem = s.mem := by
  unfold State.takeUp
  (repeat' split) <;> simp

@[simp] theorem State.startTask_mem (s : State) (n : Nat) (k : Task) : (s.startTask n k).mem = s.mem := by
  simp [State.startTask]

@[simp] theorem State.streamEnded_mem (s : State) (f : Firing) : (s.streamEnded f).mem = s.mem := by
  refine State.foldl_mem _ _ s (fun t m => ?_)
  split
  · split <;> rfl
  · rfl

@[simp] theorem State.freeGroups_mem (s : State) : (s.freeGroups).mem = s.mem := by
  simp [State.freeGroups]

@[simp] theorem State.detach_mem (s : State) (n c : Nat) (id : FiringId) : (s.detach n c id).mem = s.mem := by
  simp [State.detach]

@[simp] theorem State.endFiring_mem (s : State) (n c : Nat) (k : SetId) : (s.endFiring n c k).mem = s.mem := by
  simp only [State.endFiring]
  split <;> simp

@[simp] theorem State.saveFiring_mem (s : State) (n c : Nat) (k : SetId) : (s.saveFiring n c k).mem = s.mem := by
  simp [State.saveFiring]

@[simp] theorem State.commitFiring_memWf (s : State) (l : LiveFiring) (h : s.memWf) : (s.commitFiring l).memWf := by
  have hc := s.comparePair_mem l
  unfold State.commitFiring
  split
  next s0 e =>
    have h0 : s0.mem = s.mem := by simpa [e] using hc
    simpa [State.memWf, h0] using h
  next s0 e =>
    have h0 : s0.mem = s.mem := by simpa [e] using hc
    have hb := s0.commitBuffer_memWf l (by simpa [State.memWf, h0] using h)
    split
    next s1 e1 => simpa [e1] using hb
    next s1 e1 => simpa [State.memWf, e1] using hb

/-- What is done in the name of a set leaves in memory what it leaves there. -/
theorem State.onSet_mem (s : State) (n : Nat) (k : SetId) (f : State → State) :
    (s.onSet n k f).mem = (f { s with cur := { tile := n, set := k } }).mem := rfl

theorem State.onSet_memWf (s : State) (n : Nat) (k : SetId) (f : State → State) (hf : ∀ t, t.memWf → (f t).memWf)
    (h : s.memWf) : (s.onSet n k f).memWf :=
  hf _ h

@[simp] theorem State.recordFault_mem (s : State) (l : LiveFiring) (code : BitVec 16) :
    (s.recordFault l code).mem = s.mem := by
  simp [State.recordFault]

@[simp] theorem State.terminateFiring_mem (s : State) (l : LiveFiring) (code : BitVec 16) :
    (s.terminateFiring l code).mem = s.mem := by
  simp only [State.terminateFiring]
  (repeat' split) <;> simp

/-! ## Machine/Tasking.lean -/

theorem asFiring_memWf {s : State} {body : Firing → Res} (hb : ∀ f, (body f).state.memWf) (h : s.memWf) :
    (asFiring s body).state.memWf := by
  unfold asFiring
  split
  · exact hb _
  · simpa [State.memWf] using h

@[simp] theorem State.countOutput_mem (s : State) : (s.countOutput).mem = s.mem := by
  unfold State.countOutput
  split <;> simp

@[simp] theorem State.setPayload_mem (s : State) (l : List Word) : (s.setPayload l).mem = s.mem := by
  simp [State.setPayload]

@[simp] theorem claim_mem (d : BitVec 5) (i : Nat) (s : State) : (claim d i s).state.mem = s.mem := by
  simp only [claim]
  (repeat' split) <;> simp

/-! ## Machine/Copy.lean -/

@[simp] theorem State.pushCopy_mem (s : State) (k : Copy) (i : Nat) : (s.pushCopy k i).mem = s.mem := by
  simp only [State.pushCopy]
  split <;> simp

@[simp] theorem State.setSlot_mem (s : State) (n i : Nat) (o : Option Copy) : (s.setSlot n i o).mem = s.mem := by
  simp [State.setSlot]

@[simp] theorem State.countSync_memWf (s : State) (n : Nat) (k : Copy) (len : Nat) (h : s.memWf) :
    (s.countSync n k len).memWf := by
  simp [State.countSync, State.memWf, h]

@[simp] theorem State.noteEngineReads_mem (s : State) (n : Nat) (k : Copy) (lines : List Nat) :
    (s.noteEngineReads n k lines).mem = s.mem := by
  unfold State.noteEngineReads
  split <;> simp

@[simp] theorem State.noteSource_mem (s : State) (n : Nat) (k : Copy) (va : Nat) (ps : List Piece) :
    (s.noteSource n k va ps).mem = s.mem := by
  simp [State.noteSource]

@[simp] theorem State.engineLeases_mem (s : State) (n : Nat) (k : Copy) (va : Nat) (ps : List Piece) :
    (s.engineLeases n k va ps).mem = s.mem := by
  simp [State.engineLeases]

@[simp] theorem State.engineWrite_memWf (s : State) (n : Nat) (k : Copy) (dst : List Piece) (global : Bool) (bs : List Byte)
    (tags : List (Nat × Cap)) (h : s.memWf) : (s.engineWrite n k dst global bs tags).memWf := by
  have pieces (t : State) (ht : t.memWf) (key : Nat) (keys : List (Nat × Nat)) :
      ((t.mergeRanges keys).writePieces key keys bs).memWf :=
    State.writePieces_memWf _ _ _ _ (t.mergeRanges_memWf _ ht)
  unfold State.engineWrite
  extract_lets dva s1 keys s2
  have h1 : s1.memWf := by
    simp only [s1]
    split
    · simpa [State.memWf] using h
    · exact h
  refine State.foldl_memWf _ _ s2 (fun t q ht => ?_) (pieces s1 h1 _ _)
  split <;> exact ht

@[simp] theorem State.convertUnit_memWf (s : State) (n : Nat) (k : Copy) (len : Nat) (h : s.memWf) :
    (s.convertUnit n k len).memWf := by
  unfold State.convertUnit
  simp only []
  split
  · exact s.putImage_memWf _ _ _ _ h
  · split
    · simp only [State.memWf, State.cleanseRuns_mem]
      exact State.foldl_memWf _ _ s (fun t base ht => t.putBlock_memWf _ _ _ _ _ _ ht) h
    · exact s.putImage_memWf _ _ _ _ h

/-- A unit that an engine moved leaves the form kept. -/
def UnitRes.memWf : UnitRes → Prop
  | .moved t _ => t.memWf
  | _ => True

@[simp] theorem UnitRes.memWf_moved (t : State) (k : Copy) : (UnitRes.moved t k).memWf ↔ t.memWf := Iff.rfl
@[simp] theorem UnitRes.memWf_fault (x : XRes) (va : Nat) (w t : Bool) : (UnitRes.fault x va w t).memWf ↔ True := Iff.rfl
@[simp] theorem UnitRes.memWf_stop (code : BitVec 16) : (UnitRes.stop code).memWf ↔ True := Iff.rfl

theorem State.copyUnit_memWf (s : State) (n : Nat) (k : Copy) (len : Nat) (h : s.memWf) : (s.copyUnit n k len).memWf := by
  unfold State.copyUnit
  simp only []
  split
  · trivial
  · split
    · trivial
    · split
      · trivial
      · split
        · split <;> trivial
        · trivial
        · refine State.countSync_memWf _ _ _ _ ?_
          split
          · exact State.convertUnit_memWf _ _ _ _ (by simp [State.memWf, h])
          · exact State.engineWrite_memWf _ _ _ _ _ _ _ (by simp [State.memWf, h])

@[simp] theorem State.suspend_mem (s : State) (n i : Nat) (k : Copy) (x : XRes) (va : Nat) (write tag : Bool) :
    (s.suspend n i k x va write tag).mem = s.mem := by
  simp [State.suspend]

theorem State.settleUnit_memWf (s : State) (n i : Nat) (k : Copy) (r : UnitRes) (hr : r.memWf) (h : s.memWf) :
    (s.settleUnit n i k r).memWf := by
  cases r with
  | moved t k1 => simpa [State.settleUnit, State.memWf] using hr
  | fault x va w t => simpa [State.settleUnit, State.memWf] using h
  | stop code => simpa [State.settleUnit, State.memWf] using h

@[simp] theorem State.keepAges_mem (s : State) (ctx : Nat) : (s.keepAges ctx).mem = s.mem := by
  simp [State.keepAges]

@[simp] theorem State.passSlot_mem (s : State) (n i : Nat) : (s.passSlot n i).mem = s.mem :=
  State.foldl_mem _ _ s (fun t m => by simp)

@[simp] theorem State.finishCopy_mem (s : State) (n i : Nat) (k : Copy) (code : BitVec 16) :
    (s.finishCopy n i k code).mem = s.mem := by
  simp only [State.finishCopy]
  (repeat' split) <;> simp

@[simp] theorem State.spend_mem (s : State) (c : Nat) : (s.spend c).mem = s.mem := by
  unfold State.spend
  split <;> simp

theorem State.hostChunk_memWf (n i fuel : Nat) (s : State) (h : s.memWf) : (State.hostChunk n i fuel s).memWf := by
  induction fuel generalizing s with
  | zero => exact h
  | succ fuel ih =>
    unfold State.hostChunk
    split
    next k _ =>
      have hu := s.copyUnit_memWf n k k.edgeLen h
      split
      · exact h
      · split
        next s1 k1 e =>
          have h1 : (s1.setSlot n i (some k1)).memWf := by simpa [State.memWf, e] using hu
          simp only []
          split
          · exact h1
          · exact ih _ h1
        · exact s.settleUnit_memWf n i k _ hu h
    · exact h

theorem State.windowOut_memWf (s : State) (n : Nat) (k : Copy) (h : s.memWf) : (s.windowOut n k).memWf := by
  unfold State.windowOut
  simp only []
  split
  · trivial
  · split
    · trivial
    · split
      · exact s.mergeRanges_memWf _ h
      · split
        · exact s.mergeRanges_memWf _ h
        · simp [State.memWf, h]

theorem State.windowIn_memWf (s : State) (n : Nat) (k : Copy) (h : s.memWf) : (s.windowIn n k).memWf := by
  unfold State.windowIn
  simp only []
  split
  · trivial
  · split
    · simpa [State.memWf] using h
    · split <;> simpa [State.memWf] using h

theorem State.windowChunk_memWf (n i fuel : Nat) (s : State) (h : s.memWf) : (State.windowChunk n i fuel s).memWf := by
  induction fuel generalizing s with
  | zero => exact h
  | succ fuel ih =>
    unfold State.windowChunk
    split
    next k _ =>
      have hu := s.windowOut_memWf n k h
      split
      · exact h
      · split
        next s1 k1 e =>
          have h1 : (s1.setSlot n i (some k1)).memWf := by simpa [State.memWf, e] using hu
          simp only []
          split
          · exact h1
          · exact ih _ h1
        · exact s.settleUnit_memWf n i k _ hu h
    · exact h

@[simp] theorem State.postedDone_mem (s : State) (i : Nat) : (s.postedDone i).mem = s.mem := by
  unfold State.postedDone
  split <;> simp

theorem State.chunkOut_memWf (s : State) (n : Nat) (k : Copy) (ch : Nat) (h : s.memWf) : (s.chunkOut n k ch).memWf := by
  unfold State.chunkOut
  simp only []
  split
  · trivial
  · split
    · trivial
    · split
      · trivial
      · split
        · trivial
        · trivial
        · exact State.engineWrite_memWf _ _ _ _ _ _ _ (State.engineWrite_memWf _ _ _ _ _ _ _ (by simp [State.memWf, h]))

theorem State.chunkIn_memWf (s : State) (n : Nat) (k : Copy) (ch : Nat) (h : s.memWf) : (s.chunkIn n k ch).memWf := by
  unfold State.chunkIn
  simp only []
  split
  · trivial
  · split
    · trivial
    · split
      · trivial
      · split
        · trivial
        · split
          · trivial
          · exact State.countSync_memWf _ _ _ _ (State.engineWrite_memWf _ _ _ _ _ _ _ (by simpa [State.memWf] using h))

theorem State.channelChunk_memWf (s : State) (n i : Nat) (k : Copy) (ch : Nat) (toHost : Bool) (h : s.memWf) :
    (s.channelChunk n i k ch toHost).memWf := by
  have hr : (if toHost then s.chunkOut n k ch else s.chunkIn n k ch).memWf := by
    split
    · exact s.chunkOut_memWf n k ch h
    · exact s.chunkIn_memWf n k ch h
  unfold State.channelChunk
  split
  · simpa [State.memWf] using h
  · split
    · simpa [State.memWf] using h
    · exact s.settleUnit_memWf n i k _ hr h

@[simp] theorem State.edgeMove_memWf (s : State) (n i : Nat) (k : Copy) (h : s.memWf) : (s.edgeMove n i k).memWf := by
  unfold State.edgeMove
  split
  · exact s.channelChunk_memWf n i k _ _ h
  · split
    · exact s.settleUnit_memWf n i k _ (s.windowIn_memWf n k h) h
    · split
      · exact State.windowChunk_memWf n i 4096 s h
      · exact State.hostChunk_memWf n i 4096 s h

@[simp] theorem State.afterChunk_mem (s : State) (n i : Nat) (k : Copy) : (s.afterChunk n i k).mem = s.mem := by
  unfold State.afterChunk
  split <;> simp

@[simp] theorem State.resumeCopy_mem (s : State) (n push home v : Nat) : (s.resumeCopy n push home v).mem = s.mem := by
  simp [State.resumeCopy]

@[simp] theorem State.answerPage_mem (s : State) (v va : Nat) : (s.answerPage v va).mem = s.mem := by
  simp [State.answerPage]

@[simp] theorem State.resumeSet_mem (s : State) (n : Nat) (k : SetId) (count v : Nat) :
    (s.resumeSet n k count v).mem = s.mem := by
  unfold State.resumeSet
  split <;> simp [State.onSet_mem]

/-! ## Machine/Solve.lean -/

@[simp] theorem State.setSolve_mem (s : State) (v : Solve) : (s.setSolve v).mem = s.mem := by
  simp [State.setSolve]

@[simp] theorem State.writeTile_memWf (s : State) (a : Nat) (v : List Lane) (h : s.memWf) : (s.writeTile a v).memWf := by
  simp [State.writeTile, State.memWf, h]

@[simp] theorem State.writeArea_memWf (s : State) (as : List Nat) (v : Area) (h : s.memWf) : (s.writeArea as v).memWf :=
  State.foldl_memWf _ _ s (fun t _ ht => t.writeTile_memWf _ _ ht) h

@[simp] theorem State.applyMix_memWf (s : State) (v : Solve) (q : Invocation) (d : Nat) (gammas : List Lane) (h : s.memWf) :
    (s.applyMix v q d gammas).memWf := by
  unfold State.applyMix
  simp only [State.memWf, State.setSolve_mem]
  refine State.writeArea_memWf _ _ _ (State.writeArea_memWf _ _ _ (State.writeArea_memWf _ _ _ ?_))
  split
  · split
    · exact h
    · exact State.writeArea_memWf _ _ _ (s.writeArea_memWf _ _ h)
  · exact h

@[simp] theorem applyVerdict_memWf (v : Solve) (q : Invocation) (verdict d : Nat) (gammas : List Lane) (s : State) (h : s.memWf) :
    (applyVerdict v q verdict d gammas s).state.memWf := by
  simp [applyVerdict, State.memWf, h]

@[simp] theorem State.contribute_mem (s : State) (v : Solve) (x : RoundPart) : (s.contribute v x).mem = s.mem := by
  simp [State.contribute]

/-! ## Machine/System.lean -/

@[simp] theorem State.openPrq_mem (s : State) (n c : Nat) : (s.openPrq n c).mem = s.mem := by
  simp [State.openPrq]

@[simp] theorem State.setSysReg_mem (s : State) (n : Nat) (w : Word) : (s.setSysReg n w).mem = s.mem := by
  unfold State.setSysReg
  split <;> simp

@[simp] theorem State.filterTags_mem (s : State) (c lo n : Nat) : (s.filterTags c lo n).mem = s.mem := by
  simp [State.filterTags]

@[simp] theorem State.filterTvec_mem (s : State) (c : Nat) : (s.filterTvec c).mem = s.mem := by
  unfold State.filterTvec
  split <;> simp

@[simp] theorem State.saveContext_memWf (s : State) (n c : Nat) (h : s.memWf) : (s.saveContext n c).memWf := by
  simp [State.saveContext, State.memWf, h]

@[simp] theorem State.applyReply_mem (s : State) (n : Nat) (k : SetId) : (s.applyReply n k).mem = s.mem := by
  unfold State.applyReply
  split
  · split <;> simp [State.onSet_mem]
  · rfl

@[simp] theorem State.loadContext_mem (s : State) (n c : Nat) : (s.loadContext n c).mem = s.mem := by
  simp [State.loadContext]

theorem State.leave_memWf {s : State} {p : Pfx} {f : State → State} (hf : ∀ t, t.memWf → (f t).memWf) (h : s.memWf) :
    (s.leave p f).state.memWf := by
  unfold State.leave
  split
  · exact hf s h
  · exact hf _ (by simpa [State.memWf] using h)

@[simp] theorem State.setPair_mem (s : State) (n : Nat) (q : Option Nat) (w : Option (Nat × Nat)) :
    (s.setPair n q w).mem = s.mem := by
  simp [State.setPair]

@[simp] theorem State.formPair_mem (s : State) (n q : Nat) : (s.formPair n q).mem = s.mem := by
  simp [State.formPair]

/-! ## Machine/Capsules.lean -/

@[simp] theorem State.register_mem (s : State) (o : Object) (bs : List Built) : (s.register o bs).1.mem = s.mem := by
  unfold State.register
  split
  · split <;> rfl
  · rfl

@[simp] theorem State.install_mem (s : State) (data : List Byte) : (s.install data).1.mem = s.mem := by
  simp only [State.install]
  split <;> simp

theorem installRest_memWf {p : Pfx} {d : BitVec 4} {c : Cap} {x : Header} {head : List Byte} {s : State} (h : s.memWf) :
    (installRest p d c x head s).state.memWf :=
  atSpot_memWf (fun _ _ ht => readAt_memWf (fun _ _ hu => by simpa [State.memWf] using hu) ht) h

theorem installBody_memWf {p : Pfx} {d a : BitVec 4} {s : State} (h : s.memWf) : (installBody p d a s).state.memWf := by
  unfold installBody
  simp only []
  split
  · exact h
  · split
    · exact h
    · split
      · exact h
      · refine atSpot_memWf (fun sp t ht => readAt_memWf (fun head u hu => ?_) ht) h
        split
        · simpa [State.memWf] using hu
        · exact installRest_memWf hu

@[simp] theorem State.unbind_mem (s : State) (b : Binding) : (s.unbind b).mem = s.mem := by
  simp [State.unbind]

@[simp] theorem State.writeSlot_memWf (s : State) (tile ctx off : Nat) (v : Cap) (h : s.memWf) :
    (s.writeSlot tile ctx off v).memWf := by
  simp [State.writeSlot, State.memWf, h]

@[simp] theorem State.placeOn_memWf (s : State) (k : Capsule) (n ctx : Nat) (params : List Cap) (tile : Nat) (h : s.memWf) :
    (s.placeOn k n ctx params tile).memWf :=
  State.foldl_memWf _ _ s (fun t _ ht => t.writeSlot_memWf _ _ _ _ ht) h

@[simp] theorem State.setTvec_mem (s : State) (ctx : Nat) (v : Cap) : (s.setTvec ctx v).mem = s.mem := by
  unfold State.setTvec
  split <;> simp

@[simp] theorem State.bind_memWf (s : State) (k : Capsule) (n ctx base : Nat) (trap : Bool) (params : List Cap) (h : s.memWf) :
    (s.bind k n ctx base trap params).memWf := by
  unfold State.bind
  extract_lets tags meets s1 s2 s3 s4
  have h3 : s3.memWf := by simpa [s3, s2, s1, State.memWf] using h
  exact State.foldl_memWf _ _ s3 (fun t tile ht => t.placeOn_memWf k n ctx params tile ht) h3

@[simp] theorem bindBlock_memWf (k : Capsule) (n b key : Nat) (bs : List Byte) (s : State) (h : s.memWf) :
    (bindBlock k n b key bs s).state.memWf := by
  simp only [bindBlock]
  split <;> simp [State.memWf, h]

theorem bindBody_memWf {p : Pfx} {d a : BitVec 4} {s : State} (h : s.memWf) : (bindBody p d a s).state.memWf := by
  unfold bindBody
  simp only []
  split
  · exact h
  · split
    · exact h
    · split
      · exact h
      · split
        · exact h
        · split
          · exact h
          · split
            · exact h
            · refine atSpot_memWf (fun sp t ht => readAt_memWf (fun bs u hu => ?_) ht) h
              split
              · exact bindBlock_memWf _ _ _ _ _ _ hu
              · exact hu

@[simp] theorem State.rebuild_mem (s : State) (n : Nat) (k : Capsule) : (s.rebuild n k).mem = s.mem := by
  simp [State.rebuild]

@[simp] theorem State.startRebuild_mem (s : State) (n : Nat) (k : Capsule) : (s.startRebuild n k).mem = s.mem := by
  simp [State.startRebuild]

/-! ## Machine/Reclaim.lean -/

@[simp] theorem State.sweepAreas_mem (s : State) (ctx : Nat) : (s.sweepAreas ctx).mem = s.mem :=
  State.foldl_mem _ _ s (fun t n => by simp)

@[simp] theorem State.squall_mem (s : State) (ctx : Nat) : (s.squall ctx).mem = s.mem := by
  simp [State.squall]

@[simp] theorem State.flushLease_memWf (s : State) (l : Lease) (h : s.memWf) : (s.flushLease l).memWf :=
  State.foldl_memWf _ _ s (fun t i ht => t.mergeSome_memWf i _ ht) h

/-! ## Machine/Queues.lean -/

@[simp] theorem State.pass_mem (s : State) (n : Nat) : (s.pass n).mem = s.mem := by
  simp [State.pass]

@[simp] theorem State.acknowledge_mem (s : State) (qs : List (Nat × Nat × Nat)) : (s.acknowledge qs).mem = s.mem := by
  simp [State.acknowledge]

@[simp] theorem State.launchOver_mem (s : State) (queue seq : Nat) : (s.launchOver queue seq).mem = s.mem := by
  simp [State.launchOver]

@[simp] theorem State.writeCompletion_memWf (s : State) (c : Completion) (h : s.memWf) : (s.writeCompletion c).memWf := by
  simp [State.writeCompletion, State.memWf, h]

@[simp] theorem State.drainComps_memWf (s : State) (cs : List Completion) (h : s.memWf) : (s.drainComps cs).memWf := by
  induction cs generalizing s with
  | nil => exact h
  | cons c cs ih =>
    unfold State.drainComps
    simp only []
    split
    · exact ih _ (s.writeCompletion_memWf c h)
    · exact ih _ h

@[simp] theorem State.flushComps_memWf (s : State) (h : s.memWf) : (s.flushComps).memWf := by
  simp [State.flushComps, State.memWf, h]

@[simp] theorem State.finishRecord_memWf (s : State) (queue typ status seq : Nat) (code : BitVec 16) (parts : Nat) (h : s.memWf) :
    (s.finishRecord queue typ status seq code parts).memWf := by
  simp [State.finishRecord, State.memWf, h]

@[simp] theorem State.refuse_memWf (s : State) (queue : Nat) (r : List Byte) (status : Nat) (h : s.memWf) :
    (s.refuse queue r status).memWf := by
  simp [State.refuse, State.memWf, h]

theorem atRecord_memWf {n typ : Nat} {s : State} {body : List Byte → State → State} (hb : ∀ r t, t.memWf → (body r t).memWf)
    (h : s.memWf) : (atRecord n typ s body).memWf := by
  unfold atRecord
  split
  · split
    · exact hb _ _ (by simpa [State.memWf] using h)
    · exact h
  · exact h

@[simp] theorem State.indexWrite_mem (s : State) (n value : Nat) (f : Queue → Nat → Queue) :
    (s.indexWrite n value f).mem = s.mem := by
  simp [State.indexWrite]

@[simp] theorem State.tailWrite_mem (s : State) (queue value : Nat) : (s.tailWrite queue value).mem = s.mem := by
  simp [State.tailWrite]

@[simp] theorem State.cheadWrite_memWf (s : State) (queue value : Nat) (h : s.memWf) : (s.cheadWrite queue value).memWf := by
  simp [State.cheadWrite, State.memWf, h]

@[simp] theorem State.handWindow_memWf (s : State) (w ctx : Nat) (h : WinHand) (hs : s.memWf) :
    (s.handWindow w ctx h).memWf := by
  simp [State.handWindow, State.memWf, hs]

@[simp] theorem State.setHdm_mem (s : State) (i base len dev key : Nat) : (s.setHdm i base len dev key).mem = s.mem := by
  simp [State.setHdm]

@[simp] theorem State.denied_mem (s : State) : (s.denied).mem = s.mem := by
  simp [State.denied]

@[simp] theorem State.regPut_memWf (s : State) (r : DevReg) (w : Word) (l : Priv) (h : s.memWf) :
    (s.regPut r w l).memWf := by
  cases r with
  | win n hand =>
    unfold State.regPut
    simp only []
    split
    · split
      · split
        · exact State.handWindow_memWf _ _ _ _ h
        · exact h
      · exact h
    · exact h
  | edgebud c =>
    unfold State.regPut
    simp only []
    split <;> simp [State.memWf, h]
  | _ => simp [State.regPut, State.memWf, h]

@[simp] theorem State.regWrite_memWf (s : State) (r : DevReg) (w : Word) (priv : Priv) (h : s.memWf) :
    (s.regWrite r w priv).memWf := by
  simp [State.regWrite, State.memWf, h]

@[simp] theorem State.setHeld_memWf (s : State) (info : RegInfo) (va : Nat) (on : Bool) (h : s.memWf) :
    (s.setHeld info va on).memWf := by
  unfold State.setHeld
  split
  · exact Memory.wf_writeBytes _ s.mem _ h
  · exact h

@[simp] theorem State.holdRange_memWf (s : State) (info : RegInfo) (base pages : Nat) (on : Bool) (h : s.memWf) :
    (s.holdRange info base pages on).memWf :=
  State.foldl_memWf _ _ s (fun t _ ht => t.setHeld_memWf _ _ _ ht) h

@[simp] theorem State.dropWait_mem (s : State) (w : Waiting) : (s.dropWait w).mem = s.mem := by
  simp [State.dropWait]

@[simp] theorem State.setAttempt_mem (s : State) (ctx group n : Nat) : (s.setAttempt ctx group n).mem = s.mem := by
  unfold State.setAttempt
  split <;> simp

theorem State.releaseCapsule_mem (s t : State) (n ctx : Nat) (h : s.releaseCapsule n ctx = some t) : t.mem = s.mem := by
  unfold State.releaseCapsule at h
  simp only [] at h
  split at h
  · cases h
  · split at h
    · cases h
      simp
    · cases h

@[simp] theorem State.useAck_mem (s : State) (d : Nat × Nat × Nat) : (s.useAck d).mem = s.mem := by
  simp [State.useAck]

@[simp] theorem State.askFlush_mem (s : State) (d : Nat × Nat × Nat) : (s.askFlush d).mem = s.mem := by
  simp [State.askFlush]

/-! ## Machine/Launches.lean -/

@[simp] theorem State.resetFloor_mem (s : State) (p : Nat) : (s.resetFloor p).mem = s.mem := by
  simp [State.resetFloor]

@[simp] theorem State.renewSeq_mem (s : State) (queue seq : Nat) : (s.renewSeq queue seq).mem = s.mem := by
  simp [State.renewSeq]

@[simp] theorem State.startLaunch_mem (s : State) (l : Launch) : (s.startLaunch l).mem = s.mem := by
  unfold State.startLaunch
  split <;> simp

@[simp] theorem State.startOrHold_mem (s : State) (queue : Nat) (l : Launch) : (s.startOrHold queue l).mem = s.mem := by
  simp [State.startOrHold]

@[simp] theorem State.begin_mem (s : State) (l : Launch) : (s.begin_ l).mem = s.mem := by
  unfold State.begin_
  rw [State.foldl_mem _ _ _ (fun t p => by simp)]
  split <;> simp

@[simp] theorem State.putLaunch_mem (s : State) (slot : Nat) (l : Launch) : (s.putLaunch slot l).mem = s.mem := by
  simp [State.putLaunch]

@[simp] theorem State.sendAt_mem (s : State) (slot : Nat) (l : Launch) (idx pos n : Nat) :
    (s.sendAt slot l idx pos n).1.mem = s.mem := by
  simp [State.sendAt]

theorem State.sendGroup_mem (s t : State) (slot : Nat) (l : Launch) (idx : Nat) (h : s.sendGroup slot l idx = some t) :
    t.mem = s.mem := by
  unfold State.sendGroup at h
  obtain ⟨i, -, rfl⟩ := Option.map_eq_some_iff.mp h
  simp

@[simp] theorem State.sendStep_mem (s : State) (slot : Nat) (l : Launch) (x : Sending) :
    (s.sendStep slot l x).mem = s.mem := by
  cases x with
  | first idx =>
    unfold State.sendStep
    simp only []
    split
    · split
      next s1 e => simpa using s.sendGroup_mem s1 slot l idx e
      · rfl
    · simp
  | _ => simp [State.sendStep]

/-! ## Machine/Fabric.lean -/

@[simp] theorem State.acceptAttempt_mem (s : State) (c : Nat) (u : FabricUnit) : (s.acceptAttempt c u).mem = s.mem := by
  simp [State.acceptAttempt]

@[simp] theorem State.dropUnit_mem (s : State) (u : FabricUnit) : (s.dropUnit u).mem = s.mem := by
  simp [State.dropUnit]

@[simp] theorem State.poisonPieces_mem (s : State) (ps : List Piece) : (s.poisonPieces ps).mem = s.mem := by
  simp [State.poisonPieces]

@[simp] theorem State.onCopy_mem (s : State) (n push : Nat) (f : Copy → Copy) : (s.onCopy n push f).mem = s.mem := by
  simp [State.onCopy]

@[simp] theorem State.unitOver_mem (s : State) (i : Nat) (u : FabricUnit) (k : Copy) : (s.unitOver i u k).mem = s.mem := by
  simp [State.unitOver]

@[simp] theorem State.takeResponse_memWf (s : State) (i : Nat) (u : FabricUnit) (k : Copy) (h : s.memWf) :
    (s.takeResponse i u k).memWf := by
  unfold State.takeResponse
  (repeat' split) <;> simp [State.memWf, h]

@[simp] theorem State.setPort_mem (s : State) (p : Nat) (x : PortState) : (s.setPort p x).mem = s.mem := by
  simp [State.setPort]

@[simp] theorem State.loseUnits_mem (s : State) (p : Nat) : (s.loseUnits p).mem = s.mem := by
  simp [State.loseUnits]

/-! ## Machine/Partitions.lean -/

@[simp] theorem State.clearScratch_memWf (s : State) (p : Nat) (h : s.memWf) : (s.clearScratch p).memWf :=
  Memory.wf_filter _ s.mem h

@[simp] theorem State.askSplit_mem (s : State) (p : Nat) : (s.askSplit p).mem = s.mem := by
  unfold State.askSplit
  split
  · rfl
  · exact State.foldl_mem _ _ s (fun t q => by simp)

@[simp] theorem State.scrubUnits_mem (s : State) (p : Nat) : (s.scrubUnits p).mem = s.mem := by
  unfold State.scrubUnits
  simp only [State.cleanse_mem]
  rw [State.foldl_mem _ _ _ (fun t k => by simp), State.foldl_mem _ _ _ (fun t n => by simp)]

@[simp] theorem State.dropUpdates_mem (s : State) (lo n : Nat) : (s.dropUpdates lo n).mem = s.mem := by
  simp [State.dropUpdates]

@[simp] theorem State.scrubMemory_memWf (s : State) (p : Nat) (h : s.memWf) : (s.scrubMemory p).memWf := by
  unfold State.scrubMemory
  extract_lets s1 s2 s3
  have h1 : s1.memWf := State.clearKeys_memWf _ _ _ (State.clearKeys_memWf _ _ _ (by simpa [State.memWf] using h))
  have h2 : s2.memWf := State.foldl_memWf _ _ s1 (fun t k ht => t.clearKeys_memWf _ _ ht) h1
  exact s2.clearScratch_memWf p h2

@[simp] theorem State.scrubbed_memWf (s : State) (part : Nat) (q : Partition) (free : Bool) (h : s.memWf) :
    (s.scrubbed part q free).memWf := by
  simp [State.scrubbed, State.memWf, h]

@[simp] theorem State.evict_mem (s : State) (c p : Nat) : (s.evict c p).mem = s.mem := by
  unfold State.evict
  rw [State.foldl_mem _ _ _ (fun t k => by simp only []; split <;> simp), State.foldl_mem _ _ _ (fun t n => by simp)]

@[simp] theorem State.paintCapsules_mem (s : State) (c : Nat) : (s.paintCapsules c).mem = s.mem := by
  simp [State.paintCapsules]

@[simp] theorem State.stopLaunches_mem (s : State) (c : Nat) : (s.stopLaunches c).mem = s.mem := by
  simp [State.stopLaunches]

@[simp] theorem State.deregister_mem (s : State) (p c : Nat) : (s.deregister p c).mem = s.mem := by
  unfold State.deregister
  split <;> simp

@[simp] theorem State.releasePart_mem (s : State) (part : Nat) : (s.releasePart part).mem = s.mem := by
  simp [State.releasePart]

@[simp] theorem State.unfuse_mem (s : State) (ps : List Nat) : (s.unfuse ps).mem = s.mem := by
  unfold State.unfuse
  refine State.foldl_mem _ ps s (fun t q => ?_)
  rw [State.setPart_mem, State.foldl_mem]
  intro u n
  rw [State.setTile_mem]

@[simp] theorem State.takeAway_mem (s : State) (n c : Nat) : (s.takeAway n c).mem = s.mem := by
  simp [State.takeAway]

@[simp] theorem State.placeBindings_memWf (s : State) (n c : Nat) (h : s.memWf) : (s.placeBindings n c).memWf := by
  refine State.foldl_memWf _ _ s (fun t b ht => ?_) h
  split
  · exact t.placeOn_memWf _ _ _ _ _ ht
  · exact ht

/-! ## Machine/Services.lean -/

@[simp] theorem State.loseKey_mem (s : State) (slot : Nat) : (s.loseKey slot).mem = s.mem := by
  simp [State.loseKey]

@[simp] theorem State.setKeySlot_mem (s : State) (slot : Nat) (value : Word) : (s.setKeySlot slot value).mem = s.mem := by
  simp [State.setKeySlot]

@[simp] theorem State.setMaterial_mem (s : State) (slot m : Nat) : (s.setMaterial slot m).mem = s.mem := by
  simp [State.setMaterial]

@[simp] theorem State.acceptOn_mem (s : State) (ch : Nat) (cs : List Chunk) : (s.acceptOn ch cs).1.mem = s.mem := by
  unfold State.acceptOn
  split <;> simp

@[simp] theorem State.checkpointNow_mem (s : State) (part ch : Nat) (replicas : List Nat) :
    (s.checkpointNow part ch replicas).mem = s.mem := by
  simp [State.checkpointNow]

@[simp] theorem State.putTagged_memWf (s : State) (key : Nat) (m : Map Nat) (a : Nat) (data bitmap : List Byte) (h : s.memWf) :
    (s.putTagged key m a data bitmap).memWf :=
  State.foldl_memWf _ _ _ (fun t _ ht => t.writeCap_memWf _ _ _ ht) (s.writeBytes_memWf _ _ _ h)

@[simp] theorem State.putCapsule_mem (s : State) (part : Nat) (m : Map Nat) (c : CapsuleImage) :
    (s.putCapsule part m c).1.mem = s.mem := by
  simp only [State.putCapsule]
  split <;> simp

@[simp] theorem State.putCapsules_mem (s : State) (part ch : Nat) (m : Map Nat) (cs : List (List Chunk)) :
    (s.putCapsules part ch m cs).1.mem = s.mem := by
  induction cs generalizing s m with
  | nil => rfl
  | cons c cs ih =>
    have hc := s.acceptOn_mem ch c
    unfold State.putCapsules
    split
    next s1 e => simpa [e] using hc
    next s1 bs e =>
      have h1 : s1.mem = s.mem := by simpa [e] using hc
      simp [ih, h1]

@[simp] theorem State.putArea_memWf (s : State) (part : Nat) (m : Map Nat) (n c : Nat) (bs bitmap : List Byte) (h : s.memWf) :
    (s.putArea part m n c bs bitmap).memWf := by
  unfold State.putArea
  split
  · exact h
  · exact State.writeAccArea_memWf _ _ _ _ (State.writeSaveArea_memWf _ _ _
      (State.putTagged_memWf _ _ _ _ _ _ (by simpa [State.memWf] using h)))

@[simp] theorem State.putAreas_memWf (s : State) (part ch : Nat) (m : Map Nat) (as : List (List Chunk)) (h : s.memWf) :
    (s.putAreas part ch m as).memWf := by
  induction as generalizing s with
  | nil => exact h
  | cons a as ih =>
    have hc := s.acceptOn_mem ch a
    unfold State.putAreas
    split
    next s1 e => simpa [State.memWf, e] using (congrArg Memory.wf hc).trans h
    next s1 bs e =>
      have h1 : s1.memWf := by simpa [State.memWf, e] using (congrArg Memory.wf hc).trans h
      exact ih _ (s1.putArea_memWf _ _ _ _ _ _ h1)

@[simp] theorem State.putBlocks_memWf (s : State) (part : Nat) (r : Restore) (bs : List (Nat × Nat × List Chunk)) (h : s.memWf) :
    (s.putBlocks part r bs).memWf := by
  induction bs generalizing s with
  | nil => exact State.putAreas_memWf _ _ _ _ _ h
  | cons b bs ih =>
    have hc := s.acceptOn_mem r.chan b.2.2
    unfold State.putBlocks
    simp only []
    split
    · exact h
    · split
      · split
        · exact h
        · split
          next s1 e => simpa [State.memWf, e] using (congrArg Memory.wf hc).trans h
          next s1 d e =>
            have h1 : s1.memWf := by simpa [State.memWf, e] using (congrArg Memory.wf hc).trans h
            exact ih _ (s1.putTagged_memWf _ _ _ _ _ h1)
      · exact h

/-! ## Machine/Contrail.lean -/

@[simp] theorem State.refusePatch_mem (s : State) (n code : Nat) : (s.refusePatch n code).mem = s.mem := by
  simp [State.refusePatch]

theorem State.onSetOf_mem (s : State) (n c : Nat) (k : SetId) (f : State → State) (hf : ∀ t, (f t).mem = t.mem) :
    (s.onSetOf n c k f).mem = s.mem := by
  simp [State.onSetOf, State.onSet_mem, hf]

theorem State.onSetOf_memWf (s : State) (n c : Nat) (k : SetId) (f : State → State) (hf : ∀ t, t.memWf → (f t).memWf)
    (h : s.memWf) : (s.onSetOf n c k f).memWf :=
  State.onSet_memWf _ n k f hf (by simpa [State.memWf] using h)

@[simp] theorem State.debugWrite_memWf (s : State) (n c : Nat) (x : Cap) (off : Word) (data : List Byte) (h : s.memWf) :
    (s.debugWrite n c x off data).memWf := by
  simp only [State.debugWrite]
  split <;> simp [State.memWf, h]

@[simp] theorem State.onMtxOf_mem (s : State) (n c : Nat) (f : Matrix → Matrix) : (s.onMtxOf n c f).mem = s.mem := by
  simp [State.onMtxOf]

@[simp] theorem State.debugPc_mem (s : State) (off : Nat) : (s.debugPc off).mem = s.mem := by
  simp [State.debugPc]

@[simp] theorem State.debugEpcc_mem (s : State) (off : Nat) : (s.debugEpcc off).mem = s.mem := by
  simp [State.debugEpcc]

@[simp] theorem State.debugLoops_mem (s : State) (saved : Bool) (q : List (Nat × Nat × Nat × Word)) :
    (s.debugLoops saved q).mem = s.mem := by
  simp [State.debugLoops]

@[simp] theorem State.debugSys_mem (s : State) (i : Nat) (v : Word) : (s.debugSys i v).mem = s.mem := by
  unfold State.debugSys
  split <;> simp

@[simp] theorem State.debugQueue_mem (s : State) (n c : Nat) (l : List (Nat × Nat × Nat × Nat)) :
    (s.debugQueue n c l).mem = s.mem := by
  simp [State.debugQueue]

@[simp] theorem State.debugSet_memWf (s : State) (n c : Nat) (k : SetId) (x : DebugAccess) (h : s.memWf) :
    (s.debugSet n c k x).memWf := by
  cases x with
  | writeMem r off data => exact s.debugWrite_memWf _ _ _ _ _ h
  | _ => simpa [State.debugSet, State.onSetOf_mem, State.memWf] using h

@[simp] theorem State.debugImage_memWf (s : State) (n c serial : Nat) (acc : DebugAccess) (h : s.memWf) :
    (s.debugImage n c serial acc).memWf := by
  simp only [State.debugImage]
  split <;> simp [State.memWf, h]

@[simp] theorem State.authorised_mem (s : State) (ctx : Nat) (auth : Chunk) : (s.authorised ctx auth).1.mem = s.mem := by
  unfold State.authorised
  split <;> simp

/-! ## Machine/Slices.lean -/

@[simp] theorem State.returnResult_mem (s : State) (n : Nat) (k : SetId) (table : Bool) :
    (s.returnResult n k table).mem = s.mem := by
  rw [State.returnResult, State.onSet_mem]
  split
  · split <;> simp
  · rfl

@[simp] theorem State.startSlice_mem (s : State) (n c : Nat) : (s.startSlice n c).mem = s.mem := by
  simp [State.startSlice]

@[simp] theorem State.turnSlice_memWf (s : State) (n : Nat) (h : s.memWf) : (s.turnSlice n).memWf := by
  unfold State.turnSlice
  (repeat' split) <;> simp [State.memWf, h]

/-! ## Machine/Bringup.lean -/

@[simp] theorem State.recordAt_mem (s : State) (cls syn key : Nat) : (s.recordAt cls syn key).mem = s.mem := by
  simp [State.recordAt]

@[simp] theorem State.onRegs_mem (s : State) (n : Nat) (k : SetId) (g : RegSet → RegSet) : (s.onRegs n k g).mem = s.mem := by
  simp only [State.onRegs]
  split <;> simp

@[simp] theorem State.spoil_mem (s : State) (key : Nat) : (s.spoil key).mem = s.mem := by
  unfold State.spoil
  split <;> simp

@[simp] theorem State.cold_memWf (s : State) (h : s.memWf) : s.cold.memWf :=
  Memory.wf_filter _ s.mem h

@[simp] theorem State.atStage_mem (s : State) (k : Nat) : (s.atStage k).mem = s.mem := by
  simp [State.atStage]

@[simp] theorem State.failed_mem (s : State) (k : Nat) : (s.failed k).mem = s.mem := by
  simp [State.failed]

@[simp] theorem State.measure_mem (s : State) (i : Nat) (d : BitVec 256) : (s.measure i d).mem = s.mem := by
  simp [State.measure]

@[simp] theorem State.bring1_mem (s : State) : (s.bring1).1.mem = s.mem := by
  simp only [State.bring1]
  split <;> simp

@[simp] theorem State.bring2_mem (s : State) : (s.bring2).mem = s.mem := by
  simp [State.bring2]

@[simp] theorem State.bring3_mem (s : State) : (s.bring3).mem = s.mem := by
  simp [State.bring3]

@[simp] theorem State.bring4_mem (s : State) : (s.bring4).mem = s.mem := by
  simp [State.bring4]

@[simp] theorem State.bring5_memWf (s : State) (h : s.memWf) : s.bring5.memWf :=
  Memory.wf_filter _ s.mem h

@[simp] theorem State.bring6_mem (s : State) : (s.bring6).1.mem = s.mem := by
  simp only [State.bring6]
  split <;> simp

@[simp] theorem State.bringWork_memWf (s : State) (k : Nat) (h : s.memWf) : (s.bringWork k).1.memWf := by
  unfold State.bringWork
  split <;> simp [State.memWf, h]

@[simp] theorem State.bringStep_memWf (s : State) (h : s.memWf) : (s.bringStep).memWf := by
  simp [State.bringStep, State.memWf, h]

/-! ## Machine/HostMem.lean -/

@[simp] theorem State.bar0Write_memWf (s : State) (off : Nat) (w : Word) (h : s.memWf) : (s.bar0Write off w).memWf := by
  unfold State.bar0Write
  split <;> simp [State.memWf, h]

@[simp] theorem State.bar2Write_memWf (s : State) (off : Nat) (w : Word) (h : s.memWf) : (s.bar2Write off w).memWf := by
  simp [State.bar2Write, State.memWf, h]

theorem wordWrites_memWf {write : State → Nat → Word → State} {off : Nat} {bs : List Byte} {s : State}
    (hw : ∀ t a w, t.memWf → (write t a w).memWf) (h : s.memWf) : (wordWrites write off bs s).memWf := by
  unfold wordWrites
  split
  · exact State.foldl_memWf _ _ s (fun t i ht => hw t _ _ ht) h
  · exact h

@[simp] theorem State.hostStore_memWf (s : State) (a : Nat) (bs : List Byte) (h : s.memWf) : (s.hostStore a bs).memWf := by
  refine State.foldl_memWf _ _ s (fun t p ht => ?_) h
  split
  · exact t.writeBytes_memWf _ _ _ ht
  · exact ht

/-! ## Machine/Fetch.lean -/

@[simp] theorem State.advance_mem (s : State) : (s.advance).mem = s.mem := by
  simp [State.advance]

/-! ## Machine/Pairs.lean -/

@[simp] theorem State.feedPair_mem (s : State) (n q : Nat) (bs : List Byte) : (s.feedPair n q bs).mem = s.mem := by
  simp [State.feedPair]

@[simp] theorem State.retire_mem (t u : State) (i : Instr) : (t.retire u i).mem = u.mem := by
  unfold State.retire
  simp only []
  split
  · split <;> simp
  · rfl

@[simp] theorem State.readoutPrint_mem (t u : State) (n : Nat) : (t.readoutPrint u n).mem = u.mem := by
  unfold State.readoutPrint
  split
  · split <;> simp
  · rfl

/-! ## Machine/Sched.lean -/

@[simp] theorem State.badChain_mem (s : State) (i : Instr) (k j : Nat) : (s.badChain i k j).mem = s.mem := by
  have hb := s.badRead_mem noAddr (keyReg s.cur.tile (setCode s.cur.set) j)
  unfold State.badChain
  simp only []
  split
  next t code ta e => simpa [e] using hb
  next t e => simpa [e] using hb
  · rfl

/-- What comes next leaves memory as it is: a chain or an event is still to be performed. -/
def Next.sameMem (s : State) : Next → Prop
  | .exec _ t | .event _ t | .quiet t => t.mem = s.mem
  | .bad => True

theorem State.issue_sameMem (s : State) : s.issue.sameMem s := by
  unfold State.issue
  split
  · split <;> simp [Next.sameMem]
  · simp [Next.sameMem]
  · simp [Next.sameMem]
  · trivial

theorem State.next_sameMem (s : State) : s.next.sameMem s := by
  unfold State.next
  split
  · exact s.issue_sameMem
  · simp only []
    split <;> rfl

/-! ## Machine/Scalar.lean -/

theorem execCmp_memWf {p : Pfx} {d a : BitVec 5} {s : State} (h : s.memWf) : NextMemWf (execCmp p d a s) := by
  refine runRep_memWf (fun _ _ _ h => ?_) h
  simp [State.memWf, h]

theorem execCmpi_memWf {p : Pfx} {d i : BitVec 5} {s : State} (h : s.memWf) : NextMemWf (execCmpi p d i s) := by
  refine runRep_memWf (fun _ _ _ h => ?_) h
  simp [State.memWf, h]

theorem execSetc_memWf {p : Pfx} {d : BitVec 5} {c : Cond} {s : State} (h : s.memWf) : NextMemWf (execSetc p d c s) := by
  refine runRep_memWf (fun _ _ _ h => ?_) h
  simp [State.memWf, h]

theorem execB_memWf {p : Pfx} {off : BitVec 10} {s : State} (h : s.memWf) : NextMemWf (execB p off s) := by
  refine run_memWf (fun h => ?_) h
  simp [State.memWf, h]

theorem execBeq_memWf {p : Pfx} {off : BitVec 10} {s : State} (h : s.memWf) : NextMemWf (execBeq p off s) := by
  refine run_memWf (fun h => ?_) h
  simp [State.memWf, h]

theorem execBne_memWf {p : Pfx} {off : BitVec 10} {s : State} (h : s.memWf) : NextMemWf (execBne p off s) := by
  refine run_memWf (fun h => ?_) h
  simp [State.memWf, h]

theorem execBlt_memWf {p : Pfx} {off : BitVec 10} {s : State} (h : s.memWf) : NextMemWf (execBlt p off s) := by
  refine run_memWf (fun h => ?_) h
  simp [State.memWf, h]

theorem execBge_memWf {p : Pfx} {off : BitVec 10} {s : State} (h : s.memWf) : NextMemWf (execBge p off s) := by
  refine run_memWf (fun h => ?_) h
  simp [State.memWf, h]

theorem execCall_memWf {p : Pfx} {d a : BitVec 4} {s : State} (h : s.memWf) : NextMemWf (execCall p d a s) := by
  refine run_memWf (fun h => ?_) h
  simp [State.memWf, h]

theorem execJmp_memWf {p : Pfx} {a : BitVec 4} {s : State} (h : s.memWf) : NextMemWf (execJmp p a s) := by
  refine run_memWf (fun h => ?_) h
  simp [State.memWf, h]

theorem execLoop_memWf {p : Pfx} {d i : BitVec 5} {s : State} (h : s.memWf) : NextMemWf (execLoop p d i s) := by
  refine run_memWf (fun h => ?_) h
  simp only []
  (repeat' split) <;> simp [State.memWf, h]

/-! ## Machine/Mem.lean -/

theorem loadScalar_memWf {p : Pfx} {d : BitVec 5} {m : MemOp} {n : Nat} {s : State} {f : Nat → Word} (h : s.memWf) :
    NextMemWf (loadScalar p d m n s f) :=
  runRep_memWf (fun _ _ _ h => atSpot_memWf (fun _ _ ht => readAt_memWf
    (fun _ _ hu => by simpa [State.memWf] using hu) ht) h) h

theorem storeScalar_memWf {p : Pfx} {d : BitVec 5} {m : MemOp} {n : Nat} {use : Use} {s : State} (h : s.memWf) :
    NextMemWf (storeScalar p d m n use s) :=
  runRep_memWf (fun _ _ _ h => atSpot_memWf (fun _ _ ht => afterRelease_memWf
    (fun _ hu => putBytes_memWf (fun _ hv => hv) hu) ht) h) h

theorem execKLd_memWf {p : Pfx} {d : BitVec 3} {m : MemOp} {s : State} (h : s.memWf) : NextMemWf (execKLd p d m s) :=
  run_memWf (fun h => atSpot_memWf (fun _ _ ht => readAt_memWf (fun _ _ hu => by simpa [State.memWf] using hu) ht) h) h

theorem execKSt_memWf {p : Pfx} {d : BitVec 3} {m : MemOp} {s : State} (h : s.memWf) : NextMemWf (execKSt p d m s) :=
  run_memWf (fun h => atSpot_memWf (fun _ _ ht => afterRelease_memWf (fun _ hu => putBytes_memWf (fun _ hv => hv) hu) ht) h) h

theorem execPf_memWf {p : Pfx} {_d : BitVec 5} {_m : MemOp} {s : State} (h : s.memWf) : NextMemWf (execPf p _d _m s) := by
  refine run_memWf (fun h => ?_) h
  simp [State.memWf, h]

theorem execWsQ_memWf {p : Pfx} {d : BitVec 5} {m : MemOp} {s : State} (h : s.memWf) : NextMemWf (execWsQ p d m s) :=
  runRep_memWf (fun _ _ _ h => atSpot_memWf (fun _ _ ht => by simpa [State.memWf] using ht) h) h

theorem execVLd_memWf {p : Pfx} {d : BitVec 5} {m : MemOp} {s : State} (h : s.memWf) : NextMemWf (execVLd p d m s) :=
  runRep_memWf (fun _ _ _ h => vectorLoad_memWf h) h

theorem execVLdb_memWf {p : Pfx} {d : BitVec 5} {m : MemOp} {s : State} (h : s.memWf) : NextMemWf (execVLdb p d m s) :=
  runRep_memWf (fun _ _ _ h => vectorLoad_memWf h) h

theorem execVSt_memWf {p : Pfx} {d : BitVec 5} {m : MemOp} {s : State} (h : s.memWf) : NextMemWf (execVSt p d m s) :=
  runRep_memWf (fun _ _ _ h => vectorStore_memWf h) h

theorem execVLds_memWf {p : Pfx} {d : BitVec 5} {m : MemOp} {s : State} (h : s.memWf) : NextMemWf (execVLds p d m s) :=
  runRep_memWf (fun _ _ _ h => vectorLoad_memWf h) h

theorem execVSts_memWf {p : Pfx} {d : BitVec 5} {m : MemOp} {s : State} (h : s.memWf) : NextMemWf (execVSts p d m s) :=
  runRep_memWf (fun _ _ _ h => vectorStore_memWf h) h

theorem execVGth_memWf {p : Pfx} {d : BitVec 5} {m : MemOp} {s : State} (h : s.memWf) : NextMemWf (execVGth p d m s) :=
  runRep_memWf (fun _ _ _ h => withLanes_memWf (fun _ _ _ _ _ ht => consume_memWf
    (fun _ hu => by simpa [State.memWf] using hu) ht) h) h

theorem execVSct_memWf {p : Pfx} {d : BitVec 5} {m : MemOp} {s : State} (h : s.memWf) : NextMemWf (execVSct p d m s) :=
  runRep_memWf (fun _ _ _ h => withLanes_memWf (fun fmt scratch l failed t ht => afterRelease_memWf (fun u hu => by
    split
    · refine consume_memWf (fun v hv => ?_) hu
      simp only [Res.state_done, State.memWf, State.reportLanes_mem, State.cleanseRuns_mem]
      exact State.foldl_memWf _ _ v (fun w r hw => w.putLane_memWf _ _ _ _ _ _ _ hw) hv
    · exact putScatter_memWf (fun _ hv => by simpa [State.memWf] using hv) hu) ht) h) h

theorem execCLd_memWf {p : Pfx} {d : BitVec 4} {m : MemOp} {s : State} (h : s.memWf) : NextMemWf (execCLd p d m s) :=
  run_memWf (fun h => atSpot_memWf (fun _ _ ht => readAt_memWf (fun _ _ hu => by simpa [State.memWf] using hu) ht) h) h

theorem execCSt_memWf {p : Pfx} {d : BitVec 4} {m : MemOp} {s : State} (h : s.memWf) : NextMemWf (execCSt p d m s) :=
  run_memWf (fun h => atSpot_memWf (fun _ _ ht => afterRelease_memWf (fun _ hu => writeAt_memWf (fun _ hv => hv) hu) ht) h) h

/-! ## Machine/Caps.lean -/

theorem deriveCap_memWf {p : Pfx} {d : BitVec 4} {s : State} {f : Cap → Cap} (h : s.memWf) :
    NextMemWf (deriveCap p d s f) :=
  run_memWf (fun h => by simpa [State.memWf] using h) h

theorem execCMv_memWf {p : Pfx} {d a : BitVec 4} {s : State} (h : s.memWf) : NextMemWf (execCMv p d a s) := by
  refine run_memWf (fun h => ?_) h
  simp [State.memWf, h]

theorem execCClrtag_memWf {p : Pfx} {d a : BitVec 4} {s : State} (h : s.memWf) : NextMemWf (execCClrtag p d a s) := by
  refine run_memWf (fun h => ?_) h
  simp [State.memWf, h]

theorem execCFit_memWf {p : Pfx} {d a : BitVec 5} {s : State} (h : s.memWf) : NextMemWf (execCFit p d a s) := by
  refine run_memWf (fun h => ?_) h
  simp [State.memWf, h]

theorem boundsCap_memWf {p : Pfx} {d : BitVec 4} {a : BitVec 5} {e : Bool} {s : State} (h : s.memWf) :
    NextMemWf (boundsCap p d a e s) :=
  run_memWf (fun h => by
    simp only []
    split <;> simpa [State.memWf] using h) h

theorem execCSeal_memWf {p : Pfx} {d a : BitVec 4} {s : State} (h : s.memWf) : NextMemWf (execCSeal p d a s) := by
  refine run_memWf (fun h => ?_) h
  simp only []
  (repeat' split) <;> simp [State.memWf, h]

theorem execCUnseal_memWf {p : Pfx} {d a : BitVec 4} {s : State} (h : s.memWf) : NextMemWf (execCUnseal p d a s) := by
  refine run_memWf (fun h => ?_) h
  simp only []
  (repeat' split) <;> simp [State.memWf, h]

theorem execCInv_memWf {p : Pfx} {d a : BitVec 4} {s : State} (h : s.memWf) : NextMemWf (execCInv p d a s) := by
  refine run_memWf (fun h => ?_) h
  simp only []
  (repeat' split) <;> simp [State.memWf, h]

theorem readField_memWf {p : Pfx} {d : BitVec 5} {a : BitVec 4} {s : State} {f : Cap → Nat} (h : s.memWf) :
    NextMemWf (readField p d a s f) :=
  run_memWf (fun h => by simpa [State.memWf] using h) h

theorem execCPaint_memWf {p : Pfx} {d : BitVec 4} {a : BitVec 5} {s : State} (h : s.memWf) :
    NextMemWf (execCPaint p d a s) := by
  refine run_memWf (fun h => atPriv_memWf (fun h => ?_) h) h
  simp only []
  (repeat' split) <;> simp [State.memWf, h]

theorem execCSweep_memWf {p : Pfx} {d a : BitVec 5} {s : State} (h : s.memWf) : NextMemWf (execCSweep p d a s) := by
  refine run_memWf (fun h => atPriv_memWf (fun h => ?_) h) h
  simp [State.memWf, h]

theorem execCSweepq_memWf {p : Pfx} {d a : BitVec 5} {s : State} (h : s.memWf) : NextMemWf (execCSweepq p d a s) := by
  refine run_memWf (fun h => atPriv_memWf (fun h => ?_) h) h
  simp [State.memWf, h]

/-! ## Machine/Vector.lean -/

theorem vecBin_memWf {p : Pfx} {d a : BitVec 5} {s : State} {f : Lane → Lane → Lane} (h : s.memWf) :
    NextMemWf (vecBin p d a s f) :=
  runRep_memWf (fun _ _ _ h => by simpa [State.memWf] using h) h

theorem vecUn_memWf {p : Pfx} {d a : BitVec 5} {s : State} {f : Lane → Lane} (h : s.memWf) :
    NextMemWf (vecUn p d a s f) :=
  vecBin_memWf h

theorem vecCmp_memWf {p : Pfx} {d a : BitVec 5} {s : State} {f : Lane → Lane → Bool} (h : s.memWf) :
    NextMemWf (vecCmp p d a s f) :=
  runRep_memWf (fun _ _ _ h => by simpa [State.memWf] using h) h

theorem vecFused_memWf {p : Pfx} {d a : BitVec 5} {sub : Bool} {s : State} (h : s.memWf) :
    NextMemWf (vecFused p d a sub s) :=
  runRep_memWf (fun _ _ _ h => by simpa [State.memWf] using h) h

theorem maskOp_memWf {p : Pfx} {d a : BitVec 3} {s : State} {f : Word → Word → Word} (h : s.memWf) :
    NextMemWf (maskOp p d a s f) :=
  runRep_memWf (fun _ _ _ h => by simpa [State.memWf] using h) h

theorem execVBcs_memWf {p : Pfx} {d a : BitVec 5} {s : State} (h : s.memWf) : NextMemWf (execVBcs p d a s) := by
  refine runRep_memWf (fun _ _ _ h => ?_) h
  simp [State.memWf, h]

theorem execVLi_memWf {p : Pfx} {d i : BitVec 5} {s : State} (h : s.memWf) : NextMemWf (execVLi p d i s) := by
  refine runRep_memWf (fun _ _ _ h => ?_) h
  simp [State.memWf, h]

theorem execVPerm_memWf {p : Pfx} {d a : BitVec 5} {s : State} (h : s.memWf) : NextMemWf (execVPerm p d a s) := by
  refine runRep_memWf (fun _ _ _ h => ?_) h
  simp [State.memWf, h]

theorem execVBcl_memWf {p : Pfx} {d i : BitVec 5} {s : State} (h : s.memWf) : NextMemWf (execVBcl p d i s) := by
  refine runRep_memWf (fun _ _ _ h => ?_) h
  simp [State.memWf, h]

theorem execVRot_memWf {p : Pfx} {d i : BitVec 5} {s : State} (h : s.memWf) : NextMemWf (execVRot p d i s) := by
  refine runRep_memWf (fun _ _ _ h => ?_) h
  simp [State.memWf, h]

theorem execVCmpr_memWf {p : Pfx} {d a : BitVec 5} {s : State} (h : s.memWf) : NextMemWf (execVCmpr p d a s) := by
  refine runRep_memWf (fun _ _ _ h => ?_) h
  simp [State.memWf, h]

theorem reduceLanes_memWf {p : Pfx} {d a : BitVec 5} {s : State} {op : Lane → Lane → Lane} {empty : Lane} (h : s.memWf) :
    NextMemWf (reduceLanes p d a s op empty) :=
  runRep_memWf (fun _ _ _ h => by simpa [State.memWf] using h) h

theorem execVIrsum_memWf {p : Pfx} {d a : BitVec 5} {s : State} (h : s.memWf) : NextMemWf (execVIrsum p d a s) := by
  refine runRep_memWf (fun _ _ _ h => ?_) h
  simp [State.memWf, h]

theorem execVExt_memWf {p : Pfx} {d a : BitVec 5} {s : State} (h : s.memWf) : NextMemWf (execVExt p d a s) := by
  refine runRep_memWf (fun _ _ _ h => ?_) h
  simp [State.memWf, h]

theorem execVIns_memWf {p : Pfx} {d a : BitVec 5} {s : State} (h : s.memWf) : NextMemWf (execVIns p d a s) := by
  refine runRep_memWf (fun _ _ _ h => ?_) h
  simp [State.memWf, h]

theorem execKPop_memWf {p : Pfx} {d : BitVec 5} {a : BitVec 3} {s : State} (h : s.memWf) : NextMemWf (execKPop p d a s) := by
  refine runRep_memWf (fun _ _ _ h => ?_) h
  simp [State.memWf, h]

theorem execKFirst_memWf {p : Pfx} {d : BitVec 5} {a : BitVec 3} {s : State} (h : s.memWf) :
    NextMemWf (execKFirst p d a s) := by
  refine runRep_memWf (fun _ _ _ h => ?_) h
  simp [State.memWf, h]

theorem execVT8dec_memWf {p : Pfx} {d a : BitVec 5} {s : State} (h : s.memWf) : NextMemWf (execVT8dec p d a s) :=
  runRep_memWf (fun _ _ _ h => afterTable_memWf (fun _ ht => by simpa [State.memWf] using ht) h) h

theorem execVT8enc_memWf {p : Pfx} {d a : BitVec 5} {s : State} (h : s.memWf) : NextMemWf (execVT8enc p d a s) :=
  runRep_memWf (fun _ _ _ h => afterTable_memWf (fun _ ht => by simpa [State.memWf] using ht) h) h

theorem execT8Ld_memWf {p : Pfx} {m : MemOp} {s : State} (h : s.memWf) : NextMemWf (execT8Ld p m s) :=
  runRep_memWf (fun _ _ _ h => tableElement_memWf h) h

theorem execT8LdE4_memWf {p : Pfx} {s : State} (h : s.memWf) : NextMemWf (execT8LdE4 p s) :=
  runRep_memWf (fun _ _ _ h => tableElement_memWf h) h

theorem execT8LdE5_memWf {p : Pfx} {s : State} (h : s.memWf) : NextMemWf (execT8LdE5 p s) :=
  runRep_memWf (fun _ _ _ h => tableElement_memWf h) h

/-! ## Machine/Sync.lean -/

theorem atomicOp_memWf {p : Pfx} {d : BitVec 5} {m : MemOp} {s : State} {f : Word → Option Word} (h : s.memWf) :
    NextMemWf (atomicOp p d m s f) :=
  run_memWf (fun h => atomically_memWf (fun _ _ ht => readAt_memWf (fun _ u hu => by
    simp only []
    split
    · exact writeAt_memWf (fun _ hv => by simpa [State.memWf] using hv) hu
    · simpa [State.memWf] using hu) ht) h) h

theorem execAmFadd_memWf {p : Pfx} {d : BitVec 5} {m : MemOp} {s : State} (h : s.memWf) : NextMemWf (execAmFadd p d m s) :=
  run_memWf (fun h => atomically_memWf (fun _ _ ht => readAt_memWf (fun _ _ hu => writeAt_memWf
    (fun _ hv => by simpa [State.memWf] using hv) hu) ht) h) h

theorem updateOp_memWf {p : Pfx} {d : BitVec 5} {m : MemOp} {fn : Nat} {s : State} (h : s.memWf) :
    NextMemWf (updateOp p d m fn s) :=
  run_memWf (fun h => atPriv_memWf (fun h => atLook_memWf (fun ps => s.reachHeld_memWf p ps h) (fun sp t ht => by
    split
    · exact ht
    · split
      · exact ht
      · exact afterRelease_memWf (fun u hu => by simp [State.memWf, hu]) ht) h) h) h

theorem execUpdateMerge_memWf {tile line : Nat} {s : State} (h : s.memWf) : NextMemWf (execUpdateMerge tile line s) := by
  simp [execUpdateMerge, State.memWf, h]

theorem syncWord_memWf {p : Pfx} {m : MemOp} {use : Use} {s : State} {body : Spot → State → Res}
    (hb : ∀ sp t, t.memWf → (body sp t).state.memWf) (h : s.memWf) : NextMemWf (syncWord p m use s body) :=
  run_memWf (fun h => atSpot_memWf hb h) h

theorem execSwInit_memWf {p : Pfx} {d : BitVec 5} {m : MemOp} {s : State} (h : s.memWf) : NextMemWf (execSwInit p d m s) :=
  syncWord_memWf (fun sp t ht => by
    split
    · exact ht
    · exact State.writeBytes_memWf _ _ _ _ (t.writeBytes_memWf _ _ _ ht)) h

theorem execSwWait_memWf {p : Pfx} {d : BitVec 5} {m : MemOp} {s : State} (h : s.memWf) : NextMemWf (execSwWait p d m s) :=
  syncWord_memWf (fun _ _ ht => readAt_memWf (fun _ _ hu => by split <;> exact hu) ht) h

theorem execSwGen_memWf {p : Pfx} {d : BitVec 5} {m : MemOp} {s : State} (h : s.memWf) : NextMemWf (execSwGen p d m s) :=
  syncWord_memWf (fun _ _ ht => readAt_memWf (fun _ _ hu => by simpa [State.memWf] using hu) ht) h

theorem atBarrier_memWf {p : Pfx} {i : BitVec 5} {s : State} {body : Nat → Barrier → State → Res}
    (hb : ∀ n x t, t.memWf → (body n x t).state.memWf) (h : s.memWf) : NextMemWf (atBarrier p i s body) :=
  run_memWf (fun h => by
    split
    · exact h
    · exact consume_memWf (fun t ht => hb _ _ t ht) h) h

theorem execBarCfg_memWf {p : Pfx} {d i : BitVec 5} {s : State} (h : s.memWf) : NextMemWf (execBarCfg p d i s) :=
  atBarrier_memWf (fun _ _ t ht => by simp [State.memWf, ht]) h

theorem execBarArv_memWf {p : Pfx} {d i : BitVec 5} {s : State} (h : s.memWf) : NextMemWf (execBarArv p d i s) :=
  atBarrier_memWf (fun n x t ht => by
    simp only []
    split
    · exact ht
    · exact journalled_memWf (fun _ _ hu => by simpa [State.memWf] using hu)
        (fun u hu => by split <;> simp [State.memWf, hu]) ht) h

theorem execBarWt_memWf {p : Pfx} {d i : BitVec 5} {s : State} (h : s.memWf) : NextMemWf (execBarWt p d i s) :=
  atBarrier_memWf (fun _ _ _ ht => by split <;> exact ht) h

theorem execMbPut_memWf {p : Pfx} {d a : BitVec 5} {s : State} (h : s.memWf) : NextMemWf (execMbPut p d a s) :=
  run_memWf (fun h => by
    simp only []
    split
    · exact h
    · split
      · exact h
      · exact journalled_memWf (fun _ _ ht => ht) (fun _ ht => afterRelease_memWf (fun u hu => by simp [State.memWf, hu]) ht) h) h

theorem execMbGet_memWf {p : Pfx} {d a : BitVec 5} {s : State} (h : s.memWf) : NextMemWf (execMbGet p d a s) :=
  run_memWf (fun h => journalled_memWf (fun _ _ ht => by simpa [State.memWf] using ht) (fun t ht => by
    simp only []
    split
    · exact ht
    · simp [State.memWf, ht]) h) h

theorem execMbTest_memWf {p : Pfx} {d : BitVec 5} {s : State} (h : s.memWf) : NextMemWf (execMbTest p d s) := by
  refine run_memWf (fun h => ?_) h
  simp [State.memWf, h]

theorem execFence_memWf {p : Pfx} {d i : BitVec 5} {s : State} (h : s.memWf) : NextMemWf (execFence p d i s) :=
  run_memWf (fun h => fenceBody_memWf h) h

/-! ## Machine/Matrix.lean -/

theorem matrixOp_memWf {p : Pfx} {d : BitVec 5} {m : MemOp} {opc : Nat} {perms : List Nat} {s : State} (h : s.memWf) :
    NextMemWf (matrixOp p d m opc perms s) :=
  run_memWf (fun h => firstUse_memWf (fun t ht => by
    simp only []
    split
    · exact ht
    · exact afterTable_memWf (fun _ hu => submit_memWf (fun _ hv => hv) hu) ht) h) h

theorem matrixPlain_memWf {p : Pfx} {opc : Nat} {s : State} (h : s.memWf) : NextMemWf (matrixPlain p opc s) :=
  run_memWf (fun h => firstUse_memWf (fun _ ht => submit_memWf (fun _ hu => hu) ht) h) h

theorem execMCmd_memWf {p : Pfx} {d : BitVec 5} {m : MemOp} {s : State} (h : s.memWf) : NextMemWf (execMCmd p d m s) :=
  run_memWf (fun h => firstUse_memWf (fun t ht => by
    simp only []
    split
    · exact ht
    · refine consume_memWf (fun u hu => ?_) ht
      split
      · exact hu
      · exact afterTable_memWf (fun _ hv => submit_memWf (fun _ hw => hw) hv) hu) h) h

theorem execMDrain_memWf {p : Pfx} {s : State} (h : s.memWf) : NextMemWf (execMDrain p s) :=
  run_memWf (fun h => firstUse_memWf (fun _ ht => by split <;> exact ht) h) h

theorem execMQ_memWf {p : Pfx} {d : BitVec 5} {s : State} (h : s.memWf) : NextMemWf (execMQ p d s) :=
  run_memWf (fun h => firstUse_memWf (fun _ ht => by simpa [State.memWf] using ht) h) h

theorem unitOp_memWf {n opc : Nat} {s : State} {body : Nat → MtxCmd → Matrix → State → State}
    (hb : ∀ ctx c m, (body ctx c m s).memWf) (h : s.memWf) : NextMemWf (unitOp n opc s body) := by
  unfold unitOp
  split
  · rw [nextMemWf_next]
    split
    · exact hb _ _ _
    · exact h
  · exact h

theorem execLds_memWf {n : Nat} {s : State} (h : s.memWf) : NextMemWf (execLds n s) :=
  unitOp_memWf (fun _ _ _ => by split <;> simp [State.memWf, h]) h

theorem execSwap_memWf {n : Nat} {s : State} (h : s.memWf) : NextMemWf (execSwap n s) :=
  unitOp_memWf (fun _ _ _ => by simp [State.memWf, h]) h

theorem execZero_memWf {n : Nat} {s : State} (h : s.memWf) : NextMemWf (execZero n s) :=
  unitOp_memWf (fun _ _ _ => by simp [State.memWf, h]) h

theorem execStr_memWf {n : Nat} {s : State} (h : s.memWf) : NextMemWf (execStr n s) :=
  unitOp_memWf (fun _ _ _ => by simp [State.memWf, h]) h

theorem execRd_memWf {n : Nat} {s : State} (h : s.memWf) : NextMemWf (execRd n s) :=
  unitOp_memWf (fun ctx c m => s.engineReads_memWf n ctx c _ _ (by simp [State.memWf, h]) h) h

theorem execRdz_memWf {n : Nat} {s : State} (h : s.memWf) : NextMemWf (execRdz n s) :=
  unitOp_memWf (fun ctx c m => s.engineReads_memWf n ctx c _ _ (by simp [State.memWf, h]) h) h

theorem execMrot_memWf {n : Nat} {s : State} (h : s.memWf) : NextMemWf (execMrot n s) :=
  unitOp_memWf (fun ctx c m => by
    split
    · simpa [State.memWf] using h
    · split
      · exact s.engineReads_memWf n ctx c _ _ (by simpa [State.memWf] using h) h
      · exact h) h

theorem execMrotArrival_memWf {n : Nat} {s : State} (h : s.memWf) : NextMemWf (execMrotArrival n s) :=
  unitOp_memWf (fun ctx c m => by
    split
    · split
      · exact h
      next a q _ =>
        refine s.engineReads_memWf n ctx c _ _ ?_ h
        simp only [State.memWf, State.onMatrix_mem, State.mtxFresh_mem]
        exact State.foldl_memWf _ _ s (fun t i ht => t.putImage_memWf _ _ _ _ ht) h
    · exact h) h

/-! ## Machine/Firings.lean -/

theorem execMessageArrival_memWf {idx : Nat} {s : State} (h : s.memWf) : NextMemWf (execMessageArrival idx s) := by
  unfold execMessageArrival
  split
  · exact h
  next m _ =>
    split
    · exact h
    · extract_lets s0 s1 t waits
      have h1 : s1.mem = s.mem := by
        simp only [s1]
        split <;> rfl
      have hw : waits.memWf := by simpa [waits, State.memWf, h1] using h
      split
      · exact hw
      · split
        next s2 e =>
          have ht := s1.takeIn_mem s2 m e
          simpa [State.memWf, ht, h1] using h
        · exact hw

theorem execQueueAdmit_memWf {n idx : Nat} {s : State} (h : s.memWf) : NextMemWf (execQueueAdmit n idx s) := by
  unfold execQueueAdmit
  simp only []
  split
  · exact h
  next m _ =>
    split
    · exact h
    · split
      next s1 e =>
        have ht := State.takeIn_mem _ s1 m e
        simpa [State.memWf, ht] using h
      · exact h

theorem execUnboundDelivery_memWf {tile ctx tag : Nat} {s : State} (h : s.memWf) :
    NextMemWf (execUnboundDelivery tile ctx tag s) := by
  simp [execUnboundDelivery, State.memWf, h]

theorem execEntryRewrite_memWf {ctx tag : Nat} {image : EntryImage} {s : State} (h : s.memWf) :
    NextMemWf (execEntryRewrite ctx tag image s) := by
  simp [execEntryRewrite, State.memWf, h]

theorem execRewriteOn_memWf {tile ctx tag : Nat} {s : State} (h : s.memWf) : NextMemWf (execRewriteOn tile ctx tag s) := by
  unfold execRewriteOn
  split <;> simp [State.memWf, h]

theorem execMakeFiring_memWf {tile ctx tag : Nat} {s : State} (h : s.memWf) : NextMemWf (execMakeFiring tile ctx tag s) := by
  simp [execMakeFiring, State.memWf, h]

theorem execRerun_memWf {tile serial : Nat} {s : State} (h : s.memWf) : NextMemWf (execRerun tile serial s) := by
  unfold execRerun
  (repeat' split) <;> simp [State.memWf, h]

theorem execTaskTake_memWf {tile : Nat} {s : State} (h : s.memWf) : NextMemWf (execTaskTake tile s) := by
  unfold execTaskTake
  simp only []
  (repeat' split) <;> simp [State.memWf, h]

theorem execTaskSteal_memWf {tile : Nat} {s : State} (h : s.memWf) : NextMemWf (execTaskSteal tile s) := by
  unfold execTaskSteal
  (repeat' split) <;> simp [State.memWf, h]

theorem execAbort_memWf {tile serial : Nat} {s : State} (h : s.memWf) : NextMemWf (execAbort tile serial s) := by
  unfold execAbort
  split <;> simp [State.memWf, h]

theorem execHorizonUpdate_memWf {part : Nat} {s : State} (h : s.memWf) : NextMemWf (execHorizonUpdate part s) := by
  simp [execHorizonUpdate, State.memWf, h]

theorem execPin_memWf {n : Nat} {k : SetId} {s : State} (h : s.memWf) : NextMemWf (execPin n k s) :=
  s.onSet_memWf n k _ (fun t ht => by
    obtain ⟨hp, ha⟩ := t.tryPin_memWf ht
    split
    next e => exact hp _ e
    · exact ht
    next e => exact ha _ e) h

theorem execCommit_memWf {tile serial : Nat} {s : State} (h : s.memWf) : NextMemWf (execCommit tile serial s) := by
  unfold execCommit
  (repeat' split) <;> simp [State.memWf, h]

theorem execTerminate_memWf {tile : Nat} {set : SetId} {s : State} (h : s.memWf) : NextMemWf (execTerminate tile set s) := by
  unfold execTerminate
  (repeat' split) <;> simp [State.memWf, h]

/-! ## Machine/Tasking.lean -/

theorem execEndF_memWf {p : Pfx} {s : State} (h : s.memWf) : NextMemWf (execEndF p s) :=
  run_memWf (fun h => asFiring_memWf (fun _ => by simpa [State.memWf] using h) h) h

theorem execYield_memWf {p : Pfx} {s : State} (h : s.memWf) : NextMemWf (execYield p s) :=
  run_memWf (fun h => asFiring_memWf (fun _ => by split <;> simp [State.memWf, h]) h) h

theorem sendOp_memWf {p : Pfx} {d a : BitVec 5} {urg : Bool} {s : State} (h : s.memWf) : NextMemWf (sendOp p d a urg s) :=
  run_memWf (fun h => asFiring_memWf (fun f => by
    simp only []
    split
    · exact h
    · split
      · exact h
      · exact pinIf_memWf (fun _ ht => act_memWf (fun _ hu => by simpa [State.memWf] using hu) ht) h) h) h

theorem execTsAdd_memWf {p : Pfx} {d i : BitVec 5} {s : State} (h : s.memWf) : NextMemWf (execTsAdd p d i s) :=
  run_memWf (fun h => asFiring_memWf (fun _ => by simp only []; split <;> simp [State.memWf, h]) h) h

theorem recordOp_memWf {p : Pfx} {a : BitVec 5} {s : State} {r : Firing → Nat → Action} (h : s.memWf) :
    NextMemWf (recordOp p a s r) :=
  run_memWf (fun h => asFiring_memWf (fun _ => act_memWf (fun _ ht => ht) h) h) h

theorem execHTag_memWf {p : Pfx} {d a : BitVec 5} {s : State} (h : s.memWf) : NextMemWf (execHTag p d a s) := by
  refine run_memWf (fun h => ?_) h
  simp [State.memWf, h]

theorem execInPop_memWf {p : Pfx} {d a : BitVec 5} {s : State} (h : s.memWf) : NextMemWf (execInPop p d a s) :=
  run_memWf (fun h => asFiring_memWf (fun f => by
    simp only []
    split
    · exact h
    · split
      · exact consume_memWf (fun _ _ => by simpa [State.memWf] using h) h
      · simpa [State.memWf] using h
      · exact consume_memWf (fun _ _ => by simpa [State.memWf] using h) h) h) h

theorem execInCnt_memWf {p : Pfx} {d a : BitVec 5} {s : State} (h : s.memWf) : NextMemWf (execInCnt p d a s) := by
  refine run_memWf (fun h => ?_) h
  simp [State.memWf, h]

theorem execFork_memWf {p : Pfx} {d a : BitVec 5} {s : State} (h : s.memWf) : NextMemWf (execFork p d a s) :=
  run_memWf (fun h => asFiring_memWf (fun f => by
    simp only []
    (repeat' split) <;> simp [State.memWf, h]) h) h

theorem execJcInit_memWf {p : Pfx} {d a : BitVec 5} {s : State} (h : s.memWf) : NextMemWf (execJcInit p d a s) :=
  run_memWf (fun h => asFiring_memWf (fun f => by
    simp only []
    split
    · exact h
    · exact act_memWf (fun _ ht => ht) h) h) h

theorem execJoin_memWf {p : Pfx} {a : BitVec 5} {s : State} (h : s.memWf) : NextMemWf (execJoin p a s) :=
  run_memWf (fun h => asFiring_memWf (fun f => by
    simp only []
    split
    · exact h
    · refine consume_memWf (fun t ht => ?_) h
      split
      · exact act_memWf (fun _ hu => hu) ht
      · exact ht) h) h

theorem execChunk_memWf {p : Pfx} {d a : BitVec 5} {s : State} (h : s.memWf) : NextMemWf (execChunk p d a s) :=
  run_memWf (fun h => asFiring_memWf (fun f => by
    simp only []
    split
    · exact h
    · refine consume_memWf (fun t ht => ?_) h
      split
      · split
        · simpa [State.memWf] using ht
        · exact pinIf_memWf (fun u hu => by simpa [State.memWf] using hu) ht
      · exact ht) h) h

theorem execWidFld_memWf {p : Pfx} {d i : BitVec 5} {s : State} (h : s.memWf) : NextMemWf (execWidFld p d i s) :=
  run_memWf (fun h => asFiring_memWf (fun _ => by simpa [State.memWf] using h) h) h

/-! ## Machine/Copy.lean -/

theorem copyOp_memWf {p : Pfx} {d a : BitVec 4} {s : State} {busy : State → Res} {pushed : State → State}
    (hb : ∀ t, t.memWf → (busy t).state.memWf) (hp : ∀ t, t.memWf → (pushed t).memWf) (h : s.memWf) :
    NextMemWf (copyOp p d a s busy pushed) :=
  run_memWf (fun h => pinIf_memWf (fun t ht => by
    simp only []
    split
    · exact ht
    · split
      · exact hb t ht
      · exact afterTable_memWf (fun _ hu => afterCompare_memWf
          (fun _ hv => hp _ (by simpa [State.memWf] using hv)) hu) ht) h) h

theorem execCp_memWf {p : Pfx} {d a : BitVec 4} {s : State} (h : s.memWf) : NextMemWf (execCp p d a s) :=
  copyOp_memWf (fun _ ht => ht) (fun _ ht => ht) h

theorem execCpTry_memWf {p : Pfx} {d a : BitVec 4} {s : State} (h : s.memWf) : NextMemWf (execCpTry p d a s) :=
  copyOp_memWf (fun _ ht => by simpa [State.memWf] using ht) (fun _ ht => by simpa [State.memWf] using ht) h

theorem execTkQ_memWf {p : Pfx} {d a : BitVec 5} {s : State} (h : s.memWf) : NextMemWf (execTkQ p d a s) := by
  refine run_memWf (fun h => ?_) h
  simp [State.memWf, h]

theorem execCpRsm_memWf {p : Pfx} {d a : BitVec 5} {s : State} (h : s.memWf) : NextMemWf (execCpRsm p d a s) := by
  refine run_memWf (fun h => atPriv_memWf (fun h => ?_) h) h
  simp [State.memWf, h]

theorem execCopyStart_memWf {tile cpSlot : Nat} {s : State} (h : s.memWf) : NextMemWf (execCopyStart tile cpSlot s) := by
  unfold execCopyStart
  (repeat' split) <;> simp [State.memWf, h]

theorem execCopyWriteUnit_memWf {n i : Nat} {s : State} (h : s.memWf) : NextMemWf (execCopyWriteUnit n i s) := by
  unfold execCopyWriteUnit
  split
  · exact h
  next k _ =>
    split
    · have hp : (s.passSlot n i).memWf := by simpa [State.memWf] using h
      exact State.settleUnit_memWf _ _ _ _ _ (State.copyUnit_memWf _ _ _ _ hp) hp
    · exact h

theorem execCopyComplete_memWf {tile cpSlot : Nat} {s : State} (h : s.memWf) :
    NextMemWf (execCopyComplete tile cpSlot s) := by
  unfold execCopyComplete
  split <;> simp [State.memWf, h]

theorem execCopyStop_memWf {tile cpSlot code : Nat} {s : State} (h : s.memWf) :
    NextMemWf (execCopyStop tile cpSlot code s) := by
  unfold execCopyStop
  split <;> simp [State.memWf, h]

theorem execCompletionMessage_memWf {idx : Nat} {s : State} (h : s.memWf) : NextMemWf (execCompletionMessage idx s) := by
  unfold execCompletionMessage
  split
  · split
    · exact execMessageArrival_memWf h
    · exact h
  · exact h

theorem execBudgetRefill_memWf {ctx : Nat} {s : State} (h : s.memWf) : NextMemWf (execBudgetRefill ctx s) := by
  unfold execBudgetRefill
  split <;> simp [State.memWf, h]

theorem execPostedDone_memWf {i : Nat} {s : State} (h : s.memWf) : NextMemWf (execPostedDone i s) := by
  simp [execPostedDone, State.memWf, h]

theorem execEdgeChunk_memWf {tile cpSlot : Nat} {s : State} (h : s.memWf) : NextMemWf (execEdgeChunk tile cpSlot s) := by
  unfold execEdgeChunk
  split <;> simp [State.memWf, h]

theorem execResumePacket_memWf {idx : Nat} {s : State} (h : s.memWf) : NextMemWf (execResumePacket idx s) := by
  unfold execResumePacket
  simp only []
  (repeat' split) <;> simp [State.memWf, h]

/-! ## Machine/Solve.lean -/

theorem execSlvBegin_memWf {p : Pfx} {d a : BitVec 4} {s : State} (h : s.memWf) : NextMemWf (execSlvBegin p d a s) :=
  run_memWf (fun h => pinIf_memWf (fun t ht => by
    simp only []
    split
    · exact ht
    · simpa [State.memWf] using ht) h) h

theorem execSlvEnd_memWf {p : Pfx} {s : State} (h : s.memWf) : NextMemWf (execSlvEnd p s) :=
  run_memWf (fun h => by
    have hd : s.drain.memWf := by simpa [State.memWf] using h
    simp only []
    split
    · exact hd
    · split
      · exact hd
      · split
        · exact hd
        · split
          · exact hd
          · refine consume_memWf (fun t ht => ?_) hd
            split
            · exact applyVerdict_memWf _ _ _ _ _ _ ht
            · split
              · exact applyVerdict_memWf _ _ _ _ _ _ ht
              · simpa [State.memWf] using ht) h

theorem execClusterRound_memWf {n c : Nat} {s : State} (h : s.memWf) : NextMemWf (execClusterRound n c s) := by
  unfold execClusterRound
  simp only []
  split
  · exact h
  · split
    · exact h
    · rw [nextMemWf_next, State.memWf, State.foldl_mem _ _ _ (fun t q => by simp)]
      simpa using h

theorem execSlvHclr_memWf {p : Pfx} {s : State} (h : s.memWf) : NextMemWf (execSlvHclr p s) := by
  refine run_memWf (fun h => ?_) h
  simp [State.memWf, h]

theorem execSlvQ_memWf {p : Pfx} {d a : BitVec 5} {s : State} (h : s.memWf) : NextMemWf (execSlvQ p d a s) := by
  refine run_memWf (fun h => ?_) h
  simp [State.memWf, h]

/-! ## Machine/System.lean -/

theorem execRsr_memWf {p : Pfx} {d i : BitVec 5} {s : State} (h : s.memWf) : NextMemWf (execRsr p d i s) := by
  refine run_memWf (fun h => ?_) h
  simp [State.memWf, h]

theorem execWsr_memWf {p : Pfx} {d i : BitVec 5} {s : State} (h : s.memWf) : NextMemWf (execWsr p d i s) := by
  refine run_memWf (fun h => ?_) h
  simp [State.memWf, h]

theorem service_memWf {p : Pfx} {s : State} {body : State → Res} (hb : ∀ t, t.memWf → (body t).state.memWf) (h : s.memWf) :
    NextMemWf (service p s body) :=
  run_memWf (fun h => afterCompare_memWf hb (by simpa [State.memWf] using h)) h

theorem execKcallSliceEnd_memWf {p : Pfx} {i : BitVec 5} {s : State} (h : s.memWf) : NextMemWf (execKcallSliceEnd p i s) :=
  service_memWf (fun _ ht => by simpa [State.memWf] using ht) h

theorem execKcallBudget_memWf {p : Pfx} {i : BitVec 5} {s : State} (h : s.memWf) : NextMemWf (execKcallBudget p i s) :=
  service_memWf (fun _ ht => by simpa [State.memWf] using ht) h

theorem execKcallStops_memWf {p : Pfx} {i : BitVec 5} {s : State} (h : s.memWf) : NextMemWf (execKcallStops p i s) :=
  service_memWf (fun _ ht => by simpa [State.memWf] using ht) h

theorem execKcallUnbound_memWf {p : Pfx} {i : BitVec 5} {s : State} (h : s.memWf) : NextMemWf (execKcallUnbound p i s) :=
  service_memWf (fun _ ht => by simpa [State.memWf] using ht) h

theorem execKcallRevoke_memWf {p : Pfx} {i : BitVec 5} {s : State} (h : s.memWf) : NextMemWf (execKcallRevoke p i s) :=
  service_memWf (fun t ht => by
    simp only []
    split
    · exact ht
    · split
      · exact ht
      · simpa [State.memWf] using ht) h

theorem execKcallSweepQuery_memWf {p : Pfx} {i : BitVec 5} {s : State} (h : s.memWf) :
    NextMemWf (execKcallSweepQuery p i s) :=
  service_memWf (fun _ ht => by simpa [State.memWf] using ht) h

theorem execKcallOther_memWf {p : Pfx} {i : BitVec 5} {s : State} (h : s.memWf) : NextMemWf (execKcallOther p i s) :=
  service_memWf (fun _ ht => by simpa [State.memWf] using ht) h

theorem execTret_memWf {p : Pfx} {s : State} (h : s.memWf) : NextMemWf (execTret p s) := by
  refine run_memWf (fun h => ?_) h
  simp [State.memWf, h]

theorem execTretSkip_memWf {p : Pfx} {s : State} (h : s.memWf) : NextMemWf (execTretSkip p s) := by
  refine run_memWf (fun h => ?_) h
  simp [State.memWf, h]

theorem execBrk_memWf {p : Pfx} {i : BitVec 5} {s : State} (h : s.memWf) : NextMemWf (execBrk p i s) := by
  refine run_memWf (fun h => ?_) h
  simp [State.memWf, h]

theorem execCtxSv_memWf {p : Pfx} {a : BitVec 4} {s : State} (h : s.memWf) : NextMemWf (execCtxSv p a s) :=
  run_memWf (fun h => atPriv_memWf (fun h => by
    simp only []
    split
    · exact h
    · exact h
    · split
      · exact h
      · split
        · exact h
        · exact State.leave_memWf (fun t ht => t.saveContext_memWf _ _ ht) h) h) h

theorem execCtxLd_memWf {p : Pfx} {d : BitVec 4} {a : BitVec 5} {s : State} (h : s.memWf) : NextMemWf (execCtxLd p d a s) :=
  run_memWf (fun h => atPriv_memWf (fun h => by
    simp only []
    split
    · exact h
    · split
      · exact h
      · split
        · exact h
        · exact State.leave_memWf (fun t ht => by simpa [State.memWf] using ht) h) h) h

theorem accAccess_memWf {p : Pfx} {a : BitVec 4} {perm : Nat} {s : State} {body : Nat → Nat → State → State}
    (hb : ∀ n x, s.memWf → (body n x s).memWf) (h : s.memWf) : NextMemWf (accAccess p a perm s body) :=
  run_memWf (fun h => atPriv_memWf (fun h => by
    simp only []
    split
    · exact h
    · exact h
    · split
      · exact h
      · exact hb _ _ h) h) h

theorem execAccSv_memWf {p : Pfx} {a : BitVec 4} {s : State} (h : s.memWf) : NextMemWf (execAccSv p a s) :=
  accAccess_memWf (fun n x h => State.writeAccArea_memWf _ _ _ _ (by
    simp only [State.memWf, State.setTctxOf_mem]
    split
    · simpa using h
    · exact h)) h

theorem execAccLd_memWf {p : Pfx} {a : BitVec 4} {s : State} (h : s.memWf) : NextMemWf (execAccLd p a s) :=
  accAccess_memWf (fun _ _ h => by simpa [State.memWf] using h) h

theorem execPairOn_memWf {p : Pfx} {d a : BitVec 5} {s : State} (h : s.memWf) : NextMemWf (execPairOn p d a s) := by
  refine run_memWf (fun h => atPriv_memWf (fun h => ?_) h) h
  simp only []
  (repeat' split) <;> simp [State.memWf, h]

theorem execPairOff_memWf {p : Pfx} {d : BitVec 5} {s : State} (h : s.memWf) : NextMemWf (execPairOff p d s) := by
  refine run_memWf (fun h => atPriv_memWf (fun h => ?_) h) h
  simp [State.memWf, h]

theorem execIdle_memWf {p : Pfx} {s : State} (h : s.memWf) : NextMemWf (execIdle p s) := by
  refine run_memWf (fun h => atPriv_memWf (fun h => ?_) h) h
  simp [State.memWf, h]

/-! ## Machine/Capsules.lean -/

theorem execCslInst_memWf {p : Pfx} {d a : BitVec 4} {s : State} (h : s.memWf) : NextMemWf (execCslInst p d a s) :=
  run_memWf (fun h => afterPin_memWf (fun _ ht => installBody_memWf ht) h) h

theorem execCslBind_memWf {p : Pfx} {d a : BitVec 4} {s : State} (h : s.memWf) : NextMemWf (execCslBind p d a s) :=
  run_memWf (fun h => afterPin_memWf (fun _ ht => bindBody_memWf ht) h) h

theorem execCslRbld_memWf {p : Pfx} {d : BitVec 5} {a : BitVec 4} {s : State} (h : s.memWf) :
    NextMemWf (execCslRbld p d a s) := by
  refine run_memWf (fun h => ?_) h
  simp only []
  (repeat' split) <;> simp [State.memWf, h]

theorem execRebuildEnd_memWf {capsule : Nat} {s : State} (h : s.memWf) : NextMemWf (execRebuildEnd capsule s) := by
  unfold execRebuildEnd
  split <;> simp [State.memWf, h]

theorem execCslQ_memWf {p : Pfx} {d : BitVec 5} {a : BitVec 4} {s : State} (h : s.memWf) : NextMemWf (execCslQ p d a s) := by
  refine run_memWf (fun h => ?_) h
  simp only []
  (repeat' split) <;> simp [State.memWf, h]

/-! ## Machine/Reclaim.lean -/

theorem execSweepComplete_memWf {epoch : Nat} {s : State} (h : s.memWf) : NextMemWf (execSweepComplete epoch s) := by
  unfold execSweepComplete
  (repeat' split) <;> simp [State.memWf, h]

theorem execLeaseExpiry_memWf {idx : Nat} {s : State} (h : s.memWf) : NextMemWf (execLeaseExpiry idx s) := by
  unfold execLeaseExpiry
  split <;> simp [State.memWf, h]

theorem execQnowAdvance_memWf {s : State} (h : s.memWf) : NextMemWf (execQnowAdvance s) := by
  simp [execQnowAdvance, State.memWf, h]

theorem execQdoneAdvance_memWf {s : State} (h : s.memWf) : NextMemWf (execQdoneAdvance s) := by
  simp [execQdoneAdvance, State.memWf, h]

theorem execQuarantineEnqueue_memWf {part : Nat} {item : QItem} {s : State} (h : s.memWf) :
    NextMemWf (execQuarantineEnqueue part item s) := by
  simp [execQuarantineEnqueue, State.memWf, h]

theorem execQuarantineRelease_memWf {part idx : Nat} {s : State} (h : s.memWf) :
    NextMemWf (execQuarantineRelease part idx s) := by
  unfold execQuarantineRelease
  simp only []
  (repeat' split) <;> simp [State.memWf, h]

/-! ## Machine/Queues.lean -/

theorem execTailWrite_memWf {queue value : Nat} {s : State} (h : s.memWf) : NextMemWf (execTailWrite queue value s) := by
  simp [execTailWrite, State.memWf, h]

theorem execCheadWrite_memWf {queue value : Nat} {s : State} (h : s.memWf) : NextMemWf (execCheadWrite queue value s) := by
  simp [execCheadWrite, State.memWf, h]

theorem execRegisterWrite_memWf {reg : DevReg} {value : Word} {priv : Priv} {s : State} (h : s.memWf) :
    NextMemWf (execRegisterWrite reg value priv s) := by
  simp [execRegisterWrite, State.memWf, h]

theorem execAcquireRecord_memWf {n : Nat} {s : State} (h : s.memWf) : NextMemWf (execAcquireRecord n s) :=
  atRecord_memWf (fun r t ht => by
    (repeat' split) <;> simp [State.memWf, ht]) h

theorem execReleaseRecord_memWf {n : Nat} {s : State} (h : s.memWf) : NextMemWf (execReleaseRecord n s) := by
  unfold execReleaseRecord
  split
  · simp [State.memWf, h]
  · exact atRecord_memWf (fun r t ht => by
      (repeat' split) <;> simp [State.memWf, ht]) h

theorem execCollectiveAbort_memWf {n : Nat} {s : State} (h : s.memWf) : NextMemWf (execCollectiveAbort n s) :=
  atRecord_memWf (fun r t ht => by
    simp only []
    split
    · simp [State.memWf, ht]
    · split
      · simp [State.memWf, ht]
      · exact State.finishRecord_memWf _ _ _ _ _ _ _ (by simpa [State.memWf] using ht)) h

theorem execCapsuleRelease_memWf {n : Nat} {s : State} (h : s.memWf) : NextMemWf (execCapsuleRelease n s) := by
  unfold execCapsuleRelease
  simp only []
  split
  · rw [nextMemWf_next]
    split
    · simp [State.memWf, h]
    · split
      next s1 e =>
        have hr := State.releaseCapsule_mem _ s1 _ _ e
        exact s1.finishRecord_memWf _ _ _ _ _ _ (by simpa [State.memWf, hr] using h)
      · exact h
  · exact atRecord_memWf (fun r t ht => by
      (repeat' split) <;> simp [State.memWf, ht]) h

theorem execHostSync_memWf {n : Nat} {s : State} (h : s.memWf) : NextMemWf (execHostSync n s) := by
  unfold execHostSync
  split
  · simp [State.memWf, h]
  · exact atRecord_memWf (fun r t ht => by
      simp [State.memWf, ht]) h

theorem execReservedRecord_memWf {queue : Nat} {s : State} (h : s.memWf) : NextMemWf (execReservedRecord queue s) := by
  unfold execReservedRecord
  split <;> simp [State.memWf, h]

/-! ## Machine/Launches.lean -/

theorem execLaunchRecord_memWf {n : Nat} {s : State} (h : s.memWf) : NextMemWf (execLaunchRecord n s) := by
  unfold execLaunchRecord
  split
  · simpa [State.memWf] using h
  · exact atRecord_memWf (fun r t ht => by
      simp only []
      split <;> simp [State.memWf, ht]) h

theorem execDispatchMessage_memWf {slot : Nat} {s : State} (h : s.memWf) : NextMemWf (execDispatchMessage slot s) := by
  unfold execDispatchMessage
  (repeat' split) <;> simp [State.memWf, h]

theorem execLaunchCompletion_memWf {slot : Nat} {s : State} (h : s.memWf) : NextMemWf (execLaunchCompletion slot s) := by
  unfold execLaunchCompletion
  (repeat' split) <;> simp [State.memWf, h]

theorem execReleaseFlush_memWf {slot : Nat} {s : State} (h : s.memWf) : NextMemWf (execReleaseFlush slot s) := by
  unfold execReleaseFlush
  (repeat' split) <;> simp [State.memWf, h]

theorem execFlushRequest_memWf {src queue seq : Nat} {s : State} (h : s.memWf) :
    NextMemWf (execFlushRequest src queue seq s) := by
  simp [execFlushRequest, State.memWf, h]

theorem execFlushAcknowledgement_memWf {pkg queue seq : Nat} {s : State} (h : s.memWf) :
    NextMemWf (execFlushAcknowledgement pkg queue seq s) := by
  simp [execFlushAcknowledgement, State.memWf, h]

/-! ## Machine/Fabric.lean -/

theorem execFabricWrite_memWf {unit : FabricUnit} {s : State} (h : s.memWf) : NextMemWf (execFabricWrite unit s) := by
  unfold execFabricWrite
  split <;> simp [State.memWf, h]

theorem execFabricReadRequest_memWf {unit : FabricUnit} {s : State} (h : s.memWf) :
    NextMemWf (execFabricReadRequest unit s) := by
  unfold execFabricReadRequest
  split <;> simp [State.memWf, h]

theorem execFabricReadResponse_memWf {unit : FabricUnit} {s : State} (h : s.memWf) :
    NextMemWf (execFabricReadResponse unit s) := by
  unfold execFabricReadResponse
  simp only []
  (repeat' split) <;> simp [State.memWf, h]

theorem execDropNotice_memWf {unit : FabricUnit} {s : State} (h : s.memWf) : NextMemWf (execDropNotice unit s) := by
  unfold execDropNotice
  simp only []
  (repeat' split) <;> simp [State.memWf, h]

theorem execAbortToken_memWf {ctx group attempt : Nat} {s : State} (h : s.memWf) :
    NextMemWf (execAbortToken ctx group attempt s) := by
  simp [execAbortToken, State.memWf, h]

theorem execLinkRetrain_memWf {port : Nat} {s : State} (h : s.memWf) : NextMemWf (execLinkRetrain port s) := by
  unfold execLinkRetrain
  split <;> simp [State.memWf, h]

theorem execLinkReturn_memWf {port : Nat} {s : State} (h : s.memWf) : NextMemWf (execLinkReturn port s) := by
  unfold execLinkReturn
  split <;> simp [State.memWf, h]

theorem execPortDown_memWf {port : Nat} {s : State} (h : s.memWf) : NextMemWf (execPortDown port s) := by
  unfold execPortDown
  split <;> simp [State.memWf, h]

theorem execFlitRetry_memWf {port : Nat} {s : State} (h : s.memWf) : NextMemWf (execFlitRetry port s) := by
  simp [execFlitRetry, State.memWf, h]

/-! ## Machine/Partitions.lean -/

theorem execScrub_memWf {part : Nat} {s : State} (h : s.memWf) : NextMemWf (execScrub part s) := by
  unfold execScrub
  simp only []
  (repeat' split) <;> simp [State.memWf, h]

theorem execPartitionRelease_memWf {part : Nat} {s : State} (h : s.memWf) : NextMemWf (execPartitionRelease part s) := by
  unfold execPartitionRelease
  split <;> simp [State.memWf, h]

theorem execPartWrite_memWf {part : Nat} {value : Word} {s : State} (h : s.memWf) :
    NextMemWf (execPartWrite part value s) := by
  unfold execPartWrite
  simp only []
  (repeat' split) <;> simp [State.memWf, h]

theorem execFusion_memWf {shape base : Nat} {s : State} (h : s.memWf) : NextMemWf (execFusion shape base s) := by
  unfold execFusion
  simp only []
  split
  · rw [nextMemWf_next, State.memWf, State.foldl_mem _ _ _ (fun t q => by rw [State.setPart_mem]), State.foldl_mem]
    · exact h
    · intro t r
      rw [State.foldl_mem]
      intro u c
      rw [State.setTile_mem]
  · exact h

theorem execSplit_memWf {part : Nat} {s : State} (h : s.memWf) : NextMemWf (execSplit part s) := by
  unfold execSplit
  split <;> simp [State.memWf, h]

theorem execContextRegistration_memWf {ctx : Nat} {info : RegInfo} {s : State} (h : s.memWf) :
    NextMemWf (execContextRegistration ctx info s) := by
  unfold execContextRegistration
  split <;> simp [State.memWf, h]

theorem execMakeResident_memWf {n c : Nat} {info : ResInfo} {s : State} (h : s.memWf) :
    NextMemWf (execMakeResident n c info s) := by
  unfold execMakeResident
  simp only []
  split
  · refine State.placeBindings_memWf _ _ _ ?_
    rw [State.memWf, State.takeAway_mem, State.foldl_mem _ _ _ (fun t q => by simp), State.setCluster_mem]
    exact State.writeAccArea_memWf _ _ _ _ (State.writeSaveArea_memWf _ _ _ (by simpa [State.memWf] using h))
  · exact h

/-! ## Machine/Services.lean -/

theorem execKeyWrite_memWf {slot : Nat} {write : KeyWrite} {s : State} (h : s.memWf) :
    NextMemWf (execKeyWrite slot write s) := by
  unfold execKeyWrite
  split
  · exact h
  · split
    · simpa [State.memWf] using h
    next c _ =>
      have hc := s.acceptChunk_mem c
      split
      · exact h
      · split <;> simp_all [State.memWf]

theorem execReportRequest_memWf {chan : Nat} {request : Chunk} {s : State} (h : s.memWf) :
    NextMemWf (execReportRequest chan request s) := by
  have hc := s.acceptOn_mem chan [request]
  unfold execReportRequest
  split
  · exact h
  · split <;> simp_all [State.memWf]

theorem execFirmwareInstall_memWf {part : Nat} {firmware : Firmware} {s : State} (h : s.memWf) :
    NextMemWf (execFirmwareInstall part firmware s) := by
  unfold execFirmwareInstall
  split <;> simp [State.memWf, h]

theorem execCheckpoint_memWf {part : Nat} {ask : CheckpointAsk} {s : State} (h : s.memWf) :
    NextMemWf (execCheckpoint part ask s) := by
  have hc := s.acceptOn_mem ask.chan ask.request
  unfold execCheckpoint
  split
  · exact h
  · split
    next s1 e => simpa [State.memWf, e] using (congrArg Memory.wf hc).trans h
    next s1 plain e =>
      have h1 : s1.memWf := by simpa [State.memWf, e] using (congrArg Memory.wf hc).trans h
      (repeat' split) <;> simpa [State.memWf] using h1

theorem execCheckpointGo_memWf {part : Nat} {s : State} (h : s.memWf) : NextMemWf (execCheckpointGo part s) := by
  unfold execCheckpointGo
  split <;> simp [State.memWf, h]

theorem execRestore_memWf {part : Nat} {manifest : Manifest} {s : State} (h : s.memWf) :
    NextMemWf (execRestore part manifest s) := by
  have hc := s.acceptOn_mem manifest.chan manifest.index
  unfold execRestore
  split
  · exact h
  · split
    next s1 e => simpa [State.memWf, e] using (congrArg Memory.wf hc).trans h
    next s1 plain e =>
      have h1 : s1.memWf := by simpa [State.memWf, e] using (congrArg Memory.wf hc).trans h
      have hk := s1.putCapsules_mem part manifest.chan [] manifest.capsules
      split
      next s2 e2 => simpa [State.memWf, e2] using (congrArg Memory.wf hk).trans h1
      next s2 m e2 =>
        exact s2.putBlocks_memWf _ _ _ (by simpa [State.memWf, e2] using (congrArg Memory.wf hk).trans h1)

theorem execRestoreGo_memWf {part : Nat} {s : State} (h : s.memWf) : NextMemWf (execRestoreGo part s) := by
  unfold execRestoreGo
  split <;> simp [State.memWf, h]

/-! ## Machine/Contrail.lean -/

theorem execContrailBreakpoint_memWf {ctx addr : Nat} {s : State} (h : s.memWf) :
    NextMemWf (execContrailBreakpoint ctx addr s) := by
  unfold execContrailBreakpoint
  simp only []
  (repeat' split) <;> simp [State.memWf, h]

theorem execContrailPatch_memWf {capsule sect off : Nat} {halves : List Half} {s : State} (h : s.memWf) :
    NextMemWf (execContrailPatch capsule sect off halves s) := by
  unfold execContrailPatch
  (repeat' split) <;> simp [State.memWf, h]

theorem execContrailAccess_memWf {tile ctx : Nat} {set : SetId} {acc : DebugAccess} {s : State} (h : s.memWf) :
    NextMemWf (execContrailAccess tile ctx set acc s) := by
  unfold execContrailAccess
  (repeat' split) <;> simp [State.memWf, h]

theorem execContrailRelease_memWf {n : Nat} {k : SetId} {s : State} (h : s.memWf) : NextMemWf (execContrailRelease n k s) :=
  s.onSet_memWf n k _ (fun t ht => by
    simp only []
    (repeat' split) <;> simpa [State.memWf] using ht) h

/-! ## Machine/Slices.lean -/

theorem execOutstandingResultReturn_memWf {tile : Nat} {set : SetId} {s : State} (h : s.memWf) :
    NextMemWf (execOutstandingResultReturn tile set s) := by
  simp [execOutstandingResultReturn, State.memWf, h]

theorem execT8TableEffect_memWf {tile : Nat} {set : SetId} {s : State} (h : s.memWf) :
    NextMemWf (execT8TableEffect tile set s) := by
  simp [execT8TableEffect, State.memWf, h]

theorem execRefreshStart_memWf {bank : Nat} {s : State} (h : s.memWf) : NextMemWf (execRefreshStart bank s) := by
  simp [execRefreshStart, State.memWf, h]

theorem execRefreshEnd_memWf {bank : Nat} {s : State} (h : s.memWf) : NextMemWf (execRefreshEnd bank s) := by
  simp [execRefreshEnd, State.memWf, h]

theorem execSliceEnd_memWf {tile : Nat} {s : State} (h : s.memWf) : NextMemWf (execSliceEnd tile s) := by
  simp [execSliceEnd, State.memWf, h]

theorem execBudgetExpiry_memWf {tile : Nat} {s : State} (h : s.memWf) : NextMemWf (execBudgetExpiry tile s) := by
  unfold execBudgetExpiry
  split <;> simp [State.memWf, h]

theorem execGraceExpiry_memWf {tile : Nat} {s : State} (h : s.memWf) : NextMemWf (execGraceExpiry tile s) := by
  unfold execGraceExpiry
  split <;> simp [State.memWf, h]

/-! ## Machine/Bringup.lean -/

theorem execPatrolRead_memWf {addr : Nat} {err : WordError} {s : State} (h : s.memWf) :
    NextMemWf (execPatrolRead addr err s) := by
  unfold execPatrolRead
  (repeat' split) <;> simp [State.memWf, h]

theorem execMachineCheck_memWf {addr : Nat} {s : State} (h : s.memWf) : NextMemWf (execMachineCheck addr s) := by
  unfold execMachineCheck
  split <;> simp [State.memWf, h]

theorem execBringUp_memWf {s : State} (h : s.memWf) : NextMemWf (execBringUp s) := by
  simp [execBringUp, State.memWf, h]

theorem execColdReset_memWf {s : State} (h : s.memWf) : NextMemWf (execColdReset s) := by
  simp [execColdReset, State.memWf, h]

/-! ## Machine/HostMem.lean -/

theorem execHostMemAccess_memWf {addr : HostAddr} {op : HostOp} {s : State} (h : s.memWf) :
    NextMemWf (execHostMemAccess addr op s) := by
  cases op with
  | read n => exact h
  | write bs =>
    cases addr with
    | memory a => exact s.hostStore_memWf _ _ h
    | bar0 off => exact wordWrites_memWf (fun t a w ht => t.bar0Write_memWf a w ht) h
    | bar2 off => exact wordWrites_memWf (fun t a w ht => t.bar2Write_memWf a w ht) h

/-! ## Every instruction, every event, every step -/

/-- Every instruction keeps the form, each by the lemma of its shape or of its own meaning. -/
theorem exec_memWf (i : Instr) (s : State) (h : s.memWf) : NextMemWf (exec i s) := by
  cases i with
  | mv => exact (alu_memWf h : NextMemWf (execMv ..))
  | add => exact (alu_memWf h : NextMemWf (execAdd ..))
  | sub => exact (alu_memWf h : NextMemWf (execSub ..))
  | mul => exact (mulDiv_memWf h : NextMemWf (execMul ..))
  | mulh => exact (mulDiv_memWf h : NextMemWf (execMulh ..))
  | div => exact (mulDiv_memWf h : NextMemWf (execDiv ..))
  | rem => exact (mulDiv_memWf h : NextMemWf (execRem ..))
  | and => exact (alu_memWf h : NextMemWf (execAnd ..))
  | or => exact (alu_memWf h : NextMemWf (execOr ..))
  | xor => exact (alu_memWf h : NextMemWf (execXor ..))
  | shl => exact (alu_memWf h : NextMemWf (execShl ..))
  | shr => exact (alu_memWf h : NextMemWf (execShr ..))
  | sra => exact (alu_memWf h : NextMemWf (execSra ..))
  | cmp => exact execCmp_memWf h
  | addi => exact (unary_memWf h : NextMemWf (execAddi ..))
  | li => exact (unary_memWf h : NextMemWf (execLi ..))
  | cmpi => exact execCmpi_memWf h
  | shli => exact (unary_memWf h : NextMemWf (execShli ..))
  | shri => exact (unary_memWf h : NextMemWf (execShri ..))
  | srai => exact (unary_memWf h : NextMemWf (execSrai ..))
  | rori => exact (unary_memWf h : NextMemWf (execRori ..))
  | clz => exact (unary_memWf h : NextMemWf (execClz ..))
  | ctz => exact (unary_memWf h : NextMemWf (execCtz ..))
  | popc => exact (unary_memWf h : NextMemWf (execPopc ..))
  | brev => exact (unary_memWf h : NextMemWf (execBrev ..))
  | not => exact (unary_memWf h : NextMemWf (execNot ..))
  | neg => exact (unary_memWf h : NextMemWf (execNeg ..))
  | abs => exact (unary_memWf h : NextMemWf (execAbs ..))
  | sextB => exact (unary_memWf h : NextMemWf (execSextB ..))
  | sextH => exact (unary_memWf h : NextMemWf (execSextH ..))
  | sextW => exact (unary_memWf h : NextMemWf (execSextW ..))
  | zextB => exact (unary_memWf h : NextMemWf (execZextB ..))
  | zextH => exact (unary_memWf h : NextMemWf (execZextH ..))
  | zextW => exact (unary_memWf h : NextMemWf (execZextW ..))
  | setc => exact execSetc_memWf h
  | loop => exact execLoop_memWf h
  | b => exact execB_memWf h
  | beq => exact execBeq_memWf h
  | bne => exact execBne_memWf h
  | blt => exact execBlt_memWf h
  | bge => exact execBge_memWf h
  | call => exact execCall_memWf h
  | jmp => exact execJmp_memWf h
  | cMv => exact execCMv_memWf h
  | cAdd => exact (deriveCap_memWf h : NextMemWf (execCAdd ..))
  | cAddi => exact (deriveCap_memWf h : NextMemWf (execCAddi ..))
  | cSetaddr => exact (deriveCap_memWf h : NextMemWf (execCSetaddr ..))
  | cSetb => exact (boundsCap_memWf h : NextMemWf (execCSetb ..))
  | cSetbx => exact (boundsCap_memWf h : NextMemWf (execCSetbx ..))
  | cAndp => exact (deriveCap_memWf h : NextMemWf (execCAndp ..))
  | cSeal => exact execCSeal_memWf h
  | cUnseal => exact execCUnseal_memWf h
  | cInv => exact execCInv_memWf h
  | cGaddr => exact (readField_memWf h : NextMemWf (execCGaddr ..))
  | cGbase => exact (readField_memWf h : NextMemWf (execCGbase ..))
  | cGlen => exact (readField_memWf h : NextMemWf (execCGlen ..))
  | cGperm => exact (readField_memWf h : NextMemWf (execCGperm ..))
  | cGtype => exact (readField_memWf h : NextMemWf (execCGtype ..))
  | cGtag => exact (readField_memWf h : NextMemWf (execCGtag ..))
  | cClrtag => exact execCClrtag_memWf h
  | cLd => exact execCLd_memWf h
  | cSt => exact execCSt_memWf h
  | cFit => exact execCFit_memWf h
  | cSnap => exact (deriveCap_memWf h : NextMemWf (execCSnap ..))
  | cPaint => exact execCPaint_memWf h
  | cSweep => exact execCSweep_memWf h
  | cSweepq => exact execCSweepq_memWf h
  | ldW => exact (loadScalar_memWf h : NextMemWf (execLdW ..))
  | stW => exact (storeScalar_memWf h : NextMemWf (execStW ..))
  | ldD => exact (loadScalar_memWf h : NextMemWf (execLdD ..))
  | stD => exact (storeScalar_memWf h : NextMemWf (execStD ..))
  | ldB => exact (loadScalar_memWf h : NextMemWf (execLdB ..))
  | stB => exact (storeScalar_memWf h : NextMemWf (execStB ..))
  | ldH => exact (loadScalar_memWf h : NextMemWf (execLdH ..))
  | stH => exact (storeScalar_memWf h : NextMemWf (execStH ..))
  | vLd => exact execVLd_memWf h
  | vSt => exact execVSt_memWf h
  | ldWz => exact (loadScalar_memWf h : NextMemWf (execLdWz ..))
  | ldBz => exact (loadScalar_memWf h : NextMemWf (execLdBz ..))
  | ldHz => exact (loadScalar_memWf h : NextMemWf (execLdHz ..))
  | vGth => exact execVGth_memWf h
  | vSct => exact execVSct_memWf h
  | vLdb => exact execVLdb_memWf h
  | vLds => exact execVLds_memWf h
  | vSts => exact execVSts_memWf h
  | wsQ => exact execWsQ_memWf h
  | pf p d m => exact execPf_memWf (_d := d) (_m := m) h
  | kLd => exact execKLd_memWf h
  | kSt => exact execKSt_memWf h
  | amAdd => exact (atomicOp_memWf h : NextMemWf (execAmAdd ..))
  | amAnd => exact (atomicOp_memWf h : NextMemWf (execAmAnd ..))
  | amOr => exact (atomicOp_memWf h : NextMemWf (execAmOr ..))
  | amXor => exact (atomicOp_memWf h : NextMemWf (execAmXor ..))
  | amMin => exact (atomicOp_memWf h : NextMemWf (execAmMin ..))
  | amMax => exact (atomicOp_memWf h : NextMemWf (execAmMax ..))
  | amSwp => exact (atomicOp_memWf h : NextMemWf (execAmSwp ..))
  | amCas => exact (atomicOp_memWf h : NextMemWf (execAmCas ..))
  | amFadd => exact execAmFadd_memWf h
  | amUpdAdd => exact (updateOp_memWf h : NextMemWf (execAmUpdAdd ..))
  | amUpdOr => exact (updateOp_memWf h : NextMemWf (execAmUpdOr ..))
  | amUpdAnd => exact (updateOp_memWf h : NextMemWf (execAmUpdAnd ..))
  | amUpdXor => exact (updateOp_memWf h : NextMemWf (execAmUpdXor ..))
  | amUpdMin => exact (updateOp_memWf h : NextMemWf (execAmUpdMin ..))
  | amUpdMax => exact (updateOp_memWf h : NextMemWf (execAmUpdMax ..))
  | amUpdFadd => exact (updateOp_memWf h : NextMemWf (execAmUpdFadd ..))
  | swInit => exact execSwInit_memWf h
  | swWait => exact execSwWait_memWf h
  | swGen => exact execSwGen_memWf h
  | barArv => exact execBarArv_memWf h
  | barWt => exact execBarWt_memWf h
  | barCfg => exact execBarCfg_memWf h
  | mbPut => exact execMbPut_memWf h
  | mbGet => exact execMbGet_memWf h
  | mbTest => exact execMbTest_memWf h
  | fence => exact execFence_memWf h
  | vMv => exact (vecUn_memWf h : NextMemWf (execVMv ..))
  | vAdd => exact (vecBin_memWf h : NextMemWf (execVAdd ..))
  | vSub => exact (vecBin_memWf h : NextMemWf (execVSub ..))
  | vMul => exact (vecBin_memWf h : NextMemWf (execVMul ..))
  | vFma => exact (vecFused_memWf h : NextMemWf (execVFma ..))
  | vFms => exact (vecFused_memWf h : NextMemWf (execVFms ..))
  | vMin => exact (vecBin_memWf h : NextMemWf (execVMin ..))
  | vMax => exact (vecBin_memWf h : NextMemWf (execVMax ..))
  | vAbs => exact (vecUn_memWf h : NextMemWf (execVAbs ..))
  | vNeg => exact (vecUn_memWf h : NextMemWf (execVNeg ..))
  | vIadd => exact (vecBin_memWf h : NextMemWf (execVIadd ..))
  | vIsub => exact (vecBin_memWf h : NextMemWf (execVIsub ..))
  | vImul => exact (vecBin_memWf h : NextMemWf (execVImul ..))
  | vImin => exact (vecBin_memWf h : NextMemWf (execVImin ..))
  | vImax => exact (vecBin_memWf h : NextMemWf (execVImax ..))
  | vAnd => exact (vecBin_memWf h : NextMemWf (execVAnd ..))
  | vOr => exact (vecBin_memWf h : NextMemWf (execVOr ..))
  | vXor => exact (vecBin_memWf h : NextMemWf (execVXor ..))
  | vShl => exact (vecBin_memWf h : NextMemWf (execVShl ..))
  | vShr => exact (vecBin_memWf h : NextMemWf (execVShr ..))
  | vSra => exact (vecBin_memWf h : NextMemWf (execVSra ..))
  | vFeq => exact (vecCmp_memWf h : NextMemWf (execVFeq ..))
  | vFlt => exact (vecCmp_memWf h : NextMemWf (execVFlt ..))
  | vFle => exact (vecCmp_memWf h : NextMemWf (execVFle ..))
  | vFun => exact (vecCmp_memWf h : NextMemWf (execVFun ..))
  | vIeq => exact (vecCmp_memWf h : NextMemWf (execVIeq ..))
  | vIlt => exact (vecCmp_memWf h : NextMemWf (execVIlt ..))
  | vIle => exact (vecCmp_memWf h : NextMemWf (execVIle ..))
  | vIlo => exact (vecCmp_memWf h : NextMemWf (execVIlo ..))
  | vIabs => exact (vecUn_memWf h : NextMemWf (execVIabs ..))
  | vBcs => exact execVBcs_memWf h
  | vLi => exact execVLi_memWf h
  | kAnd => exact (maskOp_memWf h : NextMemWf (execKAnd ..))
  | kOr => exact (maskOp_memWf h : NextMemWf (execKOr ..))
  | kXor => exact (maskOp_memWf h : NextMemWf (execKXor ..))
  | kAndn => exact (maskOp_memWf h : NextMemWf (execKAndn ..))
  | kNot => exact (maskOp_memWf h : NextMemWf (execKNot ..))
  | kMv => exact (maskOp_memWf h : NextMemWf (execKMv ..))
  | vCvtfi => exact (vecUn_memWf h : NextMemWf (execVCvtfi ..))
  | vCvtif => exact (vecUn_memWf h : NextMemWf (execVCvtif ..))
  | vExp2 => exact (vecUn_memWf h : NextMemWf (execVExp2 ..))
  | vLog2 => exact (vecUn_memWf h : NextMemWf (execVLog2 ..))
  | vRcp => exact (vecUn_memWf h : NextMemWf (execVRcp ..))
  | vRsq => exact (vecUn_memWf h : NextMemWf (execVRsq ..))
  | vSqrt => exact (vecUn_memWf h : NextMemWf (execVSqrt ..))
  | vPerm => exact execVPerm_memWf h
  | vBcl => exact execVBcl_memWf h
  | vRot => exact execVRot_memWf h
  | vRsum => exact (reduceLanes_memWf h : NextMemWf (execVRsum ..))
  | vRmax => exact (reduceLanes_memWf h : NextMemWf (execVRmax ..))
  | vRmin => exact (reduceLanes_memWf h : NextMemWf (execVRmin ..))
  | vIrsum => exact execVIrsum_memWf h
  | vT8dec => exact execVT8dec_memWf h
  | vT8enc => exact execVT8enc_memWf h
  | t8Ld => exact execT8Ld_memWf h
  | t8LdE4 => exact execT8LdE4_memWf h
  | t8LdE5 => exact execT8LdE5_memWf h
  | vExt => exact execVExt_memWf h
  | vIns => exact execVIns_memWf h
  | kPop => exact execKPop_memWf h
  | kFirst => exact execKFirst_memWf h
  | vRnd => exact (vecUn_memWf h : NextMemWf (execVRnd ..))
  | vCmpr => exact execVCmpr_memWf h
  | mLds => exact (matrixOp_memWf h : NextMemWf (execMLds ..))
  | mStr => exact (matrixOp_memWf h : NextMemWf (execMStr ..))
  | mMrot => exact (matrixOp_memWf h : NextMemWf (execMMrot ..))
  | mRd => exact (matrixOp_memWf h : NextMemWf (execMRd ..))
  | mCmd => exact execMCmd_memWf h
  | mRdz => exact (matrixOp_memWf h : NextMemWf (execMRdz ..))
  | mSwap => exact (matrixPlain_memWf h : NextMemWf (execMSwap ..))
  | mZero => exact (matrixPlain_memWf h : NextMemWf (execMZero ..))
  | mDrain => exact execMDrain_memWf h
  | mQ => exact execMQ_memWf h
  | endF => exact execEndF_memWf h
  | send => exact (sendOp_memWf h : NextMemWf (execSend ..))
  | sendU => exact (sendOp_memWf h : NextMemWf (execSendU ..))
  | fork => exact execFork_memWf h
  | join => exact execJoin_memWf h
  | jcInit => exact execJcInit_memWf h
  | chunk => exact execChunk_memWf h
  | yield => exact execYield_memWf h
  | hEn => exact (recordOp_memWf h : NextMemWf (execHEn ..))
  | hDis => exact (recordOp_memWf h : NextMemWf (execHDis ..))
  | hPend => exact (recordOp_memWf h : NextMemWf (execHPend ..))
  | hClrp => exact (recordOp_memWf h : NextMemWf (execHClrp ..))
  | inPop => exact execInPop_memWf h
  | inCnt => exact execInCnt_memWf h
  | widFld => exact execWidFld_memWf h
  | tsAdd => exact execTsAdd_memWf h
  | hTag => exact execHTag_memWf h
  | cp => exact execCp_memWf h
  | cpTry => exact execCpTry_memWf h
  | tkQ => exact execTkQ_memWf h
  | slvBegin => exact execSlvBegin_memWf h
  | slvEnd => exact execSlvEnd_memWf h
  | slvHclr => exact execSlvHclr_memWf h
  | slvQ => exact execSlvQ_memWf h
  | cpRsm => exact execCpRsm_memWf h
  | rsr => exact execRsr_memWf h
  | wsr => exact execWsr_memWf h
  | kcallSliceEnd p i => exact execKcallSliceEnd_memWf (i := i) h
  | kcallBudget p i => exact execKcallBudget_memWf (i := i) h
  | kcallStops p i => exact execKcallStops_memWf (i := i) h
  | kcallUnbound p i => exact execKcallUnbound_memWf (i := i) h
  | kcallRevoke p i => exact execKcallRevoke_memWf (i := i) h
  | kcallSweepQuery p i => exact execKcallSweepQuery_memWf (i := i) h
  | kcallOther p i => exact execKcallOther_memWf (i := i) h
  | tret => exact execTret_memWf h
  | tretSkip => exact execTretSkip_memWf h
  | cslInst => exact execCslInst_memWf h
  | cslRbld => exact execCslRbld_memWf h
  | cslBind => exact execCslBind_memWf h
  | cslQ => exact execCslQ_memWf h
  | pairOn => exact execPairOn_memWf h
  | pairOff => exact execPairOff_memWf h
  | brk => exact execBrk_memWf h
  | ctxSv => exact execCtxSv_memWf h
  | ctxLd => exact execCtxLd_memWf h
  | accSv => exact execAccSv_memWf h
  | accLd => exact execAccLd_memWf h
  | idle => exact execIdle_memWf h
  | outstandingResultReturn => exact execOutstandingResultReturn_memWf h
  | sweepComplete => exact execSweepComplete_memWf h
  | refreshStart => exact execRefreshStart_memWf h
  | refreshEnd => exact execRefreshEnd_memWf h
  | updateMerge => exact execUpdateMerge_memWf h
  | t8TableEffect => exact execT8TableEffect_memWf h
  | lds => exact execLds_memWf h
  | swap => exact execSwap_memWf h
  | str => exact execStr_memWf h
  | mrot => exact execMrot_memWf h
  | mrotArrival => exact execMrotArrival_memWf h
  | rd => exact execRd_memWf h
  | zero => exact execZero_memWf h
  | rdz => exact execRdz_memWf h
  | messageArrival => exact execMessageArrival_memWf h
  | queueAdmit => exact execQueueAdmit_memWf h
  | unboundDelivery => exact execUnboundDelivery_memWf h
  | entryRewrite => exact execEntryRewrite_memWf h
  | makeFiring => exact execMakeFiring_memWf h
  | taskTake => exact execTaskTake_memWf h
  | taskSteal => exact execTaskSteal_memWf h
  | launchRecord => exact execLaunchRecord_memWf h
  | dispatchMessage => exact execDispatchMessage_memWf h
  | launchCompletion => exact execLaunchCompletion_memWf h
  | releaseFlush => exact execReleaseFlush_memWf h
  | horizonUpdate => exact execHorizonUpdate_memWf h
  | commit => exact execCommit_memWf h
  | abort => exact execAbort_memWf h
  | rerun => exact execRerun_memWf h
  | pin => exact execPin_memWf h
  | copyStart => exact execCopyStart_memWf h
  | copyWriteUnit => exact execCopyWriteUnit_memWf h
  | copyComplete => exact execCopyComplete_memWf h
  | copyStop => exact execCopyStop_memWf h
  | completionMessage => exact execCompletionMessage_memWf h
  | resumePacket => exact execResumePacket_memWf h
  | edgeChunk => exact execEdgeChunk_memWf h
  | budgetRefill => exact execBudgetRefill_memWf h
  | clusterRound => exact execClusterRound_memWf h
  | terminate => exact execTerminate_memWf h
  | budgetExpiry => exact execBudgetExpiry_memWf h
  | graceExpiry => exact execGraceExpiry_memWf h
  | sliceEnd => exact execSliceEnd_memWf h
  | leaseExpiry => exact execLeaseExpiry_memWf h
  | qnowAdvance => exact execQnowAdvance_memWf h
  | qdoneAdvance => exact execQdoneAdvance_memWf h
  | quarantineEnqueue => exact execQuarantineEnqueue_memWf h
  | quarantineRelease => exact execQuarantineRelease_memWf h
  | tailWrite => exact execTailWrite_memWf h
  | cheadWrite => exact execCheadWrite_memWf h
  | registerWrite => exact execRegisterWrite_memWf h
  | acquireRecord => exact execAcquireRecord_memWf h
  | releaseRecord => exact execReleaseRecord_memWf h
  | collectiveAbort => exact execCollectiveAbort_memWf h
  | capsuleRelease => exact execCapsuleRelease_memWf h
  | hostSync => exact execHostSync_memWf h
  | reservedRecord => exact execReservedRecord_memWf h
  | hostMemAccess => exact execHostMemAccess_memWf h
  | flushRequest => exact execFlushRequest_memWf h
  | flushAcknowledgement => exact execFlushAcknowledgement_memWf h
  | fabricWrite => exact execFabricWrite_memWf h
  | fabricReadRequest => exact execFabricReadRequest_memWf h
  | fabricReadResponse => exact execFabricReadResponse_memWf h
  | dropNotice => exact execDropNotice_memWf h
  | abortToken => exact execAbortToken_memWf h
  | linkRetrain => exact execLinkRetrain_memWf h
  | linkReturn => exact execLinkReturn_memWf h
  | portDown => exact execPortDown_memWf h
  | flitRetry => exact execFlitRetry_memWf h
  | partWrite => exact execPartWrite_memWf h
  | scrub => exact execScrub_memWf h
  | partitionRelease => exact execPartitionRelease_memWf h
  | fusion => exact execFusion_memWf h
  | split => exact execSplit_memWf h
  | keyWrite => exact execKeyWrite_memWf h
  | reportRequest => exact execReportRequest_memWf h
  | checkpoint => exact execCheckpoint_memWf h
  | restore => exact execRestore_memWf h
  | firmwareInstall => exact execFirmwareInstall_memWf h
  | contrailBreakpoint => exact execContrailBreakpoint_memWf h
  | contrailPatch => exact execContrailPatch_memWf h
  | contrailAccess => exact execContrailAccess_memWf h
  | machineCheck => exact execMachineCheck_memWf h
  | patrolRead => exact execPatrolRead_memWf h
  | coldReset => exact execColdReset_memWf h
  | contextRegistration => exact execContextRegistration_memWf h
  | makeResident => exact execMakeResident_memWf h
  | contrailRelease => exact execContrailRelease_memWf h

/-- Every event keeps the form. -/
theorem Event.run_memWf (e : Event) (s : State) (h : s.memWf) : NextMemWf (e.run s) := by
  cases e with
  | resultReturn => exact execOutstandingResultReturn_memWf h
  | sweepComplete => exact execSweepComplete_memWf h
  | refreshStart => exact execRefreshStart_memWf h
  | refreshEnd => exact execRefreshEnd_memWf h
  | updateMerge => exact execUpdateMerge_memWf h
  | t8TableEffect => exact execT8TableEffect_memWf h
  | lds => exact execLds_memWf h
  | swap => exact execSwap_memWf h
  | str => exact execStr_memWf h
  | mrot => exact execMrot_memWf h
  | mrotArrival => exact execMrotArrival_memWf h
  | rd => exact execRd_memWf h
  | zero => exact execZero_memWf h
  | rdz => exact execRdz_memWf h
  | messageArrival => exact execMessageArrival_memWf h
  | queueAdmit => exact execQueueAdmit_memWf h
  | unboundDelivery => exact execUnboundDelivery_memWf h
  | entryWrite => exact execRewriteOn_memWf h
  | makeFiring => exact execMakeFiring_memWf h
  | taskTake => exact execTaskTake_memWf h
  | taskSteal => exact execTaskSteal_memWf h
  | launchRecord => exact execLaunchRecord_memWf h
  | dispatchMessage => exact execDispatchMessage_memWf h
  | launchCompletion => exact execLaunchCompletion_memWf h
  | releaseFlush => exact execReleaseFlush_memWf h
  | horizonUpdate => exact execHorizonUpdate_memWf h
  | commit => exact execCommit_memWf h
  | rerun => exact execRerun_memWf h
  | pin => exact execPin_memWf h
  | copyStart => exact execCopyStart_memWf h
  | copyWriteUnit => exact execCopyWriteUnit_memWf h
  | copyComplete => exact execCopyComplete_memWf h
  | copyStop => exact execCopyStop_memWf h
  | completionMessage => exact execCompletionMessage_memWf h
  | resumePacket => exact execResumePacket_memWf h
  | edgeChunk => exact execEdgeChunk_memWf h
  | postedDone => exact execPostedDone_memWf h
  | budgetRefill => exact execBudgetRefill_memWf h
  | clusterRound => exact execClusterRound_memWf h
  | terminate => exact execTerminate_memWf h
  | budgetExpiry => exact execBudgetExpiry_memWf h
  | graceExpiry => exact execGraceExpiry_memWf h
  | sliceEnd => exact execSliceEnd_memWf h
  | leaseExpiry => exact execLeaseExpiry_memWf h
  | qnowAdvance => exact execQnowAdvance_memWf h
  | qdoneAdvance => exact execQdoneAdvance_memWf h
  | quarantineRelease => exact execQuarantineRelease_memWf h
  | acquireRecord => exact execAcquireRecord_memWf h
  | releaseRecord => exact execReleaseRecord_memWf h
  | collectiveAbort => exact execCollectiveAbort_memWf h
  | capsuleRelease => exact execCapsuleRelease_memWf h
  | hostSync => exact execHostSync_memWf h
  | reservedRecord => exact execReservedRecord_memWf h
  | scrub => exact execScrub_memWf h
  | partitionRelease => exact execPartitionRelease_memWf h
  | split => exact execSplit_memWf h
  | checkpoint => exact execCheckpointGo_memWf h
  | restoreGo => exact execRestoreGo_memWf h
  | portDown => exact execPortDown_memWf h
  | patrolRead => exact execPatrolRead_memWf (err := .found) h
  | machineCheck => exact execMachineCheck_memWf h
  | rebuildEnd => exact execRebuildEnd_memWf h
  | bringUp => exact execBringUp_memWf h

theorem chained_memWf {t : State} {i : Instr} {o : Host.Outcome State Fault Refusal} (h : NextMemWf o) :
    NextMemWf (chained t i o) := by
  cases o with
  | next u => simpa [chained, State.memWf] using h
  | _ => trivial

theorem evented_memWf {t : State} {e : Event} {o : Host.Outcome State Fault Refusal} (h : NextMemWf o) :
    NextMemWf (evented t e o) := by
  cases o with
  | next u =>
    rw [nextMemWf_next] at h
    cases e <;> simpa [evented, State.memWf] using h
  | _ => trivial

/-- A step keeps the form: time moves on, and an instruction, an event or neither is performed. -/
theorem step_memWf (s : State) (h : s.memWf) : NextMemWf (step s) := by
  have ha : s.advance.memWf := by simpa [State.memWf] using h
  unfold step
  simp only []
  split
  next i rest _ =>
    split
    · exact exec_memWf i _ ha
    · exact ha
  · have hn := s.advance.next_sameMem
    have hm (t : State) (e : t.mem = s.advance.mem) : t.memWf := (congrArg Memory.wf e).trans ha
    split
    next i t e =>
      rw [e] at hn
      exact chained_memWf (exec_memWf i t (hm t hn))
    next e t en =>
      rw [en] at hn
      exact evented_memWf (e.run_memWf t (hm t hn))
    next t e =>
      rw [e] at hn
      exact hm t hn
    · trivial

end Sys2Proof.Machine

/-- Settles O60: every function that a step is made of leaves memory as it is, or writes it by writes that keep the form. -/
theorem stepKeepsMemoryForm : Obligations.StepKeepsMemoryForm := by
  unfold Obligations.StepKeepsMemoryForm
  intro s t h e
  simpa [e] using Sys2Proof.Machine.step_memWf s h
end

section
/-! PROOFS. What comes before a chain's own effect: the token wait, CP.STOP, the checks of a repeat count, the privilege check (R10, R36, R50,
R90, R256, R275). -/

namespace Sys2Proof.Machine

/-! ## Tokens -/

/-- A mask names exactly the tokens whose bits it has set. -/
theorem mem_maskBits (m : BitVec 8) (j : BitVec 3) : j ∈ maskBits m ↔ m.getLsbD j.toNat = true := by
  have all : j ∈ ([0, 1, 2, 3, 4, 5, 6, 7] : List (BitVec 3)) := by
    revert j
    decide
  simp only [maskBits, List.mem_filter, all, true_and]

theorem RegSet.tokensIdle_iff (r : RegSet) (m : BitVec 8) :
    r.tokensIdle m = true ↔ ∀ j : BitVec 3, m.getLsbD j.toNat = true → (r.token j).cnt = 0 := by
  simp [RegSet.tokensIdle, mem_maskBits]

theorem RegSet.tokensStopped_iff (r : RegSet) (m : BitVec 8) :
    r.tokensStopped m = true ↔ ∃ j : BitVec 3, m.getLsbD j.toNat = true ∧ (r.token j).stat ≠ 0 := by
  simp [RegSet.tokensStopped, mem_maskBits]

/-- A chain's outcome waits for its tokens, and then gives CP.STOP where one of them is stopped (R36, R256). -/
def WaitsFirst (p : Pfx) (s : State) (o : Host.Outcome State Fault Refusal) : Prop :=
  (s.reg.tokensIdle p.tokens = false → o = .next s.held) ∧
    (s.reg.tokensIdle p.tokens = true → s.reg.tokensStopped p.tokens = true → o = .next (s.raise Code.cpStop 0))

theorem run_waitsFirst {p : Pfx} {paged : Bool} {s : State} {body : State → Res} : WaitsFirst p s (run p paged s body) :=
  ⟨run_holds p paged s body, run_stopped p paged s body⟩

theorem runRep_waitsFirst {p : Pfx} {paged : Bool} {size1 : Nat} {f1 : BitVec 5} {size2 : Nat} {f2 : BitVec 5} {s : State}
    {body : Nat → BitVec 5 → BitVec 5 → State → Res} : WaitsFirst p s (runRep p paged size1 f1 size2 f2 s body) := by
  unfold runRep
  split
  · exact run_waitsFirst
  · exact ⟨fun h => by simp [h], fun h h' => by simp [h, h']⟩

theorem reduceLanes_waitsFirst {p : Pfx} {d a : BitVec 5} {s : State} {op : Lane → Lane → Lane} {empty : Lane} :
    WaitsFirst p s (reduceLanes p d a s op empty) :=
  runRep_waitsFirst

theorem mulDiv_waitsFirst {p : Pfx} {d a : BitVec 5} {s : State} {f : Word → Word → Word} : WaitsFirst p s (mulDiv p d a s f) :=
  runRep_waitsFirst

theorem alu_waitsFirst {p : Pfx} {d a : BitVec 5} {s : State} {f : Word → Word → Word} : WaitsFirst p s (alu p d a s f) :=
  runRep_waitsFirst

theorem unary_waitsFirst {p : Pfx} {d : BitVec 5} {s : State} {f : Word → Word} : WaitsFirst p s (unary p d s f) :=
  runRep_waitsFirst

theorem vecBin_waitsFirst {p : Pfx} {d a : BitVec 5} {s : State} {f : Lane → Lane → Lane} : WaitsFirst p s (vecBin p d a s f) :=
  runRep_waitsFirst

theorem vecUn_waitsFirst {p : Pfx} {d a : BitVec 5} {s : State} {f : Lane → Lane} : WaitsFirst p s (vecUn p d a s f) :=
  vecBin_waitsFirst

theorem vecCmp_waitsFirst {p : Pfx} {d a : BitVec 5} {s : State} {f : Lane → Lane → Bool} : WaitsFirst p s (vecCmp p d a s f) :=
  runRep_waitsFirst

theorem loadScalar_waitsFirst {p : Pfx} {d : BitVec 5} {m : MemOp} {n : Nat} {s : State} {f : Nat → Word} :
    WaitsFirst p s (loadScalar p d m n s f) :=
  runRep_waitsFirst

theorem storeScalar_waitsFirst {p : Pfx} {d : BitVec 5} {m : MemOp} {n : Nat} {use : Use} {s : State} :
    WaitsFirst p s (storeScalar p d m n use s) :=
  runRep_waitsFirst

theorem maskOp_waitsFirst {p : Pfx} {d a : BitVec 3} {s : State} {f : Word → Word → Word} : WaitsFirst p s (maskOp p d a s f) :=
  runRep_waitsFirst

theorem scalarChains_waitFirst (p : Pfx) (d a : BitVec 5) (c e : BitVec 4) (m : MemOp) (off : BitVec 10) (s : State) :
    ∀ x ∈ ([.add p d a, .mul p d a, .cmpi p d a, .clz p d, .loop p d a, .b p off, .beq p off, .call p c e, .jmp p c, .cMv p c e,
      .cSetb p c a, .cInv p c e, .cLd p c m, .cPaint p c a] : List Instr), WaitsFirst p s (exec x s) := by
  simp only [List.forall_mem_cons, List.not_mem_nil, false_implies, implies_true, and_true]
  exact ⟨
    (alu_waitsFirst : WaitsFirst p s (execAdd ..)), (mulDiv_waitsFirst : WaitsFirst p s (execMul ..)),
    (runRep_waitsFirst : WaitsFirst p s (execCmpi ..)), (unary_waitsFirst : WaitsFirst p s (execClz ..)),
    (run_waitsFirst : WaitsFirst p s (execLoop ..)), (run_waitsFirst : WaitsFirst p s (execB ..)),
    (run_waitsFirst : WaitsFirst p s (execBeq ..)), (run_waitsFirst : WaitsFirst p s (execCall ..)),
    (run_waitsFirst : WaitsFirst p s (execJmp ..)), (run_waitsFirst : WaitsFirst p s (execCMv ..)),
    (run_waitsFirst : WaitsFirst p s (execCSetb ..)), (run_waitsFirst : WaitsFirst p s (execCInv ..)),
    (run_waitsFirst : WaitsFirst p s (execCLd ..)), (run_waitsFirst : WaitsFirst p s (execCPaint ..))⟩

theorem memoryChains_waitFirst (p : Pfx) (d a : BitVec 5) (h : BitVec 3) (m : MemOp) (s : State) :
    ∀ x ∈ ([.ldW p d m, .stD p d m, .vLd p d m, .vSct p d m, .kSt p h m, .wsQ p d m, .amAdd p d m, .amUpdOr p d m, .swWait p d m,
      .barArv p d a, .mbPut p d a, .fence p d a] : List Instr), WaitsFirst p s (exec x s) := by
  simp only [List.forall_mem_cons, List.not_mem_nil, false_implies, implies_true, and_true]
  exact ⟨
    (loadScalar_waitsFirst : WaitsFirst p s (execLdW ..)), (storeScalar_waitsFirst : WaitsFirst p s (execStD ..)),
    (runRep_waitsFirst : WaitsFirst p s (execVLd ..)), (runRep_waitsFirst : WaitsFirst p s (execVSct ..)),
    (run_waitsFirst : WaitsFirst p s (execKSt ..)), (runRep_waitsFirst : WaitsFirst p s (execWsQ ..)),
    (run_waitsFirst : WaitsFirst p s (execAmAdd ..)), (run_waitsFirst : WaitsFirst p s (execAmUpdOr ..)),
    (run_waitsFirst : WaitsFirst p s (execSwWait ..)), (run_waitsFirst : WaitsFirst p s (execBarArv ..)),
    (run_waitsFirst : WaitsFirst p s (execMbPut ..)), (run_waitsFirst : WaitsFirst p s (execFence ..))⟩

theorem vectorChains_waitFirst (p : Pfx) (d a : BitVec 5) (h k : BitVec 3) (m : MemOp) (s : State) :
    ∀ x ∈ ([.vAdd p d a, .vMul p d a, .vFeq p d a, .kAnd p h k, .vRsum p d a, .vPerm p d a, .t8Ld p m, .kPop p d h, .mLds p d m,
      .mSwap p, .mDrain p, .mQ p d] : List Instr), WaitsFirst p s (exec x s) := by
  simp only [List.forall_mem_cons, List.not_mem_nil, false_implies, implies_true, and_true]
  exact ⟨
    (vecBin_waitsFirst : WaitsFirst p s (execVAdd ..)), (vecBin_waitsFirst : WaitsFirst p s (execVMul ..)),
    (vecCmp_waitsFirst : WaitsFirst p s (execVFeq ..)), (maskOp_waitsFirst : WaitsFirst p s (execKAnd ..)),
    (reduceLanes_waitsFirst : WaitsFirst p s (execVRsum ..)), (runRep_waitsFirst : WaitsFirst p s (execVPerm ..)),
    (runRep_waitsFirst : WaitsFirst p s (execT8Ld ..)), (runRep_waitsFirst : WaitsFirst p s (execKPop ..)),
    (run_waitsFirst : WaitsFirst p s (execMLds ..)), (run_waitsFirst : WaitsFirst p s (execMSwap ..)),
    (run_waitsFirst : WaitsFirst p s (execMDrain ..)), (run_waitsFirst : WaitsFirst p s (execMQ ..))⟩

theorem taskChains_waitFirst (p : Pfx) (d a : BitVec 5) (c e : BitVec 4) (s : State) :
    ∀ x ∈ ([.endF p, .send p d a, .fork p d a, .yield p, .hEn p a, .inPop p d a, .cp p c e, .cpTry p c e, .slvBegin p c e,
      .slvEnd p] : List Instr), WaitsFirst p s (exec x s) := by
  simp only [List.forall_mem_cons, List.not_mem_nil, false_implies, implies_true, and_true]
  exact ⟨
    (run_waitsFirst : WaitsFirst p s (execEndF ..)), (run_waitsFirst : WaitsFirst p s (execSend ..)),
    (run_waitsFirst : WaitsFirst p s (execFork ..)), (run_waitsFirst : WaitsFirst p s (execYield ..)),
    (run_waitsFirst : WaitsFirst p s (execHEn ..)), (run_waitsFirst : WaitsFirst p s (execInPop ..)),
    (run_waitsFirst : WaitsFirst p s (execCp ..)), (run_waitsFirst : WaitsFirst p s (execCpTry ..)),
    (run_waitsFirst : WaitsFirst p s (execSlvBegin ..)), (run_waitsFirst : WaitsFirst p s (execSlvEnd ..))⟩

theorem systemChains_waitFirst (p : Pfx) (d a : BitVec 5) (c e : BitVec 4) (s : State) :
    ∀ x ∈ ([.rsr p d a, .wsr p d a, .kcallSliceEnd p a, .kcallOther p a, .tret p, .tretSkip p, .cslInst p c e, .cslBind p c e,
      .pairOn p d a, .brk p a, .ctxSv p c, .accLd p c, .idle p] : List Instr), WaitsFirst p s (exec x s) := by
  simp only [List.forall_mem_cons, List.not_mem_nil, false_implies, implies_true, and_true]
  exact ⟨
    (run_waitsFirst : WaitsFirst p s (execRsr ..)), (run_waitsFirst : WaitsFirst p s (execWsr ..)),
    (run_waitsFirst : WaitsFirst p s (execKcallSliceEnd ..)), (run_waitsFirst : WaitsFirst p s (execKcallOther ..)),
    (run_waitsFirst : WaitsFirst p s (execTret ..)), (run_waitsFirst : WaitsFirst p s (execTretSkip ..)),
    (run_waitsFirst : WaitsFirst p s (execCslInst ..)), (run_waitsFirst : WaitsFirst p s (execCslBind ..)),
    (run_waitsFirst : WaitsFirst p s (execPairOn ..)), (run_waitsFirst : WaitsFirst p s (execBrk ..)),
    (run_waitsFirst : WaitsFirst p s (execCtxSv ..)), (run_waitsFirst : WaitsFirst p s (execAccLd ..)),
    (run_waitsFirst : WaitsFirst p s (execIdle ..))⟩

theorem chains_waitFirst (p : Pfx) (d a : BitVec 5) (c e : BitVec 4) (h k : BitVec 3) (m : MemOp) (off : BitVec 10) (s : State) :
    ∀ x ∈ ([.add p d a, .mul p d a, .cmpi p d a, .clz p d, .loop p d a, .b p off, .beq p off, .call p c e, .jmp p c,
      .cMv p c e, .cSetb p c a, .cInv p c e, .cLd p c m, .cPaint p c a, .ldW p d m, .stD p d m, .vLd p d m, .vSct p d m,
      .kSt p h m, .wsQ p d m, .amAdd p d m, .amUpdOr p d m, .swWait p d m, .barArv p d a, .mbPut p d a, .fence p d a,
      .vAdd p d a, .vMul p d a, .vFeq p d a, .kAnd p h k, .vRsum p d a, .vPerm p d a, .t8Ld p m, .kPop p d h,
      .mLds p d m, .mSwap p, .mDrain p, .mQ p d, .endF p, .send p d a, .fork p d a, .yield p, .hEn p a, .inPop p d a,
      .cp p c e, .cpTry p c e, .slvBegin p c e, .slvEnd p, .rsr p d a, .wsr p d a, .kcallSliceEnd p a, .kcallOther p a,
      .tret p, .tretSkip p, .cslInst p c e, .cslBind p c e, .pairOn p d a, .brk p a, .ctxSv p c, .accLd p c,
      .idle p] : List Instr), WaitsFirst p s (exec x s) :=
  List.forall_mem_append.mpr ⟨scalarChains_waitFirst p d a c e m off s,
    List.forall_mem_append.mpr ⟨memoryChains_waitFirst p d a h m s,
      List.forall_mem_append.mpr ⟨vectorChains_waitFirst p d a h k m s,
        List.forall_mem_append.mpr ⟨taskChains_waitFirst p d a c e s, systemChains_waitFirst p d a c e s⟩⟩⟩⟩

/-! ## Repeat counts (R90) -/

/-- The count that a repeated chain goes by: what RCNT has of a begun one, else the one it carries itself. -/
def State.repeatsOf (s : State) (q : RepPfx) : Nat :=
  if s.reg.rcnt.remain = 0 then s.reg.repCount q.count else s.reg.rcnt.done.toNat + s.reg.rcnt.remain.toNat

/-- A count of 0 performs nothing, and a count out of range gives REP.RANGE. -/
def Counts (p : Pfx) (q : RepPfx) (d a : BitVec 5) (paged : Bool) (s : State) (o : Host.Outcome State Fault Refusal) : Prop :=
  (s.repeatsOf q = 0 → o = .next (s.past p paged)) ∧
    (65535 < s.repeatsOf q ∨ (q.step1 = true ∧ 32 < d.toNat + s.repeatsOf q) ∨ (q.step2 = true ∧ 32 < a.toNat + s.repeatsOf q) →
      o = .next (s.raise Code.repRange 0))

theorem runRep_counts {p : Pfx} {q : RepPfx} {d a : BitVec 5} {paged : Bool} {s : State}
    {body : Nat → BitVec 5 → BitVec 5 → State → Res} (hr : p.rep = some q) (hf : s.free p) :
    Counts p q d a paged s (runRep p paged 32 d 32 a s body) := by
  obtain ⟨hidle, hstop⟩ := hf
  have hn : (if s.reg.rcnt.remain != 0 then s.reg.rcnt.done.toNat + s.reg.rcnt.remain.toNat else s.reg.repCount q.count) =
      s.repeatsOf q := by
    by_cases h0 : s.reg.rcnt.remain = 0 <;> simp [State.repeatsOf, h0]
  unfold Counts runRep
  simp only [hr, hidle, hstop, hn]
  constructor
  · intro h
    simp [h]
  · intro h
    have hd := d.isLt
    have ha := a.isLt
    have h0 : s.repeatsOf q ≠ 0 := by omega
    have hbad : (decide (65535 < s.repeatsOf q) || passesFile q.step1 32 d (s.repeatsOf q) ||
        passesFile q.step2 32 a (s.repeatsOf q)) = true := by
      simp only [passesFile, Bool.or_eq_true, Bool.and_eq_true, decide_eq_true_eq]
      tauto
    simp [h0, hbad]

theorem alu_counts {p : Pfx} {q : RepPfx} {d a : BitVec 5} {s : State} {f : Word → Word → Word} (hr : p.rep = some q)
    (hf : s.free p) : Counts p q d a false s (alu p d a s f) :=
  runRep_counts hr hf

theorem mulDiv_counts {p : Pfx} {q : RepPfx} {d a : BitVec 5} {s : State} {f : Word → Word → Word} (hr : p.rep = some q)
    (hf : s.free p) : Counts p q d a false s (mulDiv p d a s f) :=
  runRep_counts hr hf

theorem vecBin_counts {p : Pfx} {q : RepPfx} {d a : BitVec 5} {s : State} {f : Lane → Lane → Lane} (hr : p.rep = some q)
    (hf : s.free p) : Counts p q d a true s (vecBin p d a s f) :=
  runRep_counts hr hf

theorem vecUn_counts {p : Pfx} {q : RepPfx} {d a : BitVec 5} {s : State} {f : Lane → Lane} (hr : p.rep = some q)
    (hf : s.free p) : Counts p q d a true s (vecUn p d a s f) :=
  vecBin_counts hr hf

theorem vecFused_counts {p : Pfx} {q : RepPfx} {d a : BitVec 5} {sub : Bool} {s : State} (hr : p.rep = some q)
    (hf : s.free p) : Counts p q d a true s (vecFused p d a sub s) :=
  runRep_counts hr hf

theorem reduceLanes_counts {p : Pfx} {q : RepPfx} {d a : BitVec 5} {s : State} {op : Lane → Lane → Lane} {empty : Lane}
    (hr : p.rep = some q) (hf : s.free p) : Counts p q d a true s (reduceLanes p d a s op empty) :=
  runRep_counts hr hf

theorem scalarChains_count {p : Pfx} {q : RepPfx} (d a : BitVec 5) {s : State} (hr : p.rep = some q) (hf : s.free p) :
    ∀ x ∈ ([.mv p d a, .add p d a, .mul p d a, .div p d a, .shl p d a, .cmp p d a] : List Instr),
      Counts p q d a false s (exec x s) := by
  simp only [List.forall_mem_cons, List.not_mem_nil, false_implies, implies_true, and_true]
  exact ⟨
    (alu_counts hr hf : Counts p q d a false s (execMv ..)), (alu_counts hr hf : Counts p q d a false s (execAdd ..)),
    (mulDiv_counts hr hf : Counts p q d a false s (execMul ..)),
    (mulDiv_counts hr hf : Counts p q d a false s (execDiv ..)), (alu_counts hr hf : Counts p q d a false s (execShl ..)),
    (runRep_counts hr hf : Counts p q d a false s (execCmp ..))⟩

theorem vectorChains_count {p : Pfx} {q : RepPfx} (d a : BitVec 5) {s : State} (hr : p.rep = some q) (hf : s.free p) :
    ∀ x ∈ ([.vMv p d a, .vAdd p d a, .vFma p d a, .vIadd p d a, .vRcp p d a, .vRsum p d a] : List Instr),
      Counts p q d a true s (exec x s) := by
  simp only [List.forall_mem_cons, List.not_mem_nil, false_implies, implies_true, and_true]
  exact ⟨
    (vecUn_counts hr hf : Counts p q d a true s (execVMv ..)), (vecBin_counts hr hf : Counts p q d a true s (execVAdd ..)),
    (vecFused_counts hr hf : Counts p q d a true s (execVFma ..)),
    (vecBin_counts hr hf : Counts p q d a true s (execVIadd ..)),
    (vecUn_counts hr hf : Counts p q d a true s (execVRcp ..)),
    (reduceLanes_counts hr hf : Counts p q d a true s (execVRsum ..))⟩

/-! ## The settle bit (R50) -/

@[simp] theorem RegSet.fallThrough_pending (r : RegSet) (len : Nat) : (r.fallThrough len).pending = r.pending := by
  unfold RegSet.fallThrough
  rcases h : loopEnd r.loops (portable r.pcc.addr + len) with ⟨_ | _, _⟩ <;> simp only [h] <;> rfl

theorem State.past_parked (s : State) (p : Pfx) (paged : Bool) :
    (s.past p paged).reg.parked = (p.settle && !s.reg.pending.isEmpty) := by
  simp [State.past]

/-- A register set of a loaded context, or Halo's state, is the current one's where it is the current set. -/
theorem State.regOf_cur (s : State) (h : s.cur.set = .keeper ∨ (s.tile s.cur.tile).loaded.isSome = true) :
    s.regOf s.cur.tile s.cur.set = s.reg := by
  cases hk : s.cur.set with
  | keeper => simp [State.regOf, State.reg, hk]
  | _ =>
    obtain ⟨c, hc⟩ := Option.isSome_iff_exists.mp (h.resolve_left (by simp [hk]))
    simp [State.regOf, State.reg, State.tctx, State.ctxn, hk, hc]

/-- A parked set issues nothing. -/
theorem State.canIssue_of_parked (s : State) (h : s.reg.parked = true) : s.canIssue s.cur = false := by
  have hr := s.regOf_cur
  unfold State.canIssue
  simp only []
  split
  · rfl
  · cases hk : s.cur.set with
    | keeper =>
      have hp : (s.tile s.cur.tile).keeper.parked = true := by simpa [State.reg, hk] using h
      simp [hp]
    | _ =>
      rw [hk] at hr
      cases hl : (s.tile s.cur.tile).loaded with
      | none => simp
      | some c => simp [hr (.inr (by simp [hl])), RegSet.active, h]

/-! ## Privilege (R275) -/

theorem run_atPriv_below {p : Pfx} {paged : Bool} {l : Priv} {s : State} {body : State → Res} (hf : s.free p)
    (hl : privLevel s.priv < privLevel l) :
    run p paged s (fun s => atPriv l s body) = .next (s.raise Code.kprPriv 0) := by
  rw [run_free p paged s _ hf, atPriv_below l s body hl, Res.finish_trap]

theorem keeperChains_below {p : Pfx} (d a : BitVec 5) (c : BitVec 4) {s : State} (hf : s.free p) (hp : s.priv ≠ .keeper) :
    ∀ x ∈ ([.cPaint p c a, .cSweep p d a, .cSweepq p d a, .ctxSv p c, .ctxLd p c a, .accSv p c,
      .accLd p c, .pairOn p d a, .pairOff p d, .idle p] : List Instr), exec x s = .next (s.raise Code.kprPriv 0) := by
  have hl : privLevel s.priv < privLevel .keeper := by
    cases hs : s.priv <;> simp_all [privLevel]
  simp only [List.forall_mem_cons, List.not_mem_nil, false_implies, implies_true, and_true]
  exact ⟨
    (run_atPriv_below hf hl : execCPaint .. = _), (run_atPriv_below hf hl : execCSweep .. = _),
    (run_atPriv_below hf hl : execCSweepq .. = _), (run_atPriv_below hf hl : execCtxSv .. = _),
    (run_atPriv_below hf hl : execCtxLd .. = _), (run_atPriv_below hf hl : execAccSv .. = _),
    (run_atPriv_below hf hl : execAccLd .. = _), (run_atPriv_below hf hl : execPairOn .. = _),
    (run_atPriv_below hf hl : execPairOff .. = _), (run_atPriv_below hf hl : execIdle .. = _)⟩

theorem supervisorChains_below {p : Pfx} (d a : BitVec 5) (m : MemOp) {s : State} (hf : s.free p) (hp : s.priv = .user) :
    ∀ x ∈ ([.amUpdAdd p d m, .amUpdOr p d m, .amUpdAnd p d m, .amUpdXor p d m, .amUpdMin p d m,
      .amUpdMax p d m, .amUpdFadd p d m, .cpRsm p d a] : List Instr), exec x s = .next (s.raise Code.kprPriv 0) := by
  have hl : privLevel s.priv < privLevel .supervisor := by
    simp [hp, privLevel]
  simp only [List.forall_mem_cons, List.not_mem_nil, false_implies, implies_true, and_true]
  exact ⟨
    (run_atPriv_below hf hl : execAmUpdAdd .. = _), (run_atPriv_below hf hl : execAmUpdOr .. = _),
    (run_atPriv_below hf hl : execAmUpdAnd .. = _), (run_atPriv_below hf hl : execAmUpdXor .. = _),
    (run_atPriv_below hf hl : execAmUpdMin .. = _), (run_atPriv_below hf hl : execAmUpdMax .. = _),
    (run_atPriv_below hf hl : execAmUpdFadd .. = _), (run_atPriv_below hf hl : execCpRsm .. = _)⟩

end Sys2Proof.Machine

open Sys2Proof.Machine in
/-- Settles O53: the waits, checks and counts of the two ways to perform a chain, run and runRep, at the chains that go by them. -/
theorem waitsAndRepeats : Obligations.WaitsAndRepeats := by
  unfold Obligations.WaitsAndRepeats
  refine ⟨fun s m => ⟨s.reg.tokensIdle_iff m, s.reg.tokensStopped_iff m⟩, fun p d a c e h k m off s x hx =>
    chains_waitFirst p d a c e h k m off s x hx, ?_, fun s p paged => ⟨s.past_parked p paged, s.canIssue_of_parked⟩, ?_⟩
  · intro p q d a paged s x hr hf hx
    rcases hx with ⟨rfl, hx⟩ | ⟨rfl, hx⟩
    · exact scalarChains_count d a hr hf x hx
    · exact vectorChains_count d a hr hf x hx
  · intro p d a c m s x hf
    exact ⟨fun hp hx => keeperChains_below d a c hf hp x hx, fun hp hx => supervisorChains_below d a m hf hp x hx⟩
end

section
/-! PROOFS. Bytes written to the quiescence counter (R339). -/

/-- Refutes O13: the quiescence counter is a memory without memory keys too, and a write to it is ignored (R339), so that a byte 1
written to it from reset does not read back. -/
theorem not_memoryReadsBackWrites : ¬ Obligations.MemoryReadsBackWrites := by
  unfold Obligations.MemoryReadsBackWrites
  intro h
  have hw := h Sys2Proof.Machine.State.reset 0 (6 * 2 ^ 64) [1] rfl (by decide) (by decide) (by decide)
  obtain ⟨-, hread, -⟩ := hw
  exact absurd (hread 0 0 (by decide)) (by decide)
end

section
/-! PROOFS. A completion record whose place lies beyond the host's keys (R339, R347). -/

namespace Sys2Proof.Machine

/-- A queue whose CTAIL is so large, which no clause of the statement rules out, that the place of its completion record is a key of the
quiescence counter: 2^64 + 32 * (5 * 2^59) = 6 * 2^64. Its ring of two records has room. -/
def State.farCtail : State := State.reset.setQueue 0 { Queue.reset with logsz := 1, ctail := 5 * 2 ^ 59 }

/-- The completion record of that queue is written nowhere. -/
theorem farCtail_finishRecord_mem : (State.farCtail.finishRecord 0 2 0 0 0 0).mem = State.reset.mem := by
  rfl

theorem farCtail_hasRoom :
    ¬ ((State.farCtail.queue 0).ctail + 1) % 2 ^ (State.farCtail.queue 0).logsz = (State.farCtail.queue 0).chead := by
  decide

end Sys2Proof.Machine

open Sys2Proof.Machine in
/-- Refutes O49: its first clause bounds neither CTAIL nor LOGSZ, and where 32 * CTAIL carries the place of the completion record out of
the host's keys into those of the quiescence counter, whose writes are ignored (R339), the record does not read back. -/
theorem not_queuesAndLaunches : ¬ Obligations.QueuesAndLaunches := by
  unfold Obligations.QueuesAndLaunches
  rintro ⟨hfinish, -⟩
  have h := hfinish State.farCtail 0 2 0 0 0 0 rfl rfl (by decide) (by decide) (by decide) (by decide)
  rw [if_neg farCtail_hasRoom] at h
  obtain ⟨-, -, -, -, hread⟩ := h
  rw [farCtail_finishRecord_mem] at hread
  exact absurd hread (by decide)
end

section
/-! PROOFS. The register files of the issuing set, read after a write (R23, R138). -/

namespace Sys2Proof.Machine

/-! ## What a write leaves in the file it writes -/

theorem State.s_setS_same (s : State) {i : BitVec 5} (h : i ≠ 0) (w : Word) : (s.setS i w).s i = w := by
  rw [State.s, State.setS, State.reg_setReg, RegSet.getS_setS_same _ _ _ h]

theorem State.s_setS_other (s : State) {i j : BitVec 5} (h : j ≠ i) (w : Word) : (s.setS i w).s j = s.s j := by
  rw [State.s, State.setS, State.reg_setReg, RegSet.getS_setS_other _ _ _ _ h, State.s]

theorem State.c_setC_same (s : State) {i : BitVec 4} (h : i ≠ 0) (x : Cap) : (s.setC i x).c i = x := by
  rw [State.c, State.setC, State.reg_setReg, RegSet.getC_setC_same _ _ _ h]

theorem State.c_setC_other (s : State) {i j : BitVec 4} (h : j ≠ i) (x : Cap) : (s.setC i x).c j = s.c j := by
  rw [State.c, State.setC, State.reg_setReg, RegSet.getC_setC_other _ _ _ _ h, State.c]

theorem State.k_setK_same (s : State) {i : BitVec 3} (h : i ≠ 0) (w : Word) : (s.setK i w).k i = w := by
  rw [State.k, State.setK, State.reg_setReg, RegSet.getK_setK_same _ _ _ h]

theorem State.k_setK_other (s : State) {i j : BitVec 3} (h : j ≠ i) (w : Word) : (s.setK i w).k j = s.k j := by
  rw [State.k, State.setK, State.reg_setReg, RegSet.getK_setK_other _ _ _ _ h, State.k]

theorem State.v_setV_same (s : State) (i : BitVec 5) (x : VReg) : (s.setV i x).v i = x := by
  rw [State.v, State.setV, State.reg_setReg, RegSet.getV_setV_same]

theorem State.v_setV_other (s : State) {i j : BitVec 5} (h : j ≠ i) (x : VReg) : (s.setV i x).v j = s.v j := by
  rw [State.v, State.setV, State.reg_setReg, RegSet.getV_setV_other _ _ _ _ h, State.v]

/-! ## The registers that discard writes -/

@[simp] theorem State.reg_setS_zero (s : State) (w : Word) : (s.setS 0 w).reg = s.reg := by
  rw [State.setS, State.reg_setReg]
  exact RegSet.setS_zero _ w

@[simp] theorem State.reg_setC_zero (s : State) (x : Cap) : (s.setC 0 x).reg = s.reg := by
  rw [State.setC, State.reg_setReg]
  exact RegSet.setC_zero _ x

@[simp] theorem State.reg_setK_zero (s : State) (w : Word) : (s.setK 0 w).reg = s.reg := by
  rw [State.setK, State.reg_setReg]
  exact RegSet.setK_zero _ w

/-- The register set after a completed chain is that of the state before the completion, moved on. -/
theorem State.reg_past_congr {s t : State} (h : t.reg = s.reg) (p : Pfx) (paged : Bool) : (t.past p paged).reg = (s.past p paged).reg := by
  simp only [State.past, State.reg_setReg, h]

/-- A chain that may be repeated and is not does what its body does at its own fields. -/
theorem runRep_once {p : Pfx} {paged : Bool} {size1 size2 : Nat} {f1 f2 : BitVec 5} {s : State}
    {body : Nat → BitVec 5 → BitVec 5 → State → Res} (hf : s.free p) (hr : p.rep = none) :
    runRep p paged size1 f1 size2 f2 s body = .next ((body 0 f1 f2 s).finish p paged) := by
  simp only [runRep, hr]
  exact run_free p paged s _ hf

theorem alu_once {p : Pfx} {d a : BitVec 5} {s : State} {f : Word → Word → Word} (hf : s.free p) (hr : p.rep = none) :
    alu p d a s f = .next (Res.finish p false (.done (s.setS d (f (s.s d) (s.s a))))) :=
  runRep_once hf hr

theorem maskOp_zero_once {p : Pfx} {a : BitVec 3} {s : State} {f : Word → Word → Word} (hf : s.free p) (hr : p.rep = none) :
    maskOp p 0 a s f = .next (Res.finish p true (.done (s.setK 0 (f (s.k 0) (s.k ((a.zeroExtend 5).extractLsb' 0 3)))))) :=
  runRep_once hf hr

/-- A chain whose whole effect leaves the register set as it is leaves the registers of one that only completes. -/
theorem reg_of_done {o : Host.Outcome State Fault Refusal} {p : Pfx} {paged : Bool} {s t : State}
    (h : o = .next (Res.finish p paged (.done t))) (ht : t.reg = s.reg) : ∃ u, o = .next u ∧ u.reg = (s.past p paged).reg :=
  ⟨t.past p paged, by rw [h, Res.finish_done], State.reg_past_congr ht p paged⟩

end Sys2Proof.Machine

open Sys2Proof.Machine in
/-- Settles O55: each file by its reads after writes; `add`, `c.mv` and `k.and` into register 0 by the writes that it discards. -/
theorem hardWiredRegisters : Obligations.HardWiredRegisters := by
  unfold Obligations.HardWiredRegisters
  refine ⟨fun s w x => ⟨s.reg.getS_zero, s.reg.getC_zero, s.reg.getK_zero, s.reg_setS_zero w, s.reg_setC_zero x, s.reg_setK_zero w⟩,
    fun s i j w hi => ⟨s.s_setS_same hi w, fun hj => s.s_setS_other hj w⟩,
    fun s i j x hi => ⟨s.c_setC_same hi x, fun hj => s.c_setC_other hj x⟩,
    fun s i j w hi => ⟨s.k_setK_same hi w, fun hj => s.k_setK_other hj w⟩,
    fun s i j x => ⟨s.v_setV_same i x, fun hj => s.v_setV_other hj x⟩, fun s p a e hf hr => ⟨?_, ?_, ?_⟩⟩
  · exact reg_of_done (alu_once hf hr : execAdd p 0 a s = _) (s.reg_setS_zero _)
  · exact reg_of_done (run_free p true s _ hf : execCMv p 0 e s = _) (s.reg_setC_zero _)
  · exact reg_of_done (maskOp_zero_once hf hr : execKAnd p 0 0 s = _) (s.reg_setK_zero _)
end

section
/-! PROOFS. What cold reset leaves, and the first step of bring-up (R24, R238, R393). -/

namespace Sys2Proof.Machine

/-! ## Torus words (R238) -/

/-- The fields of a torus word, from the low end: column, row, the gap up to the neighbour west, and the neighbour north. -/
theorem torusWord_fields {north west row col : Nat} (hn : north < 4096) (hw : west < 4096) (hr : row < 16) (hc : col < 16) :
    let w : Word := BitVec.ofNat 64 (north * 2 ^ 36 + west * 2 ^ 24 + row * 16 + col)
    (w.extractLsb' 0 4).toNat = col ∧ (w.extractLsb' 4 4).toNat = row ∧ w.extractLsb' 18 2 = 0#2 ∧
      (w.extractLsb' 24 12).toNat = west ∧ (w.extractLsb' 36 12).toNat = north := by
  have h36 : 2 ^ 36 = 68719476736 := by norm_num
  have h24 : 2 ^ 24 = 16777216 := by norm_num
  rw [h36, h24]
  intro w
  have hw' : w.toNat = north * 68719476736 + west * 16777216 + row * 16 + col := by
    rw [BitVec.toNat_ofNat, Nat.mod_eq_of_lt (by norm_num; omega)]
  have field (lo len : Nat) : (w.extractLsb' lo len).toNat =
      (north * 68719476736 + west * 16777216 + row * 16 + col) / 2 ^ lo % 2 ^ len := by
    rw [BitVec.extractLsb'_toNat, hw', Nat.shiftRight_eq_div_pow]
  refine ⟨?_, ?_, BitVec.eq_of_toNat_eq ?_, ?_, ?_⟩ <;> rw [field] <;> norm_num <;> omega

/-- Row and column of a partition's tile on its die. -/
theorem partTile_row {p i : Nat} (hi : i < 64) : partTile p i / 16 % 16 = p % 4 / 2 * 8 + i / 8 := by
  unfold partTile
  omega

theorem partTile_col {p i : Nat} : partTile p i % 16 = p % 2 * 8 + i % 8 := by
  unfold partTile
  omega

theorem partTile_lt {p i : Nat} (hp : p < 40) (hi : i < 64) : partTile p i < 4096 := by
  unfold partTile
  omega

/-- TORCFG of a tile in its own quadrant's torus, by the tile's place there: the neighbours lie one row up and one column left, around. -/
theorem ownTorcfg_partTile {p i : Nat} (hp : p < 40) (hi : i < 64) : ownTorcfg (partTile p i) =
    BitVec.ofNat 64 (partTile p ((i / 8 + 7) % 8 * 8 + i % 8) * 2 ^ 36 + partTile p (i / 8 * 8 + (i % 8 + 7) % 8) * 2 ^ 24 +
      i / 8 * 16 + i % 8) := by
  have hrow : (p % 4 / 2 * 8 + i / 8) % 8 = i / 8 := by omega
  have hcol : (p % 2 * 8 + i % 8) % 8 = i % 8 := by omega
  have hnorth : partTile p i - (p % 4 / 2 * 8 + i / 8) * 16 + ((p % 4 / 2 * 8 + i / 8) / 8 * 8 + (i / 8 + 7) % 8) * 16 =
      partTile p ((i / 8 + 7) % 8 * 8 + i % 8) := by
    unfold partTile
    omega
  have hwest : partTile p i - (p % 2 * 8 + i % 8) + ((p % 2 * 8 + i % 8) / 8 * 8 + (i % 8 + 7) % 8) =
      partTile p (i / 8 * 8 + (i % 8 + 7) % 8) := by
    unfold partTile
    omega
  simp only [ownTorcfg, partTile_row hi, partTile_col, hrow, hcol, hnorth, hwest]

theorem ownTorcfg_partTile_fields {p i : Nat} (hp : p < 40) (hi : i < 64) : let w := ownTorcfg (partTile p i)
    (w.extractLsb' 0 4).toNat = i % 8 ∧ (w.extractLsb' 4 4).toNat = i / 8 ∧ w.extractLsb' 18 2 = 0 ∧
      (w.extractLsb' 24 12).toNat = partTile p (i / 8 * 8 + (i % 8 + 7) % 8) ∧
      (w.extractLsb' 36 12).toNat = partTile p ((i / 8 + 7) % 8 * 8 + i % 8) := by
  rw [ownTorcfg_partTile hp hi]
  exact torusWord_fields (partTile_lt hp (by omega)) (partTile_lt hp (by omega)) (by omega) (by omega)

/-! ## The first step (R393) -/

/-- From reset nothing from outside waits and no set may issue: what comes next is BRING_UP. -/
theorem step_reset : step State.reset =
    .next (({ State.reset.advance with turn := true, cur := State.reset.advance.nextUnit } : State).atStage 1) := by
  rfl

/-! ## A register set after reset (R24, R280) -/

theorem RegSet.getS_reset (i : BitVec 5) : RegSet.reset.getS i = 0 := by
  simp [RegSet.getS, RegSet.reset]

theorem RegSet.getC_reset (i : BitVec 4) : RegSet.reset.getC i = Cap.null := by
  simp [RegSet.getC, RegSet.reset]

theorem RegSet.getV_reset (i : BitVec 5) : RegSet.reset.getV i = Vector.replicate 64 0 := by
  simp [RegSet.getV, RegSet.reset]

theorem RegSet.getK_reset {i : BitVec 3} (h : i ≠ 0) : RegSet.reset.getK i = 0 := by
  rw [RegSet.getK, if_neg h]
  simp [RegSet.reset]

theorem RegSet.token_reset (i : BitVec 3) : RegSet.reset.token i = { cnt := 0, stat := 0 } := by
  simp [RegSet.token, RegSet.reset]

theorem TileCtx.regs_reset (k : SetId) : TileCtx.reset.regs k = RegSet.reset := by
  cases k <;> rfl

theorem State.haloRuns_iff (s : State) (n : Nat) : s.haloRuns n = true ↔ s.tileExists n = true ∧ 7 ≤ s.status.stage := by
  simp [State.haloRuns]

end Sys2Proof.Machine

open Sys2Proof.Machine in
/-- Settles O56: the reset contents are those of the units that the empty maps stand for; the first step is BRING_UP, and the torus
words are read field by field. -/
theorem resetState : Obligations.ResetState := by
  unfold Obligations.ResetState
  refine ⟨⟨rfl, rfl, rfl, rfl, rfl, rfl, rfl⟩, ⟨_, step_reset, rfl, rfl⟩, State.haloRuns_iff,
    fun n => ⟨rfl, rfl, rfl, rfl, rfl, rfl, rfl⟩, fun p i hp hi => ownTorcfg_partTile_fields hp hi, fun p => ⟨rfl, rfl, rfl, rfl, rfl, rfl, rfl⟩, fun n => ⟨rfl, rfl⟩, ?_,
    ⟨rfl, rfl, rfl, rfl, rfl, rfl, rfl, rfl⟩⟩
  intro k
  rw [TileCtx.regs_reset]
  exact ⟨RegSet.getS_reset, RegSet.getC_reset, RegSet.getV_reset, fun i => RegSet.getK_reset, rfl, rfl, rfl, rfl, rfl, rfl, rfl,
    RegSet.token_reset⟩
end

section
/-! PROOFS. One step: the time it takes, what the outside brings, and the fetch of the chain at the program counter (R28, R39, R91, R107,
R319, R322, R380, R393). -/

namespace Sys2Proof.Machine

/-! ## Time, and what the outside brings -/

theorem State.clk_lt_advance (s : State) : s.clk < s.advance.clk :=
  Nat.lt_of_lt_of_le (Nat.lt_succ_self s.clk) (Nat.le_add_right _ _)

@[simp] theorem State.advance_reg (s : State) : s.advance.reg = s.reg := rfl
@[simp] theorem State.advance_agenda (s : State) : s.advance.agenda = s.agenda := rfl

theorem State.heeds_iff (s : State) (i : Instr) :
    s.heeds i = true ↔ s.status.ready = true ∨ i = .coldReset ∨ ∃ a acc, i = .hostMemAccess a acc := by
  unfold State.heeds
  split
  · simp
  · simp
  · next hcold hhost =>
    have hh : ¬ ∃ a acc, i = .hostMemAccess a acc := fun ⟨a, acc, h⟩ => hhost a acc h
    exact ⟨.inl, fun h => h.resolve_right (fun h' => h'.elim hcold hh)⟩

/-- An event of the outside that the device takes. -/
theorem step_of_heeded {s : State} {i : Instr} {rest : List Instr} (h : s.agenda = i :: rest) (hi : s.heeds i = true) :
    step s = exec i { s.advance with agenda := rest } := by
  have hi' : s.advance.heeds i = true := hi
  simp only [step, State.advance_agenda, h, hi', if_true]

/-- An event of the outside to which it is deaf. -/
theorem step_of_unheeded {s : State} {i : Instr} {rest : List Instr} (h : s.agenda = i :: rest) (hi : s.heeds i = false) :
    step s = .next { s.advance with agenda := rest } := by
  have hi' : s.advance.heeds i = false := hi
  simp only [step, State.advance_agenda, h, hi', Bool.false_eq_true, if_false]

/-! ## The chain of the set whose turn it is -/

section
variable {s : State} (hagenda : s.agenda = []) (hturn : s.turn = true) (hissue : s.advance.canIssue s.cur = true)

include hturn hissue in
theorem State.next_of_turn : s.advance.next = s.advance.issue := by
  have ht : s.advance.turn = true := hturn
  have hi : s.advance.canIssue s.advance.cur = true := hissue
  simp [State.next, ht, hi]

include hagenda hturn hissue

theorem step_of_issue_quiet {u : State} (h : s.advance.issue = .quiet u) : step s = .next u := by
  simp only [step, State.advance_agenda, hagenda, State.next_of_turn hturn hissue, h]

theorem step_of_issue_exec {i : Instr} {u : State} (h : s.advance.issue = .exec i u) : step s = chained u i (exec i u) := by
  simp only [step, State.advance_agenda, hagenda, State.next_of_turn hturn hissue, h]

end

/-- On a tile of no pair a chain has no part in a pair's checks (R385). -/
theorem chained_of_no_partner {t : State} (h : t.partner t.cur.tile = none) (i : Instr) (o : Host.Outcome State Fault Refusal) :
    chained t i o = o := by
  cases o with
  | next u => simp [chained, State.retire, h]
  | _ => rfl

@[simp] theorem State.partner_setReg (s : State) (r : RegSet) (n : Nat) : (s.setReg r).partner n = s.partner n := by
  have hpair : ((s.setReg r).tile n).pair = (s.tile n).pair := by
    by_cases hn : n = s.cur.tile
    · subst hn
      by_cases hk : s.cur.set = .keeper
      · simp [State.setReg_keeper s r hk]
      · simp [State.setReg_live s r hk, State.setTctx, State.setTctxOf]
    · by_cases hk : s.cur.set = .keeper
      · rw [State.setReg_keeper s r hk, State.tile_setTile_other _ _ _ _ hn]
      · rw [State.setReg_live s r hk, State.setTctx, State.setTctxOf, State.tile_setTile_other _ _ _ _ hn]
  simp only [State.partner, hpair]

/-! ## The checks of the program counter (R107) -/

theorem and_need_permEX (x : BitVec 12) : (x &&& need [permEX] != need [permEX]) = !x.getLsbD 2 := by
  have hn : need [permEX] = BitVec.twoPow 12 2 := by decide
  rw [hn, BitVec.and_twoPow]
  cases x.getLsbD 2 <;> decide

theorem Cap.checkAccess_of_untagged {c : Cap} (h : c.tag = false) (a n : Nat) (mask : BitVec 12) :
    c.checkAccess a n mask = some Code.capTag := by
  simp [Cap.checkAccess, Cap.checkKind, h]

theorem Cap.checkAccess_of_sealed {c : Cap} (ht : c.tag = true) (h : c.otype ≠ 0) (a n : Nat) (mask : BitVec 12) :
    c.checkAccess a n mask = some Code.capSeal := by
  have hs : c.sealed = true := by simpa [Cap.sealed] using h
  simp [Cap.checkAccess, Cap.checkKind, ht, hs]

/-- An unsealed capability, asked for EX. -/
theorem Cap.checkKind_of_unsealed {c : Cap} (ht : c.tag = true) (ho : c.otype = 0) :
    c.checkKind (need [permEX]) = if c.perms.getLsbD 2 = true then none else some Code.capPerm := by
  have hs : c.sealed = false := by simp [Cap.sealed, ho]
  unfold Cap.checkKind
  rw [ht, hs, and_need_permEX]
  cases c.perms.getLsbD 2 <;> rfl

theorem Cap.checkAccess_of_not_executable {c : Cap} (ht : c.tag = true) (ho : c.otype = 0) (h : c.perms.getLsbD 2 = false) (a n : Nat) :
    c.checkAccess a n (need [permEX]) = some Code.capPerm := by
  rw [Cap.checkAccess, Cap.checkKind_of_unsealed ht ho, h]
  rfl

theorem Cap.checkAccess_of_executable {c : Cap} (ht : c.tag = true) (ho : c.otype = 0) (h : c.perms.getLsbD 2 = true) (a n : Nat) :
    c.checkAccess a n (need [permEX]) = if c.base ≤ a ∧ a + n ≤ c.top then none else some Code.capBound := by
  rw [Cap.checkAccess, Cap.checkKind_of_unsealed ht ho, h]
  simp [Cap.within]

/-! ## The fetch -/

/-- The checks of R107 pass for a halfword at the program counter. -/
def RegSet.mayFetch (r : RegSet) : Prop := r.pcc.checkAccess r.pcc.addr 2 (need [permEX]) = none

theorem State.fetch_of_check {s : State} {e : BitVec 16} (h : s.reg.pcc.checkAccess s.reg.pcc.addr 2 (need [permEX]) = some e) :
    s.fetch = .trap e := by
  simp only [State.fetch, h]

theorem State.fetch_of_no_section {s : State} (h : s.reg.mayFetch) (hs : s.sectionAt s.reg.pcc.addr = none) :
    s.fetch = .trap Code.capBound := by
  unfold RegSet.mayFetch at h
  simp only [State.fetch, h, hs]

section
variable {s : State} {n : Nat} {sec : Section} {k : Capsule} (hmay : s.reg.mayFetch)
  (hs : s.sectionAt s.reg.pcc.addr = some (n, sec)) (hk : Map.get? s.capsules n = some k)

/-- The halfwords of a section from an address on. -/
def Section.halvesFrom (sec : Section) (a : Nat) : List Half := sec.code.drop (portable a / 2)

/-- Contrail's breakpoint stops a set before the chain at its program counter (R322). -/
def State.stopsAt (s : State) (sec : Section) (k : Capsule) : Prop :=
  let a := s.reg.pcc.addr
  s.tctx.dbg = true ∧ s.reg.brkPassed = false ∧ s.reg.begun (sec.halvesFrom a) = false ∧ (a / 2 ^ 28 % 16, portable a) ∈ k.breaks

theorem State.stopsAt_iff (s : State) (sec : Section) (k : Capsule) : s.stopsAt sec k ↔
    (s.tctx.dbg && !s.reg.brkPassed && !s.reg.begun (sec.code.drop (portable s.reg.pcc.addr / 2)) &&
      k.breaks.contains (s.reg.pcc.addr / 2 ^ 28 % 16, portable s.reg.pcc.addr)) = true := by
  simp only [State.stopsAt, Section.halvesFrom, Bool.and_eq_true, Bool.not_eq_true', List.contains_iff_mem, and_assoc]

include hmay hs in
theorem State.fetch_of_past_end (he : 2 * sec.code.length ≤ portable s.reg.pcc.addr) : s.fetch = .trap Code.capBound := by
  unfold RegSet.mayFetch at hmay
  simp only [State.fetch, hmay, hs, he, if_true]

include hmay hs hk in
theorem State.fetch_of_void (he : portable s.reg.pcc.addr < 2 * sec.code.length) (hv : k.void = true) : s.fetch = .trap Code.cslVoid := by
  unfold RegSet.mayFetch at hmay
  simp only [State.fetch, hmay, hs, hk, hv, Nat.not_le.mpr he, if_true, if_false]

include hmay hs hk in
theorem State.fetch_of_stopsAt (he : portable s.reg.pcc.addr < 2 * sec.code.length) (hv : k.void = false) (hb : s.stopsAt sec k) :
    s.fetch = .breakpoint := by
  unfold RegSet.mayFetch at hmay
  rw [State.stopsAt_iff] at hb
  simp only [State.fetch, hmay, hs, hk, hv, Nat.not_le.mpr he, hb, Bool.false_eq_true, if_true, if_false]

include hmay hs hk in
theorem State.fetch_of_decode (he : portable s.reg.pcc.addr < 2 * sec.code.length) (hv : k.void = false) (hb : ¬ s.stopsAt sec k)
    {i : Instr} {rest : List Half} (hi : decode (sec.halvesFrom s.reg.pcc.addr) = .ok (i, rest)) : s.fetch = .instr i := by
  unfold RegSet.mayFetch at hmay
  unfold Section.halvesFrom at hi
  rw [State.stopsAt_iff, Bool.not_eq_true] at hb
  simp only [State.fetch, hmay, hs, hk, hv, Nat.not_le.mpr he, hb, hi, Bool.false_eq_true, if_false]

end

/-! ## What the set does with what it has fetched -/

theorem State.issue_of_trap {s : State} {e : BitVec 16} (h : s.fetch = .trap e) :
    s.issue = .quiet { s.raise e s.reg.pcc.addrW with turn := false } := by
  simp only [State.issue, h]

theorem State.issue_of_breakpoint {s : State} (h : s.fetch = .breakpoint) : s.issue =
    .quiet { (s.setReg { s.reg with debugStop := true, waiting := false }).wake s.cur.tile with turn := false } := by
  simp only [State.issue, h]

theorem State.issue_of_bad {s : State} {i : Instr} {k j : Nat} (h : s.fetch = .instr i) (hb : s.badOperand i = some (k, j)) :
    s.issue = .quiet { s.badChain i k j with turn := false } := by
  simp only [State.issue, h, hb]

theorem State.issue_of_instr {s : State} {i : Instr} (h : s.fetch = .instr i) (hb : s.badOperand i = none) :
    s.issue = .exec i { s.setReg { s.reg with brkPassed := false, moved := false } with turn := false } := by
  simp only [State.issue, h, hb]

/-- Halo's wake leaves the registers of the issuing set. -/
@[simp] theorem State.reg_wake (s : State) : (s.wake s.cur.tile).reg = s.reg := by
  cases hk : s.cur.set <;> simp [State.wake, State.reg, State.tctx, State.tctxOf, State.ctxn, Tile.tctx, hk]

/-! ## The step of a set whose turn it is -/

section
variable {s : State} (hagenda : s.agenda = []) (hturn : s.turn = true) (hissue : s.advance.canIssue s.cur = true)
include hagenda hturn hissue

theorem step_of_fetch_trap {code : BitVec 16} (h : s.advance.fetch = .trap code) :
    step s = .next { s.advance.raise code s.reg.pcc.addrW with turn := false } :=
  step_of_issue_quiet hagenda hturn hissue (State.issue_of_trap h)

theorem step_of_fetch_breakpoint (h : s.advance.fetch = .breakpoint) : ∃ u, step s = .next u ∧ u.mem = s.mem ∧
    u.reg = { s.reg with debugStop := true, waiting := false } ∧ (u.tile s.cur.tile).idle = false := by
  refine ⟨_, step_of_issue_quiet hagenda hturn hissue (State.issue_of_breakpoint h), ?_, ?_, ?_⟩
  · show ((s.advance.setReg _).wake s.advance.cur.tile).mem = s.mem
    rw [State.wake_mem, State.setReg_mem, State.advance_mem]
  · show ((s.advance.setReg _).wake s.advance.cur.tile).reg = _
    rw [← State.setReg_cur s.advance, State.reg_wake, State.reg_setReg, State.advance_reg]
  · show (((s.advance.setReg _).wake s.advance.cur.tile).tile s.advance.cur.tile).idle = false
    rw [State.wake, State.tile_setTile]

theorem step_of_fetch_bad {i : Instr} {k j : Nat} (h : s.advance.fetch = .instr i) (hb : s.advance.badOperand i = some (k, j)) :
    step s = .next { s.advance.badChain i k j with turn := false } :=
  step_of_issue_quiet hagenda hturn hissue (State.issue_of_bad h hb)

theorem step_of_fetch_instr (hpartner : s.partner s.cur.tile = none) {i : Instr} (h : s.advance.fetch = .instr i)
    (hb : s.advance.badOperand i = none) :
    step s = exec i { s.advance.setReg { s.reg with brkPassed := false, moved := false } with turn := false } := by
  rw [step_of_issue_exec hagenda hturn hissue (State.issue_of_instr h hb), chained_of_no_partner, State.advance_reg]
  show (s.advance.setReg _).partner (s.advance.setReg _).cur.tile = none
  rw [State.setReg_cur, State.partner_setReg]
  exact hpartner

end

/-! ## Registers with errors (R380, R382) -/

/-- A chain consumes an error of a register that holds one, once its token wait is over and no token stops it. -/
theorem State.badOperand_cases {s : State} {i : Instr} (h : s.badOperand i ≠ none) : ∃ j k, j ∈ s.reg.bad ∧ s.badOperand i = some (k, j) ∧
    s.reg.tokensIdle (prefixesOf i).1.tokens = true ∧ s.reg.tokensStopped (prefixesOf i).1.tokens = false := by
  obtain ⟨q, hq⟩ := Option.ne_none_iff_exists'.mp h
  have hq' := hq
  unfold State.badOperand at hq'
  cases ho : s.operandsNow i with
  | none => simp [ho] at hq'
  | some x =>
    obtain ⟨k, rd⟩ := x
    simp only [ho, Option.map_eq_some_iff] at hq'
    obtain ⟨j, hj, rfl⟩ := hq'
    refine ⟨j, k, List.mem_of_find?_eq_some hj, hq, ?_⟩
    unfold State.operandsNow at ho
    by_contra hf
    have hw : (!s.reg.tokensIdle (prefixesOf i).1.tokens || s.reg.tokensStopped (prefixesOf i).1.tokens) = true := by
      cases h1 : s.reg.tokensIdle (prefixesOf i).1.tokens <;> cases h2 : s.reg.tokensStopped (prefixesOf i).1.tokens <;> simp_all
    simp [hw] at ho

/-- In a pinned firing of no pager it raises DATA.UNC with the elements before it done (R91). -/
theorem State.badChain_of_pinned {s : State} {f : Firing} (hset : s.cur.set ≠ .keeper) (hpager : s.isPager s.cur.tile s.ctxn = false)
    (hf : s.fir = some f) (hp : f.pinned = true) (i : Instr) (k j : Nat) : s.badChain i k j =
      (s.setReg { s.reg with rcnt := if (prefixesOf i).1.rep = none then s.reg.rcnt else
        { done := BitVec.ofNat 16 k, remain := BitVec.ofNat 16 (s.reg.elements (prefixesOf i).1 - k) } }).raise Code.dataUnc
          (BitVec.ofNat 64 noAddr) := by
  cases hr : (prefixesOf i).1.rep <;> simp [State.badChain, State.badRead, hset, hpager, hf, hp, hr]

end Sys2Proof.Machine

open Sys2Proof.Machine in
/-- Settles O57: what the outside brings by whether the device heeds it, the fetch by its checks in their order, and the chain that passes
them by whether it reads a register with an error. -/
theorem stepRunsDecodedInstruction : Obligations.StepRunsDecodedInstruction := by
  unfold Obligations.StepRunsDecodedInstruction
  refine ⟨fun s i rest h => ⟨fun hi => step_of_heeded h ((s.heeds_iff i).mpr hi), fun hr hc hh => step_of_unheeded h ?_⟩,
    fun s => ⟨s.clk_lt_advance, rfl, rfl⟩, fun s i => State.badOperand_cases,
    fun s i k j f hset hpager hf hp => State.badChain_of_pinned hset hpager hf hp i k j, ?_⟩
  · rw [Bool.eq_false_iff, Ne, State.heeds_iff]
    rintro (h | h | ⟨a, acc, h⟩)
    · simp [hr] at h
    · exact hc h
    · exact hh a acc h
  intro s t hagenda hturn hissue hpartner r a fails
  have trap {code : BitVec 16} (h : t.fetch = .trap code) : fails code := step_of_fetch_trap hagenda hturn hissue h
  refine ⟨fun ht => trap (State.fetch_of_check (Cap.checkAccess_of_untagged ht _ _ _)),
    fun ht ho => trap (State.fetch_of_check (Cap.checkAccess_of_sealed ht ho _ _ _)),
    fun ht ho hp => trap (State.fetch_of_check (Cap.checkAccess_of_not_executable ht ho hp _ _)), fun ht ho hp => ?_⟩
  have hcheck := Cap.checkAccess_of_executable ht ho hp a 2
  refine ⟨fun hout => ?_, fun n sec k hlow hhigh hsec hk => ?_⟩
  · by_cases hin : r.pcc.base ≤ a ∧ a + 2 ≤ r.pcc.top
    · rw [if_pos hin] at hcheck
      refine trap (State.fetch_of_no_section hcheck ?_)
      exact hout.elim (fun h => by omega) (fun h => h.resolve_left (by omega))
    · rw [if_neg hin] at hcheck
      exact trap (State.fetch_of_check hcheck)
  · rw [if_pos ⟨hlow, hhigh⟩] at hcheck
    refine ⟨fun he => trap (State.fetch_of_past_end hcheck hsec he), fun he hv => trap (State.fetch_of_void hcheck hsec hk he hv),
      fun he hv => ⟨fun hb => ?_, fun hb i rest hi => ?_⟩⟩
    · exact step_of_fetch_breakpoint hagenda hturn hissue (State.fetch_of_stopsAt hcheck hsec hk he hv hb)
    · have hfetch : t.fetch = .instr i := State.fetch_of_decode hcheck hsec hk he hv hb hi
      exact ⟨step_of_fetch_instr hagenda hturn hissue hpartner hfetch, fun k j => step_of_fetch_bad hagenda hturn hissue hfetch⟩
end

section
/-! PROOFS. An image stored under the ephemeral key (R31, R280): what it writes, and a staging byte that lies beyond the save area. -/

namespace Sys2Proof.Machine

/-! ## What storing an image leaves -/

/-- What a state has beside its bytes, their tags and their keys: tiles, contexts and bindings. -/
def State.units (s : State) : Map Tile × Map Context × List Binding := (s.tiles, s.contexts, s.binds)

@[simp] theorem State.foldl_units {α : Type} (f : State → α → State) (l : List α) (s : State)
    (h : ∀ t a, (f t a).units = t.units) : (l.foldl f s).units = s.units := by
  induction l generalizing s with
  | nil => rfl
  | cons a l ih => rw [List.foldl_cons, ih, h]

@[simp] theorem State.rekeyLine_units (s : State) (key line : Nat) : (s.rekeyLine key line).units = s.units := by
  simp [State.rekeyLine, State.units, apply_ite State.tiles, apply_ite State.contexts, apply_ite State.binds]

@[simp] theorem State.rekey_units (s : State) (key a n : Nat) : (s.rekey key a n).units = s.units := by
  unfold State.rekey
  split <;> simp

@[simp] theorem State.cleanse_units (s : State) (p : Nat → Bool) : (s.cleanse p).units = s.units := by
  unfold State.cleanse
  split <;> rfl

@[simp] theorem State.putBytes_units (s : State) (a : Nat) (bs : List Byte) : (s.putBytes a bs).units = s.units :=
  s.cleanse_units _

@[simp] theorem State.clearKeys_units (s : State) (lo n : Nat) : (s.clearKeys lo n).units = s.units :=
  s.cleanse_units _

@[simp] theorem State.writeBytes_units (s : State) (key a : Nat) (bs : List Byte) :
    (s.writeBytes key a bs).units = s.units := by
  unfold State.writeBytes
  split <;> simp

@[simp] theorem State.storeImage_units (s : State) (base : Nat) (im : Image) : (s.storeImage base im).units = s.units := by
  refine State.foldl_units _ _ s (fun t d => ?_)
  have hw := t.writeBytes_units deviceKey (base + d.off) d.bytes
  simp only []
  split <;> exact hw

@[simp] theorem State.writeSaveArea_units (s : State) (n c : Nat) : (s.writeSaveArea n c).units = s.units := by
  simp [State.writeSaveArea]

@[simp] theorem State.writeAccArea_units (s : State) (n c : Nat) (m : Matrix) : (s.writeAccArea n c m).units = s.units := by
  simp [State.writeAccArea]

theorem State.tile_eq_of_units {s t : State} (h : s.units = t.units) (n : Nat) : s.tile n = t.tile n :=
  congrArg (fun u : Map Tile × _ => Map.get u.1 n (Tile.reset n)) h

theorem State.contexts_eq_of_units {s t : State} (h : s.units = t.units) : s.contexts = t.contexts :=
  congrArg (fun u => u.2.1) h

theorem State.binds_eq_of_units {s t : State} (h : s.units = t.units) : s.binds = t.binds :=
  congrArg (fun u => u.2.2) h

/-! ## Lines under the ephemeral key -/

theorem Map.mem_of_mem_set {α : Type} {m : Map α} {n : Nat} {y : α} {q : Nat × α} (h : q ∈ Map.set m n y) :
    q = (n, y) ∨ q ∈ m := by
  induction m with
  | nil => exact .inl (List.mem_singleton.mp h)
  | cons e m ih =>
    obtain ⟨k, x⟩ := e
    unfold Map.set at h
    split at h
    · exact List.mem_cons.mp h
    · split at h
      · exact (List.mem_cons.mp h).imp_right (List.mem_cons_of_mem _)
      · rcases List.mem_cons.mp h with rfl | h
        · simp
        · exact (ih h).imp_right (List.mem_cons_of_mem _)

theorem Map.mem_of_get?_eq_some {α : Type} {m : Map α} {n : Nat} {y : α} (h : Map.get? m n = some y) : (n, y) ∈ m := by
  induction m with
  | nil => cases h
  | cons e m ih =>
    obtain ⟨k, x⟩ := e
    unfold Map.get? at h
    split at h
    · next hk =>
      cases h
      simp [hk]
    · exact List.mem_cons_of_mem _ (ih h)

/-- Every line is under the ephemeral key (R366). -/
def State.allDevice (s : State) : Prop := ∀ q ∈ s.lineKeys, q.2 = deviceKey

theorem State.otherKey_deviceKey {s : State} (h : s.allDevice) (a : Nat) : s.otherKey deviceKey a = false := by
  have hk : Map.get s.lineKeys (a / 64) deviceKey = deviceKey := by
    unfold Map.get
    split
    · next hx => exact h _ (Map.mem_of_get?_eq_some hx)
    · rfl
  simp [State.otherKey, hk]

theorem State.rekeyLine_mem_of_allDevice {s : State} (h : s.allDevice) (line : Nat) :
    (s.rekeyLine deviceKey line).mem = s.mem := by
  simp [State.rekeyLine, State.otherKey_deviceKey h]

theorem State.rekeyLine_allDevice {s : State} (h : s.allDevice) (line : Nat) : (s.rekeyLine deviceKey line).allDevice := by
  intro q hq
  simp only [State.rekeyLine, State.otherKey_deviceKey h] at hq
  rcases Map.mem_of_mem_set hq with rfl | hq
  · rfl
  · exact h q hq

/-- Rekeying lines that are under the ephemeral key to that key changes no byte. -/
theorem State.foldl_rekeyLine_of_allDevice (ls : List Nat) {s : State} (h : s.allDevice) :
    (ls.foldl (fun s l => s.rekeyLine deviceKey (l / 64)) s).mem = s.mem ∧
      (ls.foldl (fun s l => s.rekeyLine deviceKey (l / 64)) s).allDevice := by
  induction ls generalizing s with
  | nil => exact ⟨rfl, h⟩
  | cons l ls ih =>
    obtain ⟨hm, hd⟩ := ih (State.rekeyLine_allDevice h (l / 64))
    exact ⟨hm.trans (State.rekeyLine_mem_of_allDevice h _), hd⟩

theorem State.putBytes_allDevice {s : State} (h : s.allDevice) (a : Nat) (bs : List Byte) : (s.putBytes a bs).allDevice := by
  have hl : (s.putBytes a bs).lineKeys = s.lineKeys := by
    unfold State.putBytes State.cleanse
    simp only []
    split <;> rfl
  simpa [State.allDevice, hl] using h

theorem State.clearKeys_allDevice {s : State} (h : s.allDevice) (lo n : Nat) : (s.clearKeys lo n).allDevice :=
  fun q hq => h q (List.mem_of_mem_filter hq)

/-- A write under the ephemeral key where every line is under it writes its bytes and no others. -/
theorem State.writeBytes_of_allDevice {s : State} (h : s.allDevice) {a : Nat} (bs : List Byte) (ha : keyKind a ≠ 6) :
    (s.writeBytes deviceKey a bs).mem = Memory.writeBytes s.mem a bs ∧ (s.writeBytes deviceKey a bs).allDevice := by
  have hr : (s.rekey deviceKey a bs.length).mem = s.mem ∧ (s.rekey deviceKey a bs.length).allDevice := by
    unfold State.rekey
    split
    · exact State.foldl_rekeyLine_of_allDevice _ h
    · exact ⟨rfl, h⟩
  obtain ⟨hm, hd⟩ := hr
  rw [State.writeBytes, if_neg ha]
  exact ⟨congrArg (Memory.writeBytes · a bs) hm, State.putBytes_allDevice hd a bs⟩

/-! ## A datum above all the others of an image -/

/-- One datum of an image as an area takes it. -/
def State.storeDatum (base : Nat) (s : State) (d : Datum) : State :=
  let s1 := s.writeBytes deviceKey (base + d.off) d.bytes
  if d.tag then { s1 with tags := Keys.insert s1.tags (base + d.off) } else s1

/-- An image is stored datum by datum, but for those that are zero and have no tag. -/
theorem State.storeImage_eq_foldl (s : State) (base : Nat) (im : Image) :
    s.storeImage base im = (im.filter (fun d => d.tag || d.bytes.any (fun b => b != 0))).foldl (State.storeDatum base) s :=
  rfl

theorem State.storeDatum_mem (base : Nat) (s : State) (d : Datum) :
    (State.storeDatum base s d).mem = (s.writeBytes deviceKey (base + d.off) d.bytes).mem := by
  simp [State.storeDatum]

theorem State.storeDatum_allDevice {base : Nat} {s : State} {d : Datum}
    (h : (s.writeBytes deviceKey (base + d.off) d.bytes).allDevice) : (State.storeDatum base s d).allDevice := by
  unfold State.storeDatum
  simp only []
  split <;> exact h

/-- The datum of one byte at an offset. -/
def byteDatum (off : Nat) (v : Byte) : Datum := { off := off, bytes := [v], tag := false }

/-- Where a datum lies at an offset or below it, the byte there is what the datum says, if it is the one of that byte, and what it was
before, if it lies below. -/
theorem State.read_storeDatum_topmost {base off : Nat} {v : Byte} {d : Datum} {s : State} (hb : base + off < 6 * 2 ^ 64) (hw : s.memWf)
    (hd : s.allDevice) (hl : d = byteDatum off v ∨ d.off + d.bytes.length ≤ off) :
    (State.storeDatum base s d).memWf ∧ (State.storeDatum base s d).allDevice ∧
      (d = byteDatum off v ∨ Memory.read s.mem (base + off) = v → Memory.read (State.storeDatum base s d).mem (base + off) = v) := by
  have hk : keyKind (base + d.off) ≠ 6 := by
    have : d.off ≤ off := by
      rcases hl with rfl | h
      · exact le_rfl
      · omega
    unfold keyKind
    omega
  obtain ⟨hm, hd'⟩ := State.writeBytes_of_allDevice hd d.bytes hk
  have hm' := (State.storeDatum_mem base s d).trans hm
  refine ⟨?_, State.storeDatum_allDevice hd', fun hv => ?_⟩
  · rw [State.memWf, hm']
    exact Memory.wf_writeBytes _ _ _ hw
  · rw [hm']
    rcases hl with rfl | hlow
    · exact Memory.read_write_same s.mem _ v hw
    · rw [Memory.read_writeBytes_other _ _ _ _ hw (by omega)]
      refine hv.resolve_left (fun he => ?_)
      subst he
      simp [byteDatum] at hlow

/-- The byte at an offset that no other datum reaches is that of its datum, if one is stored, and else the one that was there. -/
theorem State.read_foldl_topmost {base off : Nat} {v : Byte} (hb : base + off < 6 * 2 ^ 64) (l : List Datum) {s : State}
    (hw : s.memWf) (hd : s.allDevice) (hl : ∀ e ∈ l, e = byteDatum off v ∨ e.off + e.bytes.length ≤ off)
    (hv : byteDatum off v ∈ l ∨ Memory.read s.mem (base + off) = v) :
    Memory.read (l.foldl (State.storeDatum base) s).mem (base + off) = v ∧ (l.foldl (State.storeDatum base) s).allDevice := by
  induction l generalizing s with
  | nil => exact ⟨hv.resolve_left (by simp), hd⟩
  | cons e l ih =>
    obtain ⟨hw', hd', hr⟩ := State.read_storeDatum_topmost hb hw hd (hl e (by simp))
    refine ih hw' hd' (fun d h => hl d (List.mem_cons_of_mem _ h)) ?_
    rcases hv with hv | hv
    · exact (List.mem_cons.mp hv).symm.imp_right (fun he => hr (.inl he.symm))
    · exact .inr (hr (.inr hv))

theorem State.read_storeImage_topmost {base off : Nat} {v : Byte} (hb : base + off < 6 * 2 ^ 64) (im : Image) {s : State}
    (hw : s.memWf) (hd : s.allDevice) (hv0 : v ≠ 0) (hl : ∀ e ∈ im, e = byteDatum off v ∨ e.off + e.bytes.length ≤ off)
    (hv : byteDatum off v ∈ im ∨ Memory.read s.mem (base + off) = v) :
    Memory.read (s.storeImage base im).mem (base + off) = v ∧ (s.storeImage base im).allDevice := by
  rw [State.storeImage_eq_foldl]
  refine State.read_foldl_topmost hb _ hw hd (fun e he => hl e (List.mem_of_mem_filter he)) (hv.imp_left (fun h => ?_))
  exact List.mem_filter.mpr ⟨h, by simpa [byteDatum] using hv0⟩

/-- A byte beyond a range that is cleared stays. -/
theorem State.read_clearKeys_of_le {s : State} {lo n a : Nat} (h : lo + n ≤ a) :
    Memory.read (s.clearKeys lo n).mem a = Memory.read s.mem a := by
  show Memory.read (s.mem.filter _) a = _
  induction s.mem with
  | nil => rfl
  | cons e m ih =>
    obtain ⟨k, b⟩ := e
    rw [List.filter_cons]
    split
    · simp only [Memory.read, ih]
    · next hk =>
      have hne : a ≠ k := by
        simp at hk
        omega
      rw [ih, Memory.read, if_neg hne]

/-! ## Making a context resident -/

theorem State.takeAway_binds {s : State} {n c : Nat} (h : (s.tile n).away = []) : (s.takeAway n c).binds = s.binds := by
  simp [State.takeAway, h]

theorem State.placeBindings_of_no_binds {s : State} (h : s.binds = []) (n c : Nat) : s.placeBindings n c = s := by
  simp [State.placeBindings, h]

/-- A context without entries, held messages and bindings becomes resident: memory changes where its areas are written. -/
theorem execMakeResident_mem {s t : State} {n c : Nat} {r : ResInfo} {x : Context} (hmay : s.mayReside n c r = true)
    (hx : Map.get? s.contexts c = some x) (htable : x.table = []) (haway : (s.tile n).away = []) (hbinds : s.binds = [])
    (h : execMakeResident n c r s = .next t) :
    t.mem = (((s.setTctxOf n c { TileCtx.reset with share := r.share, saveAddr := r.saveAddr }).writeSaveArea n c).writeAccArea n c
      Matrix.reset).mem := by
  rw [execMakeResident, if_pos hmay] at h
  dsimp only at h
  generalize hg : s.setTctxOf n c { TileCtx.reset with share := r.share, saveAddr := r.saveAddr } = g at h
  have hu : ((g.writeSaveArea n c).writeAccArea n c Matrix.reset).units = g.units := by simp
  generalize (g.writeSaveArea n c).writeAccArea n c Matrix.reset = w at h hu
  have hctx : Map.get? w.contexts c = some x := by
    rw [State.contexts_eq_of_units hu, ← hg, State.setTctxOf_contexts, hx]
  have haw : (w.tile n).away = [] := by
    rw [State.tile_eq_of_units hu, ← hg]
    simp [State.setTctxOf, haway]
  simp only [State.setCluster_contexts, hctx, htable, List.foldl_nil] at h
  rw [State.placeBindings_of_no_binds] at h
  · rw [← Host.Outcome.next.inj h, State.takeAway_mem, State.setCluster_mem]
  · rw [State.takeAway_binds (by exact haw), State.setCluster_binds, State.binds_eq_of_units hu, ← hg, State.setTctxOf_binds, hbinds]

/-! ## A staging byte beyond the save area -/

/-- Tile 0 of a package after bring-up, whose matrix unit holds, under context 0's name in ACCOWN, a staging byte whose index lies
beyond the 4,096 bytes of the window (R230): no premise of the statement rules it out. -/
def State.strayStaging : State :=
  { State.reset with
    status := { ready := true, fail := false, fstage := 0, stage := 8 }
    contexts := [(0, Context.fresh { RegInfo.none with parts := [0] })]
    tiles := [(0, { Tile.reset 0 with accown := 0x8000, matrix := { Matrix.reset with staging := [(2 ^ 20, 1)] } })] }

/-- A sixty-fourth of the tile and no share of its cluster. -/
def ResInfo.least : ResInfo :=
  { share := 16, ctrLo := 0, ctrLen := 0, barLo := 0, barLen := 0, cmemOff := 0, cmemLen := 0, saveAddr := 24192 * 2 ^ 20 }

theorem strayStaging_mayReside : State.strayStaging.mayReside 0 0 ResInfo.least = true := by
  decide +kernel

/-- The context's registers and tables in place, its area not yet written. -/
def State.strayGiven : State :=
  State.strayStaging.setTctxOf 0 0 { TileCtx.reset with share := ResInfo.least.share, saveAddr := ResInfo.least.saveAddr }

/-- The datum of the staging byte is the topmost of the image. -/
theorem strayGiven_image : (State.strayGiven.contextImage 0 0 false).all (fun d =>
    decide (d = byteDatum (0x7000 + 2 ^ 20) 1 ∨ d.off + d.bytes.length ≤ 0x7000 + 2 ^ 20)) = true := by
  decide +kernel

theorem strayDatum_mem_image : byteDatum (0x7000 + 2 ^ 20) 1 ∈ State.strayGiven.contextImage 0 0 false := by
  have hm : byteDatum (0x7000 + 2 ^ 20) 1 ∈ (State.strayGiven.tile 0).matrix.image := by decide
  have hown : (State.strayGiven.tile 0).accown.toNat % 2 ^ 16 = 0x8000 + 0 % 4096 := by decide
  simp only [State.contextImage, hown, if_true, TileCtx.image, List.mem_append, hm, true_or, or_true]

/-- The areas of the context, as they are written. -/
def State.strayWritten : State := (State.strayGiven.writeSaveArea 0 0).writeAccArea 0 0 Matrix.reset

theorem strayWritten_units : State.strayWritten.units = State.strayGiven.units := by
  simp [State.strayWritten]

/-- The staging byte, written with the area, stays while acc's section is written. -/
theorem strayWritten_read : Memory.read State.strayWritten.mem (ResInfo.least.saveAddr + (0x7000 + 2 ^ 20)) = 1 := by
  have hd : State.strayGiven.allDevice := by simp [State.allDevice, State.strayGiven, State.strayStaging, State.reset]
  have hw : State.strayGiven.memWf := rfl
  have hsave : Memory.read (State.strayGiven.writeSaveArea 0 0).mem (ResInfo.least.saveAddr + (0x7000 + 2 ^ 20)) = 1 ∧
      (State.strayGiven.writeSaveArea 0 0).allDevice :=
    State.read_storeImage_topmost (by decide) _ (State.clearKeys_memWf _ _ _ (State.clearKeys_memWf _ _ _ hw))
      (State.clearKeys_allDevice (State.clearKeys_allDevice hd _ _) _ _) (by decide)
      (fun e he => of_decide_eq_true (List.all_eq_true.mp strayGiven_image e he)) (.inl strayDatum_mem_image)
  obtain ⟨hread, hd'⟩ := hsave
  have haddr : ((State.strayGiven.writeSaveArea 0 0).tctxOf 0 0).saveAddr = ResInfo.least.saveAddr := by
    rw [State.tctxOf, State.tile_eq_of_units (State.strayGiven.writeSaveArea_units 0 0)]
    rfl
  rw [State.strayWritten, State.writeAccArea, haddr]
  refine (State.read_storeImage_topmost (by decide) _
    (State.clearKeys_memWf _ _ _ (State.clearKeys_memWf _ _ _ (State.writeSaveArea_memWf _ _ _ hw)))
    (State.clearKeys_allDevice (State.clearKeys_allDevice hd' _ _) _ _) (by decide) ?_ (.inr ?_)).1
  · simp [Matrix.accImage, Matrix.reset, datums, indexed, datum, toBytes]
  · rw [State.read_clearKeys_of_le (by decide), State.read_clearKeys_of_le (by decide), hread]

/-- After MAKE_RESIDENT the byte stands beyond the save area. -/
theorem strayStaging_makeResident_read {t : State} (h : exec (.makeResident 0 0 ResInfo.least) State.strayStaging = .next t) :
    Memory.read t.mem (ResInfo.least.saveAddr + (0x7000 + 2 ^ 20)) = 1 := by
  rw [execMakeResident_mem strayStaging_mayReside rfl rfl rfl rfl h]
  exact strayWritten_read

end Sys2Proof.Machine

open Sys2Proof.Machine in
/-- Refutes O51: its last clause says that making a context resident changes no byte beyond the lines of the save area, and bounds the
matrix state that ACCOWN gives the context nowhere; a staging byte of index 2^20 is written 2^20 bytes past the staging section. -/
theorem not_partitionsAndContexts : ¬ Obligations.PartitionsAndContexts := by
  unfold Obligations.PartitionsAndContexts
  rintro ⟨-, -, -, -, -, -, -, -, hreside⟩
  obtain ⟨-, hmade⟩ := hreside State.strayStaging 0 0 ResInfo.least
  have haway : ∀ m ∈ (State.strayStaging.tile 0).away, m.ctx ≠ 0 := fun _ h => absurd h List.not_mem_nil
  have hbinds : ∀ b ∈ State.strayStaging.binds, b.ctx ≠ 0 := fun _ h => absurd h List.not_mem_nil
  obtain ⟨t, ht, -, hmem, -⟩ := hmade _ strayStaging_mayReside rfl rfl haway hbinds
  have hread := hmem rfl (ResInfo.least.saveAddr + (0x7000 + 2 ^ 20)) (.inr (by decide))
  rw [strayStaging_makeResident_read ht] at hread
  exact absurd hread (by decide)
end

section
/-! PROOFS. The rows of the opcode map: how the fields of a word give an instruction, and that the encoder and the rules of well-formedness
of an instruction are those of its row (R34, R35, R53). -/

namespace Sys2Proof

/-! ## The fields of a word -/

theorem bit_le_one (b : Bool) : bit b ≤ 1 := by cases b <;> decide

theorem MemOp.bits_lt (m : MemOp) : m.bits < 32 := by
  have := bit_le_one m.regOff
  simp only [MemOp.bits]
  omega

/-- A register number of fewer bits, as a field holds it. -/
theorem extractLsb'_setWidth {w : Nat} (h : w ≤ 5) (d : BitVec w) : (d.setWidth 5).extractLsb' 0 w = d := by
  apply BitVec.eq_of_toNat_eq
  have : 2 ^ w ≤ 2 ^ 5 := Nat.pow_le_pow_right (by decide) h
  simp only [BitVec.extractLsb'_toNat, BitVec.toNat_setWidth, Nat.shiftRight_zero]
  rw [Nat.mod_eq_of_lt (a := d.toNat) (by omega), Nat.mod_eq_of_lt d.isLt]

theorem Raw.cond_code (p : Pfx) (f : BitVec 5) (c : Cond) : Raw.cond ⟨p, f, BitVec.ofNat 5 c.code⟩ = c := by
  cases c <;> rfl

theorem condOf_f2 (r : Raw) : condOf r.f2.toNat = r.cond := rfl

theorem Raw.mem_bits (p : Pfx) (f : BitVec 5) (m : MemOp) : Raw.mem ⟨p, f, BitVec.ofNat 5 m.bits⟩ = m := by
  obtain ⟨c, b⟩ := m
  have hc : (BitVec.ofNat 5 (MemOp.bits ⟨c, b⟩)).extractLsb' 1 4 = c := by
    apply BitVec.eq_of_toNat_eq
    simp only [BitVec.extractLsb'_toNat, BitVec.toNat_ofNat, MemOp.bits, bit, Nat.shiftRight_eq_div_pow]
    split <;> omega
  have hb : (BitVec.ofNat 5 (MemOp.bits ⟨c, b⟩)).getLsbD 0 = b := by
    rw [BitVec.getLsbD_ofNat, Nat.testBit_zero]
    cases b <;> simp [MemOp.bits, bit]
  simp only [Raw.mem, hc, hb]

/-! ## The rules of a row -/

/-- What a field of an operand contributes to the base word: as many of its bits as name a register of its file. -/
def Fld.value : Fld → BitVec 5 → Nat
  | .zero, _ => 0
  | .c, f => (f.extractLsb' 0 4).toNat
  | .k, f => (f.extractLsb' 0 3).toNat
  | .knz, f => (f.extractLsb' 0 3).toNat
  | .fixed n, _ => n
  | .cond, f => (condOf f.toNat).code
  | _, f => f.toNat

/-- What stands in bits 9:5 of a row's base word (R34). -/
def Row.first (row : Row) (r : Raw) : Nat :=
  match row.fmt with
  | .j => r.f1.toNat
  | _ => row.f1.value r.f1

/-- What stands in bits 4:0 of a row's base word (R34). -/
def Row.second (row : Row) (r : Raw) : Nat :=
  match row.fmt with
  | .m => r.mem.bits
  | .i | .l | .j => r.f2.toNat
  | _ => row.f2.value r.f2

/-- The operand bits of a row's base word, as the encoder puts them together. -/
def Row.operands (row : Row) (r : Raw) : Nat :=
  match row.fmt with
  | .j => r.off.toNat
  | _ => ops (row.first r) (row.second r)

/-- A row's immediate, from the prefixes and fields of a chain. -/
def Row.immOf (row : Row) (r : Raw) : Int :=
  match row.fmt with
  | .i => r.p.immI r.f2
  | .l => r.p.immZ r.f2
  | .j => r.p.immJ r.off
  | .m => r.p.immM
  | _ => 0

/-- The rule for field X that the well-formedness of a row's instruction states. -/
def XFld.rule : XFld → XRule
  | .zero => .exact 0
  | .range lo hi => .range lo hi
  | .kdest sel => .kdest sel
  | .fn n => .exact n

/-- The rule for field Y, likewise. -/
def YFld.rule : YFld → YRule
  | .zero => .unused
  | .mask => .mask
  | .mask0 => .mask0
  | .reg => .any
  | .fn n => .exact n

/-- The last register that field X may name. -/
def XFld.max : XFld → Nat
  | .range _ hi => hi
  | _ => 0

/-- R47: where immediate prefixes may stand. -/
def Row.immRule (row : Row) (r : Raw) : Option Bool :=
  match row.fmt, row.takesImm with
  | .m, _ => some (!r.mem.regOff || r.p.imm.isEmpty)
  | _, true => none
  | _, false => some r.p.imm.isEmpty

/-- Mode 1 of the memory layout, where it is the only one. -/
def Row.modeRule (row : Row) (r : Raw) : Option Bool :=
  match row.mode1 with
  | true => some r.mem.regOff
  | false => none

/-- R46: the extra registers. -/
def Row.xrRule (row : Row) (r : Raw) : Bool :=
  match row.fmt with
  | .m => r.p.wfMemXr r.mem.regOff row.need row.x.max row.y.rule
  | _ =>
    match row.x, row.y with
    | .zero, .zero => r.p.xr.isNone
    | x, y => r.p.wfXr row.need x.rule y.rule

/-- R44: the repetition; only format A has a second register to step. -/
def Row.repRule (row : Row) (r : Raw) : Bool :=
  match row.rep, row.fmt with
  | false, _ => r.p.rep.isNone
  | true, .a => r.p.wfRep (some (row.f1.fileSize, row.first r)) (some (row.f2.fileSize, row.second r))
  | true, _ => r.p.wfRep (some (row.f1.fileSize, row.first r)) none

/-- R49: the ordering modifier. -/
def Row.ordRule (row : Row) (r : Raw) : Option Bool :=
  match row.ord with
  | .none => some r.p.ord.isNone
  | .load => some r.p.wfLoadOrd
  | .store => some r.p.wfStoreOrd
  | .atomic => none
  | .fence => some r.p.wfFence

/-- R45: the numeric modifier. -/
def Row.numRule (row : Row) (r : Raw) : Option Bool :=
  match row.round, row.lane with
  | false, false => some r.p.num.isNone
  | true, false => some (!r.p.laneZero)
  | false, true => some (r.p.round == .dflt)
  | true, true => none

/-- R41: the values that a first operand field keeps out. -/
def Row.fieldRule (row : Row) (r : Raw) : Option Bool :=
  match row.f1, row.sel with
  | _, .link => some (r.f1c != 0)
  | .knz, _ => some (r.f1k != 0)
  | .pair, _ => some (decide (r.f1.toNat ≤ 30))
  | .lvl, _ => some (decide (r.f1.toNat ≤ 1))
  | _, _ => none

/-- The values of an immediate that a row without a selector in it names (R41, R88, R270). -/
def Row.limitRule (row : Row) (r : Raw) : Option Bool :=
  match row.fmt, row.sysreg, decide (row.lo < 0) with
  | .l, _, _ => some (r.p.immZ r.f2 != 0)
  | _, true, _ => some (inRange (row.immOf r) 0 28)
  | _, _, false => some (inRange (row.immOf r) row.lo row.hi)
  | _, _, true => none

/-- The values of an immediate that a row's instruction names (R53, R277). -/
def Row.rangeRule (row : Row) (r : Raw) : Option Bool :=
  match row.sel with
  | .immHi n => some (inRange (row.immOf r) (64 * n) (64 * n + 63))
  | .kcall n => some (inRange (row.immOf r) n (if n < 6 then n else 255))
  | _ => row.limitRule r

/-- A condition and one more, where there is one more. -/
def andAlso (b : Bool) : Option Bool → Bool
  | none => b
  | some c => b && c

/-- The rules of a row, read off its columns. -/
def Row.rules (row : Row) (r : Raw) : List (Option Bool) :=
  [row.immRule r, row.modeRule r, some (row.xrRule r), some (row.repRule r), row.ordRule r, row.numRule r, row.fieldRule r,
    row.rangeRule r]

/-- The fields that the decoder reads from a row's word. -/
def Row.read (row : Row) (r : Raw) : Raw := ⟨r.p, BitVec.ofNat 5 (row.first r), BitVec.ofNat 5 (row.second r)⟩

/-- The row of the decoder's map and the equations of well-formedness and of the encoder say the same of the row's instruction. -/
structure Row.Faithful (row : Row) : Prop where
  wf : ∀ r, (row.build r).wf = (row.rules r).foldl andAlso (r.p.wfBase (row.page != 0))
  encode : ∀ r, encode (row.build r) = chainOf r.p row.page row.major (row.operands r)
  read : ∀ r, row.build (row.read r) = row.build r

/-- Every row is faithful: for each, both sides are the same terms. -/
theorem rows_faithful : ∀ row ∈ rows, row.Faithful := by
  simp only [rows, List.forall_mem_append, rows0a, rows0b, rows0c, rows1a, rows1b, rows2a, rows2b, rows3a, rows3b, rows4a, rows4b,
    rows5a, rows5b, rows6a, rows7a, rows8a, rows9a, rows9b, List.forall_mem_cons, List.not_mem_nil, false_implies, implies_true,
    and_true]
  and_intros
  all_goals exact ⟨fun _ => rfl, fun _ => rfl, fun r => by
    simp only [Row.read, Row.first, Row.second, Fld.value, BitVec.ofNat_toNat, BitVec.setWidth_eq, Raw.mem_bits, Raw.cond_code,
      condOf_f2, Raw.f1c, Raw.f2c, Raw.f1k, Raw.f2k, Raw.off, extractLsb'_setWidth, Nat.reduceLeDiff]⟩

end Sys2Proof
end

section
/-! PROOFS. Every well-formed instruction is built by a row of the opcode map. -/

namespace Sys2Proof

/-! ## Every instruction has a row -/

theorem rows_eq_append : rows = rows0a ++ (rows0b ++ (rows0c ++ (rows1a ++ (rows1b ++ (rows2a ++ (rows2b ++ (rows3a ++ (rows3b ++
    (rows4a ++ (rows4b ++ (rows5a ++ (rows5b ++ (rows6a ++ (rows7a ++ (rows8a ++ (rows9a ++ rows9b)))))))))))))))) := by
  simp only [rows, List.append_assoc]

theorem Raw.off_extract (p : Pfx) (off : BitVec 10) : Raw.off ⟨p, off.extractLsb' 5 5, off.extractLsb' 0 5⟩ = off := by
  apply BitVec.eq_of_toNat_eq
  simp only [Raw.off, BitVec.toNat_append, BitVec.extractLsb'_toNat]
  rw [← Nat.shiftLeft_add_eq_or_of_lt (by omega), Nat.shiftLeft_eq, Nat.shiftRight_eq_div_pow]
  omega

/-- The map stands in the order of the instructions, and the row of one builds it from its operands; an event has no row. -/
theorem Instr.exists_getElem_rows (i : Instr) (h : i.wf = true) : ∃ row, rows[i.ctorIdx]? = some row ∧ ∃ r, row.build r = i := by
  rw [rows_eq_append]
  cases i with
  | mv p d a | add p d a | sub p d a | mul p d a | mulh p d a | div p d a | rem p d a | and p d a | or p d a | xor p d a
  | shl p d a | shr p d a | sra p d a | cmp p d a | call p d a | cMv p d a | cAdd p d a | cSetaddr p d a | cSetb p d a
  | cSetbx p d a | cAndp p d a | cSeal p d a | cUnseal p d a | cInv p d a | cGaddr p d a | cGbase p d a | cGlen p d a
  | cGperm p d a | cGtype p d a | cGtag p d a | cClrtag p d a | cFit p d a | cSnap p d a | cPaint p d a | cSweep p d a
  | cSweepq p d a | mbPut p d a | mbGet p d a | vMv p d a | vAdd p d a | vSub p d a | vMul p d a | vFma p d a | vFms p d a
  | vMin p d a | vMax p d a | vAbs p d a | vNeg p d a | vIadd p d a | vIsub p d a | vImul p d a | vImin p d a | vImax p d a
  | vAnd p d a | vOr p d a | vXor p d a | vShl p d a | vShr p d a | vSra p d a | vFeq p d a | vFlt p d a | vFle p d a
  | vFun p d a | vIeq p d a | vIlt p d a | vIle p d a | vIlo p d a | vIabs p d a | vBcs p d a | kAnd p d a | kOr p d a
  | kXor p d a | kAndn p d a | kNot p d a | kMv p d a | vCvtfi p d a | vCvtif p d a | vExp2 p d a | vLog2 p d a | vRcp p d a
  | vRsq p d a | vSqrt p d a | vPerm p d a | vRsum p d a | vRmax p d a | vRmin p d a | vIrsum p d a | vT8dec p d a | vT8enc p d a
  | vExt p d a | vIns p d a | kPop p d a | kFirst p d a | vRnd p d a | vCmpr p d a | send p d a | sendU p d a | fork p d a
  | jcInit p d a | chunk p d a | inPop p d a | inCnt p d a | hTag p d a | cp p d a | cpTry p d a | tkQ p d a | slvBegin p d a
  | slvQ p d a | cpRsm p d a | cslInst p d a | cslRbld p d a | cslBind p d a | cslQ p d a | pairOn p d a | ctxLd p d a =>
    exact ⟨_, rfl, ⟨p, d.setWidth 5, a.setWidth 5⟩, by
      simp only [Raw.f1c, Raw.f2c, Raw.f1k, Raw.f2k, extractLsb'_setWidth, BitVec.setWidth_eq, Nat.reduceLeDiff]⟩
  | addi p d i | li p d i | cmpi p d i | shli p d i | shri p d i | srai p d i | rori p d i | loop p d i | cAddi p d i
  | barArv p d i | barWt p d i | barCfg p d i | fence p d i | vLi p d i | vBcl p d i | vRot p d i | widFld p d i | tsAdd p d i
  | rsr p d i | wsr p d i =>
    exact ⟨_, rfl, ⟨p, d.setWidth 5, i⟩, by
      simp only [Raw.f1c, extractLsb'_setWidth, BitVec.setWidth_eq, Nat.reduceLeDiff]⟩
  | cLd p d m | cSt p d m | ldW p d m | stW p d m | ldD p d m | stD p d m | ldB p d m | stB p d m | ldH p d m | stH p d m
  | vLd p d m | vSt p d m | ldWz p d m | ldBz p d m | ldHz p d m | vGth p d m | vSct p d m | vLdb p d m | vLds p d m | vSts p d m
  | wsQ p d m | pf p d m | kLd p d m | kSt p d m | amAdd p d m | amAnd p d m | amOr p d m | amXor p d m | amMin p d m
  | amMax p d m | amSwp p d m | amCas p d m | amFadd p d m | amUpdAdd p d m | amUpdOr p d m | amUpdAnd p d m | amUpdXor p d m
  | amUpdMin p d m | amUpdMax p d m | amUpdFadd p d m | swInit p d m | swWait p d m | swGen p d m | mLds p d m | mStr p d m
  | mMrot p d m | mRd p d m | mCmd p d m | mRdz p d m =>
    exact ⟨_, rfl, ⟨p, d.setWidth 5, BitVec.ofNat 5 m.bits⟩, by
      simp only [Raw.f1c, Raw.f1k, extractLsb'_setWidth, BitVec.setWidth_eq, Raw.mem_bits, Nat.reduceLeDiff]⟩
  | t8Ld p m =>
    exact ⟨_, rfl, ⟨p, 0, BitVec.ofNat 5 m.bits⟩, by
      simp only [Raw.mem_bits]⟩
  | clz p d | ctz p d | popc p d | brev p d | not p d | neg p d | abs p d | sextB p d | sextH p d | sextW p d | zextB p d
  | zextH p d | zextW p d | mbTest p d | mQ p d | pairOff p d =>
    exact ⟨_, rfl, ⟨p, d, 0⟩, rfl⟩
  | jmp p a | join p a | hEn p a | hDis p a | hPend p a | hClrp p a | ctxSv p a | accSv p a | accLd p a =>
    exact ⟨_, rfl, ⟨p, 0, a.setWidth 5⟩, by
      simp only [Raw.f2c, extractLsb'_setWidth, BitVec.setWidth_eq, Nat.reduceLeDiff]⟩
  | kcallSliceEnd p i | kcallBudget p i | kcallStops p i | kcallUnbound p i | kcallRevoke p i | kcallSweepQuery p i
  | kcallOther p i | brk p i =>
    exact ⟨_, rfl, ⟨p, 0, i⟩, rfl⟩
  | b p off | beq p off | bne p off | blt p off | bge p off =>
    exact ⟨_, rfl, ⟨p, off.extractLsb' 5 5, off.extractLsb' 0 5⟩, by
      simp only [Raw.off_extract]⟩
  | setc p d c =>
    exact ⟨_, rfl, ⟨p, d, BitVec.ofNat 5 c.code⟩, by
      simp only [Raw.cond_code]⟩
  | t8LdE4 p | t8LdE5 p | mSwap p | mZero p | mDrain p | endF p | yield p | slvEnd p | slvHclr p | tret p | tretSkip p | idle p =>
    exact ⟨_, rfl, ⟨p, 0, 0⟩, rfl⟩
  | outstandingResultReturn | sweepComplete | refreshStart | refreshEnd | updateMerge | t8TableEffect | lds | swap | str | mrot
  | mrotArrival | rd | zero | rdz | messageArrival | queueAdmit | unboundDelivery | entryRewrite | makeFiring | taskTake
  | taskSteal | launchRecord | dispatchMessage | launchCompletion | releaseFlush | horizonUpdate | commit | abort | rerun | pin
  | copyStart | copyWriteUnit | copyComplete | copyStop | completionMessage | resumePacket | edgeChunk | budgetRefill
  | clusterRound | terminate | budgetExpiry | graceExpiry | sliceEnd | leaseExpiry | qnowAdvance | qdoneAdvance
  | quarantineEnqueue | quarantineRelease | tailWrite | cheadWrite | registerWrite | acquireRecord | releaseRecord
  | collectiveAbort | capsuleRelease | hostSync | reservedRecord | hostMemAccess | flushRequest | flushAcknowledgement
  | fabricWrite | fabricReadRequest | fabricReadResponse | dropNotice | abortToken | linkRetrain | linkReturn | portDown
  | flitRetry | partWrite | scrub | partitionRelease | fusion | split | keyWrite | reportRequest | checkpoint | restore
  | firmwareInstall | contrailBreakpoint | contrailPatch | contrailAccess | machineCheck | patrolRead | coldReset
  | contextRegistration | makeResident | contrailRelease =>
    exact absurd h Bool.false_ne_true

/-- Every well-formed instruction is what some row of the map builds. -/
theorem Instr.exists_row {i : Instr} (h : i.wf = true) : ∃ row ∈ rows, ∃ r, row.build r = i := by
  obtain ⟨row, hr, hb⟩ := i.exists_getElem_rows h
  exact ⟨row, List.mem_of_getElem? hr, hb⟩
end Sys2Proof
end

section
/-! PROOFS. What the columns of every row keep to, and what a row reads from the fields of a word. -/

namespace Sys2Proof

/-! ## What a row's columns keep to -/

/-- Format J has no operand field, and the selector of `call` is its c register. -/
def Row.firstRegular (row : Row) : Bool :=
  (row.fmt != .j || row.f1 == .zero && row.sel == .none) && (row.sel != .link || row.f1 == .c)

/-- The second operand fields of the formats that check one; the others have none. -/
def Row.secondRegular (row : Row) : Bool :=
  match row.fmt, row.f2 with
  | .a, .knz | .a, .pair | .a, .lvl => false
  | .a, _ | .u, .fixed _ | .u, .cond => true
  | .u, _ => false
  | _, f => f == .zero

/-- Only the memory layout has a mode, and its field X names a register; a selector in X or Y makes the extra registers necessary, and
where X and Y have no use they are not. -/
def Row.xrRegular (row : Row) : Bool :=
  (match row.fmt, row.x with
    | .m, .range 0 _ => row.takesImm
    | .m, _ => false
    | _, .zero => !row.mode1 && !row.need
    | _, .range _ _ => !row.mode1
    | _, .kdest _ => !row.mode1 && row.need
    | _, .fn n => !row.mode1 && row.need && decide (n < 8)) &&
  (match row.y with
    | .fn _ => row.need
    | _ => true)

/-- The limits of a row's immediate, and which rows select by it. -/
def Row.immRegular (row : Row) : Bool :=
  match row.sel with
  | .immHi n => decide (n < 4) && row.lo == 0 && row.hi == 255 && !row.sysreg
  | .kcall n => decide (n ≤ 6) && row.lo == 0 && row.hi == 255 && !row.sysreg
  | _ =>
    if row.fmt = .l then row.lo == 1 && row.hi == 33554431 && !row.sysreg
    else if row.sysreg then row.lo == 0 && row.hi == 63
    else decide (0 ≤ row.lo) || row.lo == -2147483648 && row.hi == 2147483648

/-- The selector in a field is a number of five bits. -/
def Fld.narrow : Fld → Bool
  | .fixed n => decide (n < 32)
  | _ => true

theorem rows_regular : rows.all (fun row => row.firstRegular && row.secondRegular && row.xrRegular && row.immRegular &&
    row.f1.narrow && row.f2.narrow && decide (row.page < 10) && decide (row.major < 27)) = true := by
  decide +kernel

/-! ## What a chain presents to a row -/

/-- The payload of the extra registers (R46). -/
def XPfx.payload (f : XPfx) : Nat := f.x.toNat * 32 + f.y.toNat

/-- What a chain with a row's cell and these fields presents to the map. -/
def Row.parts (row : Row) (r : Raw) : Parts :=
  { page := row.page, major := row.major, ops := ops r.f1.toNat r.f2.toNat, xr := r.p.xr.map XPfx.payload, imms := r.p.imm }

@[simp] theorem Row.parts_n1 (row : Row) (r : Raw) : (row.parts r).n1 = r.f1.toNat := by
  simp only [Row.parts, Parts.n1, ops]
  omega

@[simp] theorem Row.parts_n2 (row : Row) (r : Raw) : (row.parts r).n2 = r.f2.toNat := by
  simp only [Row.parts, Parts.n2, ops]
  omega

@[simp] theorem Row.parts_nx (row : Row) (r : Raw) : (row.parts r).nx = r.p.x.toNat := by
  obtain ⟨p, -, -⟩ := r
  cases h : p.xr with
  | none => simp [Row.parts, Parts.nx, Pfx.x, h]
  | some f =>
    simp only [Row.parts, Parts.nx, Pfx.x, h, Option.map_some, XPfx.payload]
    omega

@[simp] theorem Row.parts_ny (row : Row) (r : Raw) : (row.parts r).ny = r.p.y.toNat := by
  obtain ⟨p, -, -⟩ := r
  cases h : p.xr with
  | none => simp [Row.parts, Parts.ny, Pfx.y, h]
  | some f =>
    simp only [Row.parts, Parts.ny, Pfx.y, h, Option.map_some, XPfx.payload]
    omega

theorem Raw.off_eq_ops (r : Raw) : r.off.toNat = ops r.f1.toNat r.f2.toNat := by
  simp only [Raw.off, BitVec.toNat_append, ops]
  rw [← Nat.shiftLeft_add_eq_or_of_lt (by omega), Nat.shiftLeft_eq]

@[simp] theorem Row.parts_imm (row : Row) (r : Raw) : row.imm (row.parts r) = row.immOf r := by
  have h2 := row.parts_n2 r
  simp only [Row.imm, Row.immOf, h2]
  cases row.fmt <;> simp [Row.parts, Pfx.immI, Pfx.immZ, Pfx.immM, Pfx.immJ, Raw.off_eq_ops]

@[simp] theorem Row.parts_xr_isSome (row : Row) (r : Raw) : (row.parts r).xr.isSome = r.p.xr.isSome := by
  simp [Row.parts]

@[simp] theorem Row.parts_xr_isNone (row : Row) (r : Raw) : (row.parts r).xr.isNone = r.p.xr.isNone := by
  simp [Row.parts]

@[simp] theorem Row.parts_imms (row : Row) (r : Raw) : (row.parts r).imms = r.p.imm := rfl

theorem Raw.regOff_iff (r : Raw) : r.mem.regOff = (r.f2.toNat % 2 == 1) := by
  simp only [Raw.mem]
  rw [← BitVec.testBit_toNat, Nat.testBit_zero]
  rfl

end Sys2Proof
end

section
/-! PROOFS. The operand fields of a word: the checks on them are the rules of well-formedness of registers (R53). -/

namespace Sys2Proof

/-! ## Operand fields -/

/-- The fields of a word are read as they stand: no bit of them is lost. -/
def Row.Canonical (row : Row) (r : Raw) : Prop := row.first r = r.f1.toNat ∧ row.second r = r.f2.toNat

/-- The registers of its file that a field leaves out. -/
def Fld.Takes : Fld → BitVec 5 → Prop
  | .knz, b => b.extractLsb' 0 3 ≠ 0
  | .pair, b => b.toNat ≤ 30
  | .lvl, b => b.toNat ≤ 1
  | _, _ => True

/-- A field passes exactly if no bit of it is lost and the row takes the register. -/
theorem Fld.passes_iff (f : Fld) (b : BitVec 5) :
    (f.reserved b.toNat = false ∧ f.outside b.toNat = false) ↔ f.value b = b.toNat ∧ f.Takes b := by
  cases f with
  | fixed n =>
    simp only [Fld.reserved, Fld.outside, Fld.value, Fld.Takes, bne_eq_false_iff_eq, and_true]
    exact eq_comm
  | _ =>
    simp only [Fld.Takes]
    revert b
    decide

theorem Raw.mem_bits_eq (r : Raw) : r.mem.bits = r.f2.toNat := by
  have h : ∀ b : BitVec 5, (b.extractLsb' 1 4).toNat * 2 + bit (b.getLsbD 0) = b.toNat := by decide
  exact h r.f2

theorem f1c_ne_zero {r : Raw} (h : Fld.c.value r.f1 = r.f1.toNat) : r.f1c ≠ 0 ↔ r.f1.toNat ≠ 0 := by
  rw [← h]
  exact not_congr (BitVec.toNat_inj (y := (0 : BitVec 4))).symm

theorem Row.takes_iff (row : Row) (r : Raw) (h : row.sel = .link → row.f1 = .c) :
    (row.fieldRule r).getD true = true ↔ row.f1.Takes r.f1 ∧ (row.sel = .link → r.f1c ≠ 0) := by
  unfold Row.fieldRule
  split <;> simp_all [Fld.Takes, Raw.f1k]

/-- The first operand field passes its checks; `call` names another register than c0. -/
def Row.FirstPasses (row : Row) (r : Raw) : Prop :=
  (row.fmt ≠ .j → row.f1.reserved r.f1.toNat = false ∧ row.f1.outside r.f1.toNat = false) ∧ (row.sel = .link → r.f1.toNat ≠ 0)

/-- The second operand field passes its checks, in the formats that have one. -/
def Row.SecondPasses (row : Row) (r : Raw) : Prop :=
  (row.fmt = .a → row.f2.reserved r.f2.toNat = false ∧ row.f2.outside r.f2.toNat = false) ∧
    (row.fmt = .u ∨ row.fmt = .t → row.f2.reserved r.f2.toNat = false)

theorem Row.first_iff {row : Row} (h : row.firstRegular = true) (r : Raw) :
    row.FirstPasses r ↔ row.first r = r.f1.toNat ∧ (row.fieldRule r).getD true = true := by
  simp only [Row.firstRegular, Bool.and_eq_true, Bool.or_eq_true, bne_iff_ne, beq_iff_eq] at h
  obtain ⟨hj, hlink⟩ := h
  rw [Row.FirstPasses, Row.takes_iff row r (fun hs => hlink.resolve_left (not_not_intro hs)), Fld.passes_iff]
  by_cases hf : row.fmt = .j
  · obtain ⟨h1, h2⟩ := hj.resolve_left (not_not_intro hf)
    simp [Row.first, hf, h1, h2, Fld.Takes]
  · have hfirst : row.first r = row.f1.value r.f1 := by
      unfold Row.first
      split
      · contradiction
      · rfl
    rw [hfirst]
    simp only [hf, not_false_eq_true, ne_eq, true_implies, and_assoc]
    refine and_congr_right (fun hv => and_congr_right (fun _ => forall_congr' (fun hs => ?_)))
    rw [hlink.resolve_left (not_not_intro hs)] at hv
    exact (f1c_ne_zero hv).symm

theorem Row.second_iff {row : Row} (h : row.secondRegular = true) (r : Raw) :
    row.SecondPasses r ↔ row.second r = r.f2.toNat := by
  unfold Row.secondRegular at h
  unfold Row.SecondPasses
  cases hf : row.fmt with
  | a =>
    have htakes : row.f2.Takes r.f2 := by
      cases h2 : row.f2 <;> simp [hf, h2, Fld.Takes] at h ⊢
    simp [Fld.passes_iff, htakes, Row.second, hf]
  | u | t =>
    have hpass : row.f2.outside r.f2.toNat = false ∧ row.f2.Takes r.f2 := by
      cases h2 : row.f2 <;> simp [hf, h2, Fld.Takes, Fld.outside] at h ⊢
    have h2 := row.f2.passes_iff r.f2
    simp only [hpass, and_true] at h2
    simp [Row.second, hf, h2]
  | i | l | j | m => simp [Row.second, hf, Raw.mem_bits_eq]

end Sys2Proof
end

section
/-! PROOFS. The extra registers: the checks on them are their rule of well-formedness (R46). -/

namespace Sys2Proof

/-! ## The extra registers -/

/-- Field X, or field Y, is what the row's selector names. -/
def XFld.selects : XFld → Nat → Bool
  | .kdest n, v => v / 8 == n
  | .fn n, v => v % 8 == n
  | _, _ => true

def YFld.selects : YFld → Nat → Bool
  | .fn n, v => v == n
  | _, _ => true

/-- The values of field X, and of field Y, that their uses reject as reserved. -/
def XFld.reserved : XFld → Nat → Bool
  | .kdest _, v => v % 8 == 0
  | .fn _, v => decide (7 < v)
  | _, _ => false

def YFld.reserved : YFld → Nat → Bool
  | .zero, v => v != 0
  | .mask, v => decide (15 < v)
  | .mask0, v => decide (7 < v)
  | _, _ => false

/-- REG.RANGE for field X. -/
def XFld.outside : XFld → Nat → Bool
  | .range lo hi, v => decide (v < lo) || decide (hi < v)
  | _, _ => false

/-- The checks of the extra-register halfword, from RSV.FIELD to PFX.MISSING, and the selectors in it. -/
def Row.XrPasses (row : Row) (q : Parts) : Prop :=
  row.x.selects q.nx = true ∧ row.y.selects q.ny = true ∧
  (q.xr.isSome && row.usesXr q && ((!row.usesX q && q.nx != 0) || row.x.reserved q.nx || row.y.reserved q.ny)) = false ∧
  (q.xr.isSome && row.usesX q && row.x.outside q.nx) = false ∧ (q.xr.isSome && !row.usesXr q) = false ∧
  (q.xr.isNone && (row.need || (row.fmt == .m && q.n2 % 2 == 1))) = false

/-- What field Y holds, by the decoder's checks and by the rule of the row. -/
theorem YFld.rule_ok (y : YFld) (v : BitVec 5) : y.rule.ok v = true ↔ y.selects v.toNat = true ∧ y.reserved v.toNat = false := by
  cases y with
  | zero => revert v; decide
  | _ => simp [YFld.rule, YRule.ok, YFld.selects, YFld.reserved, Nat.lt_succ_iff]

/-- What field X holds, likewise. -/
theorem XFld.rule_ok (x : XFld) (v : BitVec 5) (h : ∀ n, x = .fn n → n < 8) : x.rule.ok v = true ↔
    x.selects v.toNat = true ∧ x.reserved v.toNat = false ∧ x.outside v.toNat = false ∧ (x = .zero → v.toNat = 0) := by
  cases x with
  | fn n =>
    have := h n rfl
    simp [XFld.rule, XRule.ok, XFld.selects, XFld.reserved, XFld.outside]
    omega
  | _ => simp [XFld.rule, XRule.ok, XFld.selects, XFld.reserved, XFld.outside]

theorem Row.x_of_memory {row : Row} (h : row.xrRegular = true) (hm : row.fmt = .m) : ∃ hi, row.x = .range 0 hi := by
  unfold Row.xrRegular at h
  split at h <;> simp_all

theorem Row.y_selects_zero {row : Row} (h : row.xrRegular = true) (hn : row.need = false) : row.y.selects 0 = true := by
  cases hy : row.y <;> simp_all [Row.xrRegular, YFld.selects]

/-- In the memory layout X counts in mode 1 only (R46). -/
theorem Row.xrPasses_iff_of_memory {row : Row} (h : row.xrRegular = true) (r : Raw) (hm : row.fmt = .m) :
    row.XrPasses (row.parts r) ↔ row.xrRule r = true := by
  obtain ⟨hi, hx⟩ := Row.x_of_memory h hm
  have hr : row.xrRule r = r.p.wfMemXr r.mem.regOff row.need hi row.y.rule := by
    simp only [Row.xrRule, hm, hx, XFld.max]
  rw [hr, Raw.regOff_iff]
  simp only [Row.XrPasses, Row.usesX, Row.usesXr, Row.parts_nx, Row.parts_ny, Row.parts_n2, Row.parts_xr_isSome,
    Row.parts_xr_isNone, hm, hx, Pfx.wfMemXr, Pfx.y, Pfx.x, XFld.selects, XFld.outside, XFld.reserved]
  cases r.p.xr with
  | none =>
    have := Row.y_selects_zero h
    cases hn : row.need <;> simp_all
  | some f =>
    have hy : row.y.rule = .unused ↔ row.y = .zero := by cases row.y <;> simp [YFld.rule]
    rcases Nat.mod_two_eq_zero_or_one r.f2.toNat with hb | hb
    · have hx0 : f.x = 0 ↔ f.x.toNat = 0 := BitVec.toNat_inj.symm
      simp [hb, YFld.rule_ok, hy]
      tauto
    · simp [hb, YFld.rule_ok]
      tauto

theorem Row.x_limits {row : Row} (h : row.xrRegular = true) (hm : row.fmt ≠ .m) :
    row.mode1 = false ∧ (row.x = .zero → row.need = false) ∧ (∀ n, row.x = .fn n → n < 8 ∧ row.need = true) ∧
      (∀ n, row.x = .kdest n → row.need = true) := by
  cases hx : row.x <;> cases hf : row.fmt <;> simp_all [Row.xrRegular]

theorem Row.xrPasses_iff_of_not_memory {row : Row} (h : row.xrRegular = true) (r : Raw) (hm : row.fmt ≠ .m) :
    row.XrPasses (row.parts r) ↔ row.xrRule r = true := by
  simp only [Row.XrPasses, Row.usesX, Row.usesXr, Row.parts_nx, Row.parts_ny, Row.parts_n2, Row.parts_xr_isSome, Row.parts_xr_isNone]
  have hr : row.xrRule r = if row.x = .zero ∧ row.y = .zero then r.p.xr.isNone else r.p.wfXr row.need row.x.rule row.y.rule := by
    unfold Row.xrRule
    split
    · contradiction
    · split <;> simp_all
  have hm' : (row.fmt == .m) = false := by simpa using hm
  obtain ⟨-, hx0, hxn, hxk⟩ := Row.x_limits h hm
  rw [hr]
  simp only [hm', Pfx.wfXr, Pfx.x, Pfx.y]
  cases r.p.xr with
  | none =>
    have hselX : row.need = false → row.x.selects 0 = true := fun hn => by
      cases hx : row.x <;> simp_all [XFld.selects]
    have hselY := Row.y_selects_zero h
    simp
    tauto
  | some f =>
    have hout : row.x = .zero → row.x.outside f.x.toNat = false := fun hx => by rw [hx]; rfl
    simp [YFld.rule_ok, XFld.rule_ok _ _ (fun n hn => (hxn n hn).1)]
    tauto

end Sys2Proof
end

section
/-! PROOFS. The modifiers and the repetition: their payloads are read back, and the checks on them are their rules (R43 to R45). -/

namespace Sys2Proof

/-! ## The payloads of the modifiers -/

/-- The payload that the encoder gives each modifier (R45). -/
def NumMod.payload (m : NumMod) : Nat := m.round.code * 32 + bit m.zero * 8 + m.report.toNat
def OrdMod.payload (m : OrdMod) : Nat := 256 + m.order.code * 64 + m.scope.code * 8
def waitPayload (w : BitVec 8) : Nat := 512 + w.toNat

/-- The modifiers that the decoder reads from a payload. -/
def numOf (v : Nat) : NumMod := { round := roundOf (v / 32 % 8), zero := v / 8 % 4 == 1, report := BitVec.ofNat 3 v }
def ordOf (v : Nat) : OrdMod := { order := orderOf (v / 64 % 4), scope := scopeOf (v / 8 % 8) }

/-- MOD.KIND for each modifier. -/
def badNum (v : Nat) : Bool :=
  v % 256 == 0 || decide (5 < v / 32 % 8) || decide (1 < v / 8 % 4) || ((v / 8 % 4 == 1) != (v % 8 != 0))
def badOrd (v : Nat) : Bool := decide (5 < v / 8 % 8) || v % 8 != 0 || v / 8 % 32 == 0
def badWait (v : Nat) : Bool := v % 256 == 0

theorem badModifier_eq_false (num ord wait bad : Option Nat) : badModifier num ord wait bad = false ↔
    bad = none ∧ num.any badNum = false ∧ ord.any badOrd = false ∧ wait.any badWait = false := by
  cases num <;> cases ord <;> cases wait <;> cases bad <;>
    simp [badModifier, badNum, badOrd, badWait, and_assoc]

@[simp] theorem roundOf_code (x : Round) : roundOf x.code = x := by cases x <;> rfl
@[simp] theorem orderOf_code (x : Order) : orderOf x.code = x := by cases x <;> rfl
@[simp] theorem scopeOf_code (x : Scope) : scopeOf x.code = x := by cases x <;> rfl
theorem code_roundOf {n : Nat} (h : n ≤ 5) : (roundOf n).code = n := by interval_cases n <;> rfl
theorem code_orderOf {n : Nat} (h : n ≤ 3) : (orderOf n).code = n := by interval_cases n <;> rfl
theorem code_scopeOf {n : Nat} (h : n ≤ 5) : (scopeOf n).code = n := by interval_cases n <;> rfl
theorem Round.code_le (x : Round) : x.code ≤ 5 := by cases x <;> decide
theorem Order.code_le (x : Order) : x.code ≤ 3 := by cases x <;> decide
theorem Scope.code_le (x : Scope) : x.code ≤ 5 := by cases x <;> decide

theorem bit_eq_one (b : Bool) : (bit b == 1) = b := by cases b <;> rfl

/-- The parts of a numeric modifier's payload (R45). -/
theorem NumMod.payload_parts (m : NumMod) : m.payload / 32 = m.round.code ∧ m.payload / 8 % 4 = bit m.zero ∧
    m.payload % 8 = m.report.toNat := by
  have := bit_le_one m.zero
  simp only [NumMod.payload]
  omega

theorem OrdMod.payload_parts (m : OrdMod) : m.payload / 64 = 4 + m.order.code ∧ m.payload / 8 % 8 = m.scope.code ∧
    m.payload % 8 = 0 := by
  have := m.scope.code_le
  simp only [OrdMod.payload]
  omega

theorem numOf_payload (m : NumMod) : numOf m.payload = m := by
  obtain ⟨h1, h2, h3⟩ := m.payload_parts
  have h4 := m.round.code_le
  have hr : BitVec.ofNat 3 m.payload = m.report := by
    apply BitVec.eq_of_toNat_eq
    rw [BitVec.toNat_ofNat, ← h3]
  rw [numOf, h1, h2, hr, Nat.mod_eq_of_lt (by omega), roundOf_code, bit_eq_one]

theorem ordOf_payload (m : OrdMod) : ordOf m.payload = m := by
  obtain ⟨h1, h2, -⟩ := m.payload_parts
  have h4 := m.order.code_le
  rw [ordOf, h1, h2, Nat.add_mod_left, Nat.mod_eq_of_lt (by omega), orderOf_code, scopeOf_code]

theorem ofNat_waitPayload (w : BitVec 8) : BitVec.ofNat 8 (waitPayload w) = w := by
  apply BitVec.eq_of_toNat_eq
  simp only [waitPayload, BitVec.toNat_ofNat]
  omega

/-- A payload that passes MOD.KIND is the one that the encoder gives what is read from it. -/
theorem payload_numOf {v : Nat} (h : v < 256) (hb : badNum v = false) : (numOf v).payload = v := by
  simp only [badNum, Bool.or_eq_false_iff, beq_eq_false_iff_ne, decide_eq_false_iff_not, bne_eq_false_iff_eq] at hb
  obtain ⟨⟨⟨-, h5⟩, h1⟩, -⟩ := hb
  have hz : bit (v / 8 % 4 == 1) = v / 8 % 4 := by
    rcases (by omega : v / 8 % 4 = 0 ∨ v / 8 % 4 = 1) with e | e <;> rw [e] <;> rfl
  simp only [NumMod.payload, numOf, code_roundOf (by omega : v / 32 % 8 ≤ 5), hz, BitVec.toNat_ofNat]
  omega

theorem payload_ordOf {v : Nat} (h : v / 256 = 1) (hb : badOrd v = false) : (ordOf v).payload = v := by
  simp only [badOrd, Bool.or_eq_false_iff, beq_eq_false_iff_ne, decide_eq_false_iff_not, bne_eq_false_iff_eq] at hb
  obtain ⟨⟨h5, h0⟩, -⟩ := hb
  simp only [OrdMod.payload, ordOf, code_orderOf (by omega : v / 64 % 4 ≤ 3), code_scopeOf (by omega : v / 8 % 8 ≤ 5)]
  omega

theorem waitPayload_ofNat {v : Nat} (h : v / 256 = 2) : waitPayload (BitVec.ofNat 8 v) = v := by
  simp only [waitPayload, BitVec.toNat_ofNat]
  omega

/-! ## Modifiers -/

/-- What R45 asks of a modifier by itself. -/
def NumMod.wf (m : NumMod) : Bool := !(m.round == .dflt && !m.zero) && (m.zero == (m.report != 0))
def OrdMod.wf (m : OrdMod) : Bool := !(m.order == .relaxed && m.scope == .dflt)

theorem wfBase_iff (p : Pfx) (paged : Bool) : p.wfBase paged = true ↔ p.count + bit paged ≤ 4 ∧ p.imm.length ≤ 2 ∧
    p.num.all NumMod.wf = true ∧ p.ord.all OrdMod.wf = true ∧ p.wait.all (· != 0) = true := by
  unfold Pfx.wfBase
  cases p.num <;> cases p.ord <;> cases p.wait <;> simp [NumMod.wf, OrdMod.wf, and_assoc]

theorem badNum_payload (m : NumMod) : badNum m.payload = !m.wf := by
  obtain ⟨x, z, k⟩ := m
  revert k
  cases x <;> cases z <;> decide

theorem badOrd_payload (m : OrdMod) : badOrd m.payload = !m.wf := by
  obtain ⟨x, y⟩ := m
  cases x <;> cases y <;> rfl

theorem badWait_payload (w : BitVec 8) : badWait (waitPayload w) = !(w != 0) := by
  revert w
  decide

/-- What a chain's prefixes present to the checks. -/
def Pfx.numPayload (p : Pfx) : Option Nat := p.num.map NumMod.payload
def Pfx.ordPayload (p : Pfx) : Option Nat := p.ord.map OrdMod.payload
def Pfx.waitPayload (p : Pfx) : Option Nat := p.wait.map Sys2Proof.waitPayload
def Pfx.repPayload (p : Pfx) : Option Nat := p.rep.map RepPfx.payload

theorem Pfx.badModifier_iff (p : Pfx) : badModifier p.numPayload p.ordPayload p.waitPayload none = false ↔
    p.num.all NumMod.wf = true ∧ p.ord.all OrdMod.wf = true ∧ p.wait.all (· != 0) = true := by
  rw [badModifier_eq_false]
  unfold Pfx.numPayload Pfx.ordPayload Pfx.waitPayload
  cases p.num <;> cases p.ord <;> cases p.wait <;> simp [badNum_payload, badOrd_payload, badWait_payload]

/-- A fence's missing order (R197). -/
def lacksOrder (ord : Option Nat) : Bool := match ord with | some v => v / 64 % 4 == 0 | none => true

/-- The bits of an order: acquire, which no store has, release, which no load has, and either, which a fence has. -/
theorem Pfx.orderBits (p : Pfx) : orderBit p.ordPayload 0 = !p.wfStoreOrd ∧ orderBit p.ordPayload 1 = !p.wfLoadOrd ∧
    lacksOrder p.ordPayload = !p.wfFence := by
  unfold Pfx.ordPayload Pfx.wfStoreOrd Pfx.wfLoadOrd Pfx.wfFence Pfx.order
  cases p.ord with
  | none => exact ⟨rfl, rfl, rfl⟩
  | some m =>
    obtain ⟨h1, -, -⟩ := m.payload_parts
    simp only [orderBit, lacksOrder, Option.map_some, h1]
    cases m.order <;> exact ⟨rfl, rfl, rfl⟩

/-- The checks of the ordering modifier against its place (R49, R197). -/
theorem Row.ordRule_iff (row : Row) (r : Raw) : (row.ordRule r).getD true = true ↔
    (r.p.ordPayload.isSome && row.ord == .none) = false ∧ (row.ord == .store && orderBit r.p.ordPayload 0) = false ∧
      (row.ord == .load && orderBit r.p.ordPayload 1) = false ∧ (row.ord == .fence && lacksOrder r.p.ordPayload) = false := by
  obtain ⟨hacq, hrel, hlacks⟩ := r.p.orderBits
  rw [hacq, hrel, hlacks]
  have hsome : r.p.ordPayload.isSome = r.p.ord.isSome := by simp [Pfx.ordPayload]
  cases h : row.ord <;> simp [Row.ordRule, h, hsome]

/-- A rounding mode or a lane-fault mode at an instruction that has none (R49). -/
def Row.misplacedNum (row : Row) (v : Nat) : Bool := (v / 32 % 8 != 0 && !row.round) || (v / 8 % 4 != 0 && !row.lane)

theorem Row.modPlace_eq_false (row : Row) (num ord : Option Nat) : row.modPlace num ord = false ↔
    num.any row.misplacedNum = false ∧ (ord.isSome && row.ord == .none) = false := by
  cases num <;> simp [Row.modPlace, Row.misplacedNum]

theorem Row.misplacedNum_payload (row : Row) (m : NumMod) :
    row.misplacedNum m.payload = (m.round != .dflt && !row.round || m.zero && !row.lane) := by
  obtain ⟨h1, h2, -⟩ := m.payload_parts
  simp only [Row.misplacedNum, h1, h2]
  cases m.round <;> cases m.zero <;> rfl

/-- The checks of the numeric modifier against its place (R49). -/
theorem Row.numRule_iff (row : Row) (r : Raw) (h : r.p.num.all NumMod.wf = true) :
    (row.numRule r).getD true = true ↔ r.p.numPayload.any row.misplacedNum = false := by
  unfold Pfx.numPayload
  cases hn : r.p.num with
  | none => cases h1 : row.round <;> cases h2 : row.lane <;> simp [Row.numRule, Pfx.laneZero, Pfx.round, *]
  | some m =>
    simp only [hn, Option.all_some, NumMod.wf, Bool.and_eq_true, Bool.not_eq_true', Bool.and_eq_false_iff] at h
    simp only [Option.map_some, Option.any_some, Row.misplacedNum_payload]
    cases h1 : row.round <;> cases h2 : row.lane <;> simp [Row.numRule, Pfx.laneZero, Pfx.round, *] at h ⊢
    tauto

/-! ## The repetition -/

/-- R42, R44: bits 6:5 are zero where the count is a register. -/
def badRep (v : Nat) : Bool := v / 128 % 2 == 1 && v / 32 % 4 != 0

theorem RepPfx.payload_parts (x : RepPfx) : x.payload / 512 = bit x.step1 ∧ x.payload / 256 % 2 = bit x.step2 ∧
    (match x.count with
      | .imm n => x.payload / 128 % 2 = 0 ∧ x.payload % 128 = n.toNat
      | .reg s => x.payload / 128 % 2 = 1 ∧ x.payload % 128 = s.toNat) := by
  have h1 := bit_le_one x.step1
  have h2 := bit_le_one x.step2
  unfold RepPfx.payload
  cases x.count <;> simp only [] <;> omega

theorem repOf_payload (x : RepPfx) : repOf x.payload = x := by
  obtain ⟨h1, h2, h3⟩ := x.payload_parts
  have h4 := bit_le_one x.step1
  rw [repOf, h1, h2, Nat.mod_eq_of_lt (by omega), bit_eq_one, bit_eq_one]
  obtain ⟨a, b, n | s⟩ := x
  · obtain ⟨h128, hn⟩ := h3
    rw [if_neg (by omega), BitVec.eq_of_toNat_eq ((BitVec.toNat_ofNat ..).trans hn)]
  · obtain ⟨h128, hs⟩ := h3
    rw [if_pos h128, BitVec.eq_of_toNat_eq (y := s) ((BitVec.toNat_ofNat ..).trans (by omega))]

theorem payload_repOf {v : Nat} (h : v < 1024) (hb : badRep v = false) : (repOf v).payload = v := by
  have hbit : ∀ n, bit (n % 2 == 1) = n % 2 := fun n => by
    rcases Nat.mod_two_eq_zero_or_one n with e | e <;> rw [e] <;> rfl
  have hs : v / 128 % 2 = 1 → v / 32 % 4 = 0 := by simpa [badRep] using hb
  rw [RepPfx.payload, repOf, hbit, hbit]
  by_cases h128 : v / 128 % 2 = 1
  · have := hs h128
    simp only [if_pos h128, BitVec.toNat_ofNat]
    omega
  · simp only [if_neg h128, BitVec.toNat_ofNat]
    omega

theorem Row.repTarget_payload (row : Row) (x : RepPfx) :
    row.repTarget (some x.payload) = (!row.rep || (x.step2 && row.fmt != .a)) := by
  obtain ⟨-, h2, -⟩ := x.payload_parts
  simp only [Row.repTarget, h2, bit_eq_one]

/-- A static count keeps inside the file of each field that steps. -/
theorem Row.repStatic_payload (row : Row) (r : Raw) (x : RepPfx) : row.repStatic (row.parts r) (some x.payload) = false ↔
    ∀ n, x.count = .imm n → n ≠ 0 → (x.step1 = true → r.f1.toNat + n.toNat ≤ row.f1.fileSize) ∧
      (x.step2 = true → r.f2.toNat + n.toNat ≤ row.f2.fileSize) := by
  obtain ⟨h1, h2, h3⟩ := x.payload_parts
  have h4 := bit_le_one x.step1
  simp only [Row.repStatic, h1, h2, Nat.mod_eq_of_lt (by omega : bit x.step1 < 2), bit_eq_one, Row.parts_n1, Row.parts_n2]
  obtain ⟨a, b, n | s⟩ := x
  · obtain ⟨h128, hn⟩ := h3
    have h0 : n.toNat = 0 ↔ n = 0 := BitVec.toNat_inj (y := (0 : BitVec 7))
    simp [h128, hn, h0]
  · obtain ⟨h128, hs⟩ := h3
    simp [h128]

theorem Pfx.wfRep_iff {p : Pfx} {x : RepPfx} (h : p.rep = some x) (f1 : Nat × Nat) (f2 : Option (Nat × Nat)) :
    p.wfRep (some f1) f2 = true ↔ (x.step2 = true → f2.isSome = true) ∧
      ∀ n, x.count = .imm n → n ≠ 0 → (x.step1 = true → f1.2 + n.toNat ≤ f1.1) ∧
        (x.step2 = true → ∀ f ∈ f2, f.2 + n.toNat ≤ f.1) := by
  obtain ⟨a, b, n | s⟩ := x
  · by_cases hn : n = 0#7
    · cases a <;> cases b <;> cases f2 <;> simp [Pfx.wfRep, h, hn]
    · cases a <;> cases b <;> cases f2 <;> simp [Pfx.wfRep, h, hn]
  · cases b <;> simp [Pfx.wfRep, h]

/-- REP.TARGET and REP.STATIC (R44). -/
theorem Row.repRule_iff (row : Row) (r : Raw) (h : row.Canonical r) : row.repRule r = true ↔
    row.repTarget r.p.repPayload = false ∧ row.repStatic (row.parts r) r.p.repPayload = false := by
  obtain ⟨h1, h2⟩ := h
  have hrule : row.repRule r = if row.rep = true then r.p.wfRep (some (row.f1.fileSize, r.f1.toNat))
      (if row.fmt = .a then some (row.f2.fileSize, r.f2.toNat) else none) else r.p.rep.isNone := by
    unfold Row.repRule
    rw [h1, h2]
    split <;> simp_all
  rw [hrule, Pfx.repPayload]
  cases hx : r.p.rep with
  | none => cases row.rep <;> simp [Pfx.wfRep, hx, Row.repTarget, Row.repStatic]
  | some x =>
    rw [Option.map_some, Row.repStatic_payload, Row.repTarget_payload]
    cases row.rep with
    | false => simp
    | true =>
      rw [if_pos rfl, Pfx.wfRep_iff hx]
      by_cases hf : row.fmt = .a
      · simp [hf]
      · cases hstep : x.step2 <;> simp [hf]
end Sys2Proof
end

section
/-! PROOFS. The immediates: the checks on them are their rules (R47, R49). -/

namespace Sys2Proof

/-! ## Immediates -/

/-- PFX.NOUSE of an immediate, and mode 1 where it is the only one. -/
theorem Row.immRule_iff (row : Row) (r : Raw) (h : row.fmt = .m → row.takesImm = true) : (row.immRule r).getD true = true ↔
    (!r.p.imm.isEmpty && (!row.takesImm || (row.fmt == .m && r.f2.toNat % 2 == 1))) = false := by
  have hreg := r.regOff_iff
  by_cases hf : row.fmt = .m
  · simp [Row.immRule, hf, h hf, hreg]
    tauto
  · have hrule : row.immRule r = if row.takesImm = true then none else some r.p.imm.isEmpty := by
      unfold Row.immRule
      split <;> simp_all
    rw [hrule]
    cases row.takesImm <;> simp [hf]

theorem Row.modeRule_iff (row : Row) (r : Raw) : (row.modeRule r).getD true = true ↔ (row.mode1 && r.f2.toNat % 2 == 0) = false := by
  have hreg := r.regOff_iff
  cases h : row.mode1 <;> simp [Row.modeRule, h, hreg]

theorem immPayload_lt (l : List (BitVec 10)) (acc : Nat) : immPayload l acc < (acc + 1) * 1024 ^ l.length := by
  induction l generalizing acc with
  | nil => simp [immPayload]
  | cons x xs ih =>
    calc immPayload (x :: xs) acc = immPayload xs (acc * 1024 + x.toNat) := rfl
      _ < (acc * 1024 + x.toNat + 1) * 1024 ^ xs.length := ih _
      _ ≤ ((acc + 1) * 1024) * 1024 ^ xs.length := Nat.mul_le_mul_right _ (by omega)
      _ = _ := by rw [List.length_cons, pow_succ', ← mul_assoc]

/-- A number of w bits lies in its range. -/
theorem sextNat_bounds (w n : Nat) : -(2 ^ w : Int) ≤ 2 * sextNat w n ∧ 2 * sextNat w n < 2 ^ w := by
  unfold sextNat
  have hlt := Nat.mod_lt n (Nat.two_pow_pos w)
  have hc : ((2 ^ w : Nat) : Int) = 2 ^ w := by simp
  by_cases h0 : w = 0
  · simp [h0]
  · rw [if_neg h0]
    split <;> omega

theorem Pfx.immZ_le {p : Pfx} (h : p.imm.length ≤ 2) (i : BitVec 5) : p.immZ i ≤ 33554431 := by
  have h1 := immPayload_lt p.imm 0
  have hp : 1024 ^ p.imm.length ≤ 1024 ^ 2 := Nat.pow_le_pow_right (by decide) h
  unfold Pfx.immZ
  omega

/-- With two immediate prefixes at most, every immediate lies in the limits of the rows that name none. -/
theorem Row.immOf_bounds (row : Row) {r : Raw} (h : r.p.imm.length ≤ 2) : -2147483648 ≤ row.immOf r ∧ row.immOf r ≤ 2147483648 := by
  have hb : ∀ w n, w ≤ 30 → -2147483648 ≤ sextNat w n ∧ sextNat w n ≤ 2147483648 := fun w n hw => by
    have := sextNat_bounds w n
    have hp : (2 : Int) ^ w ≤ 2 ^ 30 := pow_le_pow_right₀ (by decide) hw
    omega
  cases hf : row.fmt <;> simp only [Row.immOf, hf]
  case i | j | m => exact hb _ _ (by omega)
  case l =>
    have := Pfx.immZ_le h r.f2
    omega
  all_goals decide

/-- The selector of a row in the value of an immediate. -/
def Sel.selects : Sel → Int → Bool
  | .immHi n, v => v / 64 % 4 == n
  | .kcall n, v => if n < 6 then v == n else true
  | _, _ => true

/-- The reserved system registers, IMM.RANGE and the selectors in an immediate; the last call number stands for those that are left. -/
def Row.ImmPasses (row : Row) (v : Int) : Prop :=
  (row.sysreg && decide (29 ≤ v) && decide (v ≤ 63)) = false ∧ (decide (v < row.lo) || decide (row.hi < v)) = false ∧
  row.sel.selects v = true ∧ (row.sel = .kcall 6 → 6 ≤ v)

theorem Row.limitRule_iff {row : Row} (h : row.immRegular = true) (hs : ∀ n, row.sel ≠ .immHi n ∧ row.sel ≠ .kcall n) {r : Raw}
    (hl : r.p.imm.length ≤ 2) : (row.limitRule r).getD true = true ↔
      (row.sysreg && decide (29 ≤ row.immOf r) && decide (row.immOf r ≤ 63)) = false ∧
        (decide (row.immOf r < row.lo) || decide (row.hi < row.immOf r)) = false := by
  have hb := row.immOf_bounds hl
  have hreg : if row.fmt = .l then row.lo == 1 && row.hi == 33554431 && !row.sysreg
      else if row.sysreg then row.lo == 0 && row.hi == 63
      else decide (0 ≤ row.lo) || row.lo == -2147483648 && row.hi == 2147483648 := by
    cases hsel : row.sel <;> simp_all [Row.immRegular]
  by_cases hf : row.fmt = .l
  · have hz : row.immOf r = r.p.immZ r.f2 := by simp [Row.immOf, hf]
    simp [hf] at hreg
    simp [Row.limitRule, hf, hreg]
    have := Pfx.immZ_le hl r.f2
    omega
  · cases hy : row.sysreg with
    | true =>
      simp [hf, hy] at hreg
      simp [Row.limitRule, hy, hreg, inRange]
      omega
    | false =>
      simp [hf, hy] at hreg
      by_cases hlo : row.lo < 0
      · simp [Row.limitRule, hy, hlo]
        omega
      · simp [Row.limitRule, hy, hlo, inRange]

theorem Row.rangeRule_iff {row : Row} (h : row.immRegular = true) {r : Raw} (hl : r.p.imm.length ≤ 2) :
    (row.rangeRule r).getD true = true ↔ row.ImmPasses (row.immOf r) := by
  rw [Row.ImmPasses]
  cases hsel : row.sel with
  | immHi n =>
    simp [Row.immRegular, hsel] at h
    simp [Row.rangeRule, hsel, Sel.selects, inRange, h]
    omega
  | kcall n =>
    simp [Row.immRegular, hsel] at h
    by_cases hn : n < 6
    · simp [Row.rangeRule, hsel, Sel.selects, inRange, h, hn]
      omega
    · simp [Row.rangeRule, hsel, Sel.selects, inRange, h, hn]
      omega
  | none | link =>
    simp only [Row.rangeRule, hsel, Row.limitRule_iff h (fun n => by simp [hsel]) hl]
    simp [Sel.selects]
end Sys2Proof
end

section
/-! PROOFS. The checks of a row are the rules of its instruction. -/

namespace Sys2Proof

/-! ## The checks of a row, rule by rule -/

theorem Row.rsvField_eq (row : Row) (q : Parts) : row.rsvField q =
    ((row.fmt != .j && row.f1.reserved q.n1) || ((row.fmt == .a || row.fmt == .u || row.fmt == .t) && row.f2.reserved q.n2) ||
      (row.mode1 && q.n2 % 2 == 0) || (row.sysreg && decide (29 ≤ row.imm q) && decide (row.imm q ≤ 63)) ||
      (q.xr.isSome && row.usesXr q && ((!row.usesX q && q.nx != 0) || row.x.reserved q.nx || row.y.reserved q.ny))) := by
  unfold Row.rsvField XFld.reserved YFld.reserved
  cases row.x <;> cases row.y <;> rfl

theorem Row.regRange_eq (row : Row) (q : Parts) : row.regRange q =
    ((row.fmt != .j && row.f1.outside q.n1) || (row.fmt == .a && row.f2.outside q.n2) ||
      (q.xr.isSome && row.usesX q && row.x.outside q.nx)) := by
  unfold Row.regRange XFld.outside
  cases row.x <;> rfl

theorem Row.missing_eq (row : Row) (q : Parts) (ord : Option Nat) : row.missing q ord =
    ((q.xr.isNone && (row.need || (row.fmt == .m && q.n2 % 2 == 1))) || (row.ord == .fence && lacksOrder ord)) := by
  cases ord <;> rfl

/-- A fixed field holds its selector. -/
def Fld.selects : Fld → Nat → Bool
  | .fixed n, w => w == n
  | _, _ => true

theorem Row.selects_iff (row : Row) (q : Parts) : row.selects q = true ↔ row.page = q.page ∧ row.major = q.major ∧
    row.f1.selects q.n1 = true ∧ row.f2.selects q.n2 = true ∧ row.x.selects q.nx = true ∧ row.y.selects q.ny = true ∧
    row.sel.selects (row.imm q) = true ∧ (row.sel = .link → q.n1 ≠ 0) := by
  have h : row.selects q = (row.page == q.page && row.major == q.major && row.f1.selects q.n1 && row.f2.selects q.n2 &&
      row.x.selects q.nx && row.y.selects q.ny && (row.sel.selects (row.imm q) && (row.sel != .link || q.n1 != 0))) := by
    unfold Row.selects
    refine congrArg₂ and (congrArg₂ and (congrArg₂ and (congrArg₂ and (congrArg₂ and rfl ?_) ?_) ?_) ?_) ?_
    · cases row.f1 <;> rfl
    · cases row.f2 <;> rfl
    · cases row.x <;> rfl
    · cases row.y <;> rfl
    · cases row.sel <;> simp [Sel.selects]
  simp [h, and_assoc, or_iff_not_imp_left]

theorem Fld.selects_of_reserved {f : Fld} {n : Nat} (h : f.reserved n = false) : f.selects n = true := by
  cases f <;> simp_all [Fld.selects, Fld.reserved]

theorem checkThen_eq_none {c : Bool} {e : Reject} {x : Option Reject} :
    (if c = true then some e else x) = none ↔ c = false ∧ x = none := by
  cases c <;> simp

/-- No check of a chain fails (R54). -/
theorem Row.check_eq_none (row : Row) (q : Parts) (rep num ord wait bad : Option Nat) : row.check q rep num ord wait bad = none ↔
    row.rsvField q = false ∧ row.regRange q = false ∧ row.noUse q = false ∧ row.missing q ord = false ∧
    (decide (row.imm q < row.lo) || decide (row.hi < row.imm q)) = false ∧ badModifier num ord wait bad = false ∧
    row.modPlace num ord = false ∧ (row.ord == .store && orderBit ord 0) = false ∧ (row.ord == .load && orderBit ord 1) = false ∧
    row.repTarget rep = false ∧ row.repStatic q rep = false := by
  simp only [Row.check, checkThen_eq_none, and_true]

/-- A chain names a row and passes its checks. A call that the last row of its cell takes is none of the numbered ones. -/
structure Row.Accepts (row : Row) (q : Parts) (rep num ord wait bad : Option Nat) : Prop where
  selects : row.selects q = true
  other : row.sel = .kcall 6 → 6 ≤ row.imm q
  check : row.check q rep num ord wait bad = none

/-- What the map's columns promise of a row. -/
structure Row.Regular (row : Row) : Prop where
  first : row.firstRegular = true
  second : row.secondRegular = true
  xr : row.xrRegular = true
  imm : row.immRegular = true
  narrow1 : row.f1.narrow = true
  narrow2 : row.f2.narrow = true

theorem Row.xrRule_iff {row : Row} (h : row.xrRegular = true) (r : Raw) : row.XrPasses (row.parts r) ↔ row.xrRule r = true := by
  by_cases hf : row.fmt = .m
  · exact Row.xrPasses_iff_of_memory h r hf
  · exact Row.xrPasses_iff_of_not_memory h r hf

theorem Row.takesImm_of_memory {row : Row} (h : row.xrRegular = true) (hf : row.fmt = .m) : row.takesImm = true := by
  obtain ⟨hi, hx⟩ := Row.x_of_memory h hf
  simp only [Row.xrRegular, hf, hx, Bool.and_eq_true] at h
  exact h.1

/-- The first operand field passes its checks and names the row's selector. -/
theorem Row.firstPasses_iff {row : Row} (h : row.firstRegular = true) (r : Raw) : row.FirstPasses r ↔
    (row.fmt != .j && row.f1.reserved r.f1.toNat) = false ∧ (row.fmt != .j && row.f1.outside r.f1.toNat) = false ∧
      row.f1.selects r.f1.toNat = true ∧ (row.sel = .link → r.f1.toNat ≠ 0) := by
  simp only [Row.firstRegular, Bool.and_eq_true, Bool.or_eq_true, bne_iff_ne, beq_iff_eq] at h
  have hsel : (row.fmt ≠ .j → row.f1.reserved r.f1.toNat = false) → row.f1.selects r.f1.toNat = true := fun hr => by
    by_cases hf : row.fmt = .j
    · rw [(h.1.resolve_left (not_not_intro hf)).1]
      rfl
    · exact Fld.selects_of_reserved (hr hf)
  simp only [Row.FirstPasses, Bool.and_eq_false_imp, bne_iff_ne]
  tauto

/-- The second operand field passes its checks and names the row's selector. -/
theorem Row.secondPasses_iff {row : Row} (h : row.secondRegular = true) (r : Raw) : row.SecondPasses r ↔
    ((row.fmt == .a || row.fmt == .u || row.fmt == .t) && row.f2.reserved r.f2.toNat) = false ∧
      (row.fmt == .a && row.f2.outside r.f2.toNat) = false ∧ row.f2.selects r.f2.toNat = true := by
  have hsel : (row.fmt = .a ∨ row.fmt = .u ∨ row.fmt = .t → row.f2.reserved r.f2.toNat = false) →
      row.f2.selects r.f2.toNat = true := fun hr => by
    cases hf : row.fmt with
    | a | u | t => exact Fld.selects_of_reserved (hr (by simp [hf]))
    | i | l | j | m =>
      simp only [Row.secondRegular, hf, beq_iff_eq] at h
      rw [h]
      rfl
  simp only [Row.SecondPasses, Bool.and_eq_false_imp, Bool.or_eq_true, beq_iff_eq]
  tauto

/-- The checks of a chain, sorted by the rule that each belongs to. -/
theorem Row.accepts_iff_passes {row : Row} (h : row.Regular) (r : Raw) :
    row.Accepts (row.parts r) r.p.repPayload r.p.numPayload r.p.ordPayload r.p.waitPayload none ↔
    row.FirstPasses r ∧ row.SecondPasses r ∧ row.XrPasses (row.parts r) ∧
    (!r.p.imm.isEmpty && (!row.takesImm || (row.fmt == .m && r.f2.toNat % 2 == 1))) = false ∧
    (row.mode1 && r.f2.toNat % 2 == 0) = false ∧ row.ImmPasses (row.immOf r) ∧
    badModifier r.p.numPayload r.p.ordPayload r.p.waitPayload none = false ∧ r.p.numPayload.any row.misplacedNum = false ∧
    ((r.p.ordPayload.isSome && row.ord == .none) = false ∧ (row.ord == .store && orderBit r.p.ordPayload 0) = false ∧
      (row.ord == .load && orderBit r.p.ordPayload 1) = false ∧ (row.ord == .fence && lacksOrder r.p.ordPayload) = false) ∧
    row.repTarget r.p.repPayload = false ∧ row.repStatic (row.parts r) r.p.repPayload = false := by
  rw [Row.firstPasses_iff h.first, Row.secondPasses_iff h.second, Row.XrPasses, Row.ImmPasses]
  have hacc : row.Accepts (row.parts r) r.p.repPayload r.p.numPayload r.p.ordPayload r.p.waitPayload none ↔
      row.selects (row.parts r) = true ∧ (row.sel = .kcall 6 → 6 ≤ row.imm (row.parts r)) ∧
        row.check (row.parts r) r.p.repPayload r.p.numPayload r.p.ordPayload r.p.waitPayload none = none :=
    ⟨fun ⟨a, b, c⟩ => ⟨a, b, c⟩, fun ⟨a, b, c⟩ => ⟨a, b, c⟩⟩
  rw [hacc, Row.check_eq_none, Row.rsvField_eq, Row.regRange_eq, Row.missing_eq, Row.noUse, Row.modPlace_eq_false, Row.selects_iff]
  simp only [Row.parts_n1, Row.parts_n2, Row.parts_nx, Row.parts_ny, Row.parts_imm, Row.parts_xr_isSome, Row.parts_xr_isNone,
    Row.parts_imms, Bool.or_eq_false_iff]
  constructor
  · rintro ⟨⟨-, -, s1, s2, sx, sy, si, sl⟩, other, ⟨⟨⟨⟨v1, v2⟩, vm⟩, vs⟩, vx⟩, ⟨⟨o1, o2⟩, ox⟩, ⟨ux, ui⟩, ⟨mx, mo⟩, range, kind,
      ⟨pn, po⟩, acq, rel, target, static⟩
    exact ⟨⟨v1, o1, s1, sl⟩, ⟨v2, o2, s2⟩, ⟨sx, sy, vx, ox, ux, mx⟩, ui, vm, ⟨vs, range, si, other⟩, kind, pn, ⟨po, acq, rel, mo⟩,
      target, static⟩
  · rintro ⟨⟨v1, o1, s1, sl⟩, ⟨v2, o2, s2⟩, ⟨sx, sy, vx, ox, ux, mx⟩, ui, vm, ⟨vs, range, si, other⟩, kind, pn,
      ⟨po, acq, rel, mo⟩, target, static⟩
    exact ⟨⟨rfl, rfl, s1, s2, sx, sy, si, sl⟩, other, ⟨⟨⟨⟨v1, v2⟩, vm⟩, vs⟩, vx⟩, ⟨⟨o1, o2⟩, ox⟩, ⟨ux, ui⟩, ⟨mx, mo⟩, range, kind,
      ⟨pn, po⟩, acq, rel, target, static⟩

/-- A well-formed instruction's rules are the checks of its row. -/
theorem Row.accepts_iff {row : Row} (h : row.Regular) (r : Raw) (hl : r.p.imm.length ≤ 2) :
    row.Accepts (row.parts r) r.p.repPayload r.p.numPayload r.p.ordPayload r.p.waitPayload none ↔
    row.Canonical r ∧ (r.p.num.all NumMod.wf = true ∧ r.p.ord.all OrdMod.wf = true ∧ r.p.wait.all (· != 0) = true) ∧
    ∀ b ∈ row.rules r, b.getD true = true := by
  simp only [Row.rules, List.forall_mem_cons, Option.getD_some, List.not_mem_nil, false_implies, implies_true, and_true,
    Row.immRule_iff row r (Row.takesImm_of_memory h.xr), row.modeRule_iff r, ← Row.xrRule_iff h.xr r, Row.rangeRule_iff h.imm hl,
    row.ordRule_iff r, Row.accepts_iff_passes h, Row.first_iff h.first, Row.second_iff h.second, r.p.badModifier_iff, Row.Canonical]
  have hnum := row.numRule_iff r
  have hrep := row.repRule_iff r
  tauto
end Sys2Proof
end

section
/-! PROOFS. No chain is accepted by two rows of the opcode map. -/

namespace Sys2Proof

/-! ## The row that a chain names -/

/-- Two rows that no accepted chain meets both of: they stand in two cells of the map, or their selectors differ; `call` comes before
`jmp`, and the numbered calls before the other ones. -/
def Row.apart (a b : Row) : Bool :=
  a.page != b.page || a.major != b.major ||
  (match a.f1, b.f1 with | .fixed m, .fixed n => m != n | _, _ => false) ||
  (match a.f2, b.f2 with | .fixed m, .fixed n => m != n | _, _ => false) ||
  (match a.x, b.x with | .kdest m, .kdest n => m != n | .fn m, .fn n => m != n | _, _ => false) ||
  (match a.y, b.y with | .fn m, .fn n => m != n | _, _ => false) ||
  (match a.sel, b.sel with
    | .immHi m, .immHi n => m != n && a.fmt == b.fmt
    | .kcall m, .kcall n => decide (m < 6) && decide (n ≤ 6) && m != n && a.fmt == b.fmt
    | .link, _ => b.f1 == .zero && b.fmt != .j
    | _, _ => false)

/-- The opcode map is unambiguous (R53): its rows, two by two. -/
theorem rows_apart : rows.Pairwise (fun a b => a.apart b = true) := by decide +kernel

/-- A chain names a row: it has the row's selectors, and none that an earlier row of the cell has. -/
structure Row.Named (row : Row) (q : Parts) : Prop where
  selects : row.selects q = true
  other : row.sel = .kcall 6 → 6 ≤ row.imm q
  zero : row.f1 = .zero → row.fmt ≠ .j → q.n1 = 0

theorem Row.imm_congr {a b : Row} (h : a.fmt = b.fmt) (q : Parts) : a.imm q = b.imm q := by
  simp only [Row.imm, h]

theorem Row.not_selects_of_apart {a b : Row} {q : Parts} (h : a.apart b = true) (hb : b.Named q) : a.selects q = false := by
  obtain ⟨hs, ho, hz⟩ := hb
  rw [Row.selects_iff] at hs
  obtain ⟨hp, hm, h1, h2, hx, hy, hsel, hlink⟩ := hs
  by_contra ha
  rw [Bool.not_eq_false, Row.selects_iff] at ha
  obtain ⟨ap, am, a1, a2, ax, ay, asel, alink⟩ := ha
  simp only [Row.apart, Bool.or_eq_true] at h
  rcases h with (((((h | h) | h) | h) | h) | h) | h
  · simp [ap, hp] at h
  · simp [am, hm] at h
  · split at h <;> simp_all [Fld.selects]
  · split at h <;> simp_all [Fld.selects]
  · split at h <;> simp_all [XFld.selects]
  · split at h <;> simp_all [YFld.selects]
  · split at h
    case h_1 m n hma hnb =>
      simp only [Bool.and_eq_true, bne_iff_ne, beq_iff_eq] at h
      simp only [hma, hnb, Sel.selects, Row.imm_congr h.2, beq_iff_eq] at asel hsel
      omega
    case h_2 m n hma hnb =>
      simp only [Bool.and_eq_true, decide_eq_true_eq, bne_iff_ne, beq_iff_eq] at h
      obtain ⟨⟨⟨hm6, hn6⟩, hmn⟩, hfmt⟩ := h
      simp only [hma, hnb, Sel.selects, Row.imm_congr hfmt, if_pos hm6, beq_iff_eq, Sel.kcall.injEq] at asel hsel ho
      split at hsel
      · simp only [beq_iff_eq] at hsel
        omega
      · have := ho (by omega)
        omega
    case h_3 hma =>
      simp only [Bool.and_eq_true, bne_iff_ne, beq_iff_eq] at h
      exact alink hma (hz h.1 h.2)
    case h_4 => contradiction

/-- In a list where no earlier element meets what a later one does, the search finds that one. -/
theorem find?_of_pairwise {α : Type} {l : List α} {R : α → α → Prop} (hl : l.Pairwise R) {b : α} (hb : b ∈ l) {P : α → Bool}
    (hP : P b = true) (hR : ∀ a, R a b → P a = false) : l.find? P = some b := by
  induction hl with
  | nil => simp at hb
  | cons ha _ ih =>
    rcases List.mem_cons.mp hb with rfl | hb
    · exact List.find?_cons_of_pos hP
    · rw [List.find?_cons_of_neg (by simp [hR _ (ha b hb)]), ih hb]

theorem findRow_eq_of_named {row : Row} {q : Parts} (hr : row ∈ rows) (h : row.Named q) : findRow q = .ok row := by
  simp only [findRow, find?_of_pairwise rows_apart hr h.selects (fun a ha => Row.not_selects_of_apart ha h)]

theorem findRow_ok {row : Row} {q : Parts} (h : findRow q = .ok row) : row ∈ rows ∧ row.selects q = true := by
  unfold findRow at h
  split at h
  · next hf =>
    obtain rfl : _ = row := Except.ok.inj h
    exact ⟨List.mem_of_find?_eq_some hf, List.find?_some (p := fun (row : Row) => row.selects q) hf⟩
  · split at h <;> contradiction

/-- The rows of the numbered calls stand beside that of the others. -/
theorem rows_numbered_calls : rows.all (fun row => row.sel != .kcall 6 || row.f1 == .zero && (List.range 6).all (fun n =>
    rows.any (fun b => b.page == row.page && b.major == row.major && b.fmt == row.fmt && b.f1 == .zero && b.f2 == .zero &&
      b.x == .zero && b.y == .zero && b.sel == .kcall n))) = true := by
  decide +kernel

theorem rows_regular_of_mem {row : Row} (h : row ∈ rows) : row.Regular ∧ row.page < 10 ∧ row.major < 27 := by
  have hall := List.all_eq_true.mp rows_regular row h
  simp only [Bool.and_eq_true, decide_eq_true_eq] at hall
  obtain ⟨⟨⟨⟨⟨⟨⟨h1, h2⟩, h3⟩, h4⟩, h5⟩, h6⟩, hpage⟩, hmajor⟩ := hall
  exact ⟨⟨h1, h2, h3, h4, h5, h6⟩, hpage, hmajor⟩

theorem Row.n1_of_check {row : Row} {q : Parts} {rep num ord wait bad : Option Nat} (hc : row.check q rep num ord wait bad = none)
    (h1 : row.f1 = .zero) (hf : row.fmt ≠ .j) : q.n1 = 0 := by
  rw [Row.check_eq_none, Row.rsvField_eq] at hc
  obtain ⟨hrsv, -⟩ := hc
  simp only [Bool.or_eq_false_iff] at hrsv
  obtain ⟨⟨⟨⟨hz, -⟩, -⟩, -⟩, -⟩ := hrsv
  simpa [hf, h1, Fld.reserved] using hz

theorem Row.named_of_accepts {row : Row} {q : Parts} {rep num ord wait bad : Option Nat} (h : row.Accepts q rep num ord wait bad) :
    row.Named q :=
  ⟨h.selects, h.other, Row.n1_of_check h.check⟩

/-- The row that the map gives and whose checks pass accepts the chain: a call whose number is below 6 has its own row. -/
theorem Row.accepts_of_findRow {row : Row} {q : Parts} {rep num ord wait bad : Option Nat} (hf : findRow q = .ok row)
    (hc : row.check q rep num ord wait bad = none) : row.Accepts q rep num ord wait bad := by
  obtain ⟨hr, hs⟩ := findRow_ok hf
  refine ⟨hs, fun h6 => ?_, hc⟩
  by_contra hlt
  have hcalls := List.all_eq_true.mp rows_numbered_calls row hr
  simp only [h6, bne_self_eq_false, Bool.false_or, Bool.and_eq_true, beq_iff_eq, List.all_eq_true, List.mem_range,
    List.any_eq_true] at hcalls
  obtain ⟨h1, hcalls⟩ := hcalls
  have hlim := hc
  rw [Row.check_eq_none] at hlim
  have himm := (rows_regular_of_mem hr).1.imm
  simp only [Row.immRegular, h6, Bool.and_eq_true, beq_iff_eq] at himm
  have hlo : 0 ≤ row.imm q := by
    obtain ⟨-, -, -, -, hrange, -⟩ := hlim
    simp only [Bool.or_eq_false_iff, decide_eq_false_iff_not, not_lt] at hrange
    omega
  obtain ⟨b, hb, ⟨⟨⟨⟨⟨⟨⟨hp, hm⟩, hfmt⟩, b1⟩, b2⟩, bx⟩, hby⟩, bsel⟩⟩ := hcalls (row.imm q).toNat (by omega)
  rw [Row.selects_iff] at hs
  obtain ⟨rp, rm, -⟩ := hs
  have hvalue : b.imm q = (row.imm q).toNat := by
    rw [Row.imm_congr hfmt]
    omega
  have hnamed : b.Named q := by
    refine ⟨(Row.selects_iff b q).mpr ⟨hp.trans rp, hm.trans rm, by rw [b1]; rfl, by rw [b2]; rfl, by rw [bx]; rfl, by rw [hby]; rfl,
      ?_, by simp [bsel]⟩, fun h => ?_, fun _ hj => Row.n1_of_check hc h1 (hfmt ▸ hj)⟩
    · rw [bsel, Sel.selects, if_pos (by omega), hvalue]
      exact beq_self_eq_true _
    · have := Sel.kcall.inj (bsel.symm.trans h)
      omega
  have := (findRow_eq_of_named hb hnamed).symm.trans hf
  obtain rfl : b = row := Except.ok.inj this
  rw [h6] at bsel
  have := Sel.kcall.inj bsel
  omega

end Sys2Proof
end

section
/-! PROOFS. The halfwords of a chain: how they are ordered, counted, cut off and read (R34, R39, R43). -/

namespace Sys2Proof

/-! ## The halfwords before a base word -/

theorem halfMajor_lt (h : Half) : halfMajor h < 32 := Nat.mod_lt _ (by decide)

theorem halfPayload_lt (h : Half) : halfPayload h < 1024 := Nat.mod_lt _ (by decide)

theorem prefixHalf_toNat {m v : Nat} (hm : m < 32) (hv : v < 1024) : (prefixHalf m v).toNat = m * 1024 + v := by
  simp only [prefixHalf, BitVec.toNat_ofNat]
  omega

theorem halfMajor_prefixHalf {m v : Nat} (hm : m < 32) (hv : v < 1024) : halfMajor (prefixHalf m v) = m := by
  simp only [halfMajor, bitsOf, prefixHalf_toNat hm hv, Nat.shiftRight_eq_div_pow]
  omega

theorem halfPayload_prefixHalf {m v : Nat} (hm : m < 32) (hv : v < 1024) : halfPayload (prefixHalf m v) = v := by
  simp only [halfPayload, prefixHalf_toNat hm hv]
  omega

theorem getLsbD_15_prefixHalf {m v : Nat} (hm : m < 32) (hv : v < 1024) : (prefixHalf m v).getLsbD 15 = false := by
  rw [← BitVec.testBit_toNat, prefixHalf_toNat hm hv]
  exact Nat.testBit_lt_two_pow (by omega)

/-- The kind of a halfword before a base word, by its major and payload. -/
theorem prefixKind_eq (h : Half) : prefixKind h = if halfMajor h = 28 then 100 + halfPayload h / 256 else halfMajor h := by
  simp only [prefixKind, bitsOf, halfPayload, Nat.shiftRight_eq_div_pow]
  split
  · omega
  · rfl

theorem prefixKind_prefixHalf {m v : Nat} (hm : m < 32) (hv : v < 1024) :
    prefixKind (prefixHalf m v) = if m = 28 then 100 + v / 256 else m := by
  rw [prefixKind_eq, halfMajor_prefixHalf hm hv, halfPayload_prefixHalf hm hv]

/-- The kinds of prefixes: repeat, numeric, ordering, wait, the kind that R45 leaves out, extra-register, immediate, page. -/
def prefixKinds : List Nat := [27, 100, 101, 102, 103, 29, 30, 31]

theorem prefixKind_mem {h : Half} (hp : isPrefix h = true) : prefixKind h ∈ prefixKinds := by
  have h1 := halfMajor_lt h
  have h2 := halfPayload_lt h
  simp only [isPrefix, decide_eq_true_eq] at hp
  rw [prefixKind_eq]
  simp only [prefixKinds, List.mem_cons, List.not_mem_nil]
  split <;> omega

theorem prefixKind_eq_major {h : Half} {m : Nat} (hm : m < 28 ∨ 28 < m ∧ m < 32) : prefixKind h = m ↔ halfMajor h = m := by
  rw [prefixKind_eq]
  split <;> omega

theorem badBits_eq (h : Half) : badBits h = (h.getLsbD 15 ||
    (halfMajor h == 31 && (halfPayload h % 256 == 0 || halfPayload h / 256 != 0)) || (halfMajor h == 27 && badRep (halfPayload h))) := by
  have h7 : h.getLsbD 7 = (halfPayload h / 128 % 2 == 1) := by
    rw [← BitVec.testBit_toNat, Nat.testBit_eq_decide_div_mod_eq]
    rw [Bool.eq_iff_iff, decide_eq_true_eq, beq_iff_eq, halfPayload]
    omega
  have h5 : bitsOf h.toNat 5 2 = halfPayload h / 32 % 4 := by
    simp only [bitsOf, halfPayload, Nat.shiftRight_eq_div_pow]
    omega
  rw [badBits, h7, h5, badRep, Bool.and_assoc]

/-! ## The prefixes of a kind -/

def ofKind (k : Nat) (ps : List Half) : List Half := ps.filter (fun h => prefixKind h == k)

theorem kindCount_eq (k : Nat) (ps : List Half) : kindCount k ps = (ofKind k ps).length := rfl

theorem payloadOf_eq (k : Nat) (ps : List Half) : payloadOf k ps = (ofKind k ps).head?.map halfPayload := by
  rw [ofKind, List.head?_filter, payloadOf]
  cases ps.find? (fun h => prefixKind h == k) <;> rfl

theorem imms_eq (ps : List Half) : ps.filter (fun h => halfMajor h == 30) = ofKind 30 ps := by
  refine List.filter_congr (fun h _ => ?_)
  rw [Bool.eq_iff_iff, beq_iff_eq, beq_iff_eq, prefixKind_eq_major (by omega)]

/-- Halfwords of one kind. -/
theorem ofKind_of_forall {l : List Half} {m : Nat} (h : ∀ x ∈ l, prefixKind x = m) (k : Nat) :
    ofKind k l = if m = k then l else [] := by
  split
  · next e => exact List.filter_eq_self.mpr (fun x hx => by simp [h x hx, e])
  · next e => exact List.filter_eq_nil_iff.mpr (fun x hx => by simp [h x hx, e])

theorem ofKind_append (k : Nat) (l1 l2 : List Half) : ofKind k (l1 ++ l2) = ofKind k l1 ++ ofKind k l2 := List.filter_append ..

/-! ## The prefixes of a chain of the encoder -/

/-- The halfwords of each kind of prefixes, in the encoder's order. -/
def Pfx.repHalves (p : Pfx) : List Half := (p.rep.map (fun x => prefixHalf 27 x.payload)).toList
def Pfx.numHalves (p : Pfx) : List Half := (p.num.map (fun x => prefixHalf 28 x.payload)).toList
def Pfx.ordHalves (p : Pfx) : List Half := (p.ord.map (fun x => prefixHalf 28 x.payload)).toList
def Pfx.waitHalves (p : Pfx) : List Half := (p.wait.map (fun x => prefixHalf 28 (Sys2Proof.waitPayload x))).toList
def Pfx.xrHalves (p : Pfx) : List Half := (p.xr.map (fun x => prefixHalf 29 x.payload)).toList
def Pfx.immHalves (p : Pfx) : List Half := p.imm.map (fun v => prefixHalf 30 v.toNat)
def pageHalves (page : Nat) : List Half := if page = 0 then [] else [prefixHalf 31 page]

theorem Pfx.halves_eq (p : Pfx) (page : Nat) : p.halves page =
    p.repHalves ++ p.numHalves ++ p.ordHalves ++ p.waitHalves ++ p.xrHalves ++ p.immHalves ++ pageHalves page := by
  obtain ⟨s, rep, num, ord, wait, xr, imm⟩ := p
  cases rep <;> cases num <;> cases ord <;> cases wait <;> cases xr <;> rfl

theorem RepPfx.payload_lt (x : RepPfx) : x.payload < 1024 := by
  have h1 := bit_le_one x.step1
  have h2 := bit_le_one x.step2
  unfold RepPfx.payload
  cases x.count <;> simp only [] <;> omega

theorem NumMod.payload_lt (x : NumMod) : x.payload < 256 := by
  have h1 := bit_le_one x.zero
  have h2 := x.round.code_le
  unfold NumMod.payload
  omega

theorem OrdMod.payload_bounds (x : OrdMod) : 256 ≤ x.payload ∧ x.payload < 512 := by
  have h1 := x.order.code_le
  have h2 := x.scope.code_le
  unfold OrdMod.payload
  omega

theorem waitPayload_bounds (w : BitVec 8) : 512 ≤ waitPayload w ∧ waitPayload w < 768 := by
  unfold waitPayload
  omega

theorem XPfx.payload_lt (x : XPfx) : x.payload < 1024 := by
  unfold XPfx.payload
  omega

/-- A halfword before a base word, of one kind, that meets R42, R44 and R48. -/
structure Tidy (kind : Nat) (h : Half) : Prop where
  kind : prefixKind h = kind
  bits : badBits h = false
  isPrefix : isPrefix h = true

theorem tidy_prefixHalf (m : Nat) {v : Nat} (hm : 27 ≤ m ∧ m ≠ 28 ∧ m < 32) (hv : v < 1024) (hrep : m = 27 → badRep v = false)
    (hpage : m = 31 → v % 256 ≠ 0 ∧ v / 256 = 0) : Tidy m (prefixHalf m v) where
  kind := by rw [prefixKind_prefixHalf hm.2.2 hv, if_neg hm.2.1]
  bits := by
    rw [badBits_eq, getLsbD_15_prefixHalf hm.2.2 hv, halfMajor_prefixHalf hm.2.2 hv, halfPayload_prefixHalf hm.2.2 hv]
    simp only [Bool.false_or, Bool.or_eq_false_iff, Bool.and_eq_false_imp, beq_iff_eq]
    exact ⟨fun h => by simpa using hpage h, hrep⟩
  isPrefix := by simpa only [Sys2Proof.isPrefix, halfMajor_prefixHalf hm.2.2 hv, decide_eq_true_eq] using hm.1

theorem tidy_modifier {v : Nat} (k : Nat) (hv : v / 256 = k) (hk : k < 4) : Tidy (100 + k) (prefixHalf 28 v) where
  kind := by rw [prefixKind_prefixHalf (by decide) (by omega), if_pos rfl, hv]
  bits := by
    rw [badBits_eq, getLsbD_15_prefixHalf (by decide) (by omega), halfMajor_prefixHalf (by decide) (by omega)]
    rfl
  isPrefix := by simp [Sys2Proof.isPrefix, halfMajor_prefixHalf (by decide : 28 < 32) (by omega : v < 1024)]

theorem badRep_payload (x : RepPfx) : badRep x.payload = false := by
  obtain ⟨-, -, h3⟩ := x.payload_parts
  obtain ⟨a, b, n | s⟩ := x
  · obtain ⟨h128, -⟩ := h3
    simp [badRep, h128]
  · obtain ⟨h128, hs⟩ := h3
    simp only [badRep, h128, beq_self_eq_true, Bool.true_and, bne_eq_false_iff_eq]
    omega

/-- The prefixes of the encoder are tidy, kind by kind. -/
theorem Pfx.tidy_halves (p : Pfx) {page : Nat} (h : page < 10) :
    (∀ x ∈ p.repHalves, Tidy 27 x) ∧ (∀ x ∈ p.numHalves, Tidy 100 x) ∧
    (∀ x ∈ p.ordHalves, Tidy 101 x) ∧ (∀ x ∈ p.waitHalves, Tidy 102 x) ∧ (∀ x ∈ p.xrHalves, Tidy 29 x) ∧
    (∀ x ∈ p.immHalves, Tidy 30 x) ∧ (∀ x ∈ pageHalves page, Tidy 31 x) := by
  unfold Pfx.repHalves Pfx.numHalves Pfx.ordHalves Pfx.waitHalves Pfx.xrHalves Pfx.immHalves pageHalves
  simp only [Option.mem_toList, Option.map_eq_some_iff, List.mem_map]
  refine ⟨?_, ?_, ?_, ?_, ?_, ?_, ?_⟩
  · rintro _ ⟨x, -, rfl⟩
    exact tidy_prefixHalf 27 (by decide) x.payload_lt (fun _ => badRep_payload x) nofun
  · rintro _ ⟨x, -, rfl⟩
    exact tidy_modifier 0 (Nat.div_eq_of_lt x.payload_lt) (by decide)
  · rintro _ ⟨x, -, rfl⟩
    have := x.payload_bounds
    exact tidy_modifier 1 (by omega) (by decide)
  · rintro _ ⟨x, -, rfl⟩
    have := waitPayload_bounds x
    exact tidy_modifier 2 (by omega) (by decide)
  · rintro _ ⟨x, -, rfl⟩
    exact tidy_prefixHalf 29 (by decide) x.payload_lt nofun nofun
  · rintro _ ⟨x, -, rfl⟩
    exact tidy_prefixHalf 30 (by decide) x.isLt nofun nofun
  · split
    · simp
    · rintro x hx
      obtain rfl := List.mem_singleton.mp hx
      exact tidy_prefixHalf 31 (by decide) (by omega) nofun (fun _ => by omega)

theorem Pfx.forall_mem_halves {p : Pfx} {page : Nat} {P : Half → Prop} :
    (∀ h ∈ p.halves page, P h) ↔ (∀ h ∈ p.repHalves, P h) ∧
    (∀ h ∈ p.numHalves, P h) ∧ (∀ h ∈ p.ordHalves, P h) ∧ (∀ h ∈ p.waitHalves, P h) ∧ (∀ h ∈ p.xrHalves, P h) ∧
    (∀ h ∈ p.immHalves, P h) ∧ (∀ h ∈ pageHalves page, P h) := by
  simp only [Pfx.halves_eq, List.forall_mem_append, and_assoc]

theorem Pfx.exists_tidy_halves (p : Pfx) {page : Nat} (h : page < 10) : ∀ x ∈ p.halves page, ∃ k, Tidy k x := by
  obtain ⟨h1, h2, h3, h4, h5, h6, h7⟩ := p.tidy_halves h
  exact Pfx.forall_mem_halves.mpr ⟨fun x hx => ⟨_, h1 x hx⟩, fun x hx => ⟨_, h2 x hx⟩, fun x hx => ⟨_, h3 x hx⟩,
    fun x hx => ⟨_, h4 x hx⟩, fun x hx => ⟨_, h5 x hx⟩, fun x hx => ⟨_, h6 x hx⟩, fun x hx => ⟨_, h7 x hx⟩⟩

/-- The encoder's prefixes of each kind. -/
theorem Pfx.ofKind_halves (p : Pfx) {page : Nat} (h : page < 10) (k : Nat) : ofKind k (p.halves page) =
    (if 27 = k then p.repHalves else []) ++ (if 100 = k then p.numHalves else []) ++ (if 101 = k then p.ordHalves else []) ++
      (if 102 = k then p.waitHalves else []) ++ (if 29 = k then p.xrHalves else []) ++ (if 30 = k then p.immHalves else []) ++
      (if 31 = k then pageHalves page else []) := by
  obtain ⟨h1, h2, h3, h4, h5, h6, h7⟩ := p.tidy_halves h
  simp only [Pfx.halves_eq, ofKind_append, ofKind_of_forall (fun x hx => (h1 x hx).kind), ofKind_of_forall (fun x hx => (h2 x hx).kind),
    ofKind_of_forall (fun x hx => (h3 x hx).kind), ofKind_of_forall (fun x hx => (h4 x hx).kind),
    ofKind_of_forall (fun x hx => (h5 x hx).kind), ofKind_of_forall (fun x hx => (h6 x hx).kind),
    ofKind_of_forall (fun x hx => (h7 x hx).kind)]

theorem Pfx.length_halves (p : Pfx) (page : Nat) : (p.halves page).length = p.count + bit (page != 0) := by
  simp only [Pfx.halves_eq, List.length_append, Pfx.count, Pfx.repHalves, Pfx.numHalves, Pfx.ordHalves, Pfx.waitHalves, Pfx.xrHalves,
    Pfx.immHalves, pageHalves, List.length_map]
  have ho : ∀ {α : Type} (o : Option α), o.toList.length = bit o.isSome := fun o => by cases o <;> rfl
  have hp : (if page = 0 then [] else [prefixHalf 31 page]).length = bit (page != 0) := by
    by_cases h : page = 0 <;> simp [h, bit]
  simp only [ho, hp, Option.isSome_map]

theorem length_pageHalves_le (page : Nat) : (pageHalves page).length ≤ 1 := by
  unfold pageHalves
  split <;> simp

theorem Pfx.badDup_halves (p : Pfx) {page : Nat} (h : page < 10) (hi : p.imm.length ≤ 2) : badDup (p.halves page) = false := by
  obtain ⟨h1, h2, h3, h4, h5, h6, h7⟩ := p.tidy_halves h
  simp only [badDup, List.any_eq_false, decide_eq_true_eq, not_lt, Pfx.forall_mem_halves, kindCount_eq, Pfx.ofKind_halves p h]
  refine ⟨fun x hx => ?_, fun x hx => ?_, fun x hx => ?_, fun x hx => ?_, fun x hx => ?_, fun x hx => ?_, fun x hx => ?_⟩
  · simp [(h1 x hx).kind, Pfx.repHalves]
  · simp [(h2 x hx).kind, Pfx.numHalves]
  · simp [(h3 x hx).kind, Pfx.ordHalves]
  · simp [(h4 x hx).kind, Pfx.waitHalves]
  · simp [(h5 x hx).kind, Pfx.xrHalves]
  · simpa [(h6 x hx).kind, Pfx.immHalves] using hi
  · simpa [(h7 x hx).kind] using length_pageHalves_le page

theorem splitImms_append {l1 l2 : List Half} (h : ∀ x ∈ l1, halfMajor x ≠ 30) : splitImms (l1 ++ l2) = splitImms l2 := by
  induction l1 with
  | nil => rfl
  | cons x xs ih =>
    rw [List.cons_append, splitImms.eq_def]
    simp only [h x List.mem_cons_self, if_false]
    exact ih (fun y hy => h y (List.mem_cons_of_mem _ hy))

theorem Tidy.major_ne {k m : Nat} {h : Half} (ht : Tidy k h) (hm : m < 28 ∨ 28 < m ∧ m < 32) (hk : k ≠ m) : halfMajor h ≠ m :=
  fun hx => hk (ht.kind.symm.trans ((prefixKind_eq_major hm).mpr hx))

/-- One immediate, or two in a row, and at most one other after them do not stand apart. -/
theorem splitImms_imms {l r : List Half} (hl : ∀ x ∈ l, halfMajor x = 30) (hr : ∀ x ∈ r, halfMajor x ≠ 30) (h2 : l.length ≤ 2)
    (h1 : r.length ≤ 1) : splitImms (l ++ r) = false := by
  match l, r with
  | [], r => simpa [splitImms] using splitImms_append (l2 := []) hr
  | [x], [] => simp [splitImms.eq_def, hl x]
  | [x], [y] => simp [splitImms.eq_def, hl x]
  | [x], y :: z :: r => simp at h1
  | [x, y], r => simp [splitImms.eq_def, hl x, hl y]
  | x :: y :: z :: l, r => simp at h2

theorem Pfx.badOrder_halves (p : Pfx) {page : Nat} (h : page < 10) (hi : p.imm.length ≤ 2) : badOrder (p.halves page) = false := by
  obtain ⟨h1, h2, h3, h4, h5, h6, h7⟩ := p.tidy_halves h
  have hne : ∀ {k m : Nat} {l : List Half}, (∀ x ∈ l, Tidy k x) → (m < 28 ∨ 28 < m ∧ m < 32) → k ≠ m →
      ∀ x ∈ l, halfMajor x ≠ m :=
    fun hl hm hk x hx => (hl x hx).major_ne hm hk
  rw [badOrder, Bool.or_eq_false_iff]
  constructor
  · have htail : ∀ x ∈ (p.halves page).tail,
        x ∈ p.numHalves ++ p.ordHalves ++ p.waitHalves ++ p.xrHalves ++ p.immHalves ++ pageHalves page := fun x hx => by
      rw [Pfx.halves_eq] at hx
      simp only [List.append_assoc] at hx ⊢
      cases hr : p.rep with
      | none => exact List.mem_of_mem_tail (by simpa [Pfx.repHalves, hr] using hx)
      | some r => simpa [Pfx.repHalves, hr] using hx
    have hrest : ∀ x ∈ p.numHalves ++ p.ordHalves ++ p.waitHalves ++ p.xrHalves ++ p.immHalves ++ pageHalves page,
        halfMajor x ≠ 27 := by
      simp only [List.forall_mem_append]
      exact ⟨⟨⟨⟨⟨hne h2 (by decide) (by decide), hne h3 (by decide) (by decide)⟩, hne h4 (by decide) (by decide)⟩,
        hne h5 (by decide) (by decide)⟩, hne h6 (by decide) (by decide)⟩, hne h7 (by decide) (by decide)⟩
    simpa only [List.any_eq_false, beq_iff_eq] using fun x hx => hrest x (htail x hx)
  · rw [Pfx.halves_eq, List.append_assoc _ p.immHalves, splitImms_append]
    · exact splitImms_imms (fun x hx => (prefixKind_eq_major (by decide)).mp (h6 x hx).kind) (hne h7 (by decide) (by decide))
        (by simpa [Pfx.immHalves] using hi) (length_pageHalves_le page)
    · simp only [List.forall_mem_append]
      exact ⟨⟨⟨⟨hne h1 (by decide) (by decide), hne h2 (by decide) (by decide)⟩, hne h3 (by decide) (by decide)⟩,
        hne h4 (by decide) (by decide)⟩, hne h5 (by decide) (by decide)⟩

/-- The payloads that the decoder finds in the encoder's prefixes are those of the prefixes. -/
theorem Pfx.payloadOf_halves (p : Pfx) {page : Nat} (h : page < 10) :
    payloadOf 27 (p.halves page) = p.repPayload ∧ payloadOf 100 (p.halves page) = p.numPayload ∧
    payloadOf 101 (p.halves page) = p.ordPayload ∧ payloadOf 102 (p.halves page) = p.waitPayload ∧
    payloadOf 103 (p.halves page) = none ∧ payloadOf 29 (p.halves page) = p.xr.map XPfx.payload ∧
    payloadOf 31 (p.halves page) = if page = 0 then none else some page := by
  have hseg : ∀ {α : Type} (o : Option α) (f : α → Half) (g : α → Nat), (∀ x, halfPayload (f x) = g x) →
      (o.map f).toList.head?.map halfPayload = o.map g := fun o f g hfg => by cases o <;> simp [hfg]
  simp only [payloadOf_eq, Pfx.ofKind_halves p h, Nat.reduceEqDiff, Nat.succ_ne_self, if_true, if_false, List.nil_append,
    List.append_nil]
  refine ⟨?_, ?_, ?_, ?_, rfl, ?_, ?_⟩
  · exact hseg _ _ _ (fun x => halfPayload_prefixHalf (by decide) x.payload_lt)
  · exact hseg _ _ _ (fun x => halfPayload_prefixHalf (by decide) (x.payload_lt.trans (by decide)))
  · exact hseg _ _ _ (fun x => halfPayload_prefixHalf (by decide) (x.payload_bounds.2.trans (by decide)))
  · exact hseg _ _ _ (fun x => halfPayload_prefixHalf (by decide) ((waitPayload_bounds x).2.trans (by decide)))
  · exact hseg _ _ _ (fun x => halfPayload_prefixHalf (by decide) x.payload_lt)
  · unfold pageHalves
    split
    · rfl
    · simp [halfPayload_prefixHalf (by decide : 31 < 32) (by omega : page < 1024)]

theorem Pfx.imms_halves (p : Pfx) {page : Nat} (h : page < 10) :
    ((p.halves page).filter (fun h => halfMajor h == 30)).map (fun h => h.extractLsb' 0 10) = p.imm := by
  rw [imms_eq, Pfx.ofKind_halves p h]
  have hv : ∀ v : BitVec 10, (prefixHalf 30 v.toNat).extractLsb' 0 10 = v := fun v => by
    apply BitVec.eq_of_toNat_eq
    rw [BitVec.extractLsb'_toNat, prefixHalf_toNat (by decide) v.isLt, Nat.shiftRight_zero]
    omega
  simp [Pfx.immHalves, Function.comp_def, hv]

/-! ## Cutting a chain -/

theorem cutChain_append {n : Nat} {ps : List Half} {base : Half} (hp : ∀ h ∈ ps, isPrefix h = true) (hb : isPrefix base = false)
    (hn : ps.length ≤ n) (rest : List Half) : cutChain n (ps ++ base :: rest) = .ok (ps, base, rest) := by
  induction ps generalizing n with
  | nil =>
    rw [List.nil_append, cutChain.eq_def]
    simp [hb]
  | cons h ps ih =>
    obtain ⟨n, rfl⟩ : ∃ k, n = k + 1 := Nat.exists_eq_succ_of_ne_zero (by simp at hn; omega)
    have htail := ih (fun x hx => hp x (List.mem_cons_of_mem _ hx)) (by simpa using hn)
    rw [List.cons_append, cutChain.eq_def]
    simp [hp h List.mem_cons_self, htail]

theorem cutChain_ok {n : Nat} {hs ps rest : List Half} {base : Half} (h : cutChain n hs = .ok (ps, base, rest)) :
    hs = ps ++ base :: rest ∧ (∀ h ∈ ps, isPrefix h = true) ∧ isPrefix base = false ∧ ps.length ≤ n := by
  induction hs generalizing n ps with
  | nil => simp [cutChain] at h
  | cons x hs ih =>
    rw [cutChain.eq_def] at h
    cases hx : isPrefix x with
    | false =>
      simp only [hx, Bool.false_eq_true, if_false, Except.ok.injEq, Prod.mk.injEq] at h
      obtain ⟨rfl, rfl, rfl⟩ := h
      simp [hx]
    | true =>
      simp only [hx, if_true] at h
      cases n with
      | zero => simp at h
      | succ n =>
        simp only at h
        split at h
        · next ps' base' rest' hc =>
          simp only [Except.ok.injEq, Prod.mk.injEq] at h
          obtain ⟨rfl, rfl, rfl⟩ := h
          obtain ⟨rfl, hps, hb, hn⟩ := ih hc
          exact ⟨rfl, by simpa [hx] using hps, hb, by simpa using hn⟩
        · contradiction

/-- Decoding cuts a chain off the halfwords and reads it. -/
theorem decode_ok_iff {hs rest : List Half} {i : Instr} : decode hs = .ok (i, rest) ↔
    ∃ ps base, cutChain 4 hs = .ok (ps, base, rest) ∧ readChain ps base = .ok i := by
  unfold decode
  split
  · next hc => simp [hc]
  · next ps base rest' hc =>
    split
    · next hr => simp [hc, hr]
    · next hr => simp [hc, hr, and_comm]

/-- What a chain presents to the map, once its page is known. -/
def partsOf (page : Nat) (ps : List Half) (base : Half) : Parts :=
  { page := page, major := halfMajor base, ops := halfPayload base, xr := payloadOf 29 ps,
    imms := (ps.filter (fun h => halfMajor h == 30)).map (fun h => h.extractLsb' 0 10) }

/-- The page of a chain (R48). -/
def pageOf (ps : List Half) : Nat := match payloadOf 31 ps with | some v => v % 256 | none => 0

/-- The fields that a chain gives. -/
def rawOf (page : Nat) (ps : List Half) (base : Half) : Raw :=
  let q := partsOf page ps base
  ⟨pfxOf base q (payloadOf 27 ps) (payloadOf 100 ps) (payloadOf 101 ps) (payloadOf 102 ps), BitVec.ofNat 5 q.n1, BitVec.ofNat 5 q.n2⟩

/-- A chain judged by its row. -/
def readRow (ps : List Half) (base : Half) (row : Row) : Except Reject Instr :=
  match row.check (partsOf (pageOf ps) ps base) (payloadOf 27 ps) (payloadOf 100 ps) (payloadOf 101 ps) (payloadOf 102 ps)
    (payloadOf 103 ps) with
  | some e => .error e
  | none => .ok (row.build (rawOf (pageOf ps) ps base))

theorem readChain_eq (ps : List Half) (base : Half) : readChain ps base =
    if ps.any badBits then .error .pfxBits
    else if badDup ps then .error .pfxDup
    else if badOrder ps then .error .pfxOrder
    else if 10 ≤ pageOf ps then .error .rsvPage
    else (findRow (partsOf (pageOf ps) ps base)).bind (readRow ps base) := by
  have hbind : ∀ (x : Except Reject Row) (f : Row → Except Reject Instr),
      x.bind f = match x with | .error e => .error e | .ok row => f row := fun x f => by cases x <;> rfl
  rw [hbind]
  rfl

/-- A row gives its instruction where no check refuses the chain. -/
theorem readRow_ok_iff {ps : List Half} {base : Half} {row : Row} {i : Instr} : readRow ps base row = .ok i ↔
    row.check (partsOf (pageOf ps) ps base) (payloadOf 27 ps) (payloadOf 100 ps) (payloadOf 101 ps) (payloadOf 102 ps)
      (payloadOf 103 ps) = none ∧ row.build (rawOf (pageOf ps) ps base) = i := by
  unfold readRow
  split
  · next hc => simp [hc]
  · next hc => simp [hc]

/-- A chain is read exactly if its prefixes pass their checks, the map has its row, and its row's checks pass (R54). -/
theorem readChain_ok_iff {ps : List Half} {base : Half} {i : Instr} : readChain ps base = .ok i ↔
    ps.any badBits = false ∧ badDup ps = false ∧ badOrder ps = false ∧ pageOf ps < 10 ∧
    ∃ row, findRow (partsOf (pageOf ps) ps base) = .ok row ∧ readRow ps base row = .ok i := by
  rw [readChain_eq]
  cases ps.any badBits
  case true => simp
  cases badDup ps
  case true => simp
  cases badOrder ps
  case true => simp
  by_cases hp : 10 ≤ pageOf ps
  · simp [hp]
  · cases findRow (partsOf (pageOf ps) ps base) <;> simp [hp, Except.bind, Nat.lt_of_not_le hp]
end Sys2Proof
end

section
/-! PROOFS. Decode and encode: O59, O58. -/

namespace Sys2Proof

/-! ## The word that a row's instruction is read back from -/

theorem Fld.value_canonical {f : Fld} (h : f.narrow = true) (b : BitVec 5) :
    f.value b < 32 ∧ f.value (BitVec.ofNat 5 (f.value b)) = f.value b := by
  cases f with
  | fixed n => exact ⟨of_decide_eq_true h, rfl⟩
  | _ =>
    revert b
    decide

theorem Row.first_read {row : Row} (h : row.Regular) (r : Raw) : row.first r < 32 ∧ row.first (row.read r) = row.first r := by
  have hv := Fld.value_canonical h.narrow1 r.f1
  cases hf : row.fmt <;> simp only [Row.first, Row.read, hf]
  case j => exact ⟨r.f1.isLt, by simp⟩
  all_goals exact hv

theorem Row.second_read {row : Row} (h : row.Regular) (r : Raw) : row.second r < 32 ∧ row.second (row.read r) = row.second r := by
  have hv := Fld.value_canonical h.narrow2 r.f2
  cases hf : row.fmt <;> simp only [Row.second, Row.read, hf]
  case m => exact ⟨r.mem.bits_lt, by rw [Raw.mem_bits]⟩
  case i | l | j => exact ⟨r.f2.isLt, by simp⟩
  all_goals exact hv

/-- Fields that the decoder has read are read again as they stand. -/
theorem Row.canonical_read {row : Row} (h : row.Regular) (r : Raw) : row.Canonical (row.read r) := by
  obtain ⟨h1, e1⟩ := Row.first_read h r
  obtain ⟨h2, e2⟩ := Row.second_read h r
  constructor
  · rw [e1, Row.read, BitVec.toNat_ofNat, Nat.mod_eq_of_lt h1]
  · rw [e2, Row.read, BitVec.toNat_ofNat, Nat.mod_eq_of_lt h2]

theorem Row.operands_eq {row : Row} {r : Raw} (h : row.Canonical r) : row.operands r = ops r.f1.toNat r.f2.toNat := by
  obtain ⟨h1, h2⟩ := h
  unfold Row.operands
  split
  · exact r.off_eq_ops
  · rw [h1, h2]

/-- The base word of a chain (R34). -/
def baseHalf (p : Pfx) (major operands : Nat) : Half := BitVec.ofNat 16 (bit p.settle * 32768 + major * 1024 + operands)

theorem chainOf_eq (p : Pfx) (page major n : Nat) : chainOf p page major n = p.halves page ++ [baseHalf p major n] := rfl

theorem baseHalf_toNat (p : Pfx) {major n : Nat} (hm : major < 32) (hn : n < 1024) :
    (baseHalf p major n).toNat = bit p.settle * 32768 + major * 1024 + n := by
  have := bit_le_one p.settle
  rw [baseHalf, BitVec.toNat_ofNat]
  omega

theorem baseHalf_parts (p : Pfx) {major n : Nat} (hm : major < 32) (hn : n < 1024) :
    halfMajor (baseHalf p major n) = major ∧ halfPayload (baseHalf p major n) = n ∧
      (baseHalf p major n).getLsbD 15 = p.settle := by
  have := bit_le_one p.settle
  refine ⟨?_, ?_, ?_⟩
  · simp only [halfMajor, bitsOf, baseHalf_toNat p hm hn, Nat.shiftRight_eq_div_pow]
    omega
  · simp only [halfPayload, baseHalf_toNat p hm hn]
    omega
  · rw [← BitVec.testBit_toNat, baseHalf_toNat p hm hn, Nat.testBit_eq_decide_div_mod_eq]
    have hdiv : (bit p.settle * 32768 + major * 1024 + n) / 2 ^ 15 % 2 = bit p.settle := by omega
    rw [hdiv]
    cases p.settle <;> rfl

/-- The extra registers of a payload (R46). -/
def xrOf (v : Nat) : XPfx := { x := BitVec.ofNat 5 (v / 32), y := BitVec.ofNat 5 v }

theorem xrOf_payload (f : XPfx) : xrOf f.payload = f := by
  have hx : BitVec.ofNat 5 (f.payload / 32) = f.x := by
    apply BitVec.eq_of_toNat_eq
    simp only [XPfx.payload, BitVec.toNat_ofNat]
    omega
  have hy : BitVec.ofNat 5 f.payload = f.y := by
    apply BitVec.eq_of_toNat_eq
    simp only [XPfx.payload, BitVec.toNat_ofNat]
    omega
  rw [xrOf, hx, hy]

theorem payload_xrOf {v : Nat} (h : v < 1024) : (xrOf v).payload = v := by
  simp only [xrOf, XPfx.payload, BitVec.toNat_ofNat]
  omega

theorem pfxOf_eq (base : Half) (q : Parts) (rep num ord wait : Option Nat) : pfxOf base q rep num ord wait =
    ⟨base.getLsbD 15, rep.map repOf, num.map numOf, ord.map ordOf, wait.map (BitVec.ofNat 8), q.xr.map xrOf, q.imms⟩ := rfl

theorem map_map_of_leftInverse {α β : Type} {f : α → β} {g : β → α} (h : ∀ x, g (f x) = x) (o : Option α) :
    (o.map f).map g = o := by
  cases o <;> simp [h]

/-- The prefixes of a chain are read back from their payloads. -/
theorem pfxOf_payloads (row : Row) (r : Raw) {base : Half} (hb : base.getLsbD 15 = r.p.settle) :
    pfxOf base (row.parts r) r.p.repPayload r.p.numPayload r.p.ordPayload r.p.waitPayload = r.p := by
  simp only [pfxOf_eq, Pfx.repPayload, Pfx.numPayload, Pfx.ordPayload, Pfx.waitPayload, Row.parts, hb,
    map_map_of_leftInverse repOf_payload, map_map_of_leftInverse numOf_payload, map_map_of_leftInverse ordOf_payload,
    map_map_of_leftInverse ofNat_waitPayload, map_map_of_leftInverse xrOf_payload]

/-- What the decoder makes of a chain of the encoder. -/
theorem decode_chainOf {row : Row} {r : Raw} (hr : row ∈ rows) (hc : row.Canonical r) (hw : r.p.wfBase (row.page != 0) = true)
    (hrules : ∀ b ∈ row.rules r, b.getD true = true) (rest : List Half) :
    decode (chainOf r.p row.page row.major (row.operands r) ++ rest) = .ok (row.build r, rest) := by
  obtain ⟨hreg, hpage, hmajor⟩ := rows_regular_of_mem hr
  obtain ⟨hcount, hlen, hmods⟩ := (wfBase_iff _ _).mp hw
  have hacc := (Row.accepts_iff hreg r hlen).mpr ⟨hc, hmods, hrules⟩
  have hops : ops r.f1.toNat r.f2.toNat < 1024 := by
    unfold ops
    omega
  obtain ⟨hbm, hbp, hbs⟩ := baseHalf_parts r.p (by omega : row.major < 32) hops
  obtain ⟨prep, pnum, pord, pwait, pbad, pxr, ppage⟩ := r.p.payloadOf_halves hpage
  have htidy := r.p.exists_tidy_halves hpage
  have hp : pageOf (r.p.halves row.page) = row.page := by
    rw [pageOf, ppage]
    split <;> simp_all
    omega
  have hparts : partsOf row.page (r.p.halves row.page) (baseHalf r.p row.major (ops r.f1.toNat r.f2.toNat)) = row.parts r := by
    simp only [partsOf, Row.parts, hbm, hbp, pxr, r.p.imms_halves hpage]
  have hraw : rawOf row.page (r.p.halves row.page) (baseHalf r.p row.major (ops r.f1.toNat r.f2.toNat)) = r := by
    simp only [rawOf, hparts, prep, pnum, pord, pwait, pfxOf_payloads row r hbs, Row.parts_n1, Row.parts_n2, BitVec.ofNat_toNat,
      BitVec.setWidth_eq]
  rw [decode_ok_iff, Row.operands_eq hc, chainOf_eq, List.append_assoc]
  refine ⟨r.p.halves row.page, _, cutChain_append ?_ ?_ ?_ rest, ?_⟩
  · intro x hx
    obtain ⟨m, ht⟩ := htidy x hx
    exact ht.isPrefix
  · simpa only [isPrefix, hbm, decide_eq_false_iff_not, not_le] using hmajor
  · rwa [Pfx.length_halves]
  · rw [readChain_ok_iff, hp, hparts]
    refine ⟨?_, r.p.badDup_halves hpage hlen, r.p.badOrder_halves hpage hlen, hpage, row,
      findRow_eq_of_named hr (Row.named_of_accepts hacc), readRow_ok_iff.mpr ?_⟩
    · simp only [List.any_eq_false, Bool.not_eq_true]
      intro x hx
      obtain ⟨m, ht⟩ := htidy x hx
      exact ht.bits
    · rw [hp, hparts, hraw, prep, pnum, pord, pwait, pbad]
      exact ⟨hacc.check, rfl⟩

theorem foldl_andAlso {b : Bool} {l : List (Option Bool)} : l.foldl andAlso b = true ↔ b = true ∧ ∀ c ∈ l, c.getD true = true := by
  induction l generalizing b with
  | nil => simp
  | cons c l ih =>
    rw [List.foldl_cons, ih]
    cases c <;> simp [andAlso, and_assoc]

/-- A well-formed instruction is read back from its own words, whatever follows them. -/
theorem decode_encode {i : Instr} (h : i.wf = true) (rest : List Half) : decode (encode i ++ rest) = .ok (i, rest) := by
  obtain ⟨row, hr, r, rfl⟩ := Instr.exists_row h
  have hf := rows_faithful row hr
  obtain ⟨hreg, -, -⟩ := rows_regular_of_mem hr
  rw [← hf.read r] at h ⊢
  rw [hf.wf, foldl_andAlso] at h
  rw [hf.encode]
  exact decode_chainOf hr (Row.canonical_read hreg r) h.1 h.2 rest

/-! ## What is decoded is well-formed -/

theorem payload_lt {k v : Nat} {ps : List Half} (h : payloadOf k ps = some v) : v < 1024 := by
  unfold payloadOf at h
  split at h
  · next x hx => exact Option.some.inj h ▸ halfPayload_lt x
  · contradiction

/-- A payload comes from a halfword of its kind. -/
theorem exists_mem_of_payloadOf {k v : Nat} {ps : List Half} (h : payloadOf k ps = some v) :
    ∃ x ∈ ps, prefixKind x = k ∧ halfPayload x = v := by
  rw [payloadOf_eq, Option.map_eq_some_iff] at h
  obtain ⟨x, hx, hv⟩ := h
  have hmem := List.mem_of_mem_head? hx
  rw [ofKind, List.mem_filter, beq_iff_eq] at hmem
  exact ⟨x, hmem.1, hmem.2, hv⟩

theorem payloadOf_modifier {k v : Nat} {ps : List Half} (hk : k < 4) (h : payloadOf (100 + k) ps = some v) : v / 256 = k := by
  obtain ⟨x, -, hx, rfl⟩ := exists_mem_of_payloadOf h
  have := halfMajor_lt x
  rw [prefixKind_eq] at hx
  split at hx <;> omega

theorem map_map_of_rightInverse {α : Type} {f : α → Nat} {g : Nat → α} {o : Option Nat} (h : ∀ v, o = some v → f (g v) = v) :
    (o.map g).map f = o := by
  cases o <;> simp [h]

section
variable {ps : List Half} {base : Half} (hp : ∀ h ∈ ps, isPrefix h = true) (hbits : ps.any badBits = false) (hdup : badDup ps = false)

include hbits in
theorem badRep_of_payloadOf {v : Nat} (h : payloadOf 27 ps = some v) : badRep v = false := by
  obtain ⟨x, hx, hk, rfl⟩ := exists_mem_of_payloadOf h
  have hb : badBits x = false := by simpa using List.any_eq_false.mp hbits x hx
  rw [badBits_eq, (prefixKind_eq_major (by decide)).mp hk, Bool.or_eq_false_iff] at hb
  simpa using hb.2

include hbits in
/-- The halfword of a page names another page than 0 (R48). -/
theorem bit_page_eq : bit (pageOf ps != 0) = bit (payloadOf 31 ps).isSome := by
  cases h : payloadOf 31 ps with
  | none => simp [pageOf, h]
  | some v =>
    obtain ⟨x, hx, hk, rfl⟩ := exists_mem_of_payloadOf h
    have hb : badBits x = false := by simpa using List.any_eq_false.mp hbits x hx
    rw [badBits_eq, (prefixKind_eq_major (by decide)).mp hk] at hb
    have hv : halfPayload x % 256 ≠ 0 := fun e => by simp [e] at hb
    have hpage : (pageOf ps != 0) = true := by simpa [pageOf, h] using hv
    rw [hpage, Option.isSome_some]

include hdup in
theorem kindCount_le (k : Nat) : kindCount k ps ≤ if k = 30 then 2 else 1 := by
  cases h : ofKind k ps with
  | nil => simp [kindCount_eq, h]
  | cons x l =>
    have hx : x ∈ ofKind k ps := h ▸ List.mem_cons_self
    rw [ofKind, List.mem_filter, beq_iff_eq] at hx
    obtain ⟨hmem, rfl⟩ := hx
    simpa using List.any_eq_false.mp hdup x hmem

include hdup in
theorem bit_isSome_payloadOf {k : Nat} (hk : k ≠ 30) : bit (payloadOf k ps).isSome = kindCount k ps := by
  have hle := kindCount_le hdup k
  rw [if_neg hk, kindCount_eq] at hle
  rw [payloadOf_eq, kindCount_eq]
  generalize ofKind k ps = l at hle ⊢
  match l, hle with
  | [], _ => rfl
  | [x], _ => rfl

include hp in
/-- Every halfword before the base word is of one of the kinds. -/
theorem length_eq_kindCounts : ps.length = (prefixKinds.map (kindCount · ps)).sum := by
  induction ps with
  | nil => rfl
  | cons h ps ih =>
    have hk := prefixKind_mem (hp h List.mem_cons_self)
    have hcons : ∀ k, kindCount k (h :: ps) = kindCount k ps + if prefixKind h = k then 1 else 0 := fun k => by
      by_cases e : prefixKind h = k <;> simp [kindCount, e]
    rw [List.length_cons, ih (fun x hx => hp x (List.mem_cons_of_mem _ hx))]
    simp only [prefixKinds, List.mem_cons, List.not_mem_nil, or_false] at hk
    simp only [hcons, prefixKinds, List.map_cons, List.map_nil, List.sum_cons, List.sum_nil]
    rcases hk with hk | hk | hk | hk | hk | hk | hk | hk <;> simp [hk] <;> omega
end

/-- What a chain presents is what its fields present to the row that it names. -/
theorem partsOf_eq {row : Row} {ps : List Half} {base : Half} (hs : row.selects (partsOf (pageOf ps) ps base) = true) :
    partsOf (pageOf ps) ps base = row.parts (rawOf (pageOf ps) ps base) := by
  obtain ⟨hpage, hmajor, -⟩ := (Row.selects_iff _ _).mp hs
  have hops : ∀ n, n < 1024 → ops (BitVec.ofNat 5 (n / 32 % 32)).toNat (BitVec.ofNat 5 (n % 32)).toNat = n := fun n hn => by
    simp only [ops, BitVec.toNat_ofNat]
    omega
  have hxr : ((payloadOf 29 ps).map xrOf).map XPfx.payload = payloadOf 29 ps :=
    map_map_of_rightInverse (fun v hv => payload_xrOf (payload_lt hv))
  have hraw : rawOf (pageOf ps) ps base = ⟨(rawOf (pageOf ps) ps base).p, BitVec.ofNat 5 (halfPayload base / 32 % 32),
      BitVec.ofNat 5 (halfPayload base % 32)⟩ := rfl
  rw [Row.parts, hpage, hmajor]
  rw [hraw]
  simp only [hops _ (halfPayload_lt base)]
  simp only [rawOf, pfxOf_eq, partsOf, hxr]

/-- The payloads that pass are those of the prefixes read from them. -/
theorem payloads_eq {ps : List Half} {base : Half} (hbits : ps.any badBits = false)
    (hmod : badModifier (payloadOf 100 ps) (payloadOf 101 ps) (payloadOf 102 ps) (payloadOf 103 ps) = false) :
    let p := (rawOf (pageOf ps) ps base).p
    payloadOf 27 ps = p.repPayload ∧ payloadOf 100 ps = p.numPayload ∧ payloadOf 101 ps = p.ordPayload ∧
      payloadOf 102 ps = p.waitPayload ∧ payloadOf 103 ps = none := by
  obtain ⟨hbad, hnum, hord, hwait⟩ := (badModifier_eq_false ..).mp hmod
  refine ⟨?_, ?_, ?_, ?_, hbad⟩
  · exact (map_map_of_rightInverse (fun v hv => payload_repOf (payload_lt hv) (badRep_of_payloadOf hbits hv))).symm
  · refine (map_map_of_rightInverse (fun v hv => payload_numOf ?_ ?_)).symm
    · have := payloadOf_modifier (k := 0) (by decide) hv
      omega
    · simpa [hv] using hnum
  · refine (map_map_of_rightInverse (fun v hv => payload_ordOf (payloadOf_modifier (k := 1) (by decide) hv) ?_)).symm
    simpa [hv] using hord
  · exact (map_map_of_rightInverse (fun v hv => waitPayload_ofNat (payloadOf_modifier (k := 2) (by decide) hv))).symm

/-- The count of a chain's prefixes (R39, R43). -/
theorem length_prefixes {ps : List Half} {base : Half} (hp : ∀ h ∈ ps, isPrefix h = true) (hbits : ps.any badBits = false)
    (hdup : badDup ps = false) (hbad : payloadOf 103 ps = none) :
    ps.length = (rawOf (pageOf ps) ps base).p.count + bit (pageOf ps != 0) := by
  have hb := fun k hk => bit_isSome_payloadOf hdup (k := k) hk
  have h103 : kindCount 103 ps = 0 := by rw [← hb 103 (by decide), hbad]; rfl
  have himm : (partsOf (pageOf ps) ps base).imms.length = kindCount 30 ps := by
    rw [partsOf, List.length_map, imms_eq, kindCount_eq]
  rw [length_eq_kindCounts hp, bit_page_eq hbits]
  simp only [prefixKinds, List.map_cons, List.map_nil, List.sum_cons, List.sum_nil, h103, Pfx.count, rawOf, pfxOf_eq, Option.isSome_map,
    himm, hb 27 (by decide), hb 100 (by decide), hb 101 (by decide), hb 102 (by decide), hb 31 (by decide)]
  have : (partsOf (pageOf ps) ps base).xr.isSome = (payloadOf 29 ps).isSome := rfl
  rw [this, hb 29 (by decide)]
  omega

theorem length_imms_le {ps : List Half} {base : Half} (hdup : badDup ps = false) :
    (rawOf (pageOf ps) ps base).p.imm.length ≤ 2 := by
  have h : (rawOf (pageOf ps) ps base).p.imm.length = kindCount 30 ps := by
    rw [kindCount_eq, ← imms_eq]
    exact List.length_map ..
  exact h ▸ kindCount_le hdup 30

/-- What is decoded is well-formed, and as many halfwords are taken as its encoding has. -/
theorem wf_of_decode {hs rest : List Half} {i : Instr} (h : decode hs = .ok (i, rest)) :
    i.wf = true ∧ ∃ ws, hs = ws ++ rest ∧ ws.length = (encode i).length := by
  obtain ⟨ps, base, hcut, hread⟩ := decode_ok_iff.mp h
  obtain ⟨rfl, hprefix, -, hlen⟩ := cutChain_ok hcut
  obtain ⟨hbits, hdup, -, -, row, hfind, hrow⟩ := readChain_ok_iff.mp hread
  obtain ⟨hcheck, rfl⟩ := readRow_ok_iff.mp hrow
  have hacc := Row.accepts_of_findRow hfind hcheck
  obtain ⟨hr, hs⟩ := findRow_ok hfind
  have hmod := ((Row.check_eq_none ..).mp hcheck)
  obtain ⟨-, -, -, -, -, hmod, -⟩ := hmod
  obtain ⟨erep, enum, eord, ewait, ebad⟩ := payloads_eq (base := base) hbits hmod
  obtain ⟨hreg, -, -⟩ := rows_regular_of_mem hr
  have hpage : row.page = pageOf ps := ((Row.selects_iff _ _).mp hs).1
  have hcount := length_prefixes (base := base) hprefix hbits hdup ebad
  have himm := length_imms_le (base := base) hdup
  rw [erep, enum, eord, ewait, ebad, partsOf_eq hs, Row.accepts_iff hreg _ himm] at hacc
  obtain ⟨-, hmods, hrules⟩ := hacc
  have hf := rows_faithful row hr
  rw [hf.wf, foldl_andAlso, wfBase_iff, hpage, hf.encode]
  refine ⟨⟨⟨hcount ▸ hlen, himm, hmods⟩, hrules⟩, ps ++ [base], by simp, ?_⟩
  rw [chainOf_eq, List.length_append, List.length_append, Pfx.length_halves, hpage, hcount]
  rfl

theorem decode_of_encode_eq {i : Instr} {ws : List Half} (h : i.wf = true) (he : encode i = ws) : decode ws = .ok (i, []) := by
  simpa [he] using decode_encode h []

end Sys2Proof

open Sys2Proof in
/-- Settles O59: every well-formed instruction is built by a row of the map, every row is faithful to the encoder, its checks are the
rules of well-formedness, and no two rows accept one chain. -/
theorem decodeEncodeRoundTrip : Obligations.DecodeEncodeRoundTrip := by
  unfold Obligations.DecodeEncodeRoundTrip
  exact ⟨fun i rest h => decode_encode h rest, fun hs rest i h => wf_of_decode h⟩

open Sys2Proof in
/-- Settles O58: the words that decode are the encodings of their instructions, and the refusals are evaluated. -/
theorem decodedWords : Obligations.DecodedWords := by
  unfold Obligations.DecodedWords
  refine ⟨?_, ?_, ?_, ?_, ?_, ?_, ?_⟩
  · exact decode_of_encode_eq rfl rfl
  · exact decode_of_encode_eq rfl rfl
  · exact decode_of_encode_eq rfl rfl
  · exact decode_of_encode_eq rfl rfl
  · rfl
  · rfl
  · decide +kernel
end

section
/-! PROOFS. A lease of the quiescence counter's frame that ends (R329, R339): what is held under it has keys of the counter, not of HBM. -/

namespace Sys2Proof.Machine

/-- An ended lease of the frame in which a tenant of partition 0 finds the quiescence counter, mapped by a valid entry with RD and WR. -/
def Lease.ofCounter : Lease :=
  { asid := 0, page := 0, entry := 2 ^ 63 + 2 ^ 57 + 2 ^ 56 + (quadBytes - 65536), block := false, ends := 0 }

/-- An access under that lease has the keys of the counter. -/
theorem Lease.ofCounter_key : keyHbm (peFrame Lease.ofCounter.entry * 65536) = 6 * 2 ^ 64 := by decide

/-- Under that lease tile 0 holds an update of the counter's first word, as `am.upd.add` leaves it (R212). -/
def State.counterHeld : State :=
  ({ State.reset with leases := [Lease.ofCounter] } : State).putUpdate (6 * 2 ^ 64) 0 1

theorem counterHeld_leases : State.counterHeld.leases[0]? = some Lease.ofCounter := by rfl

theorem counterHeld_updates : (State.counterHeld.tile 0).updates = [(6 * 2 ^ 64, 0, 0, 1)] := by rfl

/-- A write to the counter is ignored (R339), that of an update too. -/
theorem State.mergeOne_of_counter {u : Nat × Nat × Nat × Word} (h : keyKind u.1 = 6) (s : State) : s.mergeOne u = s :=
  if_pos h

/-- A tile that holds one update, which the test names, holds none after it has merged. -/
theorem State.mergeSome_of_single {s : State} {n : Nat} {u : Nat × Nat × Nat × Word} {p : Nat × Nat × Nat × Word → Bool}
    (h : (s.tile n).updates = [u]) (hp : p u = true) :
    s.mergeSome n p = (s.setTile n { s.tile n with updates := [] }).mergeOne u := by
  simp [State.mergeSome, h, hp]

/-- The update lies among the keys of the lease's frame, and is written back. -/
theorem counterHeld_flushLease : State.counterHeld.flushLease Lease.ofCounter =
    State.counterHeld.setTile 0 { State.counterHeld.tile 0 with updates := [] } := by
  have htiles : State.counterHeld.updaters = [0] := by rfl
  simp only [State.flushLease, Lease.ofCounter_key, htiles, List.foldl_cons, List.foldl_nil]
  rw [State.mergeSome_of_single counterHeld_updates (by decide), State.mergeOne_of_counter (by decide)]

theorem counterHeld_leaseExpiry_updates {t : State} (h : exec (.leaseExpiry 0) State.counterHeld = .next t) :
    (t.tile 0).updates = [] := by
  have hexec : exec (.leaseExpiry 0) State.counterHeld =
      .next { State.counterHeld.flushLease Lease.ofCounter with leases := [] } := by rfl
  obtain rfl : _ = t := Host.Outcome.next.inj (hexec.symm.trans h)
  simp [counterHeld_flushLease, State.tile]

end Sys2Proof.Machine

open Sys2Proof.Machine in
/-- Refutes O46: its clause on a lease that ends takes the keys of what is held under it to be FRAME * 65536 and on. The frame of the
quiescence counter has keys of its own (R339), by which updates of it are held and, when the lease ends, written back (R329); the
clause says that such an update stays held. -/
theorem not_returnsAndTimers : ¬ Obligations.ReturnsAndTimers := by
  unfold Obligations.ReturnsAndTimers
  rintro ⟨-, -, -, -, hlease, -⟩
  obtain ⟨-, t, ht, -, hkept⟩ := hlease State.counterHeld 0 Lease.ofCounter counterHeld_leases (Nat.zero_le _)
  have hstays : (6 * 2 ^ 64, 0, 0, 1) ∈ (t.tile 0).updates :=
    (hkept 0 _).mpr ⟨by simp [counterHeld_updates], by decide⟩
  rw [counterHeld_leaseExpiry_updates ht] at hstays
  exact absurd hstays List.not_mem_nil
end

section
/-! PROOFS. Contiguous, broadcast and strided vector accesses (R64, R127, R128): what is performed once the spot is known. -/

namespace Sys2Proof.Machine

/-! ## The steps before the access itself -/

/-- A chain that uses no table, or for which none is pending, goes on. -/
theorem afterTable_of_clear {scratch t8 : Bool} {s : State} (body : State → Res)
    (h : scratch = true → t8 = true → s.tablePending = false) : afterTable (scratch && t8) s body = body s := by
  cases scratch with
  | false => rfl
  | true =>
    cases t8 with
    | false => rfl
    | true => simp [afterTable, h rfl rfl]

@[simp] theorem atSpot_ok (p : Pfx) (sp : Spot) (write tag : Bool) (s : State) (body : Spot → State → Res) :
    atSpot p (.ok sp) write tag s body = body sp (s.reach p sp.globals) := rfl

theorem consume_of_clean {rs : List Seen} {s : State} (body : State → Res) (h : s.poisonIn rs = none) :
    consume rs s body = body s := by
  simp [consume, h]

/-- A firing with no posted write outstanding waits for none. -/
theorem State.waitPosted_of_none {s : State} (h : ∀ q ∈ s.posted, q.ownedBy s.selfId = false) : s.waitPosted = .over s 0 := by
  have hmine : s.posted.filter (fun q => q.ownedBy s.selfId) = [] := by simpa using h
  simp [State.waitPosted, hmine]

/-- A release that waits for nothing goes on in the same state. -/
theorem afterRelease_of_releasesNow {p : Pfx} {pins global : Bool} {s : State} (body : State → Res)
    (h : s.releasesNow p pins global) : afterRelease p pins global s body = body s := by
  obtain hr | ⟨hpins, hposted⟩ := h
  · simp [afterRelease, hr]
  · have hpin : (pins && s.holdsTaskLines) = false := by
      cases pins with
      | false => rfl
      | true => simp [State.holdsTaskLines, hpins rfl]
    have hwait (hg : global = true) (hscope : p.scope = .system) : afterPosted s body = body s := by
      simp [afterPosted, State.waitPosted_of_none (hposted hg hscope)]
    by_cases hsys : p.scope = .system ∧ global = true
    · simp [afterRelease, pinIf, hpin, hsys, hwait hsys.2 hsys.1]
    · simp [afterRelease, pinIf, hpin, hsys]

/-! ## Lanes -/

/-- A merged result is what the function gives in active lanes; in the others zero or the old lane (R138). -/
theorem mergeLanes_eq_ofFn (m : Word) (zeroing : Bool) (old : VReg) (f : Nat → Lane) : mergeLanes m zeroing old f =
    Vector.ofFn (fun j : Fin 64 => if m.getLsbD j then f j else if zeroing then 0 else VReg.lane old j) := by
  refine Vector.ext fun i hi => ?_
  simp only [mergeLanes, tabulate, Vector.getElem_ofFn, Vector.getElem_mk, List.getElem_toArray, List.getElem_map, List.getElem_range]

/-- The state after a load has read the lanes of a mask: outside scratchpad their lines are noted (R188). -/
def State.noteLanes (t : State) (sp : Spot) (scratch : Bool) (m : Word) (delta : Nat → Nat) : State :=
  if scratch then t else t.noteReads ((activeLanes m).flatMap (fun j => t.linesRead (sp.part (delta j) 4)))

/-- The value of a lane at its place: an element of the bank's format in scratchpad, 32 bits of the n bytes elsewhere (R64). -/
def State.laneValue (t : State) (sp : Spot) (fmt n : Nat) (scratch : Bool) (delta : Nat → Nat) (j : Nat) : Lane :=
  if scratch then t.elemAt t.tctx.table sp.tile t.ctxn fmt (sp.off + delta j)
  else BitVec.ofNat 32 (ofBytes (((t.readSpot sp n).drop (delta j)).take 4))

theorem readLanes_of_clean {sp : Spot} {va fmt : Nat} {scratch : Bool} {n : Nat} {m : Word} {delta : Nat → Nat} {t : State}
    (body : (Nat → Lane) → State → Res) (h : t.poisonIn (t.lanesSeen sp va fmt scratch m delta) = none) :
    readLanes sp va fmt scratch n m delta t body = body (t.laneValue sp fmt n scratch delta) (t.noteLanes sp scratch m delta) := by
  rw [readLanes, consume_of_clean _ h]
  cases scratch <;> rfl

/-! ## Loads -/

/-- The state t in which a vector load gets to its spot, with its lanes outstanding. -/
def State.vectorLoaded (t : State) (p : Pfx) (d : BitVec 5) (sp : Spot) (fmt n : Nat) (scratch : Bool) (delta : Nat → Nat) : State :=
  let m := t.k p.maskReg
  let u := t.noteLanes sp scratch m delta
  u.pend (.v d (writtenLanes m p.zeroing) (Vector.ofFn (fun j : Fin 64 => if m.getLsbD j then t.laneValue sp fmt n scratch delta j
      else if p.zeroing then 0 else VReg.lane (u.v d) j)))
    (sp.laneBanks u.cur.tile (elemWidth fmt) m delta)

theorem vectorLoad_done {p : Pfx} {d : BitVec 5} {x : Access} {fmt : Nat} {scratch : Bool} {delta : Nat → Nat} {s : State} {sp : Spot}
    (htable : scratch = true → usesT8 fmt = true → s.tablePending = false) (hlook : s.look x (some fmt) = .ok sp)
    (hclean : let t := s.reach p sp.globals
      t.poisonIn (t.lanesSeen sp x.a fmt scratch (t.k p.maskReg) delta) = none) :
    vectorLoad p d x fmt scratch delta s = .done ((s.reach p sp.globals).vectorLoaded p d sp fmt x.n scratch delta) := by
  rw [vectorLoad, afterTable_of_clear _ htable, hlook, atSpot_ok, readLanes_of_clean _ hclean, mergeLanes_eq_ofFn]
  rfl

/-! ## Stores -/

/-- Elements of a format without blocks are written one by one (R74). -/
theorem State.putElems_of_single {fmt : Nat} (h : fmt ≠ 4) (t : State) (table : List (BitVec 19)) (mode : Round) (tile ctx off : Nat)
    (m : Word) (v : VReg) (delta : Nat → Nat) (blocks : Bool) : t.putElems table mode tile ctx fmt off m v delta blocks =
      ((activeLanes m).foldl (fun u j => u.writeBytes 0 (keyScratch ctx tile (off + delta j))
        (toBytes (elemWidth fmt) (roundToBank table fmt mode (VReg.lane v j)))) t).cleanseRuns
          ((activeLanes m).map (fun j => (keyScratch ctx tile (off + delta j), elemWidth fmt))) := by
  have h8 : ¬ fmt = fmtT8B := h
  simp only [State.putElems, State.putLane, State.putImage, imageKey, elemRuns, h8, decide_false, Bool.false_and, Bool.false_eq_true,
    if_false, List.map_eq_flatMap, List.flatMap_assoc, List.flatMap_singleton]

theorem putRaw_of_local {sp : Spot} {c : Piece} (hspace : sp.space = .cmem) (hpiece : sp.pieces = [c]) (ta : Nat) (m : Word) (v : VReg)
    (delta : Nat → Nat) (t : State) (body : State → Res) : putRaw ta sp (laneRuns m v delta) t body =
      body (((activeLanes m).foldl (fun u j => u.writeBytes u.keyId (c.key + delta j) (toBytes 4 (VReg.lane v j).toNat)) t).cleanseRuns
        ((activeLanes m).map (fun j => (c.key + delta j, 4)))) := by
  simp only [putRaw, hspace, hpiece, laneRuns, List.foldl_map, List.map_map]
  rfl

/-- The stores that active lanes make of 32 bits each, in the pieces of a spot. -/
def laneStores (sp : Spot) (m : Word) (v : VReg) (delta : Nat → Nat) : List Action :=
  (activeLanes m).flatMap (fun j => pieceStore sp.pieces (delta j) (toBytes 4 (VReg.lane v j).toNat))

theorem putRaw_of_global {sp : Spot} (hspace : sp.space = .global) (ta : Nat) (m : Word) (v : VReg)
    (delta : Nat → Nat) (t : State) (body : State → Res) :
    putRaw ta sp (laneRuns m v delta) t body = act t (laneStores sp m v delta) body := by
  simp only [putRaw, hspace, laneRuns, List.flatMap_map, laneStores]

/-- A speculative firing with room holds actions among its own (R187, R191). -/
theorem act_of_speculative {s : State} {f : Firing} {as : List Action} (body : State → Res) (hf : s.fir = some f) (hp : f.pinned = false)
    (hfit : s.fits as = true) : act s as body = body ((s.cleanseLines f.serial as).setFir { f with actions := f.actions ++ as }) := by
  simp [act, State.speculative, hf, hp, hfit]

section
variable {p : Pfx} {x : Access} {fmt : Nat} {scratch : Bool} {s : State} {sp : Spot}
  (hlook : s.look x (some fmt) = .ok sp)
  (hrel : (s.reach p sp.globals).releasesNow p (sp.space != .global) (sp.space == .global))
include hlook hrel

/-- A vector store that waits for nothing goes on in the state in which it gets to its spot. -/
theorem vectorStore_reached (htable : scratch = true → usesT8 fmt = true → s.tablePending = false) (d : BitVec 5)
    (delta : Nat → Nat) (blocks : Bool) : vectorStore p d x fmt scratch delta blocks s =
      let t := s.reach p sp.globals
      let m := t.k p.maskReg
      if scratch then
        consume (if fmt = fmtT8B then t.blocksRead sp.tile sp.off x.a m delta blocks else []) t (fun u =>
          .done (u.putElems u.tctx.table p.round sp.tile u.ctxn fmt sp.off m (u.v d) delta blocks))
      else putRaw x.ta sp (laneRuns m (t.v d) delta) t (fun u => .done u) := by
  rw [vectorStore, afterTable_of_clear _ htable, hlook, atSpot_ok, afterRelease_of_releasesNow _ hrel]

theorem vectorStore_elements (hs : scratch = true) (hfmt : fmt ≠ 4) (htable : fmt = 3 → s.tablePending = false) (d : BitVec 5) (delta : Nat → Nat)
    (blocks : Bool) : vectorStore p d x fmt scratch delta blocks s =
      let t := s.reach p sp.globals
      let lanes := activeLanes (t.k p.maskReg)
      .done ((lanes.foldl (fun u j => u.writeBytes 0 (keyScratch t.ctxn sp.tile (sp.off + delta j))
        (toBytes (elemWidth fmt) (roundToBank t.tctx.table fmt p.round (VReg.lane (t.v d) j)))) t).cleanseRuns
          (lanes.map (fun j => (keyScratch t.ctxn sp.tile (sp.off + delta j), elemWidth fmt)))) := by
  subst hs
  have h8 : ¬ fmt = fmtT8B := hfmt
  have ht8 : usesT8 fmt = true → fmt = 3 := by simp [usesT8, h8, fmtT8]
  simp only [vectorStore_reached hlook hrel (fun _ h => htable (ht8 h)), if_true, if_neg h8]
  rw [consume_of_clean _ rfl, State.putElems_of_single hfmt]

theorem vectorStore_blocks (hs : scratch = true) (hfmt : fmt = 4) (htable : s.tablePending = false) {delta : Nat → Nat} {blocks : Bool}
    (d : BitVec 5) (hclean : let t := s.reach p sp.globals
      t.poisonIn (t.blocksRead sp.tile sp.off x.a (t.k p.maskReg) delta blocks) = none) :
    vectorStore p d x fmt scratch delta blocks s =
      let t := s.reach p sp.globals
      .done (t.putElems t.tctx.table p.round sp.tile t.ctxn fmt sp.off (t.k p.maskReg) (t.v d) delta blocks) := by
  subst hs
  have h8 : fmt = fmtT8B := hfmt
  simp only [vectorStore_reached hlook hrel (fun _ _ => htable), if_true, if_pos h8]
  exact consume_of_clean _ hclean

theorem vectorStore_cmem {c : Piece} (hs : scratch = false) (hspace : sp.space = .cmem) (hpiece : sp.pieces = [c]) (d : BitVec 5)
    (delta : Nat → Nat) (blocks : Bool) : vectorStore p d x fmt scratch delta blocks s =
      let t := s.reach p sp.globals
      let lanes := activeLanes (t.k p.maskReg)
      .done ((lanes.foldl (fun u j => u.writeBytes u.keyId (c.key + delta j) (toBytes 4 (VReg.lane (t.v d) j).toNat)) t).cleanseRuns
        (lanes.map (fun j => (c.key + delta j, 4)))) := by
  subst hs
  rw [vectorStore_reached hlook hrel (by simp)]
  exact putRaw_of_local hspace hpiece _ _ _ _ _ _

theorem vectorStore_global {f : Firing} {d : BitVec 5} {delta : Nat → Nat} (hs : scratch = false) (hspace : sp.space = .global)
    (hf : (s.reach p sp.globals).fir = some f) (hp : f.pinned = false) (blocks : Bool)
    (hfit : let t := s.reach p sp.globals
      t.fits (laneStores sp (t.k p.maskReg) (t.v d) delta) = true) : vectorStore p d x fmt scratch delta blocks s =
      let t := s.reach p sp.globals
      let as := laneStores sp (t.k p.maskReg) (t.v d) delta
      .done ((t.cleanseLines f.serial as).setFir { f with actions := f.actions ++ as }) := by
  subst hs
  rw [vectorStore_reached hlook hrel (by simp)]
  exact (putRaw_of_global hspace _ _ _ _ _ _).trans (act_of_speculative _ hf hp hfit)

end

end Sys2Proof.Machine

open Sys2Proof.Machine in
/-- Settles O19: each form performs a vector load at the spot that its access finds, and the three differ only in the access and in where
the lanes stand. -/
theorem vectorLoads : Obligations.VectorLoads := by
  unfold Obligations.VectorLoads
  intro p d m s sp k n h
  have element := runRep_done p true 32 d 32 0 s
  refine ⟨fun htable hlook hclean => ?_, fun htable hlook hclean => ?_, fun htable hlook hclean => ?_⟩
  · exact (element _ k n h _ (vectorLoad_done htable hlook hclean) : execVLd p d m s = _)
  · exact (element _ k n h _ (vectorLoad_done htable hlook hclean) : execVLdb p d m s = _)
  · exact (element _ k n h _ (vectorLoad_done htable hlook hclean) : execVLds p d m s = _)

open Sys2Proof.Machine in
/-- Settles O20: both forms perform a vector store at the spot that their access finds, by where the spot lies and the bank's format. -/
theorem vectorStores : Obligations.VectorStores := by
  unfold Obligations.VectorStores
  intro p d m s sp k n h t hrel mask v active form
  have contiguous {u : State} (hu : _ = Res.done u) : execVSt p d m s = _ := runRep_done p true 32 d 32 0 s _ k n h u hu
  have strided {u : State} (hu : _ = Res.done u) : execVSts p d m s = _ := runRep_done p true 32 d 32 0 s _ k n h u hu
  refine ⟨fun hlook => ⟨?_, ?_, ?_, ?_⟩, fun hlook => ⟨?_, ?_, ?_, ?_⟩⟩
  · exact fun hs hfmt htable => contiguous (vectorStore_elements hlook hrel hs hfmt htable _ _ _)
  · exact fun hs hfmt htable hclean => contiguous (vectorStore_blocks hlook hrel hs hfmt htable _ hclean)
  · exact fun c hs hspace hpiece => contiguous (vectorStore_cmem hlook hrel hs hspace hpiece _ _ _)
  · exact fun f hs hspace hf hp hfit => contiguous (vectorStore_global hlook hrel hs hspace hf hp _ hfit)
  · exact fun hs hfmt htable => strided (vectorStore_elements hlook hrel hs hfmt htable _ _ _)
  · exact fun hs hfmt htable hclean => strided (vectorStore_blocks hlook hrel hs hfmt htable _ hclean)
  · exact fun c hs hspace hpiece => strided (vectorStore_cmem hlook hrel hs hspace hpiece _ _ _)
  · exact fun f hs hspace hf hp hfit => strided (vectorStore_global hlook hrel hs hspace hf hp _ hfit)
end

section
/-! PROOFS. A repeated chain that holds in a register set with a page wait on record (R91, R332). -/

namespace Sys2Proof.Machine

/-- A repeated chain whose element holds while a page wait is on record leaves RCNT naming the elements before it, as it does for the page
fault that the element waits on (R332). -/
theorem runRep_holds_of_pageWait {p : Pfx} {q : RepPfx} {paged : Bool} {size1 size2 : Nat} {f1 f2 : BitVec 5} {s t : State}
    {body : Nat → BitVec 5 → BitVec 5 → State → Res} {k n : Nat} (h : s.onElement p size1 f1 size2 f2 k n) (hr : p.rep = some q)
    (hb : body k (p.field1 k f1) (p.field2 k f2) s = .hold t) (hw : t.reg.pageWait.isNone = false) :
    runRep p paged size1 f1 size2 f2 s body =
      .next (t.setReg { t.reg with rcnt := { done := BitVec.ofNat 16 k, remain := BitVec.ofNat 16 (n - k) } }).held := by
  rw [runRep_element p paged size1 f1 size2 f2 s body k n h, hr, hb]
  simp [Res.finishElement, hw]

@[simp] theorem State.held_rcnt (s : State) : s.held.reg.rcnt = s.reg.rcnt := by
  simp [State.held]

/-- So a chain of which no element is done yet does not hold with nothing performed: its RCNT is no longer zero. -/
theorem runRep_ne_held {p : Pfx} {q : RepPfx} {paged : Bool} {size1 size2 : Nat} {f1 f2 : BitVec 5} {s : State}
    {body : Nat → BitVec 5 → BitVec 5 → State → Res} {n : Nat} (h : s.onElement p size1 f1 size2 f2 0 n) (hr : p.rep = some q)
    (hb : body 0 (p.field1 0 f1) (p.field2 0 f2) s = .hold s) (hw : s.reg.pageWait.isNone = false)
    (hn : s.reg.rcnt.remain ≠ BitVec.ofNat 16 n) : runRep p paged size1 f1 size2 f2 s body ≠ .next s.held := by
  rw [runRep_holds_of_pageWait h hr hb hw]
  intro he
  have hrcnt := congrArg (fun u : State => u.reg.rcnt.remain) (Host.Outcome.next.inj he)
  simp only [State.held_rcnt, State.reg_setReg] at hrcnt
  exact hn hrcnt.symm

/-- A chain repeated once. -/
def Pfx.once : Pfx := { Pfx.plain with rep := some { step1 := false, step2 := false, count := .imm 1 } }

/-- Tile 0 with a page wait and a decode table outstanding in its set, and a matrix command on a T8 bank queued. -/
def State.pageWaiting : State :=
  let s := State.reset.setReg { RegSet.reset with
    pageWait := some { count := 0, va := 0, reply := none }, pending := [{ res := .table [], banks := [], stamp := 0 }] }
  s.setMtxOf 0 0 { Matrix.reset with
    queue := [{ opc := 0, rnd := 0, ws := false, addr := 0, wfmt := 0, pitch := 0, step := 0, fmt := fmtT8, owner := none }] }

/-- A chain repeated once is about to perform its only element there. -/
theorem pageWaiting_onElement {size1 size2 : Nat} {f1 f2 : BitVec 5} : State.pageWaiting.onElement Pfx.once size1 f1 size2 f2 0 1 where
  free := by decide
  index := ⟨⟨rfl, rfl⟩, by decide, by decide⟩
  fits1 q hq hs := by
    obtain rfl := Option.some.inj hq
    cases hs
  fits2 q hq hs := by
    obtain rfl := Option.some.inj hq
    cases hs

theorem pageWaiting_tablePending : State.pageWaiting.tablePending = true := by rfl

theorem pageWaiting_tableBusy : State.pageWaiting.tableBusy = true := by rfl

/-- A chain repeated once that holds there does not hold with nothing performed. -/
theorem runRep_once_ne_held (paged : Bool) (size1 : Nat) (f1 : BitVec 5) (size2 : Nat) (f2 : BitVec 5)
    (body : Nat → BitVec 5 → BitVec 5 → State → Res) (hb : body 0 f1 f2 State.pageWaiting = .hold State.pageWaiting) :
    runRep Pfx.once paged size1 f1 size2 f2 State.pageWaiting body ≠ .next State.pageWaiting.held :=
  runRep_ne_held pageWaiting_onElement rfl hb rfl (by decide)

theorem vT8dec_ne_held : exec (.vT8dec Pfx.once 0 0) State.pageWaiting ≠ .next State.pageWaiting.held :=
  (runRep_once_ne_held true 32 0 32 0 _ rfl : execVT8dec Pfx.once 0 0 State.pageWaiting ≠ _)

theorem t8LdE4_ne_held : exec (.t8LdE4 Pfx.once) State.pageWaiting ≠ .next State.pageWaiting.held :=
  (runRep_once_ne_held true 3 1 32 0 _ rfl : execT8LdE4 Pfx.once State.pageWaiting ≠ _)

end Sys2Proof.Machine

open Sys2Proof.Machine in
/-- Refutes O24: its last clause says that a T8 conversion, while a table is pending, holds with nothing performed in every state. In a
register set with a page wait on record, from which nothing issues (R332) but which no hypothesis rules out, a repeated chain that holds
leaves RCNT naming its elements (R91): repeated once, `v.t8dec` leaves 1 in its REMAIN, where the clause says 0. -/
theorem not_vectorFloatLanes : ¬ Obligations.VectorFloatLanes := by
  unfold Obligations.VectorFloatLanes
  intro h
  obtain ⟨-, -, -, -, -, -, -, -, -, -, -, -, -, -, -, -, -, -, hheld⟩ := h Pfx.once 0 0 State.pageWaiting 0 1 pageWaiting_onElement
  exact vT8dec_ne_held (hheld pageWaiting_tablePending).1

open Sys2Proof.Machine in
/-- Refutes O29: its first clause says that a table load holds with nothing performed, in every state, while an earlier conversion is under
way. In a register set with a page wait on record, from which nothing issues (R332) but which no hypothesis rules out, a repeated chain
that holds leaves RCNT naming its elements (R91): repeated once, `t8.ld` of E4 leaves 1 in its REMAIN, where the clause says 0. -/
theorem not_decodeTableLoads : ¬ Obligations.DecodeTableLoads := by
  unfold Obligations.DecodeTableLoads
  intro h
  obtain ⟨hloads, -⟩ := h Pfx.once { cap := 0, regOff := false } State.pageWaiting 0 1
  refine t8LdE4_ne_held ((hloads pageWaiting_onElement).trans ?_)
  rw [if_pos pageWaiting_tableBusy]
end

section
/-! PROOFS. Rounding to steps of a power of two (R60, R61). -/

namespace Sys2Proof.Machine

/-! ## The neighbour that a mode takes -/

/-- The neighbour, n or n + 1, to which a mode rounds n + r / 2 ^ k. -/
def neighbour (mode : Round) (neg : Bool) (n r k : Nat) : Nat := if roundsUp mode neg n r k then n + 1 else n

theorem neighbour_eq_or (mode : Round) (neg : Bool) (n r k : Nat) :
    neighbour mode neg n r k = n ∨ neighbour mode neg n r k = n + 1 := by
  unfold neighbour
  split <;> simp

theorem neighbour_zero (mode : Round) (neg : Bool) (n k : Nat) : neighbour mode neg n 0 k = n := rfl

theorem neighbour_rz (neg : Bool) (n r k : Nat) : neighbour .rz neg n r k = n := by
  simp [neighbour, roundsUp]

theorem neighbour_dflt (neg : Bool) (n r k : Nat) : neighbour .dflt neg n r k = neighbour .rn neg n r k := rfl

section
variable {n r k : Nat} (hr : r ≠ 0)
include hr

theorem neighbour_ru (neg : Bool) : neighbour .ru neg n r k = if neg then n else n + 1 := by
  cases neg <;> simp [neighbour, roundsUp, hr]

theorem neighbour_rd (neg : Bool) : neighbour .rd neg n r k = if neg then n + 1 else n := by
  cases neg <;> simp [neighbour, roundsUp, hr]

theorem neighbour_ro_odd (neg : Bool) : neighbour .ro neg n r k % 2 = 1 := by
  have h : neighbour .ro neg n r k = if n % 2 = 0 then n + 1 else n := by simp [neighbour, roundsUp, hr]
  rw [h]
  split <;> omega

/-- Nearest-even takes the nearer neighbour, and the even one of two as near. -/
theorem neighbour_rn (neg : Bool) : (2 * r < 2 ^ k → neighbour .rn neg n r k = n) ∧
    (2 ^ k < 2 * r → neighbour .rn neg n r k = n + 1) ∧ (2 * r = 2 ^ k → neighbour .rn neg n r k % 2 = 0) := by
  have h : neighbour .rn neg n r k = if 2 ^ k < 2 * r ∨ (2 * r = 2 ^ k ∧ n % 2 = 1) then n + 1 else n := by
    simp [neighbour, roundsUp, hr]
  rw [h]
  refine ⟨fun hlow => ?_, fun hhigh => if_pos (.inl hhigh), fun hmid => ?_⟩
  · exact if_neg (by omega)
  · split <;> omega

end

/-! ## Steps -/

/-- A magnitude of whole steps is rounded to itself. -/
theorem roundSteps_of_le (mode : Round) (neg : Bool) (m : Nat) {e q : Int} (h : q ≤ e) :
    roundSteps mode neg m e q = m * 2 ^ (e - q).toNat := by
  simp [roundSteps, h, pow2]

/-- Any other goes to a neighbour. -/
theorem roundSteps_of_lt (mode : Round) (neg : Bool) (m : Nat) {e q : Int} {k : Nat} (h : e < q) (hk : (q - e).toNat = k) :
    roundSteps mode neg m e q = neighbour mode neg (m / 2 ^ k) (m % 2 ^ k) k := by
  subst hk
  simp [roundSteps, Int.not_le.mpr h, neighbour]

theorem roundSteps_zero_natCast (mode : Round) (neg : Bool) (m : Nat) {c : Nat} (hc : 0 < c) :
    roundSteps mode neg m 0 c = neighbour mode neg (m / 2 ^ c) (m % 2 ^ c) c :=
  roundSteps_of_lt mode neg m (by exact_mod_cast hc) (by simp)

/-! ## As real numbers -/

/-- A magnitude that is one of the steps is picked as it is. -/
theorem picks_of_exact (mode : Round) (neg : Bool) {a q : ℝ} {n : Nat} (hq : 0 < q) (h : a = n * q) : picks mode neg a q n := by
  refine ⟨n, h.ge, ?_, .inl rfl, fun _ => rfl, fun hne => absurd h hne⟩
  rw [h]
  exact mul_lt_mul_of_pos_right (by linarith) hq

/-- Of n * 2 ^ k + r units, in steps of 2 ^ k units, the neighbour is picked. -/
theorem picks_of_split (mode : Round) (neg : Bool) {n r k : Nat} {u : ℝ} (hu : 0 < u) (hr : r < 2 ^ k) :
    picks mode neg ((n * 2 ^ k + r) * u) (2 ^ k * u) (neighbour mode neg n r k) := by
  have hr' : (r : ℝ) < 2 ^ k := by exact_mod_cast hr
  have hbelow : (n * 2 ^ k + r) * u - n * (2 ^ k * u) = r * u := by ring
  have habove : (n + 1) * (2 ^ k * u) - (n * 2 ^ k + r) * u = (2 ^ k - r) * u := by ring
  have hexact : (n * 2 ^ k + r) * u = n * (2 ^ k * u) ↔ r = 0 := by
    rw [← sub_eq_zero, hbelow, mul_eq_zero]
    simp [hu.ne']
  refine ⟨n, ?_, ?_, neighbour_eq_or mode neg n r k, ?_, ?_⟩
  · rw [← sub_nonneg, hbelow]
    positivity
  · rw [← sub_pos, habove]
    exact mul_pos (by linarith) hu
  · intro h
    rw [hexact.mp h, neighbour_zero]
  · intro h
    have hr0 : r ≠ 0 := fun h0 => h (hexact.mpr h0)
    have hnearer : r * u < (2 ^ k - r) * u ↔ 2 * r < 2 ^ k := by
      rw [mul_lt_mul_iff_left₀ hu, lt_sub_iff_add_lt, ← two_mul]
      exact_mod_cast Iff.rfl
    have hfarther : (2 ^ k - r) * u < r * u ↔ 2 ^ k < 2 * r := by
      rw [mul_lt_mul_iff_left₀ hu, sub_lt_iff_lt_add, ← two_mul]
      exact_mod_cast Iff.rfl
    have hmiddle : r * u = (2 ^ k - r) * u ↔ 2 * r = 2 ^ k := by
      rw [mul_left_inj' hu.ne', eq_sub_iff_add_eq, ← two_mul]
      exact_mod_cast Iff.rfl
    rw [hbelow, habove, hnearer, hfarther, hmiddle]
    cases mode with
    | dflt => exact neighbour_rn hr0 neg
    | rn => exact neighbour_rn hr0 neg
    | rz => exact neighbour_rz neg n r k
    | ru => exact neighbour_ru hr0 neg
    | rd => exact neighbour_rd hr0 neg
    | ro => exact neighbour_ro_odd hr0 neg

/-- roundSteps picks the steps of a magnitude (R60). -/
theorem roundSteps_picks (mode : Round) (neg : Bool) (m : Nat) (e q : Int) :
    picks mode neg (m * (2 : ℝ) ^ e) (2 ^ q) (roundSteps mode neg m e q) := by
  rcases le_or_gt q e with h | h
  · rw [roundSteps_of_le mode neg m h]
    refine picks_of_exact mode neg (by positivity) ?_
    have hsplit : (2 : ℝ) ^ e = 2 ^ (e - q).toNat * 2 ^ q := by
      rw [← zpow_natCast, ← zpow_add₀ two_ne_zero, Int.toNat_of_nonneg (by omega), sub_add_cancel]
    rw [hsplit]
    push_cast
    ring
  · obtain ⟨k, hk⟩ : ∃ k : Nat, (q - e).toNat = k := ⟨_, rfl⟩
    rw [roundSteps_of_lt mode neg m h hk]
    have hunits : (m : ℝ) = (m / 2 ^ k : Nat) * 2 ^ k + (m % 2 ^ k : Nat) := by
      exact_mod_cast (Nat.div_add_mod' m (2 ^ k)).symm
    have hstep : (2 : ℝ) ^ q = 2 ^ k * 2 ^ e := by
      rw [← zpow_natCast, ← zpow_add₀ two_ne_zero, ← hk, Int.toNat_of_nonneg (by omega), sub_add_cancel]
    rw [hunits, hstep]
    exact picks_of_split mode neg (by positivity) (Nat.mod_lt _ (by positivity))

end Sys2Proof.Machine
end

section
/-! PROOFS. The encodings of the binary formats and RoundFloat (R56, R60). -/

namespace Sys2Proof.Machine

/-! ## Formats -/

/-- What the binary formats share: the bias is the greatest exponent, and the exponent field of all ones lies below the sign (R56). -/
structure FloatFmt.Binary (f : FloatFmt) : Prop where
  emin_eq   : f.emin = 1 - f.emax
  emax_pos  : 0 < f.emax
  sign_eq   : 2 ^ f.signBit = (2 * f.emax.toNat + 2) * 2 ^ f.p

theorem FloatFmt.binary_of_mem {f : FloatFmt} (h : f ∈ [f32, bf16, f16]) : f.Binary := by
  simp only [List.mem_cons, List.not_mem_nil, or_false] at h
  obtain rfl | rfl | rfl := h
  · exact ⟨rfl, by decide, by decide⟩
  · exact ⟨rfl, by decide, by decide⟩
  · exact ⟨rfl, by decide, by decide⟩

theorem f32_binary : f32.Binary := FloatFmt.binary_of_mem (by simp)
theorem bf16_binary : bf16.Binary := FloatFmt.binary_of_mem (by simp)
theorem f16_binary : f16.Binary := FloatFmt.binary_of_mem (by simp)

/-- The magnitude of an encoding without its sign, in the least steps of its format. -/
def FloatFmt.magSteps (f : FloatFmt) (a : Nat) : Nat :=
  if a / 2 ^ f.p = 0 then a else (2 ^ f.p + a % 2 ^ f.p) * 2 ^ (a / 2 ^ f.p - 1)

theorem FloatFmt.magSteps_of_lt {f : FloatFmt} {a : Nat} (h : a < 2 ^ f.p) : f.magSteps a = a :=
  if_pos (Nat.div_eq_of_lt h)

theorem FloatFmt.magSteps_of_fields (f : FloatFmt) {ex fr : Nat} (hex : ex ≠ 0) (hfr : fr < 2 ^ f.p) :
    f.magSteps (ex * 2 ^ f.p + fr) = (2 ^ f.p + fr) * 2 ^ (ex - 1) := by
  have hpos : 0 < 2 ^ f.p := by positivity
  have hdiv : (ex * 2 ^ f.p + fr) / 2 ^ f.p = ex := by
    rw [Nat.add_comm, Nat.add_mul_div_right _ _ hpos, Nat.div_eq_of_lt hfr, Nat.zero_add]
  have hmod : (ex * 2 ^ f.p + fr) % 2 ^ f.p = fr := by
    rw [Nat.add_comm, Nat.add_mul_mod_self_right, Nat.mod_eq_of_lt hfr]
  rw [FloatFmt.magSteps, hdiv, hmod, if_neg hex]

/-- An encoding's fraction may carry into its exponent. -/
theorem FloatFmt.magSteps_of_carry (f : FloatFmt) {ex n : Nat} (hex : ex ≠ 0) (hlow : 2 ^ f.p ≤ n) (hhigh : n ≤ 2 ^ (f.p + 1)) :
    f.magSteps (ex * 2 ^ f.p + (n - 2 ^ f.p)) = n * 2 ^ (ex - 1) := by
  rcases hhigh.lt_or_eq with h | h
  · rw [f.magSteps_of_fields hex (by omega), Nat.add_sub_cancel' hlow]
  · have hcarry : ex * 2 ^ f.p + (n - 2 ^ f.p) = (ex + 1) * 2 ^ f.p + 0 := by
      rw [h, pow_succ]
      ring_nf
      omega
    obtain ⟨j, rfl⟩ := Nat.exists_eq_succ_of_ne_zero hex
    rw [hcarry, f.magSteps_of_fields (by omega) (by positivity), h]
    simp only [Nat.succ_eq_add_one, Nat.add_sub_cancel, pow_succ]
    ring

theorem FloatFmt.magSteps_strictMono (f : FloatFmt) : StrictMono f.magSteps := by
  refine strictMono_nat_of_lt_succ fun a => ?_
  have hfr : a % 2 ^ f.p < 2 ^ f.p := Nat.mod_lt _ (by positivity)
  have hfields : a = a / 2 ^ f.p * 2 ^ f.p + a % 2 ^ f.p := (Nat.div_add_mod' a _).symm
  generalize a / 2 ^ f.p = ex at hfields
  generalize a % 2 ^ f.p = fr at hfields hfr
  subst hfields
  have htwo : 2 ^ (f.p + 1) = 2 * 2 ^ f.p := Nat.pow_succ'
  rcases Nat.eq_zero_or_pos ex with rfl | hex
  · rw [Nat.zero_mul, Nat.zero_add, f.magSteps_of_lt hfr]
    rcases Nat.lt_or_ge (fr + 1) (2 ^ f.p) with h | h
    · rw [f.magSteps_of_lt h]
      omega
    · have hnext := f.magSteps_of_carry (ex := 1) (n := 2 ^ f.p) (by omega) le_rfl (by omega)
      rw [show fr + 1 = 1 * 2 ^ f.p + (2 ^ f.p - 2 ^ f.p) by omega, hnext]
      omega
  · have hnext := f.magSteps_of_carry (ex := ex) (n := 2 ^ f.p + (fr + 1)) (by omega) (by omega) (by omega)
    rw [Nat.add_sub_cancel_left] at hnext
    rw [f.magSteps_of_fields (by omega) hfr, Nat.add_assoc, hnext]
    exact Nat.mul_lt_mul_of_pos_right (by omega) (by positivity)

/-- The value of an encoding by its sign and its magnitude. -/
theorem FloatFmt.value_eq {f : FloatFmt} (hf : f.Binary) {n : Nat} (hn : n < 2 ^ (f.signBit + 1)) : (f.value n : ℝ) =
    (if 2 ^ f.signBit ≤ n then -1 else 1) * f.magSteps (n % 2 ^ f.signBit) * (2 : ℝ) ^ (f.emin - f.p) := by
  have hdvd : 2 ^ f.p ∣ 2 ^ f.signBit := ⟨_, by rw [hf.sign_eq, Nat.mul_comm]⟩
  have hsign : n / 2 ^ f.signBit % 2 = 1 ↔ 2 ^ f.signBit ≤ n := by
    have hpos : 0 < 2 ^ f.signBit := by positivity
    have hlt : n / 2 ^ f.signBit < 2 := by
      rw [Nat.div_lt_iff_lt_mul hpos, ← Nat.pow_succ']
      exact hn
    rw [Nat.mod_eq_of_lt hlt, ← Nat.one_le_div_iff hpos]
    omega
  have hfr : n % 2 ^ f.signBit % 2 ^ f.p = n % 2 ^ f.p := Nat.mod_mod_of_dvd n hdvd
  obtain ⟨ex, hex⟩ : ∃ ex, n % 2 ^ f.signBit / 2 ^ f.p = ex := ⟨_, rfl⟩
  simp only [FloatFmt.value, FloatFmt.magSteps, hfr, hex, hsign]
  by_cases h0 : ex = 0
  · rw [Nat.mod_eq_of_lt (Nat.lt_of_div_eq_zero (by positivity) (hex.trans h0))] at hfr
    rw [if_pos h0, if_pos h0, hfr]
    push_cast [apply_ite (Rat.cast : ℚ → ℝ)]
    ring
  · have hscale : (2 : ℝ) ^ ((ex : ℤ) - f.emax - f.p) = 2 ^ (ex - 1) * 2 ^ (f.emin - f.p) := by
      rw [← zpow_natCast, ← zpow_add₀ two_ne_zero, hf.emin_eq, Nat.cast_sub (Nat.one_le_iff_ne_zero.mpr h0)]
      congr 1
      push_cast
      ring
    rw [if_neg h0, if_neg h0]
    push_cast [apply_ite (Rat.cast : ℚ → ℝ)]
    rw [hscale]
    ring

/-! ## Exact values -/

/-- The real number that an exact value of a sign, a magnitude and an exponent stands for. -/
noncomputable def signedReal (neg : Bool) (m : Nat) (e : Int) : ℝ := (if neg then -1 else 1) * m * (2 : ℝ) ^ e

theorem abs_signedReal (neg : Bool) (m : Nat) (e : Int) : |signedReal neg m e| = m * (2 : ℝ) ^ e := by
  cases neg <;> simp [signedReal]

theorem signedReal_eq_zero {neg : Bool} {m : Nat} {e : Int} : signedReal neg m e = 0 ↔ m = 0 := by
  have hpos : (2 : ℝ) ^ e ≠ 0 := by positivity
  cases neg <;> simp [signedReal, hpos]

theorem signedReal_neg_iff {neg : Bool} {m : Nat} {e : Int} (hm : m ≠ 0) : signedReal neg m e < 0 ↔ neg = true := by
  have hpos : 0 < (m : ℝ) * 2 ^ e := by positivity
  cases neg
  · simpa [signedReal] using hpos.le
  · simpa [signedReal] using hpos

theorem signedReal_not (neg : Bool) (m : Nat) (e : Int) : signedReal (!neg) m e = -signedReal neg m e := by
  cases neg <;> simp [signedReal]

/-! ## RoundFloat -/

/-- The exponent at which RoundFloat spaces its steps: that of the value, and the format's least at least. -/
def FloatFmt.stepExp (f : FloatFmt) (m : Nat) (e : Int) : Int := max ((Nat.log2 m : Int) + e) f.emin

/-- The steps that RoundFloat makes of m * 2 ^ e lie past MAX. -/
def FloatFmt.overflows (f : FloatFmt) (ex : Int) (n : Nat) : Bool := decide (f.emax < ex ∨ (ex = f.emax ∧ 2 ^ (f.p + 1) ≤ n))

theorem FloatFmt.overflows_iff {f : FloatFmt} {ex : Int} {n : Nat} :
    f.overflows ex n = true ↔ f.emax < ex ∨ (ex = f.emax ∧ 2 ^ (f.p + 1) ≤ n) :=
  decide_eq_true_iff

/-- The encoding of n steps at an exponent, without its sign. -/
def FloatFmt.encodeSteps (f : FloatFmt) (ex : Int) (n : Nat) : Nat :=
  if n < 2 ^ f.p then n else (ex + f.emax).toNat * 2 ^ f.p + (n - 2 ^ f.p)

theorem roundFloat_fin {f : FloatFmt} {mode : Round} {neg : Bool} {m : Nat} {e : Int} (hm : m ≠ 0) :
    roundFloat f mode (.fin neg m e) =
      let ex := f.stepExp m e
      let n := roundSteps mode neg m e (ex - f.p)
      f.withSign neg (if f.overflows ex n then (if overflowsToInf mode neg then f.infBits else f.infBits - 1)
        else f.encodeSteps ex n) := by
  simp only [roundFloat, hm, if_false, FloatFmt.overflows_iff, FloatFmt.stepExp, FloatFmt.encodeSteps]
  split_ifs <;> simp [*]

theorem roundFloat_zero (f : FloatFmt) (mode : Round) (neg : Bool) (e : Int) : roundFloat f mode (.fin neg 0 e) = f.withSign neg 0 := rfl

/-- The value lies at its exponent, or below the format's least. -/
theorem lt_two_zpow_stepExp (f : FloatFmt) (m : Nat) (e : Int) : (m : ℝ) * 2 ^ e < 2 ^ (f.stepExp m e + 1) := by
  have hlog : m < 2 ^ (m.log2 + 1) := Nat.lt_log2_self
  have hlog' : (m : ℝ) < 2 ^ (m.log2 + 1) := by exact_mod_cast hlog
  calc (m : ℝ) * 2 ^ e < 2 ^ (m.log2 + 1) * 2 ^ e := by gcongr
    _ = 2 ^ ((m.log2 : ℤ) + e + 1) := by
      rw [← zpow_natCast, ← zpow_add₀ two_ne_zero]
      push_cast
      ring_nf
    _ ≤ 2 ^ (f.stepExp m e + 1) := zpow_le_zpow_right₀ one_le_two (by unfold FloatFmt.stepExp; omega)

theorem stepExp_eq_or (f : FloatFmt) {m : Nat} (e : Int) (hm : m ≠ 0) : f.stepExp m e = f.emin ∨ (2 : ℝ) ^ f.stepExp m e ≤ m * 2 ^ e := by
  rcases le_or_gt ((m.log2 : Int) + e) f.emin with h | h
  · exact .inl (max_eq_right h)
  · right
    have hlog : 2 ^ m.log2 ≤ m := Nat.log2_self_le hm
    have hlog' : (2 : ℝ) ^ m.log2 ≤ m := by exact_mod_cast hlog
    rw [FloatFmt.stepExp, max_eq_left h.le, zpow_add₀ two_ne_zero, zpow_natCast]
    gcongr

/-! ### The number of steps -/

section
variable {f : FloatFmt} {mode : Round} {neg : Bool} {a : ℝ} {ex : Int} {n : Nat}
  (hpick : picks mode neg a (2 ^ (ex - f.p)) n)
include hpick

theorem le_of_picks (h : a < 2 ^ (ex + 1)) : n ≤ 2 ^ (f.p + 1) := by
  obtain ⟨lo, hlo, -, hn, -⟩ := hpick
  have hq : (0 : ℝ) < 2 ^ (ex - f.p) := by positivity
  have hlt : (lo : ℝ) < 2 ^ (f.p + 1) := by
    refine lt_of_mul_lt_mul_right (hlo.trans_lt (h.trans_eq ?_)) hq.le
    rw [← zpow_natCast, ← zpow_add₀ two_ne_zero]
    push_cast
    ring_nf
  have hlt' : lo < 2 ^ (f.p + 1) := by exact_mod_cast hlt
  omega

theorem ge_of_picks (h : 2 ^ ex ≤ a) : 2 ^ f.p ≤ n := by
  obtain ⟨lo, -, hhi, hn, -⟩ := hpick
  have hq : (0 : ℝ) < 2 ^ (ex - f.p) := by positivity
  have hlt : (2 : ℝ) ^ f.p < lo + 1 := by
    refine lt_of_mul_lt_mul_right (lt_of_le_of_lt ?_ hhi) hq.le
    rw [← zpow_natCast, ← zpow_add₀ two_ne_zero]
    simpa using h
  have hlt' : 2 ^ f.p < lo + 1 := by exact_mod_cast hlt
  omega

end

/-! ### The encoding -/

section
variable {f : FloatFmt} (hf : f.Binary)
include hf

theorem FloatFmt.infBits_eq : f.infBits = (2 * f.emax.toNat + 1) * 2 ^ f.p := by
  rw [FloatFmt.infBits, hf.sign_eq]
  have h : (2 * f.emax.toNat + 2) * 2 ^ f.p = (2 * f.emax.toNat + 1) * 2 ^ f.p + 2 ^ f.p := by ring
  omega

theorem FloatFmt.infBits_lt : f.infBits < 2 ^ f.signBit := by
  rw [f.infBits_eq hf, hf.sign_eq]
  exact Nat.mul_lt_mul_of_pos_right (by omega) (by positivity)

section
variable {ex : Int} {n : Nat} (hmin : f.emin ≤ ex) (hhigh : n ≤ 2 ^ (f.p + 1))
include hmin hhigh

theorem FloatFmt.encodeSteps_lt (hover : f.overflows ex n = false) : f.encodeSteps ex n < f.infBits := by
  have hemin := hf.emin_eq
  have hemax := hf.emax_pos
  rw [Bool.eq_false_iff, Ne, FloatFmt.overflows_iff] at hover
  have htwo : 2 ^ (f.p + 1) = 2 * 2 ^ f.p := Nat.pow_succ'
  rw [f.infBits_eq hf, FloatFmt.encodeSteps]
  split
  · next h => exact h.trans_le (Nat.le_mul_of_pos_left _ (by omega))
  · next h =>
    have hcarry : ((ex + f.emax).toNat + 1) * 2 ^ f.p ≤ (2 * f.emax.toNat + 1) * 2 ^ f.p :=
      Nat.mul_le_mul_right _ (by omega)
    have hnext : ex ≠ f.emax → ((ex + f.emax).toNat + 1 + 1) * 2 ^ f.p ≤ (2 * f.emax.toNat + 1) * 2 ^ f.p :=
      fun hne => Nat.mul_le_mul_right _ (by omega)
    rw [Nat.succ_mul] at hcarry hnext
    rw [Nat.succ_mul (ex + f.emax).toNat] at hnext
    have hpos : 0 < 2 ^ f.p := by positivity
    by_cases he : ex = f.emax
    · omega
    · have := hnext he
      omega

theorem FloatFmt.magSteps_encodeSteps (hlow : ex = f.emin ∨ 2 ^ f.p ≤ n) :
    (f.magSteps (f.encodeSteps ex n) : ℝ) * 2 ^ (f.emin - f.p) = n * 2 ^ (ex - f.p) := by
  have hemin := hf.emin_eq
  have hemax := hf.emax_pos
  rw [FloatFmt.encodeSteps]
  split
  · next h =>
    rw [f.magSteps_of_lt h, hlow.resolve_right (by omega)]
  · next h =>
    rw [f.magSteps_of_carry (by omega) (by omega) hhigh]
    push_cast
    rw [mul_assoc, ← zpow_natCast, ← zpow_add₀ two_ne_zero, Nat.cast_sub (by omega), Int.toNat_of_nonneg (by omega), hemin]
    congr 2
    push_cast
    ring

end

theorem FloatFmt.past_iff {ex : Int} {n : Nat} (hlow : ex = f.emin ∨ 2 ^ f.p ≤ n) (hhigh : n ≤ 2 ^ (f.p + 1)) :
    (2 ^ (f.p + 1) - 1 : ℝ) * 2 ^ (f.emax - f.p) < n * 2 ^ (ex - f.p) ↔ f.overflows ex n = true := by
  have hemin := hf.emin_eq
  have hemax := hf.emax_pos
  have hp : (1 : ℝ) ≤ 2 ^ f.p := one_le_pow₀ one_le_two
  have htwo : (2 : ℝ) ^ (f.p + 1) = 2 * 2 ^ f.p := by ring
  rw [FloatFmt.overflows_iff]
  rcases lt_trichotomy ex f.emax with h | h | h
  · have hhigh' : (n : ℝ) ≤ 2 * 2 ^ f.p := by
      rw [← htwo]
      exact_mod_cast hhigh
    have hq : (2 : ℝ) * 2 ^ (ex - f.p) ≤ 2 ^ (f.emax - f.p) := by
      rw [← zpow_one_add₀ two_ne_zero]
      exact zpow_le_zpow_right₀ one_le_two (by omega)
    have hle : n * (2 : ℝ) ^ (ex - f.p) ≤ (2 ^ (f.p + 1) - 1) * 2 ^ (f.emax - f.p) := by
      calc n * (2 : ℝ) ^ (ex - f.p) ≤ 2 * 2 ^ f.p * 2 ^ (ex - f.p) := by gcongr
        _ = 2 ^ f.p * (2 * 2 ^ (ex - f.p)) := by ring
        _ ≤ 2 ^ f.p * 2 ^ (f.emax - f.p) := by gcongr
        _ ≤ (2 ^ (f.p + 1) - 1) * 2 ^ (f.emax - f.p) := by
          gcongr
          linarith
    exact iff_of_false hle.not_gt (by omega)
  · rw [h, mul_lt_mul_iff_left₀ (by positivity), sub_lt_iff_lt_add]
    have hcast : (2 : ℝ) ^ (f.p + 1) < n + 1 ↔ 2 ^ (f.p + 1) < n + 1 := by exact_mod_cast Iff.rfl
    rw [hcast]
    omega
  · have hlow' : (2 : ℝ) ^ f.p ≤ n := by exact_mod_cast hlow.resolve_left (by omega)
    have hq : (2 : ℝ) * 2 ^ (f.emax - f.p) ≤ 2 ^ (ex - f.p) := by
      rw [← zpow_one_add₀ two_ne_zero]
      exact zpow_le_zpow_right₀ one_le_two (by omega)
    refine iff_of_true ?_ (.inl h)
    calc (2 ^ (f.p + 1) - 1 : ℝ) * 2 ^ (f.emax - f.p) < 2 ^ (f.p + 1) * 2 ^ (f.emax - f.p) := by
          gcongr
          linarith
      _ = 2 ^ f.p * (2 * 2 ^ (f.emax - f.p)) := by ring
      _ ≤ n * 2 ^ (ex - f.p) := by gcongr

omit hf in
theorem FloatFmt.withSign_spec (neg : Bool) {a : Nat} (ha : a < 2 ^ f.signBit) :
    f.withSign neg a < 2 ^ (f.signBit + 1) ∧ (2 ^ f.signBit ≤ f.withSign neg a ↔ neg = true) ∧ f.withSign neg a % 2 ^ f.signBit = a := by
  have htwo : 2 ^ (f.signBit + 1) = 2 * 2 ^ f.signBit := Nat.pow_succ'
  cases neg with
  | false =>
    have h : f.withSign false a = a := Nat.zero_add a
    rw [h]
    exact ⟨by omega, by simp [ha], Nat.mod_eq_of_lt ha⟩
  | true =>
    have h : f.withSign true a = 2 ^ f.signBit + a := rfl
    rw [h]
    exact ⟨by omega, by simp, by rw [Nat.add_mod_left, Nat.mod_eq_of_lt ha]⟩

/-- An encoding without its sign has the value of its steps. -/
theorem FloatFmt.value_mag {a : Nat} (ha : a < 2 ^ f.signBit) : (f.value a : ℝ) = f.magSteps a * 2 ^ (f.emin - f.p) := by
  rw [FloatFmt.value_eq hf (ha.trans (Nat.pow_lt_pow_succ one_lt_two)), if_neg (by omega), Nat.mod_eq_of_lt ha, one_mul]

end

/-- RoundFloat gives the encoding that R60 picks. -/
theorem roundFloat_roundsTo {f : FloatFmt} (hf : f.Binary) (mode : Round) (neg : Bool) {m : Nat} (e : Int) (hm : m ≠ 0) :
    roundsTo f mode (signedReal neg m e) (roundFloat f mode (.fin neg m e)) := by
  have hneg : decide (signedReal neg m e < 0) = neg := by
    simp [signedReal_neg_iff hm]
  have hpick := roundSteps_picks mode neg m e (f.stepExp m e - f.p)
  have hlt := lt_two_zpow_stepExp f m e
  have hor := stepExp_eq_or f e hm
  have hhigh := le_of_picks hpick hlt
  have hlow := hor.imp_right (ge_of_picks hpick)
  have hmin : f.emin ≤ f.stepExp m e := le_max_right _ _
  have hinf := f.infBits_lt hf
  rw [roundFloat_fin hm]
  dsimp only
  generalize f.stepExp m e = ex at *
  generalize roundSteps mode neg m e (ex - f.p) = n at *
  refine ⟨ex, n, hmin, ?_, ?_, ?_, ?_⟩
  · rwa [abs_signedReal]
  · rwa [abs_signedReal]
  · rwa [abs_signedReal, hneg]
  · rw [hneg, FloatFmt.past_iff hf hlow hhigh, signedReal_neg_iff hm]
    cases hover : f.overflows ex n with
    | true =>
      obtain ⟨hbits, hsign, hmag⟩ := f.withSign_spec neg
        (a := if overflowsToInf mode neg then f.infBits else f.infBits - 1) (by split <;> omega)
      exact ⟨hbits, hsign, fun _ => hmag, fun h => absurd rfl h⟩
    | false =>
      have hbelow := FloatFmt.encodeSteps_lt hf hmin hhigh hover
      obtain ⟨hbits, hsign, hmag⟩ := f.withSign_spec neg (hbelow.trans hinf)
      refine ⟨hbits, hsign, fun h => absurd h (by simp), fun _ => ?_⟩
      simp only [Bool.false_eq_true, if_false, hmag]
      exact ⟨hbelow, by rw [f.value_mag hf (hbelow.trans hinf), FloatFmt.magSteps_encodeSteps hf hmin hhigh hlow]⟩

end Sys2Proof.Machine
end

section
/-! PROOFS. Values that a format holds come back from rounding (R56, R60). -/

namespace Sys2Proof.Machine

/-! ## Values of encodings -/

/-- A real number is a value of the format: so many steps of one of its exponents. -/
def FloatFmt.Represents (f : FloatFmt) (x : ℝ) : Prop :=
  ∃ (n : Nat) (ex : Int), n < 2 ^ (f.p + 1) ∧ f.emin ≤ ex ∧ ex ≤ f.emax ∧ |x| = n * (2 : ℝ) ^ (ex - f.p)

section
variable {f : FloatFmt} (hf : f.Binary)
include hf

theorem FloatFmt.value_eq_mag {n : Nat} (hn : n < 2 ^ (f.signBit + 1)) :
    (f.value n : ℝ) = (if 2 ^ f.signBit ≤ n then -1 else 1) * f.value (n % 2 ^ f.signBit) := by
  rw [f.value_eq hf hn, f.value_mag hf (Nat.mod_lt _ (by positivity)), mul_assoc]

theorem FloatFmt.abs_value {n : Nat} (hn : n < 2 ^ (f.signBit + 1)) :
    |(f.value n : ℝ)| = f.magSteps (n % 2 ^ f.signBit) * 2 ^ (f.emin - f.p) := by
  have hpos : (0 : ℝ) ≤ f.magSteps (n % 2 ^ f.signBit) * 2 ^ (f.emin - f.p) := by positivity
  rw [f.value_eq hf hn, mul_assoc, abs_mul, abs_of_nonneg hpos]
  split <;> simp

theorem FloatFmt.represents_value {n : Nat} (hn : n < 2 ^ (f.signBit + 1)) (hfin : n % 2 ^ f.signBit < f.infBits) :
    f.Represents (f.value n) := by
  have hemin := hf.emin_eq
  have hemax := hf.emax_pos
  have htwo : 2 ^ (f.p + 1) = 2 * 2 ^ f.p := Nat.pow_succ'
  have hfr : n % 2 ^ f.signBit % 2 ^ f.p < 2 ^ f.p := Nat.mod_lt _ (by positivity)
  unfold FloatFmt.Represents
  rw [f.abs_value hf hn]
  rw [f.infBits_eq hf] at hfin
  have hex : n % 2 ^ f.signBit / 2 ^ f.p < 2 * f.emax.toNat + 1 := (Nat.div_lt_iff_lt_mul (by positivity)).mpr hfin
  obtain ⟨ex, hE⟩ : ∃ ex, n % 2 ^ f.signBit / 2 ^ f.p = ex := ⟨_, rfl⟩
  rw [hE] at hex
  rw [FloatFmt.magSteps, hE]
  split
  · next h =>
    rw [Nat.mod_eq_of_lt (Nat.lt_of_div_eq_zero (by positivity) (hE.trans h))] at hfr
    exact ⟨_, f.emin, by omega, le_rfl, by omega, rfl⟩
  · next h =>
    refine ⟨2 ^ f.p + n % 2 ^ f.signBit % 2 ^ f.p, ex - f.emax, by omega, by omega, by omega, ?_⟩
    rw [Nat.cast_mul, Nat.cast_pow, Nat.cast_ofNat, mul_assoc, ← zpow_natCast, ← zpow_add₀ two_ne_zero, hemin, Nat.cast_sub (by omega)]
    congr 2
    push_cast
    ring

omit hf in
/-- An encoding is its magnitude with its sign. -/
theorem FloatFmt.withSign_mod {n : Nat} {neg : Bool} (hn : n < 2 ^ (f.signBit + 1)) (hsign : 2 ^ f.signBit ≤ n ↔ neg = true) :
    f.withSign neg (n % 2 ^ f.signBit) = n := by
  have htwo : 2 ^ (f.signBit + 1) = 2 * 2 ^ f.signBit := Nat.pow_succ'
  unfold FloatFmt.withSign
  split
  · next h =>
    rw [Nat.mod_eq_sub_mod (hsign.mpr h), Nat.mod_eq_of_lt (by omega)]
    exact Nat.add_sub_cancel' (hsign.mpr h)
  · next h => rw [Nat.zero_add, Nat.mod_eq_of_lt (not_le.mp (mt hsign.mp h))]

/-- Encodings with one value and one sign are equal. -/
theorem FloatFmt.value_injective {a b : Nat} {neg : Bool} (ha : a < 2 ^ (f.signBit + 1)) (hb : b < 2 ^ (f.signBit + 1))
    (hsa : 2 ^ f.signBit ≤ a ↔ neg = true) (hsb : 2 ^ f.signBit ≤ b ↔ neg = true) (h : (f.value a : ℝ) = f.value b) : a = b := by
  have hmag : a % 2 ^ f.signBit = b % 2 ^ f.signBit := by
    have habs := congrArg abs h
    rw [f.abs_value hf ha, f.abs_value hf hb, mul_left_inj' (by positivity), Nat.cast_inj] at habs
    exact f.magSteps_strictMono.injective habs
  rw [← FloatFmt.withSign_mod ha hsa, ← FloatFmt.withSign_mod hb hsb, hmag]

end

/-! ## Exact rounding -/

/-- Of a magnitude of whole steps those are picked. -/
theorem eq_of_picks_exact {mode : Round} {neg : Bool} {a q : ℝ} {y n : Nat} (hq : 0 < q) (h : picks mode neg a q y) (ha : a = n * q) :
    y = n := by
  obtain ⟨lo, hlo, hhi, -, hexact, -⟩ := h
  rw [ha] at hlo hhi
  have hlo' : lo ≤ n := by exact_mod_cast le_of_mul_le_mul_right hlo hq
  have hhi' : n < lo + 1 := by exact_mod_cast lt_of_mul_lt_mul_right hhi hq.le
  obtain rfl : lo = n := by omega
  exact hexact ha

/-- A value of the format is rounded to itself. -/
theorem value_of_roundsTo {f : FloatFmt} (hf : f.Binary) {mode : Round} {x : ℝ} {n : Nat} (h : roundsTo f mode x n)
    (hx : f.Represents x) : (f.value n : ℝ) = x ∧ n % 2 ^ f.signBit < f.infBits := by
  obtain ⟨e, y, hmin, -, hor, hpick, hbits, hsign, -, hval⟩ := h
  obtain ⟨N, ex, hN, hexmin, hexmax, habs⟩ := hx
  have hNle : (N : ℝ) ≤ 2 ^ (f.p + 1) - 1 := by
    have hN' : N + 1 ≤ 2 ^ (f.p + 1) := hN
    have hN'' : (N : ℝ) + 1 ≤ 2 ^ (f.p + 1) := by exact_mod_cast hN'
    linarith
  have hle : e ≤ ex := by
    rcases hor with rfl | hge
    · exact hexmin
    · have hlt : (2 : ℝ) ^ e < 2 ^ (ex + 1) := by
        calc (2 : ℝ) ^ e ≤ N * 2 ^ (ex - f.p) := hge.trans habs.le
          _ < 2 ^ (f.p + 1) * 2 ^ (ex - f.p) := by
            gcongr
            linarith
          _ = 2 ^ (ex + 1) := by
            rw [← zpow_natCast, ← zpow_add₀ two_ne_zero]
            push_cast
            ring_nf
      have := (zpow_lt_zpow_iff_right₀ one_lt_two).mp hlt
      omega
  have hsteps : |x| = (N * 2 ^ (ex - e).toNat : Nat) * (2 : ℝ) ^ (e - f.p) := by
    rw [habs, Nat.cast_mul, Nat.cast_pow, Nat.cast_ofNat, mul_assoc, ← zpow_natCast (2 : ℝ), ← zpow_add₀ two_ne_zero,
      Int.toNat_of_nonneg (by omega)]
    ring_nf
  have hy := eq_of_picks_exact (by positivity) hpick hsteps
  rw [← hy] at hsteps
  have hnot : ¬ (2 ^ (f.p + 1) - 1 : ℝ) * 2 ^ (f.emax - f.p) < y * 2 ^ (e - f.p) := by
    rw [← hsteps, habs, not_lt]
    exact mul_le_mul hNle (zpow_le_zpow_right₀ one_le_two (by omega)) (by positivity) (by linarith [N.cast_nonneg (α := ℝ)])
  obtain ⟨hfin, hmag⟩ := hval hnot
  refine ⟨?_, hfin⟩
  rw [f.value_eq_mag hf hbits, hmag, ← hsteps]
  simp only [hsign]
  split
  · next h => rw [abs_of_neg h]; ring
  · next h => rw [abs_of_nonneg (not_lt.mp h)]; ring

/-- The exact value of a finite encoding is rounded to that encoding, in any mode. -/
theorem roundFloat_of_value {f : FloatFmt} (hf : f.Binary) (mode : Round) {neg : Bool} {m n : Nat} {e : Int}
    (hn : n < 2 ^ (f.signBit + 1)) (hfin : n % 2 ^ f.signBit < f.infBits) (hsign : 2 ^ f.signBit ≤ n ↔ neg = true)
    (hval : (f.value n : ℝ) = signedReal neg m e) : roundFloat f mode (.fin neg m e) = n := by
  by_cases hm : m = 0
  · subst hm
    have hpos : 0 < 2 ^ f.signBit := by positivity
    obtain ⟨hbits, hs, hmag⟩ := f.withSign_spec neg hpos
    refine f.value_injective hf hbits hn hs hsign ?_
    rw [hval, roundFloat_zero, f.value_eq hf hbits, hmag, f.magSteps_of_lt (by positivity), signedReal_eq_zero.mpr rfl]
    simp
  · have hround := roundFloat_roundsTo hf mode neg e hm
    have hrep := f.represents_value hf hn hfin
    rw [hval] at hrep
    have hexact := (value_of_roundsTo hf hround hrep).1
    obtain ⟨-, -, -, -, -, -, hbits, hs, -⟩ := hround
    exact f.value_injective hf hbits hn (hs.trans (signedReal_neg_iff hm)) hsign (hexact.trans hval.symm)

end Sys2Proof.Machine
end

section
/-! PROOFS. F32 lanes and the exact values that they hold (R56, R62). -/

namespace Sys2Proof.Machine

/-! ## Finite lanes -/

/-- The significand of an F32 lane: its fraction, with the leading bit of a normal value. -/
def Lane.sig (b : Lane) : Nat := if b.toNat / 2 ^ 23 % 256 = 0 then b.toNat % 2 ^ 23 else 2 ^ 23 + b.toNat % 2 ^ 23

/-- The exponent of the last place of an F32 lane. -/
def Lane.lastExp (b : Lane) : Int := if b.toNat / 2 ^ 23 % 256 = 0 then -149 else ((b.toNat / 2 ^ 23 % 256 : Nat) : Int) - 150

theorem Lane.sig_lt (b : Lane) : Lane.sig b < 2 ^ 24 := by
  unfold Lane.sig
  split <;> omega

theorem Lane.lastExp_le {b : Lane} (h : finite b) : -149 ≤ Lane.lastExp b ∧ Lane.lastExp b ≤ 104 := by
  unfold finite at h
  unfold Lane.lastExp
  split <;> omega

theorem f32Num_of_finite {b : Lane} (h : finite b) : f32Num b = .fin b.msb (Lane.sig b) (Lane.lastExp b) := by
  unfold finite at h
  have hex : b.toNat / 2 ^ 23 % 256 ≠ 255 := by omega
  simp only [f32Num, hex, if_false, Lane.sig, Lane.lastExp]
  split <;> rfl

theorem f32Num_of_inf {b : Lane} (h : b.toNat % 2 ^ 31 = 0x7F800000) : f32Num b = .inf b.msb := by
  have hex : b.toNat / 2 ^ 23 % 256 = 255 := by omega
  have hfr : b.toNat % 2 ^ 23 = 0 := by omega
  simp only [f32Num, hex, hfr, if_true]

theorem Lane.msb_iff (b : Lane) : b.msb = true ↔ 2 ^ 31 ≤ b.toNat := by
  rw [BitVec.msb_eq_decide, decide_eq_true_iff]

theorem f32_signBit : f32.signBit = 31 := rfl
theorem bf16_signBit : bf16.signBit = 15 := rfl
theorem f16_signBit : f16.signBit = 15 := rfl

theorem Lane.magSteps_f32 (b : Lane) : (f32.magSteps (b.toNat % 2 ^ 31) : ℝ) * 2 ^ (-149 : ℤ) = Lane.sig b * 2 ^ Lane.lastExp b := by
  have hp : f32.p = 23 := rfl
  have hex : b.toNat % 2 ^ 31 / 2 ^ 23 = b.toNat / 2 ^ 23 % 256 := by omega
  have hfr : b.toNat % 2 ^ 31 % 2 ^ 23 = b.toNat % 2 ^ 23 := by omega
  rw [FloatFmt.magSteps, Lane.sig, Lane.lastExp, hp, hex, hfr]
  by_cases h : b.toNat / 2 ^ 23 % 256 = 0
  · have hsub : b.toNat % 2 ^ 31 = b.toNat % 2 ^ 23 := by omega
    simp only [if_pos h, hsub]
  · simp only [if_neg h]
    generalize b.toNat / 2 ^ 23 % 256 = ex at *
    rw [Nat.cast_mul, Nat.cast_pow, Nat.cast_ofNat, mul_assoc, ← zpow_natCast, ← zpow_add₀ two_ne_zero, Nat.cast_sub (by omega)]
    congr 2
    push_cast
    ring

/-- The value of a lane is that of its sign, its significand and its last place. -/
theorem realOf_eq (b : Lane) : realOf b = signedReal b.msb (Lane.sig b) (Lane.lastExp b) := by
  have hvalue := f32.value_eq f32_binary b.isLt
  rw [mul_assoc] at hvalue
  rw [realOf, signedReal, mul_assoc, ← Lane.magSteps_f32]
  simp only [Lane.msb_iff]
  exact hvalue

theorem Lane.sig_eq_zero_iff (b : Lane) : Lane.sig b = 0 ↔ b.toNat % 2 ^ 31 = 0 := by
  unfold Lane.sig
  split <;> omega

/-! ## Encodings that come back -/

/-- A finite encoding of a format whose value and sign a lane has is what the lane is rounded to. -/
theorem roundFloat_f32Num {f : FloatFmt} (hf : f.Binary) (mode : Round) {b : Lane} {n : Nat} (hb : finite b)
    (hn : n < 2 ^ (f.signBit + 1)) (hfin : n % 2 ^ f.signBit < f.infBits) (hsign : 2 ^ f.signBit ≤ n ↔ b.msb = true)
    (hval : (f.value n : ℝ) = realOf b) : roundFloat f mode (f32Num b) = n := by
  rw [f32Num_of_finite hb]
  exact roundFloat_of_value hf mode hn hfin hsign (hval.trans (realOf_eq b))

/-- So is the encoding of an infinity for a lane that is that infinity. -/
theorem roundFloat_f32Num_inf {f : FloatFmt} (mode : Round) {b : Lane} {n : Nat} (hb : b.toNat % 2 ^ 31 = 0x7F800000)
    (hn : n < 2 ^ (f.signBit + 1)) (hinf : n % 2 ^ f.signBit = f.infBits) (hsign : 2 ^ f.signBit ≤ n ↔ b.msb = true) :
    roundFloat f mode (f32Num b) = n := by
  rw [f32Num_of_inf hb, roundFloat, ← hinf]
  exact FloatFmt.withSign_mod hn hsign

/-- An F32 encoding that is no NaN comes back from its value. -/
theorem toF32_f32Num (mode : Round) {b : Lane} (h : ¬ 0x7F800000 < b.toNat % 2 ^ 31) : toF32 mode (f32Num b) = b := by
  have hround : roundFloat f32 mode (f32Num b) = b.toNat := by
    rcases (not_lt.mp h).lt_or_eq with hfin | hinf
    · exact roundFloat_f32Num f32_binary mode hfin b.isLt hfin (Lane.msb_iff b).symm rfl
    · exact roundFloat_f32Num_inf mode hinf b.isLt hinf (Lane.msb_iff b).symm
  rw [toF32, hround, BitVec.ofNat_toNat, BitVec.setWidth_eq]

/-! ### BF16 -/

theorem widenBf16_toNat {n : Nat} (h : n < 2 ^ 16) : (widenBf16 n).toNat = n * 2 ^ 16 := by
  rw [widenBf16, BitVec.toNat_ofNat, Nat.mod_eq_of_lt h, Nat.mod_eq_of_lt (by omega)]

theorem widenBf16_msb {n : Nat} (h : n < 2 ^ 16) : 2 ^ 15 ≤ n ↔ (widenBf16 n).msb = true := by
  rw [Lane.msb_iff, widenBf16_toNat h]
  omega

/-- BF16 has the exponents of F32, and 16 places less. -/
theorem magSteps_widenBf16 (a : Nat) : f32.magSteps (a * 2 ^ 16) = bf16.magSteps a * 2 ^ 16 := by
  have hp : f32.p = 23 := rfl
  have hq : bf16.p = 7 := rfl
  have hex : a * 2 ^ 16 / 2 ^ 23 = a / 2 ^ 7 := by omega
  have hfr : a * 2 ^ 16 % 2 ^ 23 = a % 2 ^ 7 * 2 ^ 16 := by omega
  rw [FloatFmt.magSteps, FloatFmt.magSteps, hp, hq, hex, hfr]
  split
  · rfl
  · rw [show 2 ^ 23 + a % 2 ^ 7 * 2 ^ 16 = (2 ^ 7 + a % 2 ^ 7) * 2 ^ 16 by omega, Nat.mul_right_comm]

theorem realOf_widenBf16 {n : Nat} (h : n < 2 ^ 16) : (bf16.value n : ℝ) = realOf (widenBf16 n) := by
  have hmag : n * 2 ^ 16 % 2 ^ 31 = n % 2 ^ 15 * 2 ^ 16 := by omega
  have hsign : 2 ^ 31 ≤ n * 2 ^ 16 ↔ 2 ^ 15 ≤ n := by omega
  have hscale : (2 : ℝ) ^ (bf16.emin - bf16.p : ℤ) = 2 ^ 16 * 2 ^ (f32.emin - f32.p : ℤ) := by
    norm_num [bf16, f32]
  have hnarrow := bf16.value_eq bf16_binary h
  have hwide := f32.value_eq f32_binary (widenBf16 n).isLt
  simp only [widenBf16_toNat h, f32_signBit, hmag, hsign, magSteps_widenBf16] at hwide
  rw [bf16_signBit] at hnarrow
  rw [realOf, widenBf16_toNat h, hwide, hnarrow, hscale]
  push_cast
  ring

theorem roundFloat_widenBf16 (mode : Round) {n : Nat} (h : n < 2 ^ 16) (hnan : ¬ 0x7F80 < n % 2 ^ 15) :
    roundFloat bf16 mode (f32Num (widenBf16 n)) = n := by
  have hmag : (widenBf16 n).toNat % 2 ^ 31 = n % 2 ^ 15 * 2 ^ 16 := by
    rw [widenBf16_toNat h]
    omega
  rcases (not_lt.mp hnan).lt_or_eq with hfin | hinf
  · exact roundFloat_f32Num bf16_binary mode (by rw [finite, hmag]; omega) h hfin (widenBf16_msb h) (realOf_widenBf16 h)
  · exact roundFloat_f32Num_inf mode (by omega) h hinf (widenBf16_msb h)

/-! ### Rounding into a lane -/

theorem roundFloat_f32_lt (mode : Round) (neg : Bool) (m : Nat) (e : Int) : roundFloat f32 mode (.fin neg m e) < 2 ^ 32 := by
  by_cases hm : m = 0
  · subst hm
    exact (f32.withSign_spec neg (by decide)).1
  · obtain ⟨-, -, -, -, -, -, hbits, -⟩ := roundFloat_roundsTo f32_binary mode neg e hm
    exact hbits

theorem toF32_toNat (mode : Round) (neg : Bool) (m : Nat) (e : Int) :
    (toF32 mode (.fin neg m e)).toNat = roundFloat f32 mode (.fin neg m e) := by
  rw [toF32, BitVec.toNat_ofNat, Nat.mod_eq_of_lt (roundFloat_f32_lt mode neg m e)]

theorem toF32_msb (mode : Round) (neg : Bool) (m : Nat) (e : Int) : (toF32 mode (.fin neg m e)).msb = neg := by
  rw [Bool.eq_iff_iff, Lane.msb_iff, toF32_toNat]
  by_cases hm : m = 0
  · subst hm
    exact (f32.withSign_spec neg (by decide)).2.1
  · obtain ⟨-, -, -, -, -, -, -, hsign, -⟩ := roundFloat_roundsTo f32_binary mode neg e hm
    exact hsign.trans (signedReal_neg_iff hm)

/-- A value of F32 is what its lane holds. -/
theorem realOf_toF32 (mode : Round) {neg : Bool} {m : Nat} {e : Int} (hrep : f32.Represents (signedReal neg m e)) :
    realOf (toF32 mode (.fin neg m e)) = signedReal neg m e ∧ finite (toF32 mode (.fin neg m e)) := by
  rw [realOf, finite, toF32_toNat]
  by_cases hm : m = 0
  · subst hm
    obtain ⟨hbits, -, hmag⟩ := f32.withSign_spec neg (a := 0) (by decide)
    rw [roundFloat_zero, signedReal_eq_zero.mpr rfl, f32.value_eq f32_binary hbits, hmag, f32.magSteps_of_lt (by positivity)]
    exact ⟨by simp, hmag.trans_lt (by decide)⟩
  · exact value_of_roundsTo f32_binary (roundFloat_roundsTo f32_binary mode neg e hm) hrep

/-! ### F16 -/

theorem f16_value_subnormal {n : Nat} (h : n < 2 ^ 16) (hex : n / 2 ^ 10 % 32 = 0) :
    (f16.value n : ℝ) = signedReal (n / 2 ^ 15 % 2 == 1) (n % 2 ^ 10) (-24) := by
  have hmag : n % 2 ^ 15 = n % 2 ^ 10 := by omega
  have hsign : 2 ^ 15 ≤ n ↔ n / 2 ^ 15 % 2 = 1 := by omega
  have hvalue := f16.value_eq f16_binary h
  have hsmall : n % 2 ^ 10 < 2 ^ f16.p := Nat.mod_lt _ (by decide)
  rw [f16_signBit, hmag, FloatFmt.magSteps_of_lt hsmall] at hvalue
  rw [hvalue]
  simp only [hsign, signedReal, beq_iff_eq]
  rfl

/-- The bits of a normal F16 encoding as a lane: the bias is 112 greater, and there are 13 places more. -/
theorem widenF16_toNat_normal {n : Nat} (hex : n / 2 ^ 10 % 32 ≠ 0) :
    (widenF16 n).toNat =
      n / 2 ^ 15 % 2 * 2 ^ 31 + ((if n / 2 ^ 10 % 32 = 31 then 255 else n / 2 ^ 10 % 32 + 112) * 2 ^ 23 + n % 2 ^ 10 * 2 ^ 13) := by
  simp only [widenF16, if_neg hex]
  split
  · rw [BitVec.toNat_ofNat]
    omega
  · rw [BitVec.toNat_ofNat]
    omega

theorem realOf_widenF16_normal {n : Nat} (h : n < 2 ^ 16) (hex : n / 2 ^ 10 % 32 ≠ 0) (hfin : n / 2 ^ 10 % 32 ≠ 31) :
    realOf (widenF16 n) = f16.value n := by
  have hbits := widenF16_toNat_normal hex
  rw [if_neg hfin] at hbits
  have hfr : n % 2 ^ 10 < 2 ^ 10 := Nat.mod_lt _ (by decide)
  have hmag : n % 2 ^ 15 = n / 2 ^ 10 % 32 * 2 ^ 10 + n % 2 ^ 10 := by omega
  have hwidemag : (widenF16 n).toNat % 2 ^ 31 = (n / 2 ^ 10 % 32 + 112) * 2 ^ 23 + n % 2 ^ 10 * 2 ^ 13 := by omega
  have hsign : 2 ^ 31 ≤ (widenF16 n).toNat ↔ 2 ^ 15 ≤ n := by omega
  have hnarrow := f16.value_eq f16_binary h
  have hwide := f32.value_eq f32_binary (widenF16 n).isLt
  rw [f16_signBit, hmag] at hnarrow
  rw [f32_signBit, hwidemag] at hwide
  generalize n / 2 ^ 10 % 32 = ex at *
  generalize n % 2 ^ 10 = fr at *
  obtain ⟨j, rfl⟩ := Nat.exists_eq_succ_of_ne_zero hex
  have hsteps := f16.magSteps_of_fields (ex := j + 1) (fr := fr) (by omega) hfr
  have hwidesteps := f32.magSteps_of_fields (ex := j + 1 + 112) (fr := fr * 2 ^ 13) (by omega) (by change _ < 2 ^ 23; omega)
  change f16.magSteps ((j + 1) * 2 ^ 10 + fr) = (2 ^ 10 + fr) * 2 ^ j at hsteps
  change f32.magSteps ((j + 1 + 112) * 2 ^ 23 + fr * 2 ^ 13) = (2 ^ 23 + fr * 2 ^ 13) * 2 ^ (j + 112) at hwidesteps
  have hscale : (2 : ℝ) ^ (f16.emin - f16.p : ℤ) = 2 ^ 13 * 2 ^ 112 * 2 ^ (f32.emin - f32.p : ℤ) := by
    norm_num [f16, f32]
  rw [realOf, hwide, hnarrow, hsteps, hwidesteps, hscale]
  simp only [hsign]
  push_cast
  ring

theorem widenF16_finite {n : Nat} (h : n < 2 ^ 16) (hfin : n % 2 ^ 15 < 0x7C00) :
    realOf (widenF16 n) = f16.value n ∧ finite (widenF16 n) ∧ (2 ^ 15 ≤ n ↔ (widenF16 n).msb = true) := by
  by_cases hex : n / 2 ^ 10 % 32 = 0
  · have hwiden : widenF16 n = toF32 .rn (.fin (n / 2 ^ 15 % 2 == 1) (n % 2 ^ 10) (-24)) := by
      simp only [widenF16, hex, if_true]
      rfl
    have hrep : f32.Represents (signedReal (n / 2 ^ 15 % 2 == 1) (n % 2 ^ 10) (-24)) :=
      ⟨n % 2 ^ 10, -1, by change _ < 2 ^ 24; omega, by decide, by decide, by rw [abs_signedReal]; rfl⟩
    rw [hwiden, f16_value_subnormal h hex, toF32_msb, beq_iff_eq]
    exact ⟨(realOf_toF32 .rn hrep).1, (realOf_toF32 .rn hrep).2, by omega⟩
  · have hbits := widenF16_toNat_normal hex
    rw [if_neg (by omega)] at hbits
    refine ⟨realOf_widenF16_normal h hex (by omega), ?_, ?_⟩
    · rw [finite, hbits]
      omega
    · rw [Lane.msb_iff, hbits]
      omega

theorem widenF16_inf {n : Nat} (h : n < 2 ^ 16) (hinf : n % 2 ^ 15 = 0x7C00) :
    (widenF16 n).toNat % 2 ^ 31 = 0x7F800000 ∧ (2 ^ 15 ≤ n ↔ (widenF16 n).msb = true) := by
  have hbits := widenF16_toNat_normal (n := n) (by omega)
  rw [if_pos (by omega)] at hbits
  rw [Lane.msb_iff, hbits]
  omega

theorem roundFloat_widenF16 (mode : Round) {n : Nat} (h : n < 2 ^ 16) (hnan : ¬ 0x7C00 < n % 2 ^ 15) :
    roundFloat f16 mode (f32Num (widenF16 n)) = n := by
  rcases (not_lt.mp hnan).lt_or_eq with hfin | hinf
  · obtain ⟨hval, hlane, hmsb⟩ := widenF16_finite h hfin
    exact roundFloat_f32Num f16_binary mode hlane h hfin hmsb hval.symm
  · obtain ⟨hlane, hmsb⟩ := widenF16_inf h hinf
    exact roundFloat_f32Num_inf mode hlane h hinf hmsb

end Sys2Proof.Machine
end

section
/-! PROOFS. Results of F32 arithmetic, integral values and readouts, rounded once (R60, R61, R141, R142, R150, R240). -/

namespace Sys2Proof.Machine

/-! ## Exact sums and products -/

/-- The sum of two magnitudes with their signs, in units of the lesser exponent. -/
def alignedSum (s1 : Bool) (m1 : Nat) (e1 : Int) (s2 : Bool) (m2 : Nat) (e2 : Int) : Int :=
  let q := alignMag m1 e1 m2 e2
  (if s1 then -(q.1 : Int) else q.1) + (if s2 then -(q.2.1 : Int) else q.2.1)

theorem addNum_fin (mode : Round) (s1 : Bool) (m1 : Nat) (e1 : Int) (s2 : Bool) (m2 : Nat) (e2 : Int) :
    addNum mode (.fin s1 m1 e1) (.fin s2 m2 e2) =
      let i := alignedSum s1 m1 e1 s2 m2 e2
      if i = 0 then (if m1 = 0 ∧ m2 = 0 ∧ s1 = s2 then some (.fin s1 0 0) else some (.fin (mode == .rd) 0 0))
      else some (.fin (decide (i < 0)) i.natAbs (min e1 e2)) := rfl

theorem signedReal_align (neg : Bool) (m : Nat) {e e' : Int} (h : e' ≤ e) :
    ((if neg then -((m * pow2 (e - e') : Nat) : Int) else (m * pow2 (e - e') : Nat) : Int) : ℝ) * 2 ^ e' = signedReal neg m e := by
  have hsplit : (2 : ℝ) ^ e = 2 ^ (e - e').toNat * 2 ^ e' := by
    rw [← zpow_natCast, ← zpow_add₀ two_ne_zero, Int.toNat_of_nonneg (by omega), sub_add_cancel]
  rw [signedReal, hsplit]
  cases neg
  · simp [pow2, mul_assoc]
  · simp [pow2, mul_assoc]

theorem alignedSum_real (s1 : Bool) (m1 : Nat) (e1 : Int) (s2 : Bool) (m2 : Nat) (e2 : Int) :
    (alignedSum s1 m1 e1 s2 m2 e2 : ℝ) * 2 ^ min e1 e2 = signedReal s1 m1 e1 + signedReal s2 m2 e2 := by
  rw [← signedReal_align s1 m1 (min_le_left e1 e2), ← signedReal_align s2 m2 (min_le_right e1 e2), ← add_mul, ← Int.cast_add]
  rfl

theorem alignedSum_eq_zero_iff {s1 : Bool} {m1 : Nat} {e1 : Int} {s2 : Bool} {m2 : Nat} {e2 : Int} :
    alignedSum s1 m1 e1 s2 m2 e2 = 0 ↔ signedReal s1 m1 e1 + signedReal s2 m2 e2 = 0 := by
  have hpos : (2 : ℝ) ^ min e1 e2 ≠ 0 := by positivity
  rw [← alignedSum_real, mul_eq_zero, or_iff_left hpos, Int.cast_eq_zero]

theorem signedReal_int (i : Int) (e : Int) : signedReal (decide (i < 0)) i.natAbs e = i * 2 ^ e := by
  rw [signedReal, Nat.cast_natAbs]
  congr 1
  rcases lt_or_ge i 0 with h | h
  · simp [h, abs_of_neg h]
  · simp [h.not_gt, abs_of_nonneg h]

section
variable (mode : Round) {s1 s2 : Bool} {m1 m2 : Nat} {e1 e2 : Int}

/-- A sum that is not zero is rounded once. -/
theorem roundsTo_addNum (h : signedReal s1 m1 e1 + signedReal s2 m2 e2 ≠ 0) :
    roundsTo f32 mode (signedReal s1 m1 e1 + signedReal s2 m2 e2) (roundOpt mode (addNum mode (.fin s1 m1 e1) (.fin s2 m2 e2))).toNat := by
  have hi : alignedSum s1 m1 e1 s2 m2 e2 ≠ 0 := mt alignedSum_eq_zero_iff.mp h
  rw [← alignedSum_real, addNum_fin, ← signedReal_int]
  simp only [if_neg hi, roundOpt]
  rw [toF32_toNat]
  exact roundFloat_roundsTo f32_binary mode _ _ (Int.natAbs_ne_zero.mpr hi)

/-- The lane of a signed zero. -/
theorem toF32_zero (neg : Bool) (e : Int) : toF32 mode (.fin neg 0 e) = if neg then 0x80000000 else 0 := by
  cases neg <;> rfl

/-- A sum of zero, but for that of two zeros of one sign, is +0, and −0 downward. -/
theorem addNum_of_cancel (h : signedReal s1 m1 e1 + signedReal s2 m2 e2 = 0) (hzeros : ¬ (m1 = 0 ∧ m2 = 0 ∧ s1 = s2)) :
    roundOpt mode (addNum mode (.fin s1 m1 e1) (.fin s2 m2 e2)) = if mode = .rd then 0x80000000 else 0 := by
  rw [addNum_fin]
  simp only [if_pos (alignedSum_eq_zero_iff.mpr h), if_neg hzeros, roundOpt, toF32_zero, beq_iff_eq]

end

theorem signedReal_mul (s1 : Bool) (m1 : Nat) (e1 : Int) (s2 : Bool) (m2 : Nat) (e2 : Int) :
    signedReal (s1 != s2) (m1 * m2) (e1 + e2) = signedReal s1 m1 e1 * signedReal s2 m2 e2 := by
  have hsplit : (2 : ℝ) ^ (e1 + e2) = 2 ^ e1 * 2 ^ e2 := zpow_add₀ two_ne_zero e1 e2
  have hsign : (if s1 != s2 then -1 else 1 : ℝ) = (if s1 then -1 else 1) * (if s2 then -1 else 1) := by
    cases s1 <;> cases s2 <;> norm_num
  rw [signedReal, signedReal, signedReal, hsplit, hsign]
  push_cast
  ring

/-! ## Lanes -/

theorem firstNan_cons_of_finite {b : Lane} (h : finite b) (l : List Lane) : firstNan (b :: l) = firstNan l := by
  have hb : isNan b = false := decide_eq_false (not_lt.mpr (le_of_lt h))
  rw [firstNan, hb]
  rfl

theorem firstNan_nil : firstNan [] = none := rfl

/-- Zeros of one sign are one lane. -/
theorem eq_of_zeros {a b : Lane} (ha : Lane.sig a = 0) (hb : Lane.sig b = 0) (h : a.msb = b.msb) : a = b := by
  rw [Lane.sig_eq_zero_iff] at ha hb
  rw [Bool.eq_iff_iff, Lane.msb_iff, Lane.msb_iff] at h
  exact BitVec.eq_of_toNat_eq (by omega)

theorem realOf_eq_zero_iff (b : Lane) : realOf b = 0 ↔ Lane.sig b = 0 := by
  rw [realOf_eq, signedReal_eq_zero]

section
variable (mode : Round) {a b c : Lane} (ha : finite a) (hb : finite b)
include ha hb

theorem fadd_of_finite : fadd mode a b =
    roundOpt mode (addNum mode (.fin a.msb (Lane.sig a) (Lane.lastExp a)) (.fin b.msb (Lane.sig b) (Lane.lastExp b))) := by
  rw [fadd, firstNan_cons_of_finite ha, firstNan_cons_of_finite hb, firstNan_nil, f32Num_of_finite ha, f32Num_of_finite hb]

theorem fsub_of_finite : fsub mode a b =
    roundOpt mode (addNum mode (.fin a.msb (Lane.sig a) (Lane.lastExp a)) (.fin (!b.msb) (Lane.sig b) (Lane.lastExp b))) := by
  rw [fsub, firstNan_cons_of_finite ha, firstNan_cons_of_finite hb, firstNan_nil, f32Num_of_finite ha, f32Num_of_finite hb]
  rfl

theorem fmul_of_finite : fmul mode a b =
    toF32 mode (.fin (a.msb != b.msb) (Lane.sig a * Lane.sig b) (Lane.lastExp a + Lane.lastExp b)) := by
  rw [fmul, firstNan_cons_of_finite ha, firstNan_cons_of_finite hb, firstNan_nil, f32Num_of_finite ha, f32Num_of_finite hb]
  rfl

theorem ffma_of_finite (hc : finite c) (sub : Bool) : ffma mode sub a b c =
    roundOpt mode (addNum mode (.fin a.msb (Lane.sig a) (Lane.lastExp a))
      (.fin (sub != (b.msb != c.msb)) (Lane.sig b * Lane.sig c) (Lane.lastExp b + Lane.lastExp c))) := by
  rw [ffma, firstNan_cons_of_finite ha, firstNan_cons_of_finite hb, firstNan_cons_of_finite hc, firstNan_nil,
    f32Num_of_finite ha, f32Num_of_finite hb, f32Num_of_finite hc]
  cases sub
  · simp [mulNum]
  · simp [mulNum, Num.flip]

theorem fadd_spec : (realOf a + realOf b ≠ 0 → roundsTo f32 mode (realOf a + realOf b) (fadd mode a b).toNat) ∧
    (realOf a + realOf b = 0 → a ≠ b → fadd mode a b = if mode = .rd then 0x80000000 else 0) := by
  rw [fadd_of_finite mode ha hb, realOf_eq, realOf_eq]
  exact ⟨roundsTo_addNum mode, fun h hne => addNum_of_cancel mode h fun ⟨h1, h2, hs⟩ => hne (eq_of_zeros h1 h2 hs)⟩

theorem fsub_spec : (realOf a - realOf b ≠ 0 → roundsTo f32 mode (realOf a - realOf b) (fsub mode a b).toNat) ∧
    (realOf a = realOf b → realOf a ≠ 0 → fsub mode a b = if mode = .rd then 0x80000000 else 0) := by
  have hsub : realOf a - realOf b =
      signedReal a.msb (Lane.sig a) (Lane.lastExp a) + signedReal (!b.msb) (Lane.sig b) (Lane.lastExp b) := by
    rw [signedReal_not, ← realOf_eq, ← realOf_eq, sub_eq_add_neg]
  rw [fsub_of_finite mode ha hb, hsub]
  refine ⟨roundsTo_addNum mode, fun h hne => addNum_of_cancel mode ?_ fun hz => hne ((realOf_eq_zero_iff a).mpr hz.1)⟩
  rw [← hsub, h, sub_self]

theorem fmul_spec : (realOf a * realOf b ≠ 0 → roundsTo f32 mode (realOf a * realOf b) (fmul mode a b).toNat) ∧
    (realOf a * realOf b = 0 → fmul mode a b = if a.msb = b.msb then 0 else 0x80000000) := by
  rw [fmul_of_finite mode ha hb, realOf_eq, realOf_eq, ← signedReal_mul, Ne, signedReal_eq_zero, toF32_toNat]
  refine ⟨roundFloat_roundsTo f32_binary mode _ _, fun h => ?_⟩
  rw [h, toF32_zero]
  cases a.msb <;> cases b.msb <;> rfl

theorem ffma_spec (hc : finite c) :
    (realOf a + realOf b * realOf c ≠ 0 → roundsTo f32 mode (realOf a + realOf b * realOf c) (ffma mode false a b c).toNat) ∧
    (realOf a - realOf b * realOf c ≠ 0 → roundsTo f32 mode (realOf a - realOf b * realOf c) (ffma mode true a b c).toNat) := by
  rw [ffma_of_finite mode ha hb hc, ffma_of_finite mode ha hb hc, sub_eq_add_neg, realOf_eq, realOf_eq, realOf_eq, ← signedReal_mul,
    ← signedReal_not, Bool.false_bne, Bool.true_bne]
  exact ⟨roundsTo_addNum mode, roundsTo_addNum mode⟩

end

/-! ## Integral values -/

/-- The integer that a mode makes of a finite lane's magnitude. -/
def Lane.wholeSteps (mode : Round) (b : Lane) : Nat := roundSteps mode b.msb (Lane.sig b) (Lane.lastExp b) 0

theorem wholeSteps_picks (mode : Round) (b : Lane) : picks mode b.msb |realOf b| 1 (Lane.wholeSteps mode b) := by
  have hpick := roundSteps_picks mode b.msb (Lane.sig b) (Lane.lastExp b) 0
  rwa [zpow_zero, ← abs_signedReal b.msb, ← realOf_eq] at hpick

/-- An integer made of a lane's magnitude is a value of F32. -/
theorem represents_wholeSteps (mode : Round) {b : Lane} (hb : finite b) : f32.Represents (signedReal b.msb (Lane.wholeSteps mode b) 0) := by
  have hsig := Lane.sig_lt b
  obtain ⟨-, hexp⟩ := Lane.lastExp_le hb
  unfold FloatFmt.Represents
  rw [abs_signedReal]
  change ∃ (n : Nat) (ex : Int), n < 2 ^ 24 ∧ -126 ≤ ex ∧ ex ≤ 127 ∧ _ = (n : ℝ) * 2 ^ (ex - 23)
  rcases le_or_gt 0 (Lane.lastExp b) with h | h
  · refine ⟨Lane.sig b, Lane.lastExp b + 23, hsig, by omega, by omega, ?_⟩
    rw [Lane.wholeSteps, roundSteps_of_le _ _ _ h, Nat.cast_mul, Nat.cast_pow, Nat.cast_ofNat, ← zpow_natCast, sub_zero,
      Int.toNat_of_nonneg h, zpow_zero, mul_one, add_sub_cancel_right]
  · refine ⟨Lane.wholeSteps mode b, 23, ?_, by omega, by omega, by rw [sub_self]⟩
    obtain ⟨k, hk⟩ : ∃ k : Nat, (0 - Lane.lastExp b).toNat = k + 1 := ⟨(0 - Lane.lastExp b).toNat - 1, by omega⟩
    have hhalf : Lane.sig b / 2 ^ (k + 1) ≤ Lane.sig b / 2 := Nat.div_le_div_left (Nat.le_self_pow (by omega) 2) (by omega)
    rw [Lane.wholeSteps, roundSteps_of_lt _ _ _ h hk]
    rcases neighbour_eq_or mode b.msb (Lane.sig b / 2 ^ (k + 1)) (Lane.sig b % 2 ^ (k + 1)) (k + 1) with h' | h' <;> omega

theorem frnd_spec (mode : Round) {b : Lane} (hb : finite b) : ∃ n, picks mode b.msb |realOf b| 1 n ∧ finite (frnd mode b) ∧
    |realOf (frnd mode b)| = n ∧ (frnd mode b).msb = b.msb := by
  have hfrnd : frnd mode b = toF32 .rn (.fin b.msb (Lane.wholeSteps mode b) 0) := by
    rw [frnd, f32Num_of_finite hb]
    rfl
  obtain ⟨hval, hfin⟩ := realOf_toF32 .rn (represents_wholeSteps mode hb)
  rw [hfrnd]
  exact ⟨_, wholeSteps_picks mode b, hfin, by rw [hval, abs_signedReal, zpow_zero, mul_one], toF32_msb _ _ _ _⟩

theorem convertToInt_of_finite (mode : Round) {b : Lane} (hb : finite b) (lo hi : Int) : convertToInt lo hi mode (f32Num b) =
    max lo (min hi (if b.msb then -(Lane.wholeSteps mode b : Int) else Lane.wholeSteps mode b)) := by
  rw [f32Num_of_finite hb]
  rfl

/-! ## Readout -/

/-- The number that a readout takes an element of acc for (R240). -/
noncomputable def Matrix.readReal (m : Matrix) (b : Lane) : ℝ := if m.empty then 0 else if m.aclsInt then (b.toInt : ℝ) else realOf b

theorem roundFloat_readNum {f : FloatFmt} (hf : f.Binary) (m : Matrix) (mode : Round) {b : Lane} (hb : finite b) (h : m.readReal b ≠ 0) :
    roundsTo f mode (m.readReal b) (roundFloat f mode (m.readNum b)) := by
  unfold Matrix.readReal at h
  rw [Matrix.readReal, Matrix.readNum]
  split at h
  · exact absurd rfl h
  · next hempty =>
    rw [if_neg hempty, if_neg hempty]
    split at h
    · next hint =>
      have hi : b.toInt.natAbs ≠ 0 := Int.natAbs_ne_zero.mpr (by exact_mod_cast h)
      have hround := roundFloat_roundsTo hf mode (decide (b.toInt < 0)) 0 hi
      rw [signedReal_int, zpow_zero, mul_one] at hround
      rw [if_pos hint, if_pos hint]
      exact hround
    · next hint =>
      rw [if_neg hint, if_neg hint, f32Num_of_finite hb, realOf_eq]
      exact roundFloat_roundsTo hf mode _ _ (mt (realOf_eq_zero_iff b).mpr h)

/-- An integer's bits in an integer class format, clamped to its range. -/
def clampedBits (fmt : Nat) (i : Int) : Nat :=
  (BitVec.ofInt (8 * elemWidth fmt) (max (intRange fmt).1 (min (intRange fmt).2 i))).toNat

section
variable {fmt : Nat} (hfmt : fmt = 5 ∨ fmt = 6 ∨ fmt = 7) (m : Matrix) (t : List (BitVec 19)) (mode : Round) (b : Lane)
include hfmt

theorem intClass_of : intClass fmt = true := by
  obtain rfl | rfl | rfl := hfmt <;> rfl

theorem clampedBits_eq (i : Int) : clampedBits fmt i =
    let range := if fmt = 6 then (-128, 127) else if fmt = 7 then (0, 255) else ((-2 ^ 31 : Int), (2 ^ 31 - 1 : Int))
    (BitVec.ofInt (if fmt = 5 then 32 else 8) (max range.1 (min range.2 i))).toNat := by
  obtain rfl | rfl | rfl := hfmt <;> rfl

theorem readElem_of_integer_acc (hempty : m.empty = false) (hint : m.aclsInt = true) :
    m.readElem t fmt mode b = clampedBits fmt b.toInt := by
  simp only [Matrix.readElem, intClass_of hfmt, hint, hempty]
  rfl

theorem readElem_of_float_acc {b : Lane} (hb : finite b) (hempty : m.empty = false) (hint : m.aclsInt = false) :
    m.readElem t fmt mode b = clampedBits fmt (if b.msb then -(Lane.wholeSteps (if mode = .dflt then .rz else mode) b : Int)
      else Lane.wholeSteps (if mode = .dflt then .rz else mode) b) := by
  have hnum : m.readNum b = f32Num b := by simp [Matrix.readNum, hempty, hint]
  simp only [Matrix.readElem, intClass_of hfmt, hint, hnum, convertToInt_of_finite _ hb]
  rfl

end

/-- An accumulator that is empty reads as zero in every format but T8 and T8B, whose encodings of zero the table gives. -/
theorem readElem_of_empty {fmt : Nat} (hfmt : fmt < 3 ∨ fmt = 5 ∨ fmt = 6 ∨ fmt = 7) {m : Matrix} (hempty : m.empty = true)
    (t : List (BitVec 19)) (mode : Round) (b : Lane) : m.readElem t fmt mode b = 0 := by
  have hnum : m.readNum b = .fin false 0 0 := if_pos hempty
  rcases hfmt with hfloat | hint
  · have hclass : fmt = 0 ∨ fmt = 1 ∨ fmt = 2 := by omega
    simp only [Matrix.readElem, hnum]
    obtain rfl | rfl | rfl := hclass <;> rfl
  · simp only [Matrix.readElem, intClass_of hint, hnum, hempty, Bool.not_true, Bool.and_false]
    obtain rfl | rfl | rfl := hint <;> rfl

end Sys2Proof.Machine
end

section
/-! PROOFS. What rounding gives (R56, R60, R61, R142, R150, R240): the statement, from the facts about each function. -/

namespace Sys2Proof.Machine

/-- The two neighbours by mode, for a magnitude strictly between them. -/
theorem roundSteps_between (neg : Bool) {m c : Nat} (hc : 0 < c) (hm : m % 2 ^ c ≠ 0) :
    let lo := m / 2 ^ c
    let r := m % 2 ^ c
    let steps := fun mode => roundSteps mode neg m 0 c
    steps .rz = lo ∧ steps .ru = (if neg then lo else lo + 1) ∧ steps .rd = (if neg then lo + 1 else lo) ∧
      (steps .ro % 2 = 1 ∧ lo ≤ steps .ro ∧ steps .ro ≤ lo + 1) ∧
      (2 * r < 2 ^ c → steps .rn = lo) ∧ (2 ^ c < 2 * r → steps .rn = lo + 1) ∧
      (2 * r = 2 ^ c → steps .rn % 2 = 0 ∧ lo ≤ steps .rn ∧ steps .rn ≤ lo + 1) ∧ steps .dflt = steps .rn := by
  intro lo r steps
  have hsteps (mode : Round) : steps mode = neighbour mode neg lo r c := roundSteps_zero_natCast mode neg m hc
  have hbetween (mode : Round) : lo ≤ neighbour mode neg lo r c ∧ neighbour mode neg lo r c ≤ lo + 1 := by
    rcases neighbour_eq_or mode neg lo r c with h | h <;> omega
  obtain ⟨hlow, hhigh, hmid⟩ := neighbour_rn (n := lo) (k := c) hm neg
  simp only [hsteps]
  exact ⟨neighbour_rz neg lo r c, neighbour_ru hm neg, neighbour_rd hm neg, ⟨neighbour_ro_odd hm neg, hbetween .ro⟩, hlow, hhigh,
    fun h => ⟨hmid h, hbetween .rn⟩, neighbour_dflt neg lo r c⟩

end Sys2Proof.Machine

open Sys2Proof.Machine in
/-- Settles O26: every clause goes back to the steps that roundSteps picks. RoundFloat encodes those at the value's exponent, a value of the
format being whole steps there; a sum or a product is formed exactly first; integral values and integers take steps of 1. -/
theorem roundingOfValues : Obligations.RoundingOfValues := by
  unfold Obligations.RoundingOfValues
  refine ⟨⟨fun mode b h => toF32_f32Num mode h, fun mode n h hnan => roundFloat_widenBf16 mode h hnan,
    fun mode n h hnan => roundFloat_widenF16 mode h hnan⟩, fun neg m c hc hm => roundSteps_between neg hc hm,
    fun f mode neg m e hf hm => roundFloat_roundsTo (FloatFmt.binary_of_mem hf) mode neg e hm, ?_, ?_⟩
  · intro mode a b c ha hb hc
    obtain ⟨hadd, hadd0⟩ := fadd_spec mode ha hb
    obtain ⟨hsub, hsub0⟩ := fsub_spec mode ha hb
    obtain ⟨hmul, hmul0⟩ := fmul_spec mode ha hb
    obtain ⟨hfma, hfms⟩ := ffma_spec mode ha hb hc
    exact ⟨hadd, hadd0, hsub, hsub0, hmul, hmul0, hfma, hfms, frnd_spec mode ha,
      fun lo hi => ⟨_, wholeSteps_picks mode a, convertToInt_of_finite mode ha lo hi⟩⟩
  · intro m t fmt mode b hb
    refine ⟨fun hv => ⟨?_, ?_, ?_⟩, ?_, ?_⟩
    · rintro rfl
      exact roundFloat_readNum f32_binary m mode hb hv
    · rintro rfl
      exact roundFloat_readNum bf16_binary m mode hb hv
    · rintro rfl
      exact roundFloat_readNum f16_binary m mode hb hv
    · exact fun hempty hfmt => readElem_of_empty hfmt hempty t mode b
    · intro hfmt hempty
      refine ⟨fun hint => ?_, fun hint => ⟨Lane.wholeSteps (if mode = .dflt then .rz else mode) b, ?_, ?_⟩⟩
      · exact (readElem_of_integer_acc hfmt m t mode b hempty hint).trans (clampedBits_eq hfmt _)
      · rw [hempty, hint]
        exact wholeSteps_picks _ b
      · exact (readElem_of_float_acc hfmt m t mode hb hempty hint).trans (clampedBits_eq hfmt _)
end

section
/-! PROOFS. The arithmetic of page 0 (R81 to R85): what each function of the operands' bits is as an integer or as bits of the result. -/

namespace Sys2Proof.Machine

/-! ## Multiplication and division (R82) -/

theorem mul_eq_ofInt (x y : Word) : x * y = BitVec.ofInt 64 (x.toInt * y.toInt) := by
  rw [BitVec.ofInt_mul, BitVec.ofInt_toInt, BitVec.ofInt_toInt]

/-- The high half of a product of 128 bits is the product's quotient by 2^64. -/
theorem multiplyHigh_eq_extract (x y : Word) :
    multiplyHigh x y = (BitVec.ofInt 128 (x.toInt * y.toInt)).extractLsb' 64 64 := by
  rw [multiplyHigh]
  generalize x.toInt * y.toInt = z
  apply BitVec.eq_of_toNat_eq
  simp only [BitVec.toNat_ofInt, BitVec.extractLsb'_toNat, Nat.shiftRight_eq_div_pow]
  omega

theorem divide_zero (x : Word) : divide x 0 = BitVec.allOnes 64 := by
  simp [divide]

theorem remainder_zero (x : Word) : remainder x 0 = x := by
  simp [remainder]

theorem divide_eq_sdiv (x : Word) {y : Word} (hy : y ≠ 0) : divide x y = x.sdiv y := by
  rw [divide, if_neg hy]
  apply BitVec.eq_of_toInt_eq
  rw [BitVec.toInt_ofInt, BitVec.toInt_sdiv]

theorem remainder_eq_srem (x y : Word) : remainder x y = x.srem y := by
  rw [remainder]
  split
  case isTrue hy => simp [hy]
  case isFalse => rw [← BitVec.toInt_srem .., BitVec.ofInt_toInt]

/-- The one quotient that 64 bits do not hold. -/
theorem divide_overflow {x y : Word} (hx : x.toInt = -2 ^ 63) (hy : y.toInt = -1) : divide x y = x ∧ remainder x y = 0 := by
  have ex : x = BitVec.ofInt 64 (-2 ^ 63) := by rw [← hx, BitVec.ofInt_toInt]
  have ey : y = BitVec.ofInt 64 (-1) := by rw [← hy, BitVec.ofInt_toInt]
  subst ex ey
  decide

theorem sdiv_toInt {x y : Word} (h : ¬ (x.toInt = -2 ^ 63 ∧ y.toInt = -1)) :
    (x.sdiv y).toInt = x.toInt.tdiv y.toInt := by
  refine BitVec.toInt_sdiv_of_ne_or_ne x y (not_and_or.mp fun ⟨hx, hy⟩ => h ⟨?_, ?_⟩)
  · rw [hx]; decide
  · rw [hy]; decide

/-- The remainder of a truncated quotient is smaller than the divisor and has the sign of the dividend. -/
theorem tmod_bounds (a : Int) {b : Int} (hb : b ≠ 0) :
    (a.tmod b).natAbs < b.natAbs ∧ (0 ≤ a → 0 ≤ a.tmod b) ∧ (a ≤ 0 → a.tmod b ≤ 0) := by
  refine ⟨?_, fun h => Int.tmod_nonneg b h, fun h => ?_⟩
  · rw [Int.natAbs_tmod]
    exact Nat.mod_lt _ (Int.natAbs_pos.mpr hb)
  · have hneg := Int.tmod_nonneg b (a := -a) (by omega)
    rw [Int.neg_tmod] at hneg
    omega

/-! ## Immediate and unary forms (R83 to R85) -/

/-- The model's rotation is that of bit vectors, for every amount of six bits. -/
theorem rotateRight_eq {m : Nat} (x : Word) (h : m < 64) : rotateRight x m = x.rotateRight m := by
  rw [rotateRight, BitVec.rotateRight_def, Nat.mod_eq_of_lt h]
  obtain rfl | hm := Nat.eq_zero_or_pos m
  · simp
  · rw [Nat.mod_eq_of_lt (by omega)]

theorem shiftImm_lt (p : Pfx) (i : BitVec 5) : shiftImm p i < 64 := by
  unfold shiftImm
  omega

theorem zero_sub_eq_ofInt (x : Word) : 0 - x = BitVec.ofInt 64 (-x.toInt) := by
  rw [BitVec.ofInt_neg, BitVec.ofInt_toInt]
  exact BitVec.zero_sub x

theorem abs_eq_ofNat (x : Word) : (if x.msb then 0 - x else x) = BitVec.ofNat 64 x.toInt.natAbs := by
  rw [← BitVec.ofInt_natCast]
  by_cases h : x.toInt < 0
  · rw [if_pos (BitVec.msb_eq_toInt.trans (decide_eq_true h)), zero_sub_eq_ofInt, Int.ofNat_natAbs_of_nonpos (by omega)]
  · rw [BitVec.msb_eq_toInt, if_neg (by simpa using h), Int.natAbs_of_nonneg (by omega), BitVec.ofInt_toInt]

theorem signExtend_low (x : Word) {w : Nat} (h : w ≤ 64) : (x.extractLsb' 0 w).signExtend 64 = (x.setWidth w).signExtend 64 := by
  rw [BitVec.setWidth_eq_extractLsb' h]

theorem zeroExtend_low (x : Word) (w : Nat) :
    (x.extractLsb' 0 w).zeroExtend 64 = BitVec.ofNat 64 (x.toNat % 2 ^ w) := by
  apply BitVec.eq_of_toNat_eq
  simp

theorem popCount_eq_countP (x : Word) (n : Nat) : popCount x n = (List.range n).countP (fun j => x.getLsbD j) := by
  induction n with
  | zero => rfl
  | succ n ih => simp [popCount, ih, List.range_succ, bit, Nat.add_comm]

theorem getLsbD_reverseBits (x : Word) {j : Nat} (h : j < 64) :
    (BitVec.ofNat 64 (reverseBits x 64)).getLsbD j = x.getLsbD (63 - j) := by
  rw [BitVec.getLsbD_ofNat, reverseBits_testBit x 64 j le_rfl h]
  simp [h]

/-! ## What an element leaves, by the value of its result -/

theorem alu_gives {p : Pfx} {d a : BitVec 5} {s : State} {f : Word → Word → Word} {k n : Nat} {w : Word}
    (h : s.onElement p 32 d 32 a k n) (hw : f (s.s (p.field1 k d)) (s.s (p.field2 k a)) = w) :
    alu p d a s f = .next ((s.setS (p.field1 k d) w).pastElement p false k n) :=
  hw ▸ alu_done p d a s f k n h

theorem mulDiv_gives {p : Pfx} {d a : BitVec 5} {s : State} {f : Word → Word → Word} {k n : Nat} {w : Word}
    (h : s.onElement p 32 d 32 a k n) (hw : f (s.s (p.field1 k d)) (s.s (p.field2 k a)) = w) :
    mulDiv p d a s f = .next ((s.pend (.s (p.field1 k d) w)).pastElement p false k n) :=
  hw ▸ mulDiv_done p d a s f k n h

theorem unary_gives {p : Pfx} {d : BitVec 5} {s : State} {f : Word → Word} {k n : Nat} {w : Word}
    (h : s.onElement p 32 d 32 0 k n) (hw : f (s.s (p.field1 k d)) = w) :
    unary p d s f = .next ((s.setS (p.field1 k d) w).pastElement p false k n) :=
  hw ▸ unary_done p d s f k n h

end Sys2Proof.Machine

open Sys2Proof Sys2Proof.Machine in
/-- Settles O1: each operation is one of the shapes alu and mulDiv at a function of two words; what that function gives is said by the facts above,
division by those of bit vectors' own truncated division. -/
theorem scalarTwoRegister : Obligations.ScalarTwoRegister := by
  unfold Obligations.ScalarTwoRegister
  refine ⟨fun p d a s k n h => ?_, fun p d a s k n h => ?_⟩ <;> intro x y gives
  · exact ⟨
      (alu_gives h rfl : execMv .. = _), (alu_gives h rfl : execAdd .. = _), (alu_gives h rfl : execSub .. = _),
      (alu_gives h rfl : execAnd .. = _), (alu_gives h rfl : execOr .. = _), (alu_gives h rfl : execXor .. = _),
      (alu_gives h (shiftLeft_eq_ofNat ..) : execShl .. = _), (alu_gives h (shiftRight_eq_ofNat ..) : execShr .. = _),
      (alu_gives h (sshiftRight_eq_ofInt ..) : execSra .. = _)⟩
  · have hdiv {w : Word} (hw : divide x y = w) : exec (.div p d a) s = gives w := (mulDiv_gives h hw : execDiv .. = _)
    have hrem {w : Word} (hw : remainder x y = w) : exec (.rem p d a) s = gives w := (mulDiv_gives h hw : execRem .. = _)
    refine ⟨(mulDiv_gives h (mul_eq_ofInt ..) : execMul .. = _), (mulDiv_gives h (multiplyHigh_eq_extract ..) : execMulh .. = _), ?_, ?_, ?_⟩
    · intro hy
      exact ⟨hdiv (by rw [hy, divide_zero]), hrem (by rw [hy, remainder_zero])⟩
    · intro hx hy
      obtain ⟨hq, hr⟩ := divide_overflow hx hy
      exact ⟨hdiv hq, hrem hr⟩
    · intro hy hov
      obtain ⟨hlt, hpos, hneg⟩ := tmod_bounds x.toInt (b := y.toInt) (BitVec.toInt_ne.mpr hy)
      exact ⟨_, _, (Int.mul_tdiv_add_tmod _ _).symm, hlt, hpos, hneg, ⟨_, sdiv_toInt hov, hdiv (divide_eq_sdiv x hy)⟩,
        ⟨_, BitVec.toInt_srem .., hrem (remainder_eq_srem x y)⟩⟩

open Sys2Proof Sys2Proof.Machine in
/-- Settles O2: each form but setc is the shape unary at a function of one word, which the facts above give as R83 to R85 say it. -/
theorem scalarInPlace : Obligations.ScalarInPlace := by
  unfold Obligations.ScalarInPlace
  refine ⟨fun p d i c s k n h => ?_, fun p d s k n h => ?_⟩ <;> intro x gives
  · exact ⟨
      (unary_gives h rfl : execAddi .. = _), (unary_gives h rfl : execLi .. = _),
      (unary_gives h (shiftLeft_eq_ofNat ..) : execShli .. = _), (unary_gives h (shiftRight_eq_ofNat ..) : execShri .. = _),
      (unary_gives h (sshiftRight_eq_ofInt ..) : execSrai .. = _),
      (unary_gives h (rotateRight_eq _ (shiftImm_lt p i)) : execRori .. = _),
      (unary_gives h rfl : execNot .. = _), (unary_gives h (zero_sub_eq_ofInt _) : execNeg .. = _),
      (unary_gives h (abs_eq_ofNat _) : execAbs .. = _),
      (unary_gives h (signExtend_low _ (by decide)) : execSextB .. = _),
      (unary_gives h (signExtend_low _ (by decide)) : execSextH .. = _),
      (unary_gives h (signExtend_low _ (by decide)) : execSextW .. = _),
      (unary_gives h (zeroExtend_low ..) : execZextB .. = _), (unary_gives h (zeroExtend_low ..) : execZextH .. = _),
      (unary_gives h (zeroExtend_low ..) : execZextW .. = _),
      (runRep_done p false 32 d 32 0 s _ k n h _ rfl : execSetc .. = _)⟩
  · obtain ⟨hclz, hclzClear, hclzSet⟩ := leadingZeros_spec x 64
    obtain ⟨hctz, hctzClear, hctzSet⟩ := trailingZeros_spec x 0 64
    simp only [Nat.zero_add] at hctzClear hctzSet
    exact ⟨⟨_, hclz, hclzClear, hclzSet, (unary_gives h rfl : execClz .. = _)⟩,
      ⟨_, hctz, hctzClear, hctzSet, (unary_gives h rfl : execCtz .. = _)⟩,
      (unary_gives h (by rw [popCount_eq_countP]) : execPopc .. = _),
      ⟨_, fun j hj => getLsbD_reverseBits x hj, (unary_gives h rfl : execBrev .. = _)⟩⟩
end

section
/-! PROOFS. The flags of a comparison, read through the conditions (R77, R78). -/

namespace Sys2Proof.Machine

/-! ## Equality and the two orders (R77) -/

/-- The difference is negative, or overflows to a positive word, exactly where the first operand is below the second. -/
theorem compareFlags_less (x y : Word) :
    ((compareFlags x y).n != (compareFlags x y).v) = decide (x.toInt < y.toInt) := by
  have hx := x.toInt_lt
  have hx' := x.le_toInt
  have hy := y.toInt_lt
  have hy' := y.le_toInt
  have hn : (compareFlags x y).n = decide ((x.toInt - y.toInt).bmod (2 ^ 64) < 0) := by
    rw [← BitVec.toInt_sub]
    exact BitVec.msb_eq_toInt (x := x - y)
  have hv : (compareFlags x y).v = decide (x.toInt - y.toInt < -(2 ^ 63) ∨ 2 ^ 63 - 1 < x.toInt - y.toInt) :=
    (Bool.decide_or ..).symm
  rw [hn, hv, Bool.eq_iff_iff]
  simp only [bne_iff_ne, ne_eq, decide_eq_decide, decide_eq_true_iff, Int.bmod]
  omega

theorem holds_eq (x y : Word) : (compareFlags x y).holds .eq = true ↔ x = y := by
  simp [Flags.holds, compareFlags]

theorem holds_lt (x y : Word) : (compareFlags x y).holds .lt = true ↔ x.toInt < y.toInt := by
  rw [Flags.holds, compareFlags_less, decide_eq_true_iff]

theorem holds_hs (x y : Word) : (compareFlags x y).holds .hs = true ↔ y.toNat ≤ x.toNat := by
  simp [Flags.holds, compareFlags]

/-! ## Conditions made of other conditions (R78) -/

theorem Flags.holds_ne (f : Flags) : f.holds .ne = true ↔ ¬ f.holds .eq = true := by
  simp [Flags.holds]

theorem Flags.holds_ge (f : Flags) : f.holds .ge = true ↔ ¬ f.holds .lt = true := by
  simp [Flags.holds]

theorem Flags.holds_le (f : Flags) : f.holds .le = true ↔ f.holds .eq = true ∨ f.holds .lt = true := by
  simp [Flags.holds]

theorem Flags.holds_gt (f : Flags) : f.holds .gt = true ↔ ¬ f.holds .eq = true ∧ ¬ f.holds .lt = true := by
  simp [Flags.holds]

theorem Flags.holds_lo (f : Flags) : f.holds .lo = true ↔ ¬ f.holds .hs = true := by
  simp [Flags.holds]

theorem Flags.holds_ls (f : Flags) : f.holds .ls = true ↔ ¬ f.holds .hs = true ∨ f.holds .eq = true := by
  simp [Flags.holds]

theorem Flags.holds_hi (f : Flags) : f.holds .hi = true ↔ f.holds .hs = true ∧ ¬ f.holds .eq = true := by
  simp [Flags.holds]

end Sys2Proof.Machine

open Sys2Proof Sys2Proof.Machine in
/-- Settles O3: the flags tell equality and the two orders; the other conditions are made of these three. -/
theorem compareConditions : Obligations.CompareConditions := by
  unfold Obligations.CompareConditions
  intro p d a i s k n x y hx
  have hint : x = y ↔ x.toInt = y.toInt := BitVec.toInt_inj.symm
  have hnat : x = y ↔ x.toNat = y.toNat := BitVec.toNat_inj.symm
  refine ⟨compareFlags x y, fun h hy => ?_, fun h hy => ?_, holds_eq x y, ?_, holds_lt x y, ?_, ?_, ?_, ?_, holds_hs x y, ?_, ?_⟩
  · rw [hx, hy]
    exact (runRep_done p false 32 d 32 a s _ k n h _ rfl : execCmp .. = _)
  · rw [hx, hy]
    exact (runRep_done p false 32 d 32 0 s _ k n h _ rfl : execCmpi .. = _)
  · rw [Flags.holds_ne, holds_eq]
  · rw [Flags.holds_ge, holds_lt]
    omega
  · rw [Flags.holds_le, holds_eq, holds_lt, hint]
    omega
  · rw [Flags.holds_gt, holds_eq, holds_lt, hint]
    omega
  · rw [Flags.holds_lo, holds_hs]
    omega
  · rw [Flags.holds_ls, holds_eq, holds_hs, hnat]
    omega
  · rw [Flags.holds_hi, holds_eq, holds_hs, hnat]
    omega
end

section
/-! PROOFS. Branches (R86): the five of them as one. -/

namespace Sys2Proof.Machine

/-- The state in which a taken branch ends. -/
def State.branched (s : State) (p : Pfx) (off : BitVec 10) : State :=
  let target := (((portable s.reg.pcc.addr + p.chainBytes false : Nat) : Int) + 2 * p.immJ off).toNat
  let dest := s.reg.pcc.withAddr (BitVec.ofNat 64 (sectionBase s.reg.pcc.addr + target))
  (s.setReg { s.reg with pcc := dest, loops := leaveLoops s.reg.loops s.reg.pcc.addr dest.addr }).moved p

theorem branch_ends {p : Pfx} {off : BitVec 10} {s : State} (taken : State → Bool) (h : s.free p) :
    run p false s (fun s => branch p off s (taken s)) =
      .next (if taken s = true ∧ p.immJ off ≠ 0 then s.branched p off else s.past p false) := by
  rw [run_free p false s _ h, branch]
  cases taken s with
  | false => simp
  | true =>
    by_cases hj : p.immJ off = 0
    · simp [hj]
    · simp [hj, State.branched, RegSet.toOffset]

end Sys2Proof.Machine

open Sys2Proof Sys2Proof.Machine in
/-- Settles O4: the five branches are one branch at five conditions. -/
theorem branches : Obligations.Branches := by
  unfold Obligations.Branches
  intro p off s hf chain target dest away ends
  exact ⟨(branch_ends (fun _ => true) hf : execB .. = _), (branch_ends (fun s => s.reg.flags.holds .eq) hf : execBeq .. = _),
    (branch_ends (fun s => s.reg.flags.holds .ne) hf : execBne .. = _),
    (branch_ends (fun s => s.reg.flags.holds .lt) hf : execBlt .. = _),
    (branch_ends (fun s => s.reg.flags.holds .ge) hf : execBge .. = _)⟩
end

section
/-! PROOFS. Calls and jumps (R87): the checks of a target in order, and the transfer. -/

namespace Sys2Proof.Machine

/-- The first check that a target fails, in R87's order, by the fields of the capability. -/
theorem callFault_eq (s : State) (t : Cap) : s.callFault t =
    if t.tag = false then some Code.capTag
    else if t.otype ≠ 0 then some Code.capSeal
    else if t.perms.getLsbD 2 = false then some Code.capPerm
    else if t.addr < t.base ∨ t.top < t.addr + 2 then some Code.capBound
    else if t.addr % 2 = 1 then some Code.memAlign
    else if s.isChainStart t.addr = false then some Code.cslTarget
    else none := by
  have hbound : t.within t.addr 2 = false ↔ t.addr < t.base ∨ t.top < t.addr + 2 := by
    simp only [Cap.within, Bool.and_eq_false_iff, decide_eq_false_iff_not, Nat.not_le]
  simp [State.callFault, State.targetFault, Cap.sealed, Cap.has, permEX, hbound]

theorem transfer_of_fault {p : Pfx} {d a : BitVec 4} {s : State} {code : BitVec 16} (hf : s.free p)
    (h : s.callFault (s.c a) = some code) : run p false s (transfer p d a) = .next (s.raise code (s.c a).addrW) := by
  rw [run_free p false s _ hf]
  simp [transfer, h]

/-- The link of a call: the chain after it, under PCC's tag, bounds and permissions. -/
def State.link (s : State) (p : Pfx) : Cap := s.reg.pcc.withAddr (BitVec.ofNat 64 (s.reg.pcc.addr + p.chainBytes false))

theorem transfer_of_pass {p : Pfx} {d a : BitVec 4} {s : State} (hf : s.free p) (h : s.callFault (s.c a) = none) :
    run p false s (transfer p d a) = .next ((s.setReg { s.reg.setC d (s.link p) with
      pcc := s.c a
      loops := if d = 0 then leaveLoops s.reg.loops s.reg.pcc.addr (s.c a).addr else s.reg.loops }).moved p) := by
  rw [run_free p false s _ hf]
  simp [transfer, h, State.link]

/-- A jump is a transfer whose link goes to c0, which discards it. -/
theorem jump_of_pass {p : Pfx} {a : BitVec 4} {s : State} (hf : s.free p) (h : s.callFault (s.c a) = none) :
    execJmp p a s = .next ((s.setReg { s.reg with
      pcc := s.c a, loops := leaveLoops s.reg.loops s.reg.pcc.addr (s.c a).addr }).moved p) := by
  have hlink : s.reg.setC 0 (s.link p) = s.reg := RegSet.setC_zero ..
  rw [execJmp, transfer_of_pass hf h, if_pos rfl, hlink]

end Sys2Proof.Machine

open Sys2Proof Sys2Proof.Machine in
/-- Settles O5: call and jmp are one transfer, whose checks are told by the fields of the target; jmp links to c0. -/
theorem callsAndJumps : Obligations.CallsAndJumps := by
  unfold Obligations.CallsAndJumps
  intro p d a s hf t link left fails
  have hfails {code : BitVec 16} (h : s.callFault t = some code) : fails code :=
    ⟨(transfer_of_fault hf h : execCall .. = _), (transfer_of_fault hf h : execJmp .. = _)⟩
  have hchecks := callFault_eq s t
  generalize hloops : (if d = 0 then left else s.reg.loops) = loops
  split_ifs at hchecks ⊢
  iterate 6 exact hfails hchecks
  · subst loops
    exact ⟨jump_of_pass hf hchecks, (transfer_of_pass hf hchecks : execCall .. = _)⟩
end

section
/-! PROOFS. Loops (R88, R89): the loop-end step, what a taken exit pops, and loop. -/

namespace Sys2Proof.Machine

/-- A loop end pops the entries that are exhausted there, and counts down the first that is not. -/
theorem loopEnd_spec (es : List LoopEntry) (a : Nat) : ∃ popped rest : List LoopEntry,
    es = popped ++ rest ∧ (∀ e ∈ popped, e.stop = a ∧ e.count = 1) ∧
      ((∃ e rest', rest = e :: rest' ∧ e.stop = a ∧ e.count ≠ 1 ∧
          loopEnd es a = (some e.start, { e with count := e.count - 1 } :: rest')) ∨
        ((∀ e, rest.head? = some e → e.stop ≠ a) ∧ loopEnd es a = (none, rest))) := by
  induction es with
  | nil => exact ⟨[], [], by simp [loopEnd]⟩
  | cons e es ih =>
    by_cases hstop : e.stop = a
    · by_cases hcount : e.count = 1
      · obtain ⟨popped, rest, hes, hpopped, hrest⟩ := ih
        have hend : loopEnd (e :: es) a = loopEnd es a := by simp [loopEnd, hstop, hcount]
        exact ⟨e :: popped, rest, by rw [hes, List.cons_append],
          List.forall_mem_cons.mpr ⟨⟨hstop, hcount⟩, hpopped⟩, by rwa [hend]⟩
      · have hleft : ¬ e.count - 1 = 0 := sub_ne_zero.mpr hcount
        exact ⟨[], e :: es, rfl, by simp, .inl ⟨e, es, rfl, hstop, hcount, by rw [loopEnd, if_pos hstop.symm, if_neg hleft]⟩⟩
    · exact ⟨[], e :: es, rfl, by simp, .inr ⟨by simpa using hstop, by simp [loopEnd, Ne.symm hstop]⟩⟩

theorem LoopEntry.holds_iff (e : LoopEntry) (a : Nat) :
    e.holds a = true ↔ sectionBase a = e.sect ∧ e.start ≤ portable a ∧ portable a < e.stop := by
  simp [LoopEntry.holds, and_assoc]

/-- A taken exit pops the entries whose bodies it leaves, from the top down to the first that it does not leave. -/
theorem leaveLoops_eq_dropWhile (es : List LoopEntry) (chain target : Nat) :
    leaveLoops es chain target = es.dropWhile (fun e => e.holds chain && !e.holds target) := by
  induction es with
  | nil => rfl
  | cons e es ih => rw [leaveLoops, List.dropWhile_cons, ih]

/-- Where control goes past a chain, and the loop stack then (R89). -/
theorem RegSet.fallThrough_eq (r : RegSet) (len : Nat) :
    let a := portable r.pcc.addr + len
    r.fallThrough len = { r.toOffset ((loopEnd r.loops a).1.getD a) with loops := (loopEnd r.loops a).2 } := by
  intro a
  unfold RegSet.fallThrough
  rcases h : loopEnd r.loops a with ⟨_ | start, es⟩ <;> simp [h, a]

/-- The entries that a taken exit pops are those whose bodies it leaves, down to the first that it does not leave. -/
theorem leaveLoops_spec (es : List LoopEntry) (chain target : Nat) : ∃ popped rest : List LoopEntry,
    es = popped ++ rest ∧ leaveLoops es chain target = rest ∧
      (∀ e ∈ popped, e.holds chain = true ∧ ¬ e.holds target = true) ∧
      (∀ e, rest.head? = some e → ¬ e.holds chain = true ∨ e.holds target = true) := by
  refine ⟨_, _, List.takeWhile_append_dropWhile.symm, leaveLoops_eq_dropWhile es chain target, fun e he => ?_, fun e he => ?_⟩
  · simpa using List.mem_takeWhile_imp he
  · have hkept := List.head?_dropWhile_not (fun e : LoopEntry => e.holds chain && !e.holds target) es
    rw [he] at hkept
    simpa [or_iff_not_imp_left] using hkept

/-- A loop of no passes ends where its body ends (R88). -/
theorem loop_empty {p : Pfx} {d i : BitVec 5} {s : State} (hf : s.free p) (hcount : s.s d = 0) :
    let stop := portable s.reg.pcc.addr + p.chainBytes false + 2 * p.immZ i
    execLoop p d i s = .next ((s.setReg { s.reg.toOffset ((loopEnd s.reg.loops stop).1.getD stop) with
      loops := (loopEnd s.reg.loops stop).2 }).moved p) := by
  intro stop
  rw [execLoop, run_free p false s _ hf]
  have hcount' : s.reg.getS d = 0 := hcount
  rcases h : loopEnd s.reg.loops stop with ⟨_ | start, es⟩ <;> simp [hcount', h, stop]

theorem loop_deep {p : Pfx} {d i : BitVec 5} {s : State} (hf : s.free p) (hcount : s.s d ≠ 0) (hdeep : 4 ≤ s.reg.loops.length) :
    execLoop p d i s = .next (s.raise Code.loopDepth 0) := by
  rw [execLoop, run_free p false s _ hf]
  have hcount' : ¬ s.reg.getS d = 0 := hcount
  simp only [if_neg hcount', if_pos hdeep, Res.finish_trap]

/-- A loop with room on the stack pushes an entry of which the body is what follows it (R88). -/
theorem loop_pushes {p : Pfx} {d i : BitVec 5} {s : State} (hf : s.free p) (hcount : s.s d ≠ 0) (hroom : ¬ 4 ≤ s.reg.loops.length) :
    let next := portable s.reg.pcc.addr + p.chainBytes false
    execLoop p d i s = .next ((s.setReg { s.reg.toOffset next with
      loops := { sect := sectionBase s.reg.pcc.addr, start := next, stop := next + 2 * p.immZ i, count := s.s d } ::
        s.reg.loops }).moved p) := by
  intro next
  rw [execLoop, run_free p false s _ hf]
  have hcount' : ¬ s.reg.getS d = 0 := hcount
  simp only [if_neg hcount', if_neg hroom, Res.finish_goto]
  rfl

end Sys2Proof.Machine

open Sys2Proof Sys2Proof.Machine in
/-- Settles O6: loop in its three cases; the loop-end step by induction on the stack; what a taken exit pops as the longest run of entries
that it leaves. -/
theorem loopInstructions : Obligations.LoopInstructions := by
  unfold Obligations.LoopInstructions
  refine ⟨?_, loopEnd_spec, ?_, ?_⟩
  · intro p d i s hf next stop count
    split_ifs with hcount hdeep
    · exact (loop_empty hf hcount : execLoop .. = _)
    · exact (loop_deep hf hcount hdeep : execLoop .. = _)
    · exact (loop_pushes hf hcount hdeep : execLoop .. = _)
  · intro es chain target inside
    simpa only [LoopEntry.holds_iff] using leaveLoops_spec es chain target
  · intro s p paged a
    have hloops : (s.past p paged).reg.loops = (s.reg.fallThrough (p.chainBytes paged)).loops := by simp [State.past]
    have hpcc : (s.past p paged).reg.pcc = (s.reg.fallThrough (p.chainBytes paged)).pcc := by simp [State.past]
    rw [hloops, hpcc, RegSet.fallThrough_eq]
    refine ⟨rfl, ?_⟩
    rcases (loopEnd s.reg.loops a).1 with _ | start <;> rfl
end

section
/-! PROOFS. Capabilities: their fields after a derivation, and the bounds that an address recovers (R94 to R96, R101). -/

namespace Sys2Proof

/-! ## Fields (R94) -/

/-- The two bits of a capability that no field takes (R94). -/
def Cap.spare (c : Cap) : BitVec 2 := c.bits.extractLsb' 126 2

section
variable (c : Cap)

@[simp] theorem Cap.withTag_fields (t : Bool) : (c.withTag t).tag = t ∧ (c.withTag t).addrW = c.addrW ∧ (c.withTag t).addr = c.addr ∧
    (c.withTag t).perms = c.perms ∧ (c.withTag t).otype = c.otype ∧ (c.withTag t).expo = c.expo ∧ (c.withTag t).bm = c.bm ∧
    (c.withTag t).lm = c.lm ∧ (c.withTag t).spare = c.spare :=
  ⟨rfl, rfl, rfl, rfl, rfl, rfl, rfl, rfl, rfl⟩

@[simp] theorem Cap.withAddr_fields (a : Word) : (c.withAddr a).tag = c.tag ∧ (c.withAddr a).addrW = a ∧ (c.withAddr a).addr = a.toNat ∧
    (c.withAddr a).perms = c.perms ∧ (c.withAddr a).otype = c.otype ∧ (c.withAddr a).expo = c.expo ∧ (c.withAddr a).bm = c.bm ∧
    (c.withAddr a).lm = c.lm ∧ (c.withAddr a).spare = c.spare := by
  refine ⟨rfl, ?_, congrArg BitVec.toNat ?_, ?_, ?_, congrArg BitVec.toNat ?_, congrArg BitVec.toNat ?_, congrArg BitVec.toNat ?_, ?_⟩ <;>
    grind [Cap.withAddr, Cap.addrW, Cap.perms, Cap.otype, Cap.spare]

@[simp] theorem Cap.withPerms_fields (m : BitVec 12) : (c.withPerms m).tag = c.tag ∧ (c.withPerms m).addrW = c.addrW ∧
    (c.withPerms m).addr = c.addr ∧ (c.withPerms m).perms = m ∧ (c.withPerms m).otype = c.otype ∧ (c.withPerms m).expo = c.expo ∧
    (c.withPerms m).bm = c.bm ∧ (c.withPerms m).lm = c.lm ∧ (c.withPerms m).spare = c.spare := by
  refine ⟨rfl, ?_, congrArg BitVec.toNat ?_, ?_, ?_, congrArg BitVec.toNat ?_, congrArg BitVec.toNat ?_, congrArg BitVec.toNat ?_, ?_⟩ <;>
    grind [Cap.withPerms, Cap.addrW, Cap.perms, Cap.otype, Cap.spare]

@[simp] theorem Cap.withOtype_fields (t : BitVec 16) : (c.withOtype t).tag = c.tag ∧ (c.withOtype t).addrW = c.addrW ∧
    (c.withOtype t).addr = c.addr ∧ (c.withOtype t).perms = c.perms ∧ (c.withOtype t).otype = t ∧ (c.withOtype t).expo = c.expo ∧
    (c.withOtype t).bm = c.bm ∧ (c.withOtype t).lm = c.lm ∧ (c.withOtype t).spare = c.spare := by
  refine ⟨rfl, ?_, congrArg BitVec.toNat ?_, ?_, ?_, congrArg BitVec.toNat ?_, congrArg BitVec.toNat ?_, congrArg BitVec.toNat ?_, ?_⟩ <;>
    grind [Cap.withOtype, Cap.addrW, Cap.perms, Cap.otype, Cap.spare]

@[simp] theorem Cap.withBounds_fields (l b : BitVec 14) (e : BitVec 6) : (c.withBounds l b e).tag = c.tag ∧
    (c.withBounds l b e).addrW = c.addrW ∧ (c.withBounds l b e).addr = c.addr ∧ (c.withBounds l b e).perms = c.perms ∧
    (c.withBounds l b e).otype = c.otype ∧ (c.withBounds l b e).expo = e.toNat ∧ (c.withBounds l b e).bm = b.toNat ∧
    (c.withBounds l b e).lm = l.toNat ∧ (c.withBounds l b e).spare = c.spare := by
  refine ⟨rfl, ?_, congrArg BitVec.toNat ?_, ?_, ?_, congrArg BitVec.toNat ?_, congrArg BitVec.toNat ?_, congrArg BitVec.toNat ?_, ?_⟩ <;>
    grind [Cap.withBounds, Cap.addrW, Cap.perms, Cap.otype, Cap.spare]

theorem Cap.addr_lt : c.addr < 2 ^ 64 := c.addrW.isLt

theorem Cap.lm_lt : c.lm < 2 ^ 14 := (c.bits.extractLsb' 112 14).isLt

theorem Cap.bm_lt : c.bm < 2 ^ 14 := (c.bits.extractLsb' 98 14).isLt

end

/-! ## Bounds (R95) -/

/-- The bounds depend on the exponent, the two step counts and the address only. -/
theorem Cap.bounds_congr {x c : Cap} (he : x.expo = c.expo) (hl : x.lm = c.lm) (hb : x.bm = c.bm) (ha : x.addr = c.addr) :
    x.base = c.base ∧ x.top = c.top := by
  have hbase : x.base = c.base := by simp only [Cap.base, he, hl, hb, ha]
  exact ⟨hbase, by simp only [Cap.top, hbase, he, hl]⟩

@[simp] theorem Cap.withTag_bounds (c : Cap) (t : Bool) : (c.withTag t).base = c.base ∧ (c.withTag t).top = c.top :=
  Cap.bounds_congr rfl rfl rfl rfl

@[simp] theorem Cap.withPerms_bounds (c : Cap) (m : BitVec 12) : (c.withPerms m).base = c.base ∧ (c.withPerms m).top = c.top := by
  apply Cap.bounds_congr <;> simp

@[simp] theorem Cap.withOtype_bounds (c : Cap) (t : BitVec 16) : (c.withOtype t).base = c.base ∧ (c.withOtype t).top = c.top := by
  apply Cap.bounds_congr <;> simp

section
variable {c : Cap} (he : c.expo ≤ 50) (hl : c.lm ≤ 16382)
include he hl

theorem Cap.not_boundless : ¬ (50 < c.expo ∨ c.lm = 16383) := by omega

theorem Cap.top_eq : c.top = c.base + (c.lm + 1) * 2 ^ c.expo := if_neg (Cap.not_boundless he hl)

/-- The base of a capability in steps of its grid: BM below the high part that its address has, or the one before. -/
theorem Cap.base_eq : (c.base : Int) =
    (((c.addr / 2 ^ c.expo / 2 ^ 14 : Nat) - (if c.addr / 2 ^ c.expo % 2 ^ 14 < c.bm then 1 else 0)) * 2 ^ 14 + c.bm) * 2 ^ c.expo %
      2 ^ 64 := by
  have ha : c.addr / 2 ^ (c.expo + 14) = c.addr / 2 ^ c.expo / 2 ^ 14 := by rw [Nat.pow_add, ← Nat.div_div_eq_div_mul]
  rw [Cap.base, if_neg (Cap.not_boundless he hl), ha]
  exact Int.toNat_of_nonneg (Int.emod_nonneg _ (by decide))

/-- The base that an address recovers is the step that BM ends with, fewer than 2^14 steps below the address. -/
theorem Cap.base_of_step {b : Nat} (hbm : c.bm = b % 2 ^ 14) (hlow : b ≤ c.addr / 2 ^ c.expo)
    (hhigh : c.addr / 2 ^ c.expo < b + 2 ^ 14) : c.base = b * 2 ^ c.expo := by
  have hlt : b * 2 ^ c.expo < 2 ^ 64 := (Nat.mul_le_of_le_div _ _ _ hlow).trans_lt c.addr_lt
  have hbase := Cap.base_eq he hl
  generalize c.addr / 2 ^ c.expo = a at *
  have hsteps : ((a / 2 ^ 14 : Nat) - (if a % 2 ^ 14 < c.bm then 1 else 0) : Int) * 2 ^ 14 + c.bm = b := by
    split <;> omega
  simp only [hsteps] at hbase
  have hmod : (b * 2 ^ c.expo : Int) % 2 ^ 64 = b * 2 ^ c.expo := by
    exact_mod_cast Nat.mod_eq_of_lt hlt
  exact_mod_cast hbase.trans hmod

/-- A base at or below the address is such a step: BM cannot stand for a step below 0. -/
theorem Cap.exists_step (h : c.base ≤ c.addr) : ∃ b, c.base = b * 2 ^ c.expo ∧ c.bm = b % 2 ^ 14 := by
  have hbm := c.bm_lt
  by_cases hunder : c.addr / 2 ^ c.expo < c.bm
  · exfalso
    have hP : (2 : Int) ^ c.expo ≤ 2 ^ 50 := pow_le_pow_right₀ (by norm_num) he
    have hpos : (0 : Int) < 2 ^ c.expo := by positivity
    have haddr : (c.addr : Int) < c.bm * 2 ^ c.expo := by
      exact_mod_cast (Nat.div_lt_iff_lt_mul (by positivity)).mp hunder
    have hbase := Cap.base_eq he hl
    rw [Nat.div_eq_of_lt (by omega), Nat.mod_eq_of_lt (by omega), if_pos hunder] at hbase
    have hneg : (((0 : Nat) - 1 : Int) * 2 ^ 14 + c.bm) * 2 ^ c.expo = 2 ^ 64 - (2 ^ 14 - c.bm) * 2 ^ c.expo + 2 ^ 64 * (-1) := by
      push_cast
      ring
    have hbmPos : (1 : Int) ≤ c.bm := by exact_mod_cast Nat.zero_lt_of_lt hunder
    rw [hneg, Int.add_mul_emod_self_left, Int.emod_eq_of_lt] at hbase
    · nlinarith
    · nlinarith
    · nlinarith
  · let a := c.addr / 2 ^ c.expo
    have hstep : ∃ b, c.bm = b % 2 ^ 14 ∧ b ≤ a ∧ a < b + 2 ^ 14 :=
      ⟨(a - c.bm) / 2 ^ 14 * 2 ^ 14 + c.bm, by omega, by omega, by omega⟩
    obtain ⟨b, hb, hlow, hhigh⟩ := hstep
    exact ⟨b, Cap.base_of_step he hl hb hlow hhigh, hb⟩

/-- Every address between the bounds recovers them (R95). -/
theorem Cap.withAddr_bounds {n : Word} (h : c.base ≤ c.addr) (hlow : c.base ≤ n.toNat) (hhigh : n.toNat ≤ c.top) :
    (c.withAddr n).base = c.base ∧ (c.withAddr n).top = c.top := by
  obtain ⟨b, hbase, hbm⟩ := Cap.exists_step he hl h
  have hpos : 0 < 2 ^ c.expo := by positivity
  have hlow' : b ≤ n.toNat / 2 ^ c.expo := (Nat.le_div_iff_mul_le hpos).mpr (hbase ▸ hlow)
  have hhigh' : n.toNat / 2 ^ c.expo ≤ b + (c.lm + 1) := by
    refine Nat.div_le_of_le_mul (hhigh.trans_eq ?_)
    rw [Cap.top_eq he hl, hbase]
    ring
  have hstep : (c.withAddr n).base = b * 2 ^ (c.withAddr n).expo :=
    Cap.base_of_step (by simpa using he) (by simpa using hl) (by simpa using hbm) (by simpa using hlow') (by
      simp only [Cap.withAddr_fields]
      omega)
  have hsame : (c.withAddr n).base = c.base := by rw [hstep, hbase, (c.withAddr_fields n).2.2.2.2.2.1]
  refine ⟨hsame, ?_⟩
  rw [Cap.top_eq he hl, Cap.top_eq (by simpa using he) (by simpa using hl), hsame]
  simp

end
end Sys2Proof
end

section
/-! PROOFS. The conditions of R96 on derived capabilities (R96, R101, R103, R104). -/

namespace Sys2Proof

/-! ## What R96 asks -/

theorem Cap.noMoreThan_of_same {x c : Cap} (hb : x.base = c.base) (ht : x.top = c.top) (hp : x.perms = c.perms) : x.noMoreThan c :=
  ⟨hb.ge, ht.le, by rw [hp, BitVec.and_self]⟩

/-- A capability that authorises no more than a legal one, with its address between bounds on the grid, is legal (R96). -/
theorem Cap.legal.narrow {x c : Cap} (h : c.legal) (hn : x.noMoreThan c) (hlow : x.base ≤ x.addr) (hhigh : x.addr ≤ x.top)
    (he : x.expo ≤ 50) (hl : x.lm ≤ 16382) (hs : x.spare = c.spare) (ho : x.otype.toNat ≤ 4 ∨ 0x100 ≤ x.otype.toNat) : x.legal where
  low := hlow
  high := hhigh
  exponent := he
  length := hl
  limit := hn.2.1.trans h.limit
  reserved := by
    obtain ⟨h11, hspare⟩ := h.reserved
    exact ⟨by rw [← hn.2.2, BitVec.getLsbD_and, h11, Bool.and_false], hs.trans hspare⟩
  object := ho

/-- What a derivation leaves in a register that held c: untagged, or legal and authorising no more than c. -/
def Cap.DerivedFrom (x c : Cap) : Prop := x.tag = true → c.tag = true ∧ x.legal ∧ x.noMoreThan c

/-- The bounds that an address gives a legal capability are its own where the address lies between them (R95). -/
theorem Cap.legal.withAddr_bounds {c : Cap} (h : c.legal) {n : Word} (hlow : c.base ≤ n.toNat) (hhigh : n.toNat ≤ c.top) :
    (c.withAddr n).base = c.base ∧ (c.withAddr n).top = c.top :=
  Cap.withAddr_bounds h.exponent h.length h.low hlow hhigh

theorem Cap.legal.withAddr {c : Cap} (h : c.legal) {n : Word} (hlow : c.base ≤ n.toNat) (hhigh : n.toNat ≤ c.top) :
    (c.withAddr n).legal := by
  obtain ⟨hbase, htop⟩ := h.withAddr_bounds hlow hhigh
  refine h.narrow (Cap.noMoreThan_of_same hbase htop (by simp)) ?_ ?_ ?_ ?_ ?_ ?_
  · simpa [hbase] using hlow
  · simpa [htop] using hhigh
  · simpa using h.exponent
  · simpa using h.length
  · simp
  · simpa using h.object

/-- The tag changes nothing that R96 asks of a capability. -/
theorem Cap.legal.withTag {c : Cap} (h : c.legal) (t : Bool) : (c.withTag t).legal :=
  h.narrow (Cap.noMoreThan_of_same (by simp) (by simp) (by simp)) (by simpa using h.low) (by simpa using h.high)
    (by simpa using h.exponent) (by simpa using h.length) (by simp) (by simpa using h.object)

theorem Cap.sealed_eq (c : Cap) : c.sealed = !decide (c.otype = 0) := by
  simp [Cap.sealed, bne, beq_eq_decide]

/-- The derived value keeps its tag exactly if the source is tagged and unsealed and the address lies between its bounds (R101). -/
theorem Cap.derive_tag (c : Cap) (n : Word) :
    (c.derive n).tag = decide (c.tag = true ∧ c.otype = 0 ∧ c.base ≤ n.toNat ∧ n.toNat ≤ c.top) := by
  simp [Cap.derive, Cap.sealed_eq, Bool.and_assoc]

theorem Cap.legal.derive {c : Cap} (h : c.legal) {n : Word} (ht : (c.derive n).tag = true) :
    (c.derive n).legal ∧ (c.derive n).noMoreThan c := by
  obtain ⟨-, -, hlow, hhigh⟩ := of_decide_eq_true (c.derive_tag n ▸ ht)
  obtain ⟨hbase, htop⟩ := h.withAddr_bounds hlow hhigh
  exact ⟨(h.withAddr hlow hhigh).withTag _,
    Cap.noMoreThan_of_same (by simpa [Cap.derive] using hbase) (by simpa [Cap.derive] using htop) (by simp [Cap.derive])⟩

theorem Cap.legal.derive_derived {c : Cap} (h : c.legal) (n : Word) : (c.derive n).DerivedFrom c := fun ht =>
  ⟨(of_decide_eq_true (c.derive_tag n ▸ ht)).1, h.derive ht⟩

end Sys2Proof

open Sys2Proof in
/-- Settles O8: the base is the one step of the grid that BM ends within 2^14 steps below the address, so every address between the bounds
recovers it. -/
theorem boundsSurviveAddressing : Obligations.BoundsSurviveAddressing := by
  unfold Obligations.BoundsSurviveAddressing
  intro c n h ht ho hlow hhigh
  have htag : (c.derive n).tag = true := by simp [Cap.derive_tag, ht, ho, hlow, hhigh]
  obtain ⟨hbase, htop⟩ := h.withAddr_bounds hlow hhigh
  obtain ⟨hlegal, -⟩ := h.derive htag
  exact ⟨htag, by simpa [Cap.derive] using hbase, by simpa [Cap.derive] using htop, by simp [Cap.derive], by simp [Cap.derive], hlegal⟩
end

section
/-! PROOFS. Narrowing bounds to a range (R102, R103): the exponent, the steps, and what the narrowed capability holds. -/

namespace Sys2Proof

open Machine

/-! ## The first exponent that serves -/

/-- The first number from e on that a test accepts, of at most fuel that are put to it. -/
def firstFrom (P : Nat → Bool) : Nat → Nat → Nat
  | 0, e => e
  | fuel + 1, e => if P e then e else firstFrom P fuel (e + 1)

theorem firstFrom_spec (P : Nat → Bool) (fuel e : Nat) : e ≤ firstFrom P fuel e ∧ firstFrom P fuel e ≤ e + fuel ∧
    (∀ f, e ≤ f → f < firstFrom P fuel e → P f = false) ∧ (P (e + fuel) = true → P (firstFrom P fuel e) = true) := by
  induction fuel generalizing e with
  | zero => exact ⟨le_rfl, le_rfl, fun f h h' => absurd h' (Nat.not_lt.mpr h), id⟩
  | succ fuel ih =>
    cases hP : P e with
    | true =>
      rw [firstFrom, hP, if_pos rfl]
      exact ⟨le_rfl, by omega, fun f h h' => absurd h' (Nat.not_lt.mpr h), fun _ => hP⟩
    | false =>
      obtain ⟨hge, hle, hbefore, hlast⟩ := ih (e + 1)
      rw [show e + 1 + fuel = e + (fuel + 1) by omega] at hle hlast
      rw [firstFrom, hP, if_neg Bool.false_ne_true]
      refine ⟨by omega, hle, fun f h h' => ?_, hlast⟩
      obtain rfl | hlt := h.eq_or_lt
      · exact hP
      · exact hbefore f hlt h'

/-! ## Steps (R102) -/

/-- A length rounded up to whole steps is at least the length, and less than a step more. -/
theorem roundUp_bounds (x : Nat) {q : Nat} (hq : 0 < q) : x ≤ (x + q - 1) / q * q ∧ (x + q - 1) / q * q < x + q := by
  have hlow := Nat.div_mul_le_self (x + q - 1) q
  have hhigh := Nat.lt_div_mul_add (a := x + q - 1) hq
  omega

theorem roundUp_of_dvd {x q : Nat} (hq : 0 < q) (h : q ∣ x) : (x + q - 1) / q = x / q := by
  obtain ⟨k, rfl⟩ := h
  obtain ⟨hlow, hhigh⟩ := roundUp_bounds (q * k) hq
  rw [Nat.mul_div_cancel_left _ hq]
  generalize (q * k + q - 1) / q = r at *
  have hle : r < k + 1 := Nat.lt_of_mul_lt_mul_right (hhigh.trans_eq (by ring) : r * q < (k + 1) * q)
  have hge : k ≤ r := Nat.le_of_mul_le_mul_right ((Nat.mul_comm k q).trans_le hlow) hq
  omega

/-- A range takes at most 16,383 steps at an exponent (R102). -/
def takesSteps (lo hi e : Nat) : Bool := decide ((gridSteps lo hi e).2 - (gridSteps lo hi e).1 ≤ 16383)

theorem fitExp_eq_firstFrom (lo hi fuel e : Nat) : fitExp lo hi fuel e = firstFrom (takesSteps lo hi) fuel e := by
  induction fuel generalizing e with
  | zero => rfl
  | succ fuel ih => simp [fitExp, firstFrom, takesSteps, ih]

/-- A range that ends by TOPMAX takes few enough steps at the last exponent. -/
theorem takesSteps_last {lo hi : Nat} (h : hi ≤ topMax) : takesSteps lo hi 50 = true := by
  unfold topMax at h
  rw [takesSteps, decide_eq_true_eq]
  simp only [gridSteps]
  omega

/-- The exponent that a range gets: the least at which it takes at most 16,383 steps. -/
theorem fitExp_spec (lo : Nat) {hi : Nat} (h : hi ≤ topMax) : fitExp lo hi 50 0 ≤ 50 ∧ takesSteps lo hi (fitExp lo hi 50 0) = true ∧
    ∀ f, takesSteps lo hi f = true → fitExp lo hi 50 0 ≤ f := by
  rw [fitExp_eq_firstFrom]
  obtain ⟨-, hle, hbefore, hlast⟩ := firstFrom_spec (takesSteps lo hi) 50 0
  refine ⟨hle, hlast (takesSteps_last h), fun f hf => Nat.le_of_not_lt fun hlt => ?_⟩
  simp [hbefore f (Nat.zero_le f) hlt] at hf

/-- A range that ends on the grid takes the steps up to there. -/
theorem gridSteps_of_dvd {lo hi e : Nat} (hlt : lo < hi) (hhi : 2 ^ e ∣ hi) :
    gridSteps lo hi e = (lo / 2 ^ e, hi / 2 ^ e) := by
  have hstep : lo / 2 ^ e < hi / 2 ^ e := Nat.div_lt_div_of_lt_of_dvd hhi hlt
  simp only [gridSteps, roundUp_of_dvd (Nat.two_pow_pos e) hhi, Prod.mk.injEq, true_and]
  omega

theorem takesSteps_of_dvd {lo hi e : Nat} (hlt : lo < hi) (hhi : 2 ^ e ∣ hi) (hsteps : hi ≤ lo + 16383 * 2 ^ e) :
    takesSteps lo hi e = true := by
  rw [takesSteps, gridSteps_of_dvd hlt hhi, decide_eq_true_eq, Nat.sub_le_iff_le_add, Nat.add_comm]
  calc hi / 2 ^ e ≤ (lo + 2 ^ e * 16383) / 2 ^ e := Nat.div_le_div_right (hsteps.trans_eq (by ring))
    _ = lo / 2 ^ e + 16383 := Nat.add_mul_div_left _ _ (Nat.two_pow_pos e)

/-! ## The narrowed capability (R102) -/

/-- The least exponent at which the range from the address of c to hi takes few enough steps. -/
def Cap.rangeExp (c : Cap) (hi : Nat) : Nat := fitExp c.addr hi 50 0

/-- The steps of that range, as c narrowed to it holds them. -/
def Cap.rangeSteps (c : Cap) (hi : Nat) : Nat × Nat := gridSteps c.addr hi (c.rangeExp hi)

/-- The capability c with the bounds of that range, rounded outward to its grid. -/
def Cap.narrowed (c : Cap) (hi : Nat) : Cap :=
  c.withBounds (BitVec.ofNat 14 ((c.rangeSteps hi).2 - (c.rangeSteps hi).1 - 1)) (BitVec.ofNat 14 (c.rangeSteps hi).1)
    (BitVec.ofNat 6 (c.rangeExp hi))

@[simp] theorem Cap.narrowed_fields (c : Cap) (hi : Nat) : (c.narrowed hi).tag = c.tag ∧ (c.narrowed hi).addrW = c.addrW ∧
    (c.narrowed hi).addr = c.addr ∧ (c.narrowed hi).perms = c.perms ∧ (c.narrowed hi).otype = c.otype ∧
    (c.narrowed hi).spare = c.spare := by
  simp [Cap.narrowed]

section
variable (c : Cap) {hi : Nat} (h : hi ≤ topMax)
include h

theorem Cap.rangeSteps_bounds : (c.rangeSteps hi).1 < (c.rangeSteps hi).2 ∧ (c.rangeSteps hi).2 ≤ (c.rangeSteps hi).1 + 16383 := by
  obtain ⟨-, htakes, -⟩ := fitExp_spec c.addr h
  have hmax : (c.rangeSteps hi).1 + 1 ≤ (c.rangeSteps hi).2 := le_max_right _ _
  have hle : (c.rangeSteps hi).2 - (c.rangeSteps hi).1 ≤ 16383 := of_decide_eq_true htakes
  omega

theorem Cap.narrowed_expo : (c.narrowed hi).expo = c.rangeExp hi := by
  have he : c.rangeExp hi ≤ 50 := (fitExp_spec c.addr h).1
  simp [Cap.narrowed]
  omega

theorem Cap.narrowed_lm : (c.narrowed hi).lm = (c.rangeSteps hi).2 - (c.rangeSteps hi).1 - 1 := by
  have hsteps := c.rangeSteps_bounds h
  simp [Cap.narrowed]
  omega

theorem Cap.narrowed_inRange : (c.narrowed hi).expo ≤ 50 ∧ (c.narrowed hi).lm ≤ 16382 := by
  have hsteps := c.rangeSteps_bounds h
  rw [c.narrowed_expo h, c.narrowed_lm h]
  exact ⟨(fitExp_spec c.addr h).1, by omega⟩

/-- The narrowed bounds are the steps of the range. -/
theorem Cap.narrowed_bounds : (c.narrowed hi).base = (c.rangeSteps hi).1 * 2 ^ c.rangeExp hi ∧
    (c.narrowed hi).top = (c.rangeSteps hi).2 * 2 ^ c.rangeExp hi := by
  obtain ⟨he, hl⟩ := c.narrowed_inRange h
  obtain ⟨hlt, -⟩ := c.rangeSteps_bounds h
  have hstep : (c.rangeSteps hi).1 = (c.narrowed hi).addr / 2 ^ (c.narrowed hi).expo := by
    rw [c.narrowed_expo h, (c.narrowed_fields hi).2.2.1]
    rfl
  have hbase : (c.narrowed hi).base = (c.rangeSteps hi).1 * 2 ^ c.rangeExp hi := by
    rw [Cap.base_of_step he hl (b := (c.rangeSteps hi).1) (by simp [Cap.narrowed]) hstep.le (by omega), c.narrowed_expo h]
  refine ⟨hbase, ?_⟩
  rw [Cap.top_eq he hl, hbase, c.narrowed_lm h, c.narrowed_expo h, ← Nat.add_mul]
  congr 1
  omega

/-- The narrowed bounds hold the whole range. -/
theorem Cap.narrowed_holds : (c.narrowed hi).base ≤ c.addr ∧ hi ≤ (c.narrowed hi).top := by
  obtain ⟨hbase, htop⟩ := c.narrowed_bounds h
  rw [hbase, htop]
  refine ⟨Nat.div_mul_le_self _ _, (roundUp_bounds hi (Nat.two_pow_pos (c.rangeExp hi))).1.trans (Nat.mul_le_mul_right _ ?_)⟩
  exact le_max_left _ _

/-- They are exactly the range where its ends lie on a grid on which it takes at most 16,383 steps. -/
theorem Cap.narrowed_exact {e : Nat} (hlt : c.addr < hi) (hlo : 2 ^ e ∣ c.addr) (hhi : 2 ^ e ∣ hi)
    (hsteps : hi ≤ c.addr + 16383 * 2 ^ e) : (c.narrowed hi).base = c.addr ∧ (c.narrowed hi).top = hi := by
  obtain ⟨hbase, htop⟩ := c.narrowed_bounds h
  have hle : c.rangeExp hi ≤ e := (fitExp_spec c.addr h).2.2 e (takesSteps_of_dvd hlt hhi hsteps)
  have hlo' := (Nat.pow_dvd_pow 2 hle).trans hlo
  have hhi' := (Nat.pow_dvd_pow 2 hle).trans hhi
  rw [hbase, htop, Cap.rangeSteps, gridSteps_of_dvd hlt hhi']
  exact ⟨Nat.div_mul_cancel hlo', Nat.div_mul_cancel hhi'⟩

end

/-! ## SetBounds (R102) -/

/-- SetBounds past its first three checks: the steps of the range must lie within the bounds, and be the range where that is asked. -/
theorem Cap.setBounds_eq {c : Cap} {len : Nat} (exact_ : Bool) (ht : c.tag = true) (ho : c.otype = 0) (hlow : c.base ≤ c.addr)
    (hhigh : c.addr + len ≤ c.top) (hlimit : c.top ≤ topMax) :
    let x := c.narrowed (c.addr + len)
    c.setBounds len exact_ = if (x.base < c.base ∨ c.top < x.top) ∨ (exact_ = true ∧ ¬ (x.base = c.addr ∧ x.top = c.addr + len))
      then .error Code.capRepr else .ok x := by
  intro x
  obtain ⟨hbase, htop⟩ := c.narrowed_bounds (hhigh.trans hlimit)
  have hs : c.sealed = false := by simp [Cap.sealed_eq, ho]
  have hb : ¬ (c.addr < c.base ∨ c.top < c.addr + len) := by omega
  have hsteps : c.setBounds len exact_ =
      if (c.rangeSteps (c.addr + len)).1 * 2 ^ c.rangeExp (c.addr + len) < c.base ∨
          c.top < (c.rangeSteps (c.addr + len)).2 * 2 ^ c.rangeExp (c.addr + len) then .error Code.capRepr
      else if exact_ && ((c.rangeSteps (c.addr + len)).1 * 2 ^ c.rangeExp (c.addr + len) != c.addr ||
          (c.rangeSteps (c.addr + len)).2 * 2 ^ c.rangeExp (c.addr + len) != c.addr + len) then .error Code.capRepr
      else .ok x := by
    simp only [Cap.setBounds, ht, hs, if_neg hb]
    rfl
  rw [hsteps, ← hbase, ← htop]
  by_cases hout : x.base < c.base ∨ c.top < x.top
  · rw [if_pos hout, if_pos (.inl hout)]
  · simp [hout, x, imp_iff_not_or]

theorem Cap.setBounds_untagged {c : Cap} (ht : c.tag = false) (len : Nat) (exact_ : Bool) : c.setBounds len exact_ = .error Code.capTag := by
  simp [Cap.setBounds, ht]

theorem Cap.setBounds_sealed {c : Cap} (ht : c.tag = true) (ho : c.otype ≠ 0) (len : Nat) (exact_ : Bool) :
    c.setBounds len exact_ = .error Code.capSeal := by
  have hs : c.sealed = true := by simpa [Cap.sealed_eq] using ho
  simp [Cap.setBounds, ht, hs]

theorem Cap.setBounds_outside {c : Cap} (ht : c.tag = true) (ho : c.otype = 0) {len : Nat} (h : c.addr < c.base ∨ c.top < c.addr + len)
    (exact_ : Bool) : c.setBounds len exact_ = .error Code.capBound := by
  have hs : c.sealed = false := by simp [Cap.sealed_eq, ho]
  simp [Cap.setBounds, ht, hs, h]

/-- What SetBounds gives, where it gives a capability: c narrowed to the range, within the bounds of c (R102). -/
theorem Cap.setBounds_ok {c x : Cap} {len : Nat} {exact_ : Bool} (h : c.setBounds len exact_ = .ok x) (hlimit : c.top ≤ topMax) :
    c.tag = true ∧ c.otype = 0 ∧ c.addr + len ≤ c.top ∧ x = c.narrowed (c.addr + len) ∧ c.base ≤ x.base ∧ x.top ≤ c.top ∧
      (exact_ = true → x.base = c.addr ∧ x.top = c.addr + len) := by
  cases ht : c.tag with
  | false => simp [Cap.setBounds_untagged ht] at h
  | true =>
    by_cases ho : c.otype = 0
    · by_cases hb : c.addr < c.base ∨ c.top < c.addr + len
      · simp [Cap.setBounds_outside ht ho hb] at h
      · obtain ⟨hlow, hhigh⟩ : c.base ≤ c.addr ∧ c.addr + len ≤ c.top := by omega
        rw [Cap.setBounds_eq exact_ ht ho hlow hhigh hlimit] at h
        split_ifs at h with hfit
        obtain rfl := Except.ok.inj h
        obtain ⟨hin, hexact⟩ := not_or.mp hfit
        exact ⟨rfl, ho, hhigh, rfl, by omega, by omega, fun he => of_not_not fun hne => hexact ⟨he, hne⟩⟩
    · simp [Cap.setBounds_sealed ht ho] at h

/-- The fields that SetBounds leaves as they are, and where the bounds lie (R102). -/
theorem Cap.setBounds_within {c x : Cap} {len : Nat} {exact_ : Bool} (h : c.setBounds len exact_ = .ok x) (hlimit : c.top ≤ topMax) :
    x.tag = true ∧ x.otype = 0 ∧ x.addr = c.addr ∧ x.perms = c.perms ∧ c.base ≤ x.base ∧ x.base ≤ c.addr ∧ c.addr + len ≤ x.top ∧
      x.top ≤ c.top := by
  obtain ⟨ht, ho, hhigh, rfl, hbase, htop, -⟩ := Cap.setBounds_ok h hlimit
  obtain ⟨hlow, hcover⟩ := c.narrowed_holds (hhigh.trans hlimit)
  simp [ht, ho, hbase, htop, hlow, hcover]

/-- A range whose ends lie on a grid on which it takes at most 16,383 steps can be set exactly. -/
theorem Cap.setBounds_exact {c : Cap} {len e : Nat} (exact_ : Bool) (ht : c.tag = true) (ho : c.otype = 0) (hlow : c.base ≤ c.addr)
    (hhigh : c.addr + len ≤ c.top) (hlimit : c.top ≤ topMax) (hpos : 0 < len) (hlo : 2 ^ e ∣ c.addr) (hlen : 2 ^ e ∣ len)
    (hsteps : len ≤ 16383 * 2 ^ e) : let x := c.narrowed (c.addr + len)
    c.setBounds len exact_ = .ok x ∧ x.base = c.addr ∧ x.top = c.addr + len := by
  obtain ⟨hbase, htop⟩ := c.narrowed_exact (hhigh.trans hlimit) (by omega) hlo (Nat.dvd_add hlo hlen) (by omega)
  refine ⟨?_, hbase, htop⟩
  rw [Cap.setBounds_eq exact_ ht ho hlow hhigh hlimit, if_neg]
  omega

/-! ## `c.fit` (R103) -/

/-- The length that `c.fit` answers for, and the test that its exponent is the first to pass. -/
theorem fitLen_eq_firstFrom (l fuel e : Nat) :
    fitWord.fitLen l fuel e = firstFrom (fun e => decide ((l + 2 ^ e - 1) / 2 ^ e ≤ 16383)) fuel e := by
  induction fuel generalizing e with
  | zero => rfl
  | succ fuel ih => simp [fitWord.fitLen, firstFrom, ih]

/-- The exponent that `c.fit` answers is the least at which the length takes at most 16,383 steps. -/
theorem fitLen_spec {l : Nat} (h : l ≤ topMax) : let e := fitWord.fitLen l 50 0
    e ≤ 50 ∧ (l + 2 ^ e - 1) / 2 ^ e ≤ 16383 ∧ ∀ f, f < e → 16383 * 2 ^ f < l := by
  intro e
  obtain ⟨-, hle, hbefore, hlast⟩ := firstFrom_spec (fun e => decide ((l + 2 ^ e - 1) / 2 ^ e ≤ 16383)) 50 0
  rw [← fitLen_eq_firstFrom] at hle hbefore hlast
  unfold topMax at h
  refine ⟨hle, of_decide_eq_true (hlast (decide_eq_true (by omega))), fun f hf => ?_⟩
  have hmore : 16384 ≤ (l + 2 ^ f - 1) / 2 ^ f := 
    Nat.lt_of_not_le (of_decide_eq_false (hbefore f (Nat.zero_le f) hf))
  have hpos := Nat.two_pow_pos f
  have hmul := (Nat.le_div_iff_mul_le hpos).mp hmore
  omega

end Sys2Proof
end

section
/-! PROOFS. What page 1 does to capability registers: derivations and field reads (R101, R103, R106). -/

namespace Sys2Proof

/-- A derived value by its fields (R101). -/
theorem Cap.derive_eq (c : Cap) (n : Word) : c.derive n =
    { tag := decide (c.tag = true ∧ c.otype = 0 ∧ c.base ≤ n.toNat ∧ n.toNat ≤ c.top), bits := c.bits.extractLsb' 64 64 ++ n } := by
  rw [← c.derive_tag n]
  rfl

theorem Cap.top_sub_base (c : Cap) : c.top - c.base = if 50 < c.expo ∨ c.lm = 16383 then 0 else (c.lm + 1) * 2 ^ c.expo := by
  unfold Cap.top
  split <;> simp

theorem Cap.base_of_boundless {c : Cap} (h : 50 < c.expo ∨ c.lm = 16383) : c.base = 0 := if_pos h

/-- The base in bytes: BM and the high part on the grid, around 2^64 (R95). -/
theorem Cap.base_mod {c : Cap} (he : c.expo ≤ 50) (hl : c.lm ≠ 16383) : c.base < 2 ^ 64 ∧ ∃ j : Int, (c.base : Int) =
    ((c.addr / 2 ^ (c.expo + 14) : Nat) - (if c.addr / 2 ^ c.expo % 2 ^ 14 < c.bm then 1 else 0)) * 2 ^ (c.expo + 14) +
      c.bm * 2 ^ c.expo + j * 2 ^ 64 := by
  have hbase := Cap.base_eq he (by have := c.lm_lt; omega)
  generalize (if c.addr / 2 ^ c.expo % 2 ^ 14 < c.bm then (1 : Int) else 0) = k at *
  refine ⟨?_, -((((c.addr / 2 ^ c.expo / 2 ^ 14 : Nat) - k) * 2 ^ 14 + c.bm) * 2 ^ c.expo / 2 ^ 64), ?_⟩
  · have hlt := Int.emod_lt_of_pos ((((c.addr / 2 ^ c.expo / 2 ^ 14 : Nat) - k) * 2 ^ 14 + c.bm) * 2 ^ c.expo) (b := 2 ^ 64) (by norm_num)
    omega
  · rw [hbase, Int.emod_def, Nat.pow_add, ← Nat.div_div_eq_div_mul]
    ring

end Sys2Proof

namespace Sys2Proof.Machine

section
variable {p : Pfx} {s : State} (hf : s.free p)
include hf

/-- A free chain whose body is done is complete in the state that the body leaves. -/
theorem run_done {paged : Bool} {body : State → Res} {t : State} (hb : body s = .done t) :
    run p paged s body = .next (t.past p paged) := by
  rw [run_free p paged s body hf, hb, Res.finish_done]

/-- A free chain whose body faults raises its fault. -/
theorem run_trap {paged : Bool} {body : State → Res} {t : State} {code : BitVec 16} {ta : Word} (hb : body s = .trap t code ta) :
    run p paged s body = .next (t.raise code ta) := by
  rw [run_free p paged s body hf, hb, Res.finish_trap]

/-- A derivation in place leaves its value in cd. -/
theorem deriveCap_gives {d : BitVec 4} {f : Cap → Cap} {x : Cap} (hx : f (s.c d) = x) :
    deriveCap p d s f = .next ((s.setC d x).past p true) :=
  hx ▸ run_done hf rfl

theorem readField_gives {d : BitVec 5} {a : BitVec 4} {f : Cap → Nat} {n : Nat} (hn : f (s.c a) = n) :
    readField p d a s f = .next ((s.setS d (BitVec.ofNat 64 n)).past p true) :=
  hn ▸ run_done hf rfl

end

end Sys2Proof.Machine

open Sys2Proof Sys2Proof.Machine in
/-- Settles O7: each derivation leaves a value told by the fields of the old one, and each read a number told by the bits. -/
theorem capabilityDerivations : Obligations.CapabilityDerivations := by
  unfold Obligations.CapabilityDerivations
  refine ⟨fun p d a r i s hf => ?_, fun p d a s hf => ?_⟩
  · intro c w gives moved
    have snap (n : Nat) : c.derive (BitVec.ofNat 64 (c.addr - c.addr % n)) = moved (BitVec.ofNat 64 (c.addr / n * n)) := by
      rw [Nat.div_mul_self_eq_mod_sub_self, c.derive_eq]
    have andp : (c.withPerms (c.perms &&& w.extractLsb' 0 12)).withTag (c.tag && !c.sealed) =
        { tag := decide (c.tag = true ∧ c.otype = 0), bits := c.bits.extractLsb' 76 52 ++ (c.perms &&& w.setWidth 12) ++ c.bits.extractLsb' 0 64 } := by
      simp [Cap.withTag, Cap.withPerms, Cap.sealed_eq, BitVec.setWidth_eq_extractLsb']
    exact ⟨(run_done hf rfl : execCMv .. = _), (run_done hf rfl : execCClrtag .. = _),
      (deriveCap_gives hf (c.derive_eq _) : execCAdd .. = _), (deriveCap_gives hf (c.derive_eq _) : execCAddi .. = _),
      (deriveCap_gives hf (c.derive_eq _) : execCSetaddr .. = _),
      (deriveCap_gives hf (snap _) : execCSnap .. = _), (deriveCap_gives hf andp : execCAndp .. = _)⟩
  · intro c e lm bm ad gives
    refine ⟨(readField_gives hf rfl : execCGaddr .. = _), (readField_gives hf rfl : execCGperm .. = _),
      (readField_gives hf rfl : execCGtype .. = _), (readField_gives hf rfl : execCGtag .. = _),
      (readField_gives hf c.top_sub_base : execCGlen .. = _), fun h => ?_, fun he hl => ?_⟩
    · exact (readField_gives hf (Cap.base_of_boundless h) : execCGbase .. = _)
    · obtain ⟨hlt, hbase⟩ := Cap.base_mod he hl
      exact ⟨c.base, hlt, (readField_gives hf rfl : execCGbase .. = _), hbase⟩
end

section
/-! PROOFS. `c.setb`, `c.setbx` and `c.fit` (R102, R103). -/

namespace Sys2Proof.Machine

open Sys2Proof

section
variable {p : Pfx} {s : State} (hf : s.free p) {d : BitVec 4} {r : BitVec 5} {exact_ : Bool}
include hf

theorem boundsCap_of_ok {x : Cap} (h : (s.c d).setBounds (s.s r).toNat exact_ = .ok x) :
    boundsCap p d r exact_ s = .next ((s.setC d x).past p true) := by
  refine run_done hf ?_
  simp only [h]

theorem boundsCap_of_error {code : BitVec 16} (h : (s.c d).setBounds (s.s r).toNat exact_ = .error code) :
    boundsCap p d r exact_ s = .next (s.raise code (s.c d).addrW) := by
  refine run_trap hf ?_
  simp only [h]

/-- Past the first three checks SetBounds raises CAP.REPR, or leaves cd narrowed to the range. -/
theorem boundsCap_cases (ht : (s.c d).tag = true) (ho : (s.c d).otype = 0)
    (hin : ¬ ((s.c d).addr < (s.c d).base ∨ (s.c d).top < (s.c d).addr + (s.s r).toNat)) (hlimit : (s.c d).top ≤ topMax) :
    boundsCap p d r exact_ s = .next (s.raise Code.capRepr (s.c d).addrW) ∨
      ∃ x, (s.c d).setBounds (s.s r).toNat exact_ = .ok x ∧ boundsCap p d r exact_ s = .next ((s.setC d x).past p true) := by
  have hset := Cap.setBounds_eq (len := (s.s r).toNat) exact_ ht ho (by omega) (by omega) hlimit
  dsimp only at hset
  split_ifs at hset
  · exact .inl (boundsCap_of_error hf hset)
  · exact .inr ⟨_, hset, boundsCap_of_ok hf hset⟩

end

end Sys2Proof.Machine

open Sys2Proof Sys2Proof.Machine in
/-- Settles O9: SetBounds puts c on the grid of the least exponent that serves; a range whose ends lie on a coarser grid lies on that one too. -/
theorem boundsSetting : Obligations.BoundsSetting := by
  unfold Obligations.BoundsSetting
  refine ⟨fun p d r s hf => ?_, fun p d a s hf => ?_⟩
  · intro c lo hi fails
    have hfails {code : BitVec 16} (h : ∀ exact_, c.setBounds (s.s r).toNat exact_ = .error code) : fails code :=
      ⟨(boundsCap_of_error hf (h false) : execCSetb .. = _), (boundsCap_of_error hf (h true) : execCSetbx .. = _)⟩
    split_ifs with ht ho hb
    · exact hfails (Cap.setBounds_untagged ht _)
    · exact hfails (Cap.setBounds_sealed (by simpa using ht) ho _)
    · exact hfails (Cap.setBounds_outside (by simpa using ht) (by simpa using ho) hb)
    · intro hlimit
      have ht' : c.tag = true := by simpa using ht
      have ho' : c.otype = 0 := by simpa using ho
      refine ⟨(boundsCap_cases hf ht' ho' hb hlimit).imp_right ?_, (boundsCap_cases hf ht' ho' hb hlimit).imp_right ?_, fun hpos hlen => ?_⟩
      · rintro ⟨x, hx, hexec⟩
        exact ⟨x, hexec, Cap.setBounds_within hx hlimit⟩
      · rintro ⟨x, hx, hexec⟩
        obtain ⟨htag, hotype, haddr, hperms, -⟩ := Cap.setBounds_within hx hlimit
        obtain ⟨-, -, -, -, -, -, hexact⟩ := Cap.setBounds_ok hx hlimit
        exact ⟨x, hexec, htag, hotype, haddr, hperms, hexact rfl⟩
      · have hset (exact_ : Bool) := Cap.setBounds_exact (c := c) (len := (s.s r).toNat) (e := 0) exact_ ht' ho' (by omega) (by omega) hlimit
          (by omega) (by simp) (by simp) (by omega)
        obtain ⟨hok, hbase, htop⟩ := hset false
        exact ⟨_, hbase, htop, by simp [lo], (boundsCap_of_ok hf hok : execCSetb .. = _), (boundsCap_of_ok hf (hset true).1 : execCSetbx .. = _)⟩
  · intro len
    obtain ⟨he, hn, hbefore⟩ := fitLen_spec (l := len) (by unfold topMax; omega)
    generalize hfit : fitWord.fitLen len 50 0 = e at *
    have hpos := Nat.two_pow_pos e
    obtain ⟨hcover, hclose⟩ := roundUp_bounds len hpos
    have hsome : 1 ≤ (len + 2 ^ e - 1) / 2 ^ e := (Nat.one_le_div_iff hpos).mpr (by omega)
    refine ⟨e, (len + 2 ^ e - 1) / 2 ^ e, he, hsome, hn, hcover, hclose, hbefore, ?_, fun c ht ho hgrid hlow hhigh hlimit => ?_⟩
    · have hword : fitWord (s.s a) = BitVec.ofNat 64 ((len + 2 ^ e - 1) / 2 ^ e * 256 + e) := by rw [← hfit]; rfl
      exact hword ▸ (run_done hf rfl : execCFit .. = _)
    · exact ⟨_, Cap.setBounds_exact true ht ho hlow hhigh hlimit (by positivity) (Nat.dvd_of_mod_eq_zero hgrid) (Nat.dvd_mul_left ..)
        (Nat.mul_le_mul_right _ hn)⟩
end

section
/-! PROOFS. Sealing, unsealing and invoking (R104, R105): the checks by the fields of the operands, and the results. -/

namespace Sys2Proof

open Machine

/-- What `c.unseal` leaves of a sealed value: its permissions, GL among them only if the authority has it too (R104). -/
def Cap.unsealedBy (x y : Cap) : Cap :=
  (x.withOtype 0).withPerms (if x.has permGL && !y.has permGL then x.perms &&& ~~~(need [permGL]) else x.perms)

@[simp] theorem Cap.unsealedBy_fields (x y : Cap) : (x.unsealedBy y).tag = x.tag ∧ (x.unsealedBy y).addr = x.addr ∧
    (x.unsealedBy y).otype = 0 ∧ (x.unsealedBy y).expo = x.expo ∧ (x.unsealedBy y).lm = x.lm ∧ (x.unsealedBy y).spare = x.spare ∧
    (x.unsealedBy y).base = x.base ∧ (x.unsealedBy y).top = x.top := by
  simp [Cap.unsealedBy]

theorem Cap.unsealedBy_perms (x y : Cap) {j : Nat} (hj : j < 12) :
    (x.unsealedBy y).perms.getLsbD j = (x.perms.getLsbD j && (j != 5 || y.perms.getLsbD 5)) := by
  have hGL : need [5] = BitVec.twoPow 12 5 := by decide
  simp only [Cap.unsealedBy, Cap.withPerms_fields, Cap.has, permGL, hGL]
  by_cases hj5 : j = 5
  · subst hj5
    cases hx : x.perms.getLsbD 5 <;> cases hy : y.perms.getLsbD 5 <;> simp [-BitVec.getLsbD_eq_getElem, hx]
  · split <;> simp [hj, hj5]

end Sys2Proof

namespace Sys2Proof.Machine

/-! ## The checks -/

theorem sealFault_eq (x y : Cap) : sealFault x y =
    if x.tag = false ∨ y.tag = false then some Code.capTag
    else if x.otype ≠ 0 ∨ y.otype ≠ 0 then some Code.capSeal
    else if y.perms.getLsbD 6 = false then some Code.capPerm
    else if y.addr < y.base ∨ y.top < y.addr + 1 then some Code.capBound
    else if y.addr < 0x100 ∨ 0xFFFF < y.addr then some Code.capType
    else none := by
  simp [sealFault, Cap.sealed, Cap.has, permSEAL]

theorem unsealFault_eq (x y : Cap) : unsealFault x y =
    if x.tag = false ∨ y.tag = false then some Code.capTag
    else if x.otype = 0 ∨ y.otype ≠ 0 then some Code.capSeal
    else if y.perms.getLsbD 7 = false then some Code.capPerm
    else if y.addr < y.base ∨ y.top < y.addr + 1 then some Code.capBound
    else if x.otype.toNat < 0x100 ∨ x.otype.toNat ≠ y.addr then some Code.capType
    else none := by
  simp [unsealFault, Cap.sealed, Cap.has, permUNSEAL]

theorem invokeFault_eq (s : State) (x y : Cap) : s.invokeFault x y =
    if x.tag = false ∨ y.tag = false then some Code.capTag
    else if x.otype = 0 ∨ y.otype = 0 then some Code.capSeal
    else if x.otype ≠ y.otype ∨ x.otype.toNat < 0x100 then some Code.capType
    else if x.perms.getLsbD 10 = false ∨ y.perms.getLsbD 10 = false ∨ x.perms.getLsbD 2 = false ∨ y.perms.getLsbD 2 = true then
      some Code.capPerm
    else if x.addr < x.base ∨ x.top < x.addr + 2 then some Code.capBound
    else if x.addr % 2 = 1 then some Code.memAlign
    else if s.isChainStart x.addr = false then some Code.cslTarget
    else none := by
  have hbound : x.within x.addr 2 = false ↔ x.addr < x.base ∨ x.top < x.addr + 2 := by
    simp only [Cap.within, Bool.and_eq_false_iff, decide_eq_false_iff_not, Nat.not_le]
  simp [State.invokeFault, State.targetFault, Cap.sealed, Cap.has, permINV, permEX, hbound, or_assoc]

/-! ## What results return to, and what they leave -/

/-- A result that returns leaves the capsules, and so the chain starts, as they are. -/
@[simp] theorem State.applyResult_capsules (s : State) (q : Pending) : (s.applyResult q).capsules = s.capsules := by
  unfold State.applyResult
  split <;> simp

@[simp] theorem State.applyAll_capsules (s : State) (l : List Pending) : (s.applyAll l).capsules = s.capsules := by
  induction l generalizing s with
  | nil => rfl
  | cons q qs ih => rw [State.applyAll, ih, State.applyResult_capsules]

@[simp] theorem State.drain_capsules (s : State) : s.drain.capsules = s.capsules := by
  simp [State.drain]

theorem State.isChainStart_drain (s : State) (a : Nat) : s.drain.isChainStart a = s.isChainStart a := by
  simp only [State.isChainStart, State.sectionAt, State.drain_capsules]

/-! ## The chains -/

section
variable {p : Pfx} {d a : BitVec 4} {s : State} (hf : s.free p)
include hf

theorem seal_of_fault {code : BitVec 16} (h : sealFault (s.c d) (s.c a) = some code) :
    execCSeal p d a s = .next (s.raise code (s.c a).addrW) := by
  refine run_trap hf ?_
  simp only [h]

theorem seal_of_pass (h : sealFault (s.c d) (s.c a) = none) :
    execCSeal p d a s = .next ((s.setC d ((s.c d).withOtype (BitVec.ofNat 16 (s.c a).addr))).past p true) := by
  refine run_done hf ?_
  simp only [h]

theorem unseal_of_fault {code : BitVec 16} (h : unsealFault (s.c d) (s.c a) = some code) :
    execCUnseal p d a s = .next (s.raise code (s.c a).addrW) := by
  refine run_trap hf ?_
  simp only [h]

theorem unseal_of_pass (h : unsealFault (s.c d) (s.c a) = none) :
    execCUnseal p d a s = .next ((s.setC d ((s.c d).unsealedBy (s.c a))).past p true) := by
  refine run_done hf ?_
  simp only [h]
  rfl

theorem invoke_of_fault {code : BitVec 16} (h : s.drain.invokeFault (s.drain.c d) (s.drain.c a) = some code) :
    execCInv p d a s = .next (s.drain.raise code (s.drain.c d).addrW) := by
  refine run_trap hf ?_
  simp only [h]

theorem invoke_of_pass (h : s.drain.invokeFault (s.drain.c d) (s.drain.c a) = none) : execCInv p d a s =
    .next ((s.drain.setReg { s.drain.reg.setC 1 ((s.drain.c a).withOtype 0) with pcc := (s.drain.c d).withOtype 0, loops := [] }).moved p) := by
  rw [execCInv, run_free p true s _ hf]
  simp only [h, Res.finish_goto]

end

end Sys2Proof.Machine

open Sys2Proof Sys2Proof.Machine in
/-- Settles O10: each chain raises the first check that its operands fail, and without one leaves what is said of its result. -/
theorem sealingAndInvoking : Obligations.SealingAndInvoking := by
  unfold Obligations.SealingAndInvoking
  intro p d a s hf x y sealTo unsealTo u v invTo
  refine ⟨?_, ?_, ?_⟩
  · have hchecks := sealFault_eq x y
    split_ifs at hchecks ⊢
    iterate 5 exact (seal_of_fault hf hchecks : execCSeal .. = _)
    exact (seal_of_pass hf hchecks : execCSeal .. = _)
  · have hchecks := unsealFault_eq x y
    split_ifs at hchecks ⊢ with htag
    iterate 5 exact (unseal_of_fault hf hchecks : execCUnseal .. = _)
    obtain ⟨ht, -⟩ : x.tag = true ∧ y.tag = true := by simpa using htag
    exact ⟨x.unsealedBy y, (unseal_of_pass hf hchecks : execCUnseal .. = _), by simp [ht], by simp, by simp, by simp, by simp,
      fun j hj => x.unsealedBy_perms y hj⟩
  · have hchecks := invokeFault_eq s.drain u v
    rw [s.isChainStart_drain] at hchecks
    split_ifs at hchecks ⊢
    iterate 7 exact (invoke_of_fault hf hchecks : execCInv .. = _)
    exact (invoke_of_pass hf hchecks : execCInv .. = _)
end

section
/-! PROOFS. No derivation widens (R96, R101 to R104). -/

namespace Sys2Proof

open Machine

theorem Cap.legal.narrowed_derived {c x : Cap} (h : c.legal) {len : Nat} {exact_ : Bool} (hx : c.setBounds len exact_ = .ok x) :
    x.DerivedFrom c := by
  intro _
  obtain ⟨ht, ho, hhigh, hnarrowed, -⟩ := Cap.setBounds_ok hx h.limit
  obtain ⟨-, hotype, haddr, hperms, hbase, hlow, hcover, htop⟩ := Cap.setBounds_within hx h.limit
  obtain ⟨he, hl⟩ := c.narrowed_inRange (hhigh.trans h.limit)
  have hn : x.noMoreThan c := ⟨hbase, htop, by rw [hperms, BitVec.and_self]⟩
  exact ⟨ht, h.narrow hn (haddr ▸ hlow) (by omega) (hnarrowed ▸ he) (hnarrowed ▸ hl) (by simp [hnarrowed]) (by simp [hotype]), hn⟩

/-- Fewer permissions under the same bounds. -/
theorem Cap.legal.withPerms {c : Cap} (h : c.legal) {m : BitVec 12} (hm : m &&& c.perms = m) :
    (c.withPerms m).legal ∧ (c.withPerms m).noMoreThan c := by
  have hn : (c.withPerms m).noMoreThan c := ⟨by simp, by simp, by simpa using hm⟩
  exact ⟨h.narrow hn (by simpa using h.low) (by simpa using h.high) (by simpa using h.exponent) (by simpa using h.length) (by simp)
    (by simpa using h.object), hn⟩

/-- Another type that a capability may have. -/
theorem Cap.legal.withOtype {c : Cap} (h : c.legal) {t : BitVec 16} (ht : t.toNat ≤ 4 ∨ 0x100 ≤ t.toNat) :
    (c.withOtype t).legal ∧ (c.withOtype t).noMoreThan c := by
  have hn : (c.withOtype t).noMoreThan c := Cap.noMoreThan_of_same (by simp) (by simp) (by simp)
  exact ⟨h.narrow hn (by simpa using h.low) (by simpa using h.high) (by simpa using h.exponent) (by simpa using h.length) (by simp)
    (by simpa using ht), hn⟩

theorem Cap.legal.unsealedBy {c : Cap} (h : c.legal) (y : Cap) : (c.unsealedBy y).legal ∧ (c.unsealedBy y).noMoreThan c := by
  have hn : (c.unsealedBy y).noMoreThan c := by
    refine ⟨by simp, by simp, BitVec.eq_of_getLsbD_eq fun j hj => ?_⟩
    rw [BitVec.getLsbD_and, c.unsealedBy_perms y hj, Bool.and_right_comm, Bool.and_self]
  exact ⟨h.narrow hn (by simpa using h.low) (by simpa using h.high) (by simpa using h.exponent) (by simpa using h.length) (by simp)
    (by simp), hn⟩

theorem Cap.legal.andPerms_derived {c : Cap} (h : c.legal) (m : BitVec 12) :
    ((c.withPerms (c.perms &&& m)).withTag (c.tag && !c.sealed)).DerivedFrom c := by
  intro ht
  obtain ⟨hlegal, hn⟩ := h.withPerms (m := c.perms &&& m) (by rw [BitVec.and_comm c.perms m, BitVec.and_assoc, BitVec.and_self])
  exact ⟨by simp at ht; exact ht.1, hlegal.withTag _, by simpa [Cap.noMoreThan] using hn⟩

end Sys2Proof

open Sys2Proof Sys2Proof.Machine in
/-- Settles O11: a derived address keeps the bounds, a narrowed range lies within them, and seals and permissions leave them alone. -/
theorem derivationsNeverWiden : Obligations.DerivationsNeverWiden := by
  unfold Obligations.DerivationsNeverWiden
  intro p d a r i s hf hlegal kept
  have derived {f : Cap → Cap} (h : (f (s.c d)).DerivedFrom (s.c d)) : kept (deriveCap p d s f) := ⟨_, deriveCap_gives hf rfl, h⟩
  have bounds (exact_ : Bool) : kept (boundsCap p d r exact_ s) ∨ ∃ code, boundsCap p d r exact_ s = .next (s.raise code (s.c d).addrW) := by
    cases hset : (s.c d).setBounds (s.s r).toNat exact_ with
    | error code => exact .inr ⟨code, boundsCap_of_error hf hset⟩
    | ok x => exact .inl ⟨x, boundsCap_of_ok hf hset, hlegal.narrowed_derived hset⟩
  refine ⟨(derived (hlegal.derive_derived _) : kept (execCAdd ..)), (derived (hlegal.derive_derived _) : kept (execCAddi ..)),
    (derived (hlegal.derive_derived _) : kept (execCSetaddr ..)), (derived (hlegal.derive_derived _) : kept (execCSnap ..)),
    (derived (hlegal.andPerms_derived _) : kept (execCAndp ..)), bounds false, bounds true, ?_, ?_⟩
  · have hchecks := sealFault_eq (s.c d) (s.c a)
    split_ifs at hchecks with htag _ _ _ htype
    iterate 5 exact .inr ⟨_, (seal_of_fault hf hchecks : execCSeal .. = _)⟩
    have ht : (s.c d).tag = true := by simpa using (not_or.mp htag).1
    have htype' : (BitVec.ofNat 16 (s.c a).addr).toNat = (s.c a).addr := Nat.mod_eq_of_lt (by omega)
    obtain ⟨hl, hn⟩ := hlegal.withOtype (t := BitVec.ofNat 16 (s.c a).addr) (by omega)
    exact .inl ⟨_, (seal_of_pass hf hchecks : execCSeal .. = _), ht, hl, hn, by simp only [Cap.withOtype_fields]; omega, by simpa using htype'⟩
  · cases hchecks : unsealFault (s.c d) (s.c a) with
    | some code => exact .inr ⟨code, (unseal_of_fault hf hchecks : execCUnseal .. = _)⟩
    | none => exact .inl ⟨_, (unseal_of_pass hf hchecks : execCUnseal .. = _), fun ht => ⟨by simpa using ht, hlegal.unsealedBy _⟩⟩
end

section
/-! PROOFS. Faults, returns from traps and `brk` (R264 to R267, R278, R287). -/

namespace Sys2Proof.Machine

/-! ## Outstanding results that return (R50, R112) -/

/-- A decode table that returns leaves the fault registers as they are. -/
theorem State.setTctx_install_fault (s : State) (t : List (BitVec 19)) (stamp : Nat) :
    (s.setTctx (s.tctx.install t stamp)).reg.fcode = s.reg.fcode ∧ (s.setTctx (s.tctx.install t stamp)).reg.taddr = s.reg.taddr := by
  cases hk : s.cur.set with
  | keeper => simp [State.reg, hk, State.setTctx, State.setTctxOf]
  | normal | urgent =>
    simp only [State.reg, State.setTctx_cur, hk, State.tctx_setTctx]
    exact ⟨rfl, rfl⟩

/-- So does any result: it goes to one register, or is a table. -/
theorem State.applyResult_fault (s : State) (q : Pending) :
    (s.applyResult q).reg.fcode = s.reg.fcode ∧ (s.applyResult q).reg.taddr = s.reg.taddr := by
  unfold State.applyResult
  cases q.res with
  | table t => exact s.setTctx_install_fault t q.stamp
  | s | c | v | k => simp [RegSet.apply]

theorem State.applyAll_fault (s : State) (l : List Pending) :
    (s.applyAll l).reg.fcode = s.reg.fcode ∧ (s.applyAll l).reg.taddr = s.reg.taddr := by
  induction l generalizing s with
  | nil => exact ⟨rfl, rfl⟩
  | cons q qs ih =>
    obtain ⟨hcode, hta⟩ := s.applyResult_fault q
    obtain ⟨hcode', hta'⟩ := ih (s.applyResult q)
    exact ⟨hcode'.trans hcode, hta'.trans hta⟩

@[simp] theorem State.drain_fault (s : State) : s.drain.reg.fcode = s.reg.fcode ∧ s.drain.reg.taddr = s.reg.taddr := by
  simpa [State.drain] using s.applyAll_fault s.reg.pending

/-- After the wait nothing is outstanding. -/
@[simp] theorem State.drain_settled (s : State) : s.drain.reg.pending = [] ∧ s.drain.reg.parked = false := by
  simp [State.drain]

/-! ## Faults (R265, R267) -/

/-- The state in which a fault finds the set: the fault in its registers, and nothing outstanding. -/
def State.faulted (s : State) (code : BitVec 16) (ta : Word) : State := (s.setReg { s.reg with fcode := code, taddr := ta }).drain

theorem State.faulted_reg (s : State) (code : BitVec 16) (ta : Word) :
    (s.faulted code ta).reg.fcode = code ∧ (s.faulted code ta).reg.taddr = ta ∧ (s.faulted code ta).reg.pending = [] := by
  simp [State.faulted]

theorem State.raise_of_trap {s : State} {code : BitVec 16} {ta : Word} (hin : (s.faulted code ta).reg.inTrap = false)
    (htvec : (s.faulted code ta).tvec.tag = true) : s.raise code ta = (s.faulted code ta).setReg { (s.faulted code ta).reg with
      epcc := (s.faulted code ta).reg.pcc, savedLoops := (s.faulted code ta).reg.loops, loops := [], inTrap := true, waiting := false
      pcc := (s.faulted code ta).tvec.withOtype 0 } := by
  unfold State.faulted at *
  simp [State.raise, hin, htvec]

theorem State.raise_of_terminal {s : State} {code : BitVec 16} {ta : Word}
    (h : (s.faulted code ta).reg.inTrap = true ∨ (s.faulted code ta).tvec.tag = false) :
    s.raise code ta = (s.faulted code ta).terminal code := by
  unfold State.faulted at *
  rcases h with h | h <;> simp [State.raise, h]

theorem State.terminal_of_firing {s : State} {code : BitVec 16} {f : Firing} (h : s.reg.fir = some f) :
    s.terminal code = s.setReg { s.reg with fir := some { f with term := some code }, waiting := false } := by
  simp only [State.terminal, h]

theorem State.terminal_of_none {s : State} {code : BitVec 16} (h : s.reg.fir = none) :
    s.terminal code = s.setReg { s.reg with pcc := Cap.null, waiting := false } := by
  simp only [State.terminal, h]

theorem State.raise_cases (s : State) (code : BitVec 16) (ta : Word) :
    ((s.faulted code ta).reg.inTrap = false ∧ (s.faulted code ta).tvec.tag = true) ∨
      ((s.faulted code ta).reg.inTrap = true ∨ (s.faulted code ta).tvec.tag = false) := by
  cases (s.faulted code ta).reg.inTrap <;> cases (s.faulted code ta).tvec.tag <;> simp

/-- A fault leaves its code and address in the registers, and nothing outstanding. -/
theorem State.raise_reg (s : State) (code : BitVec 16) (ta : Word) :
    (s.raise code ta).reg.pending = [] ∧ (s.raise code ta).reg.fcode = code ∧ (s.raise code ta).reg.taddr = ta := by
  obtain ⟨hcode, hta, hpending⟩ := s.faulted_reg code ta
  rcases s.raise_cases code ta with ⟨hin, htvec⟩ | h
  · simp [State.raise_of_trap hin htvec, hcode, hta, hpending]
  · rw [State.raise_of_terminal h, State.terminal]
    split <;> simp [hcode, hta, hpending]

/-! ## Returns (R266) -/

/-- A set in which nothing is outstanding or waits is as it was once its chain has moved control. -/
theorem State.moved_of_settled {s : State} {r : RegSet} (p : Pfx) (hp : r.pending = []) (hw : r.waiting = false) (hk : r.parked = false) :
    (s.setReg r).moved p = s.setReg r := by
  have hr : { r with waiting := false, parked := p.settle && !r.pending.isEmpty } = r := by
    cases r
    simp_all
  rw [State.moved, State.reg_setReg, State.setReg_setReg, hr]

/-- The registers that a return finds: control at the trapped chain, under the loops saved there. -/
def RegSet.returned (r : RegSet) : RegSet := { r with loops := r.savedLoops, inTrap := false, pcc := r.epcc, waiting := false }

@[simp] theorem RegSet.fallThrough_status (r : RegSet) (len : Nat) :
    (r.fallThrough len).waiting = r.waiting ∧ (r.fallThrough len).parked = r.parked := by
  rw [RegSet.fallThrough_eq]
  exact ⟨rfl, rfl⟩

section
variable {p : Pfx} {s : State} (hf : s.free p)
include hf

theorem tret_of_trap (h : s.reg.inTrap = true) : execTret p s = .next (s.drain.setReg s.drain.reg.returned) := by
  rw [execTret, run_free p true s _ hf, if_pos h, Res.finish_goto]
  exact congrArg _ (State.moved_of_settled p (s := s.drain) (r := s.drain.reg.returned) (by simp [RegSet.returned]) rfl
    (by simp [RegSet.returned]))

theorem tretSkip_of_trap (h : s.reg.inTrap = true) : execTretSkip p s = .next (s.drain.setReg
    (RegSet.fallThrough { s.drain.reg.returned with rcnt := { done := 0, remain := 0 } } (s.chainLen s.reg.epcc.addr))) := by
  rw [execTretSkip, run_free p true s _ hf, if_pos h, Res.finish_goto]
  exact congrArg _ (State.moved_of_settled p (s := s.drain) (by simp) (by simp) (by simp))

/-- Outside a trap neither return has anything to return to. -/
theorem returns_outside_trap (h : s.reg.inTrap = false) :
    execTret p s = .next (s.raise Code.kprState 0) ∧ execTretSkip p s = .next (s.raise Code.kprState 0) := by
  exact ⟨run_trap hf (by simp [h]), run_trap hf (by simp [h])⟩

end

/-! ## `brk` (R278) -/

/-- The set stopped at a `brk` with its number, and Halo awake. -/
def State.stoppedAt (s : State) (n : Word) : State :=
  (s.setReg { s.reg with taddr := n, debugStop := true, brkPassed := true, waiting := false }).wake s.cur.tile

@[simp] theorem State.stoppedAt_reg (s : State) (n : Word) :
    (s.stoppedAt n).reg = { s.reg with taddr := n, debugStop := true, brkPassed := true, waiting := false } := by
  have h := State.reg_wake (s.setReg { s.reg with taddr := n, debugStop := true, brkPassed := true, waiting := false })
  rwa [State.setReg_cur, State.reg_setReg] at h

@[simp] theorem State.stoppedAt_cur (s : State) (n : Word) : (s.stoppedAt n).cur = s.cur := by
  simp [State.stoppedAt, State.wake]

/-- A live set that Contrail's stop holds issues nothing. -/
theorem State.canIssue_of_stopped {s : State} (hk : s.cur.set ≠ .keeper) (h : s.reg.debugStop = true) : s.canIssue s.cur = false := by
  have hr := s.regOf_cur
  unfold State.canIssue
  cases hl : (s.tile s.cur.tile).loaded with
  | none => cases hs : s.cur.set <;> simp_all
  | some c =>
    have hreg := hr (.inr (by simp [hl]))
    have hactive : (s.regOf s.cur.tile s.cur.set).active = false := by simp [hreg, RegSet.active, h]
    cases hs : s.cur.set with
    | keeper => exact absurd hs hk
    | normal | urgent =>
      rw [hs] at hactive
      simp [hactive]

/-- What is done on the issuing set is done in the state itself. -/
theorem State.onSet_cur {s : State} {f : State → State} (h : (f s).cur = s.cur) : s.onSet s.cur.tile s.cur.set f = f s := by
  change { f s with cur := s.cur } = f s
  rw [← h]

/-- Contrail's release of a set stopped at a `brk` takes it past the chain. -/
theorem contrailRelease_of_brk {s : State} (hd : s.reg.debugStop = true) (hb : s.reg.brkPassed = true) :
    execContrailRelease s.cur.tile s.cur.set s = .next (s.setReg { s.reg.fallThrough (s.chainLen s.reg.pcc.addr) with
      debugStop := false, brkPassed := false, rcnt := { done := 0, remain := 0 } }) := by
  rw [execContrailRelease, State.onSet_cur] <;> simp [hd, hb, RepCnt.zero]

end Sys2Proof.Machine

open Sys2Proof Sys2Proof.Machine in
/-- Settles O54: a fault by where it finds the set; a return by what it finds saved; `brk` by whether Contrail holds the context. -/
theorem trapEntryAndReturn : Obligations.TrapEntryAndReturn := by
  unfold Obligations.TrapEntryAndReturn
  refine ⟨fun s i j h w m x v l bs n => ⟨rfl, rfl, rfl, rfl, rfl⟩, fun s => ⟨rfl, fun q qs => rfl, rfl⟩, fun s code ta => ?_,
    fun s p hf => ⟨returns_outside_trap hf, fun h => ?_⟩, fun s p i hf => ⟨fun h => ?_, fun hd hk => ?_⟩⟩
  · obtain ⟨hpending, hcode, hta⟩ := s.raise_reg code ta
    refine ⟨fun hin htvec => State.raise_of_trap hin htvec, fun f hfir h => ?_, fun hfir h => ?_, hpending, hcode, hta, by simp⟩
    · exact (State.raise_of_terminal h).trans (State.terminal_of_firing hfir)
    · exact (State.raise_of_terminal h).trans (State.terminal_of_none hfir)
  · refine ⟨(tret_of_trap hf h : execTret .. = _), fun n sec i rest hsec hdec => ?_⟩
    have hlen : s.chainLen s.reg.epcc.addr = 2 * (sec.code.length - portable s.reg.epcc.addr / 2 - rest.length) := by
      simp [State.chainLen, hsec, hdec]
    exact hlen ▸ (tretSkip_of_trap hf h : execTretSkip .. = _)
  · refine (run_trap hf ?_ : execBrk .. = _)
    rcases h with h | h <;> simp [h, Pfx.number]
  · refine ⟨s.stoppedAt (BitVec.ofNat 64 (p.immI i).toNat), ?_, by simp [State.stoppedAt], by simp, by simp, by simp, ?_, by simp, ?_, ?_⟩
    · refine (run_free p true s _ hf : execBrk .. = _).trans ?_
      simp [hd, hk, Pfx.number, State.stoppedAt]
    · simp [State.stoppedAt, State.wake]
    · exact State.canIssue_of_stopped (by simpa using hk) (by simp)
    · have h := contrailRelease_of_brk (s := s.stoppedAt (BitVec.ofNat 64 (p.immI i).toNat)) (by simp) (by simp)
      rwa [State.stoppedAt_cur] at h
end

section
/-! PROOFS. Scalar accesses that fail their checks (R107, R124), and capability loads and stores (R109 to R112, R121). -/

namespace Sys2Proof.Machine

/-! ## Accesses that fail -/

@[simp] theorem atSpot_bad (p : Pfx) (code : BitVec 16) (ta : Nat) (write tag : Bool) (s : State) (body : Spot → State → Res) :
    atSpot p (.bad code ta) write tag s body = .trap s code (BitVec.ofNat 64 ta) := rfl

section
variable {p : Pfx} {d : BitVec 5} {m : MemOp} {s : State} {k n width ta : Nat} {code : BitVec 16} (h : s.onElement p 32 d 32 0 k n)
include h

theorem loadScalar_of_bad {f : Nat → Word} (hl : s.look (s.scalarAccess p m width k [permLD] .load) none = .bad code ta) :
    loadScalar p d m width s f = .next (s.raiseElement p k n code (BitVec.ofNat 64 ta)) :=
  runRep_trap p true 32 d 32 0 s _ k n h s code _ (by rw [hl, atSpot_bad])

theorem storeScalar_of_bad {use : Use} (hl : s.look (s.scalarAccess p m width k [permST] use) none = .bad code ta) :
    storeScalar p d m width use s = .next (s.raiseElement p k n code (BitVec.ofNat 64 ta)) :=
  runRep_trap p true 32 d 32 0 s _ k n h s code _ (by simp only [hl, atSpot_bad])

end

/-! ## Reads and writes at a spot -/

theorem readAt_of_clean {sp : Spot} {n : Nat} {s : State} (body : List Byte → State → Res) (h : s.readsClean sp n) :
    readAt sp n s body = body (s.readSpot sp n) (s.noteReads (s.linesRead sp)) :=
  consume_of_clean _ h

/-- Bytes read back: the number, as far as they reach. -/
theorem ofBytes_toBytes (n x : Nat) : ofBytes (toBytes n x) = x % 256 ^ n := by
  induction n generalizing x with
  | zero => simp [toBytes, ofBytes, Nat.mod_one]
  | succ n ih => simp [toBytes, ofBytes, ih, Nat.pow_succ', Nat.mod_mul]

/-- A capability read back from its bytes. -/
theorem capOfBytes_toBytes (c : Cap) : Cap.ofBytes c.tag (ofBytes (toBytes 16 c.bits.toNat)) = c := by
  have hbits : BitVec.ofNat 128 (ofBytes (toBytes 16 c.bits.toNat)) = c.bits := by
    rw [ofBytes_toBytes, Nat.mod_eq_of_lt (by simpa using c.bits.isLt), BitVec.ofNat_toNat, BitVec.setWidth_eq]
  simp only [Cap.ofBytes, hbits]

/-! ## The revocation filter (R112) -/

@[simp] theorem keysMem_eq_true (l : List Nat) (n : Nat) : Keys.mem l n = true ↔ n ∈ l := by
  induction l with
  | nil => simp [Keys.mem]
  | cons k ks ih => simp [Keys.mem, ih]

/-- The granule of a base is that of its HBM address, or the anchor of its capsule's slot. -/
theorem State.baseGranule_eq_some (s : State) (info : RegInfo) (c : Cap) (g : Nat) : s.baseGranule info c = some g ↔
    (c.base < codeBase ∧ ∃ e pa level, s.walk info c.base = .leaf e pa level ∧ peHost e = false ∧ pa - pa % 16 = g) ∨
      (codeBase ≤ c.base ∧ c.base < 2 ^ 48 ∧ keyAnchor ((c.base - codeBase) / 2 ^ 32) = g) := by
  have hcode : codeBase < 2 ^ 48 := by decide
  unfold State.baseGranule
  by_cases hlow : c.base < codeBase
  · rw [if_pos (by omega), if_neg (by omega)]
    cases hwalk : s.walk info c.base with
    | leaf e pa level => cases hhost : peHost e <;> simp [hlow, hhost, Nat.not_le.mpr hlow]
    | _ => simp [Nat.not_le.mpr hlow]
  · have hle : codeBase ≤ c.base := Nat.le_of_not_lt hlow
    simp [hlow, hle]

/-- The granule by which a capability is revoked is painted. -/
def State.revokes (s : State) (c : Cap) : Prop := ∃ g, s.baseGranule (s.info s.ctxn) c = some g ∧ g ∈ s.painted

theorem State.revokes_iff (s : State) (c : Cap) : s.revokes c ↔
    (c.base < codeBase ∧ ∃ e pa level, s.walk (s.info s.ctxn) c.base = .leaf e pa level ∧ peHost e = false ∧
      pa - pa % 16 ∈ s.painted) ∨
    (codeBase ≤ c.base ∧ c.base < 2 ^ 48 ∧ keyAnchor ((c.base - codeBase) / 2 ^ 32) ∈ s.painted) := by
  simp only [State.revokes, State.baseGranule_eq_some]
  constructor
  · rintro ⟨g, ⟨hlow, e, pa, level, hwalk, hhost, rfl⟩ | ⟨hle, hhigh, rfl⟩, hg⟩
    · exact .inl ⟨hlow, e, pa, level, hwalk, hhost, hg⟩
    · exact .inr ⟨hle, hhigh, hg⟩
  · rintro (⟨hlow, e, pa, level, hwalk, hhost, hg⟩ | ⟨hle, hhigh, hg⟩)
    · exact ⟨_, .inl ⟨hlow, e, pa, level, hwalk, hhost, rfl⟩, hg⟩
    · exact ⟨_, .inr ⟨hle, hhigh, rfl⟩, hg⟩

/-- The filter keeps the bits, and the tag of what is not revoked. -/
theorem State.filterCap_spec (s : State) (c : Cap) :
    (s.filterCap s.ctxn c).bits = c.bits ∧ ((s.filterCap s.ctxn c).tag = true ↔ c.tag = true ∧ ¬ s.revokes c) := by
  unfold State.filterCap State.revokes
  split
  case isTrue h =>
    refine ⟨rfl, ?_⟩
    rcases (Bool.or_eq_true _ _).mp h with htag | hempty
    · simp_all
    · simp [List.isEmpty_iff.mp hempty]
  case isFalse h =>
    cases hg : s.baseGranule (s.info s.ctxn) c with
    | none => simp
    | some g => by_cases hmem : g ∈ s.painted <;> simp [hmem, Cap.withTag]

/-! ## A capability on its way into its register -/

theorem State.applyResult_cap (s : State) {d : BitVec 4} (hd : d ≠ 0) (x : Cap) (banks : List Nat) (stamp : Nat) :
    (s.applyResult { res := .c d x, banks := banks, stamp := stamp }).c d = s.filterCap s.ctxn x :=
  s.c_setC_same hd _

theorem State.drain_of_single {s : State} {q : Pending} (h : s.reg.pending = [q]) (d : BitVec 4) :
    s.drain.c d = (s.applyResult q).c d := by
  simp only [State.drain, h, State.applyAll, State.c, State.reg_setReg]
  rfl

/-! ## The bytes and the tag at a spot -/

theorem writeAt_of_local {sp : Spot} {q : Piece} (hspace : sp.space ≠ .global) (hpieces : sp.pieces = [q]) (bs : List Byte) (tag : Bool)
    (s : State) (body : State → Res) : writeAt sp bs tag s body =
      body (if tag then s.writeLocalCap q.key (Cap.ofBytes true (ofBytes bs)) else s.writeBytes s.keyId q.key bs) := by
  rw [writeAt]
  cases hsp : sp.space with
  | global => exact absurd hsp hspace
  | _ => cases tag <;> simp [hpieces]

theorem writeAt_of_global {sp : Spot} (hspace : sp.space = .global) (bs : List Byte) (tag : Bool) (s : State) (body : State → Res) :
    writeAt sp bs tag s body = act s (storesOf sp.pieces bs tag) body := by
  rw [writeAt, hspace]

end Sys2Proof.Machine

open Sys2Proof Sys2Proof.Machine in
/-- Settles O15: loads and stores are two shapes of one access, which goes no further than its look. -/
theorem failedAccessesRaise : Obligations.FailedAccessesRaise := by
  unfold Obligations.FailedAccessesRaise
  intro p d m s k n h fails
  exact ⟨fun code ta hl => (loadScalar_of_bad h hl : execLdB .. = _), fun code ta hl => (loadScalar_of_bad h hl : execLdBz .. = _),
    fun code ta hl => (loadScalar_of_bad h hl : execLdH .. = _), fun code ta hl => (loadScalar_of_bad h hl : execLdHz .. = _),
    fun code ta hl => (loadScalar_of_bad h hl : execLdW .. = _), fun code ta hl => (loadScalar_of_bad h hl : execLdWz .. = _),
    fun code ta hl => (loadScalar_of_bad h hl : execLdD .. = _), fun code ta hl => (storeScalar_of_bad h hl : execStB .. = _),
    fun code ta hl => (storeScalar_of_bad h hl : execStH .. = _), fun code ta hl => (storeScalar_of_bad h hl : execStW .. = _),
    fun code ta hl => (storeScalar_of_bad h hl : execStD .. = _)⟩

namespace Sys2Proof.Machine

section
variable {p : Pfx} {d : BitVec 4} {m : MemOp} {s : State} {sp : Spot} (hf : s.free p)
include hf

theorem capLoad_done (hl : s.look (Access.at (s.c m.cap) (s.effective p m 0) 16 (need [permLD]) 16 .capLoad p.scope) none = .ok sp)
    (hclean : (s.reach p sp.globals).readsClean sp 16) : execCLd p d m s =
      let t := s.reach p sp.globals
      let u := t.noteReads (t.linesRead sp)
      .next ((u.pend (.c d (Cap.ofBytes (t.tagSeen sp && (s.c m.cap).has permLDC) (ofBytes (t.readSpot sp 16))))
        (sp.banks u.cur.tile 16)).past p true) :=
  run_done hf (by simp only [hl, atSpot_ok, readAt_of_clean _ hclean])

variable (hl : s.look { Access.at (s.c m.cap) (s.effective p m 0) 16 (need (if (s.c d).tag then [permST, permSTC] else [permST])) 16
      .capStore p.scope with cap := some (s.c d) } none = .ok sp)
  (hrel : (s.reach p sp.globals).releasesNow p (sp.space != .global) (sp.space == .global)) {q : Piece} (hpieces : sp.pieces = [q])
include hl hrel hpieces

theorem capStore_local (hspace : sp.space ≠ .global) : execCSt p d m s =
    let t := s.reach p sp.globals
    .next ((if (s.c d).tag then t.writeLocalCap q.key (s.c d)
      else t.writeBytes t.keyId q.key (toBytes 16 (s.c d).bits.toNat)).past p true) := by
  refine run_done hf ?_
  simp only [hl, atSpot_ok, afterRelease_of_releasesNow _ hrel, writeAt_of_local hspace hpieces]
  cases htag : (s.c d).tag with
  | false => rfl
  | true => rw [if_pos rfl, if_pos rfl, ← htag, capOfBytes_toBytes]

theorem capStore_global {f : Firing} (hspace : sp.space = .global) (hfir : (s.reach p sp.globals).fir = some f) (hspec : f.pinned = false)
    (hfit : (s.reach p sp.globals).fits (storesOf [q] (toBytes 16 (s.c d).bits.toNat) (s.c d).tag) = true) : execCSt p d m s =
    let as := storesOf [q] (toBytes 16 (s.c d).bits.toNat) (s.c d).tag
    .next ((((s.reach p sp.globals).cleanseLines f.serial as).setFir { f with actions := f.actions ++ as }).past p true) := by
  refine run_done hf ?_
  simp only [hl, atSpot_ok, afterRelease_of_releasesNow _ hrel, writeAt_of_global hspace, hpieces]
  exact act_of_speculative _ hfir hspec hfit

end

theorem capOfBytes_and (t : Bool) (c : Cap) (n : Nat) : Cap.ofBytes (t && c.has permLDC) n =
    { tag := decide (t = true ∧ c.perms.getLsbD 3 = true), bits := BitVec.ofNat 128 n } := by
  simp only [Cap.ofBytes, Cap.has, permLDC, Bool.decide_and, Bool.decide_eq_true]

/-- A store of a tagged value needs STC besides ST (R109). -/
theorem need_capStore (tag : Bool) :
    BitVec.ofNat 12 (if tag then 2 ^ 1 + 2 ^ 4 else 2 ^ 1) = need (if tag then [permST, permSTC] else [permST]) := by
  cases tag <;> rfl

end Sys2Proof.Machine

open Sys2Proof Sys2Proof.Machine in
/-- Settles O18: one chain for the load and one for the store; between the two the filter, which decides the tag at the register. -/
theorem capabilityLoadsAndStores : Obligations.CapabilityLoadsAndStores := by
  unfold Obligations.CapabilityLoadsAndStores
  intro p d m s sp hf c y t u loads stores stored
  refine ⟨fun hl hclean => ?_, ?_, fun hl hrel q hpieces => ?_⟩
  · have hload : execCLd p d m s = _ := capLoad_done hf hl hclean
    simp only [capOfBytes_and] at hload
    exact hload
  · intro w x y banks stamp hd q revoked hy
    have hval : y = w.filterCap w.ctxn x := by
      rcases hy with hy | ⟨hpending, hy⟩
      · exact hy.trans (w.applyResult_cap hd x banks stamp)
      · exact hy.trans ((State.drain_of_single hpending d).trans (w.applyResult_cap hd x banks stamp))
    obtain ⟨hbits, htag⟩ := w.filterCap_spec x
    rw [State.revokes_iff] at htag
    exact hval ▸ ⟨hbits, htag⟩
  · have hl' := hl
    simp only [stores, need_capStore] at hl'
    exact ⟨fun hspace => (capStore_local hf hl' hrel hpieces hspace : execCSt p d m s = _),
      fun f hspace hfir hspec hfit => (capStore_global hf hl' hrel hpieces hspace hfir hspec hfit : execCSt p d m s = _)⟩
end

section
/-! PROOFS. What an access that reaches its memory leaves unchanged (R212, R329): leases begin and held updates merge, and the issuing
unit and its registers stay. -/

namespace Sys2Proof.Machine

/-- What merging held updates leaves: the issuing unit, and what is loaded on each tile with its registers. -/
def State.issuing (s : State) : Unit_ × (Nat → Option Nat × Map TileCtx × RegSet) :=
  (s.cur, fun n => ((s.tile n).loaded, (s.tile n).ctxs, (s.tile n).keeper))

theorem State.foldl_issuing {α : Type} (f : State → α → State) (l : List α) (s : State)
    (h : ∀ t a, (f t a).issuing = t.issuing) : (l.foldl f s).issuing = s.issuing := by
  induction l generalizing s with
  | nil => rfl
  | cons a l ih => rw [List.foldl_cons, ih, h]

theorem State.foldl_cur {α : Type} (f : State → α → State) (l : List α) (s : State)
    (h : ∀ t a, (f t a).cur = t.cur) : (l.foldl f s).cur = s.cur := by
  induction l generalizing s with
  | nil => rfl
  | cons a l ih => rw [List.foldl_cons, ih, h]

theorem State.rekeyLine_cur (s : State) (key line : Nat) : (s.rekeyLine key line).cur = s.cur := by
  simp [State.rekeyLine, apply_ite State.cur]

@[simp] theorem State.writeBytes_cur (s : State) (key a : Nat) (bs : List Byte) : (s.writeBytes key a bs).cur = s.cur := by
  have hrekey : (s.rekey key a bs.length).cur = s.cur := by
    unfold State.rekey
    split
    · exact State.foldl_cur _ _ s (fun t l => t.rekeyLine_cur key (l / 64))
    · rfl
  unfold State.writeBytes State.putBytes State.cleanse
  split
  · rfl
  · simp only [apply_ite State.cur, ite_self, hrekey]

@[simp] theorem State.writeBytes_issuing (s : State) (key a : Nat) (bs : List Byte) : (s.writeBytes key a bs).issuing = s.issuing := by
  have htile := State.tile_eq_of_units (s.writeBytes_units key a bs)
  simp only [State.issuing, State.writeBytes_cur, htile]

theorem State.setUpdates_issuing (s : State) (n : Nat) (l : List (Nat × Nat × Nat × Word)) :
    (s.setTile n { s.tile n with updates := l }).issuing = s.issuing := by
  refine Prod.ext rfl (funext fun j => ?_)
  by_cases hj : j = n
  · subst hj
    simp only [State.issuing, State.tile_setTile]
  · simp only [State.issuing, State.tile_setTile_other _ _ _ _ hj]

@[simp] theorem State.mergeTile_issuing (s : State) (n : Nat) (line : Option Nat) : (s.mergeTile n line).issuing = s.issuing := by
  unfold State.mergeTile
  dsimp only
  split
  · rfl
  · exact (State.foldl_issuing _ _ _ (fun t u => t.writeBytes_issuing _ _ _)).trans (s.setUpdates_issuing n _)

@[simp] theorem State.mergeRanges_issuing (s : State) (rs : List (Nat × Nat)) : (s.mergeRanges rs).issuing = s.issuing := by
  unfold State.mergeRanges
  dsimp only
  split
  · rfl
  · exact State.foldl_issuing _ _ s (fun t a => State.foldl_issuing _ _ t (fun u n => u.mergeTile_issuing n _))

@[simp] theorem State.mergeOrdered_issuing (s : State) (p : Pfx) (global : Bool) : (s.mergeOrdered p global).issuing = s.issuing := by
  unfold State.mergeOrdered
  split <;> simp

theorem State.addLease_issuing (s : State) (asid va e : Nat) (block : Bool) : (s.addLease asid va e block).issuing = s.issuing := by
  unfold State.addLease
  split <;> rfl

@[simp] theorem State.leaseAll_issuing (s : State) (info : RegInfo) (ps : List Piece) : (s.leaseAll info ps).issuing = s.issuing := by
  refine State.foldl_issuing _ ps s (fun t q => ?_)
  split
  · exact t.addLease_issuing _ _ _ _
  · rfl

@[simp] theorem State.reach_issuing (s : State) (p : Pfx) (ps : List Piece) : (s.reach p ps).issuing = s.issuing := by
  simp [State.reach]

theorem State.registers_of_issuing {s t : State} (h : t.issuing = s.issuing) : t.cur = s.cur ∧ t.reg = s.reg := by
  have hcur : t.cur = s.cur := congrArg Prod.fst h
  have htile (n : Nat) := congrFun (congrArg Prod.snd h) n
  have hloaded (n : Nat) : (t.tile n).loaded = (s.tile n).loaded := congrArg (·.1) (htile n)
  have hctxs (n : Nat) : (t.tile n).ctxs = (s.tile n).ctxs := congrArg (·.2.1) (htile n)
  have hkeeper (n : Nat) : (t.tile n).keeper = (s.tile n).keeper := congrArg (·.2.2) (htile n)
  have hctxn : t.ctxn = s.ctxn := by rw [State.ctxn, State.ctxn, hcur, hloaded]
  have htctx : t.tctx = s.tctx := by
    simp only [State.tctx, State.tctxOf, Tile.tctx, hcur, hctxn, hctxs]
  exact ⟨hcur, by simp only [State.reg, hcur, hkeeper, htctx]⟩

@[simp] theorem State.reach_cur (s : State) (p : Pfx) (ps : List Piece) : (s.reach p ps).cur = s.cur :=
  (State.registers_of_issuing (s.reach_issuing p ps)).1

@[simp] theorem State.reach_reg (s : State) (p : Pfx) (ps : List Piece) : (s.reach p ps).reg = s.reg :=
  (State.registers_of_issuing (s.reach_issuing p ps)).2

@[simp] theorem State.reach_k (s : State) (p : Pfx) (ps : List Piece) (i : BitVec 3) : (s.reach p ps).k i = s.k i := by
  simp [State.k]

@[simp] theorem State.reach_v (s : State) (p : Pfx) (ps : List Piece) (i : BitVec 5) : (s.reach p ps).v i = s.v i := by
  simp [State.v]

end Sys2Proof.Machine
end

section
/-! PROOFS. Gathers and scatters (R108, R129): the lanes that pass, and what is performed once their spots are known. -/

namespace Sys2Proof.Machine

/-! ## Sets of lanes -/

theorem getLsbD_ofNat_two_pow {w : Nat} (i : Nat) {j : Nat} (hj : j < w) : (BitVec.ofNat w (2 ^ i)).getLsbD j = decide (j = i) := by
  rw [BitVec.getLsbD_ofNat, Nat.testBit_two_pow]
  simp [hj, eq_comm]

theorem laneMask_foldl_getLsbD (l : List Nat) (w : Word) {j : Nat} (hj : j < 64) :
    (l.foldl (fun w i => w ||| BitVec.ofNat 64 (2 ^ i)) w).getLsbD j = (w.getLsbD j || l.contains j) := by
  induction l generalizing w with
  | nil => simp
  | cons i l ih =>
    rw [List.foldl_cons, ih]
    rw [BitVec.getLsbD_or, getLsbD_ofNat_two_pow i hj, List.contains_cons, Bool.or_assoc]
    rfl

theorem laneMask_getLsbD (l : List Nat) {j : Nat} (hj : j < 64) : (laneMask l).getLsbD j = l.contains j := by
  exact (laneMask_foldl_getLsbD l 0 hj).trans (by simp)

theorem mem_activeLanes {m : Word} {j : Nat} : j ∈ activeLanes m ↔ j < 64 ∧ m.getLsbD j = true := by
  simp [activeLanes, lanes64]

/-- A set of lanes is the one word that has their bits. -/
theorem laneMask_eq {l : List Nat} {w : Word} (h : ∀ j, j < 64 → (w.getLsbD j = true ↔ j ∈ l)) : laneMask l = w := by
  refine BitVec.eq_of_getLsbD_eq fun j hj => ?_
  rw [laneMask_getLsbD l hj, Bool.eq_iff_iff, h j hj, List.contains_iff_mem]

theorem eq_nil_of_laneMask_eq_zero {l : List Nat} (hl : ∀ j ∈ l, j < 64) (h : laneMask l = 0) : l = [] := by
  refine List.eq_nil_iff_forall_not_mem.mpr fun j hj => ?_
  have hbit := laneMask_getLsbD l (hl j hj)
  simp [h, hj] at hbit

/-! ## The checks (R108) -/

/-- An unsealed capability with a permission, asked for that one. -/
theorem Cap.checkKind_of_may {c : Cap} {perm : Nat} (h : c.tag = true ∧ c.otype = 0 ∧ c.perms.getLsbD perm = true) :
    c.checkKind (need [perm]) = none := by
  obtain ⟨htag, hotype, hperm⟩ := h
  have hsealed : c.sealed = false := by simp [Cap.sealed, hotype]
  have hneed : c.perms &&& need [perm] = need [perm] := by
    refine BitVec.eq_of_getLsbD_eq fun j hj => ?_
    have hbit : (need [perm]).getLsbD j = decide (j = perm) := by
      rw [show need [perm] = BitVec.ofNat 12 (2 ^ perm) from BitVec.zero_or, getLsbD_ofNat_two_pow perm hj]
    rw [BitVec.getLsbD_and, hbit]
    by_cases hjp : j = perm <;> simp [hjp, hperm]
  simp [Cap.checkKind, htag, hsealed, hneed]

/-- The format of a gather's or scatter's elements, and whether they lie in scratchpad: both by the first address (R129). -/
abbrev State.laneFmt (s : State) (p : Pfx) (m : MemOp) : Nat × Bool := s.vecFmt (s.effective p m 0)

/-- The state in which lanes get to their spots. -/
abbrev State.reachLanes (s : State) (p : Pfx) (l : List (Nat × Spot)) : State := s.reach p (l.flatMap (fun r => r.2.globals))

/-- The active lanes that fail their bounds check, in ascending order. -/
def State.failingLanes (s : State) (p : Pfx) (m : MemOp) (ix : VReg) : List Nat :=
  let a0 := s.effective p m 0
  let w := elemWidth (s.laneFmt p m).1
  (activeLanes (s.k p.maskReg)).filter (fun i => !lanePasses s.cur.tile (s.c m.cap) a0 w (laneAddr a0 w ix i))

theorem State.mem_failingLanes {s : State} {p : Pfx} {m : MemOp} {ix : VReg} {j : Nat} : j ∈ s.failingLanes p m ix ↔
    j ∈ activeLanes (s.k p.maskReg) ∧ ¬ lanePasses s.cur.tile (s.c m.cap) (s.effective p m 0) (elemWidth (s.laneFmt p m).1)
      (laneAddr (s.effective p m 0) (elemWidth (s.laneFmt p m).1) ix j) = true := by
  simp [State.failingLanes]

theorem State.failingLanes_lt {s : State} {p : Pfx} {m : MemOp} {ix : VReg} : ∀ j ∈ s.failingLanes p m ix, j < 64 :=
  fun _ hj => (mem_activeLanes.mp (State.mem_failingLanes.mp hj).1).1

/-- A lane passes within the capability, and in the first address's bank where that lies in scratchpad. -/
theorem lanePasses_iff (tile : Nat) (c : Cap) (a0 w a : Nat) : lanePasses tile c a0 w a = true ↔
    c.base ≤ a ∧ a + w ≤ c.top ∧ ((spaceOf tile a0).1.scratchTile.isSome = true →
      (spaceOf tile a).1.scratchTile = (spaceOf tile a0).1.scratchTile ∧ (spaceOf tile a).2 / 32768 = (spaceOf tile a0).2 / 32768 ∧
        (spaceOf tile a).2 % 32768 + w ≤ 32768) := by
  unfold lanePasses
  cases h : (spaceOf tile a0).1.scratchTile <;> simp [Cap.within, and_assoc, h]

/-- The access of one lane, but for the lane's place. -/
def State.laneAccess (s : State) (p : Pfx) (m : MemOp) (use : Use) : Access :=
  { via := s.c m.cap, a := s.effective p m 0, ta := s.effective p m 0, n := elemWidth (s.laneFmt p m).1, need := 0
    align := 1, vec := true, stride := 0, use := use, scope := p.scope, cap := none }

/-- Lanes that fail, if any, are only reported; the first address and the decode table are as the access needs them; and each lane that
passes has its spot. -/
structure State.findsLanes (s : State) (p : Pfx) (m : MemOp) (ix : VReg) (use : Use) (failing : Word) (l : List (Nat × Spot)) : Prop where
  mode : failing = 0 ∨ p.laneZero = true
  align : (s.laneFmt p m).2 = false → s.effective p m 0 % 4 = 0
  table : (s.laneFmt p m).2 = true → usesT8 (s.laneFmt p m).1 = true → s.tablePending = false
  found : s.lookLanes (s.laneAccess p m use) (s.laneFmt p m).1 (((activeLanes (s.k p.maskReg)).filter (fun i => !failing.getLsbD i)).map
    (fun i => (i, laneAddr (s.effective p m 0) (elemWidth (s.laneFmt p m).1) ix i))) = .ok l

section
variable {p : Pfx} {m : MemOp} {ix : VReg} {store : Bool} {s : State} {body : Nat → Bool → List (Nat × Spot) → Word → State → Res}
  {failing : Word} (hkind : (s.c m.cap).checkKind (need [if store then permST else permLD]) = none)
  (hmask : laneMask (s.failingLanes p m ix) = failing)
include hkind hmask

/-- In lane-fault mode 00 the first failing lane raises CAP.LANE, and FMASK names them all. -/
theorem withLanes_of_failing (hfail : failing ≠ 0) (hmode : p.laneZero = false) : ∃ ta,
    withLanes p m ix store s body = .trap (s.setReg { s.reg with fmask := failing }) Code.capLane ta := by
  subst hmask
  obtain ⟨f, fs, hlanes⟩ := List.exists_cons_of_ne_nil (fun hnil => hfail (congrArg laneMask hnil))
  have hlanes' := hlanes
  unfold State.failingLanes at hlanes'
  refine ⟨BitVec.ofNat 64 (laneAddr (s.effective p m 0) (elemWidth (s.laneFmt p m).1) ix f), ?_⟩
  rw [hlanes]
  simp only [withLanes, hkind, hlanes', hmode]

/-- Else the lanes that pass are performed once their spots are known. -/
theorem withLanes_of_found {l : List (Nat × Spot)} (h : s.findsLanes p m ix (if store then .scatter else .vload) failing l) :
    withLanes p m ix store s body = body (s.laneFmt p m).1 (s.laneFmt p m).2 l failing (s.reachLanes p l) := by
  obtain ⟨hmode, halign, htable, hfound⟩ := h
  subst hmask
  have haligned : (!(s.laneFmt p m).2 && s.effective p m 0 % 4 != 0) = false := by
    cases hs : (s.laneFmt p m).2 with
    | true => rfl
    | false => simp [halign hs]
  have hpass : (activeLanes (s.k p.maskReg)).filter (fun i => !(laneMask (s.failingLanes p m ix)).getLsbD i) =
      (activeLanes (s.k p.maskReg)).filter (fun i => !(s.failingLanes p m ix).contains i) :=
    List.filter_congr fun i hi => by rw [laneMask_getLsbD _ (mem_activeLanes.mp hi).1]
  have hnil : laneMask (s.failingLanes p m ix) = 0 → s.failingLanes p m ix = [] := eq_nil_of_laneMask_eq_zero State.failingLanes_lt
  rw [hpass] at hfound
  generalize hlanes : s.failingLanes p m ix = fails at *
  unfold State.failingLanes at hlanes
  unfold State.laneAccess at hfound
  simp only [withLanes, hkind, hlanes, haligned, afterTable_of_clear _ htable, hfound]
  cases fails with
  | nil => rfl
  | cons f fs => simp [hmode.resolve_left (fun hzero => List.cons_ne_nil f fs (hnil hzero))]

end

/-! ## Gathers -/

theorem Map.get?_map_snd {α β : Type} (l : Map α) (f : α → β) (n : Nat) :
    Map.get? (l.map (fun r => (r.1, f r.2))) n = (Map.get? l n).map f := by
  induction l with
  | nil => rfl
  | cons r l ih =>
    simp only [List.map_cons, Map.get?, ih]
    split <;> rfl

/-- The value at a spot: an element of the bank's format in scratchpad, 32 bits elsewhere (R129). -/
def State.spotValue (t : State) (fmt : Nat) (scratch : Bool) (sp : Spot) : Lane :=
  if scratch then t.elemAt t.tctx.table sp.tile t.ctxn fmt sp.off else BitVec.ofNat 32 (ofBytes (t.readSpot sp 4))

/-- The value that an active lane gathers: that at its spot, or zero for a lane that fails. -/
def State.gatherValue (t : State) (fmt : Nat) (scratch : Bool) (l : List (Nat × Spot)) (j : Nat) : Lane :=
  match Map.get? l j with
  | some sp => t.spotValue fmt scratch sp
  | none => 0

theorem State.gatherValue_eq (t : State) (fmt : Nat) (scratch : Bool) (l : List (Nat × Spot)) (j : Nat) :
    t.gatherValue fmt scratch l j =
      match Map.get? (l.map (fun r => (r.1, t.spotValue fmt scratch r.2))) j with
      | some b => b
      | none => 0 := by
  rw [Map.get?_map_snd, State.gatherValue]
  cases Map.get? l j <;> rfl

/-- The state t in which a gather gets to its spots, with its lanes outstanding. -/
def State.gathered (t : State) (p : Pfx) (d : BitVec 5) (fmt : Nat) (scratch : Bool) (l : List (Nat × Spot)) : State :=
  (t.noteReads (l.flatMap (fun r => t.linesRead r.2))).pend
    (.v d (writtenLanes (t.k p.maskReg) p.zeroing)
      (mergeLanes (t.k p.maskReg) p.zeroing (t.v d) (t.gatherValue fmt scratch l)))
    (l.flatMap (fun r => r.2.banks t.cur.tile (elemWidth fmt))).eraseDups

/-! ## Scatters -/

theorem State.putLane_of_single {fmt : Nat} (h : fmt ≠ 4) (t : State) (table : List (BitVec 19)) (mode : Round) (tile ctx off : Nat)
    (b : Lane) : t.putLane table mode tile ctx fmt off b =
      t.writeBytes 0 (keyScratch ctx tile off) (toBytes (elemWidth fmt) (roundToBank table fmt mode b)) :=
  if_neg h

/-- The state t after the lanes of a scatter in scratchpad are stored, in ascending order. -/
def State.scatterElems (t : State) (p : Pfx) (fmt : Nat) (v : VReg) (l : List (Nat × Spot)) : State :=
  (l.foldl (fun x r => x.putLane t.tctx.table p.round r.2.tile x.ctxn fmt r.2.off (VReg.lane v r.1)) t).cleanseRuns
    (l.flatMap (fun r => elemRuns r.2.tile t.ctxn fmt [r.2.off]))

theorem State.scatterElems_of_single {fmt : Nat} (h : fmt ≠ 4) (t : State) (p : Pfx) (v : VReg) (l : List (Nat × Spot)) :
    t.scatterElems p fmt v l = (l.foldl (fun x r => x.writeBytes 0 (keyScratch x.ctxn r.2.tile r.2.off)
      (toBytes (elemWidth fmt) (roundToBank t.tctx.table fmt p.round (VReg.lane v r.1)))) t).cleanseRuns
        (l.map (fun r => (keyScratch t.ctxn r.2.tile r.2.off, elemWidth fmt))) := by
  have h8 : ¬ fmt = fmtT8B := h
  simp only [State.scatterElems, State.putLane_of_single h, elemRuns, h8, if_false, List.flatMap_cons, List.flatMap_nil, List.append_nil,
    List.map_eq_flatMap, imageKey]

theorem State.scatterElems_of_blocks {fmt : Nat} (h : fmt = 4) (t : State) (p : Pfx) (v : VReg) (l : List (Nat × Spot)) :
    t.scatterElems p fmt v l =
      (l.foldl (fun x r => x.putLane t.tctx.table p.round r.2.tile x.ctxn fmt r.2.off (VReg.lane v r.1)) t).cleanseRuns
        (l.flatMap (fun r => [(keyScratch t.ctxn r.2.tile (r.2.off - r.2.off % 4), 4),
          (keyScratch t.ctxn r.2.tile (scaleOff r.2.off), 1)])) := by
  subst h
  rfl

/-- The bytes that a lane of a scatter outside scratchpad stores. -/
def laneBytes (v : VReg) (j : Nat) : List Byte := toBytes 4 (VReg.lane v j).toNat

/-- A lane of a scatter stored at its spot, outside the global range. -/
def State.storeLane (v : VReg) (x : State) (r : Nat × Spot) : State :=
  match r.2.pieces with
  | q :: _ => x.writeBytes x.keyId q.key (laneBytes v r.1)
  | [] => x

/-- The state t after the lanes of a scatter outside the global range are stored. -/
def State.scatterLocals (t : State) (v : VReg) (l : List (Nat × Spot)) : State :=
  (l.foldl (fun x r => if r.2.space = .global then x else State.storeLane v x r) t).cleanseRuns
    ((l.filter (fun r => r.2.space != .global)).flatMap (fun r => r.2.pieces.map (fun q => (q.key, q.n))))

/-- The stores of the lanes of a scatter in the global range. -/
def scatterStores (v : VReg) (l : List (Nat × Spot)) : List Action :=
  l.flatMap (fun r => if r.2.space = .global then storesOf r.2.pieces (laneBytes v r.1) false else [])

theorem putScatter_eq (v : VReg) (l : List (Nat × Spot)) (t : State) (body : State → Res) : putScatter v l t body =
    if (scatterStores v l).isEmpty then body (t.scatterLocals v l)
    else act t (scatterStores v l) (fun u => body (u.scatterLocals v l)) := by
  have hlocals (u : State) : (l.filter (fun r => r.2.space != .global)).foldl (State.storeLane v) u =
      l.foldl (fun x r => if r.2.space = .global then x else State.storeLane v x r) u := by
    simp only [List.foldl_filter, bne_iff_ne, ne_eq, ite_not]
  simp only [State.scatterLocals, ← hlocals]
  rfl

section
variable {p : Pfx} {d : BitVec 5} {m : MemOp} {s : State} {k n : Nat} {failing : Word} {l : List (Nat × Spot)}
  (h : s.onElement p 31 d 32 0 k n) (hmask : laneMask (s.failingLanes p m (s.v (p.field1 k d + 1))) = failing)
include h hmask

theorem gather_fails (hkind : (s.c m.cap).checkKind (need [permLD]) = none) (hfail : failing ≠ 0) (hmode : p.laneZero = false) :
    ∃ ta, execVGth p d m s = .next ((s.setReg { s.reg with fmask := failing }).raiseElement p k n Code.capLane ta) := by
  obtain ⟨ta, hta⟩ := withLanes_of_failing (store := false) hkind hmask hfail hmode
  exact ⟨ta, runRep_trap p true 31 d 32 0 s _ k n h _ _ ta hta⟩

theorem scatter_fails (hkind : (s.c m.cap).checkKind (need [permST]) = none) (hfail : failing ≠ 0) (hmode : p.laneZero = false) :
    ∃ ta, execVSct p d m s = .next ((s.setReg { s.reg with fmask := failing }).raiseElement p k n Code.capLane ta) := by
  obtain ⟨ta, hta⟩ := withLanes_of_failing (store := true) hkind hmask hfail hmode
  exact ⟨ta, runRep_trap p true 31 d 32 0 s _ k n h _ _ ta hta⟩

theorem gather_done (hkind : (s.c m.cap).checkKind (need [permLD]) = none)
    (hlanes : s.findsLanes p m (s.v (p.field1 k d + 1)) .vload failing l)
    (hclean : (s.reachLanes p l).poisonIn ((s.reachLanes p l).seenLanes (s.laneFmt p m).1 (s.laneFmt p m).2 l) = none) :
    execVGth p d m s = .next ((((s.reachLanes p l).gathered p (p.field1 k d) (s.laneFmt p m).1 (s.laneFmt p m).2 l).reportLanes p
      failing).pastElement p true k n) := by
  refine runRep_done p true 31 d 32 0 s _ k n h _ ?_
  rw [withLanes_of_found (store := false) hkind hmask hlanes, consume_of_clean _ hclean, State.gathered,
    funext (State.gatherValue_eq _ _ _ l)]
  rfl

variable (hkind : (s.c m.cap).checkKind (need [permST]) = none) (hlanes : s.findsLanes p m (s.v (p.field1 k d + 1)) .scatter failing l)
  (hrel : (s.reachLanes p l).releasesNow p (l.any (fun r => r.2.space != .global)) (l.any (fun r => r.2.space == .global)))
include hkind hlanes hrel

theorem scatter_elements (hscratch : (s.laneFmt p m).2 = true)
    (hclean : (s.laneFmt p m).1 = 4 → (s.reachLanes p l).poisonIn (l.flatMap (fun r =>
      (s.reachLanes p l).blocksRead r.2.tile r.2.off r.2.va 1 (fun _ => 0) false)) = none) :
    execVSct p d m s = .next ((((s.reachLanes p l).scatterElems p (s.laneFmt p m).1 ((s.reachLanes p l).v (p.field1 k d)) l).reportLanes p
      failing).pastElement p true k n) := by
  refine runRep_done p true 31 d 32 0 s _ k n h _ ?_
  rw [withLanes_of_found (store := true) hkind hmask hlanes, afterRelease_of_releasesNow _ hrel]
  dsimp only
  rw [if_pos hscratch, consume_of_clean]
  · rfl
  · by_cases hfmt : (s.laneFmt p m).1 = 4
    · exact (congrArg _ (if_pos hfmt)).trans (hclean hfmt)
    · exact (congrArg _ (if_neg hfmt)).trans rfl

variable (hscratch : (s.laneFmt p m).2 = false)
include hscratch

theorem scatter_locals (hnone : scatterStores ((s.reachLanes p l).v (p.field1 k d)) l = []) : execVSct p d m s =
    .next ((((s.reachLanes p l).scatterLocals ((s.reachLanes p l).v (p.field1 k d)) l).reportLanes p failing).pastElement p true k n) := by
  refine runRep_done p true 31 d 32 0 s _ k n h _ ?_
  rw [withLanes_of_found (store := true) hkind hmask hlanes, afterRelease_of_releasesNow _ hrel]
  dsimp only
  rw [hscratch, if_neg Bool.false_ne_true, putScatter_eq, hnone]
  rfl

theorem scatter_speculative {f : Firing} (hsome : scatterStores ((s.reachLanes p l).v (p.field1 k d)) l ≠ [])
    (hf : (s.reachLanes p l).fir = some f) (hpin : f.pinned = false)
    (hfit : (s.reachLanes p l).fits (scatterStores ((s.reachLanes p l).v (p.field1 k d)) l) = true) :
    let t := s.reachLanes p l
    let as := scatterStores (t.v (p.field1 k d)) l
    execVSct p d m s = .next (((((t.cleanseLines f.serial as).setFir { f with actions := f.actions ++ as }).scatterLocals
      (t.v (p.field1 k d)) l).reportLanes p failing).pastElement p true k n) := by
  refine runRep_done p true 31 d 32 0 s _ k n h _ ?_
  rw [withLanes_of_found (store := true) hkind hmask hlanes, afterRelease_of_releasesNow _ hrel]
  dsimp only
  rw [hscratch, if_neg Bool.false_ne_true, putScatter_eq, if_neg (by simpa using hsome)]
  exact act_of_speculative _ hf hpin hfit

end

end Sys2Proof.Machine
open Sys2Proof Sys2Proof.Machine in
/-- Settles O21: the lanes that fail are the bits of one word; with them known, each form performs the rest at the spots found. -/
theorem gatherAndScatter : Obligations.GatherAndScatter := by
  unfold Obligations.GatherAndScatter
  intro p d m s k n h c a0 fmt scratch w dst place active passes may fails ready found report
  have hmask {failing : Word} (hf : fails failing) : laneMask (s.failingLanes p m (s.v (dst + 1))) = failing :=
    laneMask_eq fun j hj => (hf j hj).trans (by
      rw [State.mem_failingLanes, lanePasses_iff]
      rfl)
  have hlanes {failing : Word} {use : Use} {l : List (Nat × Spot)} (hready : ready failing) (hfound : found use failing l) :
      s.findsLanes p m (s.v (dst + 1)) use failing l := by
    obtain ⟨hmode, halign, htable⟩ := hready
    exact ⟨hmode, halign, htable, hfound⟩
  refine ⟨fun failing hf hne hmode => ⟨fun hmay => ?_, fun hmay => ?_⟩, fun failing l hf hready hmay hfound hclean => ?_,
    fun failing l hf hready hmay hfound hrel => ⟨?_, ?_, ?_, ?_⟩⟩
  · exact gather_fails h (hmask hf) (Cap.checkKind_of_may hmay) hne hmode
  · exact scatter_fails h (hmask hf) (Cap.checkKind_of_may hmay) hne hmode
  · have hgather := gather_done h (hmask hf) (Cap.checkKind_of_may hmay) (hlanes hready hfound) hclean
    simp only [State.gathered, mergeLanes_eq_ofFn, State.reach_k, State.reach_v, State.reach_cur] at hgather
    exact hgather
  · intro hscratch hfmt
    have hstore := scatter_elements h (hmask hf) (Cap.checkKind_of_may hmay) (hlanes hready hfound) hrel hscratch (fun h4 => absurd h4 hfmt)
    rw [State.scatterElems_of_single hfmt, State.reach_v] at hstore
    exact hstore
  · intro hscratch hfmt hclean
    have hstore := scatter_elements h (hmask hf) (Cap.checkKind_of_may hmay) (hlanes hready hfound) hrel hscratch (fun _ => hclean)
    rw [State.scatterElems_of_blocks hfmt, State.reach_v] at hstore
    exact hstore
  · intro hscratch hnone
    have hstore := scatter_locals h (hmask hf) (Cap.checkKind_of_may hmay) (hlanes hready hfound) hrel hscratch
    rw [State.reach_v] at hstore
    exact hstore hnone
  · intro f hscratch hsome hfir hpin hfit
    have hstore := scatter_speculative h (hmask hf) (Cap.checkKind_of_may hmay) (hlanes hready hfound) hrel hscratch (f := f)
    simp only [State.reach_v] at hstore
    exact hstore hsome hfir hpin hfit
end

section
/-! PROOFS. Painting and sweeps (R113, R114): the bitmap, the granules of a range, and what a sweep's opening and a query give. -/

namespace Sys2Proof.Machine

/-! ## The bitmap as a list of keys -/

theorem keys_mem_insert (l : List Nat) (n g : Nat) : g ∈ Keys.insert l n ↔ g = n ∨ g ∈ l := by
  induction l with
  | nil => simp [Keys.insert]
  | cons k ks ih =>
    unfold Keys.insert
    split
    · exact List.mem_cons
    · split
      case isTrue hn => simp [hn]
      case isFalse => simp only [List.mem_cons, ih, or_left_comm]

theorem keys_mem_remove {l : List Nat} (h : l.Pairwise (· < ·)) (n g : Nat) : g ∈ Keys.remove l n ↔ g ∈ l ∧ g ≠ n := by
  induction l with
  | nil => simp [Keys.remove]
  | cons k ks ih =>
    obtain ⟨hk, hks⟩ := List.pairwise_cons.mp h
    unfold Keys.remove
    split
    case isTrue hn =>
      subst hn
      have hne : g ∈ ks → g ≠ n := fun hg => (hk g hg).ne'
      simp only [List.mem_cons]
      tauto
    case isFalse hn =>
      have hkn : g = k → g ≠ n := fun hg hgn => hn (hgn.symm.trans hg)
      simp only [List.mem_cons, ih hks]
      tauto

theorem keys_remove_sublist (l : List Nat) (n : Nat) : (Keys.remove l n).Sublist l := by
  induction l with
  | nil => exact .slnil
  | cons k ks ih =>
    unfold Keys.remove
    split
    · exact List.sublist_cons_self k ks
    · exact ih.cons_cons k

theorem keys_mem_foldl_insert (gs l : List Nat) (g : Nat) : g ∈ gs.foldl Keys.insert l ↔ g ∈ l ∨ g ∈ gs := by
  induction gs generalizing l with
  | nil => simp
  | cons a gs ih =>
    simp only [List.foldl_cons, ih, keys_mem_insert, List.mem_cons, or_assoc, or_left_comm]

theorem keys_mem_foldl_remove (gs : List Nat) {l : List Nat} (h : l.Pairwise (· < ·)) (g : Nat) :
    g ∈ gs.foldl Keys.remove l ↔ g ∈ l ∧ g ∉ gs := by
  induction gs generalizing l with
  | nil => simp
  | cons a gs ih =>
    simp only [List.foldl_cons, ih (h.sublist (keys_remove_sublist l a)), keys_mem_remove h, List.mem_cons, not_or, and_assoc, ne_eq]

theorem Map.get?_foldl_set {α : Type} (gs : List Nat) (m : Map α) (y : α) (g : Nat) :
    Map.get? (gs.foldl (fun m g => Map.set m g y) m) g = if g ∈ gs then some y else Map.get? m g := by
  induction gs generalizing m with
  | nil => simp
  | cons a gs ih =>
    rw [List.foldl_cons, ih]
    by_cases hg : g ∈ gs
    · simp [hg]
    · by_cases ha : g = a
      · simp [ha]
      · simp [hg, ha, Map.get?_set_other]

theorem Map.get?_mapKV {α : Type} (f : Nat → α → α) (m : Map α) (n : Nat) : Map.get? (Map.mapKV f m) n = (Map.get? m n).map (f n) := by
  induction m with
  | nil => rfl
  | cons e m ih =>
    obtain ⟨k, x⟩ := e
    simp only [Map.mapKV, Map.get?, ih]
    split
    case isTrue hk => simp [hk]
    case isFalse => rfl

theorem State.paint_on (s : State) (gs : List Nat) : (∀ g, g ∈ (s.paint gs true).painted ↔ g ∈ s.painted ∨ g ∈ gs) ∧
    ∀ g, g ∈ gs → g ∉ s.painted → Map.get? (s.paint gs true).covers g = some 0 := by
  refine ⟨fun g => keys_mem_foldl_insert gs s.painted g, fun g hg hnew => ?_⟩
  have hfresh : g ∈ gs.filter (fun g => !Keys.mem s.painted g) := by
    rw [List.mem_filter, Bool.not_eq_true', ← Bool.not_eq_true, keysMem_eq_true]
    exact ⟨hg, hnew⟩
  exact (Map.get?_foldl_set _ s.covers 0 g).trans (if_pos hfresh)

theorem State.paint_off {s : State} (h : s.painted.Pairwise (· < ·)) (gs : List Nat) (g : Nat) :
    g ∈ (s.paint gs false).painted ↔ g ∈ s.painted ∧ g ∉ gs :=
  keys_mem_foldl_remove gs h g

/-! ## The granules of a range -/

/-- Every piece of a range begins within the range. -/
theorem pagePieces_va {lo n : Nat} : ∀ q ∈ pagePieces lo n, lo ≤ q.1 ∧ q.1 < lo + n := by
  intro q hq
  unfold pagePieces at hq
  split at hq
  case isTrue => exact absurd hq List.not_mem_nil
  case isFalse hn =>
    split at hq
    · rw [List.mem_singleton.mp hq]
      exact ⟨le_rfl, by omega⟩
    · simp only [blocksOf, if_neg hn, List.map_map, List.mem_map, List.mem_range, Function.comp_apply] at hq
      obtain ⟨i, hi, rfl⟩ := hq
      dsimp only
      omega

/-- Where memory, or the code region, stands behind an address, its piece has granules, if any, and no fault. -/
theorem State.pieceGranules_ok {s : State} {info : RegInfo} {va : Nat}
    (h : codeBase ≤ va ∨ ∃ x pa level, s.walk info va = .leaf x pa level ∧ (peHost x = false ∨ peHeld x = true)) (n : Nat) :
    ∃ gs, s.pieceGranules info va n = .ok gs := by
  unfold State.pieceGranules
  split
  · exact ⟨_, rfl⟩
  case isFalse hcode =>
    obtain ⟨x, pa, level, hwalk, hpage⟩ := h.resolve_left hcode
    rw [hwalk]
    cases hhost : peHost x with
    | false => exact ⟨blocksOf 16 pa n, by simp [hhost]⟩
    | true =>
      have hheld : peHeld x = true := hpage.resolve_left (by simp [hhost])
      exact ⟨[], by simp [hhost, hheld]⟩

theorem State.rangeGranules_ok {s : State} {info : RegInfo} {l : List (Nat × Nat)}
    (h : ∀ q ∈ l, ∃ gs, s.pieceGranules info q.1 q.2 = .ok gs) : ∃ gs, s.rangeGranules info l = .ok gs := by
  induction l with
  | nil => exact ⟨[], rfl⟩
  | cons q l ih =>
    obtain ⟨g, hg⟩ := h q List.mem_cons_self
    obtain ⟨gs, hgs⟩ := ih fun r hr => h r (List.mem_cons_of_mem q hr)
    exact ⟨g ++ gs, by simp only [State.rangeGranules, hg, hgs]⟩

theorem State.paintLook_ok {s : State} {info : RegInfo} {c : Cap} (htop : c.top ≤ 2 ^ 48)
    (h : ∀ v, c.base - c.base % 16 ≤ v → v < c.top → codeBase ≤ v ∨
      ∃ x pa level, s.walk info v = .leaf x pa level ∧ (peHost x = false ∨ peHeld x = true)) :
    ∃ gs, s.paintLook info c = .ok gs := by
  simp only [State.paintLook, if_neg (Nat.not_lt.mpr htop)]
  refine State.rangeGranules_ok fun q hq => State.pieceGranules_ok ?_ q.2
  obtain ⟨hlo, hhi⟩ := pagePieces_va q hq
  exact h q.1 hlo (by omega)

/-! ## The chains at keeper privilege -/

theorem run_keeper {p : Pfx} {s t : State} (hf : s.freeAt p .keeper) {body : State → Res} (h : body s = .done t) :
    run p true s (fun s => atPriv .keeper s body) = .next (t.past p true) := by
  rw [run_freeAt p true .keeper s body hf, h, Res.finish_done]

theorem paint_done {p : Pfx} {d : BitVec 4} {r : BitVec 5} {s : State} (hf : s.freeAt p .keeper) {gs : List Nat}
    (hkind : (s.c d).checkKind (need [permST]) = none) (hbounds : (s.c d).base < (s.c d).top)
    (hlook : s.paintLook (s.info s.ctxn) (s.c d) = .ok gs) :
    execCPaint p d r s = .next ((s.paint gs ((s.s r).getLsbD 0)).past p true) := by
  have hcheck : (s.c d).checkAccess (s.c d).base 1 (need [permST]) = none := by
    simp [Cap.checkAccess, hkind, Cap.within, Nat.succ_le_of_lt hbounds]
  exact run_keeper hf (by simp only [hcheck, hlook])

theorem sweep_done {p : Pfx} {e r : BitVec 5} {s : State} (hf : s.freeAt p .keeper) : execCSweep p e r s =
    .next (((s.openSweep ((s.s r).toNat % 4096)).1.setS e (BitVec.ofNat 64 (s.openSweep ((s.s r).toNat % 4096)).2)).past p true) :=
  run_keeper hf rfl

theorem sweepQuery_done {p : Pfx} {e r : BitVec 5} {s : State} (hf : s.freeAt p .keeper) : execCSweepq p e r s =
    .next ((s.setS e (BitVec.ofNat 64 (s.sweepState ((s.s r).toNat % 2 ^ 32)))).past p true) :=
  run_keeper hf rfl

/-! ## Sweeps (R114) -/

/-- The sweep that would open for a context next. -/
def State.nextSweep (s : State) (ctx : Nat) (x : Context) : Sweep :=
  { epoch := nextEpoch s.lastEpoch, ctx := ctx, dies := (x.info.parts.map (fun q => q / 4)).eraseDups
    firings := ((s.liveOf ctx).filter s.unsaved).map LiveFiring.id, pushes := s.livePushes ctx }

/-- No sweep can open: a die of the context has eight, or an open one is 2^31 epochs old. -/
def State.sweepsFull (s : State) (x : Context) : Prop :=
  (∃ q, q ∈ x.info.parts ∧ 8 ≤ (s.sweeps.filter (fun w => w.dies.contains (q / 4))).length) ∨
    ∃ w, w ∈ s.sweeps ∧ 2 ^ 31 ≤ epochDist (nextEpoch s.lastEpoch) w.epoch

theorem State.sweepsFull_iff (s : State) (x : Context) : s.sweepsFull x ↔
    ((x.info.parts.map (fun q => q / 4)).eraseDups.any (fun d => decide (8 ≤ (s.sweeps.filter (fun w => w.dies.contains d)).length)) ||
      s.sweeps.any (fun w => decide (2 ^ 31 ≤ epochDist (nextEpoch s.lastEpoch) w.epoch))) = true := by
  simp [State.sweepsFull, List.any_eq_true, List.mem_eraseDups]

section
variable {s : State} {ctx : Nat}

theorem State.openSweep_unregistered (h : Map.get? s.contexts ctx = none) : s.openSweep ctx = (s, 0) := by
  simp only [State.openSweep, h]

variable {x : Context} (h : Map.get? s.contexts ctx = some x)
include h

theorem State.openSweep_full (hfull : s.sweepsFull x) : s.openSweep ctx = (s, 0) := by
  rw [State.sweepsFull_iff] at hfull
  simp only [State.openSweep, h, hfull, if_true]

theorem State.openSweep_opens (hroom : ¬ s.sweepsFull x) : s.openSweep ctx =
    ({ s with sweeps := s.sweeps ++ [s.nextSweep ctx x], lastEpoch := nextEpoch s.lastEpoch
              epochWrap := s.epochWrap || nextEpoch s.lastEpoch == 0xFFFFFFFF
              covers := Map.mapKV (fun _ q => if q = 0 then nextEpoch s.lastEpoch else q) s.covers }, nextEpoch s.lastEpoch) := by
  rw [State.sweepsFull_iff] at hroom
  simp only [State.openSweep, h, hroom]
  rfl

end

theorem State.sweepState_eq (s : State) (n : Nat) : BitVec.ofNat 64 (s.sweepState n) =
    if n = 0 ∨ (s.epochWrap = false ∧ s.lastEpoch < n) then 2
    else if epochDist s.lastEpoch n < 2 ^ 31 ∧ ∃ w, w ∈ s.sweeps ∧ w.epoch = n then 0 else 1 := by
  have hnone : n = 0 ∨ (s.lastEpoch < n ∧ (!s.epochWrap) = true) ↔ n = 0 ∨ (s.epochWrap = false ∧ s.lastEpoch < n) := by
    rw [Bool.not_eq_true', and_comm]
  have hopen : s.sweeps.any (fun w => w.epoch == n) = true ↔ ∃ w, w ∈ s.sweeps ∧ w.epoch = n := by
    simp [List.any_eq_true]
  simp only [State.sweepState, hnone, hopen]
  split
  · rfl
  · by_cases hnear : epochDist s.lastEpoch n < 2 ^ 31
    · simp only [hnear, if_true, true_and]
      split <;> rfl
    · rw [if_neg hnear, if_neg (fun ⟨hdist, _⟩ => hnear hdist)]
      rfl

/-- An epoch that is no later than the last, by less than 2^31, is that far before it. -/
theorem epochDist_of_le {l n : Nat} (hn : n ≤ l) (hnear : l < n + 2 ^ 31) : epochDist l n < 2 ^ 31 := by
  unfold epochDist
  omega

end Sys2Proof.Machine

open Sys2Proof Sys2Proof.Machine in
/-- Settles O12: with its granules found a paint is one change of the bitmap; a sweep opens, or does not, by two tests of the open ones. -/
theorem paintAndSweep : Obligations.PaintAndSweep := by
  unfold Obligations.PaintAndSweep
  intro p d r e s
  refine ⟨fun hf => ⟨?_, ?_, ?_⟩, fun hf hpriv => ?_⟩
  · intro c lo htag hotype hperm hbounds htop hpages
    obtain ⟨gs, hlook⟩ := State.paintLook_ok htop hpages
    have hpaint := paint_done (r := r) hf (Cap.checkKind_of_may ⟨htag, hotype, hperm⟩) hbounds hlook
    refine ⟨gs, s.paint gs ((s.s r).getLsbD 0), hlook, hpaint, rfl, fun hon => ?_, fun hoff hsorted g => ?_⟩
    · rw [hon]
      exact s.paint_on gs
    · rw [hoff]
      exact State.paint_off hsorted gs g
  · intro ctx next none_
    refine ⟨fun hnone => ?_, fun x hx => ⟨fun hfull => ?_, fun hdies hold => ?_⟩⟩
    · have hsweep := sweep_done (e := e) (r := r) hf
      rw [State.openSweep_unregistered hnone] at hsweep
      exact hsweep
    · have hsweep := sweep_done (e := e) (r := r) hf
      rw [State.openSweep_full hx hfull] at hsweep
      exact hsweep
    · have hroom : ¬ s.sweepsFull x := by
        rintro (⟨q, hq, hmany⟩ | ⟨w, hw, hfar⟩)
        · exact absurd (hdies q hq) (Nat.not_lt.mpr hmany)
        · exact absurd (hold w hw) (Nat.not_lt.mpr hfar)
      have hsweep := sweep_done (e := e) (r := r) hf
      rw [State.openSweep_opens hx hroom] at hsweep
      exact ⟨_, hsweep, rfl, rfl, Map.get?_mapKV _ s.covers⟩
  · intro n gives
    have hquery : gives (BitVec.ofNat 64 (s.sweepState n)) := sweepQuery_done hf
    rw [State.sweepState_eq] at hquery
    refine ⟨hquery, fun hn hle hnear _ => ?_⟩
    have hlater : ¬ (n = 0 ∨ (s.epochWrap = false ∧ s.lastEpoch < n)) := by omega
    simpa only [if_neg hlater, epochDist_of_le hle hnear, true_and] using hquery
  · have hbelow := keeperChains_below e r d hf hpriv
    exact ⟨hbelow _ (by simp), hbelow _ (by simp), hbelow _ (by simp)⟩
end

section
/-! PROOFS. The checks of a scalar access (R96, R107, R118 to R120, R124): which of them a space puts in the way, and the spot behind. -/

namespace Sys2Proof.Machine

/-! ## CheckAccess (R107) -/

/-- An unsealed capability is asked for its permissions, and then for its bounds. -/
theorem Cap.checkAccess_of_unsealed {c : Cap} (ht : c.tag = true) (ho : c.otype = 0) (a n : Nat) (mask : BitVec 12) :
    c.checkAccess a n mask = if c.perms &&& mask ≠ mask then some Code.capPerm
      else if a < c.base ∨ c.top < a + n then some Code.capBound else none := by
  have hkind : c.checkKind mask = if c.perms &&& mask ≠ mask then some Code.capPerm else none := by
    simp [Cap.checkKind, Cap.sealed, ht, ho]
  rw [Cap.checkAccess, hkind]
  by_cases hperm : c.perms &&& mask = mask
  · have hwithin : c.within a n = true ↔ ¬ (a < c.base ∨ c.top < a + n) := by simp [Cap.within]
    by_cases hbound : a < c.base ∨ c.top < a + n <;> simp only [hperm, hwithin, hbound, not_true, not_false_iff, ne_eq, if_true, if_false]
  · simp [hperm]

theorem Cap.checkAccess_eq (c : Cap) (a n : Nat) (mask : BitVec 12) : c.checkAccess a n mask =
    if c.tag = false then some Code.capTag
    else if c.otype ≠ 0 then some Code.capSeal
    else if c.perms &&& mask ≠ mask then some Code.capPerm
    else if a < c.base ∨ c.top < a + n then some Code.capBound
    else none := by
  cases ht : c.tag with
  | false => rw [Cap.checkAccess_of_untagged ht, if_pos rfl]
  | true =>
    by_cases ho : c.otype = 0
    · rw [Cap.checkAccess_of_unsealed ht ho, if_neg (show ¬ true = false from nofun), if_neg (not_not.mpr ho)]
    · rw [Cap.checkAccess_of_sealed ht ho, if_neg nofun, if_pos ho]

/-! ## The map of the local addresses (R118) -/

section
variable {a : Nat} (tile : Nat)

theorem spaceOf_between (hglobal : 2 ^ 48 ≤ a) (hlow : a < loc) : spaceOf tile a = (.void, 0) := by
  rw [spaceOf, if_neg (Nat.not_lt.mpr hglobal), if_pos hlow]

variable {o : Nat} (hloc : loc ≤ a) (ho : a - loc = o)
include hloc ho

/-- From loc on, an address lies by its offset. -/
theorem spaceOf_local : spaceOf tile a =
    if o < 0x40000 then (.scratch tile, o)
    else if 0x80000 ≤ o ∧ o < 0x90000 then (.inbox, o - 0x80000)
    else if 0x90000 ≤ o ∧ o < 0x91000 then (.window, o - 0x90000)
    else if 0x100000 ≤ o ∧ o < 0x300000 then
      (.remote (clusterTile (clusterOf tile) ((o - 0x100000) / 0x40000)), (o - 0x100000) % 0x40000)
    else if 0x400000 ≤ o ∧ o < 0x800000 then (.cmem, o - 0x400000)
    else if 0x10000000 ≤ o ∧ o < 0x20000000 then (.wstore, o - 0x10000000)
    else (.void, 0) := by
  have hglobal : ¬ a < 2 ^ 48 := Nat.not_lt.mpr (Nat.le_trans (by decide) hloc)
  rw [spaceOf, if_neg hglobal, if_neg (Nat.not_lt.mpr hloc), ho]

theorem spaceOf_scratch (h : o < 0x40000) : spaceOf tile a = (.scratch tile, o) := by
  rw [spaceOf_local tile hloc ho, if_pos h]

theorem spaceOf_inbox (h : 0x80000 ≤ o ∧ o < 0x90000) : spaceOf tile a = (.inbox, o - 0x80000) := by
  rw [spaceOf_local tile hloc ho, if_neg (by omega), if_pos h]

theorem spaceOf_window (h : 0x90000 ≤ o ∧ o < 0x91000) : spaceOf tile a = (.window, o - 0x90000) := by
  rw [spaceOf_local tile hloc ho, if_neg (by omega), if_neg (by omega), if_pos h]

theorem spaceOf_remote (h : 0x100000 ≤ o ∧ o < 0x300000) : spaceOf tile a =
    (.remote (clusterTile (clusterOf tile) ((o - 0x100000) / 0x40000)), (o - 0x100000) % 0x40000) := by
  rw [spaceOf_local tile hloc ho, if_neg (by omega), if_neg (by omega), if_neg (by omega), if_pos h]

theorem spaceOf_cmem (h : 0x400000 ≤ o ∧ o < 0x800000) : spaceOf tile a = (.cmem, o - 0x400000) := by
  rw [spaceOf_local tile hloc ho, if_neg (by omega), if_neg (by omega), if_neg (by omega), if_neg (by omega), if_pos h]

theorem spaceOf_wstore (h : 0x10000000 ≤ o ∧ o < 0x20000000) : spaceOf tile a = (.wstore, o - 0x10000000) := by
  rw [spaceOf_local tile hloc ho, if_neg (by omega), if_neg (by omega), if_neg (by omega), if_neg (by omega), if_neg (by omega), if_pos h]

/-- The places between the ranges hold nothing. -/
theorem spaceOf_void (hscratch : ¬ o < 0x40000) (hinbox : ¬ (0x80000 ≤ o ∧ o < 0x90000)) (hwindow : ¬ (0x90000 ≤ o ∧ o < 0x91000))
    (hremote : ¬ (0x100000 ≤ o ∧ o < 0x300000)) (hcmem : ¬ (0x400000 ≤ o ∧ o < 0x800000))
    (hwstore : ¬ (0x10000000 ≤ o ∧ o < 0x20000000)) : spaceOf tile a = (.void, 0) := by
  rw [spaceOf_local tile hloc ho, if_neg hscratch, if_neg hinbox, if_neg hwindow, if_neg hremote, if_neg hcmem, if_neg hwstore]

end

/-! ## The spots of the local spaces (R118 to R120) -/

section
variable (s : State) (c : Cap) (a n : Nat) (mask : BitVec 12) (use : Use) (scope : Scope) (off : Nat)

theorem State.locate_scratch (t : Nat) : s.locate (Access.at c a n mask n use scope) (.scratch t) off =
    .ok { space := .scratch t, off := off, pieces := [{ va := a, key := keyScratch s.ctxn t off, n := n, tag := true }] } := rfl

theorem State.locate_remote (t : Nat) : s.locate (Access.at c a n mask n use scope) (.remote t) off =
    .ok { space := .remote t, off := off, pieces := [{ va := a, key := keyScratch s.ctxn t off, n := n, tag := true }] } := rfl

theorem State.locate_cmem : s.locate (Access.at c a n mask n use scope) .cmem off =
    .ok { space := .cmem, off := off
          pieces := [{ va := a, key := keyCmem (clusterOf s.cur.tile) off, n := n, tag := true }] } := rfl

theorem State.locate_wstore : s.locate (Access.at c a n mask n use scope) .wstore off =
    .ok { space := .wstore, off := off
          pieces := [{ va := a, key := keyWs (quadOf s.cur.tile) off, n := n, tag := false }] } := rfl

end

/-! ## The checks behind CheckAccess (R124) -/

/-- A check before what comes after it: its fault at the effective address, or that. -/
def Look.after (ta : Nat) (fault : Option (BitVec 16)) (l : Look) : Look :=
  match fault with
  | some e => .bad e ta
  | none => l

@[simp] theorem Look.after_none (ta : Nat) (l : Look) : Look.after ta none l = l := rfl

@[simp] theorem Look.after_ite (ta : Nat) (cond : Prop) [Decidable cond] (e : BitVec 16) (o : Option (BitVec 16)) (l : Look) :
    Look.after ta (if cond then some e else o) l = if cond then .bad e ta else Look.after ta o l := by
  split <;> rfl

/-- The checks of a list are made one by one. -/
theorem Look.after_firstFault_cons (ta : Nat) (o : Option (BitVec 16)) (os : List (Option (BitVec 16))) (l : Look) :
    Look.after ta (firstFault (o :: os)) l = Look.after ta o (Look.after ta (firstFault os) l) := by
  cases o <;> rfl

theorem State.remoteFault_remote (s : State) (tile ctx t : Nat) : s.remoteFault tile ctx (.remote t) =
    if t ≠ tile ∧ s.tileExists t = false then some Code.memNotile
    else if t ≠ tile ∧ s.imageAt t ctx = false then some Code.memAway else none := by
  by_cases ht : t = tile <;> simp [State.remoteFault, ht]

section
variable {s : State} {c : Cap} {a n : Nat} {mask : BitVec 12} {use : Use} {scope : Scope} {sp : Space} {off : Nat}

theorem State.look_of_checkAccess {code : BitVec 16} (h : c.checkAccess a n mask = some code) :
    s.look (Access.at c a n mask n use scope) none = .bad code a := by
  simp only [State.look, Access.at, h]

/-- Steps 2 and 3: alignment, and a space that the instruction reaches and that holds every byte. -/
theorem Access.shape_at (c : Cap) (a n : Nat) (mask : BitVec 12) (use : Use) (scope : Scope) (sp : Space) (off : Nat) :
    (Access.at c a n mask n use scope).shape sp off =
      if a % n ≠ 0 then some Code.memAlign
      else if sp = .void ∨ use.reaches sp = false ∨ spaceSize sp < off + n then some Code.memSpace else none := by
  change (if (a % n != 0 || (0 : Int) % n != 0) && !(false && sp.scratchTile.isSome) then some Code.memAlign
    else if sp = .void || !use.reaches sp || decide (spaceSize sp < off + n) then some Code.memSpace else none) = _
  simp [or_assoc]

variable (hpass : c.checkAccess a n mask = none)
include hpass

/-- What an access at a place of a space meets in turn: its shape, a remote tile, its scope, and the weight store that is not written. -/
theorem State.look_of_space (hspace : spaceOf s.cur.tile a = (sp, off)) : s.look (Access.at c a n mask n use scope) none =
    Look.after a ((Access.at c a n mask n use scope).shape sp off)
      (Look.after a (s.remoteFault s.cur.tile s.ctxn sp)
        (Look.after a (if scopeWide scope && sp.scratchTile.isSome then some Code.memScope else none)
          (Look.after a (if use.writes && sp == .wstore then some Code.memWsro else none)
            (s.locate (Access.at c a n mask n use scope) sp off)))) := by
  have hcheck : s.look (Access.at c a n mask n use scope) none =
      Look.after a (s.spaceFault (Access.at c a n mask n use scope) none) (s.lookup (Access.at c a n mask n use scope)) := by
    simp only [State.look, Access.at, hpass]
    rfl
  have hlist : s.spaceFault (Access.at c a n mask n use scope) none = firstFault
      [ (Access.at c a n mask n use scope).shape sp off, s.remoteFault s.cur.tile s.ctxn sp,
        if scopeWide scope && sp.scratchTile.isSome then some Code.memScope else none,
        if use.writes && sp == .wstore then some Code.memWsro else none, none, none ] := by
    simp only [State.spaceFault, Access.at, hspace]
  have hplace : s.lookup (Access.at c a n mask n use scope) = s.locate (Access.at c a n mask n use scope) sp off := by
    simp only [State.lookup, Access.at, hspace]
  simp only [hcheck, hlist, hplace, Look.after_firstFault_cons, Look.after_none, firstFault]

theorem State.look_of_misaligned (h : a % n ≠ 0) : s.look (Access.at c a n mask n use scope) none = .bad Code.memAlign a := by
  rw [State.look_of_space hpass rfl, Access.shape_at, Look.after_ite, if_pos h]

variable (halign : a % n = 0)
include halign

/-- A space that holds nothing, or that the instruction may not reach (R132). -/
theorem State.look_of_unreached (hspace : spaceOf s.cur.tile a = (sp, off)) (h : sp = .void ∨ use.reaches sp = false) :
    s.look (Access.at c a n mask n use scope) none = .bad Code.memSpace a := by
  rw [State.look_of_space hpass hspace, Access.shape_at, Look.after_ite, if_neg (not_not.mpr halign), Look.after_ite,
    if_pos (h.imp_right Or.inl)]

/-- A space that the instruction may reach is left by the access, or holds it and has its own checks. -/
theorem State.look_of_reached (hspace : spaceOf s.cur.tile a = (sp, off)) (hvoid : sp ≠ .void) (hreach : use.reaches sp = true) :
    s.look (Access.at c a n mask n use scope) none =
      if spaceSize sp < off + n then .bad Code.memSpace a
      else Look.after a (s.remoteFault s.cur.tile s.ctxn sp)
        (Look.after a (if scopeWide scope && sp.scratchTile.isSome then some Code.memScope else none)
          (Look.after a (if use.writes && sp == .wstore then some Code.memWsro else none)
            (s.locate (Access.at c a n mask n use scope) sp off))) := by
  have hleft : (sp = .void ∨ use.reaches sp = false ∨ spaceSize sp < off + n) ↔ spaceSize sp < off + n := by
    simp [hvoid, hreach]
  rw [State.look_of_space hpass hspace, Access.shape_at, Look.after_ite, if_neg (not_not.mpr halign), Look.after_ite, Look.after_none]
  simp only [hleft]

variable {o : Nat} (hloc : loc ≤ a) (ho : a - loc = o)
include hloc ho

theorem State.look_scratch (h : o < 0x40000) (hreach : use.reaches (.scratch s.cur.tile) = true) :
    s.look (Access.at c a n mask n use scope) none =
      if 0x40000 < o + n then .bad Code.memSpace a
      else if scopeWide scope then .bad Code.memScope a
      else .ok { space := .scratch s.cur.tile, off := o
                 pieces := [{ va := a, key := keyScratch s.ctxn s.cur.tile (o), n := n, tag := true }] } := by
  rw [State.look_of_reached hpass halign (spaceOf_scratch _ hloc ho h) nofun hreach]
  simp [State.remoteFault, Space.scratchTile, spaceSize, State.locate_scratch]

theorem State.look_remote (h : 0x100000 ≤ o ∧ o < 0x300000) {t : Nat}
    (ht : clusterTile (clusterOf s.cur.tile) ((o - 0x100000) / 0x40000) = t) (hreach : use.reaches (.remote t) = true) :
    let off := (o - 0x100000) % 0x40000
    s.look (Access.at c a n mask n use scope) none =
      if 0x40000 < off + n then .bad Code.memSpace a
      else if t ≠ s.cur.tile ∧ s.tileExists t = false then .bad Code.memNotile a
      else if t ≠ s.cur.tile ∧ s.imageAt t s.ctxn = false then .bad Code.memAway a
      else if scopeWide scope then .bad Code.memScope a
      else .ok { space := .remote t, off := off, pieces := [{ va := a, key := keyScratch s.ctxn t off, n := n, tag := true }] } := by
  have hspace := spaceOf_remote s.cur.tile hloc ho h
  rw [ht] at hspace
  rw [State.look_of_reached hpass halign hspace nofun hreach, State.remoteFault_remote]
  simp [Space.scratchTile, spaceSize, State.locate_remote]

theorem State.look_cmem (h : 0x400000 ≤ o ∧ o < 0x800000) (hreach : use.reaches .cmem = true) :
    s.look (Access.at c a n mask n use scope) none =
      if 0x800000 < o + n then .bad Code.memSpace a
      else .ok { space := .cmem, off := o - 0x400000
                 pieces := [{ va := a, key := keyCmem (clusterOf s.cur.tile) (o - 0x400000), n := n, tag := true }] } := by
  have hsize : 0x400000 < o - 0x400000 + n ↔ 0x800000 < o + n := by omega
  rw [State.look_of_reached hpass halign (spaceOf_cmem _ hloc ho h) nofun hreach]
  simp [State.remoteFault, Space.scratchTile, spaceSize, State.locate_cmem, hsize]

theorem State.look_wstore (h : 0x10000000 ≤ o ∧ o < 0x20000000) (hreach : use.reaches .wstore = true) :
    s.look (Access.at c a n mask n use scope) none =
      if 0x20000000 < o + n then .bad Code.memSpace a
      else if use.writes then .bad Code.memWsro a
      else .ok { space := .wstore, off := o - 0x10000000
                 pieces := [{ va := a, key := keyWs (quadOf s.cur.tile) (o - 0x10000000), n := n, tag := false }] } := by
  have hsize : 0x10000000 < o - 0x10000000 + n ↔ 0x20000000 < o + n := by omega
  rw [State.look_of_reached hpass halign (spaceOf_wstore _ hloc ho h) nofun hreach]
  simp [State.remoteFault, Space.scratchTile, spaceSize, State.locate_wstore, hsize]

end

/-! ## Which instructions reach which space (R124, R132) -/

theorem scopeWide_iff (scope : Scope) : scopeWide scope = true ↔ scope = .partition ∨ scope = .device ∨ scope = .system := by
  cases scope <;> simp [scopeWide]

/-- A scratchpad is reached by every instruction but `ws.q` and the updates. -/
theorem Use.reaches_scratchTile {use : Use} (hq : use ≠ .wsq) (hu : use ≠ .update) {sp : Space} (hsp : sp.scratchTile.isSome = true) :
    use.reaches sp = true := by
  cases sp <;> simp_all [Use.reaches, Space.scratchTile]

section
variable {use : Use} (hq : use ≠ .wsq) (hu : use ≠ .update) (hs : use ≠ .sync) (hi : use ≠ .syncInit)
include hu hs hi

theorem Use.reaches_wstore : use.reaches .wstore = true := by
  simp [Use.reaches, hu, hs, hi]

include hq

theorem Use.reaches_cmem : use.reaches .cmem = true := by
  simp [Use.reaches, hq, hu, hs, hi]

omit hs hi in
theorem Use.writes_iff : use.writes = true ↔ use = .store ∨ use = .storeWide ∨ use = .vstore ∨ use = .scatter ∨ use = .atomic ∨
    use = .syncInit ∨ use = .capStore := by
  cases use <;> simp_all [Use.writes]

end

end Sys2Proof.Machine

open Sys2Proof Sys2Proof.Machine in
/-- Settles O14: the checks of a look stand one before the other, and each range of the map leaves only those that can fail in it. -/
theorem accessChecks : Obligations.AccessChecks := by
  unfold Obligations.AccessChecks
  refine ⟨?_, Cap.checkAccess_eq⟩
  intro s c a n mask use scope _ hlocal hq hu x o wide stores spot
  have hwide : scopeWide scope = true ↔ wide := scopeWide_iff scope
  have hstores : use.writes = true ↔ stores := Use.writes_iff hq hu
  cases hcheck : c.checkAccess a n mask with
  | some code => exact State.look_of_checkAccess hcheck
  | none =>
    have ho : a - loc = o := rfl
    clear_value o
    dsimp only
    split
    case isTrue halign => exact State.look_of_misaligned hcheck halign
    case isFalse halign =>
    replace halign : a % n = 0 := not_not.mp halign
    split
    case isTrue hlow => exact State.look_of_unreached hcheck halign (spaceOf_between _ hlocal hlow) (.inl rfl)
    case isFalse hlow =>
    have hloc : loc ≤ a := Nat.le_of_not_lt hlow
    split
    case isTrue h =>
      have hlook := State.look_scratch (s := s) (scope := scope) hcheck halign hloc ho h (Use.reaches_scratchTile hq hu rfl)
      simp only [hwide] at hlook
      exact hlook
    case isFalse hscratch =>
    split
    case isTrue h =>
      have hlook := State.look_remote (s := s) (scope := scope) hcheck halign hloc ho h rfl (Use.reaches_scratchTile hq hu rfl)
      simp only [hwide] at hlook
      exact hlook
    case isFalse hremote =>
    split
    case isTrue h =>
      intro hs hi
      exact State.look_cmem hcheck halign hloc ho h (Use.reaches_cmem hq hu hs hi)
    case isFalse hcmem =>
    split
    case isTrue h =>
      intro hs hi
      have hlook := State.look_wstore (s := s) (scope := scope) hcheck halign hloc ho h (Use.reaches_wstore hu hs hi)
      simp only [hstores] at hlook
      exact hlook
    case isFalse hwstore =>
    split
    case isTrue h =>
      intro huse
      exact State.look_of_unreached hcheck halign (spaceOf_inbox _ hloc ho h) (.inr (by rcases huse with rfl | rfl | rfl | rfl <;> rfl))
    case isFalse hinbox =>
    split
    case isTrue h =>
      intro huse
      exact State.look_of_unreached hcheck halign (spaceOf_window _ hloc ho h) (.inr (by rcases huse with rfl | rfl | rfl | rfl <;> rfl))
    case isFalse hwindow =>
      exact State.look_of_unreached hcheck halign (spaceOf_void _ hloc ho hscratch hinbox hwindow hremote hcmem hwstore) (.inl rfl)
end

section
/-! PROOFS. Scalar loads (R126, R130): one shape for the widths, one for the mask registers. -/

namespace Sys2Proof.Machine

section
variable {p : Pfx} {m : MemOp} {s : State} {sp : Spot} {width : Nat}

theorem loadScalar_done {d : BitVec 5} {k n : Nat} (h : s.onElement p 32 d 32 0 k n)
    (hl : s.look (s.scalarAccess p m width k [permLD] .load) none = .ok sp) (hclean : (s.reach p sp.globals).readsClean sp width)
    (f : Nat → Word) : loadScalar p d m width s f =
      let t := s.reach p sp.globals
      let u := t.noteReads (t.linesRead sp)
      .next ((u.pend (.s (p.field1 k d) (f (ofBytes (t.readSpot sp width)))) (sp.banks u.cur.tile width)).pastElement p true k n) :=
  runRep_done p true 32 d 32 0 s _ k n h _ (by simp only [hl, atSpot_ok, readAt_of_clean _ hclean])

theorem maskLoad_done {d : BitVec 3} (hf : s.free p)
    (hl : s.look (s.scalarAccess p m 8 0 [permLD] .load) none = .ok sp) (hclean : (s.reach p sp.globals).readsClean sp 8) :
    execKLd p d m s =
      let t := s.reach p sp.globals
      let u := t.noteReads (t.linesRead sp)
      .next ((u.pend (.k d (BitVec.ofNat 64 (ofBytes (t.readSpot sp 8)))) (sp.banks u.cur.tile 8)).past p true) :=
  run_done hf (by simp only [hl, atSpot_ok, readAt_of_clean _ hclean])

end

end Sys2Proof.Machine

open Sys2Proof Sys2Proof.Machine in
/-- Settles O16: the loads of every width and of the mask registers read one spot, and differ only in what they make of its number. -/
theorem scalarLoads : Obligations.ScalarLoads := by
  unfold Obligations.ScalarLoads
  intro p d kd m s sp t u found num
  refine ⟨?_, fun hf ⟨hl, hclean⟩ => maskLoad_done hf hl hclean⟩
  intro k n h gives
  have loads {width : Nat} (hfound : found k width) (f : Nat → Word) : loadScalar p d m width s f = gives width (f (num width)) :=
    loadScalar_done h hfound.1 hfound.2 f
  exact ⟨fun hfound => ⟨loads hfound (signed 8), loads hfound (BitVec.ofNat 64)⟩,
    fun hfound => ⟨loads hfound (signed 16), loads hfound (BitVec.ofNat 64)⟩,
    fun hfound => ⟨loads hfound (signed 32), loads hfound (BitVec.ofNat 64)⟩,
    fun hfound => loads hfound (BitVec.ofNat 64)⟩
end

section
/-! PROOFS. The refresh query (R131, R133, R134). -/

namespace Sys2Proof.Machine

/-- The clk until a bank's refresh state changes (R134). -/
def refreshWait (t b : Nat) : Nat := if inRefresh t b then 4200 * b + 2100 - t else (4200 * b + 67200 - t) % 67200

theorem inRefresh_iff (t b : Nat) : inRefresh t b = true ↔ 4200 * b ≤ t ∧ t < 4200 * b + 2100 := by
  simp [inRefresh]

theorem refreshWord_eq (t b : Nat) : refreshWord t b = BitVec.ofNat 64
    ((if 4200 * b ≤ t ∧ t < 4200 * b + 2100 then 2 ^ 63 else 0) + b * 2 ^ 32 + refreshWait t b) := by
  unfold refreshWord refreshWait
  by_cases h : inRefresh t b = true
  · rw [if_pos ((inRefresh_iff t b).mp h), h]
    simp [bit]
  · rw [if_neg (mt (inRefresh_iff t b).mpr h), Bool.eq_false_iff.mpr h]
    simp [bit]

/-- In refresh, a bank leaves its window next. -/
theorem refreshWait_of_window {t b : Nat} (h : 4200 * b ≤ t ∧ t < 4200 * b + 2100) :
    1 ≤ refreshWait t b ∧ refreshWait t b ≤ 2100 ∧ t + refreshWait t b = 4200 * b + 2100 := by
  rw [refreshWait, if_pos ((inRefresh_iff t b).mpr h)]
  omega

/-- Out of refresh, a bank comes to its window next, in this round or the one after. -/
theorem refreshWait_of_outside {t b : Nat} (hb : b < 16) (ht : t < 67200) (h : ¬ (4200 * b ≤ t ∧ t < 4200 * b + 2100)) :
    1 ≤ refreshWait t b ∧ refreshWait t b ≤ 65100 ∧ (t + refreshWait t b) % 67200 = 4200 * b := by
  rw [refreshWait, if_neg (mt (inRefresh_iff t b).mp h)]
  omega

theorem State.refreshTime_lt (s : State) (die : Nat) : s.refreshTime die < 67200 := Nat.mod_lt _ (by decide)

theorem refreshQuery_done {p : Pfx} {d : BitVec 5} {m : MemOp} {s : State} {k n : Nat} {sp : Spot} (h : s.onElement p 32 d 32 0 k n)
    (hl : s.look (Access.at (s.c m.cap) (s.effective p m 0) 1 (need [permLD]) 1 .wsq p.scope) none = .ok sp) :
    execWsQ p d m s =
      let t := s.reach p sp.globals
      .next ((t.pend (.s (p.field1 k d) (refreshWord (t.refreshTime (dieOf t.cur.tile)) (sp.off / 2 ^ 24 % 16)))).pastElement p true k n) :=
  runRep_done p true 32 d 32 0 s _ k n h _ (by simp only [hl, atSpot_ok])

end Sys2Proof.Machine

open Sys2Proof Sys2Proof.Machine in
/-- Settles O22: the time in the round of 67,200 lies in the bank's window or out of it, and either way the next change is ahead. -/
theorem refreshQueryAndPrefetch : Obligations.RefreshQueryAndPrefetch := by
  unfold Obligations.RefreshQueryAndPrefetch
  intro p d m s k n off
  refine ⟨fun hf => (run_done hf rfl : execPf p d m s = _), ?_⟩
  intro h sp hl t bank now ref
  have hbank : bank < 16 := Nat.mod_lt _ (by decide)
  have hnow : now < 67200 := State.refreshTime_lt _ _
  have hquery : execWsQ p d m s = _ := refreshQuery_done h hl
  simp only [refreshWord_eq] at hquery
  by_cases href : ref
  · obtain ⟨hahead, hnear, hend⟩ := refreshWait_of_window href
    exact ⟨_, hahead, Nat.le_trans hnear (by decide), fun _ => ⟨hnear, hend⟩, fun hout => absurd href hout, hquery⟩
  · obtain ⟨hahead, hnear, hstart⟩ := refreshWait_of_outside hbank hnow href
    exact ⟨_, hahead, Nat.le_trans hnear (by decide), fun hin => absurd hin href, fun _ => ⟨hnear, hstart⟩, hquery⟩
end

section
/-! PROOFS. Scalar stores (R121, R126, R130, R187, R188, R191): the three ways in which bytes reach a spot, and that a pinned firing's
direct write, which aborts readers, leaves the issuing unit and its context. -/

namespace Sys2Proof.Machine

/-! ## Aborts leave the issuing unit and the loaded contexts (R188, R189) -/

/-- The issuing unit, and the context that each tile has loaded. -/
def State.seats (s : State) : Unit_ × (Nat → Option Nat) := (s.cur, fun n => (s.tile n).loaded)

theorem State.foldl_seats {α : Type} (f : State → α → State) (l : List α) (s : State)
    (h : ∀ t a, (f t a).seats = t.seats) : (l.foldl f s).seats = s.seats := by
  induction l generalizing s with
  | nil => rfl
  | cons a l ih => rw [List.foldl_cons, ih, h]

/-- Equal seats issue for the same context. -/
theorem State.cur_ctxn_of_seats {s t : State} (h : t.seats = s.seats) : t.cur = s.cur ∧ t.ctxn = s.ctxn := by
  have hcur : t.cur = s.cur := congrArg Prod.fst h
  have hloaded (n : Nat) : (t.tile n).loaded = (s.tile n).loaded := congrFun (congrArg Prod.snd h) n
  exact ⟨hcur, by rw [State.ctxn, State.ctxn, hcur, hloaded]⟩

/-- A tile written back with the context that it had loaded. -/
theorem State.setTile_seats {s : State} {n : Nat} {x : Tile} (h : x.loaded = (s.tile n).loaded) : (s.setTile n x).seats = s.seats := by
  refine Prod.ext rfl (funext fun j => ?_)
  by_cases hj : j = n
  · subst hj
    simpa only [State.seats, State.tile_setTile] using h
  · simp only [State.seats, State.tile_setTile_other _ _ _ _ hj]

@[simp] theorem State.setTctxOf_seats (s : State) (n c : Nat) (x : TileCtx) : (s.setTctxOf n c x).seats = s.seats :=
  State.setTile_seats rfl

@[simp] theorem State.rankReady_seats (s : State) (n c : Nat) : (s.rankReady n c).seats = s.seats := by
  refine (State.setTile_seats ?_).trans (s.setTctxOf_seats n c _)
  rfl

@[simp] theorem State.note_seats (s : State) (n c : Nat) (f : Firing) (k : FireEvent) : (s.note n c f k).seats = s.seats := by
  unfold State.note
  split <;> rfl

@[simp] theorem State.dropLines_seats (s : State) (l : LiveFiring) : (s.dropLines l).seats = s.seats := by
  unfold State.dropLines
  split <;> rfl

@[simp] theorem State.leaveSweeps_seats (s : State) (ids : List FiringId) : (s.leaveSweeps ids).seats = s.seats := by
  unfold State.leaveSweeps
  split <;> rfl

/-- Copies that take the fate of an aborted firing. -/
@[simp] theorem State.settleCopies_aborted_seats (s : State) (n ctx : Nat) (id : FiringId) (detach : Bool) :
    (s.settleCopies n ctx id .aborted detach).seats = s.seats := by
  rw [State.settleCopies, if_neg nofun]
  exact (State.setTctxOf_seats _ n ctx _).trans (State.setTile_seats rfl)

@[simp] theorem State.abortOne_seats (s : State) (l : LiveFiring) (rerun recover : Bool) :
    (s.abortOne l rerun recover).seats = s.seats := by
  have hcleared : ((s.dropLines l).leaveSweeps [l.id]).seats = s.seats := by simp
  have hloaded : (s.tile l.tile).loaded = (((s.dropLines l).leaveSweeps [l.id]).tile l.tile).loaded :=
    (congrFun (congrArg Prod.snd hcleared) l.tile).symm
  simp only [State.abortOne, State.note_seats, State.rankReady_seats, State.settleCopies_aborted_seats, State.setTctxOf_seats]
  refine (State.setTile_seats ?_).trans hcleared
  exact hloaded

@[simp] theorem State.dropTasks_seats (s : State) (id : FiringId) : (s.dropTasks id).seats = s.seats := by
  refine Prod.ext rfl (funext fun n => ?_)
  simp only [State.seats, State.dropTasks, State.tile, Map.get, Map.get?_mapKV]
  cases Map.get? s.tiles n <;> rfl

@[simp] theorem State.dropReruns_seats (s : State) (p : Nat) (id : FiringId) : (s.dropReruns p id).seats = s.seats :=
  State.foldl_seats _ _ s (fun t h => (t.setTctxOf h.1 h.2 _).rankReady_seats h.1 h.2 |>.trans (t.setTctxOf_seats h.1 h.2 _))

@[simp] theorem State.abortForks_seats (fuel : Nat) (s : State) (id : FiringId) : (State.abortForks fuel s id).seats = s.seats := by
  induction fuel generalizing s id with
  | zero => rfl
  | succ fuel ih =>
    rw [State.abortForks, State.foldl_seats _ _ _ (fun t l => by rw [ih, State.abortOne_seats])]
    simp

@[simp] theorem State.abort_seats (s : State) (l : LiveFiring) (recover : Bool) : (s.abort l recover).seats = s.seats := by
  simp [State.abort]

@[simp] theorem State.abortReaders_seats (s : State) (p : Nat) (ls : List LiveFiring) : (s.abortReaders p ls).seats = s.seats := by
  refine State.foldl_seats _ ls s (fun t l => ?_)
  split <;> simp

theorem State.directWrite_cur_ctxn (s : State) (n ctx : Nat) (w : FiringId) (lines : List Nat) :
    (s.directWrite n ctx w lines).cur = s.cur ∧ (s.directWrite n ctx w lines).ctxn = s.ctxn :=
  State.cur_ctxn_of_seats (s.abortReaders_seats _ _)

/-! ## The bytes of a store at its spot -/

theorem putBytes_of_local {sp : Spot} {q : Piece} (hspace : sp.space ≠ .global) (hwindow : sp.space ≠ .window) (hpieces : sp.pieces = [q])
    (ta : Nat) (bs : List Byte) (t : State) (body : State → Res) :
    putBytes ta sp bs t body = body (t.writeBytes t.keyId q.key bs) := by
  have hwrite : putBytes ta sp bs t body = writeAt sp bs false t body := by
    rw [putBytes]
    split
    · contradiction
    · rfl
  exact hwrite.trans (writeAt_of_local hspace hpieces bs false t body)

theorem putBytes_of_global {sp : Spot} (hspace : sp.space = .global) (ta : Nat) (bs : List Byte) (t : State) (body : State → Res) :
    putBytes ta sp bs t body = act t (storesOf sp.pieces bs false) body := by
  rw [putBytes, hspace]
  exact writeAt_of_global hspace bs false t body

/-- A pinned firing performs its actions at once, unless it has a pair to compare (R187, R188, R387). -/
theorem act_of_pinned {s : State} {f : Firing} {as : List Action} (body : State → Res) (hf : s.fir = some f) (hp : f.pinned = true)
    (hpair : s.partner s.cur.tile = none) : act s as body =
      body (((s.directWrite s.cur.tile s.ctxn { tile := s.cur.tile, serial := f.serial } (writeLines as)).performEach
        s.cur.tile s.ctxn as).cleanseRuns (storeRuns as)) := by
  have hspec : s.speculative = false := by simp [State.speculative, hf, hp]
  have hpin : s.tryPin = .pinned s := by simp [State.tryPin, hf, hp]
  have hagree : s.comparePair (s.self f) = (s, true) := by
    unfold State.comparePair State.self
    simp only [hpair]
  have hcompare (body : State → Res) : afterCompare (compared as) s body = body s := by
    simp only [afterCompare, hf, hagree]
    split <;> rfl
  obtain ⟨hcur, hctxn⟩ := s.directWrite_cur_ctxn s.cur.tile s.ctxn { tile := s.cur.tile, serial := f.serial } (writeLines as)
  simp only [act, hspec, Bool.false_and, Bool.false_eq_true, if_false, afterPin, hpin, hf, hcompare, hcur, hctxn]

/-- The store of bytes to one piece, as a firing's action. -/
abbrev Piece.storeOf (q : Piece) (bs : List Byte) : Action := .store q.va [(q.key, q.n)] (bs.take q.n) false

/-- How bytes for one piece of a spot leave a state (R121): written at once in a local space; held by a speculative firing with room;
performed at once by a pinned firing, after the readers of their lines have been aborted. -/
inductive State.StoresTo (t : State) (sp : Spot) (q : Piece) (bs : List Byte) : State → Prop
  | localSpace (hspace : sp.space ≠ .global ∧ sp.space ≠ .window) : t.StoresTo sp q bs (t.writeBytes t.keyId q.key bs)
  | held (f : Firing) (h : sp.space = .global ∧ t.fir = some f ∧ f.pinned = false ∧ t.fits [q.storeOf bs] = true) :
      t.StoresTo sp q bs ((t.cleanseLines f.serial [q.storeOf bs]).setFir { f with actions := f.actions ++ [q.storeOf bs] })
  | direct (f : Firing) (h : sp.space = .global ∧ t.fir = some f ∧ f.pinned = true ∧ t.partner t.cur.tile = none) :
      t.StoresTo sp q bs (((t.directWrite t.cur.tile t.ctxn { tile := t.cur.tile, serial := f.serial }
        (writeLines [q.storeOf bs])).perform t.cur.tile t.ctxn (q.storeOf bs)).cleanseRuns [(q.key, q.n)])

section
variable {p : Pfx} {m : MemOp} {s u : State} {sp : Spot} {q : Piece}

theorem putBytes_of_storesTo {bs : List Byte} (h : s.StoresTo sp q bs u) (hpieces : sp.pieces = [q]) (ta : Nat)
    (body : State → Res) : putBytes ta sp bs s body = body u := by
  cases h with
  | localSpace hspace => exact putBytes_of_local hspace.1 hspace.2 hpieces ta bs s body
  | held f h =>
    obtain ⟨hspace, hfir, hspec, hfit⟩ := h
    rw [putBytes_of_global hspace, hpieces]
    exact act_of_speculative body hfir hspec hfit
  | direct f h =>
    obtain ⟨hspace, hfir, hpin, hpair⟩ := h
    rw [putBytes_of_global hspace, hpieces]
    exact act_of_pinned body hfir hpin hpair

variable (hrel : (s.reach p sp.globals).releasesNow p (sp.space != .global) (sp.space == .global)) (hpieces : sp.pieces = [q])
include hrel hpieces

theorem storeScalar_done {d : BitVec 5} {k n width : Nat} {use : Use} (h : s.onElement p 32 d 32 0 k n)
    (hl : s.look (s.scalarAccess p m width k [permST] use) none = .ok sp)
    (hstores : (s.reach p sp.globals).StoresTo sp q (toBytes width ((s.reach p sp.globals).s (p.field1 k d)).toNat) u) :
    storeScalar p d m width use s = .next (u.pastElement p true k n) :=
  runRep_done p true 32 d 32 0 s _ k n h _
    (by simp only [hl, atSpot_ok, afterRelease_of_releasesNow _ hrel, putBytes_of_storesTo hstores hpieces])

theorem maskStore_done {d : BitVec 3} (hf : s.free p) (hl : s.look (s.scalarAccess p m 8 0 [permST] .store) none = .ok sp)
    (hstores : (s.reach p sp.globals).StoresTo sp q (toBytes 8 ((s.reach p sp.globals).k d).toNat) u) :
    execKSt p d m s = .next (u.past p true) :=
  run_done hf (by simp only [hl, atSpot_ok, afterRelease_of_releasesNow _ hrel, putBytes_of_storesTo hstores hpieces])

end

end Sys2Proof.Machine

open Sys2Proof Sys2Proof.Machine in
/-- Settles O17: the stores of every width and of the mask registers put their bytes at one spot, in one of three ways. -/
theorem scalarStores : Obligations.ScalarStores := by
  unfold Obligations.ScalarStores
  intro p d kd m s sp q t hrel hpieces found written stored held isLocal buffers direct wrote
  refine ⟨?_, fun hf hl => ⟨fun h => maskStore_done hrel hpieces hf hl (.localSpace h),
    fun f h => maskStore_done hrel hpieces hf hl (.held f h), fun f h => maskStore_done hrel hpieces hf hl (.direct f h)⟩⟩
  intro k n h w form
  have forms {i : Instr} {use : Use} {width : Nat} (hexec : exec i s = storeScalar p d m width use s) : form i use width :=
    fun hl => ⟨fun hlocal => hexec.trans (storeScalar_done hrel hpieces h hl (.localSpace hlocal)),
      fun f hheld => hexec.trans (storeScalar_done hrel hpieces h hl (.held f hheld)),
      fun f hdirect => hexec.trans (storeScalar_done hrel hpieces h hl (.direct f hdirect))⟩
  exact ⟨forms rfl, forms rfl, forms rfl, forms rfl⟩
end

section
/-! PROOFS. Pages 4 and 5 lane by lane (R138, R139, R144, R147 to R149): integer and bitwise forms, and moves of lanes. -/

namespace Sys2Proof.Machine

/-! ## The lanes of a masked result -/

/-- The destination with its inactive lanes kept, or zero (R138). -/
theorem State.masked_eq (s : State) (p : Pfx) (d : BitVec 5) (f : Nat → Lane) : s.masked p d f =
    s.setLanes d (if p.zeroing then BitVec.allOnes 64 else s.k p.maskReg)
      (Vector.ofFn (fun j : Fin 64 => if (s.k p.maskReg).getLsbD j then f j else if p.zeroing then 0 else VReg.lane (s.v d) j)) := by
  rw [State.masked, mergeLanes_eq_ofFn, writtenLanes]

section
variable {p : Pfx} {d a : BitVec 5} {s : State} {k n : Nat}

/-- An element that ends well, by the value of the state that it leaves. -/
theorem runRep_gives {paged : Bool} {size1 size2 : Nat} {f1 f2 : BitVec 5} {t u : State}
    {body : Nat → BitVec 5 → BitVec 5 → State → Res} (h : s.onElement p size1 f1 size2 f2 k n)
    (hb : body k (p.field1 k f1) (p.field2 k f2) s = .done t) (ht : t = u) :
    runRep p paged size1 f1 size2 f2 s body = .next (u.pastElement p paged k n) :=
  ht ▸ runRep_done p paged size1 f1 size2 f2 s body k n h t hb

/-- An element that merges the lanes f into its destination, by the value g of each lane. -/
theorem masked_gives {size2 : Nat} {f g : Nat → Lane} {body : Nat → BitVec 5 → BitVec 5 → State → Res}
    (h : s.onElement p 32 d size2 a k n)
    (hb : body k (p.field1 k d) (p.field2 k a) s = .done (s.masked p (p.field1 k d) f)) (hfg : ∀ j, f j = g j) :
    runRep p true 32 d size2 a s body = .next ((s.setLanes (p.field1 k d)
      (if p.zeroing then BitVec.allOnes 64 else s.k p.maskReg)
      (Vector.ofFn (fun j : Fin 64 => if (s.k p.maskReg).getLsbD j then g j
        else if p.zeroing then 0 else VReg.lane (s.v (p.field1 k d)) j))).pastElement p true k n) := by
  obtain rfl : f = g := funext hfg
  exact runRep_gives h hb (State.masked_eq ..)

end

/-! ## Integer operations on a lane (R144) -/

namespace Lane

theorem add_eq_ofInt (x y : Lane) : x + y = BitVec.ofInt 32 (x.toInt + y.toInt) := by
  rw [BitVec.ofInt_add, BitVec.ofInt_toInt, BitVec.ofInt_toInt]

theorem sub_eq_ofInt (x y : Lane) : x - y = BitVec.ofInt 32 (x.toInt - y.toInt) := by
  rw [sub_eq_add_neg, sub_eq_add_neg, BitVec.ofInt_add, BitVec.ofInt_neg, BitVec.ofInt_toInt, BitVec.ofInt_toInt]

theorem mul_eq_ofInt (x y : Lane) : x * y = BitVec.ofInt 32 (x.toInt * y.toInt) := by
  rw [BitVec.ofInt_mul, BitVec.ofInt_toInt, BitVec.ofInt_toInt]

theorem min_eq_ofInt (x y : Lane) : (if y.slt x then y else x) = BitVec.ofInt 32 (min x.toInt y.toInt) := by
  by_cases h : y.toInt < x.toInt
  · rw [if_pos (BitVec.slt_iff_toInt_lt.mpr h), min_eq_right h.le, BitVec.ofInt_toInt]
  · rw [if_neg (mt BitVec.slt_iff_toInt_lt.mp h), min_eq_left (not_lt.mp h), BitVec.ofInt_toInt]

theorem max_eq_ofInt (x y : Lane) : (if x.slt y then y else x) = BitVec.ofInt 32 (max x.toInt y.toInt) := by
  by_cases h : x.toInt < y.toInt
  · rw [if_pos (BitVec.slt_iff_toInt_lt.mpr h), max_eq_right h.le, BitVec.ofInt_toInt]
  · rw [if_neg (mt BitVec.slt_iff_toInt_lt.mp h), max_eq_left (not_lt.mp h), BitVec.ofInt_toInt]

theorem abs_eq_ofNat (y : Lane) : (if y.msb then 0 - y else y) = BitVec.ofNat 32 y.toInt.natAbs := by
  rw [← BitVec.ofInt_natCast, BitVec.msb_eq_toInt]
  by_cases h : y.toInt < 0
  · rw [if_pos (decide_eq_true h), Int.ofNat_natAbs_of_nonpos h.le, BitVec.ofInt_neg, BitVec.ofInt_toInt]
    exact BitVec.zero_sub y
  · rw [if_neg (by simpa using h), Int.natAbs_of_nonneg (not_lt.mp h), BitVec.ofInt_toInt]

theorem shiftLeft_eq_ofNat (x : Lane) (m : Nat) : x <<< m = BitVec.ofNat 32 (x.toNat * 2 ^ m) := by
  apply BitVec.eq_of_toNat_eq
  rw [BitVec.toNat_shiftLeft, Nat.shiftLeft_eq, BitVec.toNat_ofNat]

theorem shiftRight_eq_ofNat (x : Lane) (m : Nat) : x >>> m = BitVec.ofNat 32 (x.toNat / 2 ^ m) := by
  apply BitVec.eq_of_toNat_eq
  rw [BitVec.toNat_ushiftRight, Nat.shiftRight_eq_div_pow, BitVec.toNat_ofNat,
    Nat.mod_eq_of_lt ((Nat.div_le_self _ _).trans_lt x.isLt)]

theorem sshiftRight_eq_ofInt (x : Lane) (m : Nat) : x.sshiftRight m = BitVec.ofInt 32 (x.toInt / 2 ^ m) := by
  rw [BitVec.sshiftRight, Int.shiftRight_eq_div_pow]
  rfl

end Lane

/-! ## Moves of lanes (R147 to R149) -/

theorem VReg.lane_mod (v : VReg) (j : Nat) : VReg.lane v (j % 64) = VReg.lane v j := by
  simp only [VReg.lane, Nat.mod_mod]

theorem tabulate_eq_ofFn {α : Type} {n : Nat} (f : Nat → α) : tabulate n f = Vector.ofFn (fun j : Fin n => f j) := by
  refine Vector.ext fun i hi => ?_
  simp only [tabulate, Vector.getElem_ofFn, Vector.getElem_mk, List.getElem_toArray, List.getElem_map, List.getElem_range]

theorem laneMask_singleton (l : Nat) : laneMask [l] = BitVec.ofNat 64 (2 ^ l) :=
  laneMask_eq fun j hj => by rw [getLsbD_ofNat_two_pow l hj, decide_eq_true_iff, List.mem_singleton]

/-- A lane of a compression: of the lane that its place in the list names, or the other value past the list's end. -/
theorem getElem?_elim (l : List Nat) (j : Nat) (f : Nat → Lane) (z : Lane) :
    (match l[j]? with | some i => f i | none => z) = if h : j < l.length then f l[j] else z := by
  by_cases h : j < l.length
  · rw [dif_pos h, List.getElem?_eq_getElem h]
  · rw [dif_neg h, List.getElem?_eq_none (not_lt.mp h)]

/-- The lanes that a compression writes: as many as the mask has, or all of them. -/
theorem writtenLanes_range_getLsbD (m : Nat) (zeroing : Bool) {j : Nat} (hj : j < 64) :
    (writtenLanes (laneMask (List.range m)) zeroing).getLsbD j = (zeroing || decide (j < m)) := by
  cases zeroing
  · rw [writtenLanes, if_neg Bool.false_ne_true, laneMask_getLsbD _ hj, Bool.false_or, Bool.eq_iff_iff]
    simp
  · rw [writtenLanes, if_pos rfl, BitVec.getLsbD_allOnes, Bool.true_or, decide_eq_true hj]

end Sys2Proof.Machine

open Sys2Proof Sys2Proof.Machine in
/-- Settles O23: each form but the moves of one lane and the compression merges one function of the lanes under the mask; what that function
gives in a lane is said by the facts above. -/
theorem vectorIntegerLanes : Obligations.VectorIntegerLanes := by
  unfold Obligations.VectorIntegerLanes
  refine ⟨fun p d a s k n h => ?_, fun p d a i s k n => ?_⟩
  · intro x y written lanes
    have form {i : Instr} {body : Nat → BitVec 5 → BitVec 5 → State → Res} {f g : Nat → Lane}
        (hi : exec i s = runRep p true 32 d 32 a s body)
        (hb : body k (p.field1 k d) (p.field2 k a) s = .done (s.masked p (p.field1 k d) f)) (hfg : ∀ j, f j = g j) : lanes i g :=
      hi.trans (masked_gives (g := g) h hb hfg)
    have binary {i : Instr} {f : Lane → Lane → Lane} {g : Nat → Lane} (hi : exec i s = vecBin p d a s f)
        (hfg : ∀ j, f (x j) (y j) = g j) : lanes i g := form hi rfl hfg
    have unary {i : Instr} {f : Lane → Lane} {g : Nat → Lane} (hi : exec i s = vecUn p d a s f) (hfg : ∀ j, f (y j) = g j) : lanes i g :=
      binary (f := fun _ v => f v) hi hfg
    clear_value lanes
    exact ⟨unary (rfl : execVMv .. = _) fun _ => rfl,
      binary (rfl : execVIadd .. = _) fun _ => Lane.add_eq_ofInt ..,
      binary (rfl : execVIsub .. = _) fun _ => Lane.sub_eq_ofInt ..,
      binary (rfl : execVImul .. = _) fun _ => Lane.mul_eq_ofInt ..,
      binary (rfl : execVImin .. = _) fun _ => Lane.min_eq_ofInt ..,
      binary (rfl : execVImax .. = _) fun _ => Lane.max_eq_ofInt ..,
      unary (rfl : execVIabs .. = _) fun _ => Lane.abs_eq_ofNat _,
      binary (rfl : execVAnd .. = _) fun _ => rfl, binary (rfl : execVOr .. = _) fun _ => rfl,
      binary (rfl : execVXor .. = _) fun _ => rfl,
      binary (rfl : execVShl .. = _) fun _ => Lane.shiftLeft_eq_ofNat ..,
      binary (rfl : execVShr .. = _) fun _ => Lane.shiftRight_eq_ofNat ..,
      binary (rfl : execVSra .. = _) fun _ => Lane.sshiftRight_eq_ofInt ..,
      form (rfl : execVBcs .. = _) rfl fun _ => (BitVec.setWidth_eq_extractLsb' (by decide)).symm,
      form (rfl : execVPerm .. = _) rfl fun _ => rfl⟩
  · intro x y written put active lanes
    refine ⟨fun h hi => ⟨?_, ?_⟩, fun h => (masked_gives h rfl fun _ => rfl : execVLi .. = _), fun h => ⟨?_, ?_, ?_⟩⟩
    · exact (masked_gives h rfl fun _ => by rw [hi] : execVBcl .. = _)
    · exact (masked_gives h rfl fun _ => by rw [hi, ← VReg.lane_mod] : execVRot .. = _)
    · refine ⟨_, fun j hj => writtenLanes_range_getLsbD _ _ hj, (?_ : execVCmpr .. = _)⟩
      refine runRep_gives h rfl (congrArg _ ?_)
      rw [tabulate_eq_ofFn]
      exact congrArg _ (funext fun j => getElem?_elim active j y _)
    · exact (runRep_gives h rfl (congrArg _ (BitVec.ofNat_toNat ..).symm) : execVExt .. = _)
    · intro l
      refine (runRep_gives h rfl ?_ : execVIns .. = _)
      rw [laneMask_singleton, tabulate_eq_ofFn, BitVec.setWidth_eq_extractLsb' (by decide)]
end

section
/-! PROOFS. Compares into a k register (R138, R145). -/

namespace Sys2Proof.Machine

theorem isNan_iff (v : Lane) : isNan v = true ↔ v.toNat % 2 ^ 31 > 0x7F800000 := decide_eq_true_iff

/-- A relation of two lanes that holds only where neither is a NaN. -/
theorem not_isNan_and_iff {x y : Lane} {b : Bool} {r : Prop} (h : b = true ↔ r) : (!isNan x && !isNan y && b) = true ↔
    ¬ x.toNat % 2 ^ 31 > 0x7F800000 ∧ ¬ y.toNat % 2 ^ 31 > 0x7F800000 ∧ r := by
  rw [← isNan_iff, ← isNan_iff, ← h, Bool.and_eq_true, Bool.and_eq_true, Bool.not_eq_true', Bool.not_eq_true', Bool.not_eq_true,
    Bool.not_eq_true, and_assoc]

theorem fun_iff (x y : Lane) : fun_ x y = true ↔ x.toNat % 2 ^ 31 > 0x7F800000 ∨ y.toNat % 2 ^ 31 > 0x7F800000 := by
  rw [fun_, Bool.or_eq_true, isNan_iff, isNan_iff]

theorem laneMask_filter_getLsbD (f : Nat → Bool) {j : Nat} (hj : j < 64) : (laneMask (lanes64.filter f)).getLsbD j = f j := by
  rw [laneMask_getLsbD _ hj, Bool.eq_iff_iff, List.contains_iff_mem, List.mem_filter, lanes64, List.mem_range, and_iff_right hj]

/-- A compare writes its bit for an active lane, and for an inactive one the old bit or zero. -/
theorem vecCmp_gives {p : Pfx} {d a : BitVec 5} {s : State} {k n : Nat} {f : Lane → Lane → Bool} {r : Lane → Lane → Prop}
    (h : s.onElement p 32 d 32 a k n) (hr : ∀ x y, f x y = true ↔ r x y) : ∃ w : Word,
      (∀ j, j < 64 → ((s.k p.maskReg).getLsbD j = true →
          (w.getLsbD j = true ↔ r (VReg.lane (s.v (p.field1 k d)) j) (VReg.lane (s.v (p.field2 k a)) j))) ∧
        ((s.k p.maskReg).getLsbD j = false → w.getLsbD j = (!p.zeroing && (s.k p.cmpDest).getLsbD j))) ∧
      vecCmp p d a s f = .next ((s.setK p.cmpDest w).pastElement p true k n) := by
  refine ⟨_, fun j hj => ?_, runRep_done p true 32 d 32 a s _ k n h _ rfl⟩
  rw [laneMask_filter_getLsbD _ hj]
  refine ⟨fun hm => ?_, fun hm => ?_⟩
  · rw [if_pos hm, hr]
  · rw [if_neg (Bool.eq_false_iff.mp hm)]

end Sys2Proof.Machine

open Sys2Proof Sys2Proof.Machine in
/-- Settles O27: every compare is the shape vecCmp at a Boolean function of two lanes that decides its relation. -/
theorem vectorCompares : Obligations.VectorCompares := by
  unfold Obligations.VectorCompares
  intro p d a s k n h x y nan num bits
  have form {i : Instr} {f : Lane → Lane → Bool} {r : Lane → Lane → Prop} (hi : exec i s = vecCmp p d a s f)
      (hr : ∀ x y, f x y = true ↔ r x y) : bits i r := by
    obtain ⟨w, hw, he⟩ := vecCmp_gives h hr
    exact ⟨w, hw, hi.trans he⟩
  clear_value bits
  exact ⟨
    form (rfl : execVFeq .. = _) fun _ _ => not_isNan_and_iff beq_iff_eq,
    form (rfl : execVFlt .. = _) fun _ _ => not_isNan_and_iff decide_eq_true_iff,
    form (rfl : execVFle .. = _) fun _ _ => not_isNan_and_iff decide_eq_true_iff,
    form (rfl : execVFun .. = _) fun_iff,
    form (rfl : execVIeq .. = _) fun _ _ => beq_iff_eq,
    form (rfl : execVIlt .. = _) fun _ _ => BitVec.slt_iff_toInt_lt,
    form (rfl : execVIle .. = _) fun _ _ => BitVec.sle_iff_toInt_le,
    form (rfl : execVIlo .. = _) fun _ _ => BitVec.ult_iff_lt⟩
end

section
/-! PROOFS. Operations on masks, their counts, and reductions (R146, R152). -/

namespace Sys2Proof.Machine

/-! ## Masks -/

theorem maskOp_gives {p : Pfx} {kd ks : BitVec 3} {s : State} {k n : Nat} {f : Word → Word → Word}
    (h : s.onElement p 8 (kd.zeroExtend 5) 8 (ks.zeroExtend 5) k n) : maskOp p kd ks s f =
      .next ((s.setK ((p.field1 k (kd.zeroExtend 5)).setWidth 3) (f (s.k ((p.field1 k (kd.zeroExtend 5)).setWidth 3))
        (s.k ((p.field2 k (ks.zeroExtend 5)).setWidth 3)))).pastElement p true k n) := by
  rw [BitVec.setWidth_eq_extractLsb' (by decide), BitVec.setWidth_eq_extractLsb' (by decide)]
  exact runRep_done p true 8 _ 8 _ s _ k n h _ rfl

/-! ## The tree of a reduction -/

/-- What an absent value and a present one count for in a sum. -/
def presentSum (l : List (Option Int)) : Int := (l.map (fun o => o.getD 0)).sum

theorem combine_add_getD (a b : Option Int) : (combine (fun x y => x + y) a b).getD 0 = a.getD 0 + b.getD 0 := by
  cases a <;> cases b <;> simp [combine]

/-- The sum of as many values as two lists have in common. -/
theorem presentSum_zip (l m : List (Option Int)) (h : l.length = m.length) :
    presentSum ((l.zip m).map (fun q => combine (fun x y => x + y) q.1 q.2)) = presentSum l + presentSum m := by
  induction l generalizing m with
  | nil => cases m <;> simp_all [presentSum]
  | cons a l ih =>
    cases m with
    | nil => simp at h
    | cons b m =>
      have ih := ih m (by simpa using h)
      simp only [presentSum, List.map_cons, List.sum_cons, List.zip_cons_cons, combine_add_getD] at ih ⊢
      omega

/-- One level of the tree halves the list and keeps its sum. -/
theorem foldHalf_add {h : Nat} {l : List (Option Int)} (hl : l.length = 2 * h) :
    (foldHalf (fun x y => x + y) h l).length = h ∧ presentSum (foldHalf (fun x y => x + y) h l) = presentSum l := by
  have htake : (l.take h).length = h := by rw [List.length_take]; omega
  have hdrop : (l.drop h).length = h := by rw [List.length_drop]; omega
  refine ⟨by rw [foldHalf, List.length_map, List.length_zip, htake, hdrop, Nat.min_self], ?_⟩
  rw [foldHalf, presentSum_zip _ _ (htake.trans hdrop.symm), presentSum, presentSum, ← List.sum_append, ← List.map_append,
    List.take_append_drop, presentSum]

/-- The tree over 64 values gives their sum. -/
theorem foldTree_add {l : List (Option Int)} (hl : l.length = 64) : (foldTree (fun x y => x + y) l).getD 0 = presentSum l := by
  obtain ⟨h1, s1⟩ := foldHalf_add (h := 32) hl
  obtain ⟨h2, s2⟩ := foldHalf_add (h := 16) h1
  obtain ⟨h3, s3⟩ := foldHalf_add (h := 8) h2
  obtain ⟨h4, s4⟩ := foldHalf_add (h := 4) h3
  obtain ⟨h5, s5⟩ := foldHalf_add (h := 2) h4
  obtain ⟨h6, s6⟩ := foldHalf_add (h := 1) h5
  rw [← s1, ← s2, ← s3, ← s4, ← s5, ← s6, foldTree]
  simp only [List.foldl_cons, List.foldl_nil]
  obtain ⟨o, ho⟩ := List.length_eq_one_iff.mp h6
  rw [ho, presentSum, List.map_singleton, List.sum_singleton]
  rfl

/-- The values of the chosen numbers of a list sum to those of the list with the others absent. -/
theorem presentSum_filter (l : List Nat) (c : Nat → Bool) (f : Nat → Lane) :
    presentSum ((l.map (fun i => if c i then some (f i) else none)).map (fun o => o.map (fun b => b.toInt))) =
      ((l.filter c).map (fun i => (f i).toInt)).sum := by
  induction l with
  | nil => rfl
  | cons i l ih =>
    simp only [presentSum, List.map_cons, List.sum_cons] at ih ⊢
    rw [ih]
    cases hc : c i <;> simp [hc]

/-! ## Reductions -/

theorem reduceLanes_gives {p : Pfx} {d a : BitVec 5} {s : State} {k n : Nat} {op : Lane → Lane → Lane} {empty : Lane}
    (h : s.onElement p 32 d 32 a k n) : reduceLanes p d a s op empty =
      .next ((s.setS (p.field1 k d) (BitVec.ofNat 64 ((foldTree op ((List.range 64).map (fun j => if (s.k p.maskReg).getLsbD j then
        some (VReg.lane (s.v (p.field2 k a)) j) else none))).getD empty).toNat)).pastElement p true k n) :=
  runRep_gives h rfl (congrArg _ (BitVec.ofNat_toNat ..).symm)

end Sys2Proof.Machine

open Sys2Proof Sys2Proof.Machine in
/-- Settles O28: the mask instructions are one shape, the counts those of page 0, and the float reductions the tree at an operation; the
integer sum is the tree at addition, which is the sum of the active lanes in any order. -/
theorem masksAndReductions : Obligations.MasksAndReductions := by
  unfold Obligations.MasksAndReductions
  intro p kd ks d a s k n
  refine ⟨fun h => ?_, fun h => ?_, fun h => ?_⟩
  · intro dst x y put
    exact ⟨(maskOp_gives h : execKAnd .. = _), (maskOp_gives h : execKOr .. = _), (maskOp_gives h : execKXor .. = _),
      (maskOp_gives h : execKAndn .. = _), (maskOp_gives h : execKNot .. = _), (maskOp_gives h : execKMv .. = _)⟩
  · intro y put
    have hy : s.k ((p.field2 k (ks.zeroExtend 5)).extractLsb' 0 3) = y := by
      rw [← BitVec.setWidth_eq_extractLsb' (by decide)]
    obtain ⟨hle, hclear, hset⟩ := trailingZeros_spec y 0 64
    simp only [Nat.zero_add] at hclear hset
    exact ⟨(runRep_gives h rfl (by rw [hy, popCount_eq_countP]) : execKPop .. = _),
      _, hle, hclear, hset, (runRep_gives h rfl (by rw [hy]) : execKFirst .. = _)⟩
  · intro y active tree put
    refine ⟨(reduceLanes_gives h : execVRsum .. = _), (reduceLanes_gives h : execVRmax .. = _), (reduceLanes_gives h : execVRmin .. = _),
      (runRep_gives h rfl (congrArg _ (congrArg _ ?_)) : execVIrsum .. = _)⟩
    rw [presentLanes, foldTree_add (by simp [lanes64]), presentSum_filter]
    rfl
end

section
/-! PROOFS. NaNs, infinities and zeros in F32 arithmetic (R141, R143). -/

namespace Sys2Proof.Machine

/-! ## The values of special lanes -/

theorem f32Num_of_nan {b : Lane} (h : b.toNat % 2 ^ 31 > 0x7F800000) : f32Num b = .nan b := by
  have hex : b.toNat / 2 ^ 23 % 256 = 255 := by omega
  have hfr : b.toNat % 2 ^ 23 ≠ 0 := by omega
  simp only [f32Num, hex, hfr, if_true, if_false]

/-- A lane that is no NaN is an infinity or finite. -/
theorem f32Num_of_not_nan {b : Lane} (h : ¬ b.toNat % 2 ^ 31 > 0x7F800000) :
    f32Num b = .inf b.msb ∨ f32Num b = .fin b.msb (Lane.sig b) (Lane.lastExp b) := by
  rcases (not_lt.mp h).lt_or_eq with hfin | hinf
  · exact .inr (f32Num_of_finite hfin)
  · exact .inl (f32Num_of_inf hinf)

/-- The lanes of the infinities. -/
theorem eq_inf_of_mag {b : Lane} (h : b.toNat % 2 ^ 31 = 0x7F800000) : b = 0x7F800000 ∨ b = 0x7F800000 ||| 0x80000000 := by
  rcases lt_or_ge b.toNat (2 ^ 31) with hb | hb
  · refine .inl (BitVec.eq_of_toNat_eq ?_)
    change b.toNat = 0x7F800000
    omega
  · refine .inr (BitVec.eq_of_toNat_eq ?_)
    change b.toNat = 0xFF800000
    have := b.isLt
    omega

/-- The lanes of the zeros. -/
theorem eq_zero_of_mag {b : Lane} (h : b.toNat % 2 ^ 31 = 0) : b = 0 ∨ b = 0x80000000 := by
  rcases lt_or_ge b.toNat (2 ^ 31) with hb | hb
  · refine .inl (BitVec.eq_of_toNat_eq ?_)
    change b.toNat = 0
    omega
  · refine .inr (BitVec.eq_of_toNat_eq ?_)
    change b.toNat = 0x80000000
    have := b.isLt
    omega

/-! ## NaN operands -/

section
variable {a b : Lane} {l : List Lane}

theorem firstNan_cons_of_nan (h : a.toNat % 2 ^ 31 > 0x7F800000) : firstNan (a :: l) = some (a ||| 0x00400000) := by
  rw [firstNan, (isNan_iff a).mpr h]
  rfl

theorem firstNan_cons_of_not_nan (h : ¬ a.toNat % 2 ^ 31 > 0x7F800000) : firstNan (a :: l) = firstNan l := by
  rw [firstNan, Bool.eq_false_iff.mpr (mt (isNan_iff a).mp h)]
  rfl

theorem sums_of_firstNan {v : Lane} (mode : Round) (h : firstNan [a, b] = some v) :
    fadd mode a b = v ∧ fsub mode a b = v ∧ fmul mode a b = v := by
  rw [fadd, fsub, fmul, h]
  exact ⟨rfl, rfl, rfl⟩

theorem ffma_of_firstNan {c v : Lane} (mode : Round) (sub : Bool) (h : firstNan [a, b, c] = some v) : ffma mode sub a b c = v := by
  rw [ffma, h]

/-- The five operations, of whose first two operands the first NaN is v. -/
theorem arithmetic_of_nan {v : Lane} (mode : Round) (c : Lane) (h : ∀ l, firstNan (a :: b :: l) = some v) :
    fadd mode a b = v ∧ fsub mode a b = v ∧ fmul mode a b = v ∧ ffma mode false a b c = v ∧ ffma mode true a b c = v := by
  obtain ⟨hadd, hsub, hmul⟩ := sums_of_firstNan mode (h [])
  exact ⟨hadd, hsub, hmul, ffma_of_firstNan mode false (h [c]), ffma_of_firstNan mode true (h [c])⟩

/-! ## Minimum and maximum (R143) -/

section
variable (ha : a.toNat % 2 ^ 31 > 0x7F800000)
include ha

theorem extrema_of_nan (hb : ¬ b.toNat % 2 ^ 31 > 0x7F800000) : fmin a b = b ∧ fmax a b = b ∧ fmin b a = b ∧ fmax b a = b := by
  have ha' := (isNan_iff a).mpr ha
  have hb' := Bool.eq_false_iff.mpr (mt (isNan_iff b).mp hb)
  simp [fmin, fmax, ha', hb']

theorem extrema_of_nans (hb : b.toNat % 2 ^ 31 > 0x7F800000) : fmin a b = a ||| 0x00400000 ∧ fmax a b = a ||| 0x00400000 := by
  have ha' := (isNan_iff a).mpr ha
  have hb' := (isNan_iff b).mpr hb
  simp [fmin, fmax, ha', hb', quiet]

end

/-! ## Products and differences -/

/-- Opposite infinities added, and an infinity less itself, are invalid. -/
theorem sums_invalid (mode : Round) : fadd mode 0x7F800000 (0x7F800000 ||| 0x80000000) = 0x7FC00000 ∧
    fsub mode 0x7F800000 0x7F800000 = 0x7FC00000 := by
  rw [fadd, fsub, show firstNan [0x7F800000, 0x7F800000 ||| 0x80000000] = none by decide,
    show firstNan [0x7F800000, 0x7F800000] = none by decide, show f32Num 0x7F800000 = .inf false by decide,
    show f32Num (0x7F800000 ||| 0x80000000) = .inf true by decide]
  exact ⟨rfl, rfl⟩

/-- A zero by an infinity is invalid. -/
theorem products_invalid (mode : Round) : fmul mode 0 0x7F800000 = 0x7FC00000 ∧ fmul mode 0x7F800000 0x80000000 = 0x7FC00000 := by
  rw [fmul, fmul, show firstNan [0, 0x7F800000] = none by decide, show firstNan [0x7F800000, 0x80000000] = none by decide,
    show f32Num 0x7F800000 = .inf false by decide, show f32Num 0 = .fin false 0 (-149) by decide,
    show f32Num 0x80000000 = .fin true 0 (-149) by decide]
  exact ⟨rfl, rfl⟩

theorem toF32_inf (mode : Round) (neg : Bool) : toF32 mode (.inf neg) = if neg then 0xFF800000 else 0x7F800000 := by
  cases neg <;> rfl

theorem toF32_inf_msb (mode : Round) (neg : Bool) : (toF32 mode (.inf neg)).msb = neg := by
  rw [toF32_inf]
  cases neg <;> rfl

/-- A product is the invalid operation's NaN, or has the sign of its operands' signs. -/
theorem fmul_msb (mode : Round) (ha : ¬ a.toNat % 2 ^ 31 > 0x7F800000) (hb : ¬ b.toNat % 2 ^ 31 > 0x7F800000) :
    fmul mode a b = canonNan ∨ (fmul mode a b).msb = (a.msb != b.msb) := by
  rw [fmul, firstNan_cons_of_not_nan ha, firstNan_cons_of_not_nan hb, firstNan_nil]
  rcases f32Num_of_not_nan ha with ea | ea <;> rcases f32Num_of_not_nan hb with eb | eb <;> simp only [ea, eb, mulNum]
  · exact .inr (toF32_inf_msb ..)
  · split
    · exact .inl rfl
    · exact .inr (toF32_inf_msb ..)
  · split
    · exact .inl rfl
    · exact .inr ((toF32_inf_msb ..).trans (Bool.xor_comm ..))
  · exact .inr (toF32_msb ..)

/-- A finite value but zero less itself is +0, and −0 downward. -/
theorem fsub_self (mode : Round) (ha : ¬ a.toNat % 2 ^ 31 > 0x7F800000) (hinf : a ≠ 0x7F800000) (hlow : a ≠ 0x7F800000 ||| 0x80000000)
    (hzero : a ≠ 0) (hneg : a ≠ 0x80000000) : fsub mode a a = if mode = .rd then 0x80000000 else 0 := by
  have hfin : finite a := lt_of_le_of_ne (not_lt.mp ha) fun h => (eq_inf_of_mag h).elim hinf hlow
  refine (fsub_spec mode hfin hfin).2 rfl fun h => ?_
  exact (eq_zero_of_mag ((Lane.sig_eq_zero_iff a).mp ((realOf_eq_zero_iff a).mp h))).elim hzero hneg

end

end Sys2Proof.Machine
end

section
/-! PROOFS. The elementary functions at NaNs, infinities, zeros and values below zero (R151). -/

namespace Sys2Proof.Machine

theorem elementary_of_nan {a : Lane} (mode : Round) (h : a.toNat % 2 ^ 31 > 0x7F800000) :
    fexp2 a = a ||| 0x00400000 ∧ flog2 a = a ||| 0x00400000 ∧ frcp a = a ||| 0x00400000 ∧ frsq a = a ||| 0x00400000 ∧
      fsqrt mode a = a ||| 0x00400000 := by
  rw [fexp2, flog2, frcp, frsq, fsqrt, f32Num_of_nan h]
  exact ⟨rfl, rfl, rfl, rfl, rfl⟩

theorem elementary_of_inf (mode : Round) : fexp2 0x7F800000 = 0x7F800000 ∧ flog2 0x7F800000 = 0x7F800000 ∧ frcp 0x7F800000 = 0 ∧
    frsq 0x7F800000 = 0 ∧ fsqrt mode 0x7F800000 = 0x7F800000 := by
  rw [fexp2, flog2, frcp, frsq, fsqrt, show f32Num 0x7F800000 = .inf false by decide]
  exact ⟨rfl, rfl, rfl, rfl, rfl⟩

theorem elementary_of_neg_inf (mode : Round) : fexp2 (0x7F800000 ||| 0x80000000) = 0 ∧ flog2 (0x7F800000 ||| 0x80000000) = 0x7FC00000 ∧
    frcp (0x7F800000 ||| 0x80000000) = 0x80000000 ∧ frsq (0x7F800000 ||| 0x80000000) = 0x7FC00000 ∧
    fsqrt mode (0x7F800000 ||| 0x80000000) = 0x7FC00000 := by
  rw [fexp2, flog2, frcp, frsq, fsqrt, show f32Num (0x7F800000 ||| 0x80000000) = .inf true by decide]
  exact ⟨rfl, rfl, rfl, rfl, rfl⟩

theorem elementary_of_zero (mode : Round) (z : Lane) (h : z = 0 ∨ z = 0x80000000) : fexp2 z = 0x3F800000 ∧
    flog2 z = 0x7F800000 ||| 0x80000000 ∧ frcp z = 0x7F800000 ||| z ∧ frsq z = 0x7F800000 ||| z ∧ fsqrt mode z = z := by
  obtain rfl | rfl := h <;> exact ⟨rfl, rfl, rfl, rfl, rfl⟩

theorem f32Num_of_neg {a : Lane} (ha : finite a) (h : realOf a < 0) :
    f32Num a = .fin true (Lane.sig a) (Lane.lastExp a) ∧ Lane.sig a ≠ 0 := by
  have hsig : Lane.sig a ≠ 0 := mt (realOf_eq_zero_iff a).mpr h.ne
  rw [realOf_eq, signedReal_neg_iff hsig] at h
  exact ⟨by rw [f32Num_of_finite ha, h], hsig⟩

theorem f32Num_of_pos {a : Lane} (ha : finite a) (h : 0 < realOf a) :
    f32Num a = .fin false (Lane.sig a) (Lane.lastExp a) ∧ Lane.sig a ≠ 0 ∧ realOf a = Lane.sig a * 2 ^ Lane.lastExp a := by
  have hsig : Lane.sig a ≠ 0 := mt (realOf_eq_zero_iff a).mpr h.ne'
  have hmsb : a.msb = false := by
    rw [← Bool.not_eq_true, ← signedReal_neg_iff hsig, ← realOf_eq]
    exact h.not_gt
  refine ⟨by rw [f32Num_of_finite ha, hmsb], hsig, ?_⟩
  rw [realOf_eq, hmsb, signedReal, if_neg Bool.false_ne_true, one_mul]

theorem roots_of_neg {a : Lane} (mode : Round) (ha : finite a) (h : realOf a < 0) :
    flog2 a = canonNan ∧ frsq a = canonNan ∧ fsqrt mode a = canonNan := by
  obtain ⟨hnum, hsig⟩ := f32Num_of_neg ha h
  rw [flog2, frsq, fsqrt, hnum]
  simp [hsig]

end Sys2Proof.Machine
end

section
/-! PROOFS. Results cut off with a last bit that says so, and the reciprocal and the roots (R60, R151). -/

namespace Sys2Proof.Machine

/-! ## Two magnitudes that no halfway point parts -/

/-- Two magnitudes lie on the same side of every multiple of half a step. -/
def SameSide (half a a' : ℝ) : Prop := ∀ n : Nat, (n * half < a ↔ n * half < a') ∧ (a < n * half ↔ a' < n * half)

theorem SameSide.eq_iff {half a a' : ℝ} (h : SameSide half a a') (n : Nat) : a = n * half ↔ a' = n * half := by
  obtain ⟨hlow, hhigh⟩ := h n
  rw [le_antisymm_iff, le_antisymm_iff, ← not_lt, ← not_lt, hlow, hhigh, not_lt, not_lt]

/-- Then the same steps are picked for them. -/
theorem picks_of_sameSide {mode : Round} {neg : Bool} {half a a' : ℝ} {y : Nat} (h : SameSide half a a')
    (hp : picks mode neg a' (2 * half) y) : picks mode neg a (2 * half) y := by
  obtain ⟨lo, hlo, hhi, hor, hexact, hmode⟩ := hp
  obtain ⟨hbelow, -⟩ := h (2 * lo)
  obtain ⟨hmidlow, hmidhigh⟩ := h (2 * lo + 1)
  obtain ⟨-, habove⟩ := h (2 * lo + 2)
  have hmid := h.eq_iff (2 * lo + 1)
  have heq := h.eq_iff (2 * lo)
  push_cast at hbelow hmidlow hmidhigh habove hmid heq
  have elo : (lo : ℝ) * (2 * half) = 2 * lo * half := by ring
  have ehi : ((lo : ℝ) + 1) * (2 * half) = (2 * lo + 2) * half := by ring
  have lower (v : ℝ) : v - 2 * lo * half < (2 * lo + 2) * half - v ↔ v < (2 * lo + 1) * half := by
    constructor <;> intro <;> linarith
  have upper (v : ℝ) : (2 * lo + 2) * half - v < v - 2 * lo * half ↔ (2 * lo + 1) * half < v := by
    constructor <;> intro <;> linarith
  have middle (v : ℝ) : v - 2 * lo * half = (2 * lo + 2) * half - v ↔ v = (2 * lo + 1) * half := by
    constructor <;> intro <;> linarith
  rw [elo] at hlo hexact hmode
  rw [ehi] at hhi hmode
  simp only [lower, upper, middle, ne_eq, ← hmidlow, ← hmidhigh, ← hmid, ← heq] at hmode hexact
  refine ⟨lo, ?_, ?_, hor, ?_, ?_⟩
  · rw [elo]
    rcases hlo.lt_or_eq with hlt | heq'
    · exact (hbelow.mpr hlt).le
    · exact (heq.mpr heq'.symm).ge
  · rw [ehi]
    exact habove.mpr hhi
  · rw [elo]
    exact hexact
  · rw [elo, ehi]
    simp only [lower, upper, middle, ne_eq]
    exact hmode

/-! ## Results cut off -/

/-- A natural number is a value without its fraction, and a bit says whether there was one. -/
def Cuts (v : ℝ) (q : Nat) (cut : Bool) : Prop := (q : ℝ) ≤ v ∧ v < q + 1 ∧ (cut = true ↔ (q : ℝ) ≠ v)

/-- With a fraction cut off, the value and the middle between its neighbours lie on the same side of every whole number. -/
theorem sameSide_of_cut {v : ℝ} {q : Nat} (h : Cuts v q true) : SameSide 1 v (q + 1 / 2) := by
  obtain ⟨hle, hlt, hne⟩ := h
  have hlt' : (q : ℝ) < v := lt_of_le_of_ne hle (hne.mp rfl)
  intro n
  rw [mul_one]
  rcases Nat.lt_or_ge q n with hn | hn
  · have hn' : (q : ℝ) + 1 ≤ n := by exact_mod_cast hn
    exact ⟨iff_of_false (by linarith) (by linarith), iff_of_true (by linarith) (by linarith)⟩
  · have hn' : (n : ℝ) ≤ q := by exact_mod_cast hn
    exact ⟨iff_of_true (by linarith) (by linarith), iff_of_false (by linarith) (by linarith)⟩

theorem SameSide.scale {half a a' u : ℝ} (h : SameSide half a a') (hu : 0 < u) (k : Nat) :
    SameSide (k * half * u) (a * u) (a' * u) := by
  intro n
  have hn := h (n * k)
  push_cast at hn
  have e : (n : ℝ) * (k * half * u) = n * k * half * u := by ring
  rw [e, mul_lt_mul_iff_left₀ hu, mul_lt_mul_iff_left₀ hu, mul_lt_mul_iff_left₀ hu, mul_lt_mul_iff_left₀ hu]
  exact hn

/-- A real number rounds as another of its sign does that lies on the same side of every multiple of a power of two, from one so low on that
the format keeps no bit of it. -/
theorem roundsTo_of_sameSide {f : FloatFmt} {mode : Round} {x x' : ℝ} {n : Nat} {e : Int} (hsign : x < 0 ↔ x' < 0)
    (hside : ∀ i : Int, e ≤ i → SameSide (2 ^ i) |x| |x'|) (hbig : (2 : ℝ) ^ (f.p + 1 + e : Int) ≤ |x'|)
    (h : roundsTo f mode x' n) : roundsTo f mode x n := by
  obtain ⟨E, y, hmin, hlt, hor, hpick, hrest⟩ := h
  have hE : e ≤ E - f.p - 1 := by
    have := (zpow_lt_zpow_iff_right₀ one_lt_two).mp (hbig.trans_lt hlt)
    omega
  have htwo : (2 : ℝ) ^ (E - f.p) = 2 * 2 ^ (E - f.p - 1) := by
    rw [← zpow_one_add₀ two_ne_zero, add_sub_cancel]
  have hpow (i : Int) (hi : e ≤ i) : |x| < 2 ^ i ↔ |x'| < 2 ^ i := by
    have hone := (hside i hi 1).2
    rwa [Nat.cast_one, one_mul] at hone
  rw [htwo, ← decide_eq_decide.mpr hsign] at hpick
  simp only [← hsign] at hrest
  refine ⟨E, y, hmin, (hpow _ (by omega)).mpr hlt, hor.imp_right fun hle => ?_, ?_, hrest⟩
  · exact not_lt.mp (mt (hpow E (by omega)).mp hle.not_gt)
  · rw [htwo]
    exact picks_of_sameSide (hside _ hE) hpick

/-- Powers of two from a unit on do not part a value cut off from the middle of its neighbours. -/
theorem sameSide_two_zpow {v : ℝ} {q : Nat} (h : Cuts v q true) {e i : Int} (hi : e ≤ i) :
    SameSide (2 ^ i) (v * 2 ^ e) ((q + 1 / 2) * 2 ^ e) := by
  have hscaled := (sameSide_of_cut h).scale (u := 2 ^ e) (by positivity) (2 ^ (i - e).toNat)
  have hunits : ((2 ^ (i - e).toNat : Nat) : ℝ) * 1 * 2 ^ e = 2 ^ i := by
    rw [Nat.cast_pow, Nat.cast_ofNat, mul_one, ← zpow_natCast, ← zpow_add₀ two_ne_zero, Int.toNat_of_nonneg (by omega), sub_add_cancel]
  rwa [hunits] at hscaled

/-- The exact value with a sign. -/
noncomputable def signedValue (neg : Bool) (v : ℝ) : ℝ := (if neg then -1 else 1) * v

theorem abs_signedValue (neg : Bool) {v : ℝ} (hv : 0 ≤ v) : |signedValue neg v| = v := by
  cases neg <;> simp [signedValue, abs_of_nonneg hv]

theorem signedValue_neg_iff (neg : Bool) {v : ℝ} (hv : 0 < v) : signedValue neg v < 0 ↔ neg = true := by
  cases neg
  · simpa [signedValue] using hv.le
  · simpa [signedValue] using hv

theorem signedReal_eq_signedValue (neg : Bool) (m : Nat) (e : Int) : signedReal neg m e = signedValue neg (m * 2 ^ e) := mul_assoc ..

/-- The value of a result with the bit that says whether anything was cut off. -/
theorem signedReal_sticky (neg : Bool) (q : Nat) (cut : Bool) (e : Int) :
    signedReal neg (sticky q cut) (e - 1) = signedValue neg ((q + if cut then 1 / 2 else 0) * 2 ^ e) := by
  rw [signedReal_eq_signedValue, zpow_sub_one₀ two_ne_zero, sticky, bit]
  congr 1
  push_cast
  split <;> ring

/-- A result cut off beyond the bits that a format keeps, with the last bit that says so, rounds as the exact one does. -/
theorem roundsTo_sticky {f : FloatFmt} (hf : f.Binary) (mode : Round) (neg : Bool) {v : ℝ} {q : Nat} {cut : Bool} (e : Int)
    (h : Cuts v q cut) (hq : 2 ^ (f.p + 1) ≤ q) :
    roundsTo f mode (signedValue neg (v * 2 ^ e)) (roundFloat f mode (.fin neg (sticky q cut) (e - 1))) := by
  have hqpos : 0 < q := lt_of_lt_of_le (by positivity) hq
  have hround := roundFloat_roundsTo hf mode neg (m := sticky q cut) (e - 1) (by unfold sticky; omega)
  rw [signedReal_sticky] at hround
  cases cut with
  | false =>
    obtain ⟨-, -, hne⟩ := h
    have hv : (q : ℝ) = v := by simpa using hne
    rwa [if_neg Bool.false_ne_true, add_zero, hv] at hround
  | true =>
    have hv : 0 < v := lt_of_lt_of_le (by exact_mod_cast hqpos) h.1
    have hmid : (0 : ℝ) < (q + 1 / 2) * 2 ^ e := by positivity
    have hval : 0 < v * 2 ^ e := by positivity
    rw [if_pos rfl] at hround
    refine roundsTo_of_sameSide (e := e) ?_ (fun i hi => ?_) ?_ hround
    · rw [signedValue_neg_iff neg hval, signedValue_neg_iff neg hmid]
    · rw [abs_signedValue neg hval.le, abs_signedValue neg hmid.le]
      exact sameSide_two_zpow h hi
    · rw [abs_signedValue neg hmid.le, zpow_add₀ two_ne_zero]
      gcongr
      exact le_add_of_le_of_nonneg (by exact_mod_cast hq) (by norm_num)

/-! ## Quotients and square roots cut off -/

theorem cuts_div (m : Nat) {n : Nat} (hn : 0 < n) : Cuts (m / n : ℝ) (m / n) (m % n != 0) := by
  have hn' : (0 : ℝ) < n := by exact_mod_cast hn
  have hdm : m / n * n + m % n = m := Nat.div_add_mod' m n
  have hmod := Nat.mod_lt m hn
  have hval : (m : ℝ) / n = (m / n : Nat) + (m % n : Nat) / n := by
    rw [eq_comm, eq_div_iff hn'.ne', add_mul, div_mul_cancel₀ _ hn'.ne']
    exact_mod_cast hdm
  have hfrac : ((m % n : Nat) : ℝ) / n < 1 := by
    rw [div_lt_one hn']
    exact_mod_cast hmod
  rw [Cuts, hval]
  refine ⟨le_add_of_nonneg_right (by positivity), by linarith, ?_⟩
  rw [bne_iff_ne, Ne, Ne, left_eq_add, div_eq_zero_iff, or_iff_left hn'.ne', Nat.cast_eq_zero]

theorem isqrtLoop_eq_sqrt {n : Nat} (k r : Nat) (hlow : r * r ≤ n) (hhigh : n < (r + 2 ^ k) * (r + 2 ^ k)) :
    isqrtLoop n k r = Nat.sqrt n := by
  induction k generalizing r with
  | zero => exact Nat.eq_sqrt.mpr ⟨hlow, hhigh⟩
  | succ k ih =>
    rw [isqrtLoop]
    split
    · next h => exact ih _ h (by rwa [Nat.add_assoc, ← Nat.two_mul, ← Nat.pow_succ'])
    · next h => exact ih _ hlow (not_le.mp h)

theorem isqrt_eq_sqrt (n : Nat) : isqrt n = Nat.sqrt n := by
  refine isqrtLoop_eq_sqrt _ 0 (Nat.zero_le _) ?_
  rw [Nat.zero_add, ← Nat.pow_add]
  exact Nat.lt_log2_self.trans_le (Nat.pow_le_pow_right (by decide) (by omega))

theorem cuts_sqrt (n : Nat) : Cuts √n (isqrt n) (isqrt n * isqrt n != n) := by
  rw [isqrt_eq_sqrt]
  refine ⟨Real.nat_sqrt_le_real_sqrt, Real.real_sqrt_lt_nat_sqrt_succ, ?_⟩
  rw [bne_iff_ne, ne_comm, Ne, Ne, eq_comm (a := ((Nat.sqrt n : Nat) : ℝ)), Real.sqrt_eq_iff_mul_self_eq (by positivity) (by positivity)]
  exact_mod_cast Iff.rfl

/-! ## The reciprocal and the roots -/

/-- What quotient makes of m1 / m2 rounds as the exact fraction does. -/
theorem roundsTo_quotient (neg : Bool) {m1 m2 : Nat} (h1 : m1 ≠ 0) (h2 : m2 ≠ 0) (mode : Round) (e : Int) :
    roundsTo f32 mode (signedValue neg (m1 / m2 * 2 ^ e)) (roundFloat f32 mode (quotient neg m1 m2 e)) := by
  set k := 64 + Nat.log2 m2
  have hcut := cuts_div (m1 * 2 ^ k) (Nat.pos_of_ne_zero h2)
  have hbig : 2 ^ (f32.p + 1) ≤ m1 * 2 ^ k / m2 := by
    rw [Nat.le_div_iff_mul_le (Nat.pos_of_ne_zero h2)]
    have hlog : m2 ≤ 2 ^ (Nat.log2 m2 + 1) := Nat.lt_log2_self.le
    calc 2 ^ (f32.p + 1) * m2 ≤ 2 ^ (f32.p + 1) * 2 ^ (Nat.log2 m2 + 1) := Nat.mul_le_mul_left _ hlog
      _ ≤ 2 ^ k := by
        rw [← Nat.pow_add]
        exact Nat.pow_le_pow_right (by decide) (by change 23 + 1 + _ ≤ 64 + _; omega)
      _ ≤ m1 * 2 ^ k := Nat.le_mul_of_pos_left _ (Nat.pos_of_ne_zero h1)
  have hval : (m1 / m2 * 2 ^ e : ℝ) = (m1 * 2 ^ k : Nat) / m2 * 2 ^ (e - k) := by
    rw [zpow_sub₀ two_ne_zero, zpow_natCast]
    push_cast
    field_simp
  rw [hval]
  exact roundsTo_sticky f32_binary mode neg (e - k) hcut hbig

theorem frcp_spec {a : Lane} (ha : finite a) (hx : realOf a ≠ 0) : roundsTo f32 .rn (1 / realOf a) (frcp a).toNat := by
  have hsig : Lane.sig a ≠ 0 := mt (realOf_eq_zero_iff a).mpr hx
  have hval : 1 / realOf a = signedValue a.msb ((1 : Nat) / Lane.sig a * 2 ^ (-Lane.lastExp a)) := by
    rw [realOf_eq, signedReal, signedValue, zpow_neg]
    cases a.msb
    · simp; ring
    · simp; ring
  have hfrcp : frcp a = toF32 .rn (quotient a.msb 1 (Lane.sig a) (-Lane.lastExp a)) := by
    rw [frcp, f32Num_of_finite ha]
    exact if_neg hsig
  rw [hval, hfrcp, quotient, toF32_toNat]
  exact roundsTo_quotient a.msb one_ne_zero hsig .rn _

/-- A magnitude with an even exponent: the last bit of an odd one moves into the significand. -/
def evenSig (m : Nat) (e : Int) : Nat := if e % 2 = 1 then 2 * m else m

/-- The half of that exponent. -/
def halfExp (e : Int) : Int := e / 2

theorem evenSig_halfExp (m : Nat) (e : Int) : (m : ℝ) * 2 ^ e = evenSig m e * (2 ^ halfExp e) ^ 2 := by
  have hsq : ((2 : ℝ) ^ halfExp e) ^ 2 = 2 ^ (2 * halfExp e) := by
    rw [← zpow_natCast, ← zpow_mul, mul_comm]
    rfl
  rw [hsq, evenSig, halfExp]
  split
  · next h =>
    rw [show e = 1 + 2 * (e / 2) by omega, zpow_add₀ two_ne_zero, show (1 + 2 * (e / 2)) / 2 = e / 2 by omega]
    push_cast
    ring
  · next h => rw [show 2 * (e / 2) = e by omega]

theorem sqrtNum_eq (m : Nat) (e : Int) : sqrtNum m e = .fin false (sticky (isqrt (evenSig m e * 2 ^ 64))
    (isqrt (evenSig m e * 2 ^ 64) * isqrt (evenSig m e * 2 ^ 64) != evenSig m e * 2 ^ 64)) (halfExp e - 32 - 1) := by
  have hexp : ((if e % 2 = 1 then e - 1 else e) - 64) / 2 - 1 = halfExp e - 32 - 1 := by
    unfold halfExp
    split <;> omega
  rw [← hexp]
  rfl

theorem evenSig_pos {m : Nat} (hm : m ≠ 0) (e : Int) : 0 < evenSig m e := by
  unfold evenSig
  split <;> omega

theorem roundsTo_sqrtNum (mode : Round) {m : Nat} (hm : m ≠ 0) (e : Int) :
    roundsTo f32 mode √(m * 2 ^ e) (roundFloat f32 mode (sqrtNum m e)) := by
  have hpos := evenSig_pos hm e
  have hbig : 2 ^ (f32.p + 1) ≤ isqrt (evenSig m e * 2 ^ 64) := by
    rw [isqrt_eq_sqrt, Nat.le_sqrt]
    change 2 ^ 24 * 2 ^ 24 ≤ _
    omega
  have hval : √(m * 2 ^ e) = signedValue false (√(evenSig m e * 2 ^ 64 : Nat) * 2 ^ (halfExp e - 32)) := by
    have hsplit : ((evenSig m e * 2 ^ 64 : Nat) : ℝ) = evenSig m e * (2 ^ 32) ^ 2 := by
      push_cast
      ring
    rw [hsplit, evenSig_halfExp, Real.sqrt_mul (by positivity), Real.sqrt_mul (by positivity), Real.sqrt_sq (by positivity),
      Real.sqrt_sq (by positivity), zpow_sub₀ two_ne_zero, signedValue, if_neg Bool.false_ne_true, one_mul, mul_assoc]
    congr 1
    field_simp
  rw [hval, sqrtNum_eq]
  exact roundsTo_sticky f32_binary mode false _ (cuts_sqrt _) hbig

/-- The root of a fraction, cut off, is the root of its whole part, cut off. -/
theorem cuts_sqrt_div (n : Nat) {m : Nat} (hm : 0 < m) :
    Cuts √(n / m : ℝ) (isqrt (n / m)) (isqrt (n / m) * isqrt (n / m) * m != n) := by
  rw [isqrt_eq_sqrt]
  obtain ⟨r, hr⟩ : ∃ r, Nat.sqrt (n / m) = r := ⟨_, rfl⟩
  obtain ⟨hle, hlt⟩ := Nat.eq_sqrt.mp hr.symm
  rw [hr]
  rw [Nat.le_div_iff_mul_le hm] at hle
  rw [Nat.div_lt_iff_lt_mul hm] at hlt
  have hm' : (0 : ℝ) < m := by exact_mod_cast hm
  refine ⟨?_, ?_, ?_⟩
  · refine Real.le_sqrt_of_sq_le ?_
    rw [le_div_iff₀ hm', sq]
    exact_mod_cast hle
  · rw [Real.sqrt_lt' (by positivity), div_lt_iff₀ hm', sq]
    exact_mod_cast hlt
  · rw [bne_iff_ne, ne_comm (a := (r : ℝ)), Ne, Ne, Real.sqrt_eq_iff_mul_self_eq (by positivity) (by positivity), div_eq_iff hm'.ne',
      eq_comm]
    exact_mod_cast Iff.rfl

theorem rsqNum_eq (m : Nat) (e : Int) : rsqNum m e = .fin false (sticky (isqrt (2 ^ 160 / evenSig m e))
    (isqrt (2 ^ 160 / evenSig m e) * isqrt (2 ^ 160 / evenSig m e) * evenSig m e != 2 ^ 160)) (-halfExp e - 80 - 1) := by
  have hexp : -((if e % 2 = 1 then e - 1 else e) / 2) - 81 = -halfExp e - 80 - 1 := by
    unfold halfExp
    split <;> omega
  rw [← hexp]
  rfl

theorem roundsTo_rsqNum (mode : Round) {m : Nat} (hm : m ≠ 0) (hlt : m < 2 ^ 24) (e : Int) :
    roundsTo f32 mode (1 / √(m * 2 ^ e)) (roundFloat f32 mode (rsqNum m e)) := by
  have hpos := evenSig_pos hm e
  have hpos' : (0 : ℝ) < evenSig m e := by exact_mod_cast hpos
  have hsmall : evenSig m e < 2 ^ 25 := by
    unfold evenSig
    split <;> omega
  have hbig : 2 ^ (f32.p + 1) ≤ isqrt (2 ^ 160 / evenSig m e) := by
    rw [isqrt_eq_sqrt, Nat.le_sqrt, Nat.le_div_iff_mul_le hpos]
    change 2 ^ 24 * 2 ^ 24 * _ ≤ _
    omega
  have hval : 1 / √(m * 2 ^ e) = signedValue false (√((2 ^ 160 : Nat) / evenSig m e) * 2 ^ (-halfExp e - 80)) := by
    have hsplit : ((2 ^ 160 : Nat) : ℝ) = (2 ^ 80) ^ 2 := by norm_num
    rw [hsplit, evenSig_halfExp, Real.sqrt_mul hpos'.le, Real.sqrt_div (by positivity), Real.sqrt_sq (by positivity),
      Real.sqrt_sq (by positivity), zpow_sub₀ two_ne_zero, zpow_neg, signedValue, if_neg Bool.false_ne_true, one_mul]
    have hroot : √(evenSig m e : ℝ) ≠ 0 := (Real.sqrt_pos.mpr hpos').ne'
    have htwo : (2 : ℝ) ^ halfExp e ≠ 0 := by positivity
    field_simp
  rw [hval, rsqNum_eq]
  exact roundsTo_sticky f32_binary mode false _ (cuts_sqrt_div _ hpos) hbig

theorem roots_spec (mode : Round) {a : Lane} (ha : finite a) (hx : 0 < realOf a) :
    roundsTo f32 .rn (1 / √(realOf a)) (frsq a).toNat ∧ roundsTo f32 mode √(realOf a) (fsqrt mode a).toNat := by
  obtain ⟨hnum, hsig, hval⟩ := f32Num_of_pos ha hx
  have hrsq : frsq a = toF32 .rn (rsqNum (Lane.sig a) (Lane.lastExp a)) := by
    rw [frsq, hnum]
    simp only [if_neg hsig, Bool.false_eq_true, if_false]
  have hsqrt : fsqrt mode a = toF32 mode (sqrtNum (Lane.sig a) (Lane.lastExp a)) := by
    rw [fsqrt, hnum]
    simp only [if_neg hsig, Bool.false_eq_true, if_false]
  rw [hval, hrsq, hsqrt, rsqNum, sqrtNum, toF32_toNat, toF32_toNat]
  exact ⟨roundsTo_rsqNum .rn hsig (Lane.sig_lt a) _, roundsTo_sqrtNum mode hsig _⟩

end Sys2Proof.Machine
end

section
/-! PROOFS. The series of `v.exp2` and `v.log2` in fixed point (R151): how far their sums lie from the exact values. -/

namespace Sys2Proof.Machine

/-! ## Fixed point -/

theorem fixOne_real : (fixOne : ℝ) = 2 ^ 256 := by
  rw [fixOne, Nat.cast_pow, Nat.cast_ofNat]

theorem fixOne_pos : (0 : ℝ) < fixOne := by
  rw [fixOne_real]
  positivity

/-- A quotient of naturals lies less than one below the exact one. -/
theorem abs_natDiv_sub_le (m : Nat) {n : Nat} (hn : 0 < n) : |((m / n : Nat) : ℝ) - m / n| ≤ 1 := by
  obtain ⟨hle, hlt, -⟩ := cuts_div m hn
  exact abs_le.mpr ⟨by linarith, by linarith⟩

theorem abs_fixOne_mul_sub_le {v w : ℝ} (h : |v - w| ≤ 1 / fixOne) : |fixOne * v - fixOne * w| ≤ 1 := by
  rwa [← mul_sub, abs_mul, abs_of_pos fixOne_pos, ← le_div_iff₀' fixOne_pos]

/-- An error of d in a value x of fixed point and one of d' in y make one of at most c in the product, cut off. -/
theorem abs_fixMul_sub_le {x y : Nat} {a b c d d' : ℝ} (hx : |x - fixOne * a| ≤ d) (hy : |y - fixOne * b| ≤ d') (hb : 0 ≤ b)
    (hc : x / fixOne * d' + b * d + 1 ≤ c) : |((x * y / fixOne : Nat) : ℝ) - fixOne * (a * b)| ≤ c := by
  have hG := fixOne_pos
  have hcut := abs_natDiv_sub_le (x * y) (n := fixOne) (by unfold fixOne; positivity)
  have hsplit : ((x * y : Nat) : ℝ) / fixOne - fixOne * (a * b) = x / fixOne * (y - fixOne * b) + b * (x - fixOne * a) := by
    push_cast
    field_simp
    ring
  have hfirst : |(x : ℝ) / fixOne * (y - fixOne * b)| ≤ x / fixOne * d' := by
    rw [abs_mul, abs_of_nonneg (by positivity : (0 : ℝ) ≤ x / fixOne)]
    gcongr
  have hsecond : |b * (x - fixOne * a)| ≤ b * d := by
    rw [abs_mul, abs_of_nonneg hb]
    gcongr
  calc |((x * y / fixOne : Nat) : ℝ) - fixOne * (a * b)|
      ≤ |((x * y / fixOne : Nat) : ℝ) - (x * y : Nat) / fixOne| + |((x * y : Nat) : ℝ) / fixOne - fixOne * (a * b)| :=
        abs_sub_le ..
    _ ≤ 1 + (x / fixOne * d' + b * d) := by
        rw [hsplit]
        exact add_le_add hcut ((abs_add_le ..).trans (add_le_add hfirst hsecond))
    _ ≤ c := by linarith

/-- A value of fixed point divided by a whole number, cut off. -/
theorem abs_fixDiv_sub_le {x n : Nat} {a d : ℝ} (hn : 0 < n) (hx : |x - fixOne * a| ≤ d) :
    |((x / n : Nat) : ℝ) - fixOne * (a / n)| ≤ d + 1 := by
  have hn' : (1 : ℝ) ≤ n := by exact_mod_cast hn
  have hd : (|x - fixOne * a| : ℝ) / n ≤ d := (div_le_self (abs_nonneg _) hn').trans hx
  have hexact : |(x : ℝ) / n - fixOne * (a / n)| ≤ d := by
    rwa [← mul_div_assoc, ← sub_div, abs_div, abs_of_pos (by linarith : (0 : ℝ) < n)]
  have hcut := abs_natDiv_sub_le x hn
  linarith [abs_sub_le ((x / n : Nat) : ℝ) (x / n) (fixOne * (a / n))]

/-! ## The series of the area tangent -/

section
variable {t : ℝ} (ht : 0 ≤ t) (ht' : t ≤ 1 / 3) {z : Nat} (hz : |z - fixOne * t| ≤ 1)
include ht ht' hz

theorem fixSquare_error : |((z * z / fixOne : Nat) : ℝ) - fixOne * t ^ 2| ≤ 2 := by
  have hG := fixOne_pos
  have hzle : (z : ℝ) / fixOne ≤ 1 / 2 := by
    rw [div_le_iff₀ hG]
    have := (abs_le.mp hz).2
    have hbig : (12 : ℝ) ≤ fixOne := by rw [fixOne_real]; norm_num
    nlinarith
  rw [sq]
  exact abs_fixMul_sub_le hz hz ht (by linarith)

/-- The power of one term goes on to that of the next. -/
theorem fixPower_error {pw k : Nat} (hpw : |pw - fixOne * t ^ (2 * k + 1)| ≤ 3) :
    |((pw * (z * z / fixOne) / fixOne : Nat) : ℝ) - fixOne * t ^ (2 * (k + 1) + 1)| ≤ 3 := by
  have hG := fixOne_pos
  have hbig : (20 : ℝ) ≤ fixOne := by rw [fixOne_real]; norm_num
  have hpow : t ^ (2 * k + 1) ≤ 1 / 3 := (pow_le_of_le_one ht (by linarith) (by omega)).trans ht'
  have hsq : t ^ 2 ≤ 1 / 9 := by nlinarith
  have hpwle : (pw : ℝ) / fixOne ≤ 1 / 2 := by
    rw [div_le_iff₀ hG]
    have := (abs_le.mp hpw).2
    nlinarith
  rw [show 2 * (k + 1) + 1 = 2 * k + 1 + 2 by ring, pow_add]
  exact abs_fixMul_sub_le hpw (fixSquare_error ht ht' hz) (by positivity) (by linarith)

theorem atanhSeries_error (fuel k pw : Nat) (hpw : |pw - fixOne * t ^ (2 * k + 1)| ≤ 3) :
    |(atanhSeries (z * z / fixOne) fuel k pw : ℝ) - fixOne * ∑ i ∈ Finset.range fuel, t ^ (2 * (k + i) + 1) / (2 * (k + i : Nat) + 1 : Nat)|
      ≤ 4 * fuel := by
  induction fuel generalizing k pw with
  | zero => simp [atanhSeries]
  | succ fuel ih =>
    have hterm := abs_fixDiv_sub_le (n := 2 * k + 1) (by omega) hpw
    have hrest := ih (k + 1) _ (fixPower_error ht ht' hz hpw)
    rw [atanhSeries, Finset.sum_range_succ']
    have hshift (i : Nat) : k + 1 + i = k + (i + 1) := by omega
    simp only [hshift] at hrest
    push_cast at hterm hrest ⊢
    rw [mul_add, add_zero, add_zero]
    rw [abs_le] at *
    constructor <;> linarith

theorem atanhSeries_spec : |(atanhSeries (z * z / fixOne) 90 0 z : ℝ) - fixOne * (1 / 2 * Real.log ((1 + t) / (1 - t)))| ≤ 400 := by
  have hseries := atanhSeries_error ht ht' hz 90 0 z (by simpa using hz.trans (by norm_num))
  have htail := Real.sum_range_sub_log_div_le (x := t) (by rw [abs_of_nonneg ht]; linarith) 90
  have hsmall : |t| ^ (2 * 90 + 1) / (1 - t ^ 2) ≤ 1 / fixOne := by
    have hden : (1 : ℝ) / 2 ≤ 1 - t ^ 2 := by nlinarith
    rw [abs_of_nonneg ht, fixOne_real]
    calc t ^ (2 * 90 + 1) / (1 - t ^ 2) ≤ (1 / 3) ^ (2 * 90 + 1) / (1 / 2) := by gcongr
      _ ≤ 1 / 2 ^ 256 := by norm_num
  have hscaled := abs_fixOne_mul_sub_le (htail.trans hsmall)
  simp only [Nat.zero_add] at hseries
  push_cast at hseries
  rw [abs_le] at *
  constructor <;> linarith

end

/-- The constant of the model is close to ln 2. -/
theorem fixLn2_error : |(fixLn2 : ℝ) - fixOne * Real.log 2| ≤ 900 := by
  have hthird := abs_natDiv_sub_le fixOne (n := 3) (by decide)
  have hseries := atanhSeries_spec (t := 1 / 3) (z := fixOne / 3) (by norm_num) le_rfl (by convert hthird using 2; push_cast; ring)
  have hvalue : 2 * atanhSeries (fixOne / 3 * (fixOne / 3) / fixOne) 90 0 (fixOne / 3) + 73 = fixLn2 := by decide +kernel
  have hratio : ((1 : ℝ) + 1 / 3) / (1 - 1 / 3) = 2 := by norm_num
  rw [hratio] at hseries
  rw [← hvalue]
  push_cast
  rw [abs_le] at *
  constructor <;> linarith

/-! ## The exponential series -/

section
variable {u : ℝ} (hu : 0 ≤ u) (hu' : u ≤ 7 / 10) {y : Nat} (hy : |y - fixOne * u| ≤ 901)
include hu hu' hy

/-- One term of the series goes on to the next. -/
theorem fixTerm_error {term k : Nat} (hterm : |term - fixOne * (u ^ k / k.factorial)| ≤ 7000) :
    |((term * y / fixOne / (k + 1) : Nat) : ℝ) - fixOne * (u ^ (k + 1) / (k + 1).factorial)| ≤ 7000 := by
  have hG := fixOne_pos
  have hbig : (7000 : ℝ) ≤ fixOne := by rw [fixOne_real]; norm_num
  have hpow : u ^ k / k.factorial ≤ 1 := by
    have hfact : (1 : ℝ) ≤ k.factorial := by exact_mod_cast Nat.one_le_iff_ne_zero.mpr k.factorial_ne_zero
    exact (div_le_self (by positivity) hfact).trans (pow_le_one₀ hu (by linarith))
  have htermle : (term : ℝ) / fixOne ≤ 2 := by
    rw [div_le_iff₀ hG]
    have := (abs_le.mp hterm).2
    nlinarith
  have hproduct := abs_fixMul_sub_le hterm hy hu (c := 6999) (by linarith)
  have hnext := abs_fixDiv_sub_le (n := k + 1) (by omega) hproduct
  have hexact : u ^ k / k.factorial * u / (k + 1 : Nat) = u ^ (k + 1) / (k + 1).factorial := by
    rw [Nat.factorial_succ]
    push_cast
    field_simp
    ring
  rw [hexact] at hnext
  linarith

theorem expSeries_error (fuel k term : Nat) (hterm : |term - fixOne * (u ^ k / k.factorial)| ≤ 7000) :
    |(expSeries y fuel k term : ℝ) - fixOne * ∑ i ∈ Finset.range fuel, u ^ (k + i) / (k + i).factorial| ≤ 7000 * fuel := by
  induction fuel generalizing k term with
  | zero => simp [expSeries]
  | succ fuel ih =>
    have hrest := ih (k + 1) _ (fixTerm_error hu hu' hy hterm)
    have hshift (i : Nat) : k + 1 + i = k + (i + 1) := by omega
    simp only [hshift] at hrest
    rw [expSeries, Finset.sum_range_succ', mul_add, add_zero]
    push_cast
    rw [abs_le] at *
    constructor <;> linarith

theorem expSeries_spec : |(expSeries y 70 0 fixOne : ℝ) - fixOne * Real.exp u| ≤ 500000 := by
  have hseries := expSeries_error hu hu' hy 70 0 fixOne (by simp)
  have htail := Real.exp_bound (x := u) (by rw [abs_of_nonneg hu]; linarith) (n := 70) (by decide)
  have hsmall : |u| ^ 70 * ((Nat.succ 70 : ℝ) / ((70 : Nat).factorial * (70 : Nat))) ≤ 1 / fixOne := by
    rw [abs_of_nonneg hu, fixOne_real]
    calc u ^ 70 * ((Nat.succ 70 : ℝ) / ((70 : Nat).factorial * (70 : Nat)))
        ≤ 1 * ((Nat.succ 70 : ℝ) / ((70 : Nat).factorial * (70 : Nat))) := by
          gcongr
          exact pow_le_one₀ hu (by linarith)
      _ ≤ 1 / 2 ^ 256 := by norm_num [Nat.factorial]
  have hscaled := abs_fixOne_mul_sub_le (htail.trans hsmall)
  simp only [Nat.zero_add] at hseries
  push_cast at hseries
  rw [abs_le] at *
  constructor <;> linarith

end

end Sys2Proof.Machine
end

section
/-! PROOFS. `v.exp2` (R151): what it rounds lies close to the exact power. -/

namespace Sys2Proof.Machine

theorem magLt_iff (m1 : Nat) (e1 : Int) (m2 : Nat) (e2 : Int) : magLt m1 e1 m2 e2 = true ↔ (m1 : ℝ) * 2 ^ e1 < m2 * 2 ^ e2 := by
  have h1 := signedReal_align false m1 (min_le_left e1 e2)
  have h2 := signedReal_align false m2 (min_le_right e1 e2)
  simp only [signedReal, Bool.false_eq_true, if_false, one_mul, Int.cast_natCast] at h1 h2
  rw [magLt, decide_eq_true_iff, ← h1, ← h2, mul_lt_mul_iff_left₀ (by positivity), Nat.cast_lt]
  rfl

/-! ## The operand in fixed point -/

/-- A finite lane's value in fixed point, which is exact. -/
def Lane.fixed (b : Lane) : Int := (if b.msb then -1 else 1) * ((Lane.sig b * pow2 (Lane.lastExp b + 256) : Nat) : Int)

theorem Lane.fixed_real {b : Lane} (hb : finite b) : realOf b = Lane.fixed b / fixOne := by
  obtain ⟨hexp, -⟩ := Lane.lastExp_le hb
  have halign := signedReal_align b.msb (Lane.sig b) (e := Lane.lastExp b) (e' := -256) (by omega)
  rw [realOf_eq, ← halign, Lane.fixed, fixOne_real, sub_neg_eq_add, zpow_neg, div_eq_mul_inv]
  cases b.msb <;> simp

/-- What v.exp2 rounds for an operand in fixed point. -/
def exp2Of (i : Int) : Num :=
  if (i % (fixOne : Int)).toNat = 0 then .fin false 1 (i / (fixOne : Int)) else exp2Num (i / (fixOne : Int)) (i % (fixOne : Int)).toNat

/-- An operand is its whole part and a fraction. -/
theorem fixed_split (i : Int) : ∃ (n : Int) (f : Nat), i / (fixOne : Int) = n ∧ (i % (fixOne : Int)).toNat = f ∧ f < fixOne ∧
    (i : ℝ) / fixOne = n + f / fixOne := by
  have hpos : (0 : Int) < fixOne := by decide
  have hmod := Int.emod_nonneg i hpos.ne'
  have hlt := Int.emod_lt_of_pos i hpos
  refine ⟨_, _, rfl, rfl, by omega, ?_⟩
  have hsum : (i : ℝ) = fixOne * (i / (fixOne : Int) : Int) + ((i % (fixOne : Int)).toNat : Nat) := by
    have h : i = fixOne * (i / (fixOne : Int)) + ((i % (fixOne : Int)).toNat : Nat) := by
      rw [Int.toNat_of_nonneg hmod, Int.mul_ediv_add_emod]
    exact_mod_cast h
  rw [div_eq_iff fixOne_pos.ne', add_mul, div_mul_cancel₀ _ fixOne_pos.ne', mul_comm, ← hsum]

/-! ## The power of a fraction -/

theorem fixArg_error {f : Nat} (hf : f < fixOne) :
    |((f * fixLn2 / fixOne : Nat) : ℝ) - fixOne * (f / fixOne * Real.log 2)| ≤ 901 := by
  have hexact : |(f : ℝ) - fixOne * (f / fixOne)| ≤ 0 := by
    rw [mul_div_cancel₀ _ fixOne_pos.ne', sub_self, abs_zero]
  have hfrac : (f : ℝ) / fixOne ≤ 1 := (div_le_one fixOne_pos).mpr (by exact_mod_cast hf.le)
  exact abs_fixMul_sub_le hexact fixLn2_error (Real.log_nonneg one_le_two) (by linarith)

theorem expSeries_two {f : Nat} (hf : f < fixOne) :
    |(expSeries (f * fixLn2 / fixOne) 70 0 fixOne : ℝ) - fixOne * 2 ^ (f / fixOne : ℝ)| ≤ 500000 := by
  have hfrac : (f : ℝ) / fixOne ≤ 1 := (div_le_one fixOne_pos).mpr (by exact_mod_cast hf.le)
  have hlog := Real.log_two_lt_d9
  have hlog0 := Real.log_nonneg one_le_two
  have hspec := expSeries_spec (u := f / fixOne * Real.log 2) (by positivity) (by nlinarith) (fixArg_error hf)
  rwa [mul_comm (_ / _), ← Real.rpow_def_of_pos two_pos] at hspec

theorem le_expSeries (y : Nat) : fixOne ≤ expSeries y 70 0 fixOne := Nat.le_add_right _ _

/-- A sum in fixed point close to the power of a fraction, scaled by that of the whole part. -/
theorem sticky_near_power {q : Nat} {v : ℝ} (hv : 1 ≤ v) (hq : |(q : ℝ) - fixOne * v| ≤ 500000) (n : Int) :
    |signedReal false (sticky q true) (n - 256 - 1) - 2 ^ n * v| ≤ 2 ^ (-200 : ℤ) * (2 ^ n * v) := by
  have hunit : (2 : ℝ) ^ n = fixOne * 2 ^ (n - 256) := by
    rw [fixOne_real, ← zpow_natCast, ← zpow_add₀ two_ne_zero]
    congr 1
    push_cast
    ring
  have hdiff : signedReal false (sticky q true) (n - 256 - 1) - 2 ^ n * v = (q - fixOne * v + 1 / 2) * 2 ^ (n - 256) := by
    rw [signedReal_sticky, signedValue, hunit]
    simp only [Bool.false_eq_true, if_false, if_true]
    ring
  have hsum : |(q : ℝ) - fixOne * v + 1 / 2| ≤ 2 ^ (-200 : ℤ) * fixOne := by
    have hbig : (500001 : ℝ) ≤ 2 ^ (-200 : ℤ) * fixOne := by
      rw [fixOne_real]
      norm_num
    calc |(q : ℝ) - fixOne * v + 1 / 2| ≤ 500000 + 1 := (abs_add_le ..).trans (add_le_add hq (by norm_num))
      _ = 500001 := by norm_num
      _ ≤ _ := hbig
  rw [hdiff, abs_mul, abs_of_pos (by positivity : (0 : ℝ) < 2 ^ (n - 256))]
  calc _ ≤ 2 ^ (-200 : ℤ) * fixOne * (2 : ℝ) ^ (n - 256) := by gcongr
    _ = 2 ^ (-200 : ℤ) * (2 ^ n * 1) := by rw [hunit]; ring
    _ ≤ _ := by gcongr

/-- What v.exp2 rounds is a positive value within 2 ^ -200 of the exact power, and at least the power of the whole part. -/
theorem exp2Of_spec (i : Int) : ∃ (m : Nat) (e : Int), exp2Of i = .fin false m e ∧ m ≠ 0 ∧ i / (fixOne : Int) ≤ Nat.log2 m + e ∧
    |signedReal false m e - 2 ^ (i / fixOne : ℝ)| ≤ 2 ^ (-200 : ℤ) * 2 ^ (i / fixOne : ℝ) := by
  obtain ⟨n, f, hn, hf, hlt, hval⟩ := fixed_split i
  have hone : (1 : ℝ) ≤ 2 ^ (f / fixOne : ℝ) := Real.one_le_rpow one_le_two (by positivity)
  rw [hval, Real.rpow_add two_pos, Real.rpow_intCast, exp2Of, hn, hf]
  split
  · next h0 =>
    refine ⟨1, n, rfl, one_ne_zero, by simp, ?_⟩
    have hexact : signedReal false 1 n = 2 ^ n := by simp [signedReal]
    rw [h0, hexact, Nat.cast_zero, zero_div, Real.rpow_zero, mul_one, sub_self, abs_zero]
    positivity
  · next h0 =>
    have hseries := expSeries_two hlt
    have hbig := le_expSeries (f * fixLn2 / fixOne)
    rw [exp2Num]
    generalize expSeries (f * fixLn2 / fixOne) 70 0 fixOne = q at hseries hbig ⊢
    have hlog : 257 ≤ Nat.log2 (sticky q true) := by
      have hq : 256 ≤ Nat.log2 q := (Nat.le_log2 (by unfold fixOne at hbig; omega)).mpr hbig
      rw [Nat.log2_def, if_pos (by unfold sticky; unfold fixOne at hbig; omega), show sticky q true / 2 = q by change (2 * q + 1) / 2 = q; omega]
      omega
    exact ⟨sticky q true, n - 256 - 1, by rw [Int.sub_sub]; rfl, by unfold sticky bit; omega, by omega, sticky_near_power hone hseries n⟩

/-! ## The function -/

/-- An overflow is rounded to infinity. -/
theorem toF32_of_large {m : Nat} {e : Int} (hm : m ≠ 0) (h : 128 ≤ Nat.log2 m + e) : toF32 .rn (.fin false m e) = 0x7F800000 := by
  have hover (n : Nat) : f32.overflows (f32.stepExp m e) n = true :=
    FloatFmt.overflows_iff.mpr (.inl (lt_of_lt_of_le (show f32.emax < 128 by decide) (h.trans (le_max_left _ _))))
  rw [toF32, roundFloat_fin hm]
  simp only [hover, if_true, overflowsToInf]
  exact toF32_inf .rn false

/-- A value of at most half the least step is rounded to zero. -/
theorem roundsTo_zero_of_small {x : ℝ} (hpos : 0 < x) (h : x ≤ 2 ^ (-150 : ℤ)) : roundsTo f32 .rn x 0 := by
  have hhalf : (2 : ℝ) ^ (-149 : ℤ) = 2 * 2 ^ (-150 : ℤ) := by
    rw [← zpow_one_add₀ two_ne_zero]
    rfl
  have hlt : x < 2 ^ (-149 : ℤ) := by
    rw [hhalf]
    linarith
  refine ⟨-126, 0, le_rfl, ?_, .inl rfl, ?_, by decide, ?_, ?_⟩
  · rw [abs_of_pos hpos]
    exact hlt.trans (zpow_lt_zpow_right₀ one_lt_two (by decide))
  · change picks _ _ _ ((2 : ℝ) ^ (-149 : ℤ)) 0
    rw [abs_of_pos hpos]
    refine ⟨0, by simpa using hpos.le, by simpa using hlt, .inl rfl, fun _ => rfl, fun _ => ⟨fun _ => rfl, fun hnear => ?_, fun _ => rfl⟩⟩
    simp only [Nat.cast_zero, zero_mul, zero_add, one_mul, sub_zero] at hnear
    linarith
  · exact iff_of_false (by decide) hpos.not_gt
  · refine ⟨fun hpast => absurd hpast (not_lt.mpr ?_), fun _ => ⟨by decide, ?_⟩⟩
    · rw [Nat.cast_zero, zero_mul]
      norm_num [f32]
    · norm_num [FloatFmt.value, f32, FloatFmt.signBit]

section
variable {b : Lane} (hb : finite b) (hsig : Lane.sig b ≠ 0)
include hb hsig

/-- v.exp2 overflows from 128 on, gives zero at and below −150, and rounds its series between. -/
theorem fexp2_of_finite : fexp2 b = if b.msb = false ∧ ¬ |realOf b| < 128 then 0x7F800000
    else if b.msb = true ∧ ¬ |realOf b| < 150 then 0 else toF32 .rn (exp2Of (Lane.fixed b)) := by
  have hmag (c : Nat) : magLt (Lane.sig b) (Lane.lastExp b) c 0 = true ↔ |realOf b| < c := by
    rw [magLt_iff, realOf_eq, abs_signedReal, zpow_zero, mul_one]
  have hlarge := hmag 128
  have hsmall := hmag 150
  push_cast at hlarge hsmall
  rw [fexp2, f32Num_of_finite hb]
  simp only [if_neg hsig, Bool.and_eq_true, Bool.not_eq_true', ← hlarge, ← hsmall, Bool.not_eq_true, exp2Of, apply_ite (toF32 .rn)]
  rfl

theorem fexp2_of_small (h : realOf b ≤ -150) : fexp2 b = 0 := by
  have hmsb : b.msb = true := by
    rw [← signedReal_neg_iff hsig, ← realOf_eq]
    linarith
  have hle : ¬ |realOf b| < 150 := by
    rw [abs_of_neg (by linarith)]
    linarith
  rw [fexp2_of_finite hb hsig, hmsb, if_neg (by simp), if_pos ⟨rfl, hle⟩]

theorem fexp2_of_not_small (h : ¬ realOf b ≤ -150) : fexp2 b = toF32 .rn (exp2Of (Lane.fixed b)) := by
  have hneg : b.msb = true ↔ realOf b < 0 := by rw [realOf_eq, signedReal_neg_iff hsig]
  rw [fexp2_of_finite hb hsig]
  split
  · next hlarge =>
    obtain ⟨hmsb, hle⟩ := hlarge
    have hpos : 0 ≤ realOf b := not_lt.mp (mt hneg.mpr (by rw [hmsb]; decide))
    rw [abs_of_nonneg hpos, Lane.fixed_real hb, div_lt_iff₀ fixOne_pos, not_lt] at hle
    obtain ⟨m, e, hnum, hm, hlog, -⟩ := exp2Of_spec (Lane.fixed b)
    have hint : 128 ≤ Lane.fixed b / (fixOne : Int) := by
      rw [Int.le_ediv_iff_mul_le (by decide)]
      exact_mod_cast hle
    rw [hnum, toF32_of_large hm (hint.trans hlog)]
  · next hlarge =>
    rw [if_neg]
    rintro ⟨hmsb, hle⟩
    rw [abs_of_neg (hneg.mp hmsb)] at hle
    exact h (by linarith)

end

/-- v.exp2 rounds a value within a relative 2 ^ -200 of the exact power. -/
theorem fexp2_spec {b : Lane} (hb : finite b) :
    ∃ z : ℝ, |z - 2 ^ realOf b| ≤ 2 ^ (-200 : ℤ) * 2 ^ realOf b ∧ roundsTo f32 .rn z (fexp2 b).toNat := by
  by_cases hsig : Lane.sig b = 0
  · have hone := roundFloat_roundsTo f32_binary .rn false (m := 1) 0 one_ne_zero
    have hval : signedReal false 1 0 = 1 := by simp [signedReal]
    have hz := eq_zero_of_mag ((Lane.sig_eq_zero_iff b).mp hsig)
    rw [(elementary_of_zero .rn b hz).1, (realOf_eq_zero_iff b).mpr hsig]
    refine ⟨1, by simp, ?_⟩
    rwa [hval] at hone
  · by_cases hsmall : realOf b ≤ -150
    · refine ⟨2 ^ realOf b, by rw [sub_self, abs_zero]; positivity, ?_⟩
      rw [fexp2_of_small hb hsig hsmall]
      refine roundsTo_zero_of_small (by positivity) ?_
      rw [← Real.rpow_intCast]
      exact Real.rpow_le_rpow_of_exponent_le one_le_two (by exact_mod_cast hsmall)
    · obtain ⟨m, e, hnum, hm, -, hnear⟩ := exp2Of_spec (Lane.fixed b)
      rw [fexp2_of_not_small hb hsig hsmall, hnum, toF32_toNat, Lane.fixed_real hb]
      exact ⟨_, hnear, roundFloat_roundsTo f32_binary .rn false e hm⟩

/-- Powers of two that a lane holds. -/
theorem represents_two_zpow {n : Int} (hlow : -149 ≤ n) (hhigh : n ≤ 127) : f32.Represents (signedReal false 1 n) := by
  unfold FloatFmt.Represents
  rw [abs_signedReal, Nat.cast_one, one_mul]
  change ∃ (k : Nat) (ex : Int), k < 2 ^ 24 ∧ -126 ≤ ex ∧ ex ≤ 127 ∧ _ = (k : ℝ) * 2 ^ (ex - 23)
  rcases lt_or_ge n (-126) with h | h
  · refine ⟨2 ^ (n + 149).toNat, -126, Nat.pow_lt_pow_right (by decide) (by omega), le_rfl, by decide, ?_⟩
    rw [Nat.cast_pow, Nat.cast_ofNat, ← zpow_natCast, Int.toNat_of_nonneg (by omega), ← zpow_add₀ two_ne_zero]
    congr 1
    ring
  · refine ⟨2 ^ 23, n, by decide, h, hhigh, ?_⟩
    rw [Nat.cast_pow, Nat.cast_ofNat, ← zpow_natCast, ← zpow_add₀ two_ne_zero]
    congr 1
    push_cast
    ring

/-- v.exp2 is exact at integers. -/
theorem fexp2_int {b : Lane} (hb : finite b) {n : Int} (hx : realOf b = n) (hlow : -149 ≤ n) (hhigh : n ≤ 127) :
    realOf (fexp2 b) = 2 ^ n := by
  have hval (n : Int) : signedReal false 1 n = 2 ^ n := by simp [signedReal]
  have hlane : fexp2 b = toF32 .rn (.fin false 1 n) := by
    by_cases hsig : Lane.sig b = 0
    · have hz := eq_zero_of_mag ((Lane.sig_eq_zero_iff b).mp hsig)
      rw [(realOf_eq_zero_iff b).mpr hsig] at hx
      obtain rfl : n = 0 := by exact_mod_cast hx.symm
      exact (elementary_of_zero .rn b hz).1
    · have hfixed : Lane.fixed b = n * fixOne := by
        have h := Lane.fixed_real hb
        rw [hx, eq_div_iff fixOne_pos.ne'] at h
        exact_mod_cast h.symm
      have hnot : ¬ realOf b ≤ -150 := by
        rw [hx, not_le]
        exact_mod_cast (by omega : (-150 : Int) < n)
      rw [fexp2_of_not_small hb hsig hnot, hfixed, exp2Of, Int.mul_emod_left, Int.mul_ediv_cancel _ (by decide)]
      rfl
  rw [hlane, (realOf_toF32 .rn (represents_two_zpow hlow hhigh)).1, hval]

end Sys2Proof.Machine
end

section
/-! PROOFS. `v.log2` (R151): what it rounds lies close to the exact logarithm. -/

namespace Sys2Proof.Machine

/-! ## The logarithm of a significand -/

/-- A quotient of two values of fixed point, the numerator at most the denominator and each off by no more than 900. -/
theorem fixDiv_error {v w : Nat} {x c : ℝ} (hv : |(v : ℝ) - fixOne * x| ≤ 800) (hw : |(w : ℝ) - fixOne * c| ≤ 900) (hx : 0 ≤ x) (hxc : x ≤ c)
    (hc : 69 / 100 ≤ c) (hc' : c ≤ 7 / 10) : |((v * fixOne / w : Nat) : ℝ) - fixOne * (x / c)| ≤ 3000 := by
  have hG := fixOne_pos
  have hbig : (900000 : ℝ) ≤ fixOne := by
    rw [fixOne_real]
    norm_num
  have hwlow : 68 / 100 * (fixOne : ℝ) ≤ w := by
    have := (abs_le.mp hw).1
    nlinarith
  have hwpos : (0 : ℝ) < w := by linarith
  have hcpos : 0 < c := by linarith
  have hcut := abs_natDiv_sub_le (v * fixOne) (n := w) (by exact_mod_cast hwpos)
  have hsplit : ((v * fixOne : Nat) : ℝ) / w - fixOne * (x / c) =
      fixOne * (c * (v - fixOne * x) - x * (w - fixOne * c)) / (w * c) := by
    push_cast
    field_simp
    ring
  have hnum : |c * (v - fixOne * x) - x * (w - fixOne * c)| ≤ 1190 := by
    have h1 : |c * (v - fixOne * x)| ≤ 7 / 10 * 800 := by
      rw [abs_mul, abs_of_pos hcpos]
      gcongr
    have h2 : |x * (w - fixOne * c)| ≤ 7 / 10 * 900 := by
      rw [abs_mul, abs_of_nonneg hx]
      have := hxc.trans hc'
      gcongr
    linarith [abs_sub (c * (v - fixOne * x)) (x * (w - fixOne * c))]
  have hexact : |((v * fixOne : Nat) : ℝ) / w - fixOne * (x / c)| ≤ 2600 := by
    rw [hsplit, abs_div, abs_mul, abs_of_pos hG, abs_of_pos (mul_pos hwpos hcpos), div_le_iff₀ (mul_pos hwpos hcpos)]
    have hden : 68 / 100 * (fixOne : ℝ) * (69 / 100) ≤ w * c := by gcongr
    nlinarith
  linarith [abs_sub_le ((v * fixOne / w : Nat) : ℝ) ((v * fixOne : Nat) / w) (fixOne * (x / c))]

theorem log2Fraction_error {m t : Nat} (hlow : 2 ^ t < m) (hhigh : m < 2 ^ (t + 1)) :
    |(log2Fraction m t : ℝ) - fixOne * Real.logb 2 (m / 2 ^ t)| ≤ 3000 := by
  have hp : (0 : ℝ) < 2 ^ t := by positivity
  have hlow' : (2 : ℝ) ^ t < m := by exact_mod_cast hlow
  have hhigh' : (m : ℝ) < 2 * 2 ^ t := by
    rw [← pow_succ']
    exact_mod_cast hhigh
  have hsum : (0 : ℝ) < m + 2 ^ t := by linarith
  set x : ℝ := (m - 2 ^ t) / (m + 2 ^ t)
  have hx : 0 ≤ x := div_nonneg (by linarith) hsum.le
  have hx' : x ≤ 1 / 3 := by
    rw [div_le_iff₀ hsum]
    linarith
  have hratio : (1 + x) / (1 - x) = m / 2 ^ t := by
    have hden : 1 - x = 2 * 2 ^ t / (m + 2 ^ t) := by
      rw [eq_div_iff hsum.ne', sub_mul, div_mul_cancel₀ _ hsum.ne']
      ring
    have hnum : 1 + x = 2 * m / (m + 2 ^ t) := by
      rw [eq_div_iff hsum.ne', add_mul, div_mul_cancel₀ _ hsum.ne']
      ring
    rw [hden, hnum]
    field_simp
  obtain ⟨z, hz⟩ : ∃ z, (m - 2 ^ t) * fixOne / (m + 2 ^ t) = z := ⟨_, rfl⟩
  have hzerror : |(z : ℝ) - fixOne * x| ≤ 1 := by
    have h := abs_natDiv_sub_le ((m - 2 ^ t) * fixOne) (n := m + 2 ^ t) (by positivity)
    have hexact : ((((m - 2 ^ t) * fixOne : Nat) : ℝ) / (m + 2 ^ t : Nat)) = fixOne * x := by
      rw [Nat.cast_mul, Nat.cast_sub hlow.le]
      push_cast
      ring
    rwa [hz, hexact] at h
  have hseries := atanhSeries_spec hx hx' hzerror
  rw [hratio] at hseries
  have hlog0 : 0 ≤ Real.log (m / 2 ^ t) := Real.log_nonneg ((one_le_div hp).mpr hlow'.le)
  have hlog1 : Real.log (m / 2 ^ t) ≤ Real.log 2 := Real.log_le_log (div_pos (by linarith) hp) ((div_le_iff₀ hp).mpr hhigh'.le)
  have hlow2 := Real.log_two_gt_d9
  have hhigh2 := Real.log_two_lt_d9
  rw [log2Fraction, hz, Real.logb]
  refine fixDiv_error ?_ fixLn2_error hlog0 hlog1 (by linarith) (by linarith)
  push_cast
  rw [abs_le] at hseries ⊢
  constructor <;> linarith

/-! ## The logarithm of a value -/

/-- A value of fixed point with its last bit appended is half a unit off. -/
theorem sticky_natAbs_near (i : Int) : |signedReal (decide (i < 0)) (sticky i.natAbs true) (-257) * fixOne - i| ≤ 1 / 2 := by
  have hunit : (2 : ℝ) ^ (-256 : ℤ) * fixOne = 1 := by
    rw [fixOne_real, zpow_neg]
    exact inv_mul_cancel₀ (by positivity)
  rw [show (-257 : Int) = -256 - 1 by rfl, signedReal_sticky, signedValue, if_pos rfl, mul_assoc, mul_assoc, hunit, mul_one, Nat.cast_natAbs,
    Int.cast_abs]
  rcases lt_or_ge i 0 with h | h
  · have h' : (i : ℝ) < 0 := by exact_mod_cast h
    rw [if_pos (by simpa using h), abs_of_neg h', abs_le]
    constructor <;> linarith
  · have h' : (0 : ℝ) ≤ i := by exact_mod_cast h
    rw [if_neg (by simpa using h), abs_of_nonneg h', abs_le]
    constructor <;> linarith

section
variable {m t : Nat} {n : Int} (hlow : 2 ^ t < m) (hhigh : m < 2 ^ (t + 1)) (ht : t ≤ 23)
include hlow hhigh ht

/-- The logarithm of a value that is no power of two is not close to zero. -/
theorem abs_log2_ge : 1 / 2 ^ 24 ≤ |(n : ℝ) + Real.logb 2 (m / 2 ^ t)| := by
  have hp : (0 : ℝ) < 2 ^ t := by positivity
  have hpt : (2 : ℝ) ^ t ≤ 2 ^ 23 := pow_le_pow_right₀ one_le_two ht
  have hlow' : (2 : ℝ) ^ t + 1 ≤ m := by exact_mod_cast hlow
  have hhigh' : (m : ℝ) + 1 ≤ 2 * 2 ^ t := by
    rw [← pow_succ']
    exact_mod_cast hhigh
  have hm : (0 : ℝ) < m := by linarith
  have hln : Real.log 2 ≤ 1 := by linarith [Real.log_two_lt_d9]
  have hlnpos : 0 < Real.log 2 := Real.log_pos one_lt_two
  -- ln v is at least 1 - 1 / v, and the binary logarithm is greater still
  have hbound {v : ℝ} (hv : 0 < v) (hv1 : v⁻¹ ≤ 1 - 1 / 2 ^ 24) : 1 / 2 ^ 24 ≤ Real.logb 2 v := by
    have hlog := Real.one_sub_inv_le_log_of_pos hv
    rw [Real.logb, le_div_iff₀ hlnpos]
    have hscaled : (1 / 2 ^ 24 : ℝ) * Real.log 2 ≤ 1 / 2 ^ 24 := mul_le_of_le_one_right (by positivity) hln
    linarith
  rcases le_or_gt 0 n with hn | hn
  · have hn' : (0 : ℝ) ≤ n := by exact_mod_cast hn
    have h := hbound (v := m / 2 ^ t) (by positivity) (by
      rw [inv_div, div_le_iff₀ hm]
      nlinarith)
    exact le_abs.mpr (.inl (by linarith))
  · have hn' : (n : ℝ) ≤ -1 := by exact_mod_cast (by omega : n ≤ -1)
    have h := hbound (v := 2 * 2 ^ t / m) (by positivity) (by
      rw [inv_div, div_le_iff₀ (by positivity)]
      nlinarith)
    have hcomp : Real.logb 2 (2 * 2 ^ t / m) = 1 - Real.logb 2 (m / 2 ^ t) := by
      rw [mul_div_assoc, Real.logb_mul two_ne_zero (by positivity), Real.logb_self_eq_one one_lt_two, ← inv_div (m : ℝ), Real.logb_inv,
        sub_eq_add_neg]
    exact le_abs.mpr (.inr (by linarith))

/-- What v.log2 rounds lies within a relative 2 ^ -200 of the exact logarithm. -/
theorem log2Sum_near (i : Int) (hi : i = n * (fixOne : Int) + (log2Fraction m t : Int)) :
    |signedReal (decide (i < 0)) (sticky i.natAbs true) (-257) - (n + Real.logb 2 (m / 2 ^ t))| ≤
      2 ^ (-200 : ℤ) * |n + Real.logb 2 (m / 2 ^ t)| := by
  have herror := log2Fraction_error hlow hhigh
  have hfar := abs_log2_ge (n := n) hlow hhigh ht
  have hG := fixOne_pos
  have hvalue := sticky_natAbs_near i
  have hsum : |fixOne * (signedReal (decide (i < 0)) (sticky i.natAbs true) (-257) - (n + Real.logb 2 (m / 2 ^ t)))| ≤ 3001 := by
    have hi' : (i : ℝ) = n * fixOne + log2Fraction m t := by exact_mod_cast hi
    rw [hi'] at hvalue
    rw [abs_le] at *
    constructor <;> linarith
  rw [abs_mul, abs_of_pos hG, ← le_div_iff₀' hG] at hsum
  refine hsum.trans ?_
  calc 3001 / (fixOne : ℝ) ≤ 2 ^ (-200 : ℤ) * (1 / 2 ^ 24) := by
        rw [fixOne_real]
        norm_num
    _ ≤ _ := by gcongr

end

/-! ## The function -/

/-- A significand is a power of two, or lies between two. -/
theorem significand_cases {m : Nat} (hm : m ≠ 0) : m = 2 ^ m.log2 ∨ 2 ^ m.log2 < m ∧ m < 2 ^ (m.log2 + 1) :=
  (Nat.log2_self_le hm).eq_or_lt.imp Eq.symm fun h => ⟨h, Nat.lt_log2_self⟩

section
variable {b : Lane} (hb : finite b) (hx : 0 < realOf b)
include hb hx

/-- The binary logarithm of a positive value: that of the whole power in it, and that of the significand. -/
theorem logb_realOf : Real.logb 2 (realOf b) = ((Nat.log2 (Lane.sig b) : Int) + Lane.lastExp b : Int) +
    Real.logb 2 (Lane.sig b / 2 ^ Nat.log2 (Lane.sig b)) := by
  obtain ⟨-, hsig, hval⟩ := f32Num_of_pos hb hx
  have hsig' : (Lane.sig b : ℝ) ≠ 0 := by exact_mod_cast hsig
  rw [hval, Real.logb_mul hsig' (by positivity), Real.logb_div hsig' (by positivity), ← Real.rpow_intCast, ← Real.rpow_natCast,
    Real.logb_rpow two_pos (by norm_num), Real.logb_rpow two_pos (by norm_num)]
  push_cast
  ring

/-- v.log2 of a power of two rounds its exponent. -/
theorem flog2_of_power (h : Lane.sig b = 2 ^ Nat.log2 (Lane.sig b)) :
    flog2 b = toF32 .rn (ofInt ((Nat.log2 (Lane.sig b) : Int) + Lane.lastExp b)) := by
  obtain ⟨hnum, hsig, -⟩ := f32Num_of_pos hb hx
  rw [flog2, hnum]
  simp only [if_neg hsig, Bool.false_eq_true, if_false, if_pos h]

/-- v.log2 of any other rounds its series. -/
theorem flog2_of_not_power (h : Lane.sig b ≠ 2 ^ Nat.log2 (Lane.sig b)) :
    let i : Int := ((Nat.log2 (Lane.sig b) : Int) + Lane.lastExp b) * (fixOne : Int) + (log2Fraction (Lane.sig b) (Nat.log2 (Lane.sig b)) : Int)
    flog2 b = toF32 .rn (.fin (decide (i < 0)) (sticky i.natAbs true) (-257)) := by
  obtain ⟨hnum, hsig, -⟩ := f32Num_of_pos hb hx
  rw [flog2, hnum]
  simp only [if_neg hsig, Bool.false_eq_true, if_false, if_neg h]

/-- The whole power in a value that is a power of two is its logarithm. -/
theorem logb_of_power (h : Lane.sig b = 2 ^ Nat.log2 (Lane.sig b)) :
    Real.logb 2 (realOf b) = ((Nat.log2 (Lane.sig b) : Int) + Lane.lastExp b : Int) := by
  have hone : (Lane.sig b : ℝ) / 2 ^ Nat.log2 (Lane.sig b) = 1 := by
    rw [div_eq_one_iff_eq (by positivity)]
    exact_mod_cast h
  rw [logb_realOf hb hx, hone, Real.logb_one, add_zero]

/-- v.log2 rounds a value within a relative 2 ^ -200 of the exact logarithm. -/
theorem flog2_spec (hone : realOf b ≠ 1) : ∃ z : ℝ, |z - Real.logb 2 (realOf b)| ≤ 2 ^ (-200 : ℤ) * |Real.logb 2 (realOf b)| ∧
    roundsTo f32 .rn z (flog2 b).toNat := by
  obtain ⟨-, hsig, -⟩ := f32Num_of_pos hb hx
  rcases significand_cases hsig with h | ⟨hlow, hhigh⟩
  · have hlog := logb_of_power hb hx h
    have hne : Real.logb 2 (realOf b) ≠ 0 :=
      Real.logb_ne_zero_of_pos_of_ne_one one_lt_two hx hone
    refine ⟨Real.logb 2 (realOf b), by rw [sub_self, abs_zero]; positivity, ?_⟩
    rw [flog2_of_power hb hx h, ofInt, toF32_toNat]
    rw [hlog] at hne ⊢
    have hround := roundFloat_roundsTo f32_binary .rn (decide (((Nat.log2 (Lane.sig b) : Int) + Lane.lastExp b) < 0)) 0
      (Int.natAbs_ne_zero.mpr (by exact_mod_cast hne))
    rwa [signedReal_int, zpow_zero, mul_one] at hround
  · have ht : Nat.log2 (Lane.sig b) ≤ 23 := by
      have := (Nat.log2_lt hsig).mpr (Lane.sig_lt b)
      omega
    rw [flog2_of_not_power hb hx hlow.ne', toF32_toNat, logb_realOf hb hx]
    exact ⟨_, log2Sum_near hlow hhigh ht _ rfl, roundFloat_roundsTo f32_binary .rn _ _ (Nat.succ_ne_zero _)⟩

/-- The exponent of a power of two. -/
theorem power_of_realOf {n : Int} (h : realOf b = 2 ^ n) :
    Lane.sig b = 2 ^ Nat.log2 (Lane.sig b) ∧ (Nat.log2 (Lane.sig b) : Int) + Lane.lastExp b = n := by
  obtain ⟨-, hsig, hval⟩ := f32Num_of_pos hb hx
  have hsame : (Lane.sig b : ℝ) = 2 ^ (n - Lane.lastExp b) := by
    rw [zpow_sub₀ two_ne_zero, eq_div_iff (by positivity), ← hval, h]
  have hle : 0 ≤ n - Lane.lastExp b := by
    have hone : (2 : ℝ) ^ (0 : ℤ) ≤ 2 ^ (n - Lane.lastExp b) := by
      rw [← hsame, zpow_zero]
      exact_mod_cast Nat.one_le_iff_ne_zero.mpr hsig
    exact (zpow_le_zpow_iff_right₀ one_lt_two).mp hone
  have hpow : Lane.sig b = 2 ^ (n - Lane.lastExp b).toNat := by
    have h' : (Lane.sig b : ℝ) = (2 ^ (n - Lane.lastExp b).toNat : Nat) := by
      rw [hsame, Nat.cast_pow, Nat.cast_ofNat, ← zpow_natCast, Int.toNat_of_nonneg hle]
    exact_mod_cast h'
  rw [hpow, Nat.log2_two_pow]
  exact ⟨rfl, by omega⟩

end

/-- v.log2 is exact at powers of two. -/
theorem flog2_power {b : Lane} (hb : finite b) {n : Int} (h : realOf b = 2 ^ n) :
    flog2 b = toF32 .rn (ofInt n) ∧ realOf (flog2 b) = n := by
  have hx : 0 < realOf b := h ▸ by positivity
  obtain ⟨hpow, hn⟩ := power_of_realOf hb hx h
  have hlane : flog2 b = toF32 .rn (ofInt n) := by rw [flog2_of_power hb hx hpow, hn]
  have hrep : f32.Represents (signedReal (decide (n < 0)) n.natAbs 0) := by
    obtain ⟨hexp, hexp'⟩ := Lane.lastExp_le hb
    have ht : Nat.log2 (Lane.sig b) < 24 := (Nat.log2_lt (f32Num_of_pos hb hx).2.1).mpr (Lane.sig_lt b)
    refine ⟨n.natAbs, 23, by change _ < 2 ^ 24; omega, by decide, by decide, ?_⟩
    rw [abs_signedReal]
    rfl
  refine ⟨hlane, ?_⟩
  rw [hlane, ofInt, (realOf_toF32 .rn hrep).1, signedReal_int, zpow_zero, mul_one]

end Sys2Proof.Machine
end

open Sys2Proof Sys2Proof.Machine in
/-- Settles O25: special operands are decided by their bits. On the others the reciprocal and the roots come with a last bit that says whether
anything was cut off, and round as the exact results do; the series of the power and of the logarithm stay within the bound. -/
theorem floatSpecialValues : Obligations.FloatSpecialValues := by
  unfold Obligations.FloatSpecialValues
  intro mode a b c nan quieted inf
  refine ⟨fun ha => arithmetic_of_nan mode c fun _ => firstNan_cons_of_nan ha,
    fun ha hb => arithmetic_of_nan mode c fun _ => (firstNan_cons_of_not_nan ha).trans (firstNan_cons_of_nan hb),
    fun ha hb hc => ?_, sums_invalid mode, products_invalid mode, fmul_msb mode, fsub_self mode, extrema_of_nan, extrema_of_nans,
    by decide, by decide, by decide, by decide, elementary_of_nan mode, elementary_of_inf mode,
    elementary_of_neg_inf mode, elementary_of_zero mode, fun ha => ?_⟩
  · have hfirst : firstNan [a, b, c] = some (quieted c) :=
      (firstNan_cons_of_not_nan ha).trans ((firstNan_cons_of_not_nan hb).trans (firstNan_cons_of_nan hc))
    exact ⟨ffma_of_firstNan mode false hfirst, ffma_of_firstNan mode true hfirst⟩
  · intro x
    refine ⟨roots_of_neg mode ha, frcp_spec ha, roots_spec mode ha, fexp2_spec ha, fun n => fexp2_int ha, fun hx => ?_, flog2_spec ha,
      fun n hn => (flog2_power ha hn).2⟩
    exact (flog2_power ha (n := 0) (hx.trans (zpow_zero 2).symm)).1

section
/-! PROOFS. The outputs of a firing (R167 to R169, R171 to R173): what its chains buffer or perform, and what performing comes to. -/

namespace Sys2Proof.Machine

/-! ## Bit fields -/

/-- A field of a word, as the number of its bits. -/
theorem bitsOf_toNat {w : Nat} (x : BitVec w) (lo n : Nat) : bitsOf x.toNat lo n = (x.extractLsb' lo n).toNat := by
  rw [BitVec.extractLsb'_toNat, bitsOf]

/-! ## Actions that are no stores -/

theorem codeWordSize_pos (w : Nat) : 0 < codeWordSize w := by
  unfold codeWordSize
  split <;> decide

/-- No run covers no word. -/
theorem State.cleanseRuns_nil (s : State) : s.cleanseRuns [] = s := by
  have hnone : coversWord [] = fun _ => false := funext fun w =>
    List.all_eq_false.mpr ⟨0, List.mem_range.mpr (codeWordSize_pos w), by simp⟩
  unfold State.cleanseRuns State.cleanse
  split
  · rfl
  · simp [hnone]

section
variable {x : Action} (hx : actionStep x ≠ 1)
include hx

theorem writeLines_of_record : writeLines [x] = [] := by
  cases x with
  | store => exact absurd rfl hx
  | _ => rfl

theorem storeRuns_of_record : storeRuns [x] = [] := by
  cases x with
  | store => exact absurd rfl hx
  | _ => rfl

theorem State.cleanseLines_of_record (s : State) (serial : Nat) : s.cleanseLines serial [x] = s := by
  cases x with
  | store => exact absurd rfl hx
  | _ => exact s.cleanseRuns_nil

/-- A record or a message of a speculative firing with room joins its actions (R187). -/
theorem act_record_of_speculative {s : State} {f : Firing} (body : State → Res) (hf : s.fir = some f) (hp : f.pinned = false)
    (hfit : s.fits [x] = true) : act s [x] body = body (s.setFir { f with actions := f.actions ++ [x] }) := by
  rw [act_of_speculative body hf hp hfit, s.cleanseLines_of_record hx]

/-- One of a pinned firing is performed at once (R192). -/
theorem act_record_of_pinned {s : State} {f : Firing} (body : State → Res) (hf : s.fir = some f) (hp : f.pinned = true)
    (hpair : s.partner s.cur.tile = none) : act s [x] body = body (s.perform s.cur.tile s.ctxn x) := by
  rw [act_of_pinned body hf hp hpair, writeLines_of_record hx, storeRuns_of_record hx, State.cleanseRuns_nil]
  rfl

end

/-! ## Chains of a firing -/

theorem asFiring_of_some {s : State} {f : Firing} (hf : s.fir = some f) (body : Firing → Res) : asFiring s body = body f := by
  simp only [asFiring, hf]

theorem pinIf_of_not {c : Bool} (hc : c = false) (s : State) (body : State → Res) : pinIf c s body = body s := by
  simp [pinIf, hc]

/-- A pinned firing need not pin again (R192). -/
theorem pinIf_of_pinned {s : State} {f : Firing} (hf : s.fir = some f) (hp : f.pinned = true) (c : Bool) (body : State → Res) :
    pinIf c s body = body s := by
  have hpin : s.tryPin = .pinned s := by simp [State.tryPin, hf, hp]
  simp [pinIf, afterPin, hpin]

@[simp] theorem State.fir_setFir (s : State) (f : Firing) : (s.setFir f).fir = some f := by
  simp [State.fir, State.setFir]

section
variable {p : Pfx} {s : State} {f : Firing} (hfree : s.free p) (hf : s.fir = some f)
include hfree hf

theorem firing_run {body : State → Firing → Res} {r : Res} (hb : body s f = r) :
    run p true s (fun s => asFiring s (body s)) = .next (r.finish p true) := by
  rw [run_free p true s _ hfree, asFiring_of_some hf, hb]

theorem firing_done {body : State → Firing → Res} {t : State} (hb : body s f = .done t) :
    run p true s (fun s => asFiring s (body s)) = .next (t.past p true) :=
  (firing_run hfree hf hb).trans (by rw [Res.finish_done])

theorem firing_trap {body : State → Firing → Res} {t : State} {code : BitVec 16} {ta : Word} (hb : body s f = .trap t code ta) :
    run p true s (fun s => asFiring s (body s)) = .next (t.raise code ta) :=
  firing_run hfree hf hb

end

/-- A chain whose only action is a record or message: it is buffered, or performed at once, before what else the chain does. -/
theorem acts_of_run {p : Pfx} {s : State} {f : Firing} {o : Host.Outcome State Fault Refusal} {x : Action} {after : State → State}
    (hf : s.fir = some f) (hrun : o = .next ((act s [x] fun t => .done (after t)).finish p true))
    (hx : actionStep x ≠ 1 := by simp [actionStep]) :
    (f.pinned = false → s.fits [x] = true → o = .next ((after (s.setFir { f with actions := f.actions ++ [x] })).past p true)) ∧
    (f.pinned = true → s.partner s.cur.tile = none → o = .next ((after (s.perform s.cur.tile s.ctxn x)).past p true)) :=
  ⟨fun hp hfit => by rw [hrun, act_record_of_speculative hx _ hf hp hfit, Res.finish_done],
    fun hp hpair => by rw [hrun, act_record_of_pinned hx _ hf hp hpair, Res.finish_done]⟩

/-! ## Outputs (R167, R168, R171) -/

theorem Firing.full_iff (f : Firing) : f.full = true ↔ (f.image.ctrl.extractLsb' 32 8).toNat < f.outputs + 1 := by
  rw [Firing.full, ctrlNout, bitsOf_toNat, decide_eq_true_eq]

/-- An output counted for the firing that runs. -/
def State.counted (outputs : Nat) (t : State) : State :=
  match t.fir with
  | some g => t.setFir { g with outputs := outputs + 1 }
  | none => t

theorem State.countOutput_of_fir {t : State} {g : Firing} (hg : t.fir = some g) : t.countOutput = t.counted g.outputs := by
  simp only [State.countOutput, State.counted, hg]

section
variable {p : Pfx} {d a : BitVec 5} {s : State} {f : Firing} (hfree : s.free p) (hf : s.fir = some f) (urg : Bool)
include hfree hf

theorem send_noTile (h : s.tileExists (s.s d).toNat = false) : sendOp p d a urg s = .next (s.raise Code.memNotile 0) :=
  firing_trap hfree hf (by simp [h])

theorem send_full (h : s.tileExists (s.s d).toNat = true) (hfull : (f.image.ctrl.extractLsb' 32 8).toNat < f.outputs + 1) :
    sendOp p d a urg s = .next (s.raise Code.tskOuts 0) :=
  firing_trap hfree hf (by simp [h, f.full_iff.mpr hfull])

theorem send_done (h : s.tileExists (s.s d).toNat = true) (hroom : f.outputs + 1 ≤ (f.image.ctrl.extractLsb' 32 8).toNat)
    (hquad : quadOf (s.s d).toNat = quadOf s.cur.tile ∨ f.pinned = true) :
    let m := s.message f (s.s d).toNat ((s.s a).toNat % 4096) urg
    (f.pinned = false → s.fits [.send m] = true → sendOp p d a urg s =
      .next (((s.setFir { f with actions := f.actions ++ [.send m] }).counted f.outputs).past p true)) ∧
    (f.pinned = true → s.partner s.cur.tile = none → sendOp p d a urg s =
      .next (((s.perform s.cur.tile s.ctxn (.send m)).counted f.outputs).past p true)) := by
  intro m
  have hnot : f.full = false := by
    rw [← Bool.not_eq_true, f.full_iff]
    omega
  have hpin (body : State → Res) : pinIf (quadOf (s.s d).toNat != quadOf s.cur.tile) s body = body s := by
    rcases hquad with hq | hp
    · exact pinIf_of_not (by simp [hq]) s body
    · exact pinIf_of_pinned hf hp _ body
  have hrun : sendOp p d a urg s = .next ((act s [.send m] fun t => .done t.countOutput).finish p true) := by
    refine firing_run hfree hf ?_
    simp only [h, hnot, hpin]
    rfl
  obtain ⟨hspec, hdirect⟩ := acts_of_run hf hrun
  refine ⟨fun hp hfit => (hspec hp hfit).trans ?_, fun hp hpair => (hdirect hp hpair).trans ?_⟩
  · rw [State.countOutput_of_fir (State.fir_setFir ..)]
  · rw [State.countOutput_of_fir (t := s.perform _ _ (.send m)) hf]

end

/-! ## Forks (R171) -/

/-- A single-port entry: a handler with one port, of which a firing takes one message. -/
def singlePort (h : EntryImage) : Prop :=
  (h.ctrl.extractLsb' 16 2).toNat = 1 ∧ (h.ctrl.extractLsb' 12 3).toNat = 1 ∧ (h.port.extractLsb' 12 4).toNat = 0

theorem singlePort_iff (h : EntryImage) :
    singlePort h ↔ ctrlKind h.ctrl = 1 ∧ ctrlNport h.ctrl = 1 ∧ portCnt h.port 0 = 1 := by
  simp [singlePort, ctrlKind, ctrlNport, portCnt, bitsOf_toNat]

section
variable {p : Pfx} {d a : BitVec 5} {s : State} {f : Firing} (hfree : s.free p) (hf : s.fir = some f)
include hfree hf

theorem fork_notSingle (h : ¬ singlePort (s.tctx.entry ((s.s a).toNat % 4096)).image) :
    execFork p d a s = .next (s.raise Code.tskFork 0) := by
  rw [singlePort_iff] at h
  refine firing_trap hfree hf ?_
  rw [if_pos (by tauto)]

variable (h : singlePort (s.tctx.entry ((s.s a).toNat % 4096)).image)
include h

theorem fork_full (hfull : (f.image.ctrl.extractLsb' 32 8).toNat < f.outputs + 1) :
    execFork p d a s = .next (s.raise Code.tskOuts 0) := by
  rw [singlePort_iff] at h
  refine firing_trap hfree hf ?_
  rw [if_neg (by tauto), if_pos (f.full_iff.mpr hfull)]

variable (hroom : f.outputs + 1 ≤ (f.image.ctrl.extractLsb' 32 8).toNat)
include hroom

theorem fork_dequeFull (hdeque : 64 ≤ (s.tile s.cur.tile).deque.length) : execFork p d a s = .next ((s.setS d 0).past p true) := by
  rw [singlePort_iff] at h
  refine firing_done hfree hf ?_
  rw [if_neg (by tauto), if_neg (by rw [f.full_iff]; omega), if_pos hdeque]

theorem fork_done (hdeque : (s.tile s.cur.tile).deque.length < 64) : execFork p d a s =
    let n := s.cur.tile
    let u := s.setFir { f with outputs := f.outputs + 1 }
    .next (((u.setTile n { u.tile n with
      count := (u.tile n).count + 1
      deque := (u.tile n).deque ++ [{ msg := s.message f n ((s.s a).toNat % 4096) false
                                      serial := (u.tile n).count * 64 + partIdx n
                                      parent := { tile := n, serial := f.serial } }] }).setS d 1).past p true) := by
  rw [singlePort_iff] at h
  refine firing_done hfree hf ?_
  rw [if_neg (by tauto), if_neg (by rw [f.full_iff]; omega), if_neg (by omega)]
  simp only [State.countOutput_of_fir hf, State.counted, hf, State.newSerial, State.tile_setTile, State.setTile_setTile]

end

/-! ## Counters (R172, R173) -/

section
variable {p : Pfx} {d a : BitVec 5} {s : State} {f : Firing} (hfree : s.free p) (hf : s.fir = some f)
include hfree hf

theorem jcInit_notOwned (h : s.ownsCounter ((s.s d).toNat % 256) = false) :
    execJcInit p d a s = .next (s.raise Code.tskJcown 0) :=
  firing_trap hfree hf (by simp [h])

theorem join_notOwned (h : s.ownsCounter ((s.s a).toNat % 256) = false) : execJoin p a s = .next (s.raise Code.tskJcown 0) :=
  firing_trap hfree hf (by simp [h])

variable (h : s.ownsCounter ((s.s a).toNat % 256) = true) (hclean : s.poisonIn [s.counterSeen ((s.s a).toNat % 256)] = none)
include h hclean

theorem join_run {cnt tag j k c : Nat} {pay : List Word} {wid : Word} {slot : Option Nat}
    (hc : s.counter s.cur.tile ((s.s a).toNat % 256) = .join cnt tag j pay wid k c slot) :
    execJoin p a s = .next ((act s [.join ((s.s a).toNat % 256) f.ts] fun t => .done (id t)).finish p true) :=
  firing_run hfree hf (by
    rw [if_neg (by simp [h]), consume_of_clean _ hclean, hc]
    rfl)

theorem join_wrongKind
    (hkind : ∀ cnt tag j pay wid k c slot, s.counter s.cur.tile ((s.s a).toNat % 256) ≠ .join cnt tag j pay wid k c slot) :
    execJoin p a s = .next (s.raise Code.tskJckind 0) := by
  refine firing_trap hfree hf ?_
  rw [if_neg (by simp [h]), consume_of_clean _ hclean]
  cases hc : s.counter s.cur.tile ((s.s a).toNat % 256) with
  | join => exact (hkind _ _ _ _ _ _ _ _ hc).elim
  | idle | iter => rfl

end

/-! ## What performing an action comes to (R172, R173, R187) -/

section
variable (s : State) (n ctx c : Nat) (sv : Word) (pay : List Word) (wid : Word) (ts : Nat) (slot : Option Nat)

theorem State.perform_join_armed (h : (sv.extractLsb' 0 32).toNat ≠ 0) :
    s.perform n ctx (.arm c true sv pay wid ts slot) = (s.cleanse (fun w => w == keyUnit (clusterOf n) c)).setCounter n c
      (.join (sv.extractLsb' 0 32).toNat (sv.extractLsb' 32 12).toNat (sv.extractLsb' 44 3).toNat pay wid ts ctx slot) := by
  simp only [State.perform, State.armCounter, bitsOf_toNat, if_neg h, if_true]

theorem State.perform_iter_armed :
    s.perform n ctx (.arm c false sv pay wid ts slot) = (s.cleanse (fun w => w == keyUnit (clusterOf n) c)).setCounter n c
      (.iter (sv.extractLsb' 0 32).toNat (max (sv.extractLsb' 32 16).toNat 1)
        (if sv.extractLsb' 48 8 = 0 then 8 else (sv.extractLsb' 48 8).toNat) 0 none) := by
  have hmin : (if (sv.extractLsb' 32 16).toNat = 0 then 1 else (sv.extractLsb' 32 16).toNat) = max (sv.extractLsb' 32 16).toNat 1 := by
    split <;> omega
  have hdiv : (sv.extractLsb' 48 8).toNat = 0 ↔ sv.extractLsb' 48 8 = 0 := by
    exact ⟨fun h => BitVec.eq_of_toNat_eq h, congrArg BitVec.toNat⟩
  simp only [State.perform, State.armCounter, bitsOf_toNat, hmin, hdiv, Bool.false_eq_true, if_false]

variable {tag j k cnt : Nat}

theorem State.perform_join_idle (h : s.counter n c = .idle) : s.perform n ctx (.join c ts) = s.setCluster (clusterOf n)
    { s.cluster (clusterOf n) with lost := (s.cluster (clusterOf n)).lost ++ [c] } := by
  simp only [State.perform, State.joinCounter, h]

theorem State.perform_join_counts (h : s.counter n c = .join cnt tag j pay wid k ctx slot) (hcnt : 1 < cnt) :
    s.perform n ctx (.join c ts) = s.setCounter n c (.join (cnt - 1) tag j pay wid k ctx slot) := by
  simp only [State.perform, State.joinCounter, h, if_neg (Nat.not_le.mpr hcnt)]

theorem State.perform_join_last (h : s.counter n c = .join 1 tag j pay wid k ctx slot) : ∃ urg : Bool,
    s.perform n ctx (.join c ts) = (s.setCounter n c .idle).send
      { ts := max k ts, src := n, knd := 3, urg := urg, tag := tag, wid := wid, payload := pay, ctx := ctx
        dst := clusterTile (clusterOf n) j, slot := slot } := by
  simp only [State.perform, State.joinCounter, h, le_refl, if_true, State.joinContinuation]
  exact ⟨_, rfl⟩

end

end Sys2Proof.Machine

open Sys2Proof Sys2Proof.Machine in
/-- Settles O35: every chain with one record or message is one shape; the others by their checks in order; and each action by its meaning. -/
theorem taskOutputs : Obligations.TaskOutputs := by
  unfold Obligations.TaskOutputs
  refine ⟨fun p d a i s f hfree hf => ?_, fun s n ctx tag ts c j k cnt en m pay wid slot sv =>
    ⟨rfl, rfl, rfl, rfl, s.perform_join_armed n ctx c sv pay wid ts slot, s.perform_iter_armed n ctx c sv pay wid ts slot,
      s.perform_join_idle n ctx c ts, s.perform_join_counts n ctx c pay wid ts slot, s.perform_join_last n ctx c pay wid ts slot⟩⟩
  intro n nout tag acts raises message counted sends
  have outputs {i : Instr} {urg : Bool} (hi : exec i s = sendOp p d a urg s) : sends i urg :=
    ⟨fun h => hi.trans (send_noTile hfree hf urg h), fun h hfull => hi.trans (send_full hfree hf urg h hfull),
      fun h hroom hquad => by
        simp only [acts, hi]
        exact send_done hfree hf urg h hroom hquad⟩
  have records {i : Instr} {x : Machine.Action} (hx : actionStep x ≠ 1)
      (hi : exec i s = .next ((act s [x] fun t => .done (id t)).finish p true)) : acts i x id := acts_of_run hf hi hx
  refine ⟨outputs rfl, outputs rfl, records (by simp [actionStep]) (firing_run hfree hf rfl),
    records (by simp [actionStep]) (firing_run hfree hf rfl), records (by simp [actionStep]) (firing_run hfree hf rfl),
    records (by simp [actionStep]) (firing_run hfree hf rfl),
    ⟨fun h => firing_trap hfree hf (if_pos (by omega)), fun h => firing_done hfree hf (if_neg (by omega))⟩,
    ⟨fork_notSingle hfree hf, fork_full hfree hf, fork_dequeFull hfree hf, fork_done hfree hf⟩,
    ⟨jcInit_notOwned hfree hf, fun h => ?_⟩, ⟨join_notOwned hfree hf, fun h hclean => ?_⟩⟩
  · exact records (by simp [actionStep]) (firing_run hfree hf (by simp only [h]; rfl))
  · split
    next hc => exact records (by simp [actionStep]) (join_run hfree hf h hclean hc)
    next hc => exact join_wrongKind hfree hf h hclean hc
end

section
/-! PROOFS. What the tasking operations leave of tiles and of the contexts on them (R158, R162 to R164, R189): entries take their places in
the order of readiness, copies settle, and the firings of a context stay where they are. -/

namespace Sys2Proof.Machine

/-! ## Folds -/

/-- Steps that each keep what is read of a state keep it together. -/
theorem foldl_keeps {α β : Type} (g : State → β) (f : State → α → State) (l : List α) (s : State)
    (h : ∀ t a, g (f t a) = g t) : g (l.foldl f s) = g s := by
  induction l generalizing s with
  | nil => rfl
  | cons a l ih => rw [List.foldl_cons, ih, h]

/-! ## One context on one tile -/

theorem State.tctxOf_setTctxOf_eq (s : State) (n c j d : Nat) (x : TileCtx) :
    (s.setTctxOf n c x).tctxOf j d = if j = n ∧ d = c then x else s.tctxOf j d := by
  by_cases hj : j = n
  · subst hj
    by_cases hd : d = c
    · subst hd
      simp
    · simp [State.tctxOf, State.setTctxOf, Tile.tctx, Map.get_set_other _ _ _ _ _ hd, hd]
  · simp [State.tctxOf, State.setTctxOf, State.tile_setTile_other _ _ _ _ hj, hj]

/-- A tile whose contexts are written back as they were. -/
theorem State.tctxOf_setTile {s : State} {n : Nat} {t : Tile} (h : t.ctxs = (s.tile n).ctxs) (j d : Nat) :
    (s.setTile n t).tctxOf j d = s.tctxOf j d := by
  by_cases hj : j = n
  · subst hj
    simp [State.tctxOf, Tile.tctx, h]
  · simp [State.tctxOf, State.tile_setTile_other _ _ _ _ hj]

theorem State.tctxOf_of_tiles {s t : State} (h : t.tiles = s.tiles) (n c : Nat) : t.tctxOf n c = s.tctxOf n c := by
  simp only [State.tctxOf, State.tile, h]

theorem State.reg_of_live {s : State} (h : s.cur.set ≠ .keeper) : s.reg = s.tctx.regs s.cur.set := by
  unfold State.reg
  split
  · contradiction
  · rfl

/-! ## The order of readiness (R164) -/

/-- Entries that are each given some place in the order are otherwise as they were. -/
theorem foldl_ranks {f : Map Entry × Nat → Nat × Entry → Map Entry × Nat}
    (hf : ∀ acc q, ∃ r k, f acc q = (acc.1 ++ [(q.1, { q.2 with readyAt := r })], k)) (l : Map Entry) (acc : Map Entry × Nat) :
    ∃ es, (l.foldl f acc).1 = acc.1 ++ es ∧ ∀ tag, ∃ r, Map.get es tag Entry.empty = { Map.get l tag Entry.empty with readyAt := r } := by
  induction l generalizing acc with
  | nil => exact ⟨[], by simp, fun tag => ⟨none, rfl⟩⟩
  | cons q l ih =>
    obtain ⟨r, k, hq⟩ := hf acc q
    obtain ⟨es, hfold, hget⟩ := ih (f acc q)
    refine ⟨(q.1, { q.2 with readyAt := r }) :: es, by rw [List.foldl_cons, hfold, hq]; simp, fun tag => ?_⟩
    by_cases htag : tag = q.1
    · exact ⟨r, by simp [Map.get, Map.get?, htag]⟩
    · simpa [Map.get, Map.get?, htag] using hget tag

/-- Ranking rewrites the places of a context's entries in the order, and the tile's counter of places. -/
theorem State.rankReady_spec (s : State) (n c : Nat) : ∃ es ctr,
    s.rankReady n c = (s.setTctxOf n c { s.tctxOf n c with entries := es }).setTile n
      { (s.tile n).setTctx c { s.tctxOf n c with entries := es } with readyCtr := ctr } ∧
    ∀ tag, ∃ r, Map.get es tag Entry.empty = { (s.tctxOf n c).entry tag with readyAt := r } := by
  unfold State.rankReady
  extract_lets x r s1
  have hfold : ∃ es, r.1 = [] ++ es ∧ ∀ tag, ∃ k, Map.get es tag Entry.empty = { Map.get x.entries tag Entry.empty with readyAt := k } := by
    refine foldl_ranks (fun acc q => ?_) x.entries ([], (s.tile n).readyCtr)
    dsimp only
    split
    · exact ⟨_, _, rfl⟩
    · exact ⟨q.2.readyAt, _, rfl⟩
    · exact ⟨_, _, rfl⟩
  obtain ⟨es, hes, hget⟩ := hfold
  have htile : s1.tile n = (s.tile n).setTctx c { x with entries := r.1 } := State.tile_setTile s n _
  refine ⟨r.1, r.2, ?_, ?_⟩
  · exact congrArg (fun t : Tile => s1.setTile n { t with readyCtr := r.2 }) htile
  · rw [hes]
    exact hget

theorem State.tctxOf_rankReady (s : State) (n c j d : Nat) : ∃ es, (s.rankReady n c).tctxOf j d = { s.tctxOf j d with entries := es } ∧
    ∀ tag, ∃ r, Map.get es tag Entry.empty = { (s.tctxOf j d).entry tag with readyAt := r } := by
  obtain ⟨es, ctr, hrank, hget⟩ := s.rankReady_spec n c
  have htctx : (s.rankReady n c).tctxOf j d = if j = n ∧ d = c then { s.tctxOf n c with entries := es } else s.tctxOf j d := by
    rw [hrank, State.tctxOf_setTile (by simp [State.setTctxOf]), State.tctxOf_setTctxOf_eq]
  by_cases h : j = n ∧ d = c
  · obtain ⟨rfl, rfl⟩ := h
    exact ⟨es, by simpa using htctx, hget⟩
  · exact ⟨(s.tctxOf j d).entries, by rw [htctx, if_neg h], fun tag => ⟨((s.tctxOf j d).entry tag).readyAt, rfl⟩⟩

/-- An entry but for its place in the order of readiness. -/
def Entry.unranked (e : Entry) : Entry := { e with readyAt := none }

theorem State.unranked_rankReady (s : State) (n c j d tag : Nat) :
    ((s.rankReady n c).entryOf j d tag).unranked = (s.entryOf j d tag).unranked := by
  obtain ⟨es, htctx, hget⟩ := s.tctxOf_rankReady n c j d
  obtain ⟨r, hr⟩ := hget tag
  simp only [State.entryOf, htctx, Entry.unranked, TileCtx.entry] at hr ⊢
  rw [hr]

/-! ## The firings of a context on a tile (R184, R189) -/

/-- What holds firings: the two register sets, those that `yield` saved, and those that await their commit. -/
def TileCtx.firings (x : TileCtx) : RegSet × RegSet × List (Nat × RegSet) × List Firing := (x.normal, x.urgent, x.saved, x.ended)

def State.firings (s : State) (n c : Nat) : RegSet × RegSet × List (Nat × RegSet) × List Firing := (s.tctxOf n c).firings

theorem TileCtx.regs_of_firings {x y : TileCtx} (h : x.firings = y.firings) (k : SetId) : x.regs k = y.regs k := by
  simp only [TileCtx.firings, Prod.mk.injEq] at h
  obtain ⟨hnormal, hurgent, -⟩ := h
  cases k <;> assumption

theorem TileCtx.ended_of_firings {x y : TileCtx} (h : x.firings = y.firings) : x.ended = y.ended :=
  congrArg (fun f => f.2.2.2) h

theorem State.firings_of_tiles {s t : State} (h : t.tiles = s.tiles) : t.firings = s.firings := by
  funext n c
  simp only [State.firings, State.tctxOf_of_tiles h]

theorem State.firings_setTile {s : State} {n : Nat} {t : Tile} (h : t.ctxs = (s.tile n).ctxs) : (s.setTile n t).firings = s.firings := by
  funext j d
  simp only [State.firings, State.tctxOf_setTile h]

theorem State.firings_setTctxOf {s : State} {n c : Nat} {x : TileCtx} (h : x.firings = (s.tctxOf n c).firings) :
    (s.setTctxOf n c x).firings = s.firings := by
  funext j d
  rw [State.firings, State.tctxOf_setTctxOf_eq]
  split
  next hjd =>
    obtain ⟨rfl, rfl⟩ := hjd
    exact h
  next => rfl

@[simp] theorem State.rankReady_firings (s : State) (n c : Nat) : (s.rankReady n c).firings = s.firings := by
  funext j d
  obtain ⟨es, h, -⟩ := s.tctxOf_rankReady n c j d
  simp only [State.firings, h]
  rfl

@[simp] theorem State.note_tiles (s : State) (n c : Nat) (f : Firing) (k : FireEvent) : (s.note n c f k).tiles = s.tiles := by
  unfold State.note
  split <;> rfl

@[simp] theorem State.leaveSweeps_tiles (s : State) (ids : List FiringId) : (s.leaveSweeps ids).tiles = s.tiles := by
  unfold State.leaveSweeps
  split <;> rfl

@[simp] theorem State.streamEnded_tiles (s : State) (f : Firing) : (s.streamEnded f).tiles = s.tiles := by
  refine foldl_keeps State.tiles _ _ s (fun t m => ?_)
  split
  · split <;> rfl
  · rfl

@[simp] theorem TileCtx.requeue_firings (x : TileCtx) (f : Firing) (l : List (Nat × Msg)) : (x.requeue f l).firings = x.firings := by
  unfold TileCtx.requeue
  generalize l.reverse = l
  induction l generalizing x with
  | nil => rfl
  | cons q l ih => exact ih _

@[simp] theorem State.detach_firings (s : State) (n c : Nat) (id : FiringId) : (s.detach n c id).firings = s.firings := by
  unfold State.detach
  extract_lets go t s1 x
  have hslots : s1.firings = s.firings := State.firings_setTile rfl
  refine (State.firings_setTctxOf ?_).trans hslots
  rfl

end Sys2Proof.Machine
end

section
/-! PROOFS. What a firing takes and learns, and its end (R163, R166, R170, R174 to R176, R377, R379). -/

namespace Sys2Proof.Machine

/-! ## Fields of the entry words (R157, R166) -/

theorem portTag_eq (w : Word) (i : Nat) : portTag w i = (w.extractLsb' (16 * i) 12).toNat := bitsOf_toNat w _ _

theorem ctrlNport_eq (w : Word) : ctrlNport w = (w.extractLsb' 12 3).toNat := bitsOf_toNat w _ _

theorem ctrlPrio_eq (w : Word) : ctrlPrio w = (w.extractLsb' 24 8).toNat := bitsOf_toNat w _ _

theorem ctrlKind_eq_zero (w : Word) : ctrlKind w = 0 ↔ w.extractLsb' 16 2 = 0 := by
  rw [ctrlKind, bitsOf_toNat]
  exact ⟨fun h => BitVec.eq_of_toNat_eq h, congrArg BitVec.toNat⟩

theorem bit_eq_one (b : Bool) : (bit b = 1) = (b = true) := by
  cases b <;> simp [bit]

/-- The word of `h.tag`, field by field (R166). -/
theorem TileCtx.tagWord_fields (x : TileCtx) (tag : Nat) :
    let e := x.entry tag
    let w := x.tagWord tag
    w.getLsbD 63 = e.lock ∧ w.getLsbD 62 = e.en ∧ w.getLsbD 61 = e.pend ∧ w.getLsbD 60 = e.image.ctrl.getLsbD 15 ∧
      w.extractLsb' 58 2 = e.image.ctrl.extractLsb' 16 2 ∧ w.extractLsb' 55 3 = e.image.ctrl.extractLsb' 12 3 ∧
      w.extractLsb' 40 8 = e.image.ctrl.extractLsb' 24 8 ∧
      (w.extractLsb' 8 8).toNat = min 255 (x.unbound.countP (fun m => m.tag == tag)) ∧
      (w.extractLsb' 0 7).toNat = x.queueLen tag % 128 := by
  intro e w
  obtain ⟨n, hn, hw⟩ : ∃ n, n = bit e.lock * 2 ^ 63 + bit e.en * 2 ^ 62 + bit e.pend * 2 ^ 61 + bit (ctrlClass e.image.ctrl) * 2 ^ 60 +
    (e.image.ctrl.extractLsb' 16 2).toNat * 2 ^ 58 + (e.image.ctrl.extractLsb' 12 3).toNat * 2 ^ 55 +
    (e.image.ctrl.extractLsb' 24 8).toNat * 2 ^ 40 + min 255 (x.unbound.countP (fun m => m.tag == tag)) * 2 ^ 8 +
    x.queueLen tag % 128 ∧ w = BitVec.ofNat 64 n :=
    ⟨_, rfl, by simp only [w, TileCtx.tagWord, ctrlKind, ctrlNport, ctrlPrio, bitsOf_toNat]; rfl⟩
  have hbit (b : Bool) : bit b < 2 := by cases b <;> decide
  have hkind := (e.image.ctrl.extractLsb' 16 2).isLt
  have hnport := (e.image.ctrl.extractLsb' 12 3).isLt
  have hprio := (e.image.ctrl.extractLsb' 24 8).isLt
  have hlock := hbit e.lock
  have hen := hbit e.en
  have hpend := hbit e.pend
  have hclass := hbit (ctrlClass e.image.ctrl)
  rw [hw]
  have flag (i : Nat) (b : Bool) (hi : i < 64) (h : n / 2 ^ i % 2 = bit b) : (BitVec.ofNat 64 n).getLsbD i = b := by
    rw [BitVec.getLsbD_ofNat, Nat.testBit_eq_decide_div_mod_eq, h, decide_eq_true hi, Bool.true_and]
    simp only [bit_eq_one, Bool.decide_eq_true]
  have field {k : Nat} (i : Nat) (v : BitVec k) (h : n % 2 ^ 64 / 2 ^ i % 2 ^ k = v.toNat) : (BitVec.ofNat 64 n).extractLsb' i k = v := by
    refine BitVec.eq_of_toNat_eq ?_
    rw [BitVec.extractLsb'_toNat, BitVec.toNat_ofNat, Nat.shiftRight_eq_div_pow, h]
  refine ⟨flag 63 _ (by decide) ?_, flag 62 _ (by decide) ?_, flag 61 _ (by decide) ?_, flag 60 _ (by decide) ?_, field 58 _ ?_, field 55 _ ?_,
    field 40 _ ?_, ?_, ?_⟩
  case refine_4 =>
    change n / 2 ^ 60 % 2 = bit (ctrlClass e.image.ctrl)
    omega
  case refine_8 | refine_9 =>
    rw [BitVec.extractLsb'_toNat, BitVec.toNat_ofNat, Nat.shiftRight_eq_div_pow]
    omega
  all_goals omega

/-! ## `h.tag` and `in.cnt` (R166, R170) -/

section
variable {p : Pfx} {s : State} (hfree : s.free p) (d a : BitVec 5)
include hfree

theorem inCnt_done : execInCnt p d a s = .next ((s.setS d (if (s.tctx.entry ((s.s a).toNat % 4096)).image.ctrl.extractLsb' 16 2 = 0 then 0
    else BitVec.ofNat 64 (s.tctx.queueLen ((s.s a).toNat % 4096)))).past p true) := by
  refine run_done hfree ?_
  simp only [TileCtx.queueCount, ctrlKind_eq_zero, apply_ite (BitVec.ofNat 64)]
  rfl

theorem hTag_done : execHTag p d a s = .next ((s.setS d (s.tctx.tagWord ((s.s a).toNat % 4096))).past p true) :=
  run_done hfree rfl

end

/-! ## `in.pop` (R163, R170) -/

theorem Msg.h0_eq (m : Msg) : m.h0 = m.ts % 2 ^ 32 * 2 ^ 32 + m.src % 2 ^ 12 * 2 ^ 20 + m.knd % 16 * 2 ^ 16 +
    (if m.urg then 2 ^ 14 else 0) + m.tag % 2 ^ 12 := by
  rw [Msg.h0]
  cases m.urg <;> simp [bit]

/-- What a popped message leaves: the payload registers and the header in sd, once the entries have their places in the order. -/
def State.popped (s : State) (d : BitVec 5) (m : Msg) (n c : Nat) : State :=
  ((s.rankReady n c).setPayload m.payload).setS d (BitVec.ofNat 64 m.h0)

/-- A message whose only error, if any, is in the word that is not returned is consumed clean (R379). -/
theorem consume_of_wordOne {m : Msg} (hbad : ∀ w, w ∈ m.bad → w = 1) (g : Nat → Seen) (s : State) (body : State → Res) :
    consume ((m.bad.filter (fun w => w != 1)).map g) s body = body s := by
  have hnone : m.bad.filter (fun w => w != 1) = [] := List.filter_eq_nil_iff.mpr fun w hw => by simp [hbad w hw]
  rw [hnone]
  exact consume_of_clean body rfl

section
variable {p : Pfx} {s : State} {f : Firing} (hfree : s.free p) (hf : s.fir = some f) (d a : BitVec 5)
include hfree hf

theorem inPop_noPort (h : (f.image.ctrl.extractLsb' 12 3).toNat ≤ (s.s a).toNat % 4) :
    execInPop p d a s = .next (s.raise Code.tskPort 0) :=
  firing_trap hfree hf (if_pos (by rwa [ctrlNport_eq]))

variable (h : (s.s a).toNat % 4 < (f.image.ctrl.extractLsb' 12 3).toNat)
include h

theorem inPop_owed {q : Nat × Msg}
    (hback : f.owed.find? (fun q => portTag f.image.port q.1 == portTag f.image.port ((s.s a).toNat % 4)) = some q)
    (hbad : ∀ w, w ∈ q.2.bad → w = 1) : execInPop p d a s =
      .next ((State.popped (s.setFir { f with owed := f.owed.erase q, popped := f.popped ++ [((s.s a).toNat % 4, q.2)] }) d q.2
        s.cur.tile s.ctxn).past p true) := by
  refine firing_done hfree hf ?_
  rw [if_neg (by rw [ctrlNport_eq]; omega)]
  simp only [hback, consume_of_wordOne hbad]
  rfl

variable (hback : f.owed.find? (fun q => portTag f.image.port q.1 == portTag f.image.port ((s.s a).toNat % 4)) = none)
include hback

theorem inPop_empty (hqueue : (s.tctx.entry (portTag f.image.port ((s.s a).toNat % 4))).queue = []) :
    execInPop p d a s = .next ((s.setS d 0).past p true) := by
  refine firing_done hfree hf ?_
  rw [if_neg (by rw [ctrlNport_eq]; omega)]
  simp only [hback, hqueue]

theorem inPop_queue {m : Msg} {rest : List Msg} (hqueue : (s.tctx.entry (portTag f.image.port ((s.s a).toNat % 4))).queue = m :: rest)
    (hbad : ∀ w, w ∈ m.bad → w = 1) : execInPop p d a s =
      .next ((State.popped ((s.setTctx (s.tctx.setEntry (portTag f.image.port ((s.s a).toNat % 4))
        { s.tctx.entry (portTag f.image.port ((s.s a).toNat % 4)) with queue := rest })).setFir
          { f with popped := f.popped ++ [((s.s a).toNat % 4, m)] }) d m s.cur.tile s.ctxn).past p true) := by
  refine firing_done hfree hf ?_
  rw [if_neg (by rw [ctrlNport_eq]; omega)]
  simp only [hback, hqueue, consume_of_wordOne hbad, State.setTctx_cur, State.ctxn_setTctx]
  rfl

end

/-! ## `chunk` (R174) -/

section
variable {p : Pfx} {s : State} {f : Firing} (hfree : s.free p) (hf : s.fir = some f) (d a : BitVec 5)
include hfree hf

theorem chunk_notOwned (h : s.ownsCounter ((s.s a).toNat % 256) = false) : execChunk p d a s = .next (s.raise Code.tskJcown 0) :=
  firing_trap hfree hf (by simp [h])

variable {stop minc div next : Nat} {owner : Option (Nat × Nat)} (h : s.ownsCounter ((s.s a).toNat % 256) = true)
  (hclean : s.poisonIn [s.counterSeen ((s.s a).toNat % 256)] = none)
  (hc : s.counter s.cur.tile ((s.s a).toNat % 256) = .iter stop minc div next owner)
include h hclean hc

theorem chunk_replayed (hclaims : f.claims = []) (hreplay : f.claimed < f.replay.length) : execChunk p d a s =
    .next (((s.setFir { f with claimed := f.claimed + 1 }).pend (.s d (f.replay.getD f.claimed 0))).past p true) := by
  refine firing_done hfree hf ?_
  rw [if_neg (by simp [h]), consume_of_clean _ hclean, hc]
  exact if_pos (by simp [hclaims, hreplay])

/-- A claim from the counter itself: the next part of its range, with the counter moved on. -/
theorem chunk_claims (hnew : f.claims ≠ [] ∨ f.replay.length ≤ f.claimed) (hpin : f.claimed + f.claims.length < 16 ∨ f.pinned = true) :
    execChunk p d a s =
      let w := BitVec.ofNat 64 (claimLen stop minc div next * 2 ^ 32 + next % 2 ^ 32)
      let u := s.setCounter s.cur.tile ((s.s a).toNat % 256) (.iter stop minc div (next + claimLen stop minc div next) owner)
      .next (((if f.claimed + f.claims.length < 16 then u.setFir { f with claims := f.claims ++ [w] } else u).pend (.s d w)).past p true) := by
  have hpinned (body : State → Res) : pinIf (decide (16 ≤ f.claimed + f.claims.length)) s body = body s := by
    rcases hpin with hlt | hp
    · exact pinIf_of_not (by simpa using hlt) s body
    · exact pinIf_of_pinned hf hp _ body
  refine firing_done hfree hf ?_
  rw [if_neg (by simp [h]), consume_of_clean _ hclean, hc]
  refine (if_neg ?_).trans ?_
  · rcases hnew with hne | hle
    · simp [hne]
    · simp [Nat.not_lt.mpr hle]
  · have hfir : (s.setCounter s.cur.tile ((s.s a).toNat % 256) (.iter stop minc div (next + claimLen stop minc div next) owner)).fir = some f := hf
    rw [hpinned, claim, hc]
    simp only [hfir]

end

/-! ## `wid.fld` (R176) -/

theorem widField_eq (ws : List Nat) (w : Word) (n : Nat) : widField ws w n =
    if ws.length ≤ n then 0 else BitVec.ofNat 64 (w.toNat / 2 ^ (ws.drop (n + 1)).sum % 2 ^ ws.getD n 0) := by
  rw [widField, List.sum_eq_foldl]

/-! ## Endings (R166) -/

/-- All but the tiles, the launches, the clusters and the events. -/
def State.surroundings (s : State) : State := { s with tiles := [], launches := [], clusters := [], events := [] }

theorem State.eq_of_surroundings {s t : State} (h : t.surroundings = s.surroundings) :
    t = { s with tiles := t.tiles, launches := t.launches, clusters := t.clusters, events := t.events } :=
  congrArg (fun u : State => { u with tiles := t.tiles, launches := t.launches, clusters := t.clusters, events := t.events }) h

theorem State.setTctxOf_surroundings (s : State) (n c : Nat) (x : TileCtx) : (s.setTctxOf n c x).surroundings = s.surroundings := rfl

theorem State.rankReady_surroundings (s : State) (n c : Nat) : (s.rankReady n c).surroundings = s.surroundings := by
  obtain ⟨es, ctr, h, -⟩ := s.rankReady_spec n c
  rw [h]
  rfl

theorem State.detach_surroundings (s : State) (n c : Nat) (id : FiringId) : (s.detach n c id).surroundings = s.surroundings := rfl

theorem State.note_surroundings (s : State) (n c : Nat) (f : Firing) (e : FireEvent) : (s.note n c f e).surroundings = s.surroundings := by
  unfold State.note
  split <;> rfl

theorem State.streamEnded_surroundings (s : State) (f : Firing) : (s.streamEnded f).surroundings = s.surroundings := by
  refine foldl_keeps State.surroundings _ _ s (fun t m => ?_)
  split
  · split <;> rfl
  · rfl

theorem State.freeGroups_surroundings (s : State) : s.freeGroups.surroundings = s.surroundings := rfl

theorem State.endFiring_surroundings (s : State) (n c : Nat) (k : SetId) : (s.endFiring n c k).surroundings = s.surroundings := by
  unfold State.endFiring
  extract_lets x
  split
  · rfl
  · simp only [State.freeGroups_surroundings, State.streamEnded_surroundings, State.detach_surroundings, State.rankReady_surroundings,
      State.setTctxOf_surroundings]
    split <;> simp only [State.note_surroundings]

@[simp] theorem State.freeGroups_firings (s : State) : s.freeGroups.firings = s.firings := State.firings_of_tiles rfl

@[simp] theorem State.note_firings (s : State) (n c : Nat) (f : Firing) (k : FireEvent) : (s.note n c f k).firings = s.firings :=
  State.firings_of_tiles (s.note_tiles ..)

@[simp] theorem State.streamEnded_firings (s : State) (f : Firing) : (s.streamEnded f).firings = s.firings :=
  State.firings_of_tiles (s.streamEnded_tiles f)

/-- The set is free, and a speculative firing awaits its commit. -/
theorem State.endFiring_firings {s : State} {n c : Nat} {k : SetId} {f : Firing} (hf : ((s.tctxOf n c).regs k).fir = some f) :
    (s.endFiring n c k).firings n c = { (s.tctxOf n c).setRegs k ((s.tctxOf n c).regs k).free with
      ended := (s.tctxOf n c).ended ++ (if f.pinned then [] else [{ f with owed := [] }]) }.firings := by
  have hrequeue := TileCtx.requeue_firings ((s.tctxOf n c).setRegs k ((s.tctxOf n c).regs k).free) f f.owed
  simp only [State.endFiring, hf, State.freeGroups_firings, State.streamEnded_firings, State.detach_firings, State.rankReady_firings]
  rw [State.firings, State.tctxOf_setTctxOf]
  cases f.pinned with
  | true => simpa [TileCtx.firings] using hrequeue
  | false =>
    simp only [TileCtx.firings, TileCtx.setRegs_ended, Prod.mk.injEq] at hrequeue ⊢
    obtain ⟨hnormal, hurgent, hsaved, hended⟩ := hrequeue
    simp [hnormal, hurgent, hsaved, hended]

/-! ## Saving by `yield` (R175) -/

/-- What the wait for outstanding results leaves of the issuing set's firing, of those saved before and of the capabilities revoked. -/
def State.savePoint (s : State) : Unit_ × Nat × List Nat × Option Firing × List (Nat × RegSet) :=
  (s.cur, s.ctxn, s.painted, s.fir, s.tctx.saved)

theorem State.setReg_savePoint {s : State} {r : RegSet} (h : r.fir = s.fir) : (s.setReg r).savePoint = s.savePoint := by
  have hsaved : (s.setReg r).tctx.saved = s.tctx.saved := by
    by_cases hk : s.cur.set = .keeper
    · rw [State.setReg_keeper _ _ hk]
      simp [State.tctx, State.ctxn, State.tctxOf, Tile.tctx]
    · rw [State.setReg_live _ _ hk]
      simp
  simp only [State.savePoint, State.setReg_cur, State.ctxn_setReg, State.setReg_painted, State.fir, State.reg_setReg, h, hsaved]

theorem State.applyResult_savePoint (s : State) (q : Pending) : (s.applyResult q).savePoint = s.savePoint := by
  have hfir (x : Result) : (s.reg.apply x).fir = s.fir := by cases x <;> simp [RegSet.apply, State.fir]
  unfold State.applyResult
  cases q.res with
  | table t =>
    have hreg : (s.setTctx (s.tctx.install t q.stamp)).fir = s.fir := by
      cases hk : s.cur.set with
      | keeper => simp [State.fir, State.reg, hk, State.setTctx, State.setTctxOf]
      | normal | urgent =>
        simp only [State.fir, State.reg, State.setTctx_cur, hk, State.tctx_setTctx]
        rfl
    simp only [State.savePoint, hreg, State.setTctx_cur, State.ctxn_setTctx, State.tctx_setTctx]
    rfl
  | s | v | k => exact State.setReg_savePoint (hfir _)
  | c i x => exact State.setReg_savePoint (hfir (.c i _))

theorem State.applyAll_savePoint (s : State) (l : List Pending) : (s.applyAll l).savePoint = s.savePoint := by
  induction l generalizing s with
  | nil => rfl
  | cons q l ih => exact (ih _).trans (s.applyResult_savePoint q)

theorem State.drain_savePoint (s : State) : s.drain.savePoint = s.savePoint := by
  refine (State.setReg_savePoint ?_).trans (s.applyAll_savePoint s.reg.pending)
  rfl

/-- Registers through the filter keep all but capabilities and the firing's buffered tags. -/
theorem State.filterSet_kept (s : State) (c : Nat) (r : RegSet) : (s.filterSet c r).pending = r.pending ∧ (s.filterSet c r).s = r.s ∧
    (s.filterSet c r).v = r.v := by
  simp only [State.filterSet, State.filterRegs]
  split <;> exact ⟨rfl, rfl, rfl⟩

/-- Where nothing is revoked the firing passes the filter as it is (R112). -/
theorem State.filterSet_fir_of_unpainted {s : State} (h : s.painted = []) (c : Nat) (r : RegSet) : (s.filterSet c r).fir = r.fir := by
  have hid : s.filterFiring c = id := funext fun f => by simp [State.filterFiring, h]
  simp [State.filterSet, State.filterRegs, h, hid]

theorem State.saveFiring_tctxOf (s : State) (n c : Nat) (k : SetId) : (s.saveFiring n c k).tctxOf n c =
    { (s.tctxOf n c).setRegs k ((s.tctxOf n c).regs k).free with
      saved := (s.tctxOf n c).saved ++ [((s.tile n).readyCtr, { s.filterSet c ((s.tctxOf n c).regs k) with waiting := false, asked := none })] } := by
  refine (State.tctxOf_setTile ?_ n c).trans (State.tctxOf_setTctxOf ..)
  rfl

@[simp] theorem RegSet.fallThrough_kept (r : RegSet) (len : Nat) : (r.fallThrough len).owed = r.owed ∧ (r.fallThrough len).bad = r.bad ∧
    (r.fallThrough len).s = r.s ∧ (r.fallThrough len).v = r.v ∧ (r.fallThrough len).fir = r.fir := by
  rw [RegSet.fallThrough_eq]
  exact ⟨rfl, rfl, rfl, rfl, rfl⟩

/-- The condition of R175, in words of the priorities. -/
theorem State.yields_iff (s : State) (n c : Nat) (f : Firing) : s.yields n c f = true ↔
    ((s.tctxOf n c).prq = true ∨ ∃ q, s.choose n c f.urgent = some q ∧ (f.image.ctrl.extractLsb' 24 8).toNat < q.prio) ∧
      (s.tctxOf n c).savedCount f.urgent < 4 := by
  unfold State.yields
  cases s.choose n c f.urgent <;> simp [ctrlPrio_eq]

section
variable {p : Pfx} {s : State} {f : Firing} (hfree : s.free p) (hf : s.fir = some f)
include hfree hf

theorem yield_goesOn (h : ¬ s.yields s.cur.tile s.ctxn f = true) : execYield p s = .next (s.past p true) :=
  firing_done hfree hf (if_neg h)

theorem yield_saves (hset : s.cur.set ≠ .keeper) (h : s.yields s.cur.tile s.ctxn f = true) : ∃ t rank r, execYield p s = .next t ∧
    (t.tctxOf s.cur.tile s.ctxn).regs s.cur.set = { RegSet.reset with owed := s.drain.reg.owed ++ s.drain.reg.bad } ∧
    (t.tctxOf s.cur.tile s.ctxn).saved = s.tctx.saved ++ [(rank, r)] ∧
    (s.painted = [] → r.fir = some f) ∧ r.pending = [] ∧ r.s = s.drain.reg.s ∧ r.v = s.drain.reg.v ∧ t.mem = s.mem := by
  have hdrain := s.drain_savePoint
  simp only [State.savePoint, Prod.mk.injEq] at hdrain
  obtain ⟨hcur, hctxn, hpainted, hfir, hsaved⟩ := hdrain
  obtain ⟨r, hr⟩ : ∃ r, r = s.drain.reg.fallThrough (p.chainBytes true) := ⟨_, rfl⟩
  obtain ⟨u, hu⟩ : ∃ u, u = s.drain.setReg r := ⟨_, rfl⟩
  have hrun : execYield p s = .next (u.saveFiring u.cur.tile u.ctxn u.cur.set) := by
    refine (firing_run hfree hf (if_pos h)).trans ?_
    rw [Res.finish_gone, ← hr, ← hu]
  have hucur : u.cur = s.cur := by rw [hu, State.setReg_cur, hcur]
  have huctxn : u.ctxn = s.ctxn := by rw [hu, State.ctxn_setReg, hctxn]
  have hutctx : u.tctxOf s.cur.tile s.ctxn = s.drain.tctx.setRegs s.cur.set r := by
    rw [hu, State.setReg_live _ _ (by rwa [hcur]), State.setTctx, hctxn, hcur, State.tctxOf_setTctxOf]
  have hpending : r.pending = [] := by rw [hr, RegSet.fallThrough_pending, s.drain_settled.1]
  obtain ⟨howed, hbad, hs, hv, hrfir⟩ := s.drain.reg.fallThrough_kept (p.chainBytes true)
  rw [← hr] at howed hbad hs hv hrfir
  rw [hucur, huctxn] at hrun
  have htctx := u.saveFiring_tctxOf s.cur.tile s.ctxn s.cur.set
  rw [hutctx, TileCtx.regs_setRegs, TileCtx.setRegs_setRegs, TileCtx.setRegs_saved, hsaved] at htctx
  obtain ⟨hfp, hfs, hfv⟩ := u.filterSet_kept s.ctxn r
  refine ⟨_, (u.tile s.cur.tile).readyCtr, { u.filterSet s.ctxn r with waiting := false, asked := none }, hrun, ?_, ?_, fun hnone => ?_,
    hfp.trans hpending, hfs.trans hs, hfv.trans hv, by rw [State.saveFiring_mem, hu, State.setReg_mem, State.drain_mem]⟩
  · have hregs (x : TileCtx) (l : List (Nat × RegSet)) (k : SetId) : ({ x with saved := l }).regs k = x.regs k := by cases k <;> rfl
    rw [htctx, hregs, TileCtx.regs_setRegs, RegSet.free, howed, hbad]
    rfl
  · rw [htctx]
  · have hup : u.painted = [] := by rw [hu, State.setReg_painted, hpainted, hnone]
    exact (State.filterSet_fir_of_unpainted hup s.ctxn r).trans (hrfir.trans (hfir.trans hf))

end

section
variable {p : Pfx} {s : State} {f : Firing} (hfree : s.free p) (hf : s.fir = some f)
include hfree hf

theorem widFld_done (d i : BitVec 5) : execWidFld p d i s =
    let widths := match f.slot with
      | some _ => Map.get (s.part (quadOf s.cur.tile)).layouts s.ctxn []
      | none => []
    let m := (p.immI i).toNat
    .next ((s.setS d (if widths.length ≤ m then 0
      else BitVec.ofNat 64 (f.wid.toNat / 2 ^ (widths.drop (m + 1)).sum % 2 ^ widths.getD m 0))).past p true) := by
  refine (firing_done hfree hf rfl).trans ?_
  rw [widField_eq]
  rfl

/-- The firing's end: nothing but tiles, launches, clusters and events changes. -/
theorem endF_ends (hset : s.cur.set ≠ .keeper) : ∃ t, execEndF p s = .next t ∧
    t = { s with tiles := t.tiles, launches := t.launches, clusters := t.clusters, events := t.events } ∧
    (t.tctxOf s.cur.tile s.ctxn).regs s.cur.set = { RegSet.reset with owed := s.reg.owed ++ s.reg.bad } ∧
    (t.tctxOf s.cur.tile s.ctxn).ended = s.tctx.ended ++ (if f.pinned then [] else [{ f with owed := [] }]) := by
  have hreg := State.reg_of_live hset
  have hfirings := State.endFiring_firings (s := s) (n := s.cur.tile) (c := s.ctxn) (k := s.cur.set) ((congrArg RegSet.fir hreg).symm.trans hf)
  refine ⟨_, (firing_run hfree hf rfl).trans (by rw [Res.finish_gone]), State.eq_of_surroundings (State.endFiring_surroundings ..), ?_,
    TileCtx.ended_of_firings hfirings⟩
  have hregs (x : TileCtx) (l : List Firing) (k : SetId) : ({ x with ended := l }).regs k = x.regs k := by cases k <;> rfl
  refine (TileCtx.regs_of_firings hfirings s.cur.set).trans ?_
  rw [hregs, TileCtx.regs_setRegs, RegSet.free, hreg]
  rfl

end

end Sys2Proof.Machine

open Sys2Proof Sys2Proof.Machine in
/-- Settles O36: each chain by the cases of what it finds; an ending and a save by what they leave of the context's firings. -/
theorem taskInputsAndEnds : Obligations.TaskInputsAndEnds := by
  unfold Obligations.TaskInputsAndEnds
  intro p d a i s f hfree hf n x gives
  refine ⟨⟨inCnt_done hfree d a, s.tctx.tagWord ((s.s a).toNat % 4096), ?_⟩, ?_, ⟨chunk_notOwned hfree hf d a, ?_⟩, widFld_done hfree hf d i,
    fun hset => ⟨endF_ends hfree hf hset, ?_⟩⟩
  · obtain ⟨hlock, hen, hpend, hclass, hkind, hnport, hprio, hunbound, hlen⟩ := s.tctx.tagWord_fields ((s.s a).toNat % 4096)
    exact ⟨hlock, hen, hpend, hclass, hkind, hnport, hprio, hunbound, fun h => hlen.trans (Nat.mod_eq_of_lt h), hTag_done hfree d a⟩
  · intro port tag e nport
    refine ⟨inPop_noPort hfree hf d a, ?_⟩
    intro back pops
    have htag (j : Nat) : portTag f.image.port j = (f.image.port.extractLsb' (16 * j) 12).toNat := portTag_eq f.image.port j
    have hback : f.owed.find? (fun q => portTag f.image.port q.1 == portTag f.image.port port) = back := by simp only [htag, back, tag]
    have hqueue : (s.tctx.entry (portTag f.image.port port)).queue = e.queue := by rw [htag]
    refine ⟨fun h hnone hempty => inPop_empty hfree hf d a h (hback.trans hnone) (hqueue.trans hempty), fun m rest h hnone hmore hbad => ?_,
      fun q h hsome hbad => ?_⟩
    · refine (inPop_queue hfree hf d a h (hback.trans hnone) (hqueue.trans hmore) hbad).trans ?_
      rw [State.popped, Msg.h0_eq, htag]
    · refine (inPop_owed hfree hf d a h (hback.trans hsome) hbad).trans ?_
      rw [State.popped, Msg.h0_eq]
  · intro stop minc div next owner hown hclean hc r l w u
    refine ⟨chunk_replayed hfree hf d a hown hclean hc, fun hnew hlt => ?_, fun hnew hge hp => ?_⟩
    · refine (chunk_claims hfree hf d a hown hclean hc hnew (.inl hlt)).trans ?_
      exact congrArg (fun t : State => Host.Outcome.next ((t.pend (.s d w)).past p true)) (if_pos hlt)
    · refine (chunk_claims hfree hf d a hown hclean hc hnew (.inr hp)).trans ?_
      exact congrArg (fun t : State => Host.Outcome.next ((t.pend (.s d w)).past p true)) (if_neg (Nat.not_lt.mpr hge))
  · intro prio
    have hyields := s.yields_iff s.cur.tile s.ctxn f
    refine ⟨fun hcause hroom => yield_saves hfree hf hset (hyields.mpr ⟨hcause, hroom⟩), fun hnot => yield_goesOn hfree hf fun h => ?_⟩
    obtain ⟨hcause, hroom⟩ := hyields.mp h
    rcases hnot with ⟨hprq, hlow⟩ | hfull
    · rcases hcause with hprq' | ⟨q, hq, hlt⟩
      · exact Bool.false_ne_true (hprq.symm.trans hprq')
      · exact absurd hlt (Nat.not_lt.mpr (hlow q hq))
    · exact absurd hroom (Nat.not_lt.mpr hfull)
end

section
/-! PROOFS. How messages reach their queues (R158 to R161), and how an entry is locked and rewritten (R158). -/

namespace Sys2Proof.Machine

/-! ## Fields of an entry's control word (R157) -/

theorem ctrlDepth_eq (w : Word) : ctrlDepth w = (w.extractLsb' 18 6).toNat + 1 := by rw [ctrlDepth, bitsOf_toNat]

theorem ctrlKind_eq (w : Word) : ctrlKind w = (w.extractLsb' 16 2).toNat := by rw [ctrlKind, bitsOf_toNat]

/-- The entry takes messages, and those of the message's class. -/
def Entry.binds (e : Entry) (m : Msg) : Prop :=
  (e.image.ctrl.extractLsb' 16 2).toNat ≠ 0 ∧ e.image.ctrl.getLsbD 15 = m.urg

theorem Entry.not_binds_iff (e : Entry) (m : Msg) :
    ¬ e.binds m ↔ (decide (ctrlKind e.image.ctrl = 0) || m.urg != ctrlClass e.image.ctrl) = true := by
  simp only [Entry.binds, ctrlKind_eq, ctrlClass, Bool.or_eq_true, decide_eq_true_eq, bne_iff_ne, not_and_or, not_not]
  exact or_congr_right (not_congr eq_comm)

/-! ## Arrival (R160) -/

theorem State.deliverUnbound_of_none {s : State} {n c : Nat} (h : (s.tctxOf n c).unbound = []) (tag : Nat) : s.deliverUnbound n c tag = s := by
  simp [State.deliverUnbound, h, takeUpTo]

theorem State.takeIn_of_away {s : State} {m : Msg} (h : s.resident m.dst m.ctx = false) :
    s.takeIn m = some (s.setTile m.dst { s.tile m.dst with away := (s.tile m.dst).away ++ [m] }) := by
  simp [State.takeIn, h]

/-- Where no other message is unbound and the share has room: a message goes to its entry's queue, or to the unbound queue. -/
theorem State.takeIn_of_clear {s : State} {m : Msg} {e : Entry} (hres : s.resident m.dst m.ctx = true)
    (hunbound : (s.tctxOf m.dst m.ctx).unbound = []) (he : (s.tctxOf m.dst m.ctx).entry m.tag = e) (hlock : e.lock = false)
    (hroom : (s.tctxOf m.dst m.ctx).hasRoom m.dst m.ctx = true) :
    (e.binds m → (s.tctxOf m.dst m.ctx).heldFor m.tag + e.queue.length < (e.image.ctrl.extractLsb' 18 6).toNat + 1 → s.takeIn m =
      some ((s.setTctxOf m.dst m.ctx ((s.tctxOf m.dst m.ctx).setEntry m.tag { e with queue := e.queue ++ [m] })).rankReady m.dst m.ctx)) ∧
    (¬ e.binds m → s.takeIn m = some (s.setTctxOf m.dst m.ctx { s.tctxOf m.dst m.ctx with unbound := [m] })) := by
  subst he
  have htake := s.deliverUnbound_of_none hunbound m.tag
  refine ⟨fun hbinds hlen => ?_, fun hbinds => ?_⟩
  · have hnot := mt (Entry.not_binds_iff _ m).mpr (not_not.mpr hbinds)
    rw [← ctrlDepth_eq, ← Nat.not_le] at hlen
    simp [State.takeIn, hres, htake, hlock, hunbound, hroom, hlen, hnot]
  · have hnot := (Entry.not_binds_iff _ m).mp hbinds
    simp [State.takeIn, hres, htake, hlock, hunbound, hroom, hnot]

/-- The state at a message's tile as the message reaches it: Halo is awake where its context is resident (R287). -/
def State.reached (s : State) (i : Nat) (m : Msg) : State :=
  let v : State := { s with net := s.net.eraseIdx i }
  if s.resident m.dst m.ctx then v.wake m.dst else v

theorem State.reached_tile (s : State) (i : Nat) (m : Msg) : ∃ b, (s.reached i m).tile m.dst = { s.tile m.dst with idle := b } := by
  unfold State.reached
  extract_lets v
  split
  · exact ⟨false, State.tile_setTile ..⟩
  · exact ⟨(s.tile m.dst).idle, rfl⟩

/-- A message that is behind none of its sender, class and tile in flight: it waits where one of its context and class waits, and
else is taken in if it can be (R160, R161). -/
theorem messageArrival_eq {s : State} {i : Nat} {m : Msg} (hm : s.net[i]? = some m) (hknd : m.knd ≠ 6)
    (hfirst : ∀ q, q ∈ s.net.take i → q.knd ≠ 6 → ¬ (q.src = m.src ∧ q.dst = m.dst ∧ q.urg = m.urg)) :
    let u := s.reached i m
    execMessageArrival i s = .next (if (s.tile m.dst).ingress.any (blocks m) then
      u.setTile m.dst { u.tile m.dst with ingress := (s.tile m.dst).ingress ++ [m] }
    else (u.takeIn m).getD (u.setTile m.dst { u.tile m.dst with ingress := (s.tile m.dst).ingress ++ [m] })) := by
  intro u
  obtain ⟨b, htile⟩ := s.reached_tile i m
  have hingress : (u.tile m.dst).ingress = (s.tile m.dst).ingress := (congrArg Tile.ingress htile).trans rfl
  have hnone : ((s.net.take i).any fun q => q.src == m.src && q.dst == m.dst && q.urg == m.urg && q.knd != 6) = false := by
    rw [List.any_eq_false]
    intro q hq h
    simp only [Bool.and_eq_true, beq_iff_eq, bne_iff_ne] at h
    obtain ⟨⟨⟨hsrc, hdst⟩, hurg⟩, hk⟩ := h
    exact hfirst q hq hk ⟨hsrc, hdst, hurg⟩
  unfold execMessageArrival
  rw [hm]
  dsimp only
  rw [hnone, if_neg (by simp [hknd]), ← hingress]
  change (if (u.tile m.dst).ingress.any (blocks m) = true then _ else _) = _
  split
  · rfl
  · change (match u.takeIn m with | some s2 => Host.Outcome.next s2 | none => _) = _
    cases u.takeIn m <;> rfl

theorem completionMessage_eq {s : State} {i : Nat} {m : Msg} (hm : s.net[i]? = some m) (hknd : m.knd = 4) :
    execCompletionMessage i s = execMessageArrival i s := by
  simp only [execCompletionMessage, hm, hknd, if_true]

/-- The cases of an arrival. -/
theorem messageArrival_cases {s : State} {i : Nat} {m : Msg} (hm : s.net[i]? = some m) (hknd : m.knd ≠ 6)
    (hfirst : ∀ q, q ∈ s.net.take i → q.knd ≠ 6 → ¬ (q.src = m.src ∧ q.dst = m.dst ∧ q.urg = m.urg)) :
    let t := s.tile m.dst
    let x := s.tctxOf m.dst m.ctx
    let e := x.entry m.tag
    let u := s.reached i m
    let behind := ∃ q, q ∈ t.ingress ∧ q.ctx = m.ctx ∧ q.urg = m.urg ∧ q.dst = m.dst
    (behind → execMessageArrival i s = .next (u.setTile m.dst { u.tile m.dst with ingress := t.ingress ++ [m] })) ∧
    (¬ behind → s.resident m.dst m.ctx = false → execMessageArrival i s = .next (u.setTile m.dst { u.tile m.dst with away := t.away ++ [m] })) ∧
    (s.resident m.dst m.ctx = true → t.ingress = [] → x.unbound = [] → e.lock = false → x.hasRoom m.dst m.ctx = true →
      (e.binds m → x.heldFor m.tag + e.queue.length < (e.image.ctrl.extractLsb' 18 6).toNat + 1 → execMessageArrival i s =
        .next ((u.setTctxOf m.dst m.ctx (x.setEntry m.tag { e with queue := e.queue ++ [m] })).rankReady m.dst m.ctx)) ∧
      (¬ e.binds m → execMessageArrival i s = .next (u.setTctxOf m.dst m.ctx { x with unbound := [m] }))) := by
  intro t x e u behind
  obtain ⟨b, htile⟩ := s.reached_tile i m
  have hbehind : t.ingress.any (blocks m) = true ↔ behind := by
    simp only [List.any_eq_true, blocks, Bool.and_eq_true, beq_iff_eq, and_assoc, behind]
  have hres : u.resident m.dst m.ctx = s.resident m.dst m.ctx := (congrArg (fun t : Tile => (Map.get? t.ctxs m.ctx).isSome) htile).trans rfl
  have hx : u.tctxOf m.dst m.ctx = x := (congrArg (fun t : Tile => t.tctx m.ctx) htile).trans rfl
  have haway : (u.tile m.dst).away = t.away := (congrArg Tile.away htile).trans rfl
  have hrun := messageArrival_eq hm hknd hfirst
  refine ⟨fun h => hrun.trans (by rw [if_pos (hbehind.mpr h)]), fun h hr => hrun.trans ?_, fun hr hnone hunbound hlock hroom => ?_⟩
  · rw [if_neg (mt hbehind.mp h), State.takeIn_of_away (hres.trans hr), haway]
    rfl
  · have hnot : ¬ (s.tile m.dst).ingress.any (blocks m) = true := by
      rw [show (s.tile m.dst).ingress = [] from hnone]
      simp
    obtain ⟨hbound, hunbind⟩ := State.takeIn_of_clear (s := u) (e := e) (hres.trans hr) (by rwa [hx]) (by rw [hx]) hlock (by rwa [hx])
    rw [hx] at hbound hunbind
    refine ⟨fun hb hlen => hrun.trans ?_, fun hb => hrun.trans ?_⟩
    · rw [if_neg hnot, hbound hb hlen]
      rfl
    · rw [if_neg hnot, hunbind hb]
      rfl

/-- The one message at the ingress, where its entry has room. -/
theorem queueAdmit_binds {s : State} {m : Msg} {e : Entry} (hres : s.resident m.dst m.ctx = true) (hingress : (s.tile m.dst).ingress = [m])
    (hunbound : (s.tctxOf m.dst m.ctx).unbound = []) (he : (s.tctxOf m.dst m.ctx).entry m.tag = e) (hlock : e.lock = false)
    (hroom : (s.tctxOf m.dst m.ctx).hasRoom m.dst m.ctx = true) (hbinds : e.binds m)
    (hlen : (s.tctxOf m.dst m.ctx).heldFor m.tag + e.queue.length < (e.image.ctrl.extractLsb' 18 6).toNat + 1) :
    execQueueAdmit m.dst 0 s = .next (((s.setTile m.dst { s.tile m.dst with ingress := [] }).setTctxOf m.dst m.ctx
      ((s.tctxOf m.dst m.ctx).setEntry m.tag { e with queue := e.queue ++ [m] })).rankReady m.dst m.ctx) := by
  obtain ⟨u, hu⟩ : ∃ u, u = s.setTile m.dst { s.tile m.dst with ingress := [] } := ⟨_, rfl⟩
  have hx : u.tctxOf m.dst m.ctx = s.tctxOf m.dst m.ctx := by
    rw [hu, State.tctxOf_setTile]
    rfl
  have hures : u.resident m.dst m.ctx = true := by
    rw [hu, State.resident, State.tile_setTile]
    exact hres
  have htake := (State.takeIn_of_clear (s := u) (e := e) hures (by rwa [hx]) (by rwa [hx]) hlock (by rwa [hx])).1 hbinds (by rwa [hx])
  rw [hx] at htake
  simp [execQueueAdmit, hingress, ← hu, htake]

/-- The one unbound message, where its entry has room. -/
theorem unboundDelivery_binds {s : State} {n c : Nat} {m : Msg} {e : Entry} (hunbound : (s.tctxOf n c).unbound = [m])
    (he : (s.tctxOf n c).entry m.tag = e) (hlock : e.lock = false) (hbinds : e.binds m)
    (hlen : (s.tctxOf n c).heldFor m.tag + e.queue.length < (e.image.ctrl.extractLsb' 18 6).toNat + 1) :
    execUnboundDelivery n c m.tag s = .next ((s.setTctxOf n c
      { (s.tctxOf n c).setEntry m.tag { e with queue := e.queue ++ [m] } with unbound := [] }).rankReady n c) := by
  subst he
  have hto : boundTo ((s.tctxOf n c).entry m.tag) m.tag m = true := by
    rw [boundTo, ctrlClass, hbinds.2, beq_self_eq_true, beq_self_eq_true]
    rfl
  obtain ⟨k, hk⟩ : ∃ k, ctrlDepth ((s.tctxOf n c).entry m.tag).image.ctrl - ((s.tctxOf n c).heldFor m.tag +
      ((s.tctxOf n c).entry m.tag).queue.length) = k + 1 := Nat.exists_eq_succ_of_ne_zero (by rw [ctrlDepth_eq]; omega)
  have hkind : ctrlKind ((s.tctxOf n c).entry m.tag).image.ctrl ≠ 0 := by
    rw [ctrlKind_eq]
    exact hbinds.1
  simp [execUnboundDelivery, State.deliverUnbound, hkind, hlock, hunbound, hk, takeUpTo, hto]

/-! ## Rewrites (R158) -/

/-- An entry but for its queue and its place in the order of readiness. -/
def Entry.settings (e : Entry) : Entry := { e with queue := [], readyAt := none }

theorem Entry.settings_of_unranked {e e' : Entry} (h : e.unranked = e'.unranked) : e.settings = e'.settings :=
  (congrArg Entry.settings h :)

theorem State.deliverUnbound_settings (s : State) (n c tag : Nat) :
    ((s.deliverUnbound n c tag).entryOf n c tag).settings = (s.entryOf n c tag).settings := by
  unfold State.deliverUnbound
  extract_lets x e r
  split_ifs
  · rfl
  · rfl
  · refine (Entry.settings_of_unranked (State.unranked_rankReady ..)).trans ?_
    rw [State.entryOf, State.tctxOf_setTctxOf]
    exact (congrArg Entry.settings (Map.get_set_same ..)).trans rfl

theorem State.rewriteOn_entry (s : State) (n c tag : Nat) (im : EntryImage) :
    let e := (s.rewriteOn n c tag im).entryOf n c tag
    e.image = im ∧ e.lock = false ∧ e.en = im.ctrl.getLsbD 0 ∧ e.pend = im.ctrl.getLsbD 1 := by
  have hset : ((s.rewriteOn n c tag im).entryOf n c tag).settings =
      { image := im, en := im.ctrl.getLsbD 0, pend := im.ctrl.getLsbD 1,
        pts := (s.part (quadOf n)).floor, pwid := 0, pslot := none, lock := false, next := none, queue := [], readyAt := none } := by
    unfold State.rewriteOn
    extract_lets x e gone e1 x1 x2
    refine (State.deliverUnbound_settings ..).trans ((Entry.settings_of_unranked (State.unranked_rankReady ..)).trans ?_)
    have hx2 : x2.entry tag = e1 := by
      simp only [x2]
      split <;> simp [x1, TileCtx.entry, TileCtx.setEntry]
    rw [State.entryOf, State.tctxOf_setTctxOf, hx2]
    rfl
  exact ⟨congrArg Entry.image hset, congrArg Entry.lock hset, congrArg Entry.en hset, congrArg Entry.pend hset⟩

/-- An entry locked for the image that is to come. -/
def Entry.locked (e : Entry) (im : EntryImage) : Entry := { e with lock := true, next := some im }

theorem State.lockEntry_unranked (s : State) (k c tag : Nat) (im : EntryImage) (n : Nat) :
    ((s.lockEntry k c tag im).entryOf n c tag).unranked =
      if n = k then ((s.entryOf n c tag).locked im).unranked else (s.entryOf n c tag).unranked := by
  refine (State.unranked_rankReady ..).trans ?_
  rw [State.setEntryOf, State.entryOf, State.tctxOf_setTctxOf_eq]
  by_cases h : n = k
  · subst h
    simp [TileCtx.entry, TileCtx.setEntry, State.entryOf, Entry.locked]
  · simp [h, State.entryOf]

/-- Every tile of a list locks the entry, and no other. -/
theorem State.foldl_lockEntry_unranked (l : List Nat) (s : State) (c tag : Nat) (im : EntryImage) (n : Nat) :
    ((l.foldl (fun s n => s.lockEntry n c tag im) s).entryOf n c tag).unranked =
      if n ∈ l then ((s.entryOf n c tag).locked im).unranked else (s.entryOf n c tag).unranked := by
  induction l generalizing s with
  | nil => rfl
  | cons k l ih =>
    have hstep := s.lockEntry_unranked k c tag im n
    have hlocked {e e' : Entry} (h : e.unranked = e'.unranked) : (e.locked im).unranked = (e'.locked im).unranked :=
      (congrArg (fun e => (Entry.locked e im).unranked) h :)
    rw [List.foldl_cons, ih]
    by_cases hk : n = k
    · rw [if_pos hk] at hstep
      rw [if_pos (show n ∈ k :: l from hk ▸ List.mem_cons_self ..)]
      split
      · refine (hlocked hstep).trans ?_
        rfl
      · exact hstep
    · rw [if_neg hk] at hstep
      simp only [List.mem_cons, hk, false_or]
      split
      · exact hlocked hstep
      · exact hstep

theorem State.lockEntry_contexts (s : State) (n c tag : Nat) (im : EntryImage) : (s.lockEntry n c tag im).contexts = s.contexts := rfl

theorem State.mem_homesOf {s : State} {n c : Nat} (h : s.resident n c = true) : n ∈ s.homesOf c := by
  rw [State.resident, State.tile, Map.get] at h
  cases ht : Map.get? s.tiles n with
  | none => simp [ht, Tile.reset] at h
  | some t =>
    rw [ht] at h
    exact List.mem_map.mpr ⟨(n, t), List.mem_filter.mpr ⟨Map.mem_of_get?_eq_some ht, h⟩, rfl⟩

theorem entryRewrite_refused {s : State} {c tag : Nat} {im : EntryImage} {x : Context} (htag : tag < 4096)
    (hx : Map.get? s.contexts c = some x) (h : x.refuses tag im = true) : execEntryRewrite c tag im s = .next s := by
  simp only [execEntryRewrite, State.rewriteEntry, Nat.mod_eq_of_lt htag, hx, h, if_true]

theorem entryRewrite_locks {s : State} {c tag : Nat} {im : EntryImage} {x : Context} (htag : tag < 4096)
    (hx : Map.get? s.contexts c = some x) (h : x.refuses tag im = false) : ∃ t, execEntryRewrite c tag im s = .next t ∧ t.mem = s.mem ∧
      Map.get? t.contexts c = some { x with table := Map.set x.table tag im } ∧
      ∀ n, s.resident n c = true → (t.entryOf n c tag).lock = true ∧ (t.entryOf n c tag).next = some im ∧
        (t.entryOf n c tag).image = (s.entryOf n c tag).image := by
  obtain ⟨s1, hs1⟩ : ∃ s1 : State, s1 = { s with contexts := Map.set s.contexts c { x with table := Map.set x.table tag im } } := ⟨_, rfl⟩
  have hrun : s.rewriteEntry c tag im = (s1.homesOf c).foldl (fun s n => s.lockEntry n c tag im) s1 := by
    simp only [State.rewriteEntry, hx, h, hs1]
    rfl
  refine ⟨_, by rw [execEntryRewrite, Nat.mod_eq_of_lt htag], by simp, ?_, fun n hn => ?_⟩
  · rw [hrun, foldl_keeps State.contexts _ _ _ (fun t n => t.lockEntry_contexts n c tag im), hs1]
    exact Map.get?_set_same ..
  · have hunranked := State.foldl_lockEntry_unranked (s1.homesOf c) s1 c tag im n
    have hmem : n ∈ s1.homesOf c := by
      rw [hs1]
      exact State.mem_homesOf hn
    rw [if_pos hmem, ← hrun] at hunranked
    have himage := congrArg Entry.image hunranked
    refine ⟨congrArg Entry.lock hunranked, congrArg Entry.next hunranked, himage.trans ?_⟩
    rw [hs1]
    rfl

theorem rewriteOn_writes {s : State} {n c tag : Nat} {im : EntryImage} (h : (s.entryOf n c tag).next = some im) :
    ∃ t, execRewriteOn n c tag s = .next t ∧ t.mem = s.mem ∧ (t.entryOf n c tag).image = im ∧ (t.entryOf n c tag).lock = false ∧
      (t.entryOf n c tag).en = im.ctrl.getLsbD 0 ∧ (t.entryOf n c tag).pend = im.ctrl.getLsbD 1 :=
  ⟨s.rewriteOn n c tag im, by simp only [execRewriteOn, h], s.rewriteOn_mem n c tag im, s.rewriteOn_entry n c tag im⟩

end Sys2Proof.Machine
end

section
/-! PROOFS. The firings that entries, reruns and deque tasks make (R27, R162, R163, R171), and the set that a resume packet lets go on
(R331, R332). -/

namespace Sys2Proof.Machine

/-! ## The registers at entry (R27) -/

theorem State.filterCap_of_unpainted {s : State} (h : s.painted = []) (ctx : Nat) (x : Cap) : s.filterCap ctx x = x := by
  simp [State.filterCap, h]

/-- The set of a class that is not urgent finds at entry what R27 says, and memory is as before. -/
def State.enteredAs (s : State) (n c : Nat) (image : EntryImage) (pay : List Word) (t : State) : Prop :=
  let r := (t.tctxOf n c).normal
  t.mem = s.mem ∧ r.pcc = image.cap.withOtype 0 ∧ r.c[1] = (s.info c).data ∧ r.c[4] = Cap.null ∧
    (∀ i : Fin 6, r.s[i.val + 1] = pay.getD i.val 0) ∧ r.s[7] = 0 ∧ r.loops = [] ∧ r.pending = [] ∧ r.inTrap = false

/-- A set whose registers are those of a firing's entry, in a state that differs in nothing that R27 speaks of. -/
theorem State.enteredAs_of_entryRegs {s u t : State} {n c : Nat} {f : Firing} (hpainted : u.painted = []) (hinfo : u.info c = s.info c)
    (hctx : f.ctx = c) (hmem : t.mem = s.mem) (ht : (t.tctxOf n c).normal = u.entryRegs f) :
    s.enteredAs n c f.image f.entryPayload t ∧ (t.tctxOf n c).normal.fir = some f := by
  subst hctx
  rw [State.enteredAs, ht]
  refine ⟨⟨hmem, State.filterCap_of_unpainted hpainted .., ?_, ?_, fun i => ?_, ?_, rfl, rfl, rfl⟩, rfl⟩
  · simp [State.entryRegs, tabulate_eq_ofFn, State.filterCap_of_unpainted hpainted, hinfo]
  · simp [State.entryRegs, tabulate_eq_ofFn]
  · have hi : i.val + 1 ≤ 6 := i.isLt
    simp [State.entryRegs, tabulate_eq_ofFn, hi]
  · simp [State.entryRegs, tabulate_eq_ofFn]

/-! ## Taking up a firing -/

theorem State.enter_tctxOf (s : State) (n : Nat) (f : Firing) : (s.enter n f).tctxOf n f.ctx =
    (s.tctxOf n f.ctx).setRegs (if f.urgent then .urgent else .normal) (s.entryRegs f) :=
  (State.tctxOf_of_tiles (State.note_tiles ..) n f.ctx).trans (State.tctxOf_setTctxOf ..)

theorem State.enter_normal {s : State} {n : Nat} {f : Firing} (h : f.urgent = false) :
    ((s.enter n f).tctxOf n f.ctx).normal = s.entryRegs f := by
  rw [State.enter_tctxOf, h]
  rfl

theorem State.tile_of_tiles {s t : State} (h : t.tiles = s.tiles) (n : Nat) : t.tile n = s.tile n := by rw [State.tile, h, State.tile]

theorem State.tile_setTctxOf (s : State) (n c : Nat) (x : TileCtx) : (s.setTctxOf n c x).tile n = (s.tile n).setTctx c x :=
  State.tile_setTile ..

theorem State.enter_tile_count (s : State) (n : Nat) (f : Firing) : ((s.enter n f).tile n).count = (s.tile n).count := by
  rw [State.enter, State.tile_of_tiles (State.note_tiles ..), State.tile_setTctxOf]
  rfl

theorem State.rankReady_normal (s : State) (n c j d : Nat) : ((s.rankReady n c).tctxOf j d).normal = (s.tctxOf j d).normal :=
  TileCtx.regs_of_firings (congrFun (congrFun (s.rankReady_firings n c) j) d) .normal

theorem State.rankReady_tile_count (s : State) (n c : Nat) : ((s.rankReady n c).tile n).count = (s.tile n).count := by
  obtain ⟨es, ctr, h, -⟩ := s.rankReady_spec n c
  rw [h, State.tile_setTile]
  rfl

theorem State.rankReady_queue (s : State) (n c j d tag : Nat) :
    ((s.rankReady n c).entryOf j d tag).queue = (s.entryOf j d tag).queue :=
  (congrArg Entry.queue (s.unranked_rankReady n c j d tag) :)

theorem TileCtx.entry_setEntry (x : TileCtx) (tag : Nat) (e : Entry) : (x.setEntry tag e).entry tag = e := Map.get_set_same ..

/-! ## A firing of an entry (R162) -/

/-- A port of the entry itself, with a consumption count of 1. -/
theorem port_of_single {w : Word} {tag : Nat} (hw : w.extractLsb' 0 16 = BitVec.ofNat 16 tag) (htag : tag < 4096) :
    portTag w 0 = tag ∧ portCnt w 0 = 1 := by
  have hmod : w.toNat % 65536 = tag := by
    have h := congrArg BitVec.toNat hw
    rwa [BitVec.extractLsb'_toNat, BitVec.toNat_ofNat, Nat.shiftRight_zero, Nat.mod_eq_of_lt (a := tag) (by omega)] at h
  simp only [portTag, portCnt, bitsOf]
  omega

/-- An entry's only port names the entry itself and takes one message. -/
theorem takePorts_single {w : Word} {x : TileCtx} {tag : Nat} {m : Msg} {rest : List Msg} (hw : w.extractLsb' 0 16 = BitVec.ofNat 16 tag)
    (htag : tag < 4096) (hq : (x.entry tag).queue = m :: rest) :
    takePorts w (List.range 1) x = (x.setEntry tag { x.entry tag with queue := rest }, [(0, m)]) := by
  obtain ⟨htagOf, hcnt⟩ := port_of_single hw htag
  have hrange : List.range 1 = [0] := rfl
  rw [hrange, takePorts, htagOf, hcnt, hq]
  rfl

/-- What a single-port entry's firing with no request pending takes. -/
def State.singleFiring (s : State) (n c tag : Nat) (m : Msg) : Firing :=
  s.newFiring n c tag (s.entryOf n c tag).image m.ts m.wid ((s.tile n).count * 64 + partIdx n) m.slot none
    { consumed := [(0, m)], pend := none, task := none }

/-- The entry after the message has left its queue. -/
def Entry.after (e : Entry) (rest : List Msg) : Entry := { e with queue := rest, pend := false, readyAt := none }

theorem State.makeFrom_single {s : State} {n c tag : Nat} {m : Msg} {rest : List Msg} (hq : (s.entryOf n c tag).queue = m :: rest)
    (hpend : (s.entryOf n c tag).pend = false) (hnport : (s.entryOf n c tag).image.ctrl.extractLsb' 12 3 = 1)
    (hport : (s.entryOf n c tag).image.port.extractLsb' 0 16 = BitVec.ofNat 16 tag) (htag : tag < 4096) : ∃ x : TileCtx,
    x.entry tag = (s.entryOf n c tag).after rest ∧
    s.makeFrom n c tag = (((s.setTctxOf n c x).newSerial n).2.enter n (s.singleFiring n c tag m)).rankReady n c := by
  have hone : ctrlNport ((s.tctxOf n c).entry tag).image.ctrl = 1 := by
    rw [ctrlNport_eq]
    exact congrArg BitVec.toNat hnport
  have htake := takePorts_single (w := ((s.tctxOf n c).entry tag).image.port) (x := s.tctxOf n c) hport htag hq
  refine ⟨((s.tctxOf n c).setEntry tag { (s.tctxOf n c).entry tag with queue := rest }).setEntry tag ((s.entryOf n c tag).after rest),
    TileCtx.entry_setEntry .., ?_⟩
  rw [State.entryOf] at hpend
  have hts : ([m.ts] ++ []).foldl max 0 = m.ts := Nat.zero_max m.ts
  have hserial (x : TileCtx) : ((s.setTctxOf n c x).newSerial n).1 = (s.tile n).count * 64 + partIdx n := by
    simp only [State.newSerial, State.setTctxOf, State.tile_setTile]
    rfl
  simp only [State.makeFrom, hone, htake, hpend, TileCtx.entry_setEntry, hserial, List.map_cons, List.map_nil, Bool.false_eq_true, if_false, hts]
  rfl

theorem makeFiring_entry {s : State} {n c tag : Nat} {q : Choice} (hstart : s.mayStart n = some c) (hfree : s.setFree n c false = true)
    (hnone : s.choose n c true = none) (hq : s.choose n c false = some q) (hcand : q.cand = .entry tag) (htag : q.tag = tag)
    (hahead : s.taskAhead n c false q = false) : execMakeFiring n c tag s = .next (s.makeFrom n c tag) := by
  have hurgent : s.takeUp n c tag true false = s := by simp [State.takeUp, hnone]
  rw [execMakeFiring, hurgent]
  simp [State.takeUp, hstart, hfree, hq, hcand, htag, hahead]

theorem State.info_of_contexts {s t : State} (h : t.contexts = s.contexts) (c : Nat) : t.info c = s.info c := by
  rw [State.info, h, State.info]

/-- A ready single-port entry, with the highest priority, makes a firing of the first message in its queue. -/
theorem makeFiring_makes {s : State} {n c tag : Nat} {q : Choice} {m : Msg} {rest : List Msg} (hstart : s.mayStart n = some c)
    (hfree : s.setFree n c false = true) (hpainted : s.painted = []) (hnone : s.choose n c true = none) (hq : s.choose n c false = some q)
    (hcand : q.cand = .entry tag) (hqtag : q.tag = tag) (hahead : s.taskAhead n c false q = false)
    (hqueue : (s.entryOf n c tag).queue = m :: rest) (hpend : (s.entryOf n c tag).pend = false)
    (hnport : (s.entryOf n c tag).image.ctrl.extractLsb' 12 3 = 1)
    (hport : (s.entryOf n c tag).image.port.extractLsb' 0 16 = BitVec.ofNat 16 tag) (htag : tag < 4096)
    (hclass : ctrlClass (s.entryOf n c tag).image.ctrl = false) : ∃ t, execMakeFiring n c tag s = .next t ∧
      s.enteredAs n c (s.entryOf n c tag).image m.payload t ∧ (t.tctxOf n c).normal.fir = some (s.singleFiring n c tag m) ∧
      (t.tile n).count = (s.tile n).count + 1 ∧ (t.entryOf n c tag).queue = rest := by
  obtain ⟨x, hx, hmake⟩ := State.makeFrom_single hqueue hpend hnport hport htag
  obtain ⟨u, hu⟩ : ∃ u, u = ((s.setTctxOf n c x).newSerial n).2 := ⟨_, rfl⟩
  rw [← hu] at hmake
  have hurgent : (s.singleFiring n c tag m).urgent = false := hclass
  have hpay : (s.singleFiring n c tag m).entryPayload = m.payload := by
    have hone : ctrlNport (s.entryOf n c tag).image.ctrl = 1 := (ctrlNport_eq _).trans (congrArg BitVec.toNat hnport)
    exact if_pos ⟨hone, (port_of_single hport htag).2⟩
  have hnormal : ((s.makeFrom n c tag).tctxOf n c).normal = u.entryRegs (s.singleFiring n c tag m) := by
    rw [hmake, State.rankReady_normal]
    exact State.enter_normal hurgent
  have hutile : u.tile n = { (s.tile n).setTctx c x with count := (s.tile n).count + 1 } := by
    rw [hu]
    simp only [State.newSerial, State.tile_setTile, State.tile_setTctxOf]
    rfl
  obtain ⟨hentered, hfir⟩ := State.enteredAs_of_entryRegs (s := s) (u := u) (n := n) (c := c) (f := s.singleFiring n c tag m)
    (by rw [hu]; exact hpainted) (State.info_of_contexts (by rw [hu]; rfl) c) rfl (s.makeFrom_mem n c tag) hnormal
  rw [hpay] at hentered
  refine ⟨_, makeFiring_entry hstart hfree hnone hq hcand hqtag hahead, hentered, hfir, ?_, ?_⟩
  · rw [hmake, State.rankReady_tile_count, State.enter_tile_count, hutile]
  · have hctx : u.tctxOf n c = x := by
      rw [State.tctxOf, hutile]
      exact Map.get_set_same ..
    have hentry : (u.enter n (s.singleFiring n c tag m)).entryOf n c tag = x.entry tag := by
      have h := u.enter_tctxOf n (s.singleFiring n c tag m)
      rw [State.entryOf, TileCtx.entry, show (u.enter n (s.singleFiring n c tag m)).tctxOf n c = _ from h, TileCtx.setRegs_entries]
      exact congrArg (fun x : TileCtx => x.entry tag) hctx
    rw [hmake, State.rankReady_queue, hentry, hx]
    rfl

/-! ## The rerun of an aborted firing (R163, R194) -/

theorem State.loaded_of_mayStart {s : State} {n c : Nat} (h : s.mayStart n = some c) : (s.tile n).loaded = some c := by
  unfold State.mayStart at h
  cases hd : (s.tile n).loaded with
  | none => simp [hd] at h
  | some d =>
    simp only [hd] at h
    rw [(Option.ite_none_left_eq_some.mp h).2]

/-- The only rerun that a context is owed, chosen: its firing goes on with the messages it had, to be popped again as it pops them. -/
theorem rerun_makes {s : State} {n c : Nat} {q : Choice} {r : Rerun} (hstart : s.mayStart n = some c) (hfree : s.setFree n c false = true)
    (hpainted : s.painted = []) (hreruns : (s.tctxOf n c).reruns = [r]) (hq : s.choose n c false = some q) (hcand : q.cand = .rerun r)
    (hqtag : q.tag = r.tag) (hahead : s.taskAhead n c false q = false) (hurgent : r.firing.urgent = false) (hctx : r.firing.ctx = c) :
    ∃ t, execRerun n r.firing.serial s = .next t ∧ s.enteredAs n c r.firing.image r.firing.entryPayload t ∧
      (t.tctxOf n c).normal.fir = some { r.firing with popped := [], owed := r.firing.popped, pinned := s.isPager n c } ∧
      (t.tctxOf n c).reruns = [] := by
  have hloaded := State.loaded_of_mayStart hstart
  have hrun : execRerun n r.firing.serial s = .next (s.makeRerun n c r) := by
    simp [execRerun, hloaded, hreruns, State.takeUp, hstart, hfree, hq, hcand, hqtag, hahead, hurgent]
  obtain ⟨g, hg⟩ : ∃ g, g = { r.firing with popped := [], owed := r.firing.popped, pinned := s.isPager n c } := ⟨_, rfl⟩
  obtain ⟨x, hx, hmake⟩ : ∃ x : TileCtx, x.reruns = [] ∧ s.makeRerun n c r = ((s.setTctxOf n c x).enter n g).rankReady n c := by
    subst hg
    refine ⟨_, ?_, rfl⟩
    dsimp only
    split
    · split <;> simp [TileCtx.setEntry, hreruns]
    · simp [TileCtx.setEntry, hreruns]
  have hgctx : g.ctx = c := by rw [hg, ← hctx]
  have hgurgent : g.urgent = false := by rw [hg, ← hurgent]
  have henter := (s.setTctxOf n c x).enter_tctxOf n g
  rw [hgctx, State.tctxOf_setTctxOf, hgurgent] at henter
  have hnormal : ((s.makeRerun n c r).tctxOf n c).normal = (s.setTctxOf n c x).entryRegs g := by
    rw [hmake, State.rankReady_normal, henter]
    rfl
  have hpay : g.entryPayload = r.firing.entryPayload := by
    rw [hg]
    rfl
  obtain ⟨hentered, hfir⟩ := State.enteredAs_of_entryRegs (s := s) (u := s.setTctxOf n c x) (n := n) (c := c) (f := g) hpainted
    (State.info_of_contexts rfl c) hgctx (s.makeRerun_mem n c r) hnormal
  rw [hpay, hg] at hentered
  refine ⟨_, hrun, hentered, hfir.trans (congrArg some hg), ?_⟩
  obtain ⟨es, hes, -⟩ := ((s.setTctxOf n c x).enter n g).tctxOf_rankReady n c n c
  rw [hmake, hes, henter]
  exact (TileCtx.setRegs_reruns ..).trans hx

/-! ## Deque tasks (R171) -/

/-- The firing of a single-port entry that is made of a task. -/
def State.taskFiring (s : State) (n : Nat) (k : Task) : Firing :=
  s.newFiring n k.msg.ctx k.msg.tag (s.entryOf n k.msg.ctx k.msg.tag).image k.msg.ts k.msg.wid k.serial k.msg.slot (some k.parent)
    { consumed := [], pend := none, task := some k.msg }

theorem startTask_makes {s u : State} {n : Nat} {k : Task} (hpainted : u.painted = []) (hcontexts : u.contexts = s.contexts)
    (hmem : u.mem = s.mem) (hentry : u.entryOf n k.msg.ctx k.msg.tag = s.entryOf n k.msg.ctx k.msg.tag)
    (hsingle : singlePort (s.entryOf n k.msg.ctx k.msg.tag).image) (hclass : ctrlClass (s.entryOf n k.msg.ctx k.msg.tag).image.ctrl = false) :
    s.enteredAs n k.msg.ctx (s.entryOf n k.msg.ctx k.msg.tag).image k.msg.payload (u.startTask n k) ∧
      ((u.startTask n k).tctxOf n k.msg.ctx).normal.fir = some (u.taskFiring n k) := by
  have hstart : u.startTask n k = u.enter n (u.taskFiring n k) := by
    rw [← hentry, singlePort_iff] at hsingle
    exact if_pos hsingle
  have hurgent : (u.taskFiring n k).urgent = false := by
    rw [← hentry] at hclass
    exact hclass
  have h := State.enteredAs_of_entryRegs (s := s) (u := u) (t := u.startTask n k) (n := n) (c := k.msg.ctx) (f := u.taskFiring n k) hpainted
    (State.info_of_contexts hcontexts _) rfl ((u.startTask_mem n k).trans hmem) (by rw [hstart]; exact State.enter_normal hurgent)
  rw [← hentry]
  exact h

theorem taskTake_eq {s : State} {n : Nat} {k : Task} (hlast : (s.tile n).deque.getLast? = some k) (hmay : s.mayTake n k = true) :
    execTaskTake n s = .next ((s.setTile n { s.tile n with deque := (s.tile n).deque.dropLast }).startTask n k) := by
  simp only [execTaskTake, hlast, hmay, if_true]

theorem taskSteal_eq {s : State} {n v : Nat} {k : Task} {l : List Task} (hvictim : s.victim n = some v) (hdeque : (s.tile v).deque = k :: l) :
    execTaskSteal n s = .next ((s.setTile v { s.tile v with deque := l }).startTask n k) := by
  simp only [execTaskSteal, hvictim, hdeque]

/-- A task that leaves a deque. -/
theorem State.entryOf_setTile {s : State} {n : Nat} {t : Tile} (h : t.ctxs = (s.tile n).ctxs) (j d tag : Nat) :
    (s.setTile n t).entryOf j d tag = s.entryOf j d tag := by
  rw [State.entryOf, State.tctxOf_setTile h, State.entryOf]

/-! ## Resume packets (R257, R332) -/

/-- A tile handle with the value 0 lets the parked set of its class go on. -/
theorem resumePacket_goesOn {s : State} {i n count va : Nat} {m : Msg} (hm : s.net[i]? = some m) (hknd : m.knd = 6) (hdst : m.dst = n)
    (hn : n < 4096) (hcount : count < 2 ^ 32) (hhandle : m.payload.getD 0 0 = BitVec.ofNat 64 (n + 2 ^ 15 + count * 2 ^ 16))
    (hvalue : (m.payload.getD 1 0).toNat % 2 ^ 16 = 0) (hloaded : (s.tile n).loaded.isSome = true)
    (hwait : (s.regOf n .normal).pageWait = some { count := count, va := va, reply := none }) :
    ∃ t, execResumePacket i s = .next t ∧ t.mem = s.mem ∧ t.net = s.net.eraseIdx i ∧
      t.regOf n .normal = { s.regOf n .normal with pageWait := none } := by
  subst hdst
  obtain ⟨h, hh⟩ : ∃ h, h = m.dst + 2 ^ 15 + count * 2 ^ 16 := ⟨_, rfl⟩
  have hword : (m.payload.getD 0 0).toNat = h := by
    rw [hhandle, BitVec.toNat_ofNat, ← hh, Nat.mod_eq_of_lt (by omega)]
  obtain ⟨u, hu⟩ : ∃ u, u = ({ s with net := s.net.eraseIdx i } : State).wake m.dst := ⟨_, rfl⟩
  have htile : u.tile m.dst = { s.tile m.dst with idle := false } := by
    rw [hu]
    exact State.tile_setTile ..
  have h15 : h.testBit 15 = true := by
    rw [Nat.testBit_eq_decide_div_mod_eq, decide_eq_true_eq]
    omega
  have h12 : h.testBit 12 = false := by
    rw [Nat.testBit_eq_decide_div_mod_eq, decide_eq_false_iff_not]
    omega
  have hrun : execResumePacket i s = .next (u.resumeSet m.dst .normal count 0) := by
    simp only [execResumePacket, hm, hknd, hword, hvalue, h15, h12, ← hu]
    rw [if_neg (by simp), if_neg (by omega), if_pos trivial, if_neg (by simp only [bitsOf]; omega), if_neg Bool.false_ne_true,
      show h % 2 ^ 12 = m.dst by omega, show h / 2 ^ 16 % 2 ^ 32 = count by omega]
  obtain ⟨c, hc⟩ := Option.isSome_iff_exists.mp hloaded
  have hregs : (s.tctxOf m.dst c).regs .normal = s.regOf m.dst .normal := by
    simp only [State.regOf, hc]
  have huloaded : (u.tile m.dst).loaded = some c := by
    rw [htile]
    exact hc
  have hutctx : u.tctxOf m.dst c = s.tctxOf m.dst c := by
    rw [State.tctxOf, htile, State.tctxOf]
    rfl
  have huregs : u.regOf m.dst .normal = s.regOf m.dst .normal := by
    rw [← hregs, ← hutctx]
    simp only [State.regOf, huloaded]
  have hresume : u.resumeSet m.dst .normal count 0 =
      u.setTctxOf m.dst c ((s.tctxOf m.dst c).setRegs .normal { s.regOf m.dst .normal with pageWait := none }) := by
    have hawaits : (u.regOf m.dst .normal).awaitsPage count = some va := by
      rw [huregs, RegSet.awaitsPage, hwait]
      simp
    simp only [State.resumeSet, hawaits, huloaded, State.onSet, State.answerPage, if_true]
    have hctxn : State.ctxn { u with cur := { tile := m.dst, set := .normal } } = c := by
      change (match (u.tile m.dst).loaded with | some c => c | none => 0) = c
      rw [huloaded]
    rw [State.setReg_live _ _ (by simp), State.reg_of_live (by simp), State.setTctx, State.tctx, hctxn, ← hregs, ← hutctx]
    rfl
  refine ⟨_, hrun, by rw [State.resumeSet_mem, hu, State.wake_mem], ?_, ?_⟩
  · rw [hresume, hu]
    rfl
  · have hloaded' : ((u.resumeSet m.dst .normal count 0).tile m.dst).loaded = some c := by
      rw [hresume, State.tile_setTctxOf]
      exact huloaded
    simp only [State.regOf, hloaded']
    rw [hresume, State.tctxOf_setTctxOf, TileCtx.regs_setRegs]
    simp only [State.regOf, hc]

end Sys2Proof.Machine

open Sys2Proof Sys2Proof.Machine in
/-- Settles O47: each event by what it finds at its tile; a firing of whatever origin enters its set in one way. -/
theorem messagesMakeFirings : Obligations.MessagesMakeFirings := by
  unfold Obligations.MessagesMakeFirings
  refine ⟨?_, ?_,
    ⟨fun s c tag im x htag hx => ⟨entryRewrite_refused htag hx, entryRewrite_locks htag hx⟩, fun s n c tag im => rewriteOn_writes⟩, ?_, ?_⟩
  · intro s i m hm hfirst n c t x e v u bound behind arrives
    refine ⟨fun hknd => messageArrival_cases hm hknd hfirst, fun hknd => ?_⟩
    have hcases := messageArrival_cases hm (by rw [hknd]; decide) hfirst
    rw [← completionMessage_eq hm hknd] at hcases
    exact hcases
  · rintro s n c m rfl rfl hres t x e hkind hclass hlock hlen
    exact ⟨fun hingress hunbound hroom => queueAdmit_binds hres hingress hunbound rfl hlock hroom ⟨hkind, hclass⟩ hlen,
      fun hunbound => unboundDelivery_binds hunbound rfl hlock ⟨hkind, hclass⟩ hlen⟩
  · intro s n c hstart hfree hpainted hnone x t0 entered
    refine ⟨fun q tag m rest hq hcand hqtag hahead => ?_, fun q r hreruns hq hcand hqtag hahead hurgent hctx => ?_, fun k v => ?_⟩
    · intro e hqueue hpend hnport hport htag hclass
      obtain ⟨t, hrun, hentered, hfir, hcount, hrest⟩ := makeFiring_makes hstart hfree hpainted hnone hq hcand hqtag hahead hqueue hpend hnport
        hport htag hclass
      exact ⟨t, _, hrun, hentered, hfir, rfl, rfl, rfl, rfl, rfl, rfl, rfl, hcount, hrest⟩
    · obtain ⟨t, hrun, hentered, hfir, hnil⟩ := rerun_makes hstart hfree hpainted hreruns hq hcand hqtag hahead hurgent hctx
      exact ⟨t, _, hrun, hentered, hfir, rfl, hnil⟩
    · intro e single taken hsingle hctx hclass
      have hport : singlePort e.image := by
        obtain ⟨hkind, hnport, hcnt⟩ := hsingle
        exact ⟨congrArg BitVec.toNat hkind, congrArg BitVec.toNat hnport, congrArg BitVec.toNat hcnt⟩
      subst hctx
      have starts {op : Instr} {j : Nat} {y : Tile} (hop : exec op s = .next ((s.setTile j y).startTask n k))
          (hy : y.ctxs = (s.tile j).ctxs) : taken op := by
        obtain ⟨hentered, hfir⟩ := startTask_makes (s := s) (u := s.setTile j y) hpainted rfl rfl (State.entryOf_setTile hy ..) hport hclass
        exact ⟨_, _, hop, hentered, hfir, rfl, rfl, rfl, rfl, rfl⟩
      exact ⟨fun hlast hmay => starts (taskTake_eq hlast hmay) rfl, fun l hvictim _ hdeque => starts (taskSteal_eq hvictim hdeque) rfl⟩
  · rintro s i n count va m w hm hknd hdst hn hcount hhandle hvalue hloaded hwait rfl
    exact resumePacket_goesOn hm hknd hdst hn hcount hhandle hvalue hloaded hwait
end

section
/-! PROOFS. What a store leaves in memory (R187, R192, R365): under the memory key of its context its bytes read back, every other byte
reads as before, and its granule has the tag that passes the filter. -/

namespace Sys2Proof.Machine

/-! ## Blocks of a span -/

/-- The block of every byte of a span is among the span's blocks. -/
theorem mem_blocksOf {step a n b : Nat} (ha : a ≤ b) (hb : b < a + n) : b / step * step ∈ blocksOf step a n := by
  have hlo : a / step ≤ b / step := Nat.div_le_div_right ha
  have hhi : b / step ≤ (a + n - 1) / step := Nat.div_le_div_right (by omega)
  rw [blocksOf, if_neg (by omega)]
  exact List.mem_map.mpr ⟨b / step - a / step, List.mem_range.mpr (by omega), by rw [Nat.add_sub_cancel' hlo]⟩

/-- Two bytes of one line are of one array. -/
theorem keyKind_line (a : Nat) : keyKind (a / 64 * 64) = keyKind a := by
  simp only [keyKind]
  omega

/-! ## Sorted lists of keys -/

theorem keys_insert_pairwise {l : List Nat} (h : l.Pairwise (· < ·)) (n : Nat) : (Keys.insert l n).Pairwise (· < ·) := by
  induction l with
  | nil => simp [Keys.insert]
  | cons k ks ih =>
    obtain ⟨hk, hks⟩ := List.pairwise_cons.mp h
    unfold Keys.insert
    split
    next hlt =>
      refine List.pairwise_cons.mpr ⟨fun g hg => ?_, h⟩
      rcases List.mem_cons.mp hg with rfl | hg
      · exact hlt
      · exact hlt.trans (hk g hg)
    next hle =>
      split
      · exact h
      · refine List.pairwise_cons.mpr ⟨fun g hg => ?_, ih hks⟩
        rcases (keys_mem_insert ks n g).mp hg with rfl | hg
        · omega
        · exact hk g hg

theorem keys_foldl_remove_sublist (gs l : List Nat) : (gs.foldl Keys.remove l).Sublist l := by
  induction gs generalizing l with
  | nil => exact List.Sublist.refl l
  | cons a gs ih => exact (ih _).trans (keys_remove_sublist l a)

/-! ## What a reader gets (R365) -/

/-- What the bytes, their tags and their memory keys are read from. -/
def State.stored (s : State) : List Host.Cell × List Nat × Map Nat × Map Context × Nat × Nat × List Nat :=
  (s.mem, s.tags, s.lineKeys, s.contexts, s.qnow, s.qdone, s.painted)

theorem State.readByte_of_stored {s t : State} (h : t.stored = s.stored) (key a : Nat) : t.readByte key a = s.readByte key a := by
  simp only [State.stored, Prod.mk.injEq] at h
  obtain ⟨hmem, -, hkeys, hcontexts, hqnow, hqdone, -⟩ := h
  have hother : t.otherKey key a = s.otherKey key a := by simp only [State.otherKey, State.pagerKey, hkeys, hcontexts]
  simp only [State.readByte, State.quiescenceByte, hother, hmem, hqnow, hqdone]

theorem State.tagAt_of_stored {s t : State} (h : t.stored = s.stored) (a : Nat) : t.tagAt a = s.tagAt a := by
  simp only [State.stored, Prod.mk.injEq] at h
  obtain ⟨-, htags, -⟩ := h
  simp only [State.tagAt, htags]

theorem State.readByte_of_own {s : State} {key a : Nat} (hkind : keyKind a ≠ 6) (hown : s.otherKey key a = false) :
    s.readByte key a = Memory.read s.mem a := by
  simp [State.readByte, hkind, hown]

theorem State.readBytes_getD (s : State) (key a n j : Nat) (hj : j < n) : (s.readBytes key a n)[j]? = some (s.readByte key (a + j)) := by
  induction n generalizing a j with
  | zero => omega
  | succ n ih =>
    cases j with
    | zero => rfl
    | succ j => rw [State.readBytes, List.getElem?_cons_succ, ih (a + 1) j (by omega), Nat.add_right_comm, Nat.add_assoc]

theorem State.readBytes_len (s : State) (key a n : Nat) : (s.readBytes key a n).length = n := by
  induction n generalizing a with
  | zero => rfl
  | succ n ih => rw [State.readBytes, List.length_cons, ih]

/-- The bytes of memory written alone: a reader gets them where they were written, and elsewhere what it got before. -/
theorem State.readByte_of_written {s t : State} {key a : Nat} {bs : List Byte} (hs : s.memWf)
    (hmem : t.mem = Memory.writeBytes s.mem a bs) (hrest : t.lineKeys = s.lineKeys ∧ t.contexts = s.contexts ∧ t.qnow = s.qnow ∧ t.qdone = s.qdone) :
    (∀ b, b < a ∨ a + bs.length ≤ b → t.readByte key b = s.readByte key b) ∧
    (∀ j, j < bs.length → keyKind (a + j) ≠ 6 → s.otherKey key (a + j) = false → t.readByte key (a + j) = bs.getD j 0) := by
  obtain ⟨hkeys, hcontexts, hqnow, hqdone⟩ := hrest
  have hother (b : Nat) : t.otherKey key b = s.otherKey key b := by simp only [State.otherKey, State.pagerKey, hkeys, hcontexts]
  refine ⟨fun b hb => ?_, fun j hj hkind hown => ?_⟩
  · simp only [State.readByte, State.quiescenceByte, hother, hqnow, hqdone, hmem, Memory.read_writeBytes_other bs s.mem a b hs hb]
  · rw [State.readByte_of_own hkind ((hother _).trans hown), hmem, Memory.read_writeBytes_inside bs s.mem a j hs hj]
    exact (List.getElem_eq_getD 0)

/-! ## A line under another key (R94, R365) -/

/-- The key of a line is told by the line alone. -/
theorem State.otherKey_line (s : State) (key a : Nat) : s.otherKey key (a / 64 * 64) = s.otherKey key a := by
  simp only [State.otherKey, keyKind_line, Nat.mul_div_cancel _ (show 0 < 64 by decide)]

theorem State.rekeyLine_of_own {s : State} {key line : Nat} (h : ¬ s.otherKey key (line * 64) = true) :
    s.rekeyLine key line = { s with lineKeys := Map.set s.lineKeys line key } := by
  rw [State.rekeyLine, if_neg h]

theorem State.rekeyLine_of_other {s : State} {key line : Nat} (h : s.otherKey key (line * 64) = true) :
    s.rekeyLine key line = { s with mem := Memory.writeBytes s.mem (line * 64) (s.readBytes key (line * 64) 64)
                                    tags := s.tags.filter (fun g => g / 64 != line)
                                    lineKeys := Map.set s.lineKeys line key } := by
  simp only [State.rekeyLine, h, if_true, State.setMem]

/-- What a line's new key leaves, whatever key it had. -/
theorem State.rekeyLine_rest (s : State) (key line : Nat) : (s.rekeyLine key line).lineKeys = Map.set s.lineKeys line key ∧
    (s.rekeyLine key line).contexts = s.contexts ∧ (s.rekeyLine key line).qnow = s.qnow ∧ (s.rekeyLine key line).qdone = s.qdone := by
  by_cases h : s.otherKey key (line * 64) = true
  · simp only [State.rekeyLine_of_other h, and_self]
  · simp only [State.rekeyLine_of_own h, and_self]

theorem State.otherKey_rekeyLine (s : State) (key line b : Nat) :
    (s.rekeyLine key line).otherKey key b = if b / 64 = line then false else s.otherKey key b := by
  obtain ⟨hkeys, hcontexts, -⟩ := s.rekeyLine_rest key line
  simp only [State.otherKey, State.pagerKey, hcontexts, hkeys]
  split
  next hb => simp [hb]
  next hb => rw [Map.get_set_other _ _ _ _ _ hb]

/-- A line that its writer's key takes reads for the writer as before. -/
theorem State.rekeyLine_readByte {s : State} (h : s.memWf) (key line b : Nat) : (s.rekeyLine key line).readByte key b = s.readByte key b := by
  obtain ⟨-, -, hqnow, hqdone⟩ := s.rekeyLine_rest key line
  have hother := s.otherKey_rekeyLine key line b
  have hline (hb : b / 64 = line) : s.otherKey key (line * 64) = s.otherKey key b := by rw [← hb, s.otherKey_line]
  have hlen := s.readBytes_len key (line * 64) 64
  by_cases hkind : keyKind b = 6
  · simp only [State.readByte, hkind, if_true, State.quiescenceByte, hqnow, hqdone]
  by_cases hk : s.otherKey key (line * 64) = true
  · have hmem : (s.rekeyLine key line).mem = Memory.writeBytes s.mem (line * 64) (s.readBytes key (line * 64) 64) := by
      rw [State.rekeyLine_of_other hk]
    by_cases hb : b / 64 = line
    · rw [if_pos hb] at hother
      have hj : b - line * 64 < 64 := by omega
      have hbj : line * 64 + (b - line * 64) = b := by omega
      have hread := Memory.read_writeBytes_inside _ s.mem (line * 64) (b - line * 64) h (by rwa [hlen])
      rw [hbj] at hread
      rw [State.readByte_of_own hkind hother, hmem, hread]
      refine Option.some.inj ((List.getElem?_eq_getElem _).symm.trans ((s.readBytes_getD key (line * 64) 64 _ hj).trans ?_))
      rw [hbj]
    · rw [if_neg hb] at hother
      have hread := Memory.read_writeBytes_other (s.readBytes key (line * 64) 64) s.mem (line * 64) b h (by rw [hlen]; omega)
      simp only [State.readByte, if_neg hkind, hother, hmem, hread]
  · have hmem : (s.rekeyLine key line).mem = s.mem := by rw [State.rekeyLine_of_own hk]
    have hsame : (s.rekeyLine key line).otherKey key b = s.otherKey key b := by
      rw [hother]
      split
      next hb => rw [← hline hb, Bool.not_eq_true _ |>.mp hk]
      next => rfl
    simp only [State.readByte, if_neg hkind, hsame, hmem]

/-- So does every line of a write, and the writer's key has them all. -/
theorem State.foldl_rekeyLine_reads (ls : List Nat) {s : State} (h : s.memWf) (key b : Nat) :
    let t := ls.foldl (fun s l => s.rekeyLine key (l / 64)) s
    t.memWf ∧ t.readByte key b = s.readByte key b ∧ (s.otherKey key b = false ∨ b / 64 * 64 ∈ ls → t.otherKey key b = false) := by
  induction ls generalizing s with
  | nil => exact ⟨h, rfl, fun hb => by simpa using hb⟩
  | cons l ls ih =>
    have hl := s.rekeyLine_memWf key (l / 64) h
    obtain ⟨hwf, hread, hown⟩ := ih hl
    refine ⟨hwf, hread.trans (State.rekeyLine_readByte h ..), fun hb => hown ?_⟩
    rw [s.otherKey_rekeyLine]
    split
    · exact .inl rfl
    · rcases hb with hb | hb
      · exact .inl hb
      · rcases List.mem_cons.mp hb with rfl | hb
        · omega
        · exact .inr hb

theorem State.rekey_reads {s : State} (h : s.memWf) (key a n b : Nat) :
    (s.rekey key a n).readByte key b = s.readByte key b ∧
      (a ≤ b → b < a + n → keyKind b = keyKind a → (s.rekey key a n).otherKey key b = false) := by
  unfold State.rekey
  split
  next =>
    obtain ⟨-, hread, hown⟩ := State.foldl_rekeyLine_reads (blocksOf 64 a n) h key b
    exact ⟨hread, fun hlo hhi _ => hown (.inr (mem_blocksOf hlo hhi))⟩
  next hkind =>
    refine ⟨rfl, fun _ _ hb => ?_⟩
    obtain ⟨h0, h4⟩ := not_or.mp hkind
    simp [State.otherKey, hb, h0, h4]

/-! ## One write -/

theorem State.cleanse_stored (s : State) (p : Nat → Bool) : (s.cleanse p).stored = s.stored := by
  unfold State.cleanse
  split <;> rfl

/-- Bytes put where they lie: what the reads of them turn on. -/
theorem State.putBytes_stored (s : State) (a : Nat) (bs : List Byte) : (s.putBytes a bs).stored =
    (Memory.writeBytes s.mem a bs, if s.tags.isEmpty then [] else (blocksOf 16 a bs.length).foldl Keys.remove s.tags, s.lineKeys,
      s.contexts, s.qnow, s.qdone, s.painted) := by
  have h := s.cleanse_stored (fun w => decide (a ≤ memPlace w) && decide (memPlace w + codeWordSize w ≤ a + bs.length))
  exact congrArg (fun q : List Host.Cell × List Nat × Map Nat × Map Context × Nat × Nat × List Nat => (Memory.writeBytes s.mem a bs,
    if s.tags.isEmpty then [] else (blocksOf 16 a bs.length).foldl Keys.remove s.tags, q.2.2)) h

theorem State.putBytes_reads {s : State} (h : s.memWf) (key a : Nat) (bs : List Byte) :
    (∀ b, b < a ∨ a + bs.length ≤ b → (s.putBytes a bs).readByte key b = s.readByte key b) ∧
    (∀ j, j < bs.length → keyKind (a + j) ≠ 6 → s.otherKey key (a + j) = false → (s.putBytes a bs).readByte key (a + j) = bs.getD j 0) := by
  have hstored := s.putBytes_stored a bs
  simp only [State.stored, Prod.mk.injEq] at hstored
  obtain ⟨hmem, -, hkeys, hcontexts, hqnow, hqdone, -⟩ := hstored
  exact State.readByte_of_written h hmem ⟨hkeys, hcontexts, hqnow, hqdone⟩

/-- A byte outside a write reads as before. -/
theorem State.writeBytes_outside {s : State} (h : s.memWf) (key a : Nat) (bs : List Byte) {b : Nat} (hb : b < a ∨ a + bs.length ≤ b) :
    (s.writeBytes key a bs).readByte key b = s.readByte key b := by
  unfold State.writeBytes
  split
  · rfl
  · obtain ⟨hout, -⟩ := State.putBytes_reads (s.rekey_memWf key a bs.length h) key a bs
    exact (hout b hb).trans (State.rekey_reads h key a bs.length b).1

/-- A byte of a write reads as it was written. -/
theorem State.writeBytes_inside {s : State} (h : s.memWf) (key : Nat) {a : Nat} {bs : List Byte} (hkind : keyKind a ≠ 6)
    (hspan : keyKind (a + bs.length) = keyKind a) {j : Nat} (hj : j < bs.length) :
    (s.writeBytes key a bs).readByte key (a + j) = bs.getD j 0 := by
  have hjkind : keyKind (a + j) = keyKind a := by
    simp only [keyKind] at hspan ⊢
    omega
  rw [State.writeBytes, if_neg hkind]
  obtain ⟨-, hin⟩ := State.putBytes_reads (s.rekey_memWf key a bs.length h) key a bs
  exact hin j hj (by rwa [hjkind]) ((State.rekey_reads h key a bs.length (a + j)).2 (by omega) (by omega) hjkind)

/-! ## What a write leaves besides (R111) -/

/-- The tiles, the registrations and the capabilities revoked. -/
def State.grounds (s : State) : Map Tile × Map Context × List Nat := (s.tiles, s.contexts, s.painted)

theorem State.rekeyLine_grounds (s : State) (key line : Nat) :
    (s.rekeyLine key line).grounds = s.grounds ∧ (s.rekeyLine key line).tags.Sublist s.tags := by
  by_cases h : s.otherKey key (line * 64) = true
  · simp only [State.rekeyLine_of_other h, State.grounds, true_and]
    exact List.filter_sublist
  · simp only [State.rekeyLine_of_own h, State.grounds, true_and]
    exact List.Sublist.refl _

theorem State.foldl_rekeyLine_grounds (ls : List Nat) (s : State) (key : Nat) :
    (ls.foldl (fun s l => s.rekeyLine key (l / 64)) s).grounds = s.grounds ∧
      (ls.foldl (fun s l => s.rekeyLine key (l / 64)) s).tags.Sublist s.tags := by
  induction ls generalizing s with
  | nil => exact ⟨rfl, List.Sublist.refl _⟩
  | cons l ls ih =>
    obtain ⟨hgrounds, htags⟩ := ih (s.rekeyLine key (l / 64))
    obtain ⟨hgrounds', htags'⟩ := s.rekeyLine_grounds key (l / 64)
    exact ⟨hgrounds.trans hgrounds', htags.trans htags'⟩

theorem State.rekey_grounds (s : State) (key a n : Nat) : (s.rekey key a n).grounds = s.grounds ∧ (s.rekey key a n).tags.Sublist s.tags := by
  unfold State.rekey
  split
  · exact State.foldl_rekeyLine_grounds ..
  · exact ⟨rfl, List.Sublist.refl _⟩

theorem State.cleanse_grounds (s : State) (p : Nat → Bool) : (s.cleanse p).grounds = s.grounds := by
  unfold State.cleanse
  split <;> rfl

theorem State.putBytes_grounds (s : State) (a : Nat) (bs : List Byte) : (s.putBytes a bs).grounds = s.grounds :=
  s.cleanse_grounds fun w => decide (a ≤ memPlace w) && decide (memPlace w + codeWordSize w ≤ a + bs.length)

theorem State.putBytes_tags (s : State) (a : Nat) (bs : List Byte) :
    (s.putBytes a bs).tags = (blocksOf 16 a bs.length).foldl Keys.remove s.tags := by
  have hnil (gs : List Nat) : gs.foldl Keys.remove [] = [] := List.sublist_nil.mp (keys_foldl_remove_sublist gs [])
  refine (congrArg (fun q => q.2.1) (s.putBytes_stored a bs)).trans ?_
  cases h : s.tags with
  | nil => exact (hnil _).symm
  | cons g gs => rfl

theorem State.writeBytes_grounds (s : State) (key a : Nat) (bs : List Byte) :
    (s.writeBytes key a bs).grounds = s.grounds ∧ (s.writeBytes key a bs).tags.Sublist s.tags := by
  obtain ⟨hgrounds, htags⟩ := s.rekey_grounds key a bs.length
  unfold State.writeBytes
  split
  · exact ⟨rfl, List.Sublist.refl _⟩
  · refine ⟨(State.putBytes_grounds ..).trans hgrounds, ?_⟩
    rw [State.putBytes_tags]
    exact (keys_foldl_remove_sublist ..).trans htags

/-- A granule that a write replaces has no tag. -/
theorem State.writeBytes_untags {s : State} (h : s.tags.Pairwise (· < ·)) (key : Nat) {a : Nat} {bs : List Byte} (hkind : keyKind a ≠ 6)
    (halign : a % 16 = 0) (hlen : bs.length = 16) : a ∉ (s.writeBytes key a bs).tags := by
  obtain ⟨-, htags⟩ := s.rekey_grounds key a bs.length
  have hmem : a ∈ blocksOf 16 a bs.length := by
    have hblock := mem_blocksOf (step := 16) (a := a) (n := bs.length) (b := a) le_rfl (by omega)
    rwa [Nat.div_mul_cancel (Nat.dvd_of_mod_eq_zero halign)] at hblock
  rw [State.writeBytes, if_neg hkind, State.putBytes_tags, keys_mem_foldl_remove _ (h.sublist htags)]
  exact fun hin => hin.2 hmem

/-! ## The pieces of a store -/

theorem State.writePieces_grounds (s : State) (key : Nat) (ps : List (Nat × Nat)) (bs : List Byte) :
    (s.writePieces key ps bs).grounds = s.grounds ∧ (s.writePieces key ps bs).tags.Sublist s.tags := by
  induction ps generalizing s bs with
  | nil => exact ⟨rfl, List.Sublist.refl _⟩
  | cons r ps ih =>
    obtain ⟨hgrounds, htags⟩ := s.writeBytes_grounds key r.1 (bs.take r.2)
    obtain ⟨hgrounds', htags'⟩ := ih (s.writeBytes key r.1 (bs.take r.2)) (bs.drop r.2)
    exact ⟨hgrounds'.trans hgrounds, htags'.trans htags⟩

theorem State.writePieces_outside {s : State} (h : s.memWf) (key : Nat) (ps : List (Nat × Nat)) (bs : List Byte) {b : Nat}
    (hb : ∀ r, r ∈ ps → b < r.1 ∨ r.1 + r.2 ≤ b) : (s.writePieces key ps bs).readByte key b = s.readByte key b := by
  induction ps generalizing s bs with
  | nil => rfl
  | cons r ps ih =>
    have hlen : (bs.take r.2).length ≤ r.2 := List.length_take_le ..
    have hr := hb r List.mem_cons_self
    exact (ih (s.writeBytes_memWf key r.1 _ h) _ fun q hq => hb q (List.mem_cons_of_mem _ hq)).trans
      (State.writeBytes_outside h key r.1 (bs.take r.2) (by omega))

/-! ## A store of a firing (R187) -/

/-- What stores leave of the state that they are performed in: no update is held, and what their keys and tags are told by. -/
structure State.StoresOf (s t : State) : Prop where
  memWf : t.memWf
  updaters : t.updaters = []
  contexts : t.contexts = s.contexts
  painted : t.painted = s.painted
  tags : s.tags.Pairwise (· < ·) → t.tags.Pairwise (· < ·)

theorem State.StoresOf.refl {s : State} (h : s.memWf) (hu : s.updaters = []) : s.StoresOf s := ⟨h, hu, rfl, rfl, id⟩

theorem State.StoresOf.info {s t : State} (h : s.StoresOf t) (c : Nat) : t.info c = s.info c := State.info_of_contexts h.contexts c

/-- The state in which the bytes of a store are written: with the frames noted that it unmaps. -/
def State.beforeStore (s : State) (ctx : Nat) (keys : List (Nat × Nat)) : State :=
  if (s.info ctx).priv = .supervisor then s.noteNarrowing keys else s

theorem State.beforeStore_kept (s : State) (ctx : Nat) (keys : List (Nat × Nat)) :
    (s.beforeStore ctx keys).stored = s.stored ∧ (s.beforeStore ctx keys).tiles = s.tiles := by
  have hnote : (s.noteNarrowing keys).stored = s.stored ∧ (s.noteNarrowing keys).tiles = s.tiles := by
    unfold State.noteNarrowing
    extract_lets old
    split <;> exact ⟨rfl, rfl⟩
  unfold State.beforeStore
  split
  · exact hnote
  · exact ⟨rfl, rfl⟩

/-- Whether a store gives a granule its tag. -/
def State.storeTags (s : State) (ctx : Nat) (bs : List Byte) (tag : Bool) (a : Nat) : Bool :=
  tag && (s.filterCap ctx (Cap.ofBytes true (ofBytes bs))).tag && keepsTags a

/-- A granule tagged, or not. -/
def State.tagIf (s : State) (b : Bool) (a : Nat) : State := if b then { s with tags := Keys.insert s.tags a } else s

theorem State.tagIf_kept (s : State) (b : Bool) (a : Nat) : (s.tagIf b a).mem = s.mem ∧ (s.tagIf b a).grounds = s.grounds ∧
    (∀ key c, (s.tagIf b a).readByte key c = s.readByte key c) ∧ (s.tags.Pairwise (· < ·) → (s.tagIf b a).tags.Pairwise (· < ·)) := by
  cases b with
  | false => exact ⟨rfl, rfl, fun key c => rfl, id⟩
  | true => exact ⟨rfl, rfl, fun key c => rfl, fun h => keys_insert_pairwise h a⟩

/-- Where no update is held, a store writes its pieces and then tags its first granule, if it does. -/
theorem State.storeGlobal_eq {s : State} (h : s.updaters = []) (ctx : Nat) (keys : List (Nat × Nat)) (bs : List Byte) (tag : Bool) :
    ∃ b a, s.storeGlobal ctx keys bs tag = ((s.beforeStore ctx keys).writePieces (s.info ctx).keyId keys bs).tagIf b a ∧
      ∀ r rs, keys = r :: rs → a = r.1 ∧ b = s.storeTags ctx bs tag r.1 := by
  have hmerge : s.mergeRanges keys = s := by simp [State.mergeRanges, h]
  unfold State.storeGlobal
  rw [hmerge]
  cases keys with
  | nil => exact ⟨false, 0, by cases tag <;> rfl, nofun⟩
  | cons r rs =>
    refine ⟨s.storeTags ctx bs tag r.1, r.1, ?_, fun r' rs' hr => by simp [(List.cons.inj hr).1]⟩
    cases tag with
    | false => simp [State.storeTags, State.tagIf, State.beforeStore]
    | true => simp [State.storeTags, State.tagIf, State.beforeStore]

section
variable {s : State} (hwf : s.memWf) (hu : s.updaters = []) (ctx : Nat) (keys : List (Nat × Nat)) (bs : List Byte) (tag : Bool)
include hwf hu

theorem State.storeGlobal_outside {b : Nat} (hb : ∀ r, r ∈ keys → b < r.1 ∨ r.1 + r.2 ≤ b) :
    (s.storeGlobal ctx keys bs tag).readByte (s.info ctx).keyId b = s.readByte (s.info ctx).keyId b := by
  obtain ⟨g, a, hstore, -⟩ := State.storeGlobal_eq hu ctx keys bs tag
  obtain ⟨hstored, -⟩ := s.beforeStore_kept ctx keys
  obtain ⟨-, -, hread, -⟩ := State.tagIf_kept ((s.beforeStore ctx keys).writePieces (s.info ctx).keyId keys bs) g a
  have hwf' : (s.beforeStore ctx keys).memWf := by
    rw [State.memWf, show (s.beforeStore ctx keys).mem = s.mem from congrArg Prod.fst hstored]
    exact hwf
  rw [hstore, hread, State.writePieces_outside hwf' _ _ _ hb, State.readByte_of_stored hstored]

theorem State.storeGlobal_storesOf : s.StoresOf (s.storeGlobal ctx keys bs tag) := by
  obtain ⟨g, a, hstore, -⟩ := State.storeGlobal_eq hu ctx keys bs tag
  obtain ⟨hstored, htiles⟩ := s.beforeStore_kept ctx keys
  obtain ⟨hgrounds, htags⟩ := (s.beforeStore ctx keys).writePieces_grounds (s.info ctx).keyId keys bs
  obtain ⟨-, hgrounds', -, hsorted⟩ := State.tagIf_kept ((s.beforeStore ctx keys).writePieces (s.info ctx).keyId keys bs) g a
  rw [← hstore] at hgrounds' hsorted
  simp only [State.stored, Prod.mk.injEq] at hstored
  obtain ⟨-, htags0, -, hcontexts0, -, -, hpainted0⟩ := hstored
  have hall := hgrounds'.trans hgrounds
  simp only [State.grounds, Prod.mk.injEq] at hall
  obtain ⟨htiles1, hcontexts1, hpainted1⟩ := hall
  refine ⟨s.storeGlobal_memWf ctx keys bs tag hwf, ?_, hcontexts1.trans hcontexts0, hpainted1.trans hpainted0,
    fun h => hsorted ((htags0 ▸ h).sublist htags)⟩
  rw [State.updaters, htiles1, htiles]
  exact hu

/-- The one piece of a store lands: its bytes read back, and its granule has the tag that passes the filter. -/
theorem State.storeGlobal_lands {key : Nat} (hkind : keyKind key ≠ 6) (hspan : keyKind (key + bs.length) = keyKind key) :
    let u := s.storeGlobal ctx [(key, bs.length)] bs tag
    (∀ j, j < bs.length → u.readByte (s.info ctx).keyId (key + j) = bs.getD j 0) ∧
    (s.tags.Pairwise (· < ·) → key % 16 = 0 → bs.length = 16 → (u.tagAt key = true ↔ s.storeTags ctx bs tag key = true)) := by
  intro u
  obtain ⟨b, a, hstore, hfirst⟩ := State.storeGlobal_eq hu ctx [(key, bs.length)] bs tag
  obtain ⟨ha, hb⟩ := hfirst _ _ rfl
  obtain ⟨hstored, -⟩ := s.beforeStore_kept ctx [(key, bs.length)]
  obtain ⟨w, hw⟩ : ∃ w, w = (s.beforeStore ctx [(key, bs.length)]).writeBytes (s.info ctx).keyId key bs := ⟨_, rfl⟩
  have hu' : u = w.tagIf b a := by
    rw [hw]
    simpa [State.writePieces] using hstore
  obtain ⟨-, -, hread, -⟩ := w.tagIf_kept b a
  rw [hu']
  refine ⟨fun j hj => ?_, fun hsorted halign hlen => ?_⟩
  · have hwf' : (s.beforeStore ctx [(key, bs.length)]).memWf := by
      rw [State.memWf, show (s.beforeStore ctx _).mem = s.mem from congrArg Prod.fst hstored]
      exact hwf
    rw [hread, hw, State.writeBytes_inside hwf' _ hkind hspan hj]
  · have htags : (s.beforeStore ctx [(key, bs.length)]).tags = s.tags := congrArg (fun q => q.2.1) hstored
    have hgone : key ∉ w.tags := by
      rw [hw]
      exact State.writeBytes_untags (by rwa [htags]) _ hkind halign hlen
    have hplace : key - key % 16 = key := by omega
    rw [State.tagAt, hplace, Bool.and_eq_true, keysMem_eq_true, ha, ← hb]
    cases hcase : b with
    | false => simpa [State.tagIf] using fun _ => hgone
    | true =>
      have hkeeps : keepsTags key = true := by
        rw [hb, State.storeTags, Bool.and_eq_true] at hcase
        exact hcase.2
      simp [State.tagIf, keys_mem_insert, hkeeps]

end

end Sys2Proof.Machine
end

section
/-! PROOFS. The three steps in which a firing's actions are performed (R187): what they leave in memory. -/

namespace Sys2Proof.Machine

/-! ## Records and messages leave memory -/

theorem State.perform_stored_of_record {x : Action} (hx : actionStep x ≠ 1) (s : State) (n ctx : Nat) :
    (s.perform n ctx x).stored = s.stored := by
  cases x with
  | store => exact absurd rfl hx
  | send | setEn | pend | clearPend => rfl
  | arm c join sv pay wid ts slot =>
    refine Eq.trans ?_ (s.cleanse_stored fun w => w == keyUnit (clusterOf n) c)
    simp only [State.perform, State.armCounter]
    split
    · split <;> rfl
    · rfl
  | join c ts =>
    simp only [State.perform, State.joinCounter]
    split
    · split <;> rfl
    · rfl

theorem State.performEach_stored_of_records {l : List Action} (hl : ∀ x, x ∈ l → actionStep x ≠ 1) (s : State) (n ctx : Nat) :
    (s.performEach n ctx l).stored = s.stored := by
  induction l generalizing s with
  | nil => rfl
  | cons x l ih =>
    exact (ih (fun y hy => hl y (List.mem_cons_of_mem _ hy)) (s.perform n ctx x)).trans
      (s.perform_stored_of_record (hl x List.mem_cons_self) n ctx)

/-! ## The stores of a list -/

theorem exists_store_of_step {x : Action} (h : actionStep x = 1) : ∃ va keys bs tag, x = .store va keys bs tag := by
  cases x with
  | store va keys bs tag => exact ⟨va, keys, bs, tag, rfl⟩
  | _ => simp [actionStep] at h

theorem State.StoresOf.trans {s t u : State} (h : s.StoresOf t) (h' : t.StoresOf u) : s.StoresOf u :=
  ⟨h'.memWf, h'.updaters, h'.contexts.trans h.contexts, h'.painted.trans h.painted, h'.tags ∘ h.tags⟩

section
variable {s : State} (hwf : s.memWf) (hu : s.updaters = []) (n ctx : Nat) {l : List Action} (hl : ∀ x, x ∈ l → actionStep x = 1)
include hwf hu hl

theorem State.performEach_storesOf : s.StoresOf (s.performEach n ctx l) := by
  induction l generalizing s with
  | nil => exact .refl hwf hu
  | cons x l ih =>
    obtain ⟨va, keys, bs, tag, rfl⟩ := exists_store_of_step (hl x List.mem_cons_self)
    have hstep := State.storeGlobal_storesOf hwf hu ctx keys bs tag
    exact hstep.trans (ih hstep.memWf hstep.updaters fun y hy => hl y (List.mem_cons_of_mem _ hy))

theorem State.performEach_outside {b : Nat} (hb : ∀ va keys bs tag r, Action.store va keys bs tag ∈ l → r ∈ keys → b < r.1 ∨ r.1 + r.2 ≤ b) :
    (s.performEach n ctx l).readByte (s.info ctx).keyId b = s.readByte (s.info ctx).keyId b := by
  induction l generalizing s with
  | nil => rfl
  | cons x l ih =>
    obtain ⟨va, keys, bs, tag, rfl⟩ := exists_store_of_step (hl x List.mem_cons_self)
    have hstep := State.storeGlobal_storesOf hwf hu ctx keys bs tag
    have hrest := ih hstep.memWf hstep.updaters (fun y hy => hl y (List.mem_cons_of_mem _ hy))
      (fun va keys bs tag r hin => hb va keys bs tag r (List.mem_cons_of_mem _ hin))
    rw [hstep.info ctx] at hrest
    exact hrest.trans (State.storeGlobal_outside hwf hu ctx keys bs tag fun r hr => hb va keys bs tag r List.mem_cons_self hr)

end

/-! ## The three steps -/

/-- The stores of a list of actions, as they are performed at commit. -/
def State.storesAtCommit (s : State) (ctx : Nat) (as : List Action) : List Action :=
  (as.filter (fun a => actionStep a == 1)).map (s.atCommit ctx)

theorem State.actionStep_atCommit (s : State) (ctx : Nat) (a : Action) : actionStep (s.atCommit ctx a) = actionStep a := by
  cases a <;> rfl

theorem State.storesAtCommit_step {s : State} {ctx : Nat} {as : List Action} {x : Action} (h : x ∈ s.storesAtCommit ctx as) : actionStep x = 1 := by
  obtain ⟨a, ha, rfl⟩ := List.mem_map.mp h
  rw [s.actionStep_atCommit]
  simpa using (List.mem_filter.mp ha).2

/-- A store as it is performed at commit is one of the list, with its keys translated afresh. -/
theorem State.mem_storesAtCommit {s : State} {ctx : Nat} {as : List Action} {va : Nat} {keys : List (Nat × Nat)} {bs : List Byte} {tag : Bool}
    (h : Action.store va keys bs tag ∈ s.storesAtCommit ctx as) :
    ∃ old, Action.store va old bs tag ∈ as ∧ keys = (s.storeKeys ctx va bs.length).getD old := by
  obtain ⟨a, ha, hstore⟩ := List.mem_map.mp h
  cases a with
  | store va' old bs' tag' =>
    simp only [State.atCommit, Action.store.injEq] at hstore
    obtain ⟨rfl, rfl, rfl, rfl⟩ := hstore
    exact ⟨old, (List.mem_filter.mp ha).1, rfl⟩
  | _ => simp [State.atCommit] at hstore

/-- What bytes and tags are read from after all steps is as the stores leave it. -/
theorem State.performAll_stored (s : State) (n ctx : Nat) (as : List Action) :
    (s.performAll n ctx as).stored = (s.performEach n ctx (s.storesAtCommit ctx as)).stored := by
  unfold State.performAll
  extract_lets stores s1
  rw [State.performEach_stored_of_records, State.performEach_stored_of_records]
  · exact State.cleanse_stored ..
  · intro x hx
    rw [beq_iff_eq.mp (List.mem_filter.mp hx).2]
    decide
  · intro x hx
    rw [beq_iff_eq.mp (List.mem_filter.mp hx).2]
    decide

section
variable {s : State} (hwf : s.memWf) (hu : s.updaters = []) (n ctx : Nat)
include hwf hu

theorem State.performAll_outside (as : List Action) {b : Nat} (hb : ∀ va keys bs tag r, Action.store va keys bs tag ∈ as →
      r ∈ (s.storeKeys ctx va bs.length).getD keys → b < r.1 ∨ r.1 + r.2 ≤ b) :
    (s.performAll n ctx as).readByte (s.info ctx).keyId b = s.readByte (s.info ctx).keyId b := by
  rw [State.readByte_of_stored (s.performAll_stored n ctx as)]
  refine State.performEach_outside hwf hu n ctx (fun x hx => State.storesAtCommit_step hx) fun va keys bs tag r hin hr => ?_
  obtain ⟨old, hold, rfl⟩ := State.mem_storesAtCommit hin
  exact hb va old bs tag r hold hr

/-- The last store of a list lands, where its bytes are one piece; its tag passes the filter as it stood before the list where nothing is
revoked, or where it is the only store. -/
theorem State.performAll_lands {pre post : List Action} {va : Nat} {keys : List (Nat × Nat)} {key : Nat} {bs : List Byte} {tag : Bool}
    (hpost : ∀ x, x ∈ post → actionStep x ≠ 1) (hfilter : s.painted = [] ∨ ∀ x, x ∈ pre → actionStep x ≠ 1)
    (hkeys : (s.storeKeys ctx va bs.length).getD keys = [(key, bs.length)]) (hkind : keyKind key ≠ 6)
    (hspan : keyKind (key + bs.length) = keyKind key) :
    let u := s.performAll n ctx (pre ++ .store va keys bs tag :: post)
    (∀ j, j < bs.length → u.readByte (s.info ctx).keyId (key + j) = bs.getD j 0) ∧
    (s.tags.Pairwise (· < ·) → key % 16 = 0 → bs.length = 16 → (u.tagAt key = true ↔ s.storeTags ctx bs tag key = true)) := by
  intro u
  obtain ⟨v, hv⟩ : ∃ v, v = s.performEach n ctx (s.storesAtCommit ctx pre) := ⟨_, rfl⟩
  have hnone : post.filter (fun a => actionStep a == 1) = [] := List.filter_eq_nil_iff.mpr fun x hx => by simpa using hpost x hx
  have hstores : s.storesAtCommit ctx (pre ++ .store va keys bs tag :: post) =
      s.storesAtCommit ctx pre ++ [.store va [(key, bs.length)] bs tag] := by
    have hfirst : (actionStep (.store va keys bs tag) == 1) = true := rfl
    rw [State.storesAtCommit, List.filter_append, List.filter_cons, if_pos hfirst, hnone, List.map_append, List.map_singleton, State.atCommit,
      hkeys, State.storesAtCommit]
  have hu' : u.stored = (v.storeGlobal ctx [(key, bs.length)] bs tag).stored := by
    rw [hv]
    refine (s.performAll_stored n ctx _).trans ?_
    rw [hstores, State.performEach, List.foldl_append]
    rfl
  have hprev : s.StoresOf v := by
    rw [hv]
    exact State.performEach_storesOf hwf hu n ctx fun x hx => State.storesAtCommit_step hx
  have htag : v.storeTags ctx bs tag key = s.storeTags ctx bs tag key := by
    have hcap : v.filterCap ctx (Cap.ofBytes true (ofBytes bs)) = s.filterCap ctx (Cap.ofBytes true (ofBytes bs)) := by
      rcases hfilter with hpainted | hpre
      · rw [State.filterCap_of_unpainted (hprev.painted.trans hpainted), State.filterCap_of_unpainted hpainted]
      · have hnil : s.storesAtCommit ctx pre = [] := by
          rw [State.storesAtCommit, List.filter_eq_nil_iff.mpr fun x hx => by simpa using hpre x hx]
          rfl
        rw [hv, hnil]
        rfl
    rw [State.storeTags, hcap, State.storeTags]
  obtain ⟨hbytes, htags⟩ := State.storeGlobal_lands hprev.memWf hprev.updaters ctx bs tag hkind hspan
  rw [hprev.info, htag] at *
  refine ⟨fun j hj => ?_, fun hsorted halign hlen => ?_⟩
  · rw [State.readByte_of_stored hu', hbytes j hj]
  · rw [State.tagAt_of_stored hu']
    exact htags (hprev.tags hsorted) halign hlen

end

theorem State.storeTags_iff (s : State) (ctx : Nat) (bs : List Byte) (tag : Bool) (a : Nat) : s.storeTags ctx bs tag a = true ↔
    tag = true ∧ keepsTags a = true ∧ (s.filterCap ctx (Cap.ofBytes true (ofBytes bs))).tag = true := by
  rw [State.storeTags, Bool.and_eq_true, Bool.and_eq_true]
  tauto

/-- The stores of a commit and of direct writes, as R187 and R192 have them. -/
theorem storesLand (s : State) (n ctx : Nat) (as : List Action) (hwf : s.memWf) (hu : s.updaters = []) :
    let kid := (s.info ctx).keyId
    let lands := fun (u : State) (key : Nat) (bs : List Byte) (tag : Bool) =>
      keyKind key ≠ 6 → keyKind (key + bs.length) = keyKind key →
        (∀ j, j < bs.length → u.readByte kid (key + j) = bs.getD j 0) ∧
        (s.tags.Pairwise (· < ·) → key % 16 = 0 → bs.length = 16 →
          (u.tagAt key = true ↔ tag = true ∧ keepsTags key = true ∧ (s.filterCap ctx (Cap.ofBytes true (ofBytes bs))).tag = true))
    let u := s.performAll n ctx as
    u.memWf ∧
    (∀ a, (∀ va keys bs tag r, Action.store va keys bs tag ∈ as → r ∈ (s.storeKeys ctx va bs.length).getD keys →
      a < r.1 ∨ r.1 + r.2 ≤ a) → u.readByte kid a = s.readByte kid a) ∧
    (∀ pre post va keys key bs tag, as = pre ++ Action.store va keys bs tag :: post → (∀ a, a ∈ post → actionStep a ≠ 1) →
      (s.painted = [] ∨ ∀ a, a ∈ pre → actionStep a ≠ 1) →
      (s.storeKeys ctx va bs.length).getD keys = [(key, bs.length)] → lands u key bs tag) ∧
    (∀ va key bs tag, lands (s.perform n ctx (.store va [(key, bs.length)] bs tag)) key bs tag) := by
  refine ⟨s.performAll_memWf n ctx as hwf, fun a => State.performAll_outside hwf hu n ctx as, ?_, ?_⟩
  · rintro pre post va keys key bs tag rfl hpost hfilter hkeys hkind hspan
    simp only [← State.storeTags_iff]
    exact State.performAll_lands hwf hu n ctx hpost hfilter hkeys hkind hspan
  · intro va key bs tag hkind hspan
    simp only [← State.storeTags_iff]
    exact State.storeGlobal_lands hwf hu ctx bs tag hkind hspan

end Sys2Proof.Machine
end

section
/-! PROOFS. What commits and pins leave of the firings that are live and of the contexts that tiles have loaded (R187, R192). -/

namespace Sys2Proof.Machine

/-! ## Seats and firings together -/

/-- The issuing unit and the loaded contexts, and the firings of every context. -/
def State.roster (s : State) : (Unit_ × (Nat → Option Nat)) × (Nat → Nat → RegSet × RegSet × List (Nat × RegSet) × List Firing) :=
  (s.seats, s.firings)

theorem State.roster_of_tiles {s t : State} (h : t.tiles = s.tiles) (hcur : t.cur = s.cur) : t.roster = s.roster := by
  have hseats : t.seats = s.seats := by simp only [State.seats, State.tile, h, hcur]
  rw [State.roster, hseats, State.firings_of_tiles h, State.roster]

theorem State.roster_setTile {s : State} {n : Nat} {x : Tile} (hloaded : x.loaded = (s.tile n).loaded) (hctxs : x.ctxs = (s.tile n).ctxs) :
    (s.setTile n x).roster = s.roster := by
  rw [State.roster, State.setTile_seats hloaded, State.firings_setTile hctxs, State.roster]

theorem State.roster_setTctxOf {s : State} {n c : Nat} {x : TileCtx} (h : x.firings = (s.tctxOf n c).firings) :
    (s.setTctxOf n c x).roster = s.roster := by
  rw [State.roster, State.setTctxOf_seats, State.firings_setTctxOf h, State.roster]

@[simp] theorem State.rankReady_roster (s : State) (n c : Nat) : (s.rankReady n c).roster = s.roster := by
  rw [State.roster, State.rankReady_seats, State.rankReady_firings, State.roster]

theorem State.firings_of_roster {s t : State} (h : t.roster = s.roster) : t.firings = s.firings := congrArg Prod.snd h

theorem State.seats_of_roster {s t : State} (h : t.roster = s.roster) : t.seats = s.seats := congrArg Prod.fst h

/-- Steps that leave the tiles and the issuing unit. -/
def State.floorplan (s : State) : Map Tile × Unit_ := (s.tiles, s.cur)

theorem State.roster_of_floorplan {s t : State} (h : t.floorplan = s.floorplan) : t.roster = s.roster :=
  State.roster_of_tiles (congrArg Prod.fst h) (congrArg Prod.snd h)

@[simp] theorem State.cleanse_floorplan (s : State) (p : Nat → Bool) : (s.cleanse p).floorplan = s.floorplan := by
  unfold State.cleanse
  split <;> rfl

theorem State.rekeyLine_floorplan (s : State) (key line : Nat) : (s.rekeyLine key line).floorplan = s.floorplan := by
  by_cases h : s.otherKey key (line * 64) = true
  · simp only [State.rekeyLine_of_other h, State.floorplan]
  · simp only [State.rekeyLine_of_own h, State.floorplan]

theorem State.writeBytes_floorplan (s : State) (key a : Nat) (bs : List Byte) : (s.writeBytes key a bs).floorplan = s.floorplan := by
  unfold State.writeBytes
  split
  · rfl
  · refine (State.cleanse_floorplan (s.rekey key a bs.length) fun w =>
      decide (a ≤ memPlace w) && decide (memPlace w + codeWordSize w ≤ a + bs.length)).trans ?_
    unfold State.rekey
    split
    · exact foldl_keeps State.floorplan _ _ s fun t l => t.rekeyLine_floorplan key (l / 64)
    · rfl

theorem State.writePieces_floorplan (s : State) (key : Nat) (ps : List (Nat × Nat)) (bs : List Byte) :
    (s.writePieces key ps bs).floorplan = s.floorplan := by
  induction ps generalizing s bs with
  | nil => rfl
  | cons r ps ih => exact (ih _ _).trans (s.writeBytes_floorplan key r.1 (bs.take r.2))

theorem State.mergeTile_roster (s : State) (n : Nat) (line : Option Nat) : (s.mergeTile n line).roster = s.roster := by
  unfold State.mergeTile
  extract_lets t go
  split
  · rfl
  · refine (foldl_keeps State.roster _ _ _ fun u v => State.roster_of_floorplan (u.writeBytes_floorplan ..)).trans ?_
    exact State.roster_setTile rfl rfl

theorem State.mergeRanges_roster (s : State) (rs : List (Nat × Nat)) : (s.mergeRanges rs).roster = s.roster := by
  unfold State.mergeRanges
  extract_lets ts
  split
  · rfl
  · exact foldl_keeps State.roster _ _ s fun t a => foldl_keeps State.roster _ _ t fun u n => u.mergeTile_roster n _

theorem State.storeGlobal_roster (s : State) (ctx : Nat) (keys : List (Nat × Nat)) (bs : List Byte) (tag : Bool) :
    (s.storeGlobal ctx keys bs tag).roster = s.roster := by
  unfold State.storeGlobal
  extract_lets s0 s1
  have hnote (t : State) : (t.noteNarrowing keys).floorplan = t.floorplan := by
    unfold State.noteNarrowing
    extract_lets old
    split <;> rfl
  have hbefore : (if (s.info ctx).priv = .supervisor then s0.noteNarrowing keys else s0).floorplan = s0.floorplan := by
    split
    · exact hnote s0
    · rfl
  have hs1 : s1.roster = s.roster := (State.roster_of_floorplan ((State.writePieces_floorplan ..).trans hbefore)).trans (s.mergeRanges_roster keys)
  split
  · split
    · exact (State.roster_of_floorplan (s := s1) rfl).trans hs1
    · exact hs1
  · exact hs1

/-! ## Performing actions -/

theorem State.perform_roster (s : State) (n ctx : Nat) (x : Action) : (s.perform n ctx x).roster = s.roster := by
  have hentry (tag : Nat) (e : Entry) : ((s.setEntryOf n ctx tag e).rankReady n ctx).roster = s.roster := by
    rw [State.rankReady_roster]
    exact State.roster_setTctxOf rfl
  cases x with
  | store va keys bs tag => exact s.storeGlobal_roster ctx keys bs tag
  | send m => exact State.roster_of_floorplan rfl
  | setEn | pend | clearPend => exact hentry _ _
  | arm c join sv pay wid ts slot =>
    refine State.roster_of_floorplan (Eq.trans ?_ (s.cleanse_floorplan fun w => w == keyUnit (clusterOf n) c))
    simp only [State.perform, State.armCounter]
    split
    · split <;> rfl
    · rfl
  | join c ts =>
    refine State.roster_of_floorplan ?_
    simp only [State.perform, State.joinCounter]
    split
    · split <;> rfl
    · rfl

@[simp] theorem State.performAll_roster (s : State) (n ctx : Nat) (as : List Action) : (s.performAll n ctx as).roster = s.roster := by
  have heach (t : State) (l : List Action) : (t.performEach n ctx l).roster = t.roster :=
    foldl_keeps State.roster _ l t fun u x => u.perform_roster n ctx x
  unfold State.performAll
  extract_lets stores s1
  rw [heach, heach]
  exact (State.roster_of_floorplan (State.cleanse_floorplan ..)).trans (heach s stores)

/-! ## Copies that settle -/

@[simp] theorem State.settleCopies_roster (s : State) (n ctx : Nat) (id : FiringId) (fate : PushFate) (detach : Bool) :
    (s.settleCopies n ctx id fate detach).roster = s.roster := by
  unfold State.settleCopies
  extract_lets t s1 x mine s2
  have hs2 : s2.roster = s.roster := by
    refine (State.roster_setTctxOf ?_).trans (State.roster_setTile (s := s) (n := n) ?_ ?_) <;> rfl
  split
  · refine (foldl_keeps State.roster _ mine s2 ?_).trans hs2
    exact fun u q => State.roster_of_floorplan rfl
  · exact hs2

/-- The tags and the partitions. -/
def State.domain (s : State) : List Nat × Map Partition := (s.tags, s.parts)

@[simp] theorem State.settleCopies_domain (s : State) (n ctx : Nat) (id : FiringId) (fate : PushFate) (detach : Bool) :
    (s.settleCopies n ctx id fate detach).domain = s.domain := by
  unfold State.settleCopies
  extract_lets t s1 x mine s2
  split
  · refine (foldl_keeps State.domain _ mine s2 ?_).trans rfl
    exact fun u q => rfl
  · rfl

@[simp] theorem State.note_domain (s : State) (n c : Nat) (f : Firing) (k : FireEvent) : (s.note n c f k).domain = s.domain := by
  unfold State.note
  split <;> rfl

/-! ## A commit (R187, R381, R388) -/

/-- The committed firing taken out of its place. -/
theorem TileCtx.removeFiring_regs (x : TileCtx) (serial : Nat) (k : SetId) :
    (x.removeFiring serial).regs k = if keepsSerial serial (x.regs k) then x.regs k else (x.regs k).free := by
  cases k <;> rfl

theorem State.comparePair_of_none {s : State} {l : LiveFiring} (h : s.partner l.tile = none) : s.comparePair l = (s, true) := by
  simp only [State.comparePair, h]

section
variable {s : State} {l : LiveFiring}

theorem State.commitBuffer_poison {key : Nat} (h : s.taskPoison l = some key) : s.commitBuffer l = (s.rerunFor l (addrOf key) key, false) := by
  simp only [State.commitBuffer, h]

variable (hclean : s.taskPoison l = none)
include hclean

theorem State.commitBuffer_aborts (h : (∃ g, g ∈ s.readers (quadOf l.tile) (s.info l.ctx).asid l.id (writeLines l.f.actions) ∧
    g.f.earlier l.f = true) ∨ s.storesReach l.ctx l.f.actions = false) : s.commitBuffer l = (s.abort l false, false) := by
  have hif : ((s.readers (quadOf l.tile) (s.info l.ctx).asid l.id (writeLines l.f.actions)).any (fun g => g.f.earlier l.f) ||
      !s.storesReach l.ctx l.f.actions) = true := by
    simpa only [Bool.or_eq_true, List.any_eq_true, Bool.not_eq_true'] using h
  simp only [State.commitBuffer, hclean, hif, if_true]

theorem State.commitBuffer_performs (hlater : ∀ g, g ∈ s.readers (quadOf l.tile) (s.info l.ctx).asid l.id (writeLines l.f.actions) →
    g.f.earlier l.f = false) (hreach : s.storesReach l.ctx l.f.actions = true) : s.commitBuffer l =
      (((s.abortReaders (quadOf l.tile) (s.readers (quadOf l.tile) (s.info l.ctx).asid l.id (writeLines l.f.actions))).performAll l.tile l.ctx
        l.f.actions).raiseFloor (quadOf l.tile) l.f.ts, true) := by
  have hany : (s.readers (quadOf l.tile) (s.info l.ctx).asid l.id (writeLines l.f.actions)).any (fun g => g.f.earlier l.f) = false :=
    List.any_eq_false.mpr fun g hg => by simp [hlater g hg]
  simp only [State.commitBuffer, hclean, hany, hreach, Bool.not_true, Bool.or_self, Bool.false_eq_true, if_false]

/-- Where no reader meets the buffer's lines. -/
theorem State.commitBuffer_unread (hnone : s.readers (quadOf l.tile) (s.info l.ctx).asid l.id (writeLines l.f.actions) = [])
    (hreach : s.storesReach l.ctx l.f.actions = true) :
    s.commitBuffer l = ((s.performAll l.tile l.ctx l.f.actions).raiseFloor (quadOf l.tile) l.f.ts, true) := by
  rw [State.commitBuffer_performs hclean (by simp [hnone]) hreach, hnone]
  rfl

end

/-- What follows the performing of a committed firing's buffer. -/
def State.afterCommit (s : State) (l : LiveFiring) : State :=
  (((s.note l.tile l.ctx l.f .committed).setTctxOf l.tile l.ctx ((s.tctxOf l.tile l.ctx).removeFiring l.f.serial)).settleCopies l.tile l.ctx
    l.id .settled false).freeGroups

theorem State.afterCommit_kept (s : State) (l : LiveFiring) : (s.afterCommit l).mem = s.mem ∧ (s.afterCommit l).domain = s.domain := by
  constructor
  · simp [State.afterCommit]
  · have hsettle : (s.afterCommit l).domain = ((s.note l.tile l.ctx l.f .committed).setTctxOf l.tile l.ctx
      ((s.tctxOf l.tile l.ctx).removeFiring l.f.serial)).domain := State.settleCopies_domain ..
    exact hsettle.trans (s.note_domain ..)

theorem State.afterCommit_firings (s : State) (l : LiveFiring) (j d : Nat) : (s.afterCommit l).firings j d =
    if j = l.tile ∧ d = l.ctx then ((s.tctxOf l.tile l.ctx).removeFiring l.f.serial).firings else s.firings j d := by
  have hsettle : (s.afterCommit l).firings = ((s.note l.tile l.ctx l.f .committed).setTctxOf l.tile l.ctx
      ((s.tctxOf l.tile l.ctx).removeFiring l.f.serial)).firings :=
    (State.freeGroups_firings _).trans (State.firings_of_roster (State.settleCopies_roster ..))
  rw [hsettle, State.firings, State.tctxOf_setTctxOf_eq, State.tctxOf_of_tiles (s.note_tiles ..)]
  split <;> rfl

theorem State.commitFiring_commits {s u : State} {l : LiveFiring} (hpair : s.partner l.tile = none) (h : s.commitBuffer l = (u, true)) :
    s.commitFiring l = u.afterCommit l := by
  simp only [State.commitFiring, State.comparePair_of_none hpair, h]
  rfl

theorem State.commitFiring_aborts {s u : State} {l : LiveFiring} (hpair : s.partner l.tile = none) (h : s.commitBuffer l = (u, false)) :
    s.commitFiring l = u := by
  simp only [State.commitFiring, State.comparePair_of_none hpair, h]

theorem commit_of_live {s : State} {l : LiveFiring} (hlive : s.liveAt l.tile l.f.serial = some l) (hmay : s.mayCommit l = true)
    (hterm : l.f.term = none) : execCommit l.tile l.f.serial s = .next (s.commitFiring l) := by
  simp only [execCommit, hlive, hmay, hterm, if_true]

end Sys2Proof.Machine
end

section
/-! PROOFS. Aborts make no firing live (R171, R188, R189): what is live after them was live before, and the firing itself is gone. -/

namespace Sys2Proof.Machine

/-! ## Live firings -/

theorem TileCtx.live_of_firings {x y : TileCtx} (h : x.firings = y.firings) (n c : Nat) : x.live n c = y.live n c := by
  simp only [TileCtx.firings, Prod.mk.injEq] at h
  obtain ⟨hnormal, hurgent, hsaved, hended⟩ := h
  simp only [TileCtx.live, hnormal, hurgent, hsaved, hended]

theorem mem_optFiring {n c : Nat} {p : Place} {o : Option Firing} {l : LiveFiring} :
    l ∈ optFiring n c p o ↔ ∃ f, o = some f ∧ l = { tile := n, ctx := c, place := p, f := f } := by
  cases o with
  | none => simp [optFiring]
  | some f => simp [optFiring]

/-- A live firing is of the tile and the context that list it. -/
theorem TileCtx.tile_of_live {x : TileCtx} {n c : Nat} {l : LiveFiring} (h : l ∈ x.live n c) : l.tile = n ∧ l.ctx = c := by
  simp only [TileCtx.live, List.mem_append, mem_optFiring, List.mem_flatMap, List.mem_map] at h
  rcases h with ((⟨f, -, rfl⟩ | ⟨f, -, rfl⟩) | ⟨r, -, f, -, rfl⟩) | ⟨f, -, rfl⟩ <;> exact ⟨rfl, rfl⟩

/-- The firing of a register set is the live one of that place. -/
theorem TileCtx.live_set_iff {x : TileCtx} {n c : Nat} {k : SetId} {f : Firing} (hk : k ≠ .keeper) :
    { tile := n, ctx := c, place := .set k, f := f } ∈ x.live n c ↔ (x.regs k).fir = some f := by
  simp only [TileCtx.live, List.mem_append, mem_optFiring, List.mem_flatMap, List.mem_map, LiveFiring.mk.injEq, true_and, reduceCtorEq,
    Place.set.injEq, false_and, and_false, exists_false, or_false]
  cases k with
  | normal => simp [TileCtx.regs]
  | urgent => simp [TileCtx.regs]
  | keeper => contradiction

theorem State.mem_live_iff {s : State} {p : Nat} {l : LiveFiring} : l ∈ s.live p ↔
    ∃ q, q ∈ s.tiles ∧ quadOf q.1 = p ∧ ∃ r, r ∈ q.2.ctxs ∧ l ∈ r.2.live q.1 r.1 := by
  simp only [State.live, Tile.live, List.mem_flatMap]
  refine exists_congr fun q => and_congr_right fun _ => ?_
  split
  next h => simp [h, List.mem_flatMap]
  next h => simp [h]

theorem State.quad_of_live {s : State} {p : Nat} {l : LiveFiring} (h : l ∈ s.live p) : quadOf l.tile = p := by
  obtain ⟨q, -, hp, r, -, hl⟩ := State.mem_live_iff.mp h
  rw [(TileCtx.tile_of_live hl).1, hp]

/-- What is live in a context on a tile is live in the tile's partition. -/
theorem State.live_of_tctxOf {s : State} {n c : Nat} {l : LiveFiring} (h : l ∈ (s.tctxOf n c).live n c) : l ∈ s.live (quadOf n) := by
  simp only [State.tctxOf, Tile.tctx, State.tile, Map.get] at h
  cases ht : Map.get? s.tiles n with
  | none =>
    rw [ht] at h
    simp [TileCtx.live, Tile.reset, TileCtx.reset, RegSet.reset, optFiring] at h
  | some t =>
    rw [ht] at h
    dsimp only at h
    cases hx : Map.get? t.ctxs c with
    | none =>
      rw [hx] at h
      simp [TileCtx.live, TileCtx.reset, RegSet.reset, optFiring] at h
    | some x =>
      rw [hx] at h
      exact State.mem_live_iff.mpr ⟨_, Map.mem_of_get?_eq_some ht, rfl, _, Map.mem_of_get?_eq_some hx, h⟩

/-! ## States in which no further firing is live -/

/-- Whatever is live in a later state was live before. -/
structure State.Fades (s t : State) : Prop where
  live : ∀ p l, l ∈ t.live p → l ∈ s.live p
  tctxOf : ∀ j d n c l, l ∈ (t.tctxOf j d).live n c → l ∈ (s.tctxOf j d).live n c

namespace State.Fades

theorem refl (s : State) : s.Fades s := ⟨fun _ _ => id, fun _ _ _ _ _ => id⟩

theorem trans {s t u : State} (h : s.Fades t) (h' : t.Fades u) : s.Fades u :=
  ⟨fun p l => h.live p l ∘ h'.live p l, fun j d n c l => h.tctxOf j d n c l ∘ h'.tctxOf j d n c l⟩

theorem foldl {α : Type} {f : State → α → State} (hf : ∀ (t : State) a, t.Fades (f t a)) (l : List α) (s : State) : s.Fades (l.foldl f s) := by
  induction l generalizing s with
  | nil => exact refl s
  | cons a l ih => exact (hf s a).trans (ih (f s a))

theorem of_tiles {s t : State} (h : t.tiles = s.tiles) : s.Fades t := by
  refine ⟨fun p l hl => ?_, fun j d n c l hl => ?_⟩
  · rwa [State.live, h] at hl
  · rwa [State.tctxOf_of_tiles h] at hl

/-- A tile written back with its contexts. -/
theorem setTile {s : State} {n : Nat} {t : Tile} (h : t.ctxs = (s.tile n).ctxs) : s.Fades (s.setTile n t) := by
  refine ⟨fun p l hl => ?_, fun j d n' c l hl => by rwa [State.tctxOf_setTile h] at hl⟩
  obtain ⟨q, hq, hp, r, hr, hl⟩ := State.mem_live_iff.mp hl
  rcases Map.mem_of_mem_set hq with rfl | hq
  · dsimp only at hr hl hp
    rw [h, State.tile, Map.get] at hr
    cases ht : Map.get? s.tiles n with
    | none => simp [ht, Tile.reset] at hr
    | some u =>
      rw [ht] at hr
      exact State.mem_live_iff.mpr ⟨_, Map.mem_of_get?_eq_some ht, hp, r, hr, hl⟩
  · exact State.mem_live_iff.mpr ⟨q, hq, hp, r, hr, hl⟩

/-- A context on a tile in which no further firing is live. -/
theorem setTctxOf {s : State} {n c : Nat} {x : TileCtx} (h : ∀ j d l, l ∈ x.live j d → l ∈ (s.tctxOf n c).live j d) :
    s.Fades (s.setTctxOf n c x) := by
  refine ⟨fun p l hl => ?_, fun j d n' c' l hl => ?_⟩
  · obtain ⟨q, hq, hp, r, hr, hl⟩ := State.mem_live_iff.mp hl
    rcases Map.mem_of_mem_set hq with rfl | hq
    · dsimp only at hr hl hp
      rcases Map.mem_of_mem_set hr with rfl | hr
      · rw [← hp]
        exact State.live_of_tctxOf (h _ _ _ hl)
      · rw [State.tile, Map.get] at hr
        cases ht : Map.get? s.tiles n with
        | none => simp [ht, Tile.reset] at hr
        | some u =>
          rw [ht] at hr
          exact State.mem_live_iff.mpr ⟨_, Map.mem_of_get?_eq_some ht, hp, r, hr, hl⟩
    · exact State.mem_live_iff.mpr ⟨q, hq, hp, r, hr, hl⟩
  · rw [State.tctxOf_setTctxOf_eq] at hl
    split at hl
    next hjd =>
      obtain ⟨rfl, rfl⟩ := hjd
      exact h _ _ _ hl
    next => exact hl

theorem setTctxOf_of_firings {s : State} {n c : Nat} {x : TileCtx} (h : x.firings = (s.tctxOf n c).firings) : s.Fades (s.setTctxOf n c x) :=
  setTctxOf fun j d l hl => by rwa [TileCtx.live_of_firings h] at hl

theorem rankReady (s : State) (n c : Nat) : s.Fades (s.rankReady n c) := by
  obtain ⟨es, ctr, h, -⟩ := s.rankReady_spec n c
  rw [h]
  refine (setTctxOf_of_firings (s := s) (n := n) (c := c) (x := { s.tctxOf n c with entries := es }) ?_).trans (setTile ?_)
  · rfl
  · rw [State.tile_setTctxOf]

theorem settleCopies_aborted (s : State) (n ctx : Nat) (id : FiringId) (detach : Bool) : s.Fades (s.settleCopies n ctx id .aborted detach) := by
  rw [State.settleCopies, if_neg nofun]
  refine Fades.trans (setTile (s := s) (n := n) ?_) (setTctxOf_of_firings ?_) <;> rfl

/-- A firing set is none once it was none. -/
theorem fir_none {s t : State} (h : s.Fades t) {j d : Nat} {k : SetId} (hk : k ≠ .keeper) (hnone : ((s.tctxOf j d).regs k).fir = none) :
    ((t.tctxOf j d).regs k).fir = none := by
  cases hf : ((t.tctxOf j d).regs k).fir with
  | none => rfl
  | some f =>
    have hl := (TileCtx.live_set_iff hk).mp (h.tctxOf j d 0 0 _ ((TileCtx.live_set_iff hk).mpr hf))
    rw [hnone] at hl
    contradiction

end State.Fades

/-! ## An abort (R189) -/

theorem TileCtx.removeFiring_live {x : TileCtx} {serial n c : Nat} {l : LiveFiring} (h : l ∈ (x.removeFiring serial).live n c) :
    l ∈ x.live n c := by
  have hset {r : RegSet} {k : SetId} (hl : l ∈ optFiring n c (.set k) (if keepsSerial serial r then r else r.free).fir) :
      l ∈ optFiring n c (.set k) r.fir := by
    split at hl
    · exact hl
    · simp [RegSet.free, RegSet.freed, RegSet.reset, optFiring] at hl
  simp only [TileCtx.live, TileCtx.removeFiring, List.mem_append, List.mem_flatMap, List.mem_map, List.mem_filter] at h ⊢
  rcases h with ((h | h) | ⟨r, ⟨hr, -⟩, h⟩) | ⟨f, ⟨hf, -⟩, h⟩
  · exact .inl (.inl (.inl (hset h)))
  · exact .inl (.inl (.inr (hset h)))
  · exact .inl (.inr ⟨r, hr, h⟩)
  · exact .inr ⟨f, hf, h⟩

/-- The context that an abort leaves, before its copies settle. -/
def State.abortedCtx (s : State) (l : LiveFiring) (rerun recover : Bool) : TileCtx :=
  let x := (s.tctxOf l.tile l.ctx).removeFiring l.f.serial
  let x1 := match l.f.origin.pend, l.f.origin.consumed with
    | some (ts, wid, slot), [] =>
      let e := x.entry l.f.tag
      x.setEntry l.f.tag { e with pend := true, pts := ts, pwid := wid, pslot := slot }
    | _, _ => x
  if rerun then
    { x1 with reruns := x1.reruns ++ [{ tag := l.f.tag, rank := (s.tile l.tile).readyCtr, firing := l.f.forRerun recover }] }
  else x1.requeue l.f l.f.holds

theorem State.abortedCtx_firings (s : State) (l : LiveFiring) (rerun recover : Bool) :
    (s.abortedCtx l rerun recover).firings = ((s.tctxOf l.tile l.ctx).removeFiring l.f.serial).firings := by
  unfold State.abortedCtx
  extract_lets x e x1
  have hx1 : x1.firings = x.firings := by
    simp only [x1]
    split <;> rfl
  split
  · exact hx1
  · exact (TileCtx.requeue_firings ..).trans hx1

/-- The state in which an abort puts that context back. -/
def State.abortClears (s : State) (l : LiveFiring) : State :=
  ((s.dropLines l).leaveSweeps [l.id]).setTile l.tile { s.tile l.tile with readyCtr := (s.tile l.tile).readyCtr + 1 }

theorem State.dropLines_tiles (s : State) (l : LiveFiring) : (s.dropLines l).tiles = s.tiles := by
  unfold State.dropLines
  split <;> rfl

theorem State.abortOne_eq (s : State) (l : LiveFiring) (rerun recover : Bool) : s.abortOne l rerun recover =
    ((((s.abortClears l).setTctxOf l.tile l.ctx (s.abortedCtx l rerun recover)).settleCopies l.tile l.ctx l.id .aborted true).rankReady
      l.tile l.ctx).note l.tile l.ctx l.f .aborted := rfl

theorem State.abortClears_tctxOf (s : State) (l : LiveFiring) (j d : Nat) : (s.abortClears l).tctxOf j d = s.tctxOf j d := by
  have htiles : ((s.dropLines l).leaveSweeps [l.id]).tiles = s.tiles := (State.leaveSweeps_tiles ..).trans (s.dropLines_tiles l)
  unfold State.abortClears
  rw [State.tctxOf_setTile, State.tctxOf_of_tiles htiles]
  rw [State.tile_of_tiles htiles]

theorem State.Fades.abortClears (s : State) (l : LiveFiring) : s.Fades (s.abortClears l) := by
  have htiles : ((s.dropLines l).leaveSweeps [l.id]).tiles = s.tiles := (State.leaveSweeps_tiles ..).trans (s.dropLines_tiles l)
  refine (State.Fades.of_tiles htiles).trans (State.Fades.setTile ?_)
  rw [State.tile_of_tiles htiles]

theorem State.Fades.abortOne (s : State) (l : LiveFiring) (rerun recover : Bool) : s.Fades (s.abortOne l rerun recover) := by
  rw [State.abortOne_eq]
  refine (((State.Fades.abortClears s l).trans (State.Fades.setTctxOf fun j d g hg => ?_)).trans (State.Fades.settleCopies_aborted ..)).trans
    ((State.Fades.rankReady ..).trans (State.Fades.of_tiles (State.note_tiles ..)))
  rw [TileCtx.live_of_firings (s.abortedCtx_firings l rerun recover)] at hg
  rw [State.abortClears_tctxOf]
  exact TileCtx.removeFiring_live hg

/-- What an abort leaves of its context's firings. -/
theorem State.abortOne_firings (s : State) (l : LiveFiring) (rerun recover : Bool) :
    (s.abortOne l rerun recover).firings l.tile l.ctx = ((s.tctxOf l.tile l.ctx).removeFiring l.f.serial).firings := by
  rw [State.abortOne_eq, State.note_firings, State.rankReady_firings, State.firings_of_roster (State.settleCopies_roster ..), State.firings,
    State.tctxOf_setTctxOf, State.abortedCtx_firings]

/-! ## Forks (R171) -/

theorem Map.mem_mapKV {α : Type} {f : Nat → α → α} {m : Map α} {q : Nat × α} (h : q ∈ Map.mapKV f m) :
    ∃ x, (q.1, x) ∈ m ∧ q.2 = f q.1 x := by
  induction m with
  | nil => cases h
  | cons e m ih =>
    obtain ⟨k, x⟩ := e
    rcases List.mem_cons.mp h with rfl | h
    · exact ⟨x, List.mem_cons_self, rfl⟩
    · obtain ⟨y, hy, hq⟩ := ih h
      exact ⟨y, List.mem_cons_of_mem _ hy, hq⟩

theorem State.dropTasks_tctxOf (s : State) (id : FiringId) (n c : Nat) : (s.dropTasks id).tctxOf n c = s.tctxOf n c := by
  simp only [State.dropTasks, State.tctxOf, State.tile, Map.get, Map.get?_mapKV]
  cases Map.get? s.tiles n <;> rfl

theorem State.Fades.dropTasks (s : State) (id : FiringId) : s.Fades (s.dropTasks id) := by
  refine ⟨fun p l hl => ?_, fun j d n c l hl => by rwa [State.dropTasks_tctxOf] at hl⟩
  obtain ⟨q, hq, hp, r, hr, hl⟩ := State.mem_live_iff.mp hl
  obtain ⟨t, ht, hqt⟩ := Map.mem_mapKV hq
  rw [hqt] at hr
  exact State.mem_live_iff.mpr ⟨_, ht, hp, r, hr, hl⟩

@[simp] theorem TileCtx.dropReruns_firings (x : TileCtx) (id : FiringId) : (x.dropReruns id).firings = x.firings := by
  unfold TileCtx.dropReruns
  extract_lets mine
  split
  · rfl
  · refine Eq.trans ?_ (rfl : ({ x with reruns := x.reruns.filter (fun r => !isChild id r.firing) } : TileCtx).firings = x.firings)
    generalize ({ x with reruns := x.reruns.filter (fun r => !isChild id r.firing) } : TileCtx) = y
    induction mine generalizing y with
    | nil => rfl
    | cons r mine ih => exact (ih _).trans (TileCtx.requeue_firings ..)

/-- The reruns of one context on one tile dropped. -/
def State.dropRerunsAt (s : State) (id : FiringId) (h : Nat × Nat) : State :=
  (s.setTctxOf h.1 h.2 ((s.tctxOf h.1 h.2).dropReruns id)).rankReady h.1 h.2

theorem State.dropReruns_eq (s : State) (p : Nat) (id : FiringId) :
    ∃ hit : List (Nat × Nat), s.dropReruns p id = hit.foldl (fun s h => s.dropRerunsAt id h) s :=
  ⟨_, rfl⟩

theorem State.dropRerunsAt_roster (s : State) (id : FiringId) (h : Nat × Nat) : (s.dropRerunsAt id h).roster = s.roster :=
  (State.rankReady_roster ..).trans (State.roster_setTctxOf (TileCtx.dropReruns_firings ..))

@[simp] theorem State.dropReruns_roster (s : State) (p : Nat) (id : FiringId) : (s.dropReruns p id).roster = s.roster := by
  obtain ⟨hit, h⟩ := s.dropReruns_eq p id
  rw [h]
  exact foldl_keeps State.roster _ hit s fun t h => t.dropRerunsAt_roster id h

theorem State.Fades.dropReruns (s : State) (p : Nat) (id : FiringId) : s.Fades (s.dropReruns p id) := by
  obtain ⟨hit, h⟩ := s.dropReruns_eq p id
  rw [h]
  exact State.Fades.foldl (fun t h => (State.Fades.setTctxOf_of_firings (TileCtx.dropReruns_firings ..)).trans (State.Fades.rankReady ..)) hit s

theorem State.Fades.abortForks (fuel : Nat) (s : State) (id : FiringId) : s.Fades (State.abortForks fuel s id) := by
  induction fuel generalizing s id with
  | zero => exact State.Fades.refl s
  | succ fuel ih =>
    exact ((State.Fades.dropTasks s id).trans (State.Fades.dropReruns _ _ id)).trans
      (State.Fades.foldl (fun t l => (State.Fades.abortOne t l false false).trans (ih _ l.id)) _ _)

/-- A firing with no live child: its forks are the tasks in deques and the reruns owed. -/
theorem State.abortForks_of_childless {s : State} {id : FiringId} (h : ∀ g, g ∈ s.live (quadOf id.tile) → isChild id g.f = false) (fuel : Nat) :
    State.abortForks (fuel + 1) s id = (s.dropTasks id).dropReruns (quadOf id.tile) id := by
  have hfades := (State.Fades.dropTasks s id).trans (State.Fades.dropReruns _ (quadOf id.tile) id)
  have hnone : (((s.dropTasks id).dropReruns (quadOf id.tile) id).live (quadOf id.tile)).filter (fun l => isChild id l.f && !l.f.pinned) = [] :=
    List.filter_eq_nil_iff.mpr fun g hg => by simp [h g (hfades.live _ g hg)]
  rw [State.abortForks, hnone]
  rfl

theorem State.Fades.abort (s : State) (l : LiveFiring) (recover : Bool) : s.Fades (s.abort l recover) :=
  (State.Fades.abortOne s l true recover).trans (State.Fades.abortForks ..)

/-- The set of an aborted firing has none. -/
theorem State.abort_frees (s : State) (l : LiveFiring) (recover : Bool) {k : SetId} (hk : k ≠ .keeper)
    (hf : ((s.tctxOf l.tile l.ctx).regs k).fir = some l.f) : (((s.abort l recover).tctxOf l.tile l.ctx).regs k).fir = none := by
  refine (State.Fades.abortForks (s.generations (quadOf l.tile)) (s.abortOne l true recover) l.id).fir_none hk ?_
  rw [TileCtx.regs_of_firings (s.abortOne_firings l true recover), TileCtx.removeFiring_regs, if_neg (by simp [keepsSerial, hf])]
  rfl

/-! ## The readers of a write (R188) -/

/-- One turn of a writer's aborts: a reader that is still live is aborted. -/
def State.abortReader (s : State) (p : Nat) (l : LiveFiring) : State :=
  match (s.live p).find? (fun g => g.id.same l.id) with
  | some g => s.abort g false
  | none => s

theorem State.abortReaders_cons (s : State) (p : Nat) (l : LiveFiring) (ls : List LiveFiring) :
    s.abortReaders p (l :: ls) = (s.abortReader p l).abortReaders p ls := rfl

theorem State.Fades.abortReader (s : State) (p : Nat) (l : LiveFiring) : s.Fades (s.abortReader p l) := by
  unfold State.abortReader
  split
  · exact State.Fades.abort ..
  · exact State.Fades.refl s

theorem State.Fades.abortReaders (s : State) (p : Nat) (ls : List LiveFiring) : s.Fades (s.abortReaders p ls) := by
  induction ls generalizing s with
  | nil => exact State.Fades.refl s
  | cons l ls ih => exact s.abortReaders_cons p l ls ▸ (State.Fades.abortReader s p l).trans (ih _)

theorem FiringId.same_comm (a b : FiringId) : a.same b = b.same a := by
  simp only [FiringId.same, BEq.comm]

/-- Live firings of a partition that are distinct are told by their identifiers. -/
theorem State.live_eq_of_same {s : State} {p : Nat} (h : (s.live p).Pairwise (fun a b => a.id.same b.id = false)) {a b : LiveFiring}
    (ha : a ∈ s.live p) (hb : b ∈ s.live p) (hsame : a.id.same b.id = true) : a = b := by
  by_contra hne
  have hsym : Std.Symm (fun a b : LiveFiring => a.id.same b.id = false) := ⟨fun a b h => (FiringId.same_comm b.id a.id).trans h⟩
  exact Bool.false_ne_true ((h.forall ha hb hne).symm.trans hsame)

section
variable {s : State} {p : Nat} (hpair : (s.live p).Pairwise (fun a b => a.id.same b.id = false)) {g : LiveFiring} (hg : g ∈ s.live p)
  {k : SetId} (hk : k ≠ .keeper) (hf : ((s.tctxOf g.tile g.ctx).regs k).fir = some g.f)
include hpair hg hk hf

/-- At a reader's turn its set has no firing any more, or loses it. -/
theorem State.abortReader_frees {w : State} (hw : s.Fades w) : (((w.abortReader p g).tctxOf g.tile g.ctx).regs k).fir = none := by
  obtain ⟨l, hl⟩ : ∃ l : LiveFiring, l = { tile := g.tile, ctx := g.ctx, place := .set k, f := g.f } := ⟨_, rfl⟩
  have hlive {u : State} (hu : ((u.tctxOf g.tile g.ctx).regs k).fir = some g.f) : l ∈ u.live p := by
    rw [hl, ← State.quad_of_live hg]
    exact State.live_of_tctxOf ((TileCtx.live_set_iff hk).mpr hu)
  have hsame : l.id.same g.id = true := by simp [hl, FiringId.same, LiveFiring.id]
  cases hnow : ((w.tctxOf g.tile g.ctx).regs k).fir with
  | none => exact (State.Fades.abortReader w p g).fir_none hk hnow
  | some f =>
    have hgf : f = g.f := by
      have hold := (TileCtx.live_set_iff hk).mp (hw.tctxOf g.tile g.ctx 0 0 _ ((TileCtx.live_set_iff hk).mpr hnow))
      exact Option.some.inj (hold.symm.trans hf)
    subst hgf
    cases hfind : (w.live p).find? (fun a => a.id.same g.id) with
    | none => exact absurd hsame (List.find?_eq_none.mp hfind l (hlive hnow))
    | some a =>
      have hsame_a : a.id.same g.id = true := by simpa using List.find?_some hfind
      have ha := State.live_eq_of_same hpair (hw.live p a (List.mem_of_find?_eq_some hfind)) hg hsame_a
      subst ha
      simp only [State.abortReader, hfind]
      exact w.abort_frees a false hk hnow

/-- Every reader on a register set loses it. -/
theorem State.abortReaders_frees {w : State} (hw : s.Fades w) {ls : List LiveFiring} (hin : g ∈ ls) :
    (((w.abortReaders p ls).tctxOf g.tile g.ctx).regs k).fir = none := by
  induction ls generalizing w with
  | nil => cases hin
  | cons h ls ih =>
    rw [State.abortReaders_cons]
    rcases List.mem_cons.mp hin with rfl | hin
    · exact (State.Fades.abortReaders _ p ls).fir_none hk (State.abortReader_frees hpair hg hk hf hw)
    · exact ih (hw.trans (State.Fades.abortReader w p h)) hin

end

end Sys2Proof.Machine
end

section
/-! PROOFS. The rerun that an abort leaves owed (R163, R189), pins (R192), terminal faults (R267) and the horizon (R185, R186). -/

namespace Sys2Proof.Machine

/-! ## Firings, reruns and entries of one context on one tile -/

/-- The firings, the reruns owed, and the entries but for their places in the order of readiness. -/
def TileCtx.workings (x : TileCtx) : (RegSet × RegSet × List (Nat × RegSet) × List Firing) × List Rerun × (Nat → Entry) :=
  (x.firings, x.reruns, fun tag => (x.entry tag).unranked)

section
variable {x y : TileCtx} (h : x.workings = y.workings)
include h

theorem TileCtx.firings_of_workings : x.firings = y.firings := congrArg Prod.fst h

theorem TileCtx.reruns_of_workings : x.reruns = y.reruns := congrArg (fun w => w.2.1) h

theorem TileCtx.queue_of_workings (tag : Nat) : (x.entry tag).queue = (y.entry tag).queue := congrArg (fun w => (w.2.2 tag).queue) h

theorem TileCtx.returned_of_workings : x.returned = y.returned := by
  rw [TileCtx.returned, TileCtx.reruns_of_workings h, TileCtx.live_of_firings (TileCtx.firings_of_workings h), TileCtx.returned]

end

def State.workings (s : State) (n c : Nat) : (RegSet × RegSet × List (Nat × RegSet) × List Firing) × List Rerun × (Nat → Entry) :=
  (s.tctxOf n c).workings

theorem State.workings_setTctxOf {s : State} {n c : Nat} {x : TileCtx} (h : x.workings = (s.tctxOf n c).workings) :
    (s.setTctxOf n c x).workings = s.workings := by
  funext j d
  rw [State.workings, State.tctxOf_setTctxOf_eq]
  split
  next hjd =>
    obtain ⟨rfl, rfl⟩ := hjd
    exact h
  next => rfl

theorem State.rankReady_workings (s : State) (n c : Nat) : (s.rankReady n c).workings = s.workings := by
  funext j d
  obtain ⟨es, h, hget⟩ := s.tctxOf_rankReady n c j d
  have hentries : (fun tag => (({ s.tctxOf j d with entries := es } : TileCtx).entry tag).unranked) =
      fun tag => ((s.tctxOf j d).entry tag).unranked := funext fun tag => by
    obtain ⟨r, hr⟩ := hget tag
    exact (congrArg Entry.unranked hr).trans rfl
  rw [State.workings, h]
  exact congrArg (fun g => ((s.tctxOf j d).firings, (s.tctxOf j d).reruns, g)) hentries

theorem State.settleCopies_aborted_workings (s : State) (n ctx : Nat) (id : FiringId) (detach : Bool) :
    (s.settleCopies n ctx id .aborted detach).workings = s.workings := by
  rw [State.settleCopies, if_neg nofun]
  refine (State.workings_setTctxOf ?_).trans (funext fun j => funext fun d => congrArg TileCtx.workings (State.tctxOf_setTile ?_ j d)) <;> rfl

/-! ## The rerun that an abort leaves (R163, R189) -/

theorem State.abortOne_workings (s : State) (l : LiveFiring) (rerun recover : Bool) :
    (s.abortOne l rerun recover).workings l.tile l.ctx = (s.abortedCtx l rerun recover).workings := by
  rw [State.abortOne_eq, State.workings, State.tctxOf_of_tiles (State.note_tiles ..)]
  change State.workings _ _ _ = _
  rw [State.rankReady_workings, State.settleCopies_aborted_workings, State.workings, State.tctxOf_setTctxOf]

theorem TileCtx.dropReruns_of_childless {x : TileCtx} {id : FiringId} (h : ∀ r, r ∈ x.reruns → isChild id r.firing = false) :
    x.dropReruns id = x := by
  have hnone : x.reruns.filter (fun r => isChild id r.firing) = [] := List.filter_eq_nil_iff.mpr fun r hr => by simp [h r hr]
  simp [TileCtx.dropReruns, hnone]

/-- A context that owes no rerun of a child is as it was. -/
theorem State.dropReruns_workings {s : State} {n c : Nat} {id : FiringId} (h : ∀ r, r ∈ (s.tctxOf n c).reruns → isChild id r.firing = false)
    (p : Nat) : (s.dropReruns p id).workings n c = s.workings n c := by
  have hstep {t : State} (ht : ∀ r, r ∈ (t.tctxOf n c).reruns → isChild id r.firing = false) (q : Nat × Nat) :
      (t.dropRerunsAt id q).workings n c = t.workings n c := by
    rw [State.dropRerunsAt, State.rankReady_workings, State.workings, State.tctxOf_setTctxOf_eq]
    split
    next hq =>
      obtain ⟨hn, hc⟩ := hq
      rw [← hn, ← hc, TileCtx.dropReruns_of_childless ht, State.workings]
    next => rfl
  obtain ⟨hit, hdrop⟩ := s.dropReruns_eq p id
  rw [hdrop]
  clear hdrop
  induction hit generalizing s with
  | nil => rfl
  | cons q hit ih =>
    have hq := hstep h q
    have hreruns : ((s.dropRerunsAt id q).tctxOf n c).reruns = (s.tctxOf n c).reruns := congrArg (fun w => w.2.1) hq
    exact (ih (s := s.dropRerunsAt id q) (by rwa [hreruns])).trans hq

theorem State.live_of_liveAt {s : State} {n serial : Nat} {l : LiveFiring} (h : s.liveAt n serial = some l) : l ∈ s.live (quadOf n) := by
  have hl := List.mem_of_find?_eq_some h
  rw [State.tile, Map.get] at hl
  cases ht : Map.get? s.tiles n with
  | none => simp [ht, Tile.live, Tile.reset] at hl
  | some t =>
    rw [ht] at hl
    obtain ⟨r, hr, hl⟩ := List.mem_flatMap.mp hl
    exact State.mem_live_iff.mpr ⟨_, Map.mem_of_get?_eq_some ht, rfl, r, hr, hl⟩

/-- An abort of a firing with no child, live or owed, leaves its context with the rerun that is owed. -/
theorem State.abort_workings {s : State} {l : LiveFiring} {recover : Bool} (hchild : ∀ g, g ∈ s.live (quadOf l.tile) → isChild l.id g.f = false)
    (hreruns : ∀ r, r ∈ (s.abortedCtx l true recover).reruns → isChild l.id r.firing = false) :
    (s.abort l recover).workings l.tile l.ctx = (s.abortedCtx l true recover).workings := by
  have hone := s.abortOne_workings l true recover
  have hfades := State.Fades.abortOne s l true recover
  have hforks := State.abortForks_of_childless (s := s.abortOne l true recover) (id := l.id) (fun g hg => hchild g (hfades.live _ g hg))
    (s.live (quadOf l.tile)).length
  rw [show s.abort l recover = _ from hforks, State.dropReruns_workings, State.workings, State.dropTasks_tctxOf]
  · exact hone
  · rw [State.dropTasks_tctxOf, show ((s.abortOne l true recover).tctxOf l.tile l.ctx).reruns = _ from congrArg (fun w => w.2.1) hone]
    exact hreruns

/-- The abort of a firing that took one message and nothing else, in a context that owes no rerun: the message is held for the rerun. -/
theorem State.abort_single {s : State} {l : LiveFiring} {m : Msg} (hlive : s.liveAt l.tile l.f.serial = some l)
    (horigin : l.f.origin = { consumed := [(0, m)], pend := none, task := none }) (hpopped : l.f.popped = []) (howed : l.f.owed = [])
    (hreruns : (s.tctxOf l.tile l.ctx).reruns = []) (hothers : ∀ g, g ∈ (s.tctxOf l.tile l.ctx).live 0 0 → g.f.owed = [])
    (hchild : ∀ g, g ∈ s.live (quadOf l.tile) → isChild l.id g.f = false) :
    let x := s.tctxOf l.tile l.ctx
    let tag := (l.f.image.port.extractLsb' 0 12).toNat
    let t := s.abort l false
    (t.entryOf l.tile l.ctx tag).queue = (x.entry tag).queue ∧ (t.tctxOf l.tile l.ctx).returned = [(tag, m)] ∧
    (∀ k : SetId, (x.regs k).fir = some l.f → k ≠ .keeper →
      (t.tctxOf l.tile l.ctx).regs k = { RegSet.reset with owed := (x.regs k).owed ++ (x.regs k).bad }) ∧
    ∃ r, (t.tctxOf l.tile l.ctx).reruns = [r] ∧ r.tag = l.f.tag ∧ r.firing.serial = l.f.serial ∧ r.firing.ts = l.f.ts ∧
      r.firing.wid = l.f.wid ∧ r.firing.actions = [] ∧ r.firing.origin = l.f.origin ∧ r.firing.off = 0 := by
  intro x tag t
  obtain ⟨y, hy⟩ : ∃ y, y = x.removeFiring l.f.serial := ⟨_, rfl⟩
  obtain ⟨r, hr⟩ : ∃ r : Rerun, r = { tag := l.f.tag, rank := (s.tile l.tile).readyCtr, firing := l.f.forRerun false } := ⟨_, rfl⟩
  have hyreruns : y.reruns = [] := by
    rw [hy]
    exact hreruns
  have hctx : s.abortedCtx l true false = { y with reruns := [r] } := by
    simp only [State.abortedCtx, horigin, if_true]
    rw [show x.removeFiring l.f.serial = y from hy.symm, hyreruns, hr]
    rfl
  have hself : isChild l.id (l.f.forRerun false) = false := hchild l (State.live_of_liveAt hlive)
  have hwork : (t.tctxOf l.tile l.ctx).workings = ({ y with reruns := [r] } : TileCtx).workings := by
    rw [← hctx]
    refine State.abort_workings hchild fun q hq => ?_
    rw [hctx] at hq
    rw [List.mem_singleton.mp hq, hr]
    exact hself
  have htag : portTag l.f.image.port 0 = tag := portTag_eq _ 0
  have hyowed : (y.live 0 0).flatMap (fun g => g.f.owed.map (fun q => (portTag g.f.image.port q.1, q.2))) = [] := by
    rw [List.flatMap_eq_nil_iff]
    intro g hg
    rw [hy] at hg
    rw [hothers g (TileCtx.removeFiring_live hg)]
    rfl
  refine ⟨?_, ?_, fun k hf hk => ?_, r, TileCtx.reruns_of_workings hwork, ?_⟩
  · rw [State.entryOf, TileCtx.queue_of_workings hwork, hy]
    rfl
  · have hheld : (r.firing.origin.consumed ++ r.firing.popped).map (fun q => (portTag r.firing.image.port q.1, q.2)) = [(tag, m)] := by
      rw [hr, ← htag]
      simp [Firing.forRerun, horigin, hpopped, howed]
    rw [TileCtx.returned_of_workings hwork, TileCtx.returned]
    simp only [List.flatMap_singleton, hheld]
    exact congrArg ([(tag, m)] ++ ·) hyowed
  · have hregs (z : TileCtx) (q : List Rerun) : ({ z with reruns := q }).regs k = z.regs k := by cases k <;> rfl
    rw [TileCtx.regs_of_firings (TileCtx.firings_of_workings hwork), hregs, hy, TileCtx.removeFiring_regs,
      if_neg (by simp [keepsSerial, x, hf])]
    rfl
  · rw [hr]
    exact ⟨rfl, rfl, rfl, rfl, rfl, rfl, rfl⟩

end Sys2Proof.Machine
end

section
/-! PROOFS. Where the stores of a firing go does not turn on the unit that issues (R328 to R330): the tables are read as they stand in
memory once held updates to them have merged. -/

namespace Sys2Proof.Machine

/-- The state with a set's firing made the running one. -/
def State.onUnit (s : State) (n : Nat) (k : SetId) : State := { s with cur := { tile := n, set := k } }

section
variable (n : Nat) (k : SetId)

theorem State.foldl_onUnit {α : Type} {f : State → α → State} (hf : ∀ t a, f (t.onUnit n k) a = (f t a).onUnit n k) (l : List α) (s : State) :
    l.foldl f (s.onUnit n k) = (l.foldl f s).onUnit n k := by
  induction l generalizing s with
  | nil => rfl
  | cons a l ih => rw [List.foldl_cons, hf, ih, List.foldl_cons]

/-! ## Writes (R111, R365) -/

theorem State.readBytes_onUnit (s : State) (key a m : Nat) : (s.onUnit n k).readBytes key a m = s.readBytes key a m := by
  induction m generalizing a with
  | zero => rfl
  | succ m ih => exact congrArg₂ List.cons (State.readByte_of_stored rfl key a) (ih (a + 1))

theorem State.rekeyLine_onUnit (s : State) (key line : Nat) : (s.onUnit n k).rekeyLine key line = (s.rekeyLine key line).onUnit n k := by
  have hother : (s.onUnit n k).otherKey key (line * 64) = s.otherKey key (line * 64) := rfl
  by_cases h : s.otherKey key (line * 64) = true
  · rw [State.rekeyLine_of_other h, State.rekeyLine_of_other (hother.trans h), State.readBytes_onUnit]
    simp only [State.onUnit]
  · rw [State.rekeyLine_of_own h, State.rekeyLine_of_own (hother ▸ h)]
    simp only [State.onUnit]

theorem State.putBytes_onUnit (s : State) (a : Nat) (bs : List Byte) : (s.onUnit n k).putBytes a bs = (s.putBytes a bs).onUnit n k := by
  have hcleanse (p : Nat → Bool) : (s.onUnit n k).cleanse p = (s.cleanse p).onUnit n k := by
    have hpoison : (s.onUnit n k).poison = s.poison := rfl
    unfold State.cleanse
    rw [hpoison]
    split <;> rfl
  exact congrArg (fun u : State => { u with
    mem := Memory.writeBytes s.mem a bs
    tags := if s.tags.isEmpty then [] else (blocksOf 16 a bs.length).foldl Keys.remove s.tags })
    (hcleanse fun w => decide (a ≤ memPlace w) && decide (memPlace w + codeWordSize w ≤ a + bs.length))

theorem State.writeBytes_onUnit (s : State) (key a : Nat) (bs : List Byte) :
    (s.onUnit n k).writeBytes key a bs = (s.writeBytes key a bs).onUnit n k := by
  have hrekey : (s.onUnit n k).rekey key a bs.length = (s.rekey key a bs.length).onUnit n k := by
    unfold State.rekey
    split
    · exact State.foldl_onUnit n k (fun t l => t.rekeyLine_onUnit n k key (l / 64)) _ s
    · rfl
  unfold State.writeBytes
  split
  · rfl
  · rw [hrekey, State.putBytes_onUnit]

/-! ## Held updates (R212) -/

theorem State.mergeOne_onUnit (s : State) (u : Nat × Nat × Nat × Word) : (s.onUnit n k).mergeOne u = (s.mergeOne u).onUnit n k := by
  unfold State.mergeOne
  extract_lets w
  rw [State.readBytes_onUnit, State.writeBytes_onUnit]

theorem State.mergeTile_onUnit (s : State) (j : Nat) (line : Option Nat) : (s.onUnit n k).mergeTile j line = (s.mergeTile j line).onUnit n k := by
  have htile : (s.onUnit n k).tile j = s.tile j := rfl
  unfold State.mergeTile
  rw [htile]
  extract_lets t go
  split
  · rfl
  · exact State.foldl_onUnit n k (fun t u => t.mergeOne_onUnit n k u) go
      (s.setTile j { t with updates := t.updates.filter (fun u => !inLine line u) })

theorem State.mergeRanges_onUnit (s : State) (rs : List (Nat × Nat)) : (s.onUnit n k).mergeRanges rs = (s.mergeRanges rs).onUnit n k := by
  have hupdaters : (s.onUnit n k).updaters = s.updaters := rfl
  unfold State.mergeRanges
  rw [hupdaters]
  extract_lets ts
  split
  · rfl
  · exact State.foldl_onUnit n k (fun t a => State.foldl_onUnit n k (fun u j => u.mergeTile_onUnit n k j _) ts t) _ s

/-! ## Translation (R328, R329) -/

theorem State.tableEntry_onUnit (s : State) (frame i : Nat) : (s.onUnit n k).tableEntry frame i = s.tableEntry frame i := by
  unfold State.tableEntry
  extract_lets a
  rw [State.mergeRanges_onUnit]
  rfl

theorem State.walk_onUnit (s : State) (info : RegInfo) (va : Nat) : (s.onUnit n k).walk info va = s.walk info va := by
  have hnonLeaf (e : Nat) : (s.onUnit n k).badNonLeaf info.tenant e = s.badNonLeaf info.tenant e := rfl
  have hleaf (block : Bool) (e : Nat) : (s.onUnit n k).badLeaf info.tenant info.secure block e = s.badLeaf info.tenant info.secure block e := rfl
  simp only [State.walk, State.tableEntry_onUnit, hnonLeaf, hleaf]

theorem State.translate_onUnit (s : State) (info : RegInfo) (va : Nat) (w : Want) : (s.onUnit n k).translate info va w = s.translate info va w := by
  unfold State.translate
  rw [State.walk_onUnit]
  rfl

theorem State.translateAll_onUnit (s : State) (info : RegInfo) (w : Want) (ps : List (Nat × Nat)) :
    (s.onUnit n k).translateAll info w ps = s.translateAll info w ps := by
  induction ps with
  | nil => rfl
  | cons q ps ih => rw [State.translateAll, State.translateAll, State.translate_onUnit, ih]

/-- Every page of a firing's stores translates for whichever unit issues. -/
theorem State.storesReach_onUnit (s : State) (ctx : Nat) (as : List Action) : (s.onUnit n k).storesReach ctx as = s.storesReach ctx as := by
  have hkeys (va m : Nat) : (s.onUnit n k).storeKeys ctx va m = s.storeKeys ctx va m := by
    have hinfo : (s.onUnit n k).info ctx = s.info ctx := rfl
    rw [State.storeKeys, State.storeKeys, hinfo, State.translateAll_onUnit]
  simp only [State.storesReach, hkeys]

end

end Sys2Proof.Machine
end

section
/-! PROOFS. Pins (R192), terminal faults (R267) and the horizon (R185, R186). -/

namespace Sys2Proof.Machine

/-! ## Pins (R192) -/

theorem State.onUnit_ctxn {s : State} {n c : Nat} (hloaded : (s.tile n).loaded = some c) (k : SetId) : (s.onUnit n k).ctxn = c := by
  change (match (s.tile n).loaded with | some c => c | none => 0) = c
  rw [hloaded]

section
variable {s : State} {n c : Nat} {k : SetId} {f : Firing} (hk : k ≠ .keeper) (hloaded : (s.tile n).loaded = some c)
include hk hloaded

theorem State.regOf_of_loaded : s.regOf n k = (s.tctxOf n c).regs k := by
  unfold State.regOf
  split
  · contradiction
  · simp only [hloaded]

theorem State.onUnit_reg : (s.onUnit n k).reg = s.regOf n k := by
  rw [State.reg_of_live hk, State.tctx, State.onUnit_ctxn hloaded, State.regOf_of_loaded hk hloaded]
  rfl

variable (hf : (s.regOf n k).fir = some f)
include hf

theorem State.onUnit_fir : (s.onUnit n k).fir = some f := by rw [State.fir, State.onUnit_reg hk hloaded, hf]

theorem pin_of_pinned (hp : f.pinned = true) : execPin n k s = .next s := by
  have hpin : (s.onUnit n k).tryPin = .pinned (s.onUnit n k) := by
    simp only [State.tryPin, State.onUnit_fir hk hloaded hf, hp, if_true]
  rw [State.onUnit] at hpin
  simp only [execPin, State.onSet, hpin]

/-- A pin whose commit meets no reader performs the buffer, and the firing goes on pinned. -/
theorem pin_commits (hp : f.pinned = false) (hmay : s.mayPin n f = true) (hpair : s.partner n = none)
    (hclean : s.taskPoison { tile := n, ctx := c, place := .set k, f := f } = none)
    (hreaders : s.readers (quadOf n) (s.info c).asid { tile := n, serial := f.serial } (writeLines f.actions) = [])
    (hreach : s.storesReach c f.actions = true) : ∃ t, execPin n k s = .next t ∧ t.cur = s.cur ∧
      t.regOf n k = { s.regOf n k with fir := some { f with pinned := true, actions := [], reads := [] } } ∧
      t.mem = ((s.onUnit n k).performAll n c f.actions).mem := by
  obtain ⟨u, hu⟩ : ∃ u, u = s.onUnit n k := ⟨_, rfl⟩
  obtain ⟨l, hl⟩ : ∃ l : LiveFiring, l = { tile := n, ctx := c, place := .set k, f := f } := ⟨_, rfl⟩
  have hself : u.self f = l := by
    rw [hu, State.self, State.onUnit_ctxn hloaded, hl]
    rfl
  have hcommit : u.commitBuffer l = ((u.performAll n c f.actions).raiseFloor (quadOf n) f.ts, true) := by
    subst hl
    refine State.commitBuffer_unread (by rw [hu]; exact hclean) (by rw [hu]; exact hreaders) ?_
    rw [hu, State.storesReach_onUnit]
    exact hreach
  obtain ⟨v, hv⟩ : ∃ v, v = (u.performAll n c f.actions).raiseFloor (quadOf n) f.ts := ⟨_, rfl⟩
  obtain ⟨g, hg⟩ : ∃ g : Firing, g = { f with pinned := true, actions := [], reads := [] } := ⟨_, rfl⟩
  have hroster : v.roster = u.roster := by
    rw [hv]
    exact (State.roster_of_floorplan rfl).trans (u.performAll_roster n c f.actions)
  obtain ⟨hcur, hctxn⟩ := State.cur_ctxn_of_seats (State.seats_of_roster hroster)
  have hucur : u.cur = { tile := n, set := k } := by rw [hu]; rfl
  have huctxn : u.ctxn = c := by rw [hu, State.onUnit_ctxn hloaded]
  have hpin : u.tryPin = .pinned ((v.setFir g).settleCopies (v.setFir g).cur.tile (v.setFir g).ctxn
      { tile := (v.setFir g).cur.tile, serial := f.serial } .settled false) := by
    have hufir : u.fir = some f := by rw [hu, State.onUnit_fir hk hloaded hf]
    have humay : u.mayPin u.cur.tile f = true := by
      rw [hucur, hu]
      exact hmay
    have hupair : u.partner l.tile = none := by
      rw [hl, hu]
      exact hpair
    simp only [State.tryPin, hufir, hp, humay, Bool.not_true, Bool.false_eq_true, if_false, hself, State.comparePair_of_none hupair, hcommit,
      hv, hg]
  obtain ⟨t, ht⟩ : ∃ t, t = (v.setFir g).settleCopies (v.setFir g).cur.tile (v.setFir g).ctxn
      { tile := (v.setFir g).cur.tile, serial := f.serial } .settled false := ⟨_, rfl⟩
  refine ⟨{ t with cur := s.cur }, ?_, rfl, ?_, ?_⟩
  · rw [hu, State.onUnit] at hpin
    simp only [execPin, State.onSet, hpin, ht]
  · have hvctx : v.tctx.regs k = s.regOf n k := by
      rw [State.tctx, hctxn, hcur, hucur, huctxn]
      refine (TileCtx.regs_of_firings (congrFun (congrFun (State.firings_of_roster hroster) n) c) k).trans ?_
      rw [hu, State.regOf_of_loaded hk hloaded]
      rfl
    have hvreg : v.reg = s.regOf n k := by
      rw [State.reg_of_live (by rw [hcur, hucur]; exact hk), hcur, hucur, hvctx]
    have htroster : t.roster = (v.setFir g).roster := by
      rw [ht, State.settleCopies_roster]
    have hset : v.setFir g = v.setTctxOf n c (v.tctx.setRegs k { s.regOf n k with fir := some g }) := by
      rw [State.setFir, State.setReg_live _ _ (by rw [hcur, hucur]; exact hk), hvreg, State.setTctx, hctxn, hcur, hucur, huctxn]
    have htloaded : (t.tile n).loaded = some c := by
      have hseats : t.seats = u.seats := (State.seats_of_roster htroster).trans (by
        rw [hset, State.setTctxOf_seats, State.seats_of_roster hroster])
      refine (congrFun (congrArg Prod.snd hseats) n).trans ?_
      rw [hu]
      exact hloaded
    have hregs : (t.tctxOf n c).regs k = { s.regOf n k with fir := some g } := by
      rw [TileCtx.regs_of_firings (congrFun (congrFun (State.firings_of_roster htroster) n) c), hset, State.tctxOf_setTctxOf, TileCtx.regs_setRegs]
    rw [← hg]
    exact (State.regOf_of_loaded (s := { t with cur := s.cur }) hk htloaded).trans hregs
  · change t.mem = _
    rw [ht, State.settleCopies_mem, State.setFir_mem, hv, State.raiseFloor_mem, hu]

end

/-! ## Terminal faults (R267) -/

/-- The tiles, and the launches that are under way. -/
def State.underway (s : State) : Map Tile × Map Launch := (s.tiles, s.launches)

theorem State.sendBytes_underway (s : State) (ch : Nat) (bs : List Byte) : (s.sendBytes ch bs).underway = s.underway := by
  refine foldl_keeps State.underway _ _ s fun t q => ?_
  unfold State.sendChunk
  extract_lets c addr s1 s2
  split
  · rfl
  · split <;> rfl

theorem State.postError_underway (s : State) (ctx : Option Nat) (r : ErrRec) : (s.postError ctx r).underway = s.underway := by
  have hring (q : ErrRec) : (s.ringPost q).underway = s.underway := by
    unfold State.ringPost
    split <;> rfl
  unfold State.postError
  split
  · exact hring r
  · extract_lets i
    split
    · refine Eq.trans ?_ (hring (r.short i.handle))
      unfold State.fullRecord
      split
      · exact State.sendBytes_underway ..
      · split <;> rfl
    · exact hring r

theorem State.recordFault_underway (s : State) (l : LiveFiring) (code : BitVec 16) : (s.recordFault l code).underway = s.underway := by
  unfold State.recordFault
  split
  · rfl
  · exact State.postError_underway ..

theorem State.wake_tctxOf (s : State) (j n c : Nat) : (s.wake j).tctxOf n c = s.tctxOf n c := by
  refine State.tctxOf_setTile ?_ n c
  rfl

theorem State.Fades.wake (s : State) (j : Nat) : s.Fades (s.wake j) := by
  refine State.Fades.setTile ?_
  rfl

theorem State.rankReady_launches (s : State) (n c : Nat) : (s.rankReady n c).launches = s.launches := by
  obtain ⟨es, ctr, h, -⟩ := s.rankReady_spec n c
  rw [h]
  rfl

/-- The firing's context as its termination finds it. -/
def State.beforeEnd (s : State) (l : LiveFiring) (code : BitVec 16) : State :=
  ((s.recordFault l code).wake l.tile).note l.tile l.ctx l.f .ended

section
variable (s : State) (l : LiveFiring) (code : BitVec 16)

theorem State.beforeEnd_launches : (s.beforeEnd l code).launches = s.launches := by
  have hnote (t : State) : (t.note l.tile l.ctx l.f .ended).launches = t.launches := by
    unfold State.note
    split <;> rfl
  exact (hnote _).trans (congrArg Prod.snd (s.recordFault_underway l code))

theorem State.beforeEnd_tctxOf (n c : Nat) : (s.beforeEnd l code).tctxOf n c = s.tctxOf n c := by
  rw [State.beforeEnd, State.tctxOf_of_tiles (State.note_tiles ..), State.wake_tctxOf,
    State.tctxOf_of_tiles (congrArg Prod.fst (s.recordFault_underway l code))]

theorem State.Fades.beforeEnd : s.Fades (s.beforeEnd l code) :=
  ((State.Fades.of_tiles (congrArg Prod.fst (s.recordFault_underway l code))).trans (State.Fades.wake ..)).trans
    (State.Fades.of_tiles (State.note_tiles ..))

/-- The state once the firing is out of its place, its messages back in their queues. -/
def State.endedBy : State :=
  ((s.beforeEnd l code).setTctxOf l.tile l.ctx ((((s.beforeEnd l code).tctxOf l.tile l.ctx).removeFiring l.f.serial).requeue l.f
    l.f.owed)).rankReady l.tile l.ctx

theorem State.endedBy_firings : (s.endedBy l code).firings l.tile l.ctx = ((s.tctxOf l.tile l.ctx).removeFiring l.f.serial).firings := by
  rw [State.endedBy, State.rankReady_firings, State.firings, State.tctxOf_setTctxOf, TileCtx.requeue_firings, State.beforeEnd_tctxOf]

theorem State.Fades.endedBy : s.Fades (s.endedBy l code) := by
  refine ((State.Fades.beforeEnd s l code).trans (State.Fades.setTctxOf fun j d g hg => ?_)).trans (State.Fades.rankReady ..)
  rw [TileCtx.live_of_firings (TileCtx.requeue_firings ..)] at hg
  exact TileCtx.removeFiring_live hg

theorem State.endedBy_launches : (s.endedBy l code).launches = s.launches := by
  rw [State.endedBy, State.rankReady_launches, State.setTctxOf_launches, State.beforeEnd_launches]

end

theorem State.dropTasks_launches (s : State) (id : FiringId) : (s.dropTasks id).launches = s.launches := rfl

theorem State.dropReruns_launches (s : State) (p : Nat) (id : FiringId) : (s.dropReruns p id).launches = s.launches := by
  obtain ⟨hit, h⟩ := s.dropReruns_eq p id
  rw [h]
  exact foldl_keeps State.launches _ hit s fun t q => (State.rankReady_launches ..).trans (State.setTctxOf_launches ..)

theorem State.settleCopies_launches (s : State) (n ctx : Nat) (id : FiringId) (fate : PushFate) (detach : Bool) :
    (s.settleCopies n ctx id fate detach).launches = s.launches := by
  unfold State.settleCopies
  extract_lets t s1 x mine s2
  split
  · refine (foldl_keeps State.launches _ mine s2 ?_).trans rfl
    exact fun u q => rfl
  · rfl

/-- A dispatch stream that goes on keeps its launch's code. -/
theorem State.streamEnded_term {s : State} {j : Nat} {q : Launch} (h : Map.get? s.launches j = some q) (f : Firing) :
    ∃ q', Map.get? (s.streamEnded f).launches j = some q' ∧ q'.term = q.term := by
  unfold State.streamEnded
  generalize f.taken.filter (fun m => m.knd == 2) = ms
  induction ms generalizing s q with
  | nil => exact ⟨q, h, rfl⟩
  | cons m ms ih =>
    rw [List.foldl_cons]
    split
    next k hslot =>
      split
      next l hl =>
        by_cases hjk : j = k
        · subst hjk
          obtain rfl : q = l := Option.some.inj (h.symm.trans hl)
          exact ih (s := { s with launches := Map.set s.launches j (q.goesOn m.wid.toNat) }) (q := q.goesOn m.wid.toNat) (Map.get?_set_same ..)
        · exact ih (s := { s with launches := Map.set s.launches k (l.goesOn m.wid.toNat) }) ((Map.get?_set_other _ _ _ _ hjk).trans h)
      next => exact ih h
    next => exact ih h

theorem State.freeGroups_launches (s : State) : s.freeGroups.launches = s.launches := rfl

/-- The state before the code is recorded against the launch slot. -/
def State.terminated (s : State) (l : LiveFiring) (code : BitVec 16) : State :=
  (((State.abortForks (s.generations (quadOf l.tile)) (s.endedBy l code) l.id).settleCopies l.tile l.ctx l.id .settled true).streamEnded
    l.f).freeGroups

/-- A launch with a code recorded, unless it has one. -/
def Launch.recordTerm (q : Launch) (code : BitVec 16) : Launch := { q with term := q.term <|> some code }

theorem State.terminateFiring_eq (s : State) (l : LiveFiring) (code : BitVec 16) : s.terminateFiring l code =
    match l.f.slot with
    | some k =>
      (match Map.get? (s.terminated l code).launches k with
        | some q => { s.terminated l code with launches := Map.set (s.terminated l code).launches k (q.recordTerm code) }
        | none => s.terminated l code)
    | none => s.terminated l code := rfl

section
variable {s : State} {l : LiveFiring} (hchild : ∀ g, g ∈ s.live (quadOf l.tile) → isChild l.id g.f = false) (code : BitVec 16)
include hchild

theorem State.terminated_forks : State.abortForks (s.generations (quadOf l.tile)) (s.endedBy l code) l.id =
    ((s.endedBy l code).dropTasks l.id).dropReruns (quadOf l.tile) l.id :=
  State.abortForks_of_childless (fun g hg => hchild g ((State.Fades.endedBy s l code).live _ g hg)) _

theorem State.terminated_firings :
    (s.terminated l code).firings l.tile l.ctx = ((s.tctxOf l.tile l.ctx).removeFiring l.f.serial).firings := by
  rw [State.terminated, State.freeGroups_firings, State.streamEnded_firings, State.firings_of_roster (State.settleCopies_roster ..),
    State.terminated_forks hchild, State.firings_of_roster (State.dropReruns_roster ..), State.firings, State.dropTasks_tctxOf]
  exact s.endedBy_firings l code

theorem State.terminated_term {j : Nat} {q : Launch} (h : Map.get? s.launches j = some q) :
    ∃ q', Map.get? (s.terminated l code).launches j = some q' ∧ q'.term = q.term := by
  have hlaunches : ((State.abortForks (s.generations (quadOf l.tile)) (s.endedBy l code) l.id).settleCopies l.tile l.ctx l.id .settled
      true).launches = s.launches := by
    rw [State.settleCopies_launches, State.terminated_forks hchild, State.dropReruns_launches, State.dropTasks_launches, State.endedBy_launches]
  rw [← hlaunches] at h
  rw [State.terminated, State.freeGroups_launches]
  exact State.streamEnded_term h l.f

theorem State.terminateFiring_firings :
    (s.terminateFiring l code).firings l.tile l.ctx = ((s.tctxOf l.tile l.ctx).removeFiring l.f.serial).firings := by
  refine Eq.trans ?_ (State.terminated_firings hchild code)
  rw [State.terminateFiring_eq]
  split
  · split <;> rfl
  · rfl

/-- The launch of a terminated firing has a code: its own if it has one, and else the firing's. -/
theorem State.terminateFiring_launch {j : Nat} {q : Launch} (hslot : l.f.slot = some j) (h : Map.get? s.launches j = some q) :
    ∃ q' : Launch, Map.get? (s.terminateFiring l code).launches j = some q' ∧
      q'.term = match q.term with | some e => some e | none => some code := by
  obtain ⟨q', hq', hterm⟩ := State.terminated_term hchild code h
  refine ⟨q'.recordTerm code, ?_, ?_⟩
  · simp only [State.terminateFiring_eq, hslot, hq']
    exact Map.get?_set_same ..
  · rw [Launch.recordTerm, hterm]
    cases q.term <;> rfl

end

theorem terminate_ends {s : State} {n c : Nat} {k : SetId} {f : Firing} {code : BitVec 16} (hk : k ≠ .keeper)
    (hloaded : (s.tile n).loaded = some c) (hf : (s.regOf n k).fir = some f) (hterm : f.term = some code)
    (hmay : f.pinned = true ∨ s.mayPin n f = true)
    (hchild : ∀ g, g ∈ s.live (quadOf n) → isChild { tile := n, serial := f.serial } g.f = false) :
    ∃ t, execTerminate n k s = .next t ∧ t.mem = s.mem ∧
      (t.tctxOf n c).regs k = { RegSet.reset with owed := (s.regOf n k).owed ++ (s.regOf n k).bad } ∧
      ∀ j q, f.slot = some j → Map.get? s.launches j = some q → ∃ q' : Launch, Map.get? t.launches j = some q' ∧
        q'.term = match q.term with | some e => some e | none => some code := by
  rw [State.regOf_of_loaded hk hloaded] at hf ⊢
  obtain ⟨l, hl⟩ : ∃ l : LiveFiring, l = { tile := n, ctx := c, place := .set k, f := f } := ⟨_, rfl⟩
  have hrun : execTerminate n k s = .next (s.terminateFiring l code) := by
    have hends : s.mayTerminate l = true := by
      rw [hl, State.mayTerminate, Bool.or_eq_true]
      exact hmay
    simp only [execTerminate, hloaded, hf, hterm, ← hl, hends, if_true]
  have hchild' : ∀ g, g ∈ s.live (quadOf l.tile) → isChild l.id g.f = false := by
    rw [hl]
    exact hchild
  refine ⟨_, hrun, s.terminateFiring_mem l code, ?_, fun j q hslot => State.terminateFiring_launch hchild' code (by rw [hl]; exact hslot)⟩
  have hfirings := State.terminateFiring_firings hchild' code
  rw [hl] at hfirings ⊢
  rw [TileCtx.regs_of_firings hfirings, TileCtx.removeFiring_regs, if_neg (by simp [keepsSerial, hf])]
  rfl

/-! ## The horizon (R185, R186) -/

theorem horizonUpdate_spreads (s : State) (p : Nat) : ∃ t, execHorizonUpdate p s = .next t ∧ t.mem = s.mem ∧
    (∀ n x, Map.get? s.tiles n = some x → (t.tile n).horizon = if quadOf n = p then s.horizon p else x.horizon) ∧
    (t.part p).floor = if s.contributors p = [] then 0 else (s.part p).floor := by
  obtain ⟨u, hu⟩ : ∃ u : State, u = { s with
    tiles := Map.mapKV (fun n t => if quadOf n = p then { t with horizon := s.horizon p } else t) s.tiles } :=
    ⟨_, rfl⟩
  have htile {n : Nat} {x : Tile} (hx : Map.get? s.tiles n = some x) : (u.tile n).horizon = if quadOf n = p then s.horizon p else x.horizon := by
    rw [hu]
    simp only [State.tile, Map.get, Map.get?_mapKV, hx, Option.map_some]
    split <;> rfl
  by_cases hnone : s.contributors p = []
  · refine ⟨u.setPart p { u.part p with floor := 0 }, ?_, by rw [hu]; rfl, fun n x hx => htile hx, ?_⟩
    · simp only [execHorizonUpdate, hnone, List.isEmpty_nil, if_true, ← hu]
    · rw [if_pos hnone]
      simp [State.part, State.setPart]
  · refine ⟨u, ?_, by rw [hu], fun n x hx => htile hx, ?_⟩
    · simp only [execHorizonUpdate, List.isEmpty_iff, hnone, if_false, ← hu]
    · rw [if_neg hnone, hu]
      rfl

end Sys2Proof.Machine
end

section
/-! PROOFS. Commits (R187, R188, R381, R388): what one performs and leaves, and what aborts or ends its firing. -/

namespace Sys2Proof.Machine

/-- The readers that a commit of a firing's buffer meets (R188). -/
def State.commitReaders (s : State) (l : LiveFiring) : List LiveFiring :=
  s.readers (quadOf l.tile) (s.info l.ctx).asid l.id (writeLines l.f.actions)

theorem State.live_of_commitReaders {s : State} {l g : LiveFiring} (h : g ∈ s.commitReaders l) : g ∈ s.live (quadOf l.tile) := by
  unfold State.commitReaders State.readers at h
  split at h
  · cases h
  · exact (List.mem_filter.mp h).1

/-- A set that has no firing has none once a firing of its context has committed. -/
theorem State.afterCommit_fir_none {s : State} {l : LiveFiring} {j d : Nat} {k : SetId} (h : ((s.tctxOf j d).regs k).fir = none) :
    (((s.afterCommit l).tctxOf j d).regs k).fir = none := by
  have hfirings := s.afterCommit_firings l j d
  split at hfirings
  next hjd =>
    obtain ⟨rfl, rfl⟩ := hjd
    rw [TileCtx.regs_of_firings hfirings, TileCtx.removeFiring_regs]
    split
    · exact h
    · rfl
  next => rw [TileCtx.regs_of_firings hfirings, h]

section
variable {s : State} {l : LiveFiring} (hlive : s.liveAt l.tile l.f.serial = some l) (hmay : s.mayCommit l = true)
include hlive hmay

theorem commit_terminates {code : BitVec 16} (hterm : l.f.term = some code) :
    execCommit l.tile l.f.serial s = .next (s.terminateFiring l code) := by
  simp only [execCommit, hlive, hmay, hterm, if_true]

variable (hpair : s.partner l.tile = none) (hterm : l.f.term = none)
include hpair hterm

theorem commit_poisoned {key : Nat} (hpoison : s.taskPoison l = some key) :
    execCommit l.tile l.f.serial s = .next (s.rerunFor l (addrOf key) key) := by
  rw [commit_of_live hlive hmay hterm]
  exact congrArg _ (State.commitFiring_aborts hpair (State.commitBuffer_poison hpoison))

variable (hclean : s.taskPoison l = none)
include hclean

theorem commit_aborts (h : (∃ g, g ∈ s.commitReaders l ∧ g.f.earlier l.f = true) ∨ s.storesReach l.ctx l.f.actions = false) :
    execCommit l.tile l.f.serial s = .next (s.abort l false) := by
  rw [commit_of_live hlive hmay hterm]
  exact congrArg _ (State.commitFiring_aborts hpair (State.commitBuffer_aborts hclean h))

/-- The readers are aborted, the buffer performed, the floor raised and the firing gone. -/
theorem commit_performs (hlater : ∀ g, g ∈ s.commitReaders l → g.f.earlier l.f = false) (hreach : s.storesReach l.ctx l.f.actions = true) :
    let v := s.abortReaders (quadOf l.tile) (s.commitReaders l)
    let u := v.performAll l.tile l.ctx l.f.actions
    ∃ t, execCommit l.tile l.f.serial s = .next t ∧ t.mem = u.mem ∧ t.tags = u.tags ∧
      (t.part (quadOf l.tile)).floor = max (u.part (quadOf l.tile)).floor l.f.ts ∧
      (t.tctxOf l.tile l.ctx).ended = (u.tctxOf l.tile l.ctx).ended.filter (fun f => f.serial != l.f.serial) ∧
      ((s.live (quadOf l.tile)).Pairwise (fun a b => a.id.same b.id = false) → ∀ g k, g ∈ s.commitReaders l → k ≠ .keeper →
        ((s.tctxOf g.tile g.ctx).regs k).fir = some g.f → ((t.tctxOf g.tile g.ctx).regs k).fir = none) := by
  intro v u
  obtain ⟨w, hw⟩ : ∃ w, w = u.raiseFloor (quadOf l.tile) l.f.ts := ⟨_, rfl⟩
  have hrun : execCommit l.tile l.f.serial s = .next (w.afterCommit l) := by
    rw [commit_of_live hlive hmay hterm, hw]
    exact congrArg _ (State.commitFiring_commits hpair (State.commitBuffer_performs hclean hlater hreach))
  obtain ⟨hmem, hdomain⟩ := w.afterCommit_kept l
  have hwtctx (j d : Nat) : w.tctxOf j d = u.tctxOf j d := by
    rw [hw]
    rfl
  refine ⟨_, hrun, ?_, ?_, ?_, ?_, fun hdistinct g k hg hk hf => State.afterCommit_fir_none ?_⟩
  · rw [hmem, hw, State.raiseFloor_mem]
  · have htags := congrArg Prod.fst hdomain
    exact htags.trans (by rw [hw]; rfl)
  · have hparts : (w.afterCommit l).parts = w.parts := congrArg Prod.snd hdomain
    rw [State.part, hparts, hw]
    exact congrArg Partition.floor (Map.get_set_same ..)
  · have hfirings := w.afterCommit_firings l l.tile l.ctx
    rw [if_pos ⟨rfl, rfl⟩, hwtctx] at hfirings
    exact TileCtx.ended_of_firings hfirings
  · have hgone := State.abortReaders_frees hdistinct (State.live_of_commitReaders hg) hk hf (State.Fades.refl s) hg
    rw [hwtctx, TileCtx.regs_of_firings (congrFun (congrFun (State.firings_of_roster (v.performAll_roster l.tile l.ctx l.f.actions)) g.tile) g.ctx)]
    exact hgone

end

theorem abort_speculative {s : State} {l : LiveFiring} (hlive : s.liveAt l.tile l.f.serial = some l) (hp : l.f.pinned = false) :
    execAbort l.tile l.f.serial s = .next (s.abort l false) := by
  simp only [execAbort, hlive, hp, Bool.false_eq_true, if_false]

end Sys2Proof.Machine

open Sys2Proof Sys2Proof.Machine in
/-- Settles O48: the stores by what they leave in memory; commits, aborts, pins and terminations by what they leave of the firings live. -/
theorem commitsAndAborts : Obligations.CommitsAndAborts := by
  unfold Obligations.CommitsAndAborts
  refine ⟨storesLand, fun s l hlive => ?_, fun s n c k f hk hloaded hf => ?_, horizonUpdate_spreads⟩
  · refine ⟨fun hmay hpair hterm => ?_, fun code hmay hterm => commit_terminates hlive hmay hterm, fun hp =>
      ⟨abort_speculative hlive hp, fun m => ⟨s.abort_mem l false, fun horigin hpopped howed hreruns hothers hchild =>
        State.abort_single hlive horigin hpopped howed hreruns hothers hchild⟩⟩⟩
    refine ⟨fun hclean hlater hreach => ⟨fun hnone => ?_, s.abortReaders_mem _ _, commit_performs hlive hmay hpair hterm hclean hlater hreach⟩,
      fun key hpoison => commit_poisoned hlive hmay hpair hterm hpoison, fun hclean h => commit_aborts hlive hmay hpair hterm hclean h⟩
    rw [hnone]
    rfl
  · exact ⟨pin_commits hk hloaded hf, pin_of_pinned hk hloaded hf, fun code hterm hmay hchild => terminate_ends hk hloaded hf hterm hmay hchild⟩
end
